-- ==== Sys2Proof/Word.lean ====
section
/-! DEFINITION. The word types of the Kazund and the closed sets of names that instruction words and events carry:
operands (R24), guards (R31), types (R67), rounding modes (R45), conditions (R74), atomic codes (R75), scopes and orders
(R68), completion targets (R69), completion statuses (R173), and the arguments of the steps of agents other than seats. -/

namespace Sys2Proof

/-- A 64-bit register, frame word or instruction word (R23, R63). -/
abbrev Word := BitVec 64

/-- The least addressable unit of memory (R3). -/
abbrev Byte := BitVec 8

/-- A sparse table: keys rising, an unlisted key reads as the table's default. -/
abbrev Table (α : Type) := List (Nat × α)

/-- What one 8-bit operand specifier names (R24). -/
inductive Operand where
  | w (n : Fin 64)
  | v (n : Fin 32)
  | k (n : Fin 8)
  | zr
  | fp
  | ltn
  | core
  | seat
  | ctx
  | cyc
  | sig
  | lr
  | f (n : Fin 120)
  deriving DecidableEq, Repr

/-- The class an operand position accepts (R25, and the operand rules of each instruction). -/
inductive Cls where
  /-- w, zr, the read-only specials, lr and f words -/
  | scalar
  /-- a scalar position of a vector instruction: no f word (R115) -/
  | scalarNoFrame
  | vector
  | mask
  /-- CMP, FCMP, SEL and MOV positions (R103) -/
  | scalarOrMask
  /-- a frame word only (R170, R217) -/
  | frame
  /-- a frame word of even index (GATOM .cas with a slot target, R222) -/
  | evenFrame
  /-- an even w register (SATOM .cas, GATOM .cas with a register target) -/
  | evenW
  /-- zr only (R173, R217, R312) -/
  | zrOnly
  deriving DecidableEq, Repr

/-- How an instruction uses an operand position. -/
inductive Role where
  | src
  | dst
  | both
  deriving DecidableEq, Repr

/-- One operand position of an instruction: its class, its role and what it names. -/
structure Use where
  cls : Cls
  role : Role
  op : Operand
  deriving DecidableEq, Repr

/-- The guard of bits [51:48] (R31). -/
structure Guard where
  neg : Bool
  k : Fin 8
  deriving DecidableEq, Repr

/-- How an instruction uses its guard (R114, R312). -/
inductive GuardUse where
  /-- bit 0 of the mask decides -/
  | scalar
  /-- bits below n are a lane mask -/
  | lanes (n : Nat)
  deriving DecidableEq, Repr

/-- Element types, in the order of their codes 0 to 19 (R67). -/
inductive Ty where
  | s64 | s32 | s16 | s8 | s4
  | z64 | z32 | z16 | z8 | z4
  | f64 | f32 | f16 | bf16 | e5m2 | e4m3 | e3m2 | e2m3 | e2m1 | e8m0
  deriving DecidableEq, Repr

/-- Rounding modes without a random operand (R45). -/
inductive RM where
  | rne | rtz | rup | rdn
  deriving DecidableEq, Repr

/-- A rounding mode, with the operand that supplies the random bits of SR (R45, R66). -/
inductive Rounding where
  | rm (m : RM)
  | sr (r : Operand)
  deriving DecidableEq, Repr

/-- Conditions 0 to 6 (R74). -/
inductive Cond where
  | eq | ne | lt | le | gt | ge | un
  deriving DecidableEq, Repr

/-- Conditions of CMPI: 0 to 5 and 10 to 13 (R74). -/
inductive CondI where
  | eq | ne | lt | le | gt | ge | ltu | leu | gtu | geu
  deriving DecidableEq, Repr

/-- Atomic operation codes 0 to 10 (R75). -/
inductive AtomOp where
  | swap | cas | add | and | or | xor | min | max | minu | maxu | fadd
  deriving DecidableEq, Repr

/-- Reduction operations of VRED, VSCAN and ARED (R73). -/
inductive RedOp where
  | add | min | max | and | or | xor
  deriving DecidableEq, Repr

/-- Mask operations of KOP (R119). -/
inductive MaskOp where
  | and | or | xor | andn | orn | not | mov
  deriving DecidableEq, Repr

/-- SCOPE codes 0 to 5 (R68). -/
inductive Scope where
  | frame | core | tile | die | package | pod
  deriving DecidableEq, Repr

/-- ORDER codes (R68). -/
inductive MemOrder where
  | relaxed | acquire | release | acqRel
  deriving DecidableEq, Repr

/-- A completion target (R69). -/
inductive Target where
  | slot (n : Fin 8)
  | nothing
  | reg (n : Fin 64)
  deriving DecidableEq, Repr

/-- Completion status codes 0 to 7 (R173). -/
inductive Status where
  | ok | poison | fault | doubleWrite | deadlock | refused | overflow | cancelled
  deriving DecidableEq, Repr

/-- Kinds of CHSEND and CHSENDM (R255). -/
inductive SendKind where
  | words | spad
  deriving DecidableEq, Repr

/-- Kinds of CHRECV (R255). -/
inductive RecvKind where
  | words | spad | latch
  deriving DecidableEq, Repr

/-- Kinds of PHACC (R311). -/
inductive AccKind where
  | add | f32 | f64 | xacc
  deriving DecidableEq, Repr

/-- Destinations of a drain (R276). -/
inductive DrainKind where
  | spad | chan | steer
  deriving DecidableEq, Repr

/-- Forms of FRES (R379). -/
inductive FresKind where
  | retry | skip | kill
  deriving DecidableEq, Repr

/-- Forms of TLBI (R380). -/
inductive TlbiKind where
  | page | ctx | all
  deriving DecidableEq, Repr

/-- What an inbound UALink request asks (R401). -/
inductive InboundKind where
  | read
  | write (data : List Byte)
  | atomic (op : AtomOp) (v cmp : Word)
  deriving DecidableEq, Repr

/-- The links of R420. -/
inductive Link where
  | torus (n : Nat)
  | port (p : Nat)
  | courier
  deriving DecidableEq, Repr

/-- How a retraining ends (R421). -/
inductive Retrain where
  | recovered
  | lane
  | failed
  deriving DecidableEq, Repr

/-- One sample of Hallmark's sensors (R436, R437). -/
structure Sensors where
  dieTemp : List Nat
  hbmTemp : List Nat
  powerMw : Nat
  deriving DecidableEq, Repr

/-- Algorithms of SPDM (R433): those that the responder has, and any other. -/
inductive Algorithm where
  | ecdsaP384
  | sha384
  | ecdheP384
  | aes256Gcm
  | other (n : Nat)
  deriving DecidableEq, Repr

/-- What the responder has (R433). -/
def Algorithm.supported : List Algorithm := [.ecdsaP384, .sha384, .ecdheP384, .aes256Gcm]

/-- What a patrol finds in a granule (R417). -/
inductive PatrolFind where
  | clean
  | corrected
  | uncorrectable
  deriving DecidableEq, Repr

/-- Width in bits of an element type (R67). -/
def Ty.width : Ty → Nat
  | .s64 | .z64 | .f64 => 64
  | .s32 | .z32 | .f32 => 32
  | .s16 | .z16 | .f16 | .bf16 => 16
  | .s8 | .z8 | .e5m2 | .e4m3 | .e8m0 => 8
  | .e3m2 | .e2m3 => 6
  | .s4 | .z4 | .e2m1 => 4

/-- Signed integer types (R38). -/
def Ty.signed : Ty → Bool
  | .s64 | .s32 | .s16 | .s8 | .s4 => true
  | _ => false

/-- Integer types. -/
def Ty.isInt : Ty → Bool
  | .s64 | .s32 | .s16 | .s8 | .s4 | .z64 | .z32 | .z16 | .z8 | .z4 => true
  | _ => false

/-- Set I of R67: integers of 8 to 64 bits. -/
def Ty.inI : Ty → Bool
  | .s64 | .s32 | .s16 | .s8 | .z64 | .z32 | .z16 | .z8 => true
  | _ => false

/-- Set F of R67. -/
def Ty.inF : Ty → Bool
  | .f64 | .f32 | .f16 | .bf16 => true
  | _ => false

/-- Set W of R67: every type of 8, 16, 32 or 64 bits. -/
def Ty.inW : Ty → Bool
  | .s4 | .z4 | .e3m2 | .e2m3 | .e2m1 => false
  | _ => true

/-- Set D8 of R67: inputs of VDOT. -/
def Ty.inD8 : Ty → Bool
  | .s8 | .s4 | .z8 | .z4 | .f16 | .bf16 | .e5m2 | .e4m3 => true
  | _ => false

/-- Output types of MDRN: codes 1 to 4, 6 to 9 and 11 to 18 (R290). -/
def Ty.inDrain : Ty → Bool
  | .s64 | .z64 | .f64 | .e8m0 => false
  | _ => true

/-- Block-scaled element types (R271). -/
def Ty.blockScaled : Ty → Bool
  | .e5m2 | .e4m3 | .e3m2 | .e2m3 | .e2m1 => true
  | _ => false

end Sys2Proof
end

