-- ==== Sys2Proof/Syntax.lean ====
section
/-! DEFINITION. The instructions of the Kazund and the steps of its other agents: one constructor per row of the opcode
table. The rows that seats issue come first, each with its guard and the fields its word carries (R63 to R73).
The rows of other agents carry the names of what they act on: an index into the packets in flight, a request's
name, a core, or the value an outside party writes. -/

namespace Sys2Proof

/-- One constructor per row of spec/opcode_table.json. -/
inductive Instr where
  /-- Does nothing. (NOP, R92; OPC 0x01) -/
  | nop (g : Guard)
  /-- Branches to PC + 8 × DISP when the guard is true. (BR, R92; OPC 0x02) -/
  | br (g : Guard) (disp : BitVec 32)
  /-- Branches to PC + 8 × DISP + X; a misaligned target traps with cause 0x06. (JMP, R92, R93; OPC 0x03) -/
  | jmp (g : Guard) (x : Operand) (disp : BitVec 32)
  /-- Writes PC + 8 to lr and branches to PC + 8 × DISP. (CALL, R92; OPC 0x04) -/
  | call (g : Guard) (disp : BitVec 32)
  /-- Writes PC + 8 to lr and branches to PC + 8 × DISP + X. (CALLR, R92, R93; OPC 0x05) -/
  | callr (g : Guard) (x : Operand) (disp : BitVec 32)
  /-- Branches to the address held in lr. (RET, R92, R93; OPC 0x06) -/
  | ret (g : Guard)
  /-- Decrements D mod 2^64 and branches while the result is not zero. (LOOP, R94; OPC 0x07) -/
  | loop (g : Guard) (d : Operand) (disp : BitVec 32)
  /-- Ends the threadlet: merges the seat flags into the tile sticky flags and sets the seat IDLE. (END, R95; OPC 0x08) -/
  | endT (g : Guard)
  /-- Parks the activation with cause 0x09 and records DISP as the code. (TRAP, R96; OPC 0x09) -/
  | trap (g : Guard) (disp : BitVec 32)
  /-- Parks the activation with cause 0x0A and records DISP as the code. (BRK, R96; OPC 0x0A) -/
  | brk (g : Guard) (disp : BitVec 32)
  /-- Integer add at width W, wrapping or saturating. (ADD, R97, R98; OPC 0x10) -/
  | add (g : Guard) (sat : Bool) (ty : Ty) (d : Operand) (x : Operand) (y : Operand)
  /-- Integer subtract at width W, wrapping or saturating. (SUB, R97, R98; OPC 0x11) -/
  | sub (g : Guard) (sat : Bool) (ty : Ty) (d : Operand) (x : Operand) (y : Operand)
  /-- Integer multiply at width W, wrapping or saturating. (MUL, R97, R98; OPC 0x12) -/
  | mul (g : Guard) (sat : Bool) (ty : Ty) (d : Operand) (x : Operand) (y : Operand)
  /-- Writes the upper W bits of the exact product. (MULH, R99; OPC 0x13) -/
  | mulh (g : Guard) (ty : Ty) (d : Operand) (x : Operand) (y : Operand)
  /-- Integer quotient by R54; traps with cause 0x07 when the integer-trap enable is set. (DIV, R99; OPC 0x14) -/
  | div (g : Guard) (ty : Ty) (d : Operand) (x : Operand) (y : Operand)
  /-- Integer remainder by R54; traps with cause 0x07 when the integer-trap enable is set. (REM, R99; OPC 0x15) -/
  | rem (g : Guard) (ty : Ty) (d : Operand) (x : Operand) (y : Operand)
  /-- Bitwise AND of 64 bits. (AND, R97; OPC 0x16) -/
  | and (g : Guard) (d : Operand) (x : Operand) (y : Operand)
  /-- Bitwise OR of 64 bits. (OR, R97; OPC 0x17) -/
  | or (g : Guard) (d : Operand) (x : Operand) (y : Operand)
  /-- Bitwise XOR of 64 bits. (XOR, R97; OPC 0x18) -/
  | xor (g : Guard) (d : Operand) (x : Operand) (y : Operand)
  /-- Computes X and not Y over 64 bits. (ANDN, R97; OPC 0x19) -/
  | andn (g : Guard) (d : Operand) (x : Operand) (y : Operand)
  /-- Computes X or not Y over 64 bits. (ORN, R97; OPC 0x1A) -/
  | orn (g : Guard) (d : Operand) (x : Operand) (y : Operand)
  /-- Shifts left within W bits by the amount s mod W. (SHL, R100; OPC 0x1B) -/
  | shl (g : Guard) (ty : Ty) (d : Operand) (x : Operand) (y : Operand)
  /-- Shifts right within W bits, filling with zeros. (SHR, R100; OPC 0x1C) -/
  | shr (g : Guard) (ty : Ty) (d : Operand) (x : Operand) (y : Operand)
  /-- Shifts right within W bits, filling with bit W − 1. (SAR, R100; OPC 0x1D) -/
  | sar (g : Guard) (ty : Ty) (d : Operand) (x : Operand) (y : Operand)
  /-- Rotates left within W bits. (ROL, R100; OPC 0x1E) -/
  | rol (g : Guard) (ty : Ty) (d : Operand) (x : Operand) (y : Operand)
  /-- Rotates right within W bits. (ROR, R100; OPC 0x1F) -/
  | ror (g : Guard) (ty : Ty) (d : Operand) (x : Operand) (y : Operand)
  /-- Writes the minimum of two integers at width W. (MIN, R97; OPC 0x20) -/
  | min (g : Guard) (ty : Ty) (d : Operand) (x : Operand) (y : Operand)
  /-- Writes the maximum of two integers at width W. (MAX, R97; OPC 0x21) -/
  | max (g : Guard) (ty : Ty) (d : Operand) (x : Operand) (y : Operand)
  /-- Counts the leading zero bits of W bits. (CLZ, R101; OPC 0x22) -/
  | clz (g : Guard) (ty : Ty) (d : Operand) (x : Operand)
  /-- Counts the trailing zero bits of W bits. (CTZ, R101; OPC 0x23) -/
  | ctz (g : Guard) (ty : Ty) (d : Operand) (x : Operand)
  /-- Counts the one bits of W bits. (POPC, R101; OPC 0x24) -/
  | popc (g : Guard) (ty : Ty) (d : Operand) (x : Operand)
  /-- Reverses the bits of the W-bit value. (BREV, R97; OPC 0x25) -/
  | brev (g : Guard) (ty : Ty) (d : Operand) (x : Operand)
  /-- Reverses the bytes of the W-bit value. (BSWAP, R97; OPC 0x26) -/
  | bswap (g : Guard) (ty : Ty) (d : Operand) (x : Operand)
  /-- Sign-extends or zero-extends from W bits. (EXT, R97; OPC 0x27) -/
  | ext (g : Guard) (ty : Ty) (d : Operand) (x : Operand)
  /-- Extracts a bit field described by a specification register. (BFX, R102; OPC 0x28) -/
  | bfx (g : Guard) (d : Operand) (x : Operand) (y : Operand)
  /-- Inserts a bit field described by a specification register. (BFI, R102; OPC 0x29) -/
  | bfi (g : Guard) (d : Operand) (x : Operand) (y : Operand) (z : Operand)
  /-- Multiplies and adds exactly, then reduces to width W. (MADD, R97; OPC 0x2A) -/
  | madd (g : Guard) (ty : Ty) (d : Operand) (x : Operand) (y : Operand) (z : Operand)
  /-- Compares two integers under a condition and writes 1 or 0 to a scalar or mask register. (CMP, R103; OPC 0x2B) -/
  | cmp (g : Guard) (cond : Cond) (ty : Ty) (d : Operand) (x : Operand) (y : Operand)
  /-- Selects X or Y according to bit 0 of Z. (SEL, R103; OPC 0x2C) -/
  | sel (g : Guard) (d : Operand) (x : Operand) (y : Operand) (z : Operand)
  /-- Copies 64 bits between scalar and mask registers. (MOV, R103; OPC 0x2D) -/
  | mov (g : Guard) (d : Operand) (x : Operand)
  /-- Writes the absolute value, wrapping or saturating. (ABS, R97, R98; OPC 0x2E) -/
  | abs (g : Guard) (sat : Bool) (ty : Ty) (d : Operand) (x : Operand)
  /-- Writes the negation, wrapping or saturating. (NEG, R97, R98; OPC 0x2F) -/
  | neg (g : Guard) (sat : Bool) (ty : Ty) (d : Operand) (x : Operand)
  /-- Adds a sign-extended immediate. (ADDI, R104; OPC 0x30) -/
  | addi (g : Guard) (d : Operand) (x : Operand) (imm : BitVec 32)
  /-- Multiplies by a sign-extended immediate. (MULI, R104; OPC 0x31) -/
  | muli (g : Guard) (d : Operand) (x : Operand) (imm : BitVec 32)
  /-- ANDs with a zero-extended immediate. (ANDI, R104; OPC 0x32) -/
  | andi (g : Guard) (d : Operand) (x : Operand) (imm : BitVec 32)
  /-- ORs with a zero-extended immediate. (ORI, R104; OPC 0x33) -/
  | ori (g : Guard) (d : Operand) (x : Operand) (imm : BitVec 32)
  /-- XORs with a zero-extended immediate. (XORI, R104; OPC 0x34) -/
  | xori (g : Guard) (d : Operand) (x : Operand) (imm : BitVec 32)
  /-- Shifts left by an immediate amount. (SHLI, R104; OPC 0x35) -/
  | shli (g : Guard) (d : Operand) (x : Operand) (imm : BitVec 6)
  /-- Shifts right logically by an immediate amount. (SHRI, R104; OPC 0x36) -/
  | shri (g : Guard) (d : Operand) (x : Operand) (imm : BitVec 6)
  /-- Shifts right arithmetically by an immediate amount. (SARI, R104; OPC 0x37) -/
  | sari (g : Guard) (d : Operand) (x : Operand) (imm : BitVec 6)
  /-- Compares against an immediate, signed or unsigned, and writes 1 or 0. (CMPI, R104; OPC 0x38) -/
  | cmpi (g : Guard) (cond : CondI) (d : Operand) (x : Operand) (imm : BitVec 32)
  /-- Loads a sign-extended immediate. (LI, R104; OPC 0x39) -/
  | li (g : Guard) (d : Operand) (imm : BitVec 32)
  /-- Writes the immediate to bits [63:32] of D and keeps the low half. (LIH, R105; OPC 0x3A) -/
  | lih (g : Guard) (d : Operand) (imm : BitVec 32)
  /-- Loads a 64-bit value from two instruction words. (LI64, R71; OPC 0x3B) -/
  | li64 (g : Guard) (d : Operand) (imm : Word)
  /-- Adds a sign-extended immediate to a register base. (LEA, R104; OPC 0x3C FN 0) -/
  | lea (g : Guard) (d : Operand) (x : Operand) (imm : BitVec 32)
  /-- Writes PC + 8 × IMM. (LEA_PC, R104; OPC 0x3C FN 1) -/
  | leaPc (g : Guard) (d : Operand) (imm : BitVec 32)
  /-- Floating add with one rounding. (FADD, R106; OPC 0x40) -/
  | fadd (g : Guard) (ty : Ty) (rnd : Rounding) (d : Operand) (x : Operand) (y : Operand)
  /-- Floating subtract with one rounding. (FSUB, R106; OPC 0x41) -/
  | fsub (g : Guard) (ty : Ty) (rnd : Rounding) (d : Operand) (x : Operand) (y : Operand)
  /-- Floating multiply with one rounding. (FMUL, R106; OPC 0x42) -/
  | fmul (g : Guard) (ty : Ty) (rnd : Rounding) (d : Operand) (x : Operand) (y : Operand)
  /-- Fused multiply-add with one rounding. (FFMA, R106; OPC 0x43) -/
  | ffma (g : Guard) (ty : Ty) (rm : RM) (d : Operand) (x : Operand) (y : Operand) (z : Operand)
  /-- Correctly rounded floating division. (FDIV, R107; OPC 0x44) -/
  | fdiv (g : Guard) (ty : Ty) (rm : RM) (d : Operand) (x : Operand) (y : Operand)
  /-- Correctly rounded floating square root. (FSQRT, R107; OPC 0x45) -/
  | fsqrt (g : Guard) (ty : Ty) (rm : RM) (d : Operand) (x : Operand)
  /-- Floating minimumNumber. (FMIN, R108; OPC 0x46) -/
  | fmin (g : Guard) (ty : Ty) (d : Operand) (x : Operand) (y : Operand)
  /-- Floating maximumNumber. (FMAX, R108; OPC 0x47) -/
  | fmax (g : Guard) (ty : Ty) (d : Operand) (x : Operand) (y : Operand)
  /-- Floating compare that writes 1 or 0. (FCMP, R108; OPC 0x48) -/
  | fcmp (g : Guard) (cond : Cond) (ty : Ty) (d : Operand) (x : Operand) (y : Operand)
  /-- Converts between any two types by R50. (FCVT, R109; OPC 0x49) -/
  | fcvt (g : Guard) (sat : Bool) (dt : Ty) (ty : Ty) (rnd : Rounding) (d : Operand) (x : Operand)
  /-- Writes a one-hot mask of the value's class. (FCLASS, R110; OPC 0x4A) -/
  | fclass (g : Guard) (ty : Ty) (d : Operand) (x : Operand)
  /-- Rounds to an integral value in the same format. (FRND, R111; OPC 0x4B) -/
  | frnd (g : Guard) (ty : Ty) (rm : RM) (d : Operand) (x : Operand)
  /-- Lane-wise integer add. (VADD, R116; OPC 0x50) -/
  | vadd (g : Guard) (sat : Bool) (ty : Ty) (d : Operand) (x : Operand) (y : Operand)
  /-- Lane-wise integer subtract. (VSUB, R116; OPC 0x51) -/
  | vsub (g : Guard) (sat : Bool) (ty : Ty) (d : Operand) (x : Operand) (y : Operand)
  /-- Lane-wise integer multiply. (VMUL, R116; OPC 0x52) -/
  | vmul (g : Guard) (sat : Bool) (ty : Ty) (d : Operand) (x : Operand) (y : Operand)
  /-- Lane-wise high half of the product. (VMULH, R116; OPC 0x53) -/
  | vmulh (g : Guard) (ty : Ty) (d : Operand) (x : Operand) (y : Operand)
  /-- Lane-wise integer multiply-add. (VMAD, R116; OPC 0x54) -/
  | vmad (g : Guard) (ty : Ty) (d : Operand) (x : Operand) (y : Operand) (z : Operand)
  /-- Lane-wise integer minimum. (VMIN, R116; OPC 0x55) -/
  | vmin (g : Guard) (ty : Ty) (d : Operand) (x : Operand) (y : Operand)
  /-- Lane-wise integer maximum. (VMAX, R116; OPC 0x56) -/
  | vmax (g : Guard) (ty : Ty) (d : Operand) (x : Operand) (y : Operand)
  /-- Lane-wise absolute difference. (VABSD, R116; OPC 0x57) -/
  | vabsd (g : Guard) (ty : Ty) (d : Operand) (x : Operand) (y : Operand)
  /-- Bitwise AND per active byte lane. (VAND, R117; OPC 0x58) -/
  | vand (g : Guard) (d : Operand) (x : Operand) (y : Operand)
  /-- Bitwise OR per active byte lane. (VOR, R117; OPC 0x59) -/
  | vor (g : Guard) (d : Operand) (x : Operand) (y : Operand)
  /-- Bitwise XOR per active byte lane. (VXOR, R117; OPC 0x5A) -/
  | vxor (g : Guard) (d : Operand) (x : Operand) (y : Operand)
  /-- Lane-wise shift left. (VSHL, R116; OPC 0x5B) -/
  | vshl (g : Guard) (ty : Ty) (d : Operand) (x : Operand) (y : Operand)
  /-- Lane-wise logical shift right. (VSHR, R116; OPC 0x5C) -/
  | vshr (g : Guard) (ty : Ty) (d : Operand) (x : Operand) (y : Operand)
  /-- Lane-wise arithmetic shift right. (VSAR, R116; OPC 0x5D) -/
  | vsar (g : Guard) (ty : Ty) (d : Operand) (x : Operand) (y : Operand)
  /-- Lane-wise integer compare into a mask register. (VCMP, R118; OPC 0x5E) -/
  | vcmp (g : Guard) (cond : Cond) (ty : Ty) (d : Operand) (x : Operand) (y : Operand)
  /-- Selects each element from X or Y by a mask. (VSEL, R117; OPC 0x5F) -/
  | vsel (g : Guard) (ty : Ty) (d : Operand) (x : Operand) (y : Operand) (z : Operand)
  /-- Lane-wise floating add. (VFADD, R120; OPC 0x60) -/
  | vfadd (g : Guard) (ty : Ty) (rnd : Rounding) (d : Operand) (x : Operand) (y : Operand)
  /-- Lane-wise floating subtract. (VFSUB, R120; OPC 0x61) -/
  | vfsub (g : Guard) (ty : Ty) (rnd : Rounding) (d : Operand) (x : Operand) (y : Operand)
  /-- Lane-wise floating multiply. (VFMUL, R120; OPC 0x62) -/
  | vfmul (g : Guard) (ty : Ty) (rnd : Rounding) (d : Operand) (x : Operand) (y : Operand)
  /-- Lane-wise fused multiply-add. (VFFMA, R120; OPC 0x63) -/
  | vffma (g : Guard) (ty : Ty) (rm : RM) (d : Operand) (x : Operand) (y : Operand) (z : Operand)
  /-- Lane-wise floating minimum. (VFMIN, R120; OPC 0x64) -/
  | vfmin (g : Guard) (ty : Ty) (d : Operand) (x : Operand) (y : Operand)
  /-- Lane-wise floating maximum. (VFMAX, R120; OPC 0x65) -/
  | vfmax (g : Guard) (ty : Ty) (d : Operand) (x : Operand) (y : Operand)
  /-- Lane-wise floating compare into a mask register. (VFCMP, R118; OPC 0x66) -/
  | vfcmp (g : Guard) (cond : Cond) (ty : Ty) (d : Operand) (x : Operand) (y : Operand)
  /-- Lane-wise correctly rounded reciprocal. (VRCP, R120; OPC 0x67) -/
  | vrcp (g : Guard) (ty : Ty) (rm : RM) (d : Operand) (x : Operand)
  /-- Lane-wise correctly rounded reciprocal square root. (VRSQ, R120; OPC 0x68) -/
  | vrsq (g : Guard) (ty : Ty) (rm : RM) (d : Operand) (x : Operand)
  /-- Lane-wise correctly rounded square root. (VSQRT, R120; OPC 0x69) -/
  | vsqrt (g : Guard) (ty : Ty) (rm : RM) (d : Operand) (x : Operand)
  /-- Lane-wise correctly rounded division. (VFDIV, R120; OPC 0x6A) -/
  | vfdiv (g : Guard) (ty : Ty) (rm : RM) (d : Operand) (x : Operand) (y : Operand)
  /-- Lane-wise correctly rounded 2^x. (VEXP2, R120; OPC 0x6B) -/
  | vexp2 (g : Guard) (ty : Ty) (rm : RM) (d : Operand) (x : Operand)
  /-- Lane-wise correctly rounded log2. (VLOG2, R120; OPC 0x6C) -/
  | vlog2 (g : Guard) (ty : Ty) (rm : RM) (d : Operand) (x : Operand)
  /-- Lane-wise conversion between types. (VCVT, R122; OPC 0x6D) -/
  | vcvt (g : Guard) (sat : Bool) (dt : Ty) (ty : Ty) (rnd : Rounding) (d : Operand) (x : Operand)
  /-- Permutes elements by an index vector. (VSHUF, R117; OPC 0x6E) -/
  | vshuf (g : Guard) (ty : Ty) (d : Operand) (x : Operand) (y : Operand)
  /-- Broadcasts a scalar to every active lane. (VBCAST, R117; OPC 0x6F) -/
  | vbcast (g : Guard) (ty : Ty) (d : Operand) (x : Operand)
  /-- Inserts a scalar into one selected lane. (VINS, R117; OPC 0x70) -/
  | vins (g : Guard) (ty : Ty) (d : Operand) (x : Operand) (y : Operand)
  /-- Extracts one selected lane to a scalar. (VEXTR, R117; OPC 0x71) -/
  | vextr (g : Guard) (ty : Ty) (d : Operand) (x : Operand) (y : Operand)
  /-- Reduces the active lanes to a scalar by a fixed tree. (VRED, R125; OPC 0x72) -/
  | vred (g : Guard) (op : RedOp) (ty : Ty) (d : Operand) (x : Operand)
  /-- Writes the sequential prefix over the active lanes. (VSCAN, R126; OPC 0x73) -/
  | vscan (g : Guard) (op : RedOp) (ty : Ty) (d : Operand) (x : Operand)
  /-- Accumulates group dot products into 32-bit lanes. (VDOT, R121; OPC 0x74) -/
  | vdot (g : Guard) (ty : Ty) (rm : RM) (d : Operand) (x : Operand) (y : Operand)
  /-- Converts two registers and packs them densely into one. (VPACK, R123; OPC 0x75) Y holds `.v 0` where the destination has 6 bits (R123). -/
  | vpack (g : Guard) (sat : Bool) (dt : Ty) (ty : Ty) (rm : RM) (d : Operand) (x : Operand) (y : Operand)
  /-- Converts one part of a packed register to a wider type. (VUNPK, R124; OPC 0x76) -/
  | vunpk (g : Guard) (dt : Ty) (ty : Ty) (d : Operand) (x : Operand) (y : Operand)
  /-- Lane-wise population count. (VPOPC, R116; OPC 0x77) -/
  | vpopc (g : Guard) (ty : Ty) (d : Operand) (x : Operand)
  /-- Lane-wise count of leading zeros. (VCLZ, R116; OPC 0x78) -/
  | vclz (g : Guard) (ty : Ty) (d : Operand) (x : Operand)
  /-- Fills sixteen lanes from the KCG10 counter generator. (VRNG, R127; OPC 0x79) -/
  | vrng (g : Guard) (d : Operand) (x : Operand) (y : Operand) (z : Operand)
  /-- Logical operation on 64-bit masks. (KOP, R119; OPC 0x7A) Y holds `.k 0` where the operation takes none (FN 5 and 6). -/
  | kop (g : Guard) (op : MaskOp) (d : Operand) (x : Operand) (y : Operand)
  /-- Counts the one bits of a mask. (KPOPC, R119; OPC 0x7B) -/
  | kpopc (g : Guard) (d : Operand) (x : Operand)
  /-- Writes the index of the lowest one bit of a mask. (KFIRST, R119; OPC 0x7C) -/
  | kfirst (g : Guard) (d : Operand) (x : Operand)
  /-- Copies each active byte lane. (VMOV, R117; OPC 0x7D) -/
  | vmov (g : Guard) (d : Operand) (x : Operand)
  /-- Loads 2^SZ bytes from scratchpad, synchronously. (LDS, R132; OPC 0x80) -/
  | lds (g : Guard) (sext : Bool) (sz : Fin 7) (d : Operand) (x : Operand) (off : BitVec 16)
  /-- Stores 2^SZ bytes to scratchpad. (STS, R132; OPC 0x81) -/
  | sts (g : Guard) (sz : Fin 7) (d : Operand) (x : Operand) (off : BitVec 16)
  /-- Loads 64 bytes from scratchpad into a vector register. (VLDS, R133; OPC 0x82) -/
  | vlds (g : Guard) (d : Operand) (x : Operand) (off : BitVec 16)
  /-- Stores the active bytes of a vector register to scratchpad. (VSTS, R133; OPC 0x83) -/
  | vsts (g : Guard) (d : Operand) (x : Operand) (off : BitVec 16)
  /-- Gathers one scratchpad element per active lane. (VGATH, R134; OPC 0x84) -/
  | vgath (g : Guard) (sz : Fin 7) (d : Operand) (x : Operand) (off : BitVec 16) (y : Operand)
  /-- Scatters one element per active lane to scratchpad. (VSCAT, R134; OPC 0x85) -/
  | vscat (g : Guard) (sz : Fin 7) (d : Operand) (x : Operand) (off : BitVec 16) (y : Operand)
  /-- Loads eight frame words into a vector register. (LDF, R135; OPC 0x86) -/
  | ldf (g : Guard) (d : Operand) (x : Operand) (off : BitVec 16)
  /-- Stores the active lanes of a vector register to eight frame words. (STF, R135; OPC 0x87) -/
  | stf (g : Guard) (d : Operand) (x : Operand) (off : BitVec 16)
  /-- Performs an indivisible read-modify-write on scratchpad. (SATOM, R136; OPC 0x88) -/
  | satom (g : Guard) (op : AtomOp) (sz : Fin 7) (d : Operand) (x : Operand) (off : BitVec 16)
  /-- Copies Y units of 2^SZ bytes within the scratchpad. (SCPY, R137; OPC 0x89) -/
  | scpy (g : Guard) (sz : Fin 7) (d : Operand) (x : Operand) (off : BitVec 16) (y : Operand)
  /-- Issues a split-phase global read of 2^SZ bytes. (GLD, R220; OPC 0x90) -/
  | gld (g : Guard) (sext : Bool) (sz : Fin 7) (d : Operand) (x : Operand) (off : BitVec 16) (t : Target) (scope : Scope) (ord : MemOrder)
  /-- Issues a split-phase global write of 2^SZ bytes. (GST, R221; OPC 0x91) -/
  | gst (g : Guard) (sz : Fin 7) (d : Operand) (x : Operand) (off : BitVec 16) (t : Target) (scope : Scope) (ord : MemOrder)
  /-- Issues a 64-byte global read that is delivered to eight frame words. (GLDV, R220; OPC 0x92) -/
  | gldv (g : Guard) (d : Operand) (x : Operand) (off : BitVec 16) (t : Target) (scope : Scope) (ord : MemOrder)
  /-- Issues a 64-byte global write from a vector register. (GSTV, R221; OPC 0x93) -/
  | gstv (g : Guard) (d : Operand) (x : Operand) (off : BitVec 16) (t : Target) (scope : Scope) (ord : MemOrder)
  /-- Issues an atomic read-modify-write performed at the home slice. (GATOM, R222; OPC 0x94) -/
  | gatom (g : Guard) (op : AtomOp) (sz : Fin 7) (d : Operand) (x : Operand) (off : BitVec 16) (t : Target) (scope : Scope) (ord : MemOrder)
  /-- Issues an atomic reduction at the home slice that returns no result. (GRED, R223; OPC 0x95) -/
  | gred (g : Guard) (op : AtomOp) (sz : Fin 7) (d : Operand) (x : Operand) (off : BitVec 16) (t : Target) (scope : Scope) (ord : MemOrder)
  /-- Issues an I-structure read that waits until its word is full. (ILD, R224; OPC 0x96) -/
  | ild (g : Guard) (d : Operand) (x : Operand) (off : BitVec 16) (t : Target) (scope : Scope) (ord : MemOrder)
  /-- Issues an I-structure write that fills an empty word. (IST, R224; OPC 0x97) -/
  | ist (g : Guard) (d : Operand) (x : Operand) (off : BitVec 16) (t : Target) (scope : Scope) (ord : MemOrder)
  /-- Issues a request to empty n I-structure words. (IRST, R224; OPC 0x98) -/
  | irst (g : Guard) (d : Operand) (x : Operand) (off : BitVec 16) (t : Target) (scope : Scope) (ord : MemOrder)
  /-- Issues a watch that completes when a word differs from a comparand. (MWATCH, R225; OPC 0x99) -/
  | mwatch (g : Guard) (sz : Fin 7) (d : Operand) (x : Operand) (off : BitVec 16) (t : Target) (scope : Scope) (ord : MemOrder)
  /-- Starts a two-dimensional transfer described by a shape record. (DMA, R228; OPC 0x9A) -/
  | dma (g : Guard) (x : Operand) (t : Target) (scope : Scope) (ord : MemOrder)
  /-- Opens a stream window from a descriptor. (STRM_OPEN, R231; OPC 0x9B FN 0) -/
  | strmOpen (g : Guard) (d : Operand) (x : Operand) (t : Target) (scope : Scope) (ord : MemOrder)
  /-- Advances a window's TAIL by n bytes, refilling or writing back. (STRM_ADV, R233; OPC 0x9B FN 1) -/
  | strmAdv (g : Guard) (d : Operand) (x : Operand) (t : Target) (scope : Scope) (ord : MemOrder)
  /-- Arms a window notification on AVAIL ≥ m. (STRM_NOTIFY, R234; OPC 0x9B FN 2) -/
  | strmNotify (g : Guard) (d : Operand) (x : Operand) (t : Target) (scope : Scope) (ord : MemOrder)
  /-- Closes a window once its outstanding transfers finish. (STRM_CLOSE, R235; OPC 0x9B FN 3) -/
  | strmClose (g : Guard) (d : Operand) (t : Target) (scope : Scope) (ord : MemOrder)
  /-- Completes when the frame's earlier accesses have performed at the scope. (FENCE, R226; OPC 0x9C) -/
  | fence (g : Guard) (t : Target) (scope : Scope) (ord : MemOrder)
  /-- Asks the home slice to bring a 512 B unit into the LLC. (PREF, R227; OPC 0x9D) -/
  | pref (g : Guard) (sz : Fin 7) (x : Operand) (off : BitVec 16) (scope : Scope)
  /-- Requests a new frame and delivers its continuation. (FNEW, R175; OPC 0xA0) -/
  | fnew (g : Guard) (large : Bool) (d : Operand) (t : Target)
  /-- Frees a frame at once or marks it pending free. (FFREE, R176; OPC 0xA1) -/
  | ffree (g : Guard) (x : Operand)
  /-- Writes a slot word and fires the slot if it is armed with COUNT 0. (SLOTI, R177; OPC 0xA2) -/
  | sloti (g : Guard) (x : Operand) (y : Operand)
  /-- Adds a signed delta to a slot's COUNT and arms the slot. (SLOTA, R178; OPC 0xA3) -/
  | slota (g : Guard) (x : Operand) (y : Operand)
  /-- Sends one signal with no datum, optionally released. (SIG, R179; OPC 0xA4) -/
  | sig (g : Guard) (st : Status) (rel : Bool) (x : Operand)
  /-- Sends one signal with a one-word datum, optionally released. (SIGD, R179; OPC 0xA5) -/
  | sigd (g : Guard) (st : Status) (rel : Bool) (x : Operand) (y : Operand)
  /-- Forms a continuation with a new slot and word. (CONT, R180; OPC 0xA6) -/
  | cont (g : Guard) (d : Operand) (x : Operand) (y : Operand) (z : Operand)
  /-- Sends a task record to be pushed onto a core's deque. (SPAWN, R181; OPC 0xA7) -/
  | spawn (g : Guard) (x : Operand) (y : Operand) (t : Target)
  /-- Enqueues a launch packet into a device queue. (LAUNCH, R183; OPC 0xA8) -/
  | launch (g : Guard) (x : Operand) (y : Operand) (t : Target)
  /-- Ends the tile's part of the kernel and withdraws waiting work. (KEND, R184; OPC 0xA9) -/
  | kend (g : Guard)
  /-- Makes a barrier arrival across the rectangle. (BAR, R185; OPC 0xAA) -/
  | bar (g : Guard) (t : Target)
  /-- Contributes a value to a kernel-wide all-reduce. (ARED, R186; OPC 0xAB) -/
  | ared (g : Guard) (op : RedOp) (ty : Ty) (d : Operand) (x : Operand) (t : Target)
  /-- Writes a logical fact of the kernel. (TIDX, R187; OPC 0xAC) -/
  | tidx (g : Guard) (d : Operand) (x : Operand)
  /-- Reads and clears the seat flag register. (FLAGS, R188; OPC 0xAD) -/
  | flags (g : Guard) (d : Operand)
  /-- Posts a unicast channel send. (CHSEND, R243; OPC 0xB0) -/
  | chsend (g : Guard) (kind : SendKind) (rel : Bool) (x : Operand) (y : Operand) (z : Operand) (t : Target)
  /-- Posts a channel receive and sends a ready to the sending port. (CHRECV, R243; OPC 0xB1) Y and Z hold `.w 0` in the .latch form, which has neither. -/
  | chrecv (g : Guard) (kind : RecvKind) (x : Operand) (y : Operand) (z : Operand) (t : Target)
  /-- Posts a select over a set of receive ports. (CHSEL, R249; OPC 0xB2) -/
  | chsel (g : Guard) (rot : Bool) (d : Operand) (x : Operand) (y : Operand) (z : Operand) (t : Target)
  /-- Posts a multicast send to every member of the port's group. (CHSENDM, R248; OPC 0xB3) -/
  | chsendm (g : Guard) (kind : SendKind) (rel : Bool) (x : Operand) (y : Operand) (z : Operand) (t : Target)
  /-- Reports a snapshot of a port's state. (CHTEST, R258; OPC 0xB4) -/
  | chtest (g : Guard) (d : Operand) (x : Operand) (t : Target)
  /-- Binds, adds a member to or unbinds a channel. (CHBIND, R239; OPC 0xB5) -/
  | chbind (g : Guard) (x : Operand) (t : Target)
  /-- Withdraws the operation posted on a port. (CHCAN, R252; OPC 0xB6) -/
  | chcan (g : Guard) (x : Operand)
  /-- Claims a Pigeonhole table from the scratchpad grant. (PHCLAIM, R298; OPC 0xB8) -/
  | phclaim (g : Guard) (x : Operand) (y : Operand) (z : Operand) (t : Target)
  /-- Inserts keys into a table. (PHINS, R309; OPC 0xB9) -/
  | phins (g : Guard) (vec : Bool) (d : Operand) (x : Operand) (y : Operand) (z : Operand) (t : Target)
  /-- Probes a table for keys. (PHPRB, R309; OPC 0xBA) -/
  | phprb (g : Guard) (vec : Bool) (d : Operand) (x : Operand) (y : Operand) (t : Target)
  /-- Deletes keys from a table. (PHDEL, R311; OPC 0xBB) -/
  | phdel (g : Guard) (vec : Bool) (d : Operand) (x : Operand) (y : Operand) (t : Target)
  /-- Accumulates values into keys, inserting them if absent. (PHACC, R311; OPC 0xBC) -/
  | phacc (g : Guard) (vec : Bool) (kind : AccKind) (d : Operand) (x : Operand) (y : Operand) (z : Operand) (t : Target)
  /-- Drains a table's entries in hash order to scratchpad or a channel. (PHDRN, R317; OPC 0xBD) -/
  | phdrn (g : Guard) (vec : Bool) (chan : Bool) (d : Operand) (x : Operand) (y : Operand) (z : Operand) (t : Target)
  /-- Releases a table. (PHRLS, R299; OPC 0xBE) -/
  | phrls (g : Guard) (x : Operand) (t : Target)
  /-- Reports table state, or the locations of keys in its .v form. (PHSTAT, R320; OPC 0xBF) -/
  | phstat (g : Guard) (vec : Bool) (d : Operand) (x : Operand) (y : Operand) (t : Target)
  /-- Replaces the Anvil configuration word at its place in queue order. (MCFG, R279; OPC 0xC0) -/
  | mcfg (g : Guard) (x : Operand)
  /-- Loads A panels and scales into the A buffer. (MLDA, R280; OPC 0xC1) -/
  | mlda (g : Guard) (x : Operand) (y : Operand) (z : Operand) (t : Target)
  /-- Sets the B stream register. (MLDB, R281; OPC 0xC2) -/
  | mldb (g : Guard) (x : Operand) (y : Operand) (z : Operand)
  /-- Runs a sequence of Anvil steps. (MRUN, R284; OPC 0xC3) -/
  | mrun (g : Guard) (chan : Bool) (ring : Bool) (x : Operand) (y : Operand) (z : Operand) (t : Target)
  /-- Zeroes the selected accumulators. (MZERO, R279; OPC 0xC4) -/
  | mzero (g : Guard) (x : Operand)
  /-- Drains an accumulator, converted and scaled. (MDRN, R289; OPC 0xC5) -/
  | mdrn (g : Guard) (kind : DrainKind) (sat : Bool) (ty : Ty) (rm : RM) (x : Operand) (y : Operand) (z : Operand) (t : Target)
  /-- Writes a steering table entry. (MSTEER, R279; OPC 0xC6) -/
  | msteer (g : Guard) (x : Operand) (y : Operand)
  /-- Delivers an engine counter, the configuration word or a steering entry. (MSTAT, R292; OPC 0xC7) -/
  | mstat (g : Guard) (d : Operand) (x : Operand) (t : Target)
  /-- Reads a system register. (SYSR, R365; OPC 0xD0) -/
  | sysr (g : Guard) (d : Operand) (x : Operand) (t : Target)
  /-- Writes a system register. (SYSW, R365; OPC 0xD1) -/
  | sysw (g : Guard) (x : Operand) (y : Operand) (t : Target)
  /-- Resumes, skips or kills a parked frame from its trap entry. (FRES, R379; OPC 0xD2) -/
  | fres (g : Guard) (kind : FresKind) (x : Operand) (y : Operand) (t : Target)
  /-- Drops cached translations on this package. (TLBI, R380; OPC 0xD3) X and Y hold `.w 0` where the form has none. -/
  | tlbi (g : Guard) (kind : TlbiKind) (x : Operand) (y : Operand) (t : Target)
  /-- Holds or releases a physical tile. (TMAP, R381; OPC 0xD4) -/
  | tmap (g : Guard) (d : Operand) (x : Operand) (t : Target)
  /-- Evicts a context's tile into an image. (EVICT_SAVE, R387; OPC 0xD5 FN 0) -/
  | evictSave (g : Guard) (x : Operand) (t : Target)
  /-- Restores a tile image onto an eligible tile. (EVICT_RESTORE, R388; OPC 0xD5 FN 1) -/
  | evictRestore (g : Guard) (x : Operand) (t : Target)
  /-- Sets a context's Dead Letter Office mode. (DLOCTL, R382; OPC 0xD6) -/
  | dloctl (g : Guard) (x : Operand) (y : Operand) (t : Target)
  /-- Halts the package with a code. (HALT, R383; OPC 0xD7) -/
  | halt (g : Guard) (x : Operand)
  /-- An idle seat picks an eligible ready entry by class and context. (PICK, R153) -/
  | pick (ptn : Nat) (core : Nat) (seat : Nat)
  /-- The target core accepts a signal packet: checks the frame, writes the datum, counts the slot. (ACCEPT, R146) -/
  | accept (n : Nat)
  /-- A response to an outstanding request reaches the core and its completion is delivered. (RESPONSE_ARRIVAL, R217) -/
  | responseArrival (id : Nat)
  /-- A write acknowledgement at a scope updates OWC and releases held requests. (WRITE_ACK, R203) -/
  | writeAck (id : Nat) (pod : Bool)
  /-- The home slice performs a read and fixes its value. (HOME_READ, R195) -/
  | homeRead (id : Nat)
  /-- The home slice performs a write, merging sub-word data. (HOME_WRITE, R214) -/
  | homeWrite (id : Nat)
  /-- The home slice performs a GATOM or GRED as one step. (HOME_ATOMIC, R197) -/
  | homeAtomic (id : Nat)
  /-- The home slice answers an ILD or chains a deferred record. (HOME_ILD, R211) -/
  | homeIld (id : Nat)
  /-- The home slice fills a word and answers its chain, or reports DOUBLE_WRITE. (HOME_IST, R211) -/
  | homeIst (id : Nat)
  /-- The home slice empties a full I-structure word. (HOME_IRST, R211) -/
  | homeIrst (id : Nat)
  /-- The home slice compares the watched word and arms the watch as one step. (MWATCH_ARM, R198) -/
  | mwatchArm (id : Nat)
  /-- A walker translates a virtual address through the page tables. (PAGE_WALK, R368) -/
  | pageWalk (id : Nat) (cached : Option Nat)
  /-- A present or fail answer replays or faults the held requests. (FAULT_SERVICE_REPLY, R372) -/
  | faultServiceReply (ctx : Nat) (va : Word) (present : Bool)
  /-- An idle core takes up a task and creates its frame. (TASK_PICKUP, R157) -/
  | taskPickup (ptn : Nat) (core : Nat) (ctx : Nat)
  /-- A thief sends a steal request to a victim chosen by the LFSR. (STEAL_REQUEST, R158) -/
  | stealRequest (ptn : Nat) (core : Nat) (ctx : Nat)
  /-- A victim answers a steal with its oldest task or a failure. (STEAL_SERVE, R158) -/
  | stealServe (n : Nat)
  /-- A thief takes up or returns a stolen task. (STEAL_REPLY, R158) -/
  | stealReply (n : Nat)
  /-- The target core pushes a task record and completes the SPAWN. (SPAWN_PUSH, R181) -/
  | spawnPush (n : Nat)
  /-- A creation waiting on quota, a frame number or a granule group is made. (DEFERRED_CREATION, R161) -/
  | deferredCreation (ctx : Nat) (ltn : Nat) (core : Nat)
  /-- The core starts writing a dormant frame's spill image. (SPILL_START, R162) -/
  | spillStart (ctx : Nat) (ltn : Nat) (core : Nat)
  /-- When the image writes have performed, the frame becomes AWAY, or is rewritten, or stays LIVE. (SPILL_CHECK, R162) -/
  | spillCheck (ctx : Nat) (ltn : Nat) (core : Nat) (frm : Nat)
  /-- The home slice applies a forwarded signal or slot operation to a spill image. (FORWARD_APPLY, R164) -/
  | forwardApply (n : Nat)
  /-- A wake for an AWAY frame starts a refill and sends a recall. (WAKE, R165) -/
  | wake (n : Nat)
  /-- The home slice sends a kept wake once the SIG network takes it. (DEFERRED_WAKE_SEND, R164) -/
  | deferredWakeSend (n : Nat)
  /-- The home slice marks an image recalled and returns it. (RECALL, R165) -/
  | recall (n : Nat)
  /-- The core installs a returned image and sends recall-done. (REFILL_INSTALL, R165) -/
  | refillInstall (n : Nat)
  /-- The home slice replays the kept signals and releases the image. (RECALL_DONE, R165) -/
  | recallDone (n : Nat)
  /-- A requester waiting on a full trap queue retries allocation when RIDX changes. (TRAP_QUEUE_RETRY, R374) -/
  | trapQueueRetry (n : Nat)
  /-- A parent tile receives an arrival or partial ARED value and combines it up the tree. (BAR_ARRIVAL, R185) -/
  | barArrival (n : Nat)
  /-- A release travels down the tree and completes the BAR or ARED. (BAR_RELEASE, R185) -/
  | barRelease (n : Nat)
  /-- A sending port records a ready and moves data if a send is posted. (READY, R243) -/
  | ready (n : Nat)
  /-- A sending port records a ready-select and answers with an offer. (READY_SELECT, R249) -/
  | readySelect (n : Nat)
  /-- The receiving channel unit accepts offers and chooses a winner. (OFFER, R250) -/
  | offer (ns : List Nat)
  /-- A sending port receives go and moves its data. (GO, R249) -/
  | go (n : Nat)
  /-- A sending port receives release and returns its send to unoffered. (RELEASE, R251) -/
  | release (n : Nat)
  /-- Channel data land at the receiver and the receive completes. (DATA_LANDING, R244) -/
  | dataLanding (n : Nat)
  /-- An acceptance completes the send at the sending port. (ACCEPTANCE, R243) -/
  | acceptance (n : Nat)
  /-- A refuse completes the partner operation REFUSED. (REFUSE, R243) -/
  | refuse (n : Nat)
  /-- A sending port answers a receive's withdraw. (WITHDRAW, R252) -/
  | withdraw (n : Nat)
  /-- A sending port answers a test from a receive port. (CHANNEL_TEST, R258) -/
  | channelTest (n : Nat)
  /-- The receiving tile changes its port for a bind and replies. (BIND_REQUEST, R239) -/
  | bindRequest (n : Nat)
  /-- The sending side completes a bind. (BIND_REPLY, R239) -/
  | bindReply (n : Nat)
  /-- A quiescent tile with only open edges starts a detection. (DLO_DETECTION_START, R262) -/
  | dloDetectionStart (ctx : Nat) (ltn : Nat)
  /-- A tile handles a detection query: engages, forwards or replies. (DLO_QUERY, R262) -/
  | dloQuery (n : Nat)
  /-- A tile collects a reply, starts the second pass or declares a deadlock. (DLO_REPLY, R263) -/
  | dloReply (n : Nat)
  /-- The engine runs one step once its block and token are latched. (ANVIL_STEP, R284) -/
  | anvilStep (ctx : Nat) (ltn : Nat)
  /-- A drain converts an accumulator into a free drain buffer and sends it. (ANVIL_DRAIN, R289) -/
  | anvilDrain (ctx : Nat) (ltn : Nat)
  /-- The home slice performs a Pigeonhole spill step on one group. (PH_SPILL_STEP, R309) -/
  | phSpillStep (ctx : Nat) (ltn : Nat) (n : Nat)
  /-- The port applies a returned spill step. (PH_SPILL_REPLY, R309) -/
  | phSpillReply (ctx : Nat) (ltn : Nat) (n : Nat)
  /-- The stream port issues a burst of a DMA. (DMA_BURST, R229) -/
  | dmaBurst (id : Nat)
  /-- A burst completes, and the last one completes the DMA. (DMA_BURST_DONE, R230) -/
  | dmaBurstDone (id : Nat) (b : Nat)
  /-- A fill or write-back of a window element completes and moves HEAD. (STREAM_FILL, R233) -/
  | streamFill (ctx : Nat) (ltn : Nat) (win : Nat) (elem : Nat)
  /-- A host write to a queue's notify register sets WIDX. (NOTIFY, R338) -/
  | notify (q : Nat) (value : Word)
  /-- The Sorting Office reads a ring slot and takes the packet. (PACKET_TAKE, R340) -/
  | packetTake (q : Nat)
  /-- A dependence watch finds its word at or below its bound. (DEPENDENCE_MET, R346) -/
  | dependenceMet (q : Nat) (dep : Nat)
  /-- The Sorting Office admits the highest-ranked pending packet that fits. (ADMISSION, R353) -/
  | admission
  /-- The last tile finishes, and the kernel's resources are released and CSIG decremented. (KERNEL_COMPLETE, R355) -/
  | kernelComplete (ctx : Nat)
  /-- The Sorting Office copies a LAUNCH packet into a device ring. (LAUNCH_COPY, R356) -/
  | launchCopy (id : Nat)
  /-- Package 0 releases a spanning kernel on every package, or all packages kill it. (SPANNING_RELEASE, R402) -/
  | spanningRelease (ctx : Nat) (ok : Bool)
  /-- A packet for an evicted tile is kept at the image home. (EVICTED_TILE_PACKET, R387) -/
  | evictedTilePacket (n : Nat)
  /-- An inbound UALink request is translated and performed. (UALINK_INBOUND, R401) -/
  | ualinkInbound (kind : InboundKind) (va : Word) (bytes : Nat)
  /-- A flit group that fails its CRC is replayed. (LINK_REPLAY, R420) -/
  | linkReplay (link : Link)
  /-- After 16 failed replays the link retrains, degrades or fails. (LINK_RETRAIN, R421) -/
  | linkRetrain (link : Link) (how : Retrain)
  /-- A patrol reads a granule, scrubbing or poisoning it. (PATROL, R417) -/
  | patrol (granule : Nat) (find : PatrolFind)
  /-- The host's read index frees ring room for held messages. (HMR_WRITE, R393) -/
  | hmrWrite (value : Word)
  /-- Reset runs bring-up through verification, repair, zeroing and release. (PACKAGE_RESET, R428) -/
  | packageReset
  /-- A tamper event erases keys, halts the package and reports. (TAMPER_ALARM, R435) -/
  | tamperAlarm
  /-- Every 100 µs Hallmark samples the sensors and throttles or halts dies. (SENSOR_SAMPLE, R436) -/
  | sensorSample (sample : Sensors)
  /-- A host write clears a halt that RESUME may clear. (RESUME, R391) -/
  | resume (value : Word)
  /-- Puts the feature acceptance in force and sets DONE. (FEATC_COMMIT, R358) -/
  | featcCommit
  /-- Clears DONE while no context is resident. (FEATC_RESET, R358) -/
  | featcReset
  /-- The window performs a system register read. (SRCMD_READ, R392) -/
  | srcmdRead (port : Nat)
  /-- The window performs a system register write. (SRCMD_WRITE, R392) -/
  | srcmdWrite (port : Nat)
  /-- The host's admission reply places a pending packet. (AREPLYQ, R395) -/
  | areplyq (value : Word)
  /-- The host's fault-service reply answers a held record. (FREPLY, R396) -/
  | freply (value : Word)
  /-- Writing KILL ends the context's resident kernel. (CKILL, R390) -/
  | ckill (id : Nat)
  /-- Writing the weight applies or lifts soft pre-emption. (CWGT, R385) -/
  | cwgt (id : Nat)
  /-- Writing the context descriptor, refused in forbidden states. (CTXD, R361) -/
  | ctxd (id : Nat)
  /-- Writing a queue descriptor clears ERR and sets EN. (QDESC, R336) -/
  | qdesc (id : Nat)
  /-- Writes a system register that has no behaviour of its own. (REGISTER_WRITE, R365) -/
  | registerWrite (id : Nat)
  /-- Returns HMSTAT. (READ_STATUS, R434) -/
  | readStatus
  /-- Returns one sample of the telemetry. (READ_TELEMETRY, R437) -/
  | readTelemetry
  /-- Returns the repair store. (REPAIR_READ, R434) -/
  | repairRead
  /-- Writes data into the firmware slot that is not ACTIVE. (FW_WRITE, R431) -/
  | fwWrite (secured : Bool) (target : Nat) (offset : Nat) (data : List Byte)
  /-- Verifies the inactive slot and flips ACTIVE. (FW_ACTIVATE, R431) -/
  | fwActivate (secured : Bool) (target : Nat)
  /-- Raises MINSVN to the running SVN. (SVN_COMMIT, R431) -/
  | svnCommit (secured : Bool)
  /-- Signs and stores a repair record. (REPAIR_SIGN, R432) -/
  | repairSign (secured : Bool) (record : List Byte)
  /-- MCTP command that resets the package. (RESET, R434) -/
  | reset (secured : Bool)
  /-- SPDM request for the supported versions. (GET_VERSION, R433) -/
  | getVersion
  /-- SPDM request for capabilities. (GET_CAPABILITIES, R433) -/
  | getCapabilities
  /-- SPDM algorithm negotiation. (NEGOTIATE_ALGORITHMS, R433) -/
  | negotiateAlgorithms (offer : List Algorithm)
  /-- SPDM request for certificate digests. (GET_DIGESTS, R433) -/
  | getDigests
  /-- SPDM request for the certificate chain. (GET_CERTIFICATE, R433) -/
  | getCertificate (offset : Nat) (length : Nat)
  /-- SPDM challenge signed by the identity key. (CHALLENGE, R433) -/
  | challenge (nonce : List Byte)
  /-- SPDM request for the measurements. (GET_MEASUREMENTS, R433) -/
  | getMeasurements (index : Nat) (nonce : List Byte)
  /-- SPDM ECDHE key exchange. (KEY_EXCHANGE, R433) -/
  | keyExchange (session : Nat) (share : List Byte)
  /-- SPDM session finish. (FINISH, R433) -/
  | finish (session : Nat) (verify : List Byte)
  /-- Ends an SPDM session. (END_SESSION, R433) -/
  | endSession (session : Nat)
  /-- SPDM session heartbeat. (HEARTBEAT, R433) -/
  | heartbeat (session : Nat)
  /-- A scale-up port finishes training and becomes UP, and its usable set U is recomputed. (LINK_TRAINED, R398) -/
  | linkTrained (port : Nat) (lanes : Nat)
  /-- A write of a port's MODE takes the port down and retrains it, or is refused. (PORTM, R398) -/
  | portm (id : Nat)
  /-- A write of ROUTE changes U for a node, so injection stops, the old port drains and traffic moves to the new choice. (ROUTE, R399) -/
  | route (id : Nat)
  /-- A withdraw answer reaches the receiving tile and completes the withdrawn receive or CHSEL CANCELLED once every port has answered. (WITHDRAW_ANSWER, R252) -/
  | withdrawAnswer (n : Nat)
  /-- A test reply reaches the RECV port's tile and completes CHTEST with the snapshot. (TEST_REPLY, R258) -/
  | testReply (n : Nat)
  /-- An instruction fetch from memory returns its word, or fails translation, protection or poison and traps with cause 0x10, 0x11 or 0x12. (INSTRUCTION_FETCH, R77) -/
  | instructionFetch (ptn : Nat) (core : Nat) (seat : Nat)
  /-- A stolen task that a thief could not take up after KEND arrives back at the victim, fills the reserved deque place, or is discarded if the victim has ended. (TASK_RETURNED, R158) -/
  | taskReturned (n : Nat)
  deriving DecidableEq, Repr

end Sys2Proof
end

