-- ==== Sys2Proof/WellFormed.lean ====
section
/-! DEFINITION. Which instructions are well formed: the coded fields hold a value the opcode permits (check 3 of R76), the
guard is not 0b1000 and every operand and target has the class of its position (check 6 of R76). `Instr.shape`
says once, for every row that a seat issues, its guard, how the guard is used (R114) and its operand positions. -/

namespace Sys2Proof

/-- 0b1000 is no guard (R31). -/
def Guard.ok (g : Guard) : Bool := !(g.neg && decide (g.k = 0))

/-- Set I or F of R67. -/
def Ty.inIF (t : Ty) : Bool := t.inI || t.inF

/-- .add, .min and .max take floating types too (R73). -/
def RedOp.arith : RedOp → Bool
  | .add | .min | .max => true
  | .and | .or | .xor => false

/-- KOP.not and KOP.mov take no Y (R119). -/
def MaskOp.unary : MaskOp → Bool
  | .not | .mov => true
  | .and | .or | .xor | .andn | .orn => false

/-- Whether an operand is of a class (R25). -/
def Cls.has : Cls → Operand → Bool
  | .scalar, .v _ | .scalar, .k _ => false
  | .scalar, _ => true
  | .scalarNoFrame, .v _ | .scalarNoFrame, .k _ | .scalarNoFrame, .f _ => false
  | .scalarNoFrame, _ => true
  | .vector, .v _ => true
  | .vector, _ => false
  | .mask, .k _ => true
  | .mask, _ => false
  | .scalarOrMask, .v _ => false
  | .scalarOrMask, _ => true
  | .frame, .f _ => true
  | .frame, _ => false
  | .evenFrame, .f n => n.val % 2 == 0
  | .evenFrame, _ => false
  | .evenW, .w n => n.val % 2 == 0
  | .evenW, _ => false
  | .zrOnly, .zr => true
  | .zrOnly, _ => false

/-- Operands that R24 marks read-only. -/
def Operand.readOnly : Operand → Bool
  | .k n => decide (n = 0)
  | .fp | .ltn | .core | .seat | .ctx | .cyc | .sig => true
  | .w _ | .v _ | .zr | .lr | .f _ => false

/-- A role that writes its operand. -/
def Role.writes : Role → Bool
  | .src => false
  | .dst | .both => true

/-- A role that reads its operand. -/
def Role.reads : Role → Bool
  | .dst => false
  | .src | .both => true

/-- A use is legal when the operand is of the position's class and a written operand is not read-only (R24, R25). -/
def Use.ok (u : Use) : Bool := u.cls.has u.op && !(u.role.writes && u.op.readOnly)

/-- Where a result lands: a frame word with a slot target, and zr otherwise (R173, R217, R312). -/
def resultCls : Target → Cls
  | .slot _ => .frame
  | .nothing | .reg _ => .zrOnly

/-- D of GATOM (R222). -/
def gatomCls (op : AtomOp) : Target → Cls
  | .slot _ => if op = .cas then .evenFrame else .frame
  | .nothing | .reg _ => if op = .cas then .evenW else .scalar

/-- D of GATOM and MWATCH is read at issue, and with a slot target the result lands in it (R222, R225). -/
def gatomRole : Target → Role
  | .slot _ => .both
  | .nothing | .reg _ => .src

/-- D of MWATCH (R225). -/
def watchCls : Target → Cls
  | .slot _ => .frame
  | .nothing | .reg _ => .scalar

/-- D of SATOM (R136). -/
def satomCls (op : AtomOp) : Cls := if op = .cas then .evenW else .scalar

/-- Y of CHSEND and CHSENDM (R255). -/
def sendCls : SendKind → Cls
  | .words => .frame
  | .spad => .scalar

/-- Y and Z of CHRECV (R255). -/
def recvUses : RecvKind → Operand → Operand → List Use
  | .words, y, z => [⟨.frame, .dst, y⟩, ⟨.scalar, .src, z⟩]
  | .spad, y, z => [⟨.scalar, .src, y⟩, ⟨.scalar, .src, z⟩]
  | .latch, _, _ => []

/-- X and Y of TLBI (R377). -/
def tlbiUses : TlbiKind → Operand → Operand → List Use
  | .page, x, y => [⟨.scalar, .src, x⟩, ⟨.scalar, .src, y⟩]
  | .ctx, x, _ => [⟨.scalar, .src, x⟩]
  | .all, _, _ => []

/-- The random operand of SR (R66). -/
def rndUses (c : Cls) : Rounding → List Use
  | .rm _ => []
  | .sr r => [⟨c, .src, r⟩]

/-- Y and Z of the key instructions (R312). -/
def keyCls (vec : Bool) : Cls := if vec then .vector else .scalar

/-- The guard of the key instructions (R312). -/
def phGuard (vec : Bool) : GuardUse := if vec then .lanes 8 else .scalar

/-- A target that the instruction accepts: with `needed`, T = 0x10 is illegal (R69, R170, R217). -/
def Target.ok (needed : Bool) (t : Target) : Bool := !(needed && decide (t = .nothing))

/-- What every seat instruction has: its guard, how it is used, its operand positions, and whether its coded fields and
its target hold permitted values. -/
structure Shape where
  guard : Guard
  gu : GuardUse
  uses : List Use
  coded : Bool
  target : Bool
  deriving DecidableEq, Repr

/-- The shape of an instruction, and `none` for a row that no seat issues. -/
def Instr.shape : Instr → Option Shape
  | .nop g => some ⟨g, .scalar, [], true, true⟩
  | .br g _ => some ⟨g, .scalar, [], true, true⟩
  | .jmp g x _ => some ⟨g, .scalar, [⟨.scalar, .src, x⟩], true, true⟩
  | .call g _ => some ⟨g, .scalar, [], true, true⟩
  | .callr g x _ => some ⟨g, .scalar, [⟨.scalar, .src, x⟩], true, true⟩
  | .ret g => some ⟨g, .scalar, [], true, true⟩
  | .loop g d _ => some ⟨g, .scalar, [⟨.scalar, .both, d⟩], true, true⟩
  | .endT g => some ⟨g, .scalar, [], true, true⟩
  | .trap g _ => some ⟨g, .scalar, [], true, true⟩
  | .brk g _ => some ⟨g, .scalar, [], true, true⟩
  | .add g _ ty d x y => some ⟨g, .scalar, [⟨.scalar, .dst, d⟩, ⟨.scalar, .src, x⟩, ⟨.scalar, .src, y⟩], ty.inI, true⟩
  | .sub g _ ty d x y => some ⟨g, .scalar, [⟨.scalar, .dst, d⟩, ⟨.scalar, .src, x⟩, ⟨.scalar, .src, y⟩], ty.inI, true⟩
  | .mul g _ ty d x y => some ⟨g, .scalar, [⟨.scalar, .dst, d⟩, ⟨.scalar, .src, x⟩, ⟨.scalar, .src, y⟩], ty.inI, true⟩
  | .mulh g ty d x y => some ⟨g, .scalar, [⟨.scalar, .dst, d⟩, ⟨.scalar, .src, x⟩, ⟨.scalar, .src, y⟩], ty.inI, true⟩
  | .div g ty d x y => some ⟨g, .scalar, [⟨.scalar, .dst, d⟩, ⟨.scalar, .src, x⟩, ⟨.scalar, .src, y⟩], ty.inI, true⟩
  | .rem g ty d x y => some ⟨g, .scalar, [⟨.scalar, .dst, d⟩, ⟨.scalar, .src, x⟩, ⟨.scalar, .src, y⟩], ty.inI, true⟩
  | .and g d x y => some ⟨g, .scalar, [⟨.scalar, .dst, d⟩, ⟨.scalar, .src, x⟩, ⟨.scalar, .src, y⟩], true, true⟩
  | .or g d x y => some ⟨g, .scalar, [⟨.scalar, .dst, d⟩, ⟨.scalar, .src, x⟩, ⟨.scalar, .src, y⟩], true, true⟩
  | .xor g d x y => some ⟨g, .scalar, [⟨.scalar, .dst, d⟩, ⟨.scalar, .src, x⟩, ⟨.scalar, .src, y⟩], true, true⟩
  | .andn g d x y => some ⟨g, .scalar, [⟨.scalar, .dst, d⟩, ⟨.scalar, .src, x⟩, ⟨.scalar, .src, y⟩], true, true⟩
  | .orn g d x y => some ⟨g, .scalar, [⟨.scalar, .dst, d⟩, ⟨.scalar, .src, x⟩, ⟨.scalar, .src, y⟩], true, true⟩
  | .shl g ty d x y => some ⟨g, .scalar, [⟨.scalar, .dst, d⟩, ⟨.scalar, .src, x⟩, ⟨.scalar, .src, y⟩], ty.inI, true⟩
  | .shr g ty d x y => some ⟨g, .scalar, [⟨.scalar, .dst, d⟩, ⟨.scalar, .src, x⟩, ⟨.scalar, .src, y⟩], ty.inI, true⟩
  | .sar g ty d x y => some ⟨g, .scalar, [⟨.scalar, .dst, d⟩, ⟨.scalar, .src, x⟩, ⟨.scalar, .src, y⟩], ty.inI, true⟩
  | .rol g ty d x y => some ⟨g, .scalar, [⟨.scalar, .dst, d⟩, ⟨.scalar, .src, x⟩, ⟨.scalar, .src, y⟩], ty.inI, true⟩
  | .ror g ty d x y => some ⟨g, .scalar, [⟨.scalar, .dst, d⟩, ⟨.scalar, .src, x⟩, ⟨.scalar, .src, y⟩], ty.inI, true⟩
  | .min g ty d x y => some ⟨g, .scalar, [⟨.scalar, .dst, d⟩, ⟨.scalar, .src, x⟩, ⟨.scalar, .src, y⟩], ty.inI, true⟩
  | .max g ty d x y => some ⟨g, .scalar, [⟨.scalar, .dst, d⟩, ⟨.scalar, .src, x⟩, ⟨.scalar, .src, y⟩], ty.inI, true⟩
  | .clz g ty d x => some ⟨g, .scalar, [⟨.scalar, .dst, d⟩, ⟨.scalar, .src, x⟩], ty.inI, true⟩
  | .ctz g ty d x => some ⟨g, .scalar, [⟨.scalar, .dst, d⟩, ⟨.scalar, .src, x⟩], ty.inI, true⟩
  | .popc g ty d x => some ⟨g, .scalar, [⟨.scalar, .dst, d⟩, ⟨.scalar, .src, x⟩], ty.inI, true⟩
  | .brev g ty d x => some ⟨g, .scalar, [⟨.scalar, .dst, d⟩, ⟨.scalar, .src, x⟩], ty.inI, true⟩
  | .bswap g ty d x => some ⟨g, .scalar, [⟨.scalar, .dst, d⟩, ⟨.scalar, .src, x⟩], ty.inI, true⟩
  | .ext g ty d x => some ⟨g, .scalar, [⟨.scalar, .dst, d⟩, ⟨.scalar, .src, x⟩], ty.inI, true⟩
  | .bfx g d x y => some ⟨g, .scalar, [⟨.scalar, .dst, d⟩, ⟨.scalar, .src, x⟩, ⟨.scalar, .src, y⟩], true, true⟩
  | .bfi g d x y z => some ⟨g, .scalar, [⟨.scalar, .dst, d⟩, ⟨.scalar, .src, x⟩, ⟨.scalar, .src, y⟩, ⟨.scalar, .src, z⟩], true, true⟩
  | .madd g ty d x y z => some ⟨g, .scalar, [⟨.scalar, .dst, d⟩, ⟨.scalar, .src, x⟩, ⟨.scalar, .src, y⟩, ⟨.scalar, .src, z⟩], ty.inI, true⟩
  | .cmp g cond ty d x y => some ⟨g, .scalar, [⟨.scalarOrMask, .dst, d⟩, ⟨.scalar, .src, x⟩, ⟨.scalar, .src, y⟩], decide (cond ≠ .un) && ty.inI, true⟩
  | .sel g d x y z => some ⟨g, .scalar, [⟨.scalar, .dst, d⟩, ⟨.scalar, .src, x⟩, ⟨.scalar, .src, y⟩, ⟨.scalarOrMask, .src, z⟩], true, true⟩
  | .mov g d x => some ⟨g, .scalar, [⟨.scalarOrMask, .dst, d⟩, ⟨.scalarOrMask, .src, x⟩], true, true⟩
  | .abs g _ ty d x => some ⟨g, .scalar, [⟨.scalar, .dst, d⟩, ⟨.scalar, .src, x⟩], ty.inI, true⟩
  | .neg g _ ty d x => some ⟨g, .scalar, [⟨.scalar, .dst, d⟩, ⟨.scalar, .src, x⟩], ty.inI, true⟩
  | .addi g d x _ => some ⟨g, .scalar, [⟨.scalar, .dst, d⟩, ⟨.scalar, .src, x⟩], true, true⟩
  | .muli g d x _ => some ⟨g, .scalar, [⟨.scalar, .dst, d⟩, ⟨.scalar, .src, x⟩], true, true⟩
  | .andi g d x _ => some ⟨g, .scalar, [⟨.scalar, .dst, d⟩, ⟨.scalar, .src, x⟩], true, true⟩
  | .ori g d x _ => some ⟨g, .scalar, [⟨.scalar, .dst, d⟩, ⟨.scalar, .src, x⟩], true, true⟩
  | .xori g d x _ => some ⟨g, .scalar, [⟨.scalar, .dst, d⟩, ⟨.scalar, .src, x⟩], true, true⟩
  | .shli g d x _ => some ⟨g, .scalar, [⟨.scalar, .dst, d⟩, ⟨.scalar, .src, x⟩], true, true⟩
  | .shri g d x _ => some ⟨g, .scalar, [⟨.scalar, .dst, d⟩, ⟨.scalar, .src, x⟩], true, true⟩
  | .sari g d x _ => some ⟨g, .scalar, [⟨.scalar, .dst, d⟩, ⟨.scalar, .src, x⟩], true, true⟩
  | .cmpi g _ d x _ => some ⟨g, .scalar, [⟨.scalarOrMask, .dst, d⟩, ⟨.scalar, .src, x⟩], true, true⟩
  | .li g d _ => some ⟨g, .scalar, [⟨.scalar, .dst, d⟩], true, true⟩
  | .lih g d _ => some ⟨g, .scalar, [⟨.scalar, .both, d⟩], true, true⟩
  | .li64 g d _ => some ⟨g, .scalar, [⟨.scalar, .dst, d⟩], true, true⟩
  | .lea g d x _ => some ⟨g, .scalar, [⟨.scalar, .dst, d⟩, ⟨.scalar, .src, x⟩], true, true⟩
  | .leaPc g d _ => some ⟨g, .scalar, [⟨.scalar, .dst, d⟩], true, true⟩
  | .fadd g ty rnd d x y => some ⟨g, .scalar, [⟨.scalar, .dst, d⟩, ⟨.scalar, .src, x⟩, ⟨.scalar, .src, y⟩] ++ rndUses .scalar rnd, ty.inF, true⟩
  | .fsub g ty rnd d x y => some ⟨g, .scalar, [⟨.scalar, .dst, d⟩, ⟨.scalar, .src, x⟩, ⟨.scalar, .src, y⟩] ++ rndUses .scalar rnd, ty.inF, true⟩
  | .fmul g ty rnd d x y => some ⟨g, .scalar, [⟨.scalar, .dst, d⟩, ⟨.scalar, .src, x⟩, ⟨.scalar, .src, y⟩] ++ rndUses .scalar rnd, ty.inF, true⟩
  | .ffma g ty _ d x y z => some ⟨g, .scalar, [⟨.scalar, .dst, d⟩, ⟨.scalar, .src, x⟩, ⟨.scalar, .src, y⟩, ⟨.scalar, .src, z⟩], ty.inF, true⟩
  | .fdiv g ty _ d x y => some ⟨g, .scalar, [⟨.scalar, .dst, d⟩, ⟨.scalar, .src, x⟩, ⟨.scalar, .src, y⟩], ty.inF, true⟩
  | .fsqrt g ty _ d x => some ⟨g, .scalar, [⟨.scalar, .dst, d⟩, ⟨.scalar, .src, x⟩], ty.inF, true⟩
  | .fmin g ty d x y => some ⟨g, .scalar, [⟨.scalar, .dst, d⟩, ⟨.scalar, .src, x⟩, ⟨.scalar, .src, y⟩], ty.inF, true⟩
  | .fmax g ty d x y => some ⟨g, .scalar, [⟨.scalar, .dst, d⟩, ⟨.scalar, .src, x⟩, ⟨.scalar, .src, y⟩], ty.inF, true⟩
  | .fcmp g _ ty d x y => some ⟨g, .scalar, [⟨.scalarOrMask, .dst, d⟩, ⟨.scalar, .src, x⟩, ⟨.scalar, .src, y⟩], ty.inF, true⟩
  | .fcvt g _ _ _ rnd d x => some ⟨g, .scalar, [⟨.scalar, .dst, d⟩, ⟨.scalar, .src, x⟩] ++ rndUses .scalar rnd, true, true⟩
  | .fclass g ty d x => some ⟨g, .scalar, [⟨.scalar, .dst, d⟩, ⟨.scalar, .src, x⟩], ty.inF, true⟩
  | .frnd g ty _ d x => some ⟨g, .scalar, [⟨.scalar, .dst, d⟩, ⟨.scalar, .src, x⟩], ty.inF, true⟩
  | .vadd g _ ty d x y => some ⟨g, .lanes (512 / ty.width), [⟨.vector, .dst, d⟩, ⟨.vector, .src, x⟩, ⟨.vector, .src, y⟩], ty.inI, true⟩
  | .vsub g _ ty d x y => some ⟨g, .lanes (512 / ty.width), [⟨.vector, .dst, d⟩, ⟨.vector, .src, x⟩, ⟨.vector, .src, y⟩], ty.inI, true⟩
  | .vmul g _ ty d x y => some ⟨g, .lanes (512 / ty.width), [⟨.vector, .dst, d⟩, ⟨.vector, .src, x⟩, ⟨.vector, .src, y⟩], ty.inI, true⟩
  | .vmulh g ty d x y => some ⟨g, .lanes (512 / ty.width), [⟨.vector, .dst, d⟩, ⟨.vector, .src, x⟩, ⟨.vector, .src, y⟩], ty.inI, true⟩
  | .vmad g ty d x y z => some ⟨g, .lanes (512 / ty.width), [⟨.vector, .dst, d⟩, ⟨.vector, .src, x⟩, ⟨.vector, .src, y⟩, ⟨.vector, .src, z⟩], ty.inI, true⟩
  | .vmin g ty d x y => some ⟨g, .lanes (512 / ty.width), [⟨.vector, .dst, d⟩, ⟨.vector, .src, x⟩, ⟨.vector, .src, y⟩], ty.inI, true⟩
  | .vmax g ty d x y => some ⟨g, .lanes (512 / ty.width), [⟨.vector, .dst, d⟩, ⟨.vector, .src, x⟩, ⟨.vector, .src, y⟩], ty.inI, true⟩
  | .vabsd g ty d x y => some ⟨g, .lanes (512 / ty.width), [⟨.vector, .dst, d⟩, ⟨.vector, .src, x⟩, ⟨.vector, .src, y⟩], ty.inI, true⟩
  | .vand g d x y => some ⟨g, .lanes 64, [⟨.vector, .dst, d⟩, ⟨.vector, .src, x⟩, ⟨.vector, .src, y⟩], true, true⟩
  | .vor g d x y => some ⟨g, .lanes 64, [⟨.vector, .dst, d⟩, ⟨.vector, .src, x⟩, ⟨.vector, .src, y⟩], true, true⟩
  | .vxor g d x y => some ⟨g, .lanes 64, [⟨.vector, .dst, d⟩, ⟨.vector, .src, x⟩, ⟨.vector, .src, y⟩], true, true⟩
  | .vshl g ty d x y => some ⟨g, .lanes (512 / ty.width), [⟨.vector, .dst, d⟩, ⟨.vector, .src, x⟩, ⟨.vector, .src, y⟩], ty.inI, true⟩
  | .vshr g ty d x y => some ⟨g, .lanes (512 / ty.width), [⟨.vector, .dst, d⟩, ⟨.vector, .src, x⟩, ⟨.vector, .src, y⟩], ty.inI, true⟩
  | .vsar g ty d x y => some ⟨g, .lanes (512 / ty.width), [⟨.vector, .dst, d⟩, ⟨.vector, .src, x⟩, ⟨.vector, .src, y⟩], ty.inI, true⟩
  | .vcmp g cond ty d x y => some ⟨g, .lanes (512 / ty.width), [⟨.mask, .dst, d⟩, ⟨.vector, .src, x⟩, ⟨.vector, .src, y⟩], decide (cond ≠ .un) && ty.inI, true⟩
  | .vsel g ty d x y z => some ⟨g, .lanes (512 / ty.width), [⟨.vector, .dst, d⟩, ⟨.vector, .src, x⟩, ⟨.vector, .src, y⟩, ⟨.mask, .src, z⟩], ty.inW, true⟩
  | .vfadd g ty rnd d x y => some ⟨g, .lanes (512 / ty.width), [⟨.vector, .dst, d⟩, ⟨.vector, .src, x⟩, ⟨.vector, .src, y⟩] ++ rndUses .vector rnd, ty.inF, true⟩
  | .vfsub g ty rnd d x y => some ⟨g, .lanes (512 / ty.width), [⟨.vector, .dst, d⟩, ⟨.vector, .src, x⟩, ⟨.vector, .src, y⟩] ++ rndUses .vector rnd, ty.inF, true⟩
  | .vfmul g ty rnd d x y => some ⟨g, .lanes (512 / ty.width), [⟨.vector, .dst, d⟩, ⟨.vector, .src, x⟩, ⟨.vector, .src, y⟩] ++ rndUses .vector rnd, ty.inF, true⟩
  | .vffma g ty _ d x y z => some ⟨g, .lanes (512 / ty.width), [⟨.vector, .dst, d⟩, ⟨.vector, .src, x⟩, ⟨.vector, .src, y⟩, ⟨.vector, .src, z⟩], ty.inF, true⟩
  | .vfmin g ty d x y => some ⟨g, .lanes (512 / ty.width), [⟨.vector, .dst, d⟩, ⟨.vector, .src, x⟩, ⟨.vector, .src, y⟩], ty.inF, true⟩
  | .vfmax g ty d x y => some ⟨g, .lanes (512 / ty.width), [⟨.vector, .dst, d⟩, ⟨.vector, .src, x⟩, ⟨.vector, .src, y⟩], ty.inF, true⟩
  | .vfcmp g _ ty d x y => some ⟨g, .lanes (512 / ty.width), [⟨.mask, .dst, d⟩, ⟨.vector, .src, x⟩, ⟨.vector, .src, y⟩], ty.inF, true⟩
  | .vrcp g ty _ d x => some ⟨g, .lanes (512 / ty.width), [⟨.vector, .dst, d⟩, ⟨.vector, .src, x⟩], ty.inF, true⟩
  | .vrsq g ty _ d x => some ⟨g, .lanes (512 / ty.width), [⟨.vector, .dst, d⟩, ⟨.vector, .src, x⟩], ty.inF, true⟩
  | .vsqrt g ty _ d x => some ⟨g, .lanes (512 / ty.width), [⟨.vector, .dst, d⟩, ⟨.vector, .src, x⟩], ty.inF, true⟩
  | .vfdiv g ty _ d x y => some ⟨g, .lanes (512 / ty.width), [⟨.vector, .dst, d⟩, ⟨.vector, .src, x⟩, ⟨.vector, .src, y⟩], ty.inF, true⟩
  | .vexp2 g ty _ d x => some ⟨g, .lanes (512 / ty.width), [⟨.vector, .dst, d⟩, ⟨.vector, .src, x⟩], ty.inF, true⟩
  | .vlog2 g ty _ d x => some ⟨g, .lanes (512 / ty.width), [⟨.vector, .dst, d⟩, ⟨.vector, .src, x⟩], ty.inF, true⟩
  | .vcvt g _ dt ty rnd d x => some ⟨g, .lanes (512 / Nat.max 8 (Nat.max dt.width ty.width)), [⟨.vector, .dst, d⟩, ⟨.vector, .src, x⟩] ++ rndUses .vector rnd, true, true⟩
  | .vshuf g ty d x y => some ⟨g, .lanes (512 / ty.width), [⟨.vector, .dst, d⟩, ⟨.vector, .src, x⟩, ⟨.vector, .src, y⟩], ty.inW, true⟩
  | .vbcast g ty d x => some ⟨g, .lanes (512 / ty.width), [⟨.vector, .dst, d⟩, ⟨.scalarNoFrame, .src, x⟩], ty.inW, true⟩
  | .vins g ty d x y => some ⟨g, .lanes (512 / ty.width), [⟨.vector, .both, d⟩, ⟨.scalarNoFrame, .src, x⟩, ⟨.scalarNoFrame, .src, y⟩], ty.inW, true⟩
  | .vextr g ty d x y => some ⟨g, .lanes (512 / ty.width), [⟨.scalarNoFrame, .dst, d⟩, ⟨.vector, .src, x⟩, ⟨.scalarNoFrame, .src, y⟩], ty.inW, true⟩
  | .vred g op ty d x => some ⟨g, .lanes (512 / ty.width), [⟨.scalarNoFrame, .dst, d⟩, ⟨.vector, .src, x⟩], ty.inIF && (op.arith || ty.isInt), true⟩
  | .vscan g op ty d x => some ⟨g, .lanes (512 / ty.width), [⟨.vector, .dst, d⟩, ⟨.vector, .src, x⟩], ty.inIF && (op.arith || ty.isInt), true⟩
  | .vdot g ty _ d x y => some ⟨g, .lanes 16, [⟨.vector, .both, d⟩, ⟨.vector, .src, x⟩, ⟨.vector, .src, y⟩], ty.inD8, true⟩
  | .vpack g _ dt _ _ d x y => some ⟨g, .lanes (Nat.min 64 (512 / dt.width)), [⟨.vector, .dst, d⟩, ⟨.vector, .src, x⟩] ++ (if dt.width = 6 then [] else [⟨.vector, .src, y⟩]), (decide (dt.width ≠ 6) || decide (y = .v 0)), true⟩
  | .vunpk g dt ty d x y => some ⟨g, .lanes (Nat.min 64 (512 / dt.width)), [⟨.vector, .dst, d⟩, ⟨.vector, .src, x⟩, ⟨.scalarNoFrame, .src, y⟩], decide (ty.width ≤ dt.width), true⟩
  | .vpopc g ty d x => some ⟨g, .lanes (512 / ty.width), [⟨.vector, .dst, d⟩, ⟨.vector, .src, x⟩], ty.inI, true⟩
  | .vclz g ty d x => some ⟨g, .lanes (512 / ty.width), [⟨.vector, .dst, d⟩, ⟨.vector, .src, x⟩], ty.inI, true⟩
  | .vrng g d x y z => some ⟨g, .lanes 16, [⟨.vector, .dst, d⟩, ⟨.scalarNoFrame, .src, x⟩, ⟨.scalarNoFrame, .src, y⟩, ⟨.scalarNoFrame, .src, z⟩], true, true⟩
  | .kop g op d x y => some ⟨g, .scalar, [⟨.mask, .dst, d⟩, ⟨.mask, .src, x⟩] ++ (if op.unary then [] else [⟨.mask, .src, y⟩]), (!op.unary || decide (y = .k 0)), true⟩
  | .kpopc g d x => some ⟨g, .scalar, [⟨.scalarNoFrame, .dst, d⟩, ⟨.mask, .src, x⟩], true, true⟩
  | .kfirst g d x => some ⟨g, .scalar, [⟨.scalarNoFrame, .dst, d⟩, ⟨.mask, .src, x⟩], true, true⟩
  | .vmov g d x => some ⟨g, .lanes 64, [⟨.vector, .dst, d⟩, ⟨.vector, .src, x⟩], true, true⟩
  | .lds g sext sz d x _ => some ⟨g, .scalar, [⟨.scalar, .dst, d⟩, ⟨.scalar, .src, x⟩], decide (sz.val ≤ 3) && (!sext || sz.val < 3), true⟩
  | .sts g sz d x _ => some ⟨g, .scalar, [⟨.scalar, .src, d⟩, ⟨.scalar, .src, x⟩], decide (sz.val ≤ 3), true⟩
  | .vlds g d x _ => some ⟨g, .lanes 64, [⟨.vector, .dst, d⟩, ⟨.scalarNoFrame, .src, x⟩], true, true⟩
  | .vsts g d x _ => some ⟨g, .lanes 64, [⟨.vector, .src, d⟩, ⟨.scalarNoFrame, .src, x⟩], true, true⟩
  | .vgath g sz d x _ y => some ⟨g, .lanes (64 / 2 ^ sz.val), [⟨.vector, .dst, d⟩, ⟨.scalarNoFrame, .src, x⟩, ⟨.vector, .src, y⟩], decide (sz.val ≤ 3), true⟩
  | .vscat g sz d x _ y => some ⟨g, .lanes (64 / 2 ^ sz.val), [⟨.vector, .src, d⟩, ⟨.scalarNoFrame, .src, x⟩, ⟨.vector, .src, y⟩], decide (sz.val ≤ 3), true⟩
  | .ldf g d x _ => some ⟨g, .lanes 8, [⟨.vector, .dst, d⟩, ⟨.scalarNoFrame, .src, x⟩], true, true⟩
  | .stf g d x _ => some ⟨g, .lanes 8, [⟨.vector, .src, d⟩, ⟨.scalarNoFrame, .src, x⟩], true, true⟩
  | .satom g op sz d x _ => some ⟨g, .scalar, [⟨(satomCls op), .both, d⟩, ⟨.scalar, .src, x⟩], decide (2 ≤ sz.val ∧ sz.val ≤ 3), true⟩
  | .scpy g sz d x _ y => some ⟨g, .scalar, [⟨.scalar, .src, d⟩, ⟨.scalar, .src, x⟩, ⟨.scalar, .src, y⟩], decide (sz.val ≤ 6), true⟩
  | .gld g sext sz d x _ t _ ord => some ⟨g, .scalar, [⟨(resultCls t), .dst, d⟩, ⟨.scalar, .src, x⟩], decide (sz.val ≤ 3) && decide (ord ∈ [.relaxed, .acquire]) && (!sext || sz.val < 3), t.ok true⟩
  | .gst g sz d x _ t _ ord => some ⟨g, .scalar, [⟨.scalar, .src, d⟩, ⟨.scalar, .src, x⟩], decide (sz.val ≤ 3) && decide (ord ∈ [.relaxed, .release]), t.ok false⟩
  | .gldv g d x _ t _ ord => some ⟨g, .scalar, [⟨(resultCls t), .dst, d⟩, ⟨.scalar, .src, x⟩], decide (ord ∈ [.relaxed, .acquire]), t.ok true⟩
  | .gstv g d x _ t _ ord => some ⟨g, .scalar, [⟨.vector, .src, d⟩, ⟨.scalar, .src, x⟩], decide (ord ∈ [.relaxed, .release]), t.ok false⟩
  | .gatom g op sz d x _ t _ _ => some ⟨g, .scalar, [⟨(gatomCls op t), (gatomRole t), d⟩, ⟨.scalar, .src, x⟩], decide (2 ≤ sz.val ∧ sz.val ≤ 3), t.ok true⟩
  | .gred g op sz d x _ t _ ord => some ⟨g, .scalar, [⟨.scalar, .src, d⟩, ⟨.scalar, .src, x⟩], decide (op ≠ .swap ∧ op ≠ .cas) && decide (2 ≤ sz.val ∧ sz.val ≤ 3) && decide (ord ∈ [.relaxed, .release]), t.ok false⟩
  | .ild g d x _ t _ ord => some ⟨g, .scalar, [⟨(resultCls t), .dst, d⟩, ⟨.scalar, .src, x⟩], decide (ord ∈ [.relaxed, .acquire]), t.ok true⟩
  | .ist g d x _ t _ ord => some ⟨g, .scalar, [⟨.scalar, .src, d⟩, ⟨.scalar, .src, x⟩], decide (ord ∈ [.relaxed, .release]), t.ok false⟩
  | .irst g d x _ t _ ord => some ⟨g, .scalar, [⟨.scalar, .src, d⟩, ⟨.scalar, .src, x⟩], decide (ord ∈ [.relaxed, .release]), t.ok false⟩
  | .mwatch g sz d x _ t _ ord => some ⟨g, .scalar, [⟨(watchCls t), (gatomRole t), d⟩, ⟨.scalar, .src, x⟩], decide (2 ≤ sz.val ∧ sz.val ≤ 3) && decide (ord ∈ [.relaxed, .acquire]), t.ok true⟩
  | .dma g x t _ _ => some ⟨g, .scalar, [⟨.scalar, .src, x⟩], true, t.ok false⟩
  | .strmOpen g d x t _ ord => some ⟨g, .scalar, [⟨.scalar, .src, d⟩, ⟨.scalar, .src, x⟩], decide (ord ∈ [.relaxed, .release]), t.ok false⟩
  | .strmAdv g d x t _ ord => some ⟨g, .scalar, [⟨.scalar, .src, d⟩, ⟨.scalar, .src, x⟩], decide (ord ∈ [.relaxed, .release]), t.ok false⟩
  | .strmNotify g d x t _ ord => some ⟨g, .scalar, [⟨.scalar, .src, d⟩, ⟨.scalar, .src, x⟩], decide (ord ∈ [.relaxed, .release]), t.ok false⟩
  | .strmClose g d t _ ord => some ⟨g, .scalar, [⟨.scalar, .src, d⟩], decide (ord ∈ [.relaxed, .release]), t.ok false⟩
  | .fence g t _ ord => some ⟨g, .scalar, [], decide (ord ∈ [.acquire, .release, .acqRel]), t.ok true⟩
  | .pref g sz x _ _ => some ⟨g, .scalar, [⟨.scalar, .src, x⟩], decide (sz.val ≤ 6), true⟩
  | .fnew g _ d t => some ⟨g, .scalar, [⟨(resultCls t), .dst, d⟩], true, t.ok true⟩
  | .ffree g x => some ⟨g, .scalar, [⟨.scalar, .src, x⟩], true, true⟩
  | .sloti g x y => some ⟨g, .scalar, [⟨.scalar, .src, x⟩, ⟨.scalar, .src, y⟩], true, true⟩
  | .slota g x y => some ⟨g, .scalar, [⟨.scalar, .src, x⟩, ⟨.scalar, .src, y⟩], true, true⟩
  | .sig g _ _ x => some ⟨g, .scalar, [⟨.scalar, .src, x⟩], true, true⟩
  | .sigd g _ _ x y => some ⟨g, .scalar, [⟨.scalar, .src, x⟩, ⟨.scalar, .src, y⟩], true, true⟩
  | .cont g d x y z => some ⟨g, .scalar, [⟨.scalar, .dst, d⟩, ⟨.scalar, .src, x⟩, ⟨.scalar, .src, y⟩, ⟨.scalar, .src, z⟩], true, true⟩
  | .spawn g x y t => some ⟨g, .scalar, [⟨.frame, .src, x⟩, ⟨.scalar, .src, y⟩], true, t.ok false⟩
  | .launch g x y t => some ⟨g, .scalar, [⟨.scalar, .src, x⟩, ⟨.scalar, .src, y⟩], true, t.ok false⟩
  | .kend g => some ⟨g, .scalar, [], true, true⟩
  | .bar g t => some ⟨g, .scalar, [], true, t.ok false⟩
  | .ared g op ty d x t => some ⟨g, .scalar, [⟨(resultCls t), .dst, d⟩, ⟨.scalar, .src, x⟩], ty.inIF && (op.arith || ty.isInt), t.ok true⟩
  | .tidx g d x => some ⟨g, .scalar, [⟨.scalar, .dst, d⟩, ⟨.scalar, .src, x⟩], true, true⟩
  | .flags g d => some ⟨g, .scalar, [⟨.scalar, .dst, d⟩], true, true⟩
  | .chsend g kind _ x y z t => some ⟨g, .scalar, [⟨.scalar, .src, x⟩, ⟨(sendCls kind), .src, y⟩, ⟨.scalar, .src, z⟩], true, t.ok false⟩
  | .chrecv g kind x y z t => some ⟨g, .scalar, [⟨.scalar, .src, x⟩] ++ recvUses kind y z, (decide (kind ≠ .latch) || decide (y = .w 0 ∧ z = .w 0)), t.ok false⟩
  | .chsel g _ d x y z t => some ⟨g, .scalar, [⟨.frame, .dst, d⟩, ⟨.scalar, .src, x⟩, ⟨.mask, .src, y⟩, ⟨.scalar, .src, z⟩], true, t.ok false⟩
  | .chsendm g kind _ x y z t => some ⟨g, .scalar, [⟨.scalar, .src, x⟩, ⟨(sendCls kind), .src, y⟩, ⟨.scalar, .src, z⟩], true, t.ok false⟩
  | .chtest g d x t => some ⟨g, .scalar, [⟨(resultCls t), .dst, d⟩, ⟨.scalar, .src, x⟩], true, t.ok true⟩
  | .chbind g x t => some ⟨g, .scalar, [⟨.scalar, .src, x⟩], true, t.ok false⟩
  | .chcan g x => some ⟨g, .scalar, [⟨.scalar, .src, x⟩], true, true⟩
  | .phclaim g x y z t => some ⟨g, .scalar, [⟨.scalar, .src, x⟩, ⟨.scalar, .src, y⟩, ⟨.scalar, .src, z⟩], true, t.ok false⟩
  | .phins g vec d x y z t => some ⟨g, (phGuard vec), [⟨(resultCls t), .dst, d⟩, ⟨.scalar, .src, x⟩, ⟨(keyCls vec), .src, y⟩, ⟨(keyCls vec), .src, z⟩], true, t.ok false⟩
  | .phprb g vec d x y t => some ⟨g, (phGuard vec), [⟨(resultCls t), .dst, d⟩, ⟨.scalar, .src, x⟩, ⟨(keyCls vec), .src, y⟩], true, t.ok true⟩
  | .phdel g vec d x y t => some ⟨g, (phGuard vec), [⟨(resultCls t), .dst, d⟩, ⟨.scalar, .src, x⟩, ⟨(keyCls vec), .src, y⟩], true, t.ok false⟩
  | .phacc g vec _ d x y z t => some ⟨g, (phGuard vec), [⟨(resultCls t), .dst, d⟩, ⟨.scalar, .src, x⟩, ⟨(keyCls vec), .src, y⟩, ⟨(keyCls vec), .src, z⟩], true, t.ok false⟩
  | .phdrn g _ _ d x y z t => some ⟨g, .scalar, [⟨(resultCls t), .dst, d⟩, ⟨.scalar, .src, x⟩, ⟨.scalar, .src, y⟩, ⟨.scalar, .src, z⟩], true, t.ok false⟩
  | .phrls g x t => some ⟨g, .scalar, [⟨.scalar, .src, x⟩], true, t.ok false⟩
  | .phstat g vec d x y t => some ⟨g, (phGuard vec), [⟨(resultCls t), .dst, d⟩, ⟨.scalar, .src, x⟩, ⟨(keyCls vec), .src, y⟩], true, t.ok true⟩
  | .mcfg g x => some ⟨g, .scalar, [⟨.scalar, .src, x⟩], true, true⟩
  | .mlda g x y z t => some ⟨g, .scalar, [⟨.scalar, .src, x⟩, ⟨.scalar, .src, y⟩, ⟨.scalar, .src, z⟩], true, t.ok false⟩
  | .mldb g x y z => some ⟨g, .scalar, [⟨.scalar, .src, x⟩, ⟨.scalar, .src, y⟩, ⟨.scalar, .src, z⟩], true, true⟩
  | .mrun g _ _ x y z t => some ⟨g, .scalar, [⟨.scalar, .src, x⟩, ⟨.scalar, .src, y⟩, ⟨.scalar, .src, z⟩], true, t.ok false⟩
  | .mzero g x => some ⟨g, .scalar, [⟨.scalar, .src, x⟩], true, true⟩
  | .mdrn g _ _ ty _ x y z t => some ⟨g, .scalar, [⟨.scalar, .src, x⟩, ⟨.scalar, .src, y⟩, ⟨.scalar, .src, z⟩], ty.inDrain, t.ok false⟩
  | .msteer g x y => some ⟨g, .scalar, [⟨.scalar, .src, x⟩, ⟨.scalar, .src, y⟩], true, true⟩
  | .mstat g d x t => some ⟨g, .scalar, [⟨(resultCls t), .dst, d⟩, ⟨.scalar, .src, x⟩], true, t.ok true⟩
  | .sysr g d x t => some ⟨g, .scalar, [⟨(resultCls t), .dst, d⟩, ⟨.scalar, .src, x⟩], true, t.ok true⟩
  | .sysw g x y t => some ⟨g, .scalar, [⟨.scalar, .src, x⟩, ⟨.scalar, .src, y⟩], true, t.ok false⟩
  | .fres g _ x y t => some ⟨g, .scalar, [⟨.scalar, .src, x⟩, ⟨.scalar, .src, y⟩], true, t.ok false⟩
  | .tlbi g kind x y t => some ⟨g, .scalar, [] ++ tlbiUses kind x y, (decide (kind ≠ .all) || decide (x = .w 0)) && (decide (kind = .page) || decide (y = .w 0)), t.ok false⟩
  | .tmap g d x t => some ⟨g, .scalar, [⟨(resultCls t), .dst, d⟩, ⟨.scalar, .src, x⟩], true, t.ok true⟩
  | .evictSave g x t => some ⟨g, .scalar, [⟨.scalar, .src, x⟩], true, t.ok false⟩
  | .evictRestore g x t => some ⟨g, .scalar, [⟨.scalar, .src, x⟩], true, t.ok false⟩
  | .dloctl g x y t => some ⟨g, .scalar, [⟨.scalar, .src, x⟩, ⟨.scalar, .src, y⟩], true, t.ok false⟩
  | .halt g x => some ⟨g, .scalar, [⟨.scalar, .src, x⟩], true, true⟩
  | .pick _ _ _ => none
  | .accept _ => none
  | .responseArrival _ => none
  | .writeAck _ _ => none
  | .homeRead _ => none
  | .homeWrite _ => none
  | .homeAtomic _ => none
  | .homeIld _ => none
  | .homeIst _ => none
  | .homeIrst _ => none
  | .mwatchArm _ => none
  | .pageWalk _ _ => none
  | .faultServiceReply _ _ _ => none
  | .taskPickup _ _ _ => none
  | .stealRequest _ _ _ => none
  | .stealServe _ => none
  | .stealReply _ => none
  | .spawnPush _ => none
  | .deferredCreation _ _ _ => none
  | .spillStart _ _ _ => none
  | .spillCheck _ _ _ _ => none
  | .forwardApply _ => none
  | .wake _ => none
  | .deferredWakeSend _ => none
  | .recall _ => none
  | .refillInstall _ => none
  | .recallDone _ => none
  | .trapQueueRetry _ => none
  | .barArrival _ => none
  | .barRelease _ => none
  | .ready _ => none
  | .readySelect _ => none
  | .offer _ => none
  | .go _ => none
  | .release _ => none
  | .dataLanding _ => none
  | .acceptance _ => none
  | .refuse _ => none
  | .withdraw _ => none
  | .channelTest _ => none
  | .bindRequest _ => none
  | .bindReply _ => none
  | .dloDetectionStart _ _ => none
  | .dloQuery _ => none
  | .dloReply _ => none
  | .anvilStep _ _ => none
  | .anvilDrain _ _ => none
  | .phSpillStep _ _ _ => none
  | .phSpillReply _ _ _ => none
  | .dmaBurst _ => none
  | .dmaBurstDone _ _ => none
  | .streamFill _ _ _ _ => none
  | .notify _ _ => none
  | .packetTake _ => none
  | .dependenceMet _ _ => none
  | .admission => none
  | .kernelComplete _ => none
  | .launchCopy _ => none
  | .spanningRelease _ _ => none
  | .evictedTilePacket _ => none
  | .ualinkInbound _ _ _ => none
  | .linkReplay _ => none
  | .linkRetrain _ _ => none
  | .patrol _ _ => none
  | .hmrWrite _ => none
  | .packageReset => none
  | .tamperAlarm => none
  | .sensorSample _ => none
  | .resume _ => none
  | .featcCommit => none
  | .featcReset => none
  | .srcmdRead _ => none
  | .srcmdWrite _ => none
  | .areplyq _ => none
  | .freply _ => none
  | .ckill _ => none
  | .cwgt _ => none
  | .ctxd _ => none
  | .qdesc _ => none
  | .registerWrite _ => none
  | .readStatus => none
  | .readTelemetry => none
  | .repairRead => none
  | .fwWrite _ _ _ _ => none
  | .fwActivate _ _ => none
  | .svnCommit _ => none
  | .repairSign _ _ => none
  | .reset _ => none
  | .getVersion => none
  | .getCapabilities => none
  | .negotiateAlgorithms _ => none
  | .getDigests => none
  | .getCertificate _ _ => none
  | .challenge _ => none
  | .getMeasurements _ _ => none
  | .keyExchange _ _ => none
  | .finish _ _ => none
  | .endSession _ => none
  | .heartbeat _ => none
  | .linkTrained _ _ => none
  | .portm _ => none
  | .route _ => none
  | .withdrawAnswer _ => none
  | .testReply _ => none
  | .instructionFetch _ _ _ => none
  | .taskReturned _ => none

/-- Check 6 of R76: the guard, the operand classes and the target. -/
def Shape.operandsOk (h : Shape) : Bool := h.guard.ok && h.uses.all Use.ok && h.target

/-- A well-formed instruction. The rows that no seat issues have no word and are well formed as they are. -/
def Instr.wf (i : Instr) : Bool :=
  match i.shape with
  | some h => h.coded && h.operandsOk
  | none => true

/-- A row that a seat issues. -/
def Instr.isSeat (i : Instr) : Bool := i.shape.isSome

/-- The privileged opcodes 0xD0 to 0xD7 (R78), SYSR apart, whose test is made on its register. -/
def Instr.privileged : Instr → Bool
  | .sysw _ _ _ _ | .fres _ _ _ _ _ | .tlbi _ _ _ _ _ | .tmap _ _ _ _ | .evictSave _ _ _ | .evictRestore _ _ _
  | .dloctl _ _ _ _ | .halt _ _ => true
  | _ => false

/-- Bytes of an instruction: 16 for LI64 and 8 for every other (R63). -/
def Instr.size : Instr → Nat
  | .li64 _ _ _ => 16
  | _ => 8

end Sys2Proof
end

