-- ==== Sys2Proof/Decode.lean ====
section
/-! DEFINITION. The decoder and the encoder of instruction words (R63 to R76). A word is rejected by name with the check of R76 that
it fails: checks 1 to 3 (`illegal`, cause 0x01), check 5 (`mbz`, cause 0x02) or check 6 (`operand`, cause 0x03). Check 4
(privilege) and the checks from 7 on belong to the machine. -/

namespace Sys2Proof

/-- Which check of R76 a word fails. -/
inductive Reject where
  /-- checks 1 to 3 -/
  | illegal
  /-- check 5 -/
  | mbz
  /-- check 6 -/
  | operand
  deriving DecidableEq, Repr

/-- The fields of a word: bits [63:56], [55:52], [51:48], [47:40], [39:32], [31:24], [23:16], [15:8] and [7:0] (R64, R65). -/
structure Fields where
  opc : Nat
  fn : Nat
  g : Nat
  d : Nat
  x : Nat
  y : Nat
  z : Nat
  t : Nat
  lo : Nat
  deriving DecidableEq, Repr

/-- The fields of a word. -/
def fieldsOf (w : Word) : Fields :=
  let n := w.toNat
  ⟨n / 2 ^ 56 % 256, n / 2 ^ 52 % 16, n / 2 ^ 48 % 16, n / 2 ^ 40 % 256, n / 2 ^ 32 % 256, n / 2 ^ 24 % 256,
    n / 2 ^ 16 % 256, n / 2 ^ 8 % 256, n % 256⟩

/-- The word of the fields. -/
def Fields.word (f : Fields) : Word :=
  BitVec.ofNat 64 (f.opc * 2 ^ 56 + f.fn * 2 ^ 52 + f.g * 2 ^ 48 + f.d * 2 ^ 40 + f.x * 2 ^ 32 + f.y * 2 ^ 24
    + f.z * 2 ^ 16 + f.t * 2 ^ 8 + f.lo)

/-- TY of the R format (R66). -/
def Fields.ty (f : Fields) : Nat := f.t / 8
/-- RM of the R format (R66). -/
def Fields.rm (f : Fields) : Nat := f.t % 8
/-- IMM and DISP (R65). -/
def Fields.imm (f : Fields) : Nat := f.y * 2 ^ 24 + f.z * 2 ^ 16 + f.t * 2 ^ 8 + f.lo
/-- OFF of the M format (R65). -/
def Fields.off (f : Fields) : Nat := f.y * 256 + f.z
/-- SCOPE of the M format. -/
def Fields.scope (f : Fields) : Nat := f.lo / 32
/-- ORDER of the M format. -/
def Fields.order (f : Fields) : Nat := f.lo / 8 % 4
/-- SZ of the M format. -/
def Fields.sz (f : Fields) : Nat := f.lo % 8

/-- What one specifier names (R24); the reserved ranges name nothing. -/
def Operand.ofCode (n : Nat) : Option Operand :=
  if h : n < 0x40 then some (.w ⟨n, h⟩)
  else if h : 0x40 ≤ n ∧ n < 0x60 then some (.v ⟨n - 0x40, by omega⟩)
  else if h : 0x60 ≤ n ∧ n < 0x68 then some (.k ⟨n - 0x60, by omega⟩)
  else if n = 0x68 then some .zr
  else if n = 0x69 then some .fp
  else if n = 0x6A then some .ltn
  else if n = 0x6B then some .core
  else if n = 0x6C then some .seat
  else if n = 0x6D then some .ctx
  else if n = 0x6E then some .cyc
  else if n = 0x6F then some .sig
  else if n = 0x70 then some .lr
  else if h : 0x80 ≤ n ∧ n < 0xF8 then some (.f ⟨n - 0x80, by omega⟩)
  else none

/-- The specifier of an operand (R24). -/
def Operand.code : Operand → Nat
  | .w n => n.val
  | .v n => 0x40 + n.val
  | .k n => 0x60 + n.val
  | .zr => 0x68
  | .fp => 0x69
  | .ltn => 0x6A
  | .core => 0x6B
  | .seat => 0x6C
  | .ctx => 0x6D
  | .cyc => 0x6E
  | .sig => 0x6F
  | .lr => 0x70
  | .f n => 0x80 + n.val

/-- A guard: bit 3 negates, bits [2:0] name the mask (R31). -/
def Guard.ofCode (n : Nat) : Guard := ⟨decide (n / 8 % 2 = 1), ⟨n % 8, by omega⟩⟩
/-- The four bits of a guard. -/
def Guard.code (g : Guard) : Nat := (if g.neg then 8 else 0) + g.k.val

/-- A completion target (R69). -/
def Target.ofCode (n : Nat) : Option Target :=
  if h : n < 8 then some (.slot ⟨n, h⟩)
  else if n = 0x10 then some .nothing
  else if h : 0x80 ≤ n ∧ n < 0xC0 then some (.reg ⟨n - 0x80, by omega⟩)
  else none

/-- The code of a target (R69). -/
def Target.code : Target → Nat
  | .slot n => n.val
  | .nothing => 0x10
  | .reg n => 0x80 + n.val

/-- Type codes (R67). -/
def Ty.code : Ty → Nat
  | .s64 => 0 | .s32 => 1 | .s16 => 2 | .s8 => 3 | .s4 => 4
  | .z64 => 5 | .z32 => 6 | .z16 => 7 | .z8 => 8 | .z4 => 9
  | .f64 => 10 | .f32 => 11 | .f16 => 12 | .bf16 => 13 | .e5m2 => 14
  | .e4m3 => 15 | .e3m2 => 16 | .e2m3 => 17 | .e2m1 => 18 | .e8m0 => 19

/-- The type of a code (R67); codes 20 to 31 are reserved. -/
def Ty.ofCode : Nat → Option Ty
  | 0 => some .s64 | 1 => some .s32 | 2 => some .s16 | 3 => some .s8 | 4 => some .s4
  | 5 => some .z64 | 6 => some .z32 | 7 => some .z16 | 8 => some .z8 | 9 => some .z4
  | 10 => some .f64 | 11 => some .f32 | 12 => some .f16 | 13 => some .bf16 | 14 => some .e5m2
  | 15 => some .e4m3 | 16 => some .e3m2 | 17 => some .e2m3 | 18 => some .e2m1 | 19 => some .e8m0
  | _ => none

/-- A type code that the opcode permits. -/
def tyIn (p : Ty → Bool) (n : Nat) : Option Ty := (Ty.ofCode n).filter p

/-- Rounding modes (R45). -/
def RM.code : RM → Nat
  | .rne => 0 | .rtz => 1 | .rup => 2 | .rdn => 3
/-- Rounding modes 0 to 3. -/
def RM.ofCode : Nat → Option RM
  | 0 => some .rne | 1 => some .rtz | 2 => some .rup | 3 => some .rdn | _ => none
/-- Rounding modes 0 to 4; `none` inside is SR. -/
def RM.ofCodeSr (n : Nat) : Option (Option RM) := if n = 4 then some none else (RM.ofCode n).map some
/-- The rounding with its random operand. -/
def Rounding.ofParts (rm : Option RM) (field : Nat) : Option Rounding :=
  match rm with
  | some m => some (.rm m)
  | none => (Operand.ofCode field).map .sr
/-- RM of a rounding. -/
def Rounding.code : Rounding → Nat
  | .rm m => m.code
  | .sr _ => 4
/-- The operand field of a rounding: MBZ without SR (R66). -/
def Rounding.field : Rounding → Nat
  | .rm _ => 0
  | .sr r => r.code

/-- Condition codes (R74). -/
def Cond.code : Cond → Nat
  | .eq => 0 | .ne => 1 | .lt => 2 | .le => 3 | .gt => 4 | .ge => 5 | .un => 6
/-- Conditions below a bound. -/
def Cond.ofCode (bound n : Nat) : Option Cond :=
  if bound ≤ n then none else
  match n with
  | 0 => some .eq | 1 => some .ne | 2 => some .lt | 3 => some .le | 4 => some .gt | 5 => some .ge | 6 => some .un
  | _ => none
/-- Condition codes of CMPI (R74). -/
def CondI.code : CondI → Nat
  | .eq => 0 | .ne => 1 | .lt => 2 | .le => 3 | .gt => 4 | .ge => 5 | .ltu => 10 | .leu => 11 | .gtu => 12 | .geu => 13
/-- Conditions of CMPI. -/
def CondI.ofCode : Nat → Option CondI
  | 0 => some .eq | 1 => some .ne | 2 => some .lt | 3 => some .le | 4 => some .gt | 5 => some .ge
  | 10 => some .ltu | 11 => some .leu | 12 => some .gtu | 13 => some .geu | _ => none

/-- Atomic codes (R75). -/
def AtomOp.code : AtomOp → Nat
  | .swap => 0 | .cas => 1 | .add => 2 | .and => 3 | .or => 4 | .xor => 5 | .min => 6 | .max => 7 | .minu => 8
  | .maxu => 9 | .fadd => 10
/-- Atomic operations from a first code on (R73, R75). -/
def AtomOp.ofCode (first n : Nat) : Option AtomOp :=
  if n < first then none else
  match n with
  | 0 => some .swap | 1 => some .cas | 2 => some .add | 3 => some .and | 4 => some .or | 5 => some .xor
  | 6 => some .min | 7 => some .max | 8 => some .minu | 9 => some .maxu | 10 => some .fadd | _ => none

/-- Reduction codes (R73). -/
def RedOp.code : RedOp → Nat
  | .add => 0 | .min => 1 | .max => 2 | .and => 3 | .or => 4 | .xor => 5
/-- Reductions. -/
def RedOp.ofCode : Nat → Option RedOp
  | 0 => some .add | 1 => some .min | 2 => some .max | 3 => some .and | 4 => some .or | 5 => some .xor | _ => none
/-- The bitwise reductions take integer types only (R73). -/
def redTy (op : RedOp) (n : Nat) : Option Ty := tyIn (fun t => t.inIF && (op.arith || t.isInt)) n

/-- Mask operation codes (R73). -/
def MaskOp.code : MaskOp → Nat
  | .and => 0 | .or => 1 | .xor => 2 | .andn => 3 | .orn => 4 | .not => 5 | .mov => 6
/-- Mask operations. -/
def MaskOp.ofCode : Nat → Option MaskOp
  | 0 => some .and | 1 => some .or | 2 => some .xor | 3 => some .andn | 4 => some .orn | 5 => some .not | 6 => some .mov
  | _ => none

/-- Scope codes (R68). -/
def Scope.code : Scope → Nat
  | .frame => 0 | .core => 1 | .tile => 2 | .die => 3 | .package => 4 | .pod => 5
/-- Scopes; 6 and 7 are reserved. -/
def Scope.ofCode : Nat → Option Scope
  | 0 => some .frame | 1 => some .core | 2 => some .tile | 3 => some .die | 4 => some .package | 5 => some .pod | _ => none

/-- Order codes (R68). -/
def MemOrder.code : MemOrder → Nat
  | .relaxed => 0 | .acquire => 1 | .release => 2 | .acqRel => 3
/-- Orders that the opcode lists. -/
def MemOrder.ofCode (allowed : List MemOrder) (n : Nat) : Option MemOrder :=
  (match n with
    | 0 => some .relaxed | 1 => some .acquire | 2 => some .release | 3 => some .acqRel | _ => none : Option MemOrder).filter
    fun m => decide (m ∈ allowed)

/-- Status codes (R173). -/
def Status.code : Status → Nat
  | .ok => 0 | .poison => 1 | .fault => 2 | .doubleWrite => 3 | .deadlock => 4 | .refused => 5 | .overflow => 6
  | .cancelled => 7
/-- Statuses: every code of three bits is one. -/
def Status.ofCode (n : Nat) : Status :=
  match n % 8 with
  | 0 => .ok | 1 => .poison | 2 => .fault | 3 => .doubleWrite | 4 => .deadlock | 5 => .refused | 6 => .overflow
  | _ => .cancelled

/-- FN of CHSEND and CHSENDM. -/
def SendKind.code : SendKind → Nat
  | .words => 0 | .spad => 1
/-- Kinds of a send. -/
def SendKind.ofCode : Nat → Option SendKind
  | 0 => some .words | 1 => some .spad | _ => none
/-- FN of CHRECV. -/
def RecvKind.code : RecvKind → Nat
  | .words => 0 | .spad => 1 | .latch => 2
/-- Kinds of a receive. -/
def RecvKind.ofCode : Nat → Option RecvKind
  | 0 => some .words | 1 => some .spad | 2 => some .latch | _ => none
/-- FN [3:1] of PHACC. -/
def AccKind.code : AccKind → Nat
  | .add => 0 | .f32 => 1 | .f64 => 2 | .xacc => 3
/-- Kinds of PHACC. -/
def AccKind.ofCode : Nat → Option AccKind
  | 0 => some .add | 1 => some .f32 | 2 => some .f64 | 3 => some .xacc | _ => none
/-- FN [1:0] of MDRN. -/
def DrainKind.code : DrainKind → Nat
  | .spad => 0 | .chan => 1 | .steer => 2
/-- Kinds of MDRN. -/
def DrainKind.ofCode : Nat → Option DrainKind
  | 0 => some .spad | 1 => some .chan | 2 => some .steer | _ => none
/-- FN of FRES. -/
def FresKind.code : FresKind → Nat
  | .retry => 0 | .skip => 1 | .kill => 2
/-- Kinds of FRES. -/
def FresKind.ofCode : Nat → Option FresKind
  | 0 => some .retry | 1 => some .skip | 2 => some .kill | _ => none
/-- FN of TLBI. -/
def TlbiKind.code : TlbiKind → Nat
  | .page => 0 | .ctx => 1 | .all => 2
/-- Kinds of TLBI. -/
def TlbiKind.ofCode : Nat → Option TlbiKind
  | 0 => some .page | 1 => some .ctx | 2 => some .all | _ => none

/-- An FN or FLAGS value of one bit. -/
def boolOf : Nat → Option Bool
  | 0 => some false | 1 => some true | _ => none
/-- The bit of a Boolean. -/
def bitOf (b : Bool) : Nat := if b then 1 else 0
/-- An SZ between two bounds (R73). -/
def szIn (lo hi n : Nat) : Option (Fin 7) := if h : lo ≤ n ∧ n ≤ hi ∧ n < 7 then some ⟨n, h.2.2⟩ else none

/-- Checks 1 to 3 of R76. -/
def orIllegal {α : Type} : Option α → Except Reject α
  | some a => .ok a
  | none => .error .illegal
/-- A value that check 2 or 3 permits. -/
def permit (b : Bool) : Except Reject Unit := if b then .ok () else .error .illegal
/-- Check 5 of R76: every unused bit is zero. -/
def zeros (b : Bool) : Except Reject Unit := if b then .ok () else .error .mbz
/-- Check 6 of R76 on one specifier. -/
def orOperand {α : Type} : Option α → Except Reject α
  | some a => .ok a
  | none => .error .operand
/-- Check 6 of R76 on the whole instruction: the guard, the classes and the target. -/
def checkOperands (i : Instr) : Except Reject Instr :=
  match i.shape with
  | some h => if h.operandsOk then .ok i else .error .operand
  | none => .error .operand

/-- NOP: its coded fields, its unused bits, its operands, in the order of R76. -/
def decodeNop (f : Fields) : Except Reject Instr := do
  permit (f.fn == 0)
  zeros (f.d == 0 && f.x == 0 && f.imm == 0)
  checkOperands (.nop (Guard.ofCode f.g))

/-- BR: its coded fields, its unused bits, its operands, in the order of R76. -/
def decodeBr (f : Fields) : Except Reject Instr := do
  permit (f.fn == 0)
  zeros (f.d == 0 && f.x == 0)
  checkOperands (.br (Guard.ofCode f.g) (BitVec.ofNat 32 f.imm))

/-- JMP: its coded fields, its unused bits, its operands, in the order of R76. -/
def decodeJmp (f : Fields) : Except Reject Instr := do
  permit (f.fn == 0)
  zeros (f.d == 0)
  let x ← orOperand (Operand.ofCode f.x)
  checkOperands (.jmp (Guard.ofCode f.g) x (BitVec.ofNat 32 f.imm))

/-- CALL: its coded fields, its unused bits, its operands, in the order of R76. -/
def decodeCall (f : Fields) : Except Reject Instr := do
  permit (f.fn == 0)
  zeros (f.d == 0 && f.x == 0)
  checkOperands (.call (Guard.ofCode f.g) (BitVec.ofNat 32 f.imm))

/-- CALLR: its coded fields, its unused bits, its operands, in the order of R76. -/
def decodeCallr (f : Fields) : Except Reject Instr := do
  permit (f.fn == 0)
  zeros (f.d == 0)
  let x ← orOperand (Operand.ofCode f.x)
  checkOperands (.callr (Guard.ofCode f.g) x (BitVec.ofNat 32 f.imm))

/-- RET: its coded fields, its unused bits, its operands, in the order of R76. -/
def decodeRet (f : Fields) : Except Reject Instr := do
  permit (f.fn == 0)
  zeros (f.d == 0 && f.x == 0 && f.imm == 0)
  checkOperands (.ret (Guard.ofCode f.g))

/-- LOOP: its coded fields, its unused bits, its operands, in the order of R76. -/
def decodeLoop (f : Fields) : Except Reject Instr := do
  permit (f.fn == 0)
  zeros (f.x == 0)
  let d ← orOperand (Operand.ofCode f.d)
  checkOperands (.loop (Guard.ofCode f.g) d (BitVec.ofNat 32 f.imm))

/-- END: its coded fields, its unused bits, its operands, in the order of R76. -/
def decodeEndT (f : Fields) : Except Reject Instr := do
  permit (f.fn == 0)
  zeros (f.d == 0 && f.x == 0 && f.imm == 0)
  checkOperands (.endT (Guard.ofCode f.g))

/-- TRAP: its coded fields, its unused bits, its operands, in the order of R76. -/
def decodeTrap (f : Fields) : Except Reject Instr := do
  permit (f.fn == 0)
  zeros (f.d == 0 && f.x == 0)
  checkOperands (.trap (Guard.ofCode f.g) (BitVec.ofNat 32 f.imm))

/-- BRK: its coded fields, its unused bits, its operands, in the order of R76. -/
def decodeBrk (f : Fields) : Except Reject Instr := do
  permit (f.fn == 0)
  zeros (f.d == 0 && f.x == 0)
  checkOperands (.brk (Guard.ofCode f.g) (BitVec.ofNat 32 f.imm))

/-- ADD: its coded fields, its unused bits, its operands, in the order of R76. -/
def decodeAdd (f : Fields) : Except Reject Instr := do
  let sat ← orIllegal (boolOf f.fn)
  let ty ← orIllegal (tyIn Ty.inI f.ty)
  permit (decide (f.rm < 4))
  zeros (f.z == 0 && f.rm == 0 && f.lo == 0)
  let d ← orOperand (Operand.ofCode f.d)
  let x ← orOperand (Operand.ofCode f.x)
  let y ← orOperand (Operand.ofCode f.y)
  checkOperands (.add (Guard.ofCode f.g) sat ty d x y)

/-- SUB: its coded fields, its unused bits, its operands, in the order of R76. -/
def decodeSub (f : Fields) : Except Reject Instr := do
  let sat ← orIllegal (boolOf f.fn)
  let ty ← orIllegal (tyIn Ty.inI f.ty)
  permit (decide (f.rm < 4))
  zeros (f.z == 0 && f.rm == 0 && f.lo == 0)
  let d ← orOperand (Operand.ofCode f.d)
  let x ← orOperand (Operand.ofCode f.x)
  let y ← orOperand (Operand.ofCode f.y)
  checkOperands (.sub (Guard.ofCode f.g) sat ty d x y)

/-- MUL: its coded fields, its unused bits, its operands, in the order of R76. -/
def decodeMul (f : Fields) : Except Reject Instr := do
  let sat ← orIllegal (boolOf f.fn)
  let ty ← orIllegal (tyIn Ty.inI f.ty)
  permit (decide (f.rm < 4))
  zeros (f.z == 0 && f.rm == 0 && f.lo == 0)
  let d ← orOperand (Operand.ofCode f.d)
  let x ← orOperand (Operand.ofCode f.x)
  let y ← orOperand (Operand.ofCode f.y)
  checkOperands (.mul (Guard.ofCode f.g) sat ty d x y)

/-- MULH: its coded fields, its unused bits, its operands, in the order of R76. -/
def decodeMulh (f : Fields) : Except Reject Instr := do
  permit (f.fn == 0)
  let ty ← orIllegal (tyIn Ty.inI f.ty)
  permit (decide (f.rm < 4))
  zeros (f.z == 0 && f.rm == 0 && f.lo == 0)
  let d ← orOperand (Operand.ofCode f.d)
  let x ← orOperand (Operand.ofCode f.x)
  let y ← orOperand (Operand.ofCode f.y)
  checkOperands (.mulh (Guard.ofCode f.g) ty d x y)

/-- DIV: its coded fields, its unused bits, its operands, in the order of R76. -/
def decodeDiv (f : Fields) : Except Reject Instr := do
  permit (f.fn == 0)
  let ty ← orIllegal (tyIn Ty.inI f.ty)
  permit (decide (f.rm < 4))
  zeros (f.z == 0 && f.rm == 0 && f.lo == 0)
  let d ← orOperand (Operand.ofCode f.d)
  let x ← orOperand (Operand.ofCode f.x)
  let y ← orOperand (Operand.ofCode f.y)
  checkOperands (.div (Guard.ofCode f.g) ty d x y)

/-- REM: its coded fields, its unused bits, its operands, in the order of R76. -/
def decodeRem (f : Fields) : Except Reject Instr := do
  permit (f.fn == 0)
  let ty ← orIllegal (tyIn Ty.inI f.ty)
  permit (decide (f.rm < 4))
  zeros (f.z == 0 && f.rm == 0 && f.lo == 0)
  let d ← orOperand (Operand.ofCode f.d)
  let x ← orOperand (Operand.ofCode f.x)
  let y ← orOperand (Operand.ofCode f.y)
  checkOperands (.rem (Guard.ofCode f.g) ty d x y)

/-- AND: its coded fields, its unused bits, its operands, in the order of R76. -/
def decodeAnd (f : Fields) : Except Reject Instr := do
  permit (f.fn == 0)
  permit (decide (f.rm < 4))
  zeros (f.z == 0 && f.ty == 0 && f.rm == 0 && f.lo == 0)
  let d ← orOperand (Operand.ofCode f.d)
  let x ← orOperand (Operand.ofCode f.x)
  let y ← orOperand (Operand.ofCode f.y)
  checkOperands (.and (Guard.ofCode f.g) d x y)

/-- OR: its coded fields, its unused bits, its operands, in the order of R76. -/
def decodeOr (f : Fields) : Except Reject Instr := do
  permit (f.fn == 0)
  permit (decide (f.rm < 4))
  zeros (f.z == 0 && f.ty == 0 && f.rm == 0 && f.lo == 0)
  let d ← orOperand (Operand.ofCode f.d)
  let x ← orOperand (Operand.ofCode f.x)
  let y ← orOperand (Operand.ofCode f.y)
  checkOperands (.or (Guard.ofCode f.g) d x y)

/-- XOR: its coded fields, its unused bits, its operands, in the order of R76. -/
def decodeXor (f : Fields) : Except Reject Instr := do
  permit (f.fn == 0)
  permit (decide (f.rm < 4))
  zeros (f.z == 0 && f.ty == 0 && f.rm == 0 && f.lo == 0)
  let d ← orOperand (Operand.ofCode f.d)
  let x ← orOperand (Operand.ofCode f.x)
  let y ← orOperand (Operand.ofCode f.y)
  checkOperands (.xor (Guard.ofCode f.g) d x y)

/-- ANDN: its coded fields, its unused bits, its operands, in the order of R76. -/
def decodeAndn (f : Fields) : Except Reject Instr := do
  permit (f.fn == 0)
  permit (decide (f.rm < 4))
  zeros (f.z == 0 && f.ty == 0 && f.rm == 0 && f.lo == 0)
  let d ← orOperand (Operand.ofCode f.d)
  let x ← orOperand (Operand.ofCode f.x)
  let y ← orOperand (Operand.ofCode f.y)
  checkOperands (.andn (Guard.ofCode f.g) d x y)

/-- ORN: its coded fields, its unused bits, its operands, in the order of R76. -/
def decodeOrn (f : Fields) : Except Reject Instr := do
  permit (f.fn == 0)
  permit (decide (f.rm < 4))
  zeros (f.z == 0 && f.ty == 0 && f.rm == 0 && f.lo == 0)
  let d ← orOperand (Operand.ofCode f.d)
  let x ← orOperand (Operand.ofCode f.x)
  let y ← orOperand (Operand.ofCode f.y)
  checkOperands (.orn (Guard.ofCode f.g) d x y)

/-- SHL: its coded fields, its unused bits, its operands, in the order of R76. -/
def decodeShl (f : Fields) : Except Reject Instr := do
  permit (f.fn == 0)
  let ty ← orIllegal (tyIn Ty.inI f.ty)
  permit (decide (f.rm < 4))
  zeros (f.z == 0 && f.rm == 0 && f.lo == 0)
  let d ← orOperand (Operand.ofCode f.d)
  let x ← orOperand (Operand.ofCode f.x)
  let y ← orOperand (Operand.ofCode f.y)
  checkOperands (.shl (Guard.ofCode f.g) ty d x y)

/-- SHR: its coded fields, its unused bits, its operands, in the order of R76. -/
def decodeShr (f : Fields) : Except Reject Instr := do
  permit (f.fn == 0)
  let ty ← orIllegal (tyIn Ty.inI f.ty)
  permit (decide (f.rm < 4))
  zeros (f.z == 0 && f.rm == 0 && f.lo == 0)
  let d ← orOperand (Operand.ofCode f.d)
  let x ← orOperand (Operand.ofCode f.x)
  let y ← orOperand (Operand.ofCode f.y)
  checkOperands (.shr (Guard.ofCode f.g) ty d x y)

/-- SAR: its coded fields, its unused bits, its operands, in the order of R76. -/
def decodeSar (f : Fields) : Except Reject Instr := do
  permit (f.fn == 0)
  let ty ← orIllegal (tyIn Ty.inI f.ty)
  permit (decide (f.rm < 4))
  zeros (f.z == 0 && f.rm == 0 && f.lo == 0)
  let d ← orOperand (Operand.ofCode f.d)
  let x ← orOperand (Operand.ofCode f.x)
  let y ← orOperand (Operand.ofCode f.y)
  checkOperands (.sar (Guard.ofCode f.g) ty d x y)

/-- ROL: its coded fields, its unused bits, its operands, in the order of R76. -/
def decodeRol (f : Fields) : Except Reject Instr := do
  permit (f.fn == 0)
  let ty ← orIllegal (tyIn Ty.inI f.ty)
  permit (decide (f.rm < 4))
  zeros (f.z == 0 && f.rm == 0 && f.lo == 0)
  let d ← orOperand (Operand.ofCode f.d)
  let x ← orOperand (Operand.ofCode f.x)
  let y ← orOperand (Operand.ofCode f.y)
  checkOperands (.rol (Guard.ofCode f.g) ty d x y)

/-- ROR: its coded fields, its unused bits, its operands, in the order of R76. -/
def decodeRor (f : Fields) : Except Reject Instr := do
  permit (f.fn == 0)
  let ty ← orIllegal (tyIn Ty.inI f.ty)
  permit (decide (f.rm < 4))
  zeros (f.z == 0 && f.rm == 0 && f.lo == 0)
  let d ← orOperand (Operand.ofCode f.d)
  let x ← orOperand (Operand.ofCode f.x)
  let y ← orOperand (Operand.ofCode f.y)
  checkOperands (.ror (Guard.ofCode f.g) ty d x y)

/-- MIN: its coded fields, its unused bits, its operands, in the order of R76. -/
def decodeMin (f : Fields) : Except Reject Instr := do
  permit (f.fn == 0)
  let ty ← orIllegal (tyIn Ty.inI f.ty)
  permit (decide (f.rm < 4))
  zeros (f.z == 0 && f.rm == 0 && f.lo == 0)
  let d ← orOperand (Operand.ofCode f.d)
  let x ← orOperand (Operand.ofCode f.x)
  let y ← orOperand (Operand.ofCode f.y)
  checkOperands (.min (Guard.ofCode f.g) ty d x y)

/-- MAX: its coded fields, its unused bits, its operands, in the order of R76. -/
def decodeMax (f : Fields) : Except Reject Instr := do
  permit (f.fn == 0)
  let ty ← orIllegal (tyIn Ty.inI f.ty)
  permit (decide (f.rm < 4))
  zeros (f.z == 0 && f.rm == 0 && f.lo == 0)
  let d ← orOperand (Operand.ofCode f.d)
  let x ← orOperand (Operand.ofCode f.x)
  let y ← orOperand (Operand.ofCode f.y)
  checkOperands (.max (Guard.ofCode f.g) ty d x y)

/-- CLZ: its coded fields, its unused bits, its operands, in the order of R76. -/
def decodeClz (f : Fields) : Except Reject Instr := do
  permit (f.fn == 0)
  let ty ← orIllegal (tyIn Ty.inI f.ty)
  permit (decide (f.rm < 4))
  zeros (f.y == 0 && f.z == 0 && f.rm == 0 && f.lo == 0)
  let d ← orOperand (Operand.ofCode f.d)
  let x ← orOperand (Operand.ofCode f.x)
  checkOperands (.clz (Guard.ofCode f.g) ty d x)

/-- CTZ: its coded fields, its unused bits, its operands, in the order of R76. -/
def decodeCtz (f : Fields) : Except Reject Instr := do
  permit (f.fn == 0)
  let ty ← orIllegal (tyIn Ty.inI f.ty)
  permit (decide (f.rm < 4))
  zeros (f.y == 0 && f.z == 0 && f.rm == 0 && f.lo == 0)
  let d ← orOperand (Operand.ofCode f.d)
  let x ← orOperand (Operand.ofCode f.x)
  checkOperands (.ctz (Guard.ofCode f.g) ty d x)

/-- POPC: its coded fields, its unused bits, its operands, in the order of R76. -/
def decodePopc (f : Fields) : Except Reject Instr := do
  permit (f.fn == 0)
  let ty ← orIllegal (tyIn Ty.inI f.ty)
  permit (decide (f.rm < 4))
  zeros (f.y == 0 && f.z == 0 && f.rm == 0 && f.lo == 0)
  let d ← orOperand (Operand.ofCode f.d)
  let x ← orOperand (Operand.ofCode f.x)
  checkOperands (.popc (Guard.ofCode f.g) ty d x)

/-- BREV: its coded fields, its unused bits, its operands, in the order of R76. -/
def decodeBrev (f : Fields) : Except Reject Instr := do
  permit (f.fn == 0)
  let ty ← orIllegal (tyIn Ty.inI f.ty)
  permit (decide (f.rm < 4))
  zeros (f.y == 0 && f.z == 0 && f.rm == 0 && f.lo == 0)
  let d ← orOperand (Operand.ofCode f.d)
  let x ← orOperand (Operand.ofCode f.x)
  checkOperands (.brev (Guard.ofCode f.g) ty d x)

/-- BSWAP: its coded fields, its unused bits, its operands, in the order of R76. -/
def decodeBswap (f : Fields) : Except Reject Instr := do
  permit (f.fn == 0)
  let ty ← orIllegal (tyIn Ty.inI f.ty)
  permit (decide (f.rm < 4))
  zeros (f.y == 0 && f.z == 0 && f.rm == 0 && f.lo == 0)
  let d ← orOperand (Operand.ofCode f.d)
  let x ← orOperand (Operand.ofCode f.x)
  checkOperands (.bswap (Guard.ofCode f.g) ty d x)

/-- EXT: its coded fields, its unused bits, its operands, in the order of R76. -/
def decodeExt (f : Fields) : Except Reject Instr := do
  permit (f.fn == 0)
  let ty ← orIllegal (tyIn Ty.inI f.ty)
  permit (decide (f.rm < 4))
  zeros (f.y == 0 && f.z == 0 && f.rm == 0 && f.lo == 0)
  let d ← orOperand (Operand.ofCode f.d)
  let x ← orOperand (Operand.ofCode f.x)
  checkOperands (.ext (Guard.ofCode f.g) ty d x)

/-- BFX: its coded fields, its unused bits, its operands, in the order of R76. -/
def decodeBfx (f : Fields) : Except Reject Instr := do
  permit (f.fn == 0)
  permit (decide (f.rm < 4))
  zeros (f.z == 0 && f.ty == 0 && f.rm == 0 && f.lo == 0)
  let d ← orOperand (Operand.ofCode f.d)
  let x ← orOperand (Operand.ofCode f.x)
  let y ← orOperand (Operand.ofCode f.y)
  checkOperands (.bfx (Guard.ofCode f.g) d x y)

/-- BFI: its coded fields, its unused bits, its operands, in the order of R76. -/
def decodeBfi (f : Fields) : Except Reject Instr := do
  permit (f.fn == 0)
  permit (decide (f.rm < 4))
  zeros (f.ty == 0 && f.rm == 0 && f.lo == 0)
  let d ← orOperand (Operand.ofCode f.d)
  let x ← orOperand (Operand.ofCode f.x)
  let y ← orOperand (Operand.ofCode f.y)
  let z ← orOperand (Operand.ofCode f.z)
  checkOperands (.bfi (Guard.ofCode f.g) d x y z)

/-- MADD: its coded fields, its unused bits, its operands, in the order of R76. -/
def decodeMadd (f : Fields) : Except Reject Instr := do
  permit (f.fn == 0)
  let ty ← orIllegal (tyIn Ty.inI f.ty)
  permit (decide (f.rm < 4))
  zeros (f.rm == 0 && f.lo == 0)
  let d ← orOperand (Operand.ofCode f.d)
  let x ← orOperand (Operand.ofCode f.x)
  let y ← orOperand (Operand.ofCode f.y)
  let z ← orOperand (Operand.ofCode f.z)
  checkOperands (.madd (Guard.ofCode f.g) ty d x y z)

/-- CMP: its coded fields, its unused bits, its operands, in the order of R76. -/
def decodeCmp (f : Fields) : Except Reject Instr := do
  let cond ← orIllegal (Cond.ofCode 6 f.fn)
  let ty ← orIllegal (tyIn Ty.inI f.ty)
  permit (decide (f.rm < 4))
  zeros (f.z == 0 && f.rm == 0 && f.lo == 0)
  let d ← orOperand (Operand.ofCode f.d)
  let x ← orOperand (Operand.ofCode f.x)
  let y ← orOperand (Operand.ofCode f.y)
  checkOperands (.cmp (Guard.ofCode f.g) cond ty d x y)

/-- SEL: its coded fields, its unused bits, its operands, in the order of R76. -/
def decodeSel (f : Fields) : Except Reject Instr := do
  permit (f.fn == 0)
  permit (decide (f.rm < 4))
  zeros (f.ty == 0 && f.rm == 0 && f.lo == 0)
  let d ← orOperand (Operand.ofCode f.d)
  let x ← orOperand (Operand.ofCode f.x)
  let y ← orOperand (Operand.ofCode f.y)
  let z ← orOperand (Operand.ofCode f.z)
  checkOperands (.sel (Guard.ofCode f.g) d x y z)

/-- MOV: its coded fields, its unused bits, its operands, in the order of R76. -/
def decodeMov (f : Fields) : Except Reject Instr := do
  permit (f.fn == 0)
  permit (decide (f.rm < 4))
  zeros (f.y == 0 && f.z == 0 && f.ty == 0 && f.rm == 0 && f.lo == 0)
  let d ← orOperand (Operand.ofCode f.d)
  let x ← orOperand (Operand.ofCode f.x)
  checkOperands (.mov (Guard.ofCode f.g) d x)

/-- ABS: its coded fields, its unused bits, its operands, in the order of R76. -/
def decodeAbs (f : Fields) : Except Reject Instr := do
  let sat ← orIllegal (boolOf f.fn)
  let ty ← orIllegal (tyIn Ty.inI f.ty)
  permit (decide (f.rm < 4))
  zeros (f.y == 0 && f.z == 0 && f.rm == 0 && f.lo == 0)
  let d ← orOperand (Operand.ofCode f.d)
  let x ← orOperand (Operand.ofCode f.x)
  checkOperands (.abs (Guard.ofCode f.g) sat ty d x)

/-- NEG: its coded fields, its unused bits, its operands, in the order of R76. -/
def decodeNeg (f : Fields) : Except Reject Instr := do
  let sat ← orIllegal (boolOf f.fn)
  let ty ← orIllegal (tyIn Ty.inI f.ty)
  permit (decide (f.rm < 4))
  zeros (f.y == 0 && f.z == 0 && f.rm == 0 && f.lo == 0)
  let d ← orOperand (Operand.ofCode f.d)
  let x ← orOperand (Operand.ofCode f.x)
  checkOperands (.neg (Guard.ofCode f.g) sat ty d x)

/-- ADDI: its coded fields, its unused bits, its operands, in the order of R76. -/
def decodeAddi (f : Fields) : Except Reject Instr := do
  permit (f.fn == 0)
  let d ← orOperand (Operand.ofCode f.d)
  let x ← orOperand (Operand.ofCode f.x)
  checkOperands (.addi (Guard.ofCode f.g) d x (BitVec.ofNat 32 f.imm))

/-- MULI: its coded fields, its unused bits, its operands, in the order of R76. -/
def decodeMuli (f : Fields) : Except Reject Instr := do
  permit (f.fn == 0)
  let d ← orOperand (Operand.ofCode f.d)
  let x ← orOperand (Operand.ofCode f.x)
  checkOperands (.muli (Guard.ofCode f.g) d x (BitVec.ofNat 32 f.imm))

/-- ANDI: its coded fields, its unused bits, its operands, in the order of R76. -/
def decodeAndi (f : Fields) : Except Reject Instr := do
  permit (f.fn == 0)
  let d ← orOperand (Operand.ofCode f.d)
  let x ← orOperand (Operand.ofCode f.x)
  checkOperands (.andi (Guard.ofCode f.g) d x (BitVec.ofNat 32 f.imm))

/-- ORI: its coded fields, its unused bits, its operands, in the order of R76. -/
def decodeOri (f : Fields) : Except Reject Instr := do
  permit (f.fn == 0)
  let d ← orOperand (Operand.ofCode f.d)
  let x ← orOperand (Operand.ofCode f.x)
  checkOperands (.ori (Guard.ofCode f.g) d x (BitVec.ofNat 32 f.imm))

/-- XORI: its coded fields, its unused bits, its operands, in the order of R76. -/
def decodeXori (f : Fields) : Except Reject Instr := do
  permit (f.fn == 0)
  let d ← orOperand (Operand.ofCode f.d)
  let x ← orOperand (Operand.ofCode f.x)
  checkOperands (.xori (Guard.ofCode f.g) d x (BitVec.ofNat 32 f.imm))

/-- SHLI: its coded fields, its unused bits, its operands, in the order of R76. -/
def decodeShli (f : Fields) : Except Reject Instr := do
  permit (f.fn == 0)
  zeros (f.imm / 64 == 0)
  let d ← orOperand (Operand.ofCode f.d)
  let x ← orOperand (Operand.ofCode f.x)
  checkOperands (.shli (Guard.ofCode f.g) d x (BitVec.ofNat 6 f.imm))

/-- SHRI: its coded fields, its unused bits, its operands, in the order of R76. -/
def decodeShri (f : Fields) : Except Reject Instr := do
  permit (f.fn == 0)
  zeros (f.imm / 64 == 0)
  let d ← orOperand (Operand.ofCode f.d)
  let x ← orOperand (Operand.ofCode f.x)
  checkOperands (.shri (Guard.ofCode f.g) d x (BitVec.ofNat 6 f.imm))

/-- SARI: its coded fields, its unused bits, its operands, in the order of R76. -/
def decodeSari (f : Fields) : Except Reject Instr := do
  permit (f.fn == 0)
  zeros (f.imm / 64 == 0)
  let d ← orOperand (Operand.ofCode f.d)
  let x ← orOperand (Operand.ofCode f.x)
  checkOperands (.sari (Guard.ofCode f.g) d x (BitVec.ofNat 6 f.imm))

/-- CMPI: its coded fields, its unused bits, its operands, in the order of R76. -/
def decodeCmpi (f : Fields) : Except Reject Instr := do
  let cond ← orIllegal (CondI.ofCode f.fn)
  let d ← orOperand (Operand.ofCode f.d)
  let x ← orOperand (Operand.ofCode f.x)
  checkOperands (.cmpi (Guard.ofCode f.g) cond d x (BitVec.ofNat 32 f.imm))

/-- LI: its coded fields, its unused bits, its operands, in the order of R76. -/
def decodeLi (f : Fields) : Except Reject Instr := do
  permit (f.fn == 0)
  zeros (f.x == 0)
  let d ← orOperand (Operand.ofCode f.d)
  checkOperands (.li (Guard.ofCode f.g) d (BitVec.ofNat 32 f.imm))

/-- LIH: its coded fields, its unused bits, its operands, in the order of R76. -/
def decodeLih (f : Fields) : Except Reject Instr := do
  permit (f.fn == 0)
  zeros (f.x == 0)
  let d ← orOperand (Operand.ofCode f.d)
  checkOperands (.lih (Guard.ofCode f.g) d (BitVec.ofNat 32 f.imm))

/-- LI64: its coded fields, its unused bits, its operands, in the order of R76. -/
def decodeLi64 (f : Fields) (w1 : Word) : Except Reject Instr := do
  permit (f.fn == 0)
  zeros (f.x == 0 && w1.toNat / 2 ^ 32 == 0)
  let d ← orOperand (Operand.ofCode f.d)
  checkOperands (.li64 (Guard.ofCode f.g) d (BitVec.ofNat 64 (w1.toNat % 2 ^ 32 * 2 ^ 32 + f.imm)))

/-- LEA: its coded fields, its unused bits, its operands, in the order of R76. -/
def decodeLea (f : Fields) : Except Reject Instr := do
  let d ← orOperand (Operand.ofCode f.d)
  let x ← orOperand (Operand.ofCode f.x)
  checkOperands (.lea (Guard.ofCode f.g) d x (BitVec.ofNat 32 f.imm))

/-- LEA_PC: its coded fields, its unused bits, its operands, in the order of R76. -/
def decodeLeaPc (f : Fields) : Except Reject Instr := do
  zeros (f.x == 0)
  let d ← orOperand (Operand.ofCode f.d)
  checkOperands (.leaPc (Guard.ofCode f.g) d (BitVec.ofNat 32 f.imm))

/-- FADD: its coded fields, its unused bits, its operands, in the order of R76. -/
def decodeFadd (f : Fields) : Except Reject Instr := do
  permit (f.fn == 0)
  let ty ← orIllegal (tyIn Ty.inF f.ty)
  let rm ← orIllegal (RM.ofCodeSr f.rm)
  zeros ((rm.isNone || f.z == 0) && f.lo == 0)
  let rnd ← orOperand (Rounding.ofParts rm f.z)
  let d ← orOperand (Operand.ofCode f.d)
  let x ← orOperand (Operand.ofCode f.x)
  let y ← orOperand (Operand.ofCode f.y)
  checkOperands (.fadd (Guard.ofCode f.g) ty rnd d x y)

/-- FSUB: its coded fields, its unused bits, its operands, in the order of R76. -/
def decodeFsub (f : Fields) : Except Reject Instr := do
  permit (f.fn == 0)
  let ty ← orIllegal (tyIn Ty.inF f.ty)
  let rm ← orIllegal (RM.ofCodeSr f.rm)
  zeros ((rm.isNone || f.z == 0) && f.lo == 0)
  let rnd ← orOperand (Rounding.ofParts rm f.z)
  let d ← orOperand (Operand.ofCode f.d)
  let x ← orOperand (Operand.ofCode f.x)
  let y ← orOperand (Operand.ofCode f.y)
  checkOperands (.fsub (Guard.ofCode f.g) ty rnd d x y)

/-- FMUL: its coded fields, its unused bits, its operands, in the order of R76. -/
def decodeFmul (f : Fields) : Except Reject Instr := do
  permit (f.fn == 0)
  let ty ← orIllegal (tyIn Ty.inF f.ty)
  let rm ← orIllegal (RM.ofCodeSr f.rm)
  zeros ((rm.isNone || f.z == 0) && f.lo == 0)
  let rnd ← orOperand (Rounding.ofParts rm f.z)
  let d ← orOperand (Operand.ofCode f.d)
  let x ← orOperand (Operand.ofCode f.x)
  let y ← orOperand (Operand.ofCode f.y)
  checkOperands (.fmul (Guard.ofCode f.g) ty rnd d x y)

/-- FFMA: its coded fields, its unused bits, its operands, in the order of R76. -/
def decodeFfma (f : Fields) : Except Reject Instr := do
  permit (f.fn == 0)
  let ty ← orIllegal (tyIn Ty.inF f.ty)
  let rm ← orIllegal (RM.ofCode f.rm)
  zeros (f.lo == 0)
  let d ← orOperand (Operand.ofCode f.d)
  let x ← orOperand (Operand.ofCode f.x)
  let y ← orOperand (Operand.ofCode f.y)
  let z ← orOperand (Operand.ofCode f.z)
  checkOperands (.ffma (Guard.ofCode f.g) ty rm d x y z)

/-- FDIV: its coded fields, its unused bits, its operands, in the order of R76. -/
def decodeFdiv (f : Fields) : Except Reject Instr := do
  permit (f.fn == 0)
  let ty ← orIllegal (tyIn Ty.inF f.ty)
  let rm ← orIllegal (RM.ofCode f.rm)
  zeros (f.z == 0 && f.lo == 0)
  let d ← orOperand (Operand.ofCode f.d)
  let x ← orOperand (Operand.ofCode f.x)
  let y ← orOperand (Operand.ofCode f.y)
  checkOperands (.fdiv (Guard.ofCode f.g) ty rm d x y)

/-- FSQRT: its coded fields, its unused bits, its operands, in the order of R76. -/
def decodeFsqrt (f : Fields) : Except Reject Instr := do
  permit (f.fn == 0)
  let ty ← orIllegal (tyIn Ty.inF f.ty)
  let rm ← orIllegal (RM.ofCode f.rm)
  zeros (f.y == 0 && f.z == 0 && f.lo == 0)
  let d ← orOperand (Operand.ofCode f.d)
  let x ← orOperand (Operand.ofCode f.x)
  checkOperands (.fsqrt (Guard.ofCode f.g) ty rm d x)

/-- FMIN: its coded fields, its unused bits, its operands, in the order of R76. -/
def decodeFmin (f : Fields) : Except Reject Instr := do
  permit (f.fn == 0)
  let ty ← orIllegal (tyIn Ty.inF f.ty)
  permit (decide (f.rm < 4))
  zeros (f.z == 0 && f.rm == 0 && f.lo == 0)
  let d ← orOperand (Operand.ofCode f.d)
  let x ← orOperand (Operand.ofCode f.x)
  let y ← orOperand (Operand.ofCode f.y)
  checkOperands (.fmin (Guard.ofCode f.g) ty d x y)

/-- FMAX: its coded fields, its unused bits, its operands, in the order of R76. -/
def decodeFmax (f : Fields) : Except Reject Instr := do
  permit (f.fn == 0)
  let ty ← orIllegal (tyIn Ty.inF f.ty)
  permit (decide (f.rm < 4))
  zeros (f.z == 0 && f.rm == 0 && f.lo == 0)
  let d ← orOperand (Operand.ofCode f.d)
  let x ← orOperand (Operand.ofCode f.x)
  let y ← orOperand (Operand.ofCode f.y)
  checkOperands (.fmax (Guard.ofCode f.g) ty d x y)

/-- FCMP: its coded fields, its unused bits, its operands, in the order of R76. -/
def decodeFcmp (f : Fields) : Except Reject Instr := do
  let cond ← orIllegal (Cond.ofCode 7 f.fn)
  let ty ← orIllegal (tyIn Ty.inF f.ty)
  permit (decide (f.rm < 4))
  zeros (f.z == 0 && f.rm == 0 && f.lo == 0)
  let d ← orOperand (Operand.ofCode f.d)
  let x ← orOperand (Operand.ofCode f.x)
  let y ← orOperand (Operand.ofCode f.y)
  checkOperands (.fcmp (Guard.ofCode f.g) cond ty d x y)

/-- FCVT: its coded fields, its unused bits, its operands, in the order of R76. -/
def decodeFcvt (f : Fields) : Except Reject Instr := do
  let sat ← orIllegal (boolOf f.fn)
  let dt ← orIllegal (Ty.ofCode (f.z % 32))
  let ty ← orIllegal (tyIn (fun _ => true) f.ty)
  let rm ← orIllegal (RM.ofCodeSr f.rm)
  zeros (f.z / 32 == 0 && (rm.isNone || f.y == 0) && f.lo == 0)
  let rnd ← orOperand (Rounding.ofParts rm f.y)
  let d ← orOperand (Operand.ofCode f.d)
  let x ← orOperand (Operand.ofCode f.x)
  checkOperands (.fcvt (Guard.ofCode f.g) sat dt ty rnd d x)

/-- FCLASS: its coded fields, its unused bits, its operands, in the order of R76. -/
def decodeFclass (f : Fields) : Except Reject Instr := do
  permit (f.fn == 0)
  let ty ← orIllegal (tyIn Ty.inF f.ty)
  permit (decide (f.rm < 4))
  zeros (f.y == 0 && f.z == 0 && f.rm == 0 && f.lo == 0)
  let d ← orOperand (Operand.ofCode f.d)
  let x ← orOperand (Operand.ofCode f.x)
  checkOperands (.fclass (Guard.ofCode f.g) ty d x)

/-- FRND: its coded fields, its unused bits, its operands, in the order of R76. -/
def decodeFrnd (f : Fields) : Except Reject Instr := do
  permit (f.fn == 0)
  let ty ← orIllegal (tyIn Ty.inF f.ty)
  let rm ← orIllegal (RM.ofCode f.rm)
  zeros (f.y == 0 && f.z == 0 && f.lo == 0)
  let d ← orOperand (Operand.ofCode f.d)
  let x ← orOperand (Operand.ofCode f.x)
  checkOperands (.frnd (Guard.ofCode f.g) ty rm d x)

/-- VADD: its coded fields, its unused bits, its operands, in the order of R76. -/
def decodeVadd (f : Fields) : Except Reject Instr := do
  let sat ← orIllegal (boolOf f.fn)
  let ty ← orIllegal (tyIn Ty.inI f.ty)
  permit (decide (f.rm < 4))
  zeros (f.z == 0 && f.rm == 0 && f.lo == 0)
  let d ← orOperand (Operand.ofCode f.d)
  let x ← orOperand (Operand.ofCode f.x)
  let y ← orOperand (Operand.ofCode f.y)
  checkOperands (.vadd (Guard.ofCode f.g) sat ty d x y)

/-- VSUB: its coded fields, its unused bits, its operands, in the order of R76. -/
def decodeVsub (f : Fields) : Except Reject Instr := do
  let sat ← orIllegal (boolOf f.fn)
  let ty ← orIllegal (tyIn Ty.inI f.ty)
  permit (decide (f.rm < 4))
  zeros (f.z == 0 && f.rm == 0 && f.lo == 0)
  let d ← orOperand (Operand.ofCode f.d)
  let x ← orOperand (Operand.ofCode f.x)
  let y ← orOperand (Operand.ofCode f.y)
  checkOperands (.vsub (Guard.ofCode f.g) sat ty d x y)

/-- VMUL: its coded fields, its unused bits, its operands, in the order of R76. -/
def decodeVmul (f : Fields) : Except Reject Instr := do
  let sat ← orIllegal (boolOf f.fn)
  let ty ← orIllegal (tyIn Ty.inI f.ty)
  permit (decide (f.rm < 4))
  zeros (f.z == 0 && f.rm == 0 && f.lo == 0)
  let d ← orOperand (Operand.ofCode f.d)
  let x ← orOperand (Operand.ofCode f.x)
  let y ← orOperand (Operand.ofCode f.y)
  checkOperands (.vmul (Guard.ofCode f.g) sat ty d x y)

/-- VMULH: its coded fields, its unused bits, its operands, in the order of R76. -/
def decodeVmulh (f : Fields) : Except Reject Instr := do
  permit (f.fn == 0)
  let ty ← orIllegal (tyIn Ty.inI f.ty)
  permit (decide (f.rm < 4))
  zeros (f.z == 0 && f.rm == 0 && f.lo == 0)
  let d ← orOperand (Operand.ofCode f.d)
  let x ← orOperand (Operand.ofCode f.x)
  let y ← orOperand (Operand.ofCode f.y)
  checkOperands (.vmulh (Guard.ofCode f.g) ty d x y)

/-- VMAD: its coded fields, its unused bits, its operands, in the order of R76. -/
def decodeVmad (f : Fields) : Except Reject Instr := do
  permit (f.fn == 0)
  let ty ← orIllegal (tyIn Ty.inI f.ty)
  permit (decide (f.rm < 4))
  zeros (f.rm == 0 && f.lo == 0)
  let d ← orOperand (Operand.ofCode f.d)
  let x ← orOperand (Operand.ofCode f.x)
  let y ← orOperand (Operand.ofCode f.y)
  let z ← orOperand (Operand.ofCode f.z)
  checkOperands (.vmad (Guard.ofCode f.g) ty d x y z)

/-- VMIN: its coded fields, its unused bits, its operands, in the order of R76. -/
def decodeVmin (f : Fields) : Except Reject Instr := do
  permit (f.fn == 0)
  let ty ← orIllegal (tyIn Ty.inI f.ty)
  permit (decide (f.rm < 4))
  zeros (f.z == 0 && f.rm == 0 && f.lo == 0)
  let d ← orOperand (Operand.ofCode f.d)
  let x ← orOperand (Operand.ofCode f.x)
  let y ← orOperand (Operand.ofCode f.y)
  checkOperands (.vmin (Guard.ofCode f.g) ty d x y)

/-- VMAX: its coded fields, its unused bits, its operands, in the order of R76. -/
def decodeVmax (f : Fields) : Except Reject Instr := do
  permit (f.fn == 0)
  let ty ← orIllegal (tyIn Ty.inI f.ty)
  permit (decide (f.rm < 4))
  zeros (f.z == 0 && f.rm == 0 && f.lo == 0)
  let d ← orOperand (Operand.ofCode f.d)
  let x ← orOperand (Operand.ofCode f.x)
  let y ← orOperand (Operand.ofCode f.y)
  checkOperands (.vmax (Guard.ofCode f.g) ty d x y)

/-- VABSD: its coded fields, its unused bits, its operands, in the order of R76. -/
def decodeVabsd (f : Fields) : Except Reject Instr := do
  permit (f.fn == 0)
  let ty ← orIllegal (tyIn Ty.inI f.ty)
  permit (decide (f.rm < 4))
  zeros (f.z == 0 && f.rm == 0 && f.lo == 0)
  let d ← orOperand (Operand.ofCode f.d)
  let x ← orOperand (Operand.ofCode f.x)
  let y ← orOperand (Operand.ofCode f.y)
  checkOperands (.vabsd (Guard.ofCode f.g) ty d x y)

/-- VAND: its coded fields, its unused bits, its operands, in the order of R76. -/
def decodeVand (f : Fields) : Except Reject Instr := do
  permit (f.fn == 0)
  permit (decide (f.rm < 4))
  zeros (f.z == 0 && f.ty == 0 && f.rm == 0 && f.lo == 0)
  let d ← orOperand (Operand.ofCode f.d)
  let x ← orOperand (Operand.ofCode f.x)
  let y ← orOperand (Operand.ofCode f.y)
  checkOperands (.vand (Guard.ofCode f.g) d x y)

/-- VOR: its coded fields, its unused bits, its operands, in the order of R76. -/
def decodeVor (f : Fields) : Except Reject Instr := do
  permit (f.fn == 0)
  permit (decide (f.rm < 4))
  zeros (f.z == 0 && f.ty == 0 && f.rm == 0 && f.lo == 0)
  let d ← orOperand (Operand.ofCode f.d)
  let x ← orOperand (Operand.ofCode f.x)
  let y ← orOperand (Operand.ofCode f.y)
  checkOperands (.vor (Guard.ofCode f.g) d x y)

/-- VXOR: its coded fields, its unused bits, its operands, in the order of R76. -/
def decodeVxor (f : Fields) : Except Reject Instr := do
  permit (f.fn == 0)
  permit (decide (f.rm < 4))
  zeros (f.z == 0 && f.ty == 0 && f.rm == 0 && f.lo == 0)
  let d ← orOperand (Operand.ofCode f.d)
  let x ← orOperand (Operand.ofCode f.x)
  let y ← orOperand (Operand.ofCode f.y)
  checkOperands (.vxor (Guard.ofCode f.g) d x y)

/-- VSHL: its coded fields, its unused bits, its operands, in the order of R76. -/
def decodeVshl (f : Fields) : Except Reject Instr := do
  permit (f.fn == 0)
  let ty ← orIllegal (tyIn Ty.inI f.ty)
  permit (decide (f.rm < 4))
  zeros (f.z == 0 && f.rm == 0 && f.lo == 0)
  let d ← orOperand (Operand.ofCode f.d)
  let x ← orOperand (Operand.ofCode f.x)
  let y ← orOperand (Operand.ofCode f.y)
  checkOperands (.vshl (Guard.ofCode f.g) ty d x y)

/-- VSHR: its coded fields, its unused bits, its operands, in the order of R76. -/
def decodeVshr (f : Fields) : Except Reject Instr := do
  permit (f.fn == 0)
  let ty ← orIllegal (tyIn Ty.inI f.ty)
  permit (decide (f.rm < 4))
  zeros (f.z == 0 && f.rm == 0 && f.lo == 0)
  let d ← orOperand (Operand.ofCode f.d)
  let x ← orOperand (Operand.ofCode f.x)
  let y ← orOperand (Operand.ofCode f.y)
  checkOperands (.vshr (Guard.ofCode f.g) ty d x y)

/-- VSAR: its coded fields, its unused bits, its operands, in the order of R76. -/
def decodeVsar (f : Fields) : Except Reject Instr := do
  permit (f.fn == 0)
  let ty ← orIllegal (tyIn Ty.inI f.ty)
  permit (decide (f.rm < 4))
  zeros (f.z == 0 && f.rm == 0 && f.lo == 0)
  let d ← orOperand (Operand.ofCode f.d)
  let x ← orOperand (Operand.ofCode f.x)
  let y ← orOperand (Operand.ofCode f.y)
  checkOperands (.vsar (Guard.ofCode f.g) ty d x y)

/-- VCMP: its coded fields, its unused bits, its operands, in the order of R76. -/
def decodeVcmp (f : Fields) : Except Reject Instr := do
  let cond ← orIllegal (Cond.ofCode 6 f.fn)
  let ty ← orIllegal (tyIn Ty.inI f.ty)
  permit (decide (f.rm < 4))
  zeros (f.z == 0 && f.rm == 0 && f.lo == 0)
  let d ← orOperand (Operand.ofCode f.d)
  let x ← orOperand (Operand.ofCode f.x)
  let y ← orOperand (Operand.ofCode f.y)
  checkOperands (.vcmp (Guard.ofCode f.g) cond ty d x y)

/-- VSEL: its coded fields, its unused bits, its operands, in the order of R76. -/
def decodeVsel (f : Fields) : Except Reject Instr := do
  permit (f.fn == 0)
  let ty ← orIllegal (tyIn Ty.inW f.ty)
  permit (decide (f.rm < 4))
  zeros (f.rm == 0 && f.lo == 0)
  let d ← orOperand (Operand.ofCode f.d)
  let x ← orOperand (Operand.ofCode f.x)
  let y ← orOperand (Operand.ofCode f.y)
  let z ← orOperand (Operand.ofCode f.z)
  checkOperands (.vsel (Guard.ofCode f.g) ty d x y z)

/-- VFADD: its coded fields, its unused bits, its operands, in the order of R76. -/
def decodeVfadd (f : Fields) : Except Reject Instr := do
  permit (f.fn == 0)
  let ty ← orIllegal (tyIn Ty.inF f.ty)
  let rm ← orIllegal (RM.ofCodeSr f.rm)
  zeros ((rm.isNone || f.z == 0) && f.lo == 0)
  let rnd ← orOperand (Rounding.ofParts rm f.z)
  let d ← orOperand (Operand.ofCode f.d)
  let x ← orOperand (Operand.ofCode f.x)
  let y ← orOperand (Operand.ofCode f.y)
  checkOperands (.vfadd (Guard.ofCode f.g) ty rnd d x y)

/-- VFSUB: its coded fields, its unused bits, its operands, in the order of R76. -/
def decodeVfsub (f : Fields) : Except Reject Instr := do
  permit (f.fn == 0)
  let ty ← orIllegal (tyIn Ty.inF f.ty)
  let rm ← orIllegal (RM.ofCodeSr f.rm)
  zeros ((rm.isNone || f.z == 0) && f.lo == 0)
  let rnd ← orOperand (Rounding.ofParts rm f.z)
  let d ← orOperand (Operand.ofCode f.d)
  let x ← orOperand (Operand.ofCode f.x)
  let y ← orOperand (Operand.ofCode f.y)
  checkOperands (.vfsub (Guard.ofCode f.g) ty rnd d x y)

/-- VFMUL: its coded fields, its unused bits, its operands, in the order of R76. -/
def decodeVfmul (f : Fields) : Except Reject Instr := do
  permit (f.fn == 0)
  let ty ← orIllegal (tyIn Ty.inF f.ty)
  let rm ← orIllegal (RM.ofCodeSr f.rm)
  zeros ((rm.isNone || f.z == 0) && f.lo == 0)
  let rnd ← orOperand (Rounding.ofParts rm f.z)
  let d ← orOperand (Operand.ofCode f.d)
  let x ← orOperand (Operand.ofCode f.x)
  let y ← orOperand (Operand.ofCode f.y)
  checkOperands (.vfmul (Guard.ofCode f.g) ty rnd d x y)

/-- VFFMA: its coded fields, its unused bits, its operands, in the order of R76. -/
def decodeVffma (f : Fields) : Except Reject Instr := do
  permit (f.fn == 0)
  let ty ← orIllegal (tyIn Ty.inF f.ty)
  let rm ← orIllegal (RM.ofCode f.rm)
  zeros (f.lo == 0)
  let d ← orOperand (Operand.ofCode f.d)
  let x ← orOperand (Operand.ofCode f.x)
  let y ← orOperand (Operand.ofCode f.y)
  let z ← orOperand (Operand.ofCode f.z)
  checkOperands (.vffma (Guard.ofCode f.g) ty rm d x y z)

/-- VFMIN: its coded fields, its unused bits, its operands, in the order of R76. -/
def decodeVfmin (f : Fields) : Except Reject Instr := do
  permit (f.fn == 0)
  let ty ← orIllegal (tyIn Ty.inF f.ty)
  permit (decide (f.rm < 4))
  zeros (f.z == 0 && f.rm == 0 && f.lo == 0)
  let d ← orOperand (Operand.ofCode f.d)
  let x ← orOperand (Operand.ofCode f.x)
  let y ← orOperand (Operand.ofCode f.y)
  checkOperands (.vfmin (Guard.ofCode f.g) ty d x y)

/-- VFMAX: its coded fields, its unused bits, its operands, in the order of R76. -/
def decodeVfmax (f : Fields) : Except Reject Instr := do
  permit (f.fn == 0)
  let ty ← orIllegal (tyIn Ty.inF f.ty)
  permit (decide (f.rm < 4))
  zeros (f.z == 0 && f.rm == 0 && f.lo == 0)
  let d ← orOperand (Operand.ofCode f.d)
  let x ← orOperand (Operand.ofCode f.x)
  let y ← orOperand (Operand.ofCode f.y)
  checkOperands (.vfmax (Guard.ofCode f.g) ty d x y)

/-- VFCMP: its coded fields, its unused bits, its operands, in the order of R76. -/
def decodeVfcmp (f : Fields) : Except Reject Instr := do
  let cond ← orIllegal (Cond.ofCode 7 f.fn)
  let ty ← orIllegal (tyIn Ty.inF f.ty)
  permit (decide (f.rm < 4))
  zeros (f.z == 0 && f.rm == 0 && f.lo == 0)
  let d ← orOperand (Operand.ofCode f.d)
  let x ← orOperand (Operand.ofCode f.x)
  let y ← orOperand (Operand.ofCode f.y)
  checkOperands (.vfcmp (Guard.ofCode f.g) cond ty d x y)

/-- VRCP: its coded fields, its unused bits, its operands, in the order of R76. -/
def decodeVrcp (f : Fields) : Except Reject Instr := do
  permit (f.fn == 0)
  let ty ← orIllegal (tyIn Ty.inF f.ty)
  let rm ← orIllegal (RM.ofCode f.rm)
  zeros (f.y == 0 && f.z == 0 && f.lo == 0)
  let d ← orOperand (Operand.ofCode f.d)
  let x ← orOperand (Operand.ofCode f.x)
  checkOperands (.vrcp (Guard.ofCode f.g) ty rm d x)

/-- VRSQ: its coded fields, its unused bits, its operands, in the order of R76. -/
def decodeVrsq (f : Fields) : Except Reject Instr := do
  permit (f.fn == 0)
  let ty ← orIllegal (tyIn Ty.inF f.ty)
  let rm ← orIllegal (RM.ofCode f.rm)
  zeros (f.y == 0 && f.z == 0 && f.lo == 0)
  let d ← orOperand (Operand.ofCode f.d)
  let x ← orOperand (Operand.ofCode f.x)
  checkOperands (.vrsq (Guard.ofCode f.g) ty rm d x)

/-- VSQRT: its coded fields, its unused bits, its operands, in the order of R76. -/
def decodeVsqrt (f : Fields) : Except Reject Instr := do
  permit (f.fn == 0)
  let ty ← orIllegal (tyIn Ty.inF f.ty)
  let rm ← orIllegal (RM.ofCode f.rm)
  zeros (f.y == 0 && f.z == 0 && f.lo == 0)
  let d ← orOperand (Operand.ofCode f.d)
  let x ← orOperand (Operand.ofCode f.x)
  checkOperands (.vsqrt (Guard.ofCode f.g) ty rm d x)

/-- VFDIV: its coded fields, its unused bits, its operands, in the order of R76. -/
def decodeVfdiv (f : Fields) : Except Reject Instr := do
  permit (f.fn == 0)
  let ty ← orIllegal (tyIn Ty.inF f.ty)
  let rm ← orIllegal (RM.ofCode f.rm)
  zeros (f.z == 0 && f.lo == 0)
  let d ← orOperand (Operand.ofCode f.d)
  let x ← orOperand (Operand.ofCode f.x)
  let y ← orOperand (Operand.ofCode f.y)
  checkOperands (.vfdiv (Guard.ofCode f.g) ty rm d x y)

/-- VEXP2: its coded fields, its unused bits, its operands, in the order of R76. -/
def decodeVexp2 (f : Fields) : Except Reject Instr := do
  permit (f.fn == 0)
  let ty ← orIllegal (tyIn Ty.inF f.ty)
  let rm ← orIllegal (RM.ofCode f.rm)
  zeros (f.y == 0 && f.z == 0 && f.lo == 0)
  let d ← orOperand (Operand.ofCode f.d)
  let x ← orOperand (Operand.ofCode f.x)
  checkOperands (.vexp2 (Guard.ofCode f.g) ty rm d x)

/-- VLOG2: its coded fields, its unused bits, its operands, in the order of R76. -/
def decodeVlog2 (f : Fields) : Except Reject Instr := do
  permit (f.fn == 0)
  let ty ← orIllegal (tyIn Ty.inF f.ty)
  let rm ← orIllegal (RM.ofCode f.rm)
  zeros (f.y == 0 && f.z == 0 && f.lo == 0)
  let d ← orOperand (Operand.ofCode f.d)
  let x ← orOperand (Operand.ofCode f.x)
  checkOperands (.vlog2 (Guard.ofCode f.g) ty rm d x)

/-- VCVT: its coded fields, its unused bits, its operands, in the order of R76. -/
def decodeVcvt (f : Fields) : Except Reject Instr := do
  let sat ← orIllegal (boolOf f.fn)
  let dt ← orIllegal (Ty.ofCode (f.z % 32))
  let ty ← orIllegal (tyIn (fun _ => true) f.ty)
  let rm ← orIllegal (RM.ofCodeSr f.rm)
  zeros (f.z / 32 == 0 && (rm.isNone || f.y == 0) && f.lo == 0)
  let rnd ← orOperand (Rounding.ofParts rm f.y)
  let d ← orOperand (Operand.ofCode f.d)
  let x ← orOperand (Operand.ofCode f.x)
  checkOperands (.vcvt (Guard.ofCode f.g) sat dt ty rnd d x)

/-- VSHUF: its coded fields, its unused bits, its operands, in the order of R76. -/
def decodeVshuf (f : Fields) : Except Reject Instr := do
  permit (f.fn == 0)
  let ty ← orIllegal (tyIn Ty.inW f.ty)
  permit (decide (f.rm < 4))
  zeros (f.z == 0 && f.rm == 0 && f.lo == 0)
  let d ← orOperand (Operand.ofCode f.d)
  let x ← orOperand (Operand.ofCode f.x)
  let y ← orOperand (Operand.ofCode f.y)
  checkOperands (.vshuf (Guard.ofCode f.g) ty d x y)

/-- VBCAST: its coded fields, its unused bits, its operands, in the order of R76. -/
def decodeVbcast (f : Fields) : Except Reject Instr := do
  permit (f.fn == 0)
  let ty ← orIllegal (tyIn Ty.inW f.ty)
  permit (decide (f.rm < 4))
  zeros (f.y == 0 && f.z == 0 && f.rm == 0 && f.lo == 0)
  let d ← orOperand (Operand.ofCode f.d)
  let x ← orOperand (Operand.ofCode f.x)
  checkOperands (.vbcast (Guard.ofCode f.g) ty d x)

/-- VINS: its coded fields, its unused bits, its operands, in the order of R76. -/
def decodeVins (f : Fields) : Except Reject Instr := do
  permit (f.fn == 0)
  let ty ← orIllegal (tyIn Ty.inW f.ty)
  permit (decide (f.rm < 4))
  zeros (f.z == 0 && f.rm == 0 && f.lo == 0)
  let d ← orOperand (Operand.ofCode f.d)
  let x ← orOperand (Operand.ofCode f.x)
  let y ← orOperand (Operand.ofCode f.y)
  checkOperands (.vins (Guard.ofCode f.g) ty d x y)

/-- VEXTR: its coded fields, its unused bits, its operands, in the order of R76. -/
def decodeVextr (f : Fields) : Except Reject Instr := do
  permit (f.fn == 0)
  let ty ← orIllegal (tyIn Ty.inW f.ty)
  permit (decide (f.rm < 4))
  zeros (f.z == 0 && f.rm == 0 && f.lo == 0)
  let d ← orOperand (Operand.ofCode f.d)
  let x ← orOperand (Operand.ofCode f.x)
  let y ← orOperand (Operand.ofCode f.y)
  checkOperands (.vextr (Guard.ofCode f.g) ty d x y)

/-- VRED: its coded fields, its unused bits, its operands, in the order of R76. -/
def decodeVred (f : Fields) : Except Reject Instr := do
  let op ← orIllegal (RedOp.ofCode f.fn)
  let ty ← orIllegal (redTy op f.ty)
  permit (decide (f.rm < 4))
  zeros (f.y == 0 && f.z == 0 && f.rm == 0 && f.lo == 0)
  let d ← orOperand (Operand.ofCode f.d)
  let x ← orOperand (Operand.ofCode f.x)
  checkOperands (.vred (Guard.ofCode f.g) op ty d x)

/-- VSCAN: its coded fields, its unused bits, its operands, in the order of R76. -/
def decodeVscan (f : Fields) : Except Reject Instr := do
  let op ← orIllegal (RedOp.ofCode f.fn)
  let ty ← orIllegal (redTy op f.ty)
  permit (decide (f.rm < 4))
  zeros (f.y == 0 && f.z == 0 && f.rm == 0 && f.lo == 0)
  let d ← orOperand (Operand.ofCode f.d)
  let x ← orOperand (Operand.ofCode f.x)
  checkOperands (.vscan (Guard.ofCode f.g) op ty d x)

/-- VDOT: its coded fields, its unused bits, its operands, in the order of R76. -/
def decodeVdot (f : Fields) : Except Reject Instr := do
  permit (f.fn == 0)
  let ty ← orIllegal (tyIn Ty.inD8 f.ty)
  let rm ← orIllegal (RM.ofCode f.rm)
  zeros (f.z == 0 && f.lo == 0)
  let d ← orOperand (Operand.ofCode f.d)
  let x ← orOperand (Operand.ofCode f.x)
  let y ← orOperand (Operand.ofCode f.y)
  checkOperands (.vdot (Guard.ofCode f.g) ty rm d x y)

/-- VPACK: its coded fields, its unused bits, its operands, in the order of R76. -/
def decodeVpack (f : Fields) : Except Reject Instr := do
  let sat ← orIllegal (boolOf f.fn)
  let dt ← orIllegal (Ty.ofCode (f.z % 32))
  let ty ← orIllegal (tyIn (fun _ => true) f.ty)
  let rm ← orIllegal (RM.ofCode f.rm)
  zeros (f.z / 32 == 0 && (decide (dt.width ≠ 6) || f.y == 0) && f.lo == 0)
  let d ← orOperand (Operand.ofCode f.d)
  let x ← orOperand (Operand.ofCode f.x)
  let y ← orOperand (if dt.width = 6 then some (.v 0) else Operand.ofCode f.y)
  checkOperands (.vpack (Guard.ofCode f.g) sat dt ty rm d x y)

/-- VUNPK: its coded fields, its unused bits, its operands, in the order of R76. -/
def decodeVunpk (f : Fields) : Except Reject Instr := do
  permit (f.fn == 0)
  let dt ← orIllegal (Ty.ofCode (f.z % 32))
  let ty ← orIllegal (tyIn (fun _ => true) f.ty)
  permit (decide (ty.width ≤ dt.width))
  permit (decide (f.rm < 4))
  zeros (f.z / 32 == 0 && f.rm == 0 && f.lo == 0)
  let d ← orOperand (Operand.ofCode f.d)
  let x ← orOperand (Operand.ofCode f.x)
  let y ← orOperand (Operand.ofCode f.y)
  checkOperands (.vunpk (Guard.ofCode f.g) dt ty d x y)

/-- VPOPC: its coded fields, its unused bits, its operands, in the order of R76. -/
def decodeVpopc (f : Fields) : Except Reject Instr := do
  permit (f.fn == 0)
  let ty ← orIllegal (tyIn Ty.inI f.ty)
  permit (decide (f.rm < 4))
  zeros (f.y == 0 && f.z == 0 && f.rm == 0 && f.lo == 0)
  let d ← orOperand (Operand.ofCode f.d)
  let x ← orOperand (Operand.ofCode f.x)
  checkOperands (.vpopc (Guard.ofCode f.g) ty d x)

/-- VCLZ: its coded fields, its unused bits, its operands, in the order of R76. -/
def decodeVclz (f : Fields) : Except Reject Instr := do
  permit (f.fn == 0)
  let ty ← orIllegal (tyIn Ty.inI f.ty)
  permit (decide (f.rm < 4))
  zeros (f.y == 0 && f.z == 0 && f.rm == 0 && f.lo == 0)
  let d ← orOperand (Operand.ofCode f.d)
  let x ← orOperand (Operand.ofCode f.x)
  checkOperands (.vclz (Guard.ofCode f.g) ty d x)

/-- VRNG: its coded fields, its unused bits, its operands, in the order of R76. -/
def decodeVrng (f : Fields) : Except Reject Instr := do
  permit (f.fn == 0)
  permit (decide (f.rm < 4))
  zeros (f.ty == 0 && f.rm == 0 && f.lo == 0)
  let d ← orOperand (Operand.ofCode f.d)
  let x ← orOperand (Operand.ofCode f.x)
  let y ← orOperand (Operand.ofCode f.y)
  let z ← orOperand (Operand.ofCode f.z)
  checkOperands (.vrng (Guard.ofCode f.g) d x y z)

/-- KOP: its coded fields, its unused bits, its operands, in the order of R76. -/
def decodeKop (f : Fields) : Except Reject Instr := do
  let op ← orIllegal (MaskOp.ofCode f.fn)
  permit (decide (f.rm < 4))
  zeros ((!op.unary || f.y == 0) && f.z == 0 && f.ty == 0 && f.rm == 0 && f.lo == 0)
  let d ← orOperand (Operand.ofCode f.d)
  let x ← orOperand (Operand.ofCode f.x)
  let y ← orOperand (if op.unary then some (.k 0) else Operand.ofCode f.y)
  checkOperands (.kop (Guard.ofCode f.g) op d x y)

/-- KPOPC: its coded fields, its unused bits, its operands, in the order of R76. -/
def decodeKpopc (f : Fields) : Except Reject Instr := do
  permit (f.fn == 0)
  permit (decide (f.rm < 4))
  zeros (f.y == 0 && f.z == 0 && f.ty == 0 && f.rm == 0 && f.lo == 0)
  let d ← orOperand (Operand.ofCode f.d)
  let x ← orOperand (Operand.ofCode f.x)
  checkOperands (.kpopc (Guard.ofCode f.g) d x)

/-- KFIRST: its coded fields, its unused bits, its operands, in the order of R76. -/
def decodeKfirst (f : Fields) : Except Reject Instr := do
  permit (f.fn == 0)
  permit (decide (f.rm < 4))
  zeros (f.y == 0 && f.z == 0 && f.ty == 0 && f.rm == 0 && f.lo == 0)
  let d ← orOperand (Operand.ofCode f.d)
  let x ← orOperand (Operand.ofCode f.x)
  checkOperands (.kfirst (Guard.ofCode f.g) d x)

/-- VMOV: its coded fields, its unused bits, its operands, in the order of R76. -/
def decodeVmov (f : Fields) : Except Reject Instr := do
  permit (f.fn == 0)
  permit (decide (f.rm < 4))
  zeros (f.y == 0 && f.z == 0 && f.ty == 0 && f.rm == 0 && f.lo == 0)
  let d ← orOperand (Operand.ofCode f.d)
  let x ← orOperand (Operand.ofCode f.x)
  checkOperands (.vmov (Guard.ofCode f.g) d x)

/-- LDS: its coded fields, its unused bits, its operands, in the order of R76. -/
def decodeLds (f : Fields) : Except Reject Instr := do
  let sext ← orIllegal (boolOf f.fn)
  let sz ← orIllegal (szIn 0 3 f.sz)
  permit (!sext || sz.val < 3)
  zeros (f.t == 0 && f.scope == 0 && f.order == 0)
  let d ← orOperand (Operand.ofCode f.d)
  let x ← orOperand (Operand.ofCode f.x)
  checkOperands (.lds (Guard.ofCode f.g) sext sz d x (BitVec.ofNat 16 f.off))

/-- STS: its coded fields, its unused bits, its operands, in the order of R76. -/
def decodeSts (f : Fields) : Except Reject Instr := do
  permit (f.fn == 0)
  let sz ← orIllegal (szIn 0 3 f.sz)
  zeros (f.t == 0 && f.scope == 0 && f.order == 0)
  let d ← orOperand (Operand.ofCode f.d)
  let x ← orOperand (Operand.ofCode f.x)
  checkOperands (.sts (Guard.ofCode f.g) sz d x (BitVec.ofNat 16 f.off))

/-- VLDS: its coded fields, its unused bits, its operands, in the order of R76. -/
def decodeVlds (f : Fields) : Except Reject Instr := do
  permit (f.fn == 0)
  permit (f.sz == 6)
  zeros (f.t == 0 && f.scope == 0 && f.order == 0)
  let d ← orOperand (Operand.ofCode f.d)
  let x ← orOperand (Operand.ofCode f.x)
  checkOperands (.vlds (Guard.ofCode f.g) d x (BitVec.ofNat 16 f.off))

/-- VSTS: its coded fields, its unused bits, its operands, in the order of R76. -/
def decodeVsts (f : Fields) : Except Reject Instr := do
  permit (f.fn == 0)
  permit (f.sz == 6)
  zeros (f.t == 0 && f.scope == 0 && f.order == 0)
  let d ← orOperand (Operand.ofCode f.d)
  let x ← orOperand (Operand.ofCode f.x)
  checkOperands (.vsts (Guard.ofCode f.g) d x (BitVec.ofNat 16 f.off))

/-- VGATH: its coded fields, its unused bits, its operands, in the order of R76. -/
def decodeVgath (f : Fields) : Except Reject Instr := do
  permit (f.fn == 0)
  let sz ← orIllegal (szIn 0 3 f.sz)
  zeros (f.scope == 0 && f.order == 0)
  let d ← orOperand (Operand.ofCode f.d)
  let x ← orOperand (Operand.ofCode f.x)
  let y ← orOperand (Operand.ofCode f.t)
  checkOperands (.vgath (Guard.ofCode f.g) sz d x (BitVec.ofNat 16 f.off) y)

/-- VSCAT: its coded fields, its unused bits, its operands, in the order of R76. -/
def decodeVscat (f : Fields) : Except Reject Instr := do
  permit (f.fn == 0)
  let sz ← orIllegal (szIn 0 3 f.sz)
  zeros (f.scope == 0 && f.order == 0)
  let d ← orOperand (Operand.ofCode f.d)
  let x ← orOperand (Operand.ofCode f.x)
  let y ← orOperand (Operand.ofCode f.t)
  checkOperands (.vscat (Guard.ofCode f.g) sz d x (BitVec.ofNat 16 f.off) y)

/-- LDF: its coded fields, its unused bits, its operands, in the order of R76. -/
def decodeLdf (f : Fields) : Except Reject Instr := do
  permit (f.fn == 0)
  permit (f.sz == 6)
  zeros (f.t == 0 && f.scope == 0 && f.order == 0)
  let d ← orOperand (Operand.ofCode f.d)
  let x ← orOperand (Operand.ofCode f.x)
  checkOperands (.ldf (Guard.ofCode f.g) d x (BitVec.ofNat 16 f.off))

/-- STF: its coded fields, its unused bits, its operands, in the order of R76. -/
def decodeStf (f : Fields) : Except Reject Instr := do
  permit (f.fn == 0)
  permit (f.sz == 6)
  zeros (f.t == 0 && f.scope == 0 && f.order == 0)
  let d ← orOperand (Operand.ofCode f.d)
  let x ← orOperand (Operand.ofCode f.x)
  checkOperands (.stf (Guard.ofCode f.g) d x (BitVec.ofNat 16 f.off))

/-- SATOM: its coded fields, its unused bits, its operands, in the order of R76. -/
def decodeSatom (f : Fields) : Except Reject Instr := do
  let op ← orIllegal (AtomOp.ofCode 0 f.fn)
  let sz ← orIllegal (szIn 2 3 f.sz)
  zeros (f.t == 0 && f.scope == 0 && f.order == 0)
  let d ← orOperand (Operand.ofCode f.d)
  let x ← orOperand (Operand.ofCode f.x)
  checkOperands (.satom (Guard.ofCode f.g) op sz d x (BitVec.ofNat 16 f.off))

/-- SCPY: its coded fields, its unused bits, its operands, in the order of R76. -/
def decodeScpy (f : Fields) : Except Reject Instr := do
  permit (f.fn == 0)
  let sz ← orIllegal (szIn 0 6 f.sz)
  zeros (f.scope == 0 && f.order == 0)
  let d ← orOperand (Operand.ofCode f.d)
  let x ← orOperand (Operand.ofCode f.x)
  let y ← orOperand (Operand.ofCode f.t)
  checkOperands (.scpy (Guard.ofCode f.g) sz d x (BitVec.ofNat 16 f.off) y)

/-- GLD: its coded fields, its unused bits, its operands, in the order of R76. -/
def decodeGld (f : Fields) : Except Reject Instr := do
  let sext ← orIllegal (boolOf f.fn)
  let sz ← orIllegal (szIn 0 3 f.sz)
  let scope ← orIllegal (Scope.ofCode f.scope)
  let ord ← orIllegal (MemOrder.ofCode [.relaxed, .acquire] f.order)
  permit (!sext || sz.val < 3)
  let d ← orOperand (Operand.ofCode f.d)
  let x ← orOperand (Operand.ofCode f.x)
  let t ← orOperand (Target.ofCode f.t)
  checkOperands (.gld (Guard.ofCode f.g) sext sz d x (BitVec.ofNat 16 f.off) t scope ord)

/-- GST: its coded fields, its unused bits, its operands, in the order of R76. -/
def decodeGst (f : Fields) : Except Reject Instr := do
  permit (f.fn == 0)
  let sz ← orIllegal (szIn 0 3 f.sz)
  let scope ← orIllegal (Scope.ofCode f.scope)
  let ord ← orIllegal (MemOrder.ofCode [.relaxed, .release] f.order)
  let d ← orOperand (Operand.ofCode f.d)
  let x ← orOperand (Operand.ofCode f.x)
  let t ← orOperand (Target.ofCode f.t)
  checkOperands (.gst (Guard.ofCode f.g) sz d x (BitVec.ofNat 16 f.off) t scope ord)

/-- GLDV: its coded fields, its unused bits, its operands, in the order of R76. -/
def decodeGldv (f : Fields) : Except Reject Instr := do
  permit (f.fn == 0)
  permit (f.sz == 6)
  let scope ← orIllegal (Scope.ofCode f.scope)
  let ord ← orIllegal (MemOrder.ofCode [.relaxed, .acquire] f.order)
  let d ← orOperand (Operand.ofCode f.d)
  let x ← orOperand (Operand.ofCode f.x)
  let t ← orOperand (Target.ofCode f.t)
  checkOperands (.gldv (Guard.ofCode f.g) d x (BitVec.ofNat 16 f.off) t scope ord)

/-- GSTV: its coded fields, its unused bits, its operands, in the order of R76. -/
def decodeGstv (f : Fields) : Except Reject Instr := do
  permit (f.fn == 0)
  permit (f.sz == 6)
  let scope ← orIllegal (Scope.ofCode f.scope)
  let ord ← orIllegal (MemOrder.ofCode [.relaxed, .release] f.order)
  let d ← orOperand (Operand.ofCode f.d)
  let x ← orOperand (Operand.ofCode f.x)
  let t ← orOperand (Target.ofCode f.t)
  checkOperands (.gstv (Guard.ofCode f.g) d x (BitVec.ofNat 16 f.off) t scope ord)

/-- GATOM: its coded fields, its unused bits, its operands, in the order of R76. -/
def decodeGatom (f : Fields) : Except Reject Instr := do
  let op ← orIllegal (AtomOp.ofCode 0 f.fn)
  let sz ← orIllegal (szIn 2 3 f.sz)
  let scope ← orIllegal (Scope.ofCode f.scope)
  let ord ← orIllegal (MemOrder.ofCode [.relaxed, .acquire, .release, .acqRel] f.order)
  let d ← orOperand (Operand.ofCode f.d)
  let x ← orOperand (Operand.ofCode f.x)
  let t ← orOperand (Target.ofCode f.t)
  checkOperands (.gatom (Guard.ofCode f.g) op sz d x (BitVec.ofNat 16 f.off) t scope ord)

/-- GRED: its coded fields, its unused bits, its operands, in the order of R76. -/
def decodeGred (f : Fields) : Except Reject Instr := do
  let op ← orIllegal (AtomOp.ofCode 2 f.fn)
  let sz ← orIllegal (szIn 2 3 f.sz)
  let scope ← orIllegal (Scope.ofCode f.scope)
  let ord ← orIllegal (MemOrder.ofCode [.relaxed, .release] f.order)
  let d ← orOperand (Operand.ofCode f.d)
  let x ← orOperand (Operand.ofCode f.x)
  let t ← orOperand (Target.ofCode f.t)
  checkOperands (.gred (Guard.ofCode f.g) op sz d x (BitVec.ofNat 16 f.off) t scope ord)

/-- ILD: its coded fields, its unused bits, its operands, in the order of R76. -/
def decodeIld (f : Fields) : Except Reject Instr := do
  permit (f.fn == 0)
  permit (f.sz == 3)
  let scope ← orIllegal (Scope.ofCode f.scope)
  let ord ← orIllegal (MemOrder.ofCode [.relaxed, .acquire] f.order)
  let d ← orOperand (Operand.ofCode f.d)
  let x ← orOperand (Operand.ofCode f.x)
  let t ← orOperand (Target.ofCode f.t)
  checkOperands (.ild (Guard.ofCode f.g) d x (BitVec.ofNat 16 f.off) t scope ord)

/-- IST: its coded fields, its unused bits, its operands, in the order of R76. -/
def decodeIst (f : Fields) : Except Reject Instr := do
  permit (f.fn == 0)
  permit (f.sz == 3)
  let scope ← orIllegal (Scope.ofCode f.scope)
  let ord ← orIllegal (MemOrder.ofCode [.relaxed, .release] f.order)
  let d ← orOperand (Operand.ofCode f.d)
  let x ← orOperand (Operand.ofCode f.x)
  let t ← orOperand (Target.ofCode f.t)
  checkOperands (.ist (Guard.ofCode f.g) d x (BitVec.ofNat 16 f.off) t scope ord)

/-- IRST: its coded fields, its unused bits, its operands, in the order of R76. -/
def decodeIrst (f : Fields) : Except Reject Instr := do
  permit (f.fn == 0)
  permit (f.sz == 3)
  let scope ← orIllegal (Scope.ofCode f.scope)
  let ord ← orIllegal (MemOrder.ofCode [.relaxed, .release] f.order)
  let d ← orOperand (Operand.ofCode f.d)
  let x ← orOperand (Operand.ofCode f.x)
  let t ← orOperand (Target.ofCode f.t)
  checkOperands (.irst (Guard.ofCode f.g) d x (BitVec.ofNat 16 f.off) t scope ord)

/-- MWATCH: its coded fields, its unused bits, its operands, in the order of R76. -/
def decodeMwatch (f : Fields) : Except Reject Instr := do
  permit (f.fn == 0)
  let sz ← orIllegal (szIn 2 3 f.sz)
  let scope ← orIllegal (Scope.ofCode f.scope)
  let ord ← orIllegal (MemOrder.ofCode [.relaxed, .acquire] f.order)
  let d ← orOperand (Operand.ofCode f.d)
  let x ← orOperand (Operand.ofCode f.x)
  let t ← orOperand (Target.ofCode f.t)
  checkOperands (.mwatch (Guard.ofCode f.g) sz d x (BitVec.ofNat 16 f.off) t scope ord)

/-- DMA: its coded fields, its unused bits, its operands, in the order of R76. -/
def decodeDma (f : Fields) : Except Reject Instr := do
  permit (f.fn == 0)
  permit (f.sz == 0)
  let scope ← orIllegal (Scope.ofCode f.scope)
  let ord ← orIllegal (MemOrder.ofCode [.relaxed, .acquire, .release, .acqRel] f.order)
  zeros (f.d == 0 && f.y == 0 && f.z == 0)
  let x ← orOperand (Operand.ofCode f.x)
  let t ← orOperand (Target.ofCode f.t)
  checkOperands (.dma (Guard.ofCode f.g) x t scope ord)

/-- STRM_OPEN: its coded fields, its unused bits, its operands, in the order of R76. -/
def decodeStrmOpen (f : Fields) : Except Reject Instr := do
  permit (f.sz == 0)
  let scope ← orIllegal (Scope.ofCode f.scope)
  let ord ← orIllegal (MemOrder.ofCode [.relaxed, .release] f.order)
  zeros (f.y == 0 && f.z == 0)
  let d ← orOperand (Operand.ofCode f.d)
  let x ← orOperand (Operand.ofCode f.x)
  let t ← orOperand (Target.ofCode f.t)
  checkOperands (.strmOpen (Guard.ofCode f.g) d x t scope ord)

/-- STRM_ADV: its coded fields, its unused bits, its operands, in the order of R76. -/
def decodeStrmAdv (f : Fields) : Except Reject Instr := do
  permit (f.sz == 0)
  let scope ← orIllegal (Scope.ofCode f.scope)
  let ord ← orIllegal (MemOrder.ofCode [.relaxed, .release] f.order)
  zeros (f.y == 0 && f.z == 0)
  let d ← orOperand (Operand.ofCode f.d)
  let x ← orOperand (Operand.ofCode f.x)
  let t ← orOperand (Target.ofCode f.t)
  checkOperands (.strmAdv (Guard.ofCode f.g) d x t scope ord)

/-- STRM_NOTIFY: its coded fields, its unused bits, its operands, in the order of R76. -/
def decodeStrmNotify (f : Fields) : Except Reject Instr := do
  permit (f.sz == 0)
  let scope ← orIllegal (Scope.ofCode f.scope)
  let ord ← orIllegal (MemOrder.ofCode [.relaxed, .release] f.order)
  zeros (f.y == 0 && f.z == 0)
  let d ← orOperand (Operand.ofCode f.d)
  let x ← orOperand (Operand.ofCode f.x)
  let t ← orOperand (Target.ofCode f.t)
  checkOperands (.strmNotify (Guard.ofCode f.g) d x t scope ord)

/-- STRM_CLOSE: its coded fields, its unused bits, its operands, in the order of R76. -/
def decodeStrmClose (f : Fields) : Except Reject Instr := do
  permit (f.sz == 0)
  let scope ← orIllegal (Scope.ofCode f.scope)
  let ord ← orIllegal (MemOrder.ofCode [.relaxed, .release] f.order)
  zeros (f.x == 0 && f.y == 0 && f.z == 0)
  let d ← orOperand (Operand.ofCode f.d)
  let t ← orOperand (Target.ofCode f.t)
  checkOperands (.strmClose (Guard.ofCode f.g) d t scope ord)

/-- FENCE: its coded fields, its unused bits, its operands, in the order of R76. -/
def decodeFence (f : Fields) : Except Reject Instr := do
  permit (f.fn == 0)
  permit (f.sz == 0)
  let scope ← orIllegal (Scope.ofCode f.scope)
  let ord ← orIllegal (MemOrder.ofCode [.acquire, .release, .acqRel] f.order)
  zeros (f.d == 0 && f.x == 0 && f.y == 0 && f.z == 0)
  let t ← orOperand (Target.ofCode f.t)
  checkOperands (.fence (Guard.ofCode f.g) t scope ord)

/-- PREF: its coded fields, its unused bits, its operands, in the order of R76. -/
def decodePref (f : Fields) : Except Reject Instr := do
  permit (f.fn == 0)
  let sz ← orIllegal (szIn 0 6 f.sz)
  let scope ← orIllegal (Scope.ofCode f.scope)
  permit (f.order == 0)
  zeros (f.d == 0)
  let x ← orOperand (Operand.ofCode f.x)
  let _ ← orOperand (if f.t = 0x10 then some () else none)
  checkOperands (.pref (Guard.ofCode f.g) sz x (BitVec.ofNat 16 f.off) scope)

/-- FNEW: its coded fields, its unused bits, its operands, in the order of R76. -/
def decodeFnew (f : Fields) : Except Reject Instr := do
  let large ← orIllegal (boolOf f.fn)
  zeros (f.x == 0 && f.y == 0 && f.z == 0 && f.lo == 0)
  let d ← orOperand (Operand.ofCode f.d)
  let t ← orOperand (Target.ofCode f.t)
  checkOperands (.fnew (Guard.ofCode f.g) large d t)

/-- FFREE: its coded fields, its unused bits, its operands, in the order of R76. -/
def decodeFfree (f : Fields) : Except Reject Instr := do
  permit (f.fn == 0)
  zeros (f.d == 0 && f.y == 0 && f.z == 0 && f.t == 0 && f.lo == 0)
  let x ← orOperand (Operand.ofCode f.x)
  checkOperands (.ffree (Guard.ofCode f.g) x)

/-- SLOTI: its coded fields, its unused bits, its operands, in the order of R76. -/
def decodeSloti (f : Fields) : Except Reject Instr := do
  permit (f.fn == 0)
  zeros (f.d == 0 && f.z == 0 && f.t == 0 && f.lo == 0)
  let x ← orOperand (Operand.ofCode f.x)
  let y ← orOperand (Operand.ofCode f.y)
  checkOperands (.sloti (Guard.ofCode f.g) x y)

/-- SLOTA: its coded fields, its unused bits, its operands, in the order of R76. -/
def decodeSlota (f : Fields) : Except Reject Instr := do
  permit (f.fn == 0)
  zeros (f.d == 0 && f.z == 0 && f.t == 0 && f.lo == 0)
  let x ← orOperand (Operand.ofCode f.x)
  let y ← orOperand (Operand.ofCode f.y)
  checkOperands (.slota (Guard.ofCode f.g) x y)

/-- SIG: its coded fields, its unused bits, its operands, in the order of R76. -/
def decodeSig (f : Fields) : Except Reject Instr := do
  permit (f.fn == 0)
  zeros (f.d == 0 && f.y == 0 && f.z == 0 && f.t == 0 && f.lo / 16 == 0)
  let rel := decide (f.lo / 8 % 2 = 1)
  let st := Status.ofCode f.lo
  let x ← orOperand (Operand.ofCode f.x)
  checkOperands (.sig (Guard.ofCode f.g) st rel x)

/-- SIGD: its coded fields, its unused bits, its operands, in the order of R76. -/
def decodeSigd (f : Fields) : Except Reject Instr := do
  permit (f.fn == 0)
  zeros (f.d == 0 && f.z == 0 && f.t == 0 && f.lo / 16 == 0)
  let rel := decide (f.lo / 8 % 2 = 1)
  let st := Status.ofCode f.lo
  let x ← orOperand (Operand.ofCode f.x)
  let y ← orOperand (Operand.ofCode f.y)
  checkOperands (.sigd (Guard.ofCode f.g) st rel x y)

/-- CONT: its coded fields, its unused bits, its operands, in the order of R76. -/
def decodeCont (f : Fields) : Except Reject Instr := do
  permit (f.fn == 0)
  zeros (f.t == 0 && f.lo == 0)
  let d ← orOperand (Operand.ofCode f.d)
  let x ← orOperand (Operand.ofCode f.x)
  let y ← orOperand (Operand.ofCode f.y)
  let z ← orOperand (Operand.ofCode f.z)
  checkOperands (.cont (Guard.ofCode f.g) d x y z)

/-- SPAWN: its coded fields, its unused bits, its operands, in the order of R76. -/
def decodeSpawn (f : Fields) : Except Reject Instr := do
  permit (f.fn == 0)
  zeros (f.d == 0 && f.z == 0 && f.lo == 0)
  let x ← orOperand (Operand.ofCode f.x)
  let y ← orOperand (Operand.ofCode f.y)
  let t ← orOperand (Target.ofCode f.t)
  checkOperands (.spawn (Guard.ofCode f.g) x y t)

/-- LAUNCH: its coded fields, its unused bits, its operands, in the order of R76. -/
def decodeLaunch (f : Fields) : Except Reject Instr := do
  permit (f.fn == 0)
  zeros (f.d == 0 && f.z == 0 && f.lo == 0)
  let x ← orOperand (Operand.ofCode f.x)
  let y ← orOperand (Operand.ofCode f.y)
  let t ← orOperand (Target.ofCode f.t)
  checkOperands (.launch (Guard.ofCode f.g) x y t)

/-- KEND: its coded fields, its unused bits, its operands, in the order of R76. -/
def decodeKend (f : Fields) : Except Reject Instr := do
  permit (f.fn == 0)
  zeros (f.d == 0 && f.x == 0 && f.y == 0 && f.z == 0 && f.t == 0 && f.lo == 0)
  checkOperands (.kend (Guard.ofCode f.g))

/-- BAR: its coded fields, its unused bits, its operands, in the order of R76. -/
def decodeBar (f : Fields) : Except Reject Instr := do
  permit (f.fn == 0)
  zeros (f.d == 0 && f.x == 0 && f.y == 0 && f.z == 0 && f.lo == 0)
  let t ← orOperand (Target.ofCode f.t)
  checkOperands (.bar (Guard.ofCode f.g) t)

/-- ARED: its coded fields, its unused bits, its operands, in the order of R76. -/
def decodeAred (f : Fields) : Except Reject Instr := do
  let op ← orIllegal (RedOp.ofCode f.fn)
  let ty ← orIllegal (redTy op (f.lo % 32))
  zeros (f.lo / 32 == 0 && f.y == 0 && f.z == 0)
  let d ← orOperand (Operand.ofCode f.d)
  let x ← orOperand (Operand.ofCode f.x)
  let t ← orOperand (Target.ofCode f.t)
  checkOperands (.ared (Guard.ofCode f.g) op ty d x t)

/-- TIDX: its coded fields, its unused bits, its operands, in the order of R76. -/
def decodeTidx (f : Fields) : Except Reject Instr := do
  permit (f.fn == 0)
  zeros (f.y == 0 && f.z == 0 && f.t == 0 && f.lo == 0)
  let d ← orOperand (Operand.ofCode f.d)
  let x ← orOperand (Operand.ofCode f.x)
  checkOperands (.tidx (Guard.ofCode f.g) d x)

/-- FLAGS: its coded fields, its unused bits, its operands, in the order of R76. -/
def decodeFlags (f : Fields) : Except Reject Instr := do
  permit (f.fn == 0)
  zeros (f.x == 0 && f.y == 0 && f.z == 0 && f.t == 0 && f.lo == 0)
  let d ← orOperand (Operand.ofCode f.d)
  checkOperands (.flags (Guard.ofCode f.g) d)

/-- CHSEND: its coded fields, its unused bits, its operands, in the order of R76. -/
def decodeChsend (f : Fields) : Except Reject Instr := do
  let kind ← orIllegal (SendKind.ofCode f.fn)
  zeros (f.d == 0 && f.lo / 2 == 0)
  let rel := decide (f.lo / 1 % 2 = 1)
  let x ← orOperand (Operand.ofCode f.x)
  let y ← orOperand (Operand.ofCode f.y)
  let z ← orOperand (Operand.ofCode f.z)
  let t ← orOperand (Target.ofCode f.t)
  checkOperands (.chsend (Guard.ofCode f.g) kind rel x y z t)

/-- CHRECV: its coded fields, its unused bits, its operands, in the order of R76. -/
def decodeChrecv (f : Fields) : Except Reject Instr := do
  let kind ← orIllegal (RecvKind.ofCode f.fn)
  zeros ((decide (kind ≠ .latch) || f.y == 0 && f.z == 0) && f.d == 0 && f.lo == 0)
  let x ← orOperand (Operand.ofCode f.x)
  let y ← orOperand (Operand.ofCode f.y)
  let z ← orOperand (Operand.ofCode f.z)
  let t ← orOperand (Target.ofCode f.t)
  checkOperands (.chrecv (Guard.ofCode f.g) kind x y z t)

/-- CHSEL: its coded fields, its unused bits, its operands, in the order of R76. -/
def decodeChsel (f : Fields) : Except Reject Instr := do
  permit (f.fn == 0)
  zeros (f.lo / 2 == 0)
  let rot := decide (f.lo / 1 % 2 = 1)
  let d ← orOperand (Operand.ofCode f.d)
  let x ← orOperand (Operand.ofCode f.x)
  let y ← orOperand (Operand.ofCode f.y)
  let z ← orOperand (Operand.ofCode f.z)
  let t ← orOperand (Target.ofCode f.t)
  checkOperands (.chsel (Guard.ofCode f.g) rot d x y z t)

/-- CHSENDM: its coded fields, its unused bits, its operands, in the order of R76. -/
def decodeChsendm (f : Fields) : Except Reject Instr := do
  let kind ← orIllegal (SendKind.ofCode f.fn)
  zeros (f.d == 0 && f.lo / 2 == 0)
  let rel := decide (f.lo / 1 % 2 = 1)
  let x ← orOperand (Operand.ofCode f.x)
  let y ← orOperand (Operand.ofCode f.y)
  let z ← orOperand (Operand.ofCode f.z)
  let t ← orOperand (Target.ofCode f.t)
  checkOperands (.chsendm (Guard.ofCode f.g) kind rel x y z t)

/-- CHTEST: its coded fields, its unused bits, its operands, in the order of R76. -/
def decodeChtest (f : Fields) : Except Reject Instr := do
  permit (f.fn == 0)
  zeros (f.y == 0 && f.z == 0 && f.lo == 0)
  let d ← orOperand (Operand.ofCode f.d)
  let x ← orOperand (Operand.ofCode f.x)
  let t ← orOperand (Target.ofCode f.t)
  checkOperands (.chtest (Guard.ofCode f.g) d x t)

/-- CHBIND: its coded fields, its unused bits, its operands, in the order of R76. -/
def decodeChbind (f : Fields) : Except Reject Instr := do
  permit (f.fn == 0)
  zeros (f.d == 0 && f.y == 0 && f.z == 0 && f.lo == 0)
  let x ← orOperand (Operand.ofCode f.x)
  let t ← orOperand (Target.ofCode f.t)
  checkOperands (.chbind (Guard.ofCode f.g) x t)

/-- CHCAN: its coded fields, its unused bits, its operands, in the order of R76. -/
def decodeChcan (f : Fields) : Except Reject Instr := do
  permit (f.fn == 0)
  zeros (f.d == 0 && f.y == 0 && f.z == 0 && f.t == 0 && f.lo == 0)
  let x ← orOperand (Operand.ofCode f.x)
  checkOperands (.chcan (Guard.ofCode f.g) x)

/-- PHCLAIM: its coded fields, its unused bits, its operands, in the order of R76. -/
def decodePhclaim (f : Fields) : Except Reject Instr := do
  permit (f.fn == 0)
  zeros (f.d == 0 && f.lo == 0)
  let x ← orOperand (Operand.ofCode f.x)
  let y ← orOperand (Operand.ofCode f.y)
  let z ← orOperand (Operand.ofCode f.z)
  let t ← orOperand (Target.ofCode f.t)
  checkOperands (.phclaim (Guard.ofCode f.g) x y z t)

/-- PHINS: its coded fields, its unused bits, its operands, in the order of R76. -/
def decodePhins (f : Fields) : Except Reject Instr := do
  let vec ← orIllegal (boolOf f.fn)
  zeros (f.lo == 0)
  let d ← orOperand (Operand.ofCode f.d)
  let x ← orOperand (Operand.ofCode f.x)
  let y ← orOperand (Operand.ofCode f.y)
  let z ← orOperand (Operand.ofCode f.z)
  let t ← orOperand (Target.ofCode f.t)
  checkOperands (.phins (Guard.ofCode f.g) vec d x y z t)

/-- PHPRB: its coded fields, its unused bits, its operands, in the order of R76. -/
def decodePhprb (f : Fields) : Except Reject Instr := do
  let vec ← orIllegal (boolOf f.fn)
  zeros (f.z == 0 && f.lo == 0)
  let d ← orOperand (Operand.ofCode f.d)
  let x ← orOperand (Operand.ofCode f.x)
  let y ← orOperand (Operand.ofCode f.y)
  let t ← orOperand (Target.ofCode f.t)
  checkOperands (.phprb (Guard.ofCode f.g) vec d x y t)

/-- PHDEL: its coded fields, its unused bits, its operands, in the order of R76. -/
def decodePhdel (f : Fields) : Except Reject Instr := do
  let vec ← orIllegal (boolOf f.fn)
  zeros (f.z == 0 && f.lo == 0)
  let d ← orOperand (Operand.ofCode f.d)
  let x ← orOperand (Operand.ofCode f.x)
  let y ← orOperand (Operand.ofCode f.y)
  let t ← orOperand (Target.ofCode f.t)
  checkOperands (.phdel (Guard.ofCode f.g) vec d x y t)

/-- PHACC: its coded fields, its unused bits, its operands, in the order of R76. -/
def decodePhacc (f : Fields) : Except Reject Instr := do
  let kind ← orIllegal (AccKind.ofCode (f.fn / 2))
  let vec := decide (f.fn % 2 = 1)
  zeros (f.lo == 0)
  let d ← orOperand (Operand.ofCode f.d)
  let x ← orOperand (Operand.ofCode f.x)
  let y ← orOperand (Operand.ofCode f.y)
  let z ← orOperand (Operand.ofCode f.z)
  let t ← orOperand (Target.ofCode f.t)
  checkOperands (.phacc (Guard.ofCode f.g) vec kind d x y z t)

/-- PHDRN: its coded fields, its unused bits, its operands, in the order of R76. -/
def decodePhdrn (f : Fields) : Except Reject Instr := do
  permit (f.fn / 4 == 0)
  let vec := decide (f.fn % 2 = 1)
  let chan := decide (f.fn / 2 % 2 = 1)
  zeros (f.lo == 0)
  let d ← orOperand (Operand.ofCode f.d)
  let x ← orOperand (Operand.ofCode f.x)
  let y ← orOperand (Operand.ofCode f.y)
  let z ← orOperand (Operand.ofCode f.z)
  let t ← orOperand (Target.ofCode f.t)
  checkOperands (.phdrn (Guard.ofCode f.g) vec chan d x y z t)

/-- PHRLS: its coded fields, its unused bits, its operands, in the order of R76. -/
def decodePhrls (f : Fields) : Except Reject Instr := do
  permit (f.fn == 0)
  zeros (f.d == 0 && f.y == 0 && f.z == 0 && f.lo == 0)
  let x ← orOperand (Operand.ofCode f.x)
  let t ← orOperand (Target.ofCode f.t)
  checkOperands (.phrls (Guard.ofCode f.g) x t)

/-- PHSTAT: its coded fields, its unused bits, its operands, in the order of R76. -/
def decodePhstat (f : Fields) : Except Reject Instr := do
  let vec ← orIllegal (boolOf f.fn)
  zeros (f.z == 0 && f.lo == 0)
  let d ← orOperand (Operand.ofCode f.d)
  let x ← orOperand (Operand.ofCode f.x)
  let y ← orOperand (Operand.ofCode f.y)
  let t ← orOperand (Target.ofCode f.t)
  checkOperands (.phstat (Guard.ofCode f.g) vec d x y t)

/-- MCFG: its coded fields, its unused bits, its operands, in the order of R76. -/
def decodeMcfg (f : Fields) : Except Reject Instr := do
  permit (f.fn == 0)
  zeros (f.d == 0 && f.y == 0 && f.z == 0 && f.t == 0 && f.lo == 0)
  let x ← orOperand (Operand.ofCode f.x)
  checkOperands (.mcfg (Guard.ofCode f.g) x)

/-- MLDA: its coded fields, its unused bits, its operands, in the order of R76. -/
def decodeMlda (f : Fields) : Except Reject Instr := do
  permit (f.fn == 0)
  zeros (f.d == 0 && f.lo == 0)
  let x ← orOperand (Operand.ofCode f.x)
  let y ← orOperand (Operand.ofCode f.y)
  let z ← orOperand (Operand.ofCode f.z)
  let t ← orOperand (Target.ofCode f.t)
  checkOperands (.mlda (Guard.ofCode f.g) x y z t)

/-- MLDB: its coded fields, its unused bits, its operands, in the order of R76. -/
def decodeMldb (f : Fields) : Except Reject Instr := do
  permit (f.fn == 0)
  zeros (f.d == 0 && f.t == 0 && f.lo == 0)
  let x ← orOperand (Operand.ofCode f.x)
  let y ← orOperand (Operand.ofCode f.y)
  let z ← orOperand (Operand.ofCode f.z)
  checkOperands (.mldb (Guard.ofCode f.g) x y z)

/-- MRUN: its coded fields, its unused bits, its operands, in the order of R76. -/
def decodeMrun (f : Fields) : Except Reject Instr := do
  let chan ← orIllegal (boolOf f.fn)
  zeros (f.d == 0 && f.lo / 2 == 0)
  let ring := decide (f.lo / 1 % 2 = 1)
  let x ← orOperand (Operand.ofCode f.x)
  let y ← orOperand (Operand.ofCode f.y)
  let z ← orOperand (Operand.ofCode f.z)
  let t ← orOperand (Target.ofCode f.t)
  checkOperands (.mrun (Guard.ofCode f.g) chan ring x y z t)

/-- MZERO: its coded fields, its unused bits, its operands, in the order of R76. -/
def decodeMzero (f : Fields) : Except Reject Instr := do
  permit (f.fn == 0)
  zeros (f.d == 0 && f.y == 0 && f.z == 0 && f.t == 0 && f.lo == 0)
  let x ← orOperand (Operand.ofCode f.x)
  checkOperands (.mzero (Guard.ofCode f.g) x)

/-- MDRN: its coded fields, its unused bits, its operands, in the order of R76. -/
def decodeMdrn (f : Fields) : Except Reject Instr := do
  permit (f.fn / 8 == 0)
  let kind ← orIllegal (DrainKind.ofCode (f.fn % 4))
  let sat := decide (f.fn / 4 % 2 = 1)
  let ty ← orIllegal (tyIn Ty.inDrain (f.lo % 32))
  let rm ← orIllegal (RM.ofCode (f.lo / 32))
  zeros (f.d == 0)
  let x ← orOperand (Operand.ofCode f.x)
  let y ← orOperand (Operand.ofCode f.y)
  let z ← orOperand (Operand.ofCode f.z)
  let t ← orOperand (Target.ofCode f.t)
  checkOperands (.mdrn (Guard.ofCode f.g) kind sat ty rm x y z t)

/-- MSTEER: its coded fields, its unused bits, its operands, in the order of R76. -/
def decodeMsteer (f : Fields) : Except Reject Instr := do
  permit (f.fn == 0)
  zeros (f.d == 0 && f.z == 0 && f.t == 0 && f.lo == 0)
  let x ← orOperand (Operand.ofCode f.x)
  let y ← orOperand (Operand.ofCode f.y)
  checkOperands (.msteer (Guard.ofCode f.g) x y)

/-- MSTAT: its coded fields, its unused bits, its operands, in the order of R76. -/
def decodeMstat (f : Fields) : Except Reject Instr := do
  permit (f.fn == 0)
  zeros (f.y == 0 && f.z == 0 && f.lo == 0)
  let d ← orOperand (Operand.ofCode f.d)
  let x ← orOperand (Operand.ofCode f.x)
  let t ← orOperand (Target.ofCode f.t)
  checkOperands (.mstat (Guard.ofCode f.g) d x t)

/-- SYSR: its coded fields, its unused bits, its operands, in the order of R76. -/
def decodeSysr (f : Fields) : Except Reject Instr := do
  permit (f.fn == 0)
  zeros (f.y == 0 && f.z == 0 && f.lo == 0)
  let d ← orOperand (Operand.ofCode f.d)
  let x ← orOperand (Operand.ofCode f.x)
  let t ← orOperand (Target.ofCode f.t)
  checkOperands (.sysr (Guard.ofCode f.g) d x t)

/-- SYSW: its coded fields, its unused bits, its operands, in the order of R76. -/
def decodeSysw (f : Fields) : Except Reject Instr := do
  permit (f.fn == 0)
  zeros (f.d == 0 && f.z == 0 && f.lo == 0)
  let x ← orOperand (Operand.ofCode f.x)
  let y ← orOperand (Operand.ofCode f.y)
  let t ← orOperand (Target.ofCode f.t)
  checkOperands (.sysw (Guard.ofCode f.g) x y t)

/-- FRES: its coded fields, its unused bits, its operands, in the order of R76. -/
def decodeFres (f : Fields) : Except Reject Instr := do
  let kind ← orIllegal (FresKind.ofCode f.fn)
  zeros (f.d == 0 && f.z == 0 && f.lo == 0)
  let x ← orOperand (Operand.ofCode f.x)
  let y ← orOperand (Operand.ofCode f.y)
  let t ← orOperand (Target.ofCode f.t)
  checkOperands (.fres (Guard.ofCode f.g) kind x y t)

/-- TLBI: its coded fields, its unused bits, its operands, in the order of R76. -/
def decodeTlbi (f : Fields) : Except Reject Instr := do
  let kind ← orIllegal (TlbiKind.ofCode f.fn)
  zeros ((decide (kind ≠ .all) || f.x == 0) && (decide (kind = .page) || f.y == 0) && f.d == 0 && f.z == 0 && f.lo == 0)
  let x ← orOperand (Operand.ofCode f.x)
  let y ← orOperand (Operand.ofCode f.y)
  let t ← orOperand (Target.ofCode f.t)
  checkOperands (.tlbi (Guard.ofCode f.g) kind x y t)

/-- TMAP: its coded fields, its unused bits, its operands, in the order of R76. -/
def decodeTmap (f : Fields) : Except Reject Instr := do
  permit (f.fn == 0)
  zeros (f.y == 0 && f.z == 0 && f.lo == 0)
  let d ← orOperand (Operand.ofCode f.d)
  let x ← orOperand (Operand.ofCode f.x)
  let t ← orOperand (Target.ofCode f.t)
  checkOperands (.tmap (Guard.ofCode f.g) d x t)

/-- EVICT_SAVE: its coded fields, its unused bits, its operands, in the order of R76. -/
def decodeEvictSave (f : Fields) : Except Reject Instr := do
  zeros (f.d == 0 && f.y == 0 && f.z == 0 && f.lo == 0)
  let x ← orOperand (Operand.ofCode f.x)
  let t ← orOperand (Target.ofCode f.t)
  checkOperands (.evictSave (Guard.ofCode f.g) x t)

/-- EVICT_RESTORE: its coded fields, its unused bits, its operands, in the order of R76. -/
def decodeEvictRestore (f : Fields) : Except Reject Instr := do
  zeros (f.d == 0 && f.y == 0 && f.z == 0 && f.lo == 0)
  let x ← orOperand (Operand.ofCode f.x)
  let t ← orOperand (Target.ofCode f.t)
  checkOperands (.evictRestore (Guard.ofCode f.g) x t)

/-- DLOCTL: its coded fields, its unused bits, its operands, in the order of R76. -/
def decodeDloctl (f : Fields) : Except Reject Instr := do
  permit (f.fn == 0)
  zeros (f.d == 0 && f.z == 0 && f.lo == 0)
  let x ← orOperand (Operand.ofCode f.x)
  let y ← orOperand (Operand.ofCode f.y)
  let t ← orOperand (Target.ofCode f.t)
  checkOperands (.dloctl (Guard.ofCode f.g) x y t)

/-- HALT: its coded fields, its unused bits, its operands, in the order of R76. -/
def decodeHalt (f : Fields) : Except Reject Instr := do
  permit (f.fn == 0)
  zeros (f.d == 0 && f.y == 0 && f.z == 0 && f.t == 0 && f.lo == 0)
  let x ← orOperand (Operand.ofCode f.x)
  checkOperands (.halt (Guard.ofCode f.g) x)

/-- The decoder: an instruction from its word and, for LI64, the word after it; total, and rejecting by name (R72, R76). -/
def decode (w0 w1 : Word) : Except Reject Instr :=
  let f := fieldsOf w0
  match f.opc with
  | 0x01 => decodeNop f
  | 0x02 => decodeBr f
  | 0x03 => decodeJmp f
  | 0x04 => decodeCall f
  | 0x05 => decodeCallr f
  | 0x06 => decodeRet f
  | 0x07 => decodeLoop f
  | 0x08 => decodeEndT f
  | 0x09 => decodeTrap f
  | 0x0A => decodeBrk f
  | 0x10 => decodeAdd f
  | 0x11 => decodeSub f
  | 0x12 => decodeMul f
  | 0x13 => decodeMulh f
  | 0x14 => decodeDiv f
  | 0x15 => decodeRem f
  | 0x16 => decodeAnd f
  | 0x17 => decodeOr f
  | 0x18 => decodeXor f
  | 0x19 => decodeAndn f
  | 0x1A => decodeOrn f
  | 0x1B => decodeShl f
  | 0x1C => decodeShr f
  | 0x1D => decodeSar f
  | 0x1E => decodeRol f
  | 0x1F => decodeRor f
  | 0x20 => decodeMin f
  | 0x21 => decodeMax f
  | 0x22 => decodeClz f
  | 0x23 => decodeCtz f
  | 0x24 => decodePopc f
  | 0x25 => decodeBrev f
  | 0x26 => decodeBswap f
  | 0x27 => decodeExt f
  | 0x28 => decodeBfx f
  | 0x29 => decodeBfi f
  | 0x2A => decodeMadd f
  | 0x2B => decodeCmp f
  | 0x2C => decodeSel f
  | 0x2D => decodeMov f
  | 0x2E => decodeAbs f
  | 0x2F => decodeNeg f
  | 0x30 => decodeAddi f
  | 0x31 => decodeMuli f
  | 0x32 => decodeAndi f
  | 0x33 => decodeOri f
  | 0x34 => decodeXori f
  | 0x35 => decodeShli f
  | 0x36 => decodeShri f
  | 0x37 => decodeSari f
  | 0x38 => decodeCmpi f
  | 0x39 => decodeLi f
  | 0x3A => decodeLih f
  | 0x3B => decodeLi64 f w1
  | 0x3C =>
    match f.fn with
    | 0 => decodeLea f
    | 1 => decodeLeaPc f
    | _ => .error .illegal
  | 0x40 => decodeFadd f
  | 0x41 => decodeFsub f
  | 0x42 => decodeFmul f
  | 0x43 => decodeFfma f
  | 0x44 => decodeFdiv f
  | 0x45 => decodeFsqrt f
  | 0x46 => decodeFmin f
  | 0x47 => decodeFmax f
  | 0x48 => decodeFcmp f
  | 0x49 => decodeFcvt f
  | 0x4A => decodeFclass f
  | 0x4B => decodeFrnd f
  | 0x50 => decodeVadd f
  | 0x51 => decodeVsub f
  | 0x52 => decodeVmul f
  | 0x53 => decodeVmulh f
  | 0x54 => decodeVmad f
  | 0x55 => decodeVmin f
  | 0x56 => decodeVmax f
  | 0x57 => decodeVabsd f
  | 0x58 => decodeVand f
  | 0x59 => decodeVor f
  | 0x5A => decodeVxor f
  | 0x5B => decodeVshl f
  | 0x5C => decodeVshr f
  | 0x5D => decodeVsar f
  | 0x5E => decodeVcmp f
  | 0x5F => decodeVsel f
  | 0x60 => decodeVfadd f
  | 0x61 => decodeVfsub f
  | 0x62 => decodeVfmul f
  | 0x63 => decodeVffma f
  | 0x64 => decodeVfmin f
  | 0x65 => decodeVfmax f
  | 0x66 => decodeVfcmp f
  | 0x67 => decodeVrcp f
  | 0x68 => decodeVrsq f
  | 0x69 => decodeVsqrt f
  | 0x6A => decodeVfdiv f
  | 0x6B => decodeVexp2 f
  | 0x6C => decodeVlog2 f
  | 0x6D => decodeVcvt f
  | 0x6E => decodeVshuf f
  | 0x6F => decodeVbcast f
  | 0x70 => decodeVins f
  | 0x71 => decodeVextr f
  | 0x72 => decodeVred f
  | 0x73 => decodeVscan f
  | 0x74 => decodeVdot f
  | 0x75 => decodeVpack f
  | 0x76 => decodeVunpk f
  | 0x77 => decodeVpopc f
  | 0x78 => decodeVclz f
  | 0x79 => decodeVrng f
  | 0x7A => decodeKop f
  | 0x7B => decodeKpopc f
  | 0x7C => decodeKfirst f
  | 0x7D => decodeVmov f
  | 0x80 => decodeLds f
  | 0x81 => decodeSts f
  | 0x82 => decodeVlds f
  | 0x83 => decodeVsts f
  | 0x84 => decodeVgath f
  | 0x85 => decodeVscat f
  | 0x86 => decodeLdf f
  | 0x87 => decodeStf f
  | 0x88 => decodeSatom f
  | 0x89 => decodeScpy f
  | 0x90 => decodeGld f
  | 0x91 => decodeGst f
  | 0x92 => decodeGldv f
  | 0x93 => decodeGstv f
  | 0x94 => decodeGatom f
  | 0x95 => decodeGred f
  | 0x96 => decodeIld f
  | 0x97 => decodeIst f
  | 0x98 => decodeIrst f
  | 0x99 => decodeMwatch f
  | 0x9A => decodeDma f
  | 0x9B =>
    match f.fn with
    | 0 => decodeStrmOpen f
    | 1 => decodeStrmAdv f
    | 2 => decodeStrmNotify f
    | 3 => decodeStrmClose f
    | _ => .error .illegal
  | 0x9C => decodeFence f
  | 0x9D => decodePref f
  | 0xA0 => decodeFnew f
  | 0xA1 => decodeFfree f
  | 0xA2 => decodeSloti f
  | 0xA3 => decodeSlota f
  | 0xA4 => decodeSig f
  | 0xA5 => decodeSigd f
  | 0xA6 => decodeCont f
  | 0xA7 => decodeSpawn f
  | 0xA8 => decodeLaunch f
  | 0xA9 => decodeKend f
  | 0xAA => decodeBar f
  | 0xAB => decodeAred f
  | 0xAC => decodeTidx f
  | 0xAD => decodeFlags f
  | 0xB0 => decodeChsend f
  | 0xB1 => decodeChrecv f
  | 0xB2 => decodeChsel f
  | 0xB3 => decodeChsendm f
  | 0xB4 => decodeChtest f
  | 0xB5 => decodeChbind f
  | 0xB6 => decodeChcan f
  | 0xB8 => decodePhclaim f
  | 0xB9 => decodePhins f
  | 0xBA => decodePhprb f
  | 0xBB => decodePhdel f
  | 0xBC => decodePhacc f
  | 0xBD => decodePhdrn f
  | 0xBE => decodePhrls f
  | 0xBF => decodePhstat f
  | 0xC0 => decodeMcfg f
  | 0xC1 => decodeMlda f
  | 0xC2 => decodeMldb f
  | 0xC3 => decodeMrun f
  | 0xC4 => decodeMzero f
  | 0xC5 => decodeMdrn f
  | 0xC6 => decodeMsteer f
  | 0xC7 => decodeMstat f
  | 0xD0 => decodeSysr f
  | 0xD1 => decodeSysw f
  | 0xD2 => decodeFres f
  | 0xD3 => decodeTlbi f
  | 0xD4 => decodeTmap f
  | 0xD5 =>
    match f.fn with
    | 0 => decodeEvictSave f
    | 1 => decodeEvictRestore f
    | _ => .error .illegal
  | 0xD6 => decodeDloctl f
  | 0xD7 => decodeHalt f
  | _ => .error .illegal

/-- The fields of the first word of an instruction, from the encoding tables (R64 to R73); a row that no seat issues
has none. -/
def encodeFields : Instr → Option Fields
  | .nop g => some ⟨0x1, 0, g.code, 0, 0, 0, 0, 0, 0⟩
  | .br g disp => some ⟨0x2, 0, g.code, 0, 0, (disp.toNat / 2 ^ 24 % 256), (disp.toNat / 2 ^ 16 % 256), (disp.toNat / 2 ^ 8 % 256), (disp.toNat % 256)⟩
  | .jmp g x disp => some ⟨0x3, 0, g.code, 0, x.code, (disp.toNat / 2 ^ 24 % 256), (disp.toNat / 2 ^ 16 % 256), (disp.toNat / 2 ^ 8 % 256), (disp.toNat % 256)⟩
  | .call g disp => some ⟨0x4, 0, g.code, 0, 0, (disp.toNat / 2 ^ 24 % 256), (disp.toNat / 2 ^ 16 % 256), (disp.toNat / 2 ^ 8 % 256), (disp.toNat % 256)⟩
  | .callr g x disp => some ⟨0x5, 0, g.code, 0, x.code, (disp.toNat / 2 ^ 24 % 256), (disp.toNat / 2 ^ 16 % 256), (disp.toNat / 2 ^ 8 % 256), (disp.toNat % 256)⟩
  | .ret g => some ⟨0x6, 0, g.code, 0, 0, 0, 0, 0, 0⟩
  | .loop g d disp => some ⟨0x7, 0, g.code, d.code, 0, (disp.toNat / 2 ^ 24 % 256), (disp.toNat / 2 ^ 16 % 256), (disp.toNat / 2 ^ 8 % 256), (disp.toNat % 256)⟩
  | .endT g => some ⟨0x8, 0, g.code, 0, 0, 0, 0, 0, 0⟩
  | .trap g disp => some ⟨0x9, 0, g.code, 0, 0, (disp.toNat / 2 ^ 24 % 256), (disp.toNat / 2 ^ 16 % 256), (disp.toNat / 2 ^ 8 % 256), (disp.toNat % 256)⟩
  | .brk g disp => some ⟨0xa, 0, g.code, 0, 0, (disp.toNat / 2 ^ 24 % 256), (disp.toNat / 2 ^ 16 % 256), (disp.toNat / 2 ^ 8 % 256), (disp.toNat % 256)⟩
  | .add g sat ty d x y => some ⟨0x10, (bitOf sat), g.code, d.code, x.code, y.code, 0, (ty.code * 8), 0⟩
  | .sub g sat ty d x y => some ⟨0x11, (bitOf sat), g.code, d.code, x.code, y.code, 0, (ty.code * 8), 0⟩
  | .mul g sat ty d x y => some ⟨0x12, (bitOf sat), g.code, d.code, x.code, y.code, 0, (ty.code * 8), 0⟩
  | .mulh g ty d x y => some ⟨0x13, 0, g.code, d.code, x.code, y.code, 0, (ty.code * 8), 0⟩
  | .div g ty d x y => some ⟨0x14, 0, g.code, d.code, x.code, y.code, 0, (ty.code * 8), 0⟩
  | .rem g ty d x y => some ⟨0x15, 0, g.code, d.code, x.code, y.code, 0, (ty.code * 8), 0⟩
  | .and g d x y => some ⟨0x16, 0, g.code, d.code, x.code, y.code, 0, 0, 0⟩
  | .or g d x y => some ⟨0x17, 0, g.code, d.code, x.code, y.code, 0, 0, 0⟩
  | .xor g d x y => some ⟨0x18, 0, g.code, d.code, x.code, y.code, 0, 0, 0⟩
  | .andn g d x y => some ⟨0x19, 0, g.code, d.code, x.code, y.code, 0, 0, 0⟩
  | .orn g d x y => some ⟨0x1a, 0, g.code, d.code, x.code, y.code, 0, 0, 0⟩
  | .shl g ty d x y => some ⟨0x1b, 0, g.code, d.code, x.code, y.code, 0, (ty.code * 8), 0⟩
  | .shr g ty d x y => some ⟨0x1c, 0, g.code, d.code, x.code, y.code, 0, (ty.code * 8), 0⟩
  | .sar g ty d x y => some ⟨0x1d, 0, g.code, d.code, x.code, y.code, 0, (ty.code * 8), 0⟩
  | .rol g ty d x y => some ⟨0x1e, 0, g.code, d.code, x.code, y.code, 0, (ty.code * 8), 0⟩
  | .ror g ty d x y => some ⟨0x1f, 0, g.code, d.code, x.code, y.code, 0, (ty.code * 8), 0⟩
  | .min g ty d x y => some ⟨0x20, 0, g.code, d.code, x.code, y.code, 0, (ty.code * 8), 0⟩
  | .max g ty d x y => some ⟨0x21, 0, g.code, d.code, x.code, y.code, 0, (ty.code * 8), 0⟩
  | .clz g ty d x => some ⟨0x22, 0, g.code, d.code, x.code, 0, 0, (ty.code * 8), 0⟩
  | .ctz g ty d x => some ⟨0x23, 0, g.code, d.code, x.code, 0, 0, (ty.code * 8), 0⟩
  | .popc g ty d x => some ⟨0x24, 0, g.code, d.code, x.code, 0, 0, (ty.code * 8), 0⟩
  | .brev g ty d x => some ⟨0x25, 0, g.code, d.code, x.code, 0, 0, (ty.code * 8), 0⟩
  | .bswap g ty d x => some ⟨0x26, 0, g.code, d.code, x.code, 0, 0, (ty.code * 8), 0⟩
  | .ext g ty d x => some ⟨0x27, 0, g.code, d.code, x.code, 0, 0, (ty.code * 8), 0⟩
  | .bfx g d x y => some ⟨0x28, 0, g.code, d.code, x.code, y.code, 0, 0, 0⟩
  | .bfi g d x y z => some ⟨0x29, 0, g.code, d.code, x.code, y.code, z.code, 0, 0⟩
  | .madd g ty d x y z => some ⟨0x2a, 0, g.code, d.code, x.code, y.code, z.code, (ty.code * 8), 0⟩
  | .cmp g cond ty d x y => some ⟨0x2b, cond.code, g.code, d.code, x.code, y.code, 0, (ty.code * 8), 0⟩
  | .sel g d x y z => some ⟨0x2c, 0, g.code, d.code, x.code, y.code, z.code, 0, 0⟩
  | .mov g d x => some ⟨0x2d, 0, g.code, d.code, x.code, 0, 0, 0, 0⟩
  | .abs g sat ty d x => some ⟨0x2e, (bitOf sat), g.code, d.code, x.code, 0, 0, (ty.code * 8), 0⟩
  | .neg g sat ty d x => some ⟨0x2f, (bitOf sat), g.code, d.code, x.code, 0, 0, (ty.code * 8), 0⟩
  | .addi g d x imm => some ⟨0x30, 0, g.code, d.code, x.code, (imm.toNat / 2 ^ 24 % 256), (imm.toNat / 2 ^ 16 % 256), (imm.toNat / 2 ^ 8 % 256), (imm.toNat % 256)⟩
  | .muli g d x imm => some ⟨0x31, 0, g.code, d.code, x.code, (imm.toNat / 2 ^ 24 % 256), (imm.toNat / 2 ^ 16 % 256), (imm.toNat / 2 ^ 8 % 256), (imm.toNat % 256)⟩
  | .andi g d x imm => some ⟨0x32, 0, g.code, d.code, x.code, (imm.toNat / 2 ^ 24 % 256), (imm.toNat / 2 ^ 16 % 256), (imm.toNat / 2 ^ 8 % 256), (imm.toNat % 256)⟩
  | .ori g d x imm => some ⟨0x33, 0, g.code, d.code, x.code, (imm.toNat / 2 ^ 24 % 256), (imm.toNat / 2 ^ 16 % 256), (imm.toNat / 2 ^ 8 % 256), (imm.toNat % 256)⟩
  | .xori g d x imm => some ⟨0x34, 0, g.code, d.code, x.code, (imm.toNat / 2 ^ 24 % 256), (imm.toNat / 2 ^ 16 % 256), (imm.toNat / 2 ^ 8 % 256), (imm.toNat % 256)⟩
  | .shli g d x imm => some ⟨0x35, 0, g.code, d.code, x.code, (imm.toNat / 2 ^ 24 % 256), (imm.toNat / 2 ^ 16 % 256), (imm.toNat / 2 ^ 8 % 256), (imm.toNat % 256)⟩
  | .shri g d x imm => some ⟨0x36, 0, g.code, d.code, x.code, (imm.toNat / 2 ^ 24 % 256), (imm.toNat / 2 ^ 16 % 256), (imm.toNat / 2 ^ 8 % 256), (imm.toNat % 256)⟩
  | .sari g d x imm => some ⟨0x37, 0, g.code, d.code, x.code, (imm.toNat / 2 ^ 24 % 256), (imm.toNat / 2 ^ 16 % 256), (imm.toNat / 2 ^ 8 % 256), (imm.toNat % 256)⟩
  | .cmpi g cond d x imm => some ⟨0x38, cond.code, g.code, d.code, x.code, (imm.toNat / 2 ^ 24 % 256), (imm.toNat / 2 ^ 16 % 256), (imm.toNat / 2 ^ 8 % 256), (imm.toNat % 256)⟩
  | .li g d imm => some ⟨0x39, 0, g.code, d.code, 0, (imm.toNat / 2 ^ 24 % 256), (imm.toNat / 2 ^ 16 % 256), (imm.toNat / 2 ^ 8 % 256), (imm.toNat % 256)⟩
  | .lih g d imm => some ⟨0x3a, 0, g.code, d.code, 0, (imm.toNat / 2 ^ 24 % 256), (imm.toNat / 2 ^ 16 % 256), (imm.toNat / 2 ^ 8 % 256), (imm.toNat % 256)⟩
  | .li64 g d imm => some ⟨0x3b, 0, g.code, d.code, 0, (imm.toNat / 2 ^ 24 % 256), (imm.toNat / 2 ^ 16 % 256), (imm.toNat / 2 ^ 8 % 256), (imm.toNat % 256)⟩
  | .lea g d x imm => some ⟨0x3c, 0, g.code, d.code, x.code, (imm.toNat / 2 ^ 24 % 256), (imm.toNat / 2 ^ 16 % 256), (imm.toNat / 2 ^ 8 % 256), (imm.toNat % 256)⟩
  | .leaPc g d imm => some ⟨0x3c, 1, g.code, d.code, 0, (imm.toNat / 2 ^ 24 % 256), (imm.toNat / 2 ^ 16 % 256), (imm.toNat / 2 ^ 8 % 256), (imm.toNat % 256)⟩
  | .fadd g ty rnd d x y => some ⟨0x40, 0, g.code, d.code, x.code, y.code, rnd.field, (ty.code * 8 + rnd.code), 0⟩
  | .fsub g ty rnd d x y => some ⟨0x41, 0, g.code, d.code, x.code, y.code, rnd.field, (ty.code * 8 + rnd.code), 0⟩
  | .fmul g ty rnd d x y => some ⟨0x42, 0, g.code, d.code, x.code, y.code, rnd.field, (ty.code * 8 + rnd.code), 0⟩
  | .ffma g ty rm d x y z => some ⟨0x43, 0, g.code, d.code, x.code, y.code, z.code, (ty.code * 8 + rm.code), 0⟩
  | .fdiv g ty rm d x y => some ⟨0x44, 0, g.code, d.code, x.code, y.code, 0, (ty.code * 8 + rm.code), 0⟩
  | .fsqrt g ty rm d x => some ⟨0x45, 0, g.code, d.code, x.code, 0, 0, (ty.code * 8 + rm.code), 0⟩
  | .fmin g ty d x y => some ⟨0x46, 0, g.code, d.code, x.code, y.code, 0, (ty.code * 8), 0⟩
  | .fmax g ty d x y => some ⟨0x47, 0, g.code, d.code, x.code, y.code, 0, (ty.code * 8), 0⟩
  | .fcmp g cond ty d x y => some ⟨0x48, cond.code, g.code, d.code, x.code, y.code, 0, (ty.code * 8), 0⟩
  | .fcvt g sat dt ty rnd d x => some ⟨0x49, (bitOf sat), g.code, d.code, x.code, rnd.field, dt.code, (ty.code * 8 + rnd.code), 0⟩
  | .fclass g ty d x => some ⟨0x4a, 0, g.code, d.code, x.code, 0, 0, (ty.code * 8), 0⟩
  | .frnd g ty rm d x => some ⟨0x4b, 0, g.code, d.code, x.code, 0, 0, (ty.code * 8 + rm.code), 0⟩
  | .vadd g sat ty d x y => some ⟨0x50, (bitOf sat), g.code, d.code, x.code, y.code, 0, (ty.code * 8), 0⟩
  | .vsub g sat ty d x y => some ⟨0x51, (bitOf sat), g.code, d.code, x.code, y.code, 0, (ty.code * 8), 0⟩
  | .vmul g sat ty d x y => some ⟨0x52, (bitOf sat), g.code, d.code, x.code, y.code, 0, (ty.code * 8), 0⟩
  | .vmulh g ty d x y => some ⟨0x53, 0, g.code, d.code, x.code, y.code, 0, (ty.code * 8), 0⟩
  | .vmad g ty d x y z => some ⟨0x54, 0, g.code, d.code, x.code, y.code, z.code, (ty.code * 8), 0⟩
  | .vmin g ty d x y => some ⟨0x55, 0, g.code, d.code, x.code, y.code, 0, (ty.code * 8), 0⟩
  | .vmax g ty d x y => some ⟨0x56, 0, g.code, d.code, x.code, y.code, 0, (ty.code * 8), 0⟩
  | .vabsd g ty d x y => some ⟨0x57, 0, g.code, d.code, x.code, y.code, 0, (ty.code * 8), 0⟩
  | .vand g d x y => some ⟨0x58, 0, g.code, d.code, x.code, y.code, 0, 0, 0⟩
  | .vor g d x y => some ⟨0x59, 0, g.code, d.code, x.code, y.code, 0, 0, 0⟩
  | .vxor g d x y => some ⟨0x5a, 0, g.code, d.code, x.code, y.code, 0, 0, 0⟩
  | .vshl g ty d x y => some ⟨0x5b, 0, g.code, d.code, x.code, y.code, 0, (ty.code * 8), 0⟩
  | .vshr g ty d x y => some ⟨0x5c, 0, g.code, d.code, x.code, y.code, 0, (ty.code * 8), 0⟩
  | .vsar g ty d x y => some ⟨0x5d, 0, g.code, d.code, x.code, y.code, 0, (ty.code * 8), 0⟩
  | .vcmp g cond ty d x y => some ⟨0x5e, cond.code, g.code, d.code, x.code, y.code, 0, (ty.code * 8), 0⟩
  | .vsel g ty d x y z => some ⟨0x5f, 0, g.code, d.code, x.code, y.code, z.code, (ty.code * 8), 0⟩
  | .vfadd g ty rnd d x y => some ⟨0x60, 0, g.code, d.code, x.code, y.code, rnd.field, (ty.code * 8 + rnd.code), 0⟩
  | .vfsub g ty rnd d x y => some ⟨0x61, 0, g.code, d.code, x.code, y.code, rnd.field, (ty.code * 8 + rnd.code), 0⟩
  | .vfmul g ty rnd d x y => some ⟨0x62, 0, g.code, d.code, x.code, y.code, rnd.field, (ty.code * 8 + rnd.code), 0⟩
  | .vffma g ty rm d x y z => some ⟨0x63, 0, g.code, d.code, x.code, y.code, z.code, (ty.code * 8 + rm.code), 0⟩
  | .vfmin g ty d x y => some ⟨0x64, 0, g.code, d.code, x.code, y.code, 0, (ty.code * 8), 0⟩
  | .vfmax g ty d x y => some ⟨0x65, 0, g.code, d.code, x.code, y.code, 0, (ty.code * 8), 0⟩
  | .vfcmp g cond ty d x y => some ⟨0x66, cond.code, g.code, d.code, x.code, y.code, 0, (ty.code * 8), 0⟩
  | .vrcp g ty rm d x => some ⟨0x67, 0, g.code, d.code, x.code, 0, 0, (ty.code * 8 + rm.code), 0⟩
  | .vrsq g ty rm d x => some ⟨0x68, 0, g.code, d.code, x.code, 0, 0, (ty.code * 8 + rm.code), 0⟩
  | .vsqrt g ty rm d x => some ⟨0x69, 0, g.code, d.code, x.code, 0, 0, (ty.code * 8 + rm.code), 0⟩
  | .vfdiv g ty rm d x y => some ⟨0x6a, 0, g.code, d.code, x.code, y.code, 0, (ty.code * 8 + rm.code), 0⟩
  | .vexp2 g ty rm d x => some ⟨0x6b, 0, g.code, d.code, x.code, 0, 0, (ty.code * 8 + rm.code), 0⟩
  | .vlog2 g ty rm d x => some ⟨0x6c, 0, g.code, d.code, x.code, 0, 0, (ty.code * 8 + rm.code), 0⟩
  | .vcvt g sat dt ty rnd d x => some ⟨0x6d, (bitOf sat), g.code, d.code, x.code, rnd.field, dt.code, (ty.code * 8 + rnd.code), 0⟩
  | .vshuf g ty d x y => some ⟨0x6e, 0, g.code, d.code, x.code, y.code, 0, (ty.code * 8), 0⟩
  | .vbcast g ty d x => some ⟨0x6f, 0, g.code, d.code, x.code, 0, 0, (ty.code * 8), 0⟩
  | .vins g ty d x y => some ⟨0x70, 0, g.code, d.code, x.code, y.code, 0, (ty.code * 8), 0⟩
  | .vextr g ty d x y => some ⟨0x71, 0, g.code, d.code, x.code, y.code, 0, (ty.code * 8), 0⟩
  | .vred g op ty d x => some ⟨0x72, op.code, g.code, d.code, x.code, 0, 0, (ty.code * 8), 0⟩
  | .vscan g op ty d x => some ⟨0x73, op.code, g.code, d.code, x.code, 0, 0, (ty.code * 8), 0⟩
  | .vdot g ty rm d x y => some ⟨0x74, 0, g.code, d.code, x.code, y.code, 0, (ty.code * 8 + rm.code), 0⟩
  | .vpack g sat dt ty rm d x y => some ⟨0x75, (bitOf sat), g.code, d.code, x.code, (if dt.width = 6 then 0 else y.code), dt.code, (ty.code * 8 + rm.code), 0⟩
  | .vunpk g dt ty d x y => some ⟨0x76, 0, g.code, d.code, x.code, y.code, dt.code, (ty.code * 8), 0⟩
  | .vpopc g ty d x => some ⟨0x77, 0, g.code, d.code, x.code, 0, 0, (ty.code * 8), 0⟩
  | .vclz g ty d x => some ⟨0x78, 0, g.code, d.code, x.code, 0, 0, (ty.code * 8), 0⟩
  | .vrng g d x y z => some ⟨0x79, 0, g.code, d.code, x.code, y.code, z.code, 0, 0⟩
  | .kop g op d x y => some ⟨0x7a, op.code, g.code, d.code, x.code, (if op.unary then 0 else y.code), 0, 0, 0⟩
  | .kpopc g d x => some ⟨0x7b, 0, g.code, d.code, x.code, 0, 0, 0, 0⟩
  | .kfirst g d x => some ⟨0x7c, 0, g.code, d.code, x.code, 0, 0, 0, 0⟩
  | .vmov g d x => some ⟨0x7d, 0, g.code, d.code, x.code, 0, 0, 0, 0⟩
  | .lds g sext sz d x off => some ⟨0x80, (bitOf sext), g.code, d.code, x.code, (off.toNat / 256), (off.toNat % 256), 0, (sz.val)⟩
  | .sts g sz d x off => some ⟨0x81, 0, g.code, d.code, x.code, (off.toNat / 256), (off.toNat % 256), 0, (sz.val)⟩
  | .vlds g d x off => some ⟨0x82, 0, g.code, d.code, x.code, (off.toNat / 256), (off.toNat % 256), 0, (6)⟩
  | .vsts g d x off => some ⟨0x83, 0, g.code, d.code, x.code, (off.toNat / 256), (off.toNat % 256), 0, (6)⟩
  | .vgath g sz d x off y => some ⟨0x84, 0, g.code, d.code, x.code, (off.toNat / 256), (off.toNat % 256), y.code, (sz.val)⟩
  | .vscat g sz d x off y => some ⟨0x85, 0, g.code, d.code, x.code, (off.toNat / 256), (off.toNat % 256), y.code, (sz.val)⟩
  | .ldf g d x off => some ⟨0x86, 0, g.code, d.code, x.code, (off.toNat / 256), (off.toNat % 256), 0, (6)⟩
  | .stf g d x off => some ⟨0x87, 0, g.code, d.code, x.code, (off.toNat / 256), (off.toNat % 256), 0, (6)⟩
  | .satom g op sz d x off => some ⟨0x88, op.code, g.code, d.code, x.code, (off.toNat / 256), (off.toNat % 256), 0, (sz.val)⟩
  | .scpy g sz d x off y => some ⟨0x89, 0, g.code, d.code, x.code, (off.toNat / 256), (off.toNat % 256), y.code, (sz.val)⟩
  | .gld g sext sz d x off t scope ord => some ⟨0x90, (bitOf sext), g.code, d.code, x.code, (off.toNat / 256), (off.toNat % 256), t.code, (sz.val + scope.code * 32 + ord.code * 8)⟩
  | .gst g sz d x off t scope ord => some ⟨0x91, 0, g.code, d.code, x.code, (off.toNat / 256), (off.toNat % 256), t.code, (sz.val + scope.code * 32 + ord.code * 8)⟩
  | .gldv g d x off t scope ord => some ⟨0x92, 0, g.code, d.code, x.code, (off.toNat / 256), (off.toNat % 256), t.code, (6 + scope.code * 32 + ord.code * 8)⟩
  | .gstv g d x off t scope ord => some ⟨0x93, 0, g.code, d.code, x.code, (off.toNat / 256), (off.toNat % 256), t.code, (6 + scope.code * 32 + ord.code * 8)⟩
  | .gatom g op sz d x off t scope ord => some ⟨0x94, op.code, g.code, d.code, x.code, (off.toNat / 256), (off.toNat % 256), t.code, (sz.val + scope.code * 32 + ord.code * 8)⟩
  | .gred g op sz d x off t scope ord => some ⟨0x95, op.code, g.code, d.code, x.code, (off.toNat / 256), (off.toNat % 256), t.code, (sz.val + scope.code * 32 + ord.code * 8)⟩
  | .ild g d x off t scope ord => some ⟨0x96, 0, g.code, d.code, x.code, (off.toNat / 256), (off.toNat % 256), t.code, (3 + scope.code * 32 + ord.code * 8)⟩
  | .ist g d x off t scope ord => some ⟨0x97, 0, g.code, d.code, x.code, (off.toNat / 256), (off.toNat % 256), t.code, (3 + scope.code * 32 + ord.code * 8)⟩
  | .irst g d x off t scope ord => some ⟨0x98, 0, g.code, d.code, x.code, (off.toNat / 256), (off.toNat % 256), t.code, (3 + scope.code * 32 + ord.code * 8)⟩
  | .mwatch g sz d x off t scope ord => some ⟨0x99, 0, g.code, d.code, x.code, (off.toNat / 256), (off.toNat % 256), t.code, (sz.val + scope.code * 32 + ord.code * 8)⟩
  | .dma g x t scope ord => some ⟨0x9a, 0, g.code, 0, x.code, 0, 0, t.code, (0 + scope.code * 32 + ord.code * 8)⟩
  | .strmOpen g d x t scope ord => some ⟨0x9b, 0, g.code, d.code, x.code, 0, 0, t.code, (0 + scope.code * 32 + ord.code * 8)⟩
  | .strmAdv g d x t scope ord => some ⟨0x9b, 1, g.code, d.code, x.code, 0, 0, t.code, (0 + scope.code * 32 + ord.code * 8)⟩
  | .strmNotify g d x t scope ord => some ⟨0x9b, 2, g.code, d.code, x.code, 0, 0, t.code, (0 + scope.code * 32 + ord.code * 8)⟩
  | .strmClose g d t scope ord => some ⟨0x9b, 3, g.code, d.code, 0, 0, 0, t.code, (0 + scope.code * 32 + ord.code * 8)⟩
  | .fence g t scope ord => some ⟨0x9c, 0, g.code, 0, 0, 0, 0, t.code, (0 + scope.code * 32 + ord.code * 8)⟩
  | .pref g sz x off scope => some ⟨0x9d, 0, g.code, 0, x.code, (off.toNat / 256), (off.toNat % 256), 0x10, (sz.val + scope.code * 32)⟩
  | .fnew g large d t => some ⟨0xa0, (bitOf large), g.code, d.code, 0, 0, 0, t.code, 0⟩
  | .ffree g x => some ⟨0xa1, 0, g.code, 0, x.code, 0, 0, 0, 0⟩
  | .sloti g x y => some ⟨0xa2, 0, g.code, 0, x.code, y.code, 0, 0, 0⟩
  | .slota g x y => some ⟨0xa3, 0, g.code, 0, x.code, y.code, 0, 0, 0⟩
  | .sig g st rel x => some ⟨0xa4, 0, g.code, 0, x.code, 0, 0, 0, (st.code + bitOf rel * 8)⟩
  | .sigd g st rel x y => some ⟨0xa5, 0, g.code, 0, x.code, y.code, 0, 0, (st.code + bitOf rel * 8)⟩
  | .cont g d x y z => some ⟨0xa6, 0, g.code, d.code, x.code, y.code, z.code, 0, 0⟩
  | .spawn g x y t => some ⟨0xa7, 0, g.code, 0, x.code, y.code, 0, t.code, 0⟩
  | .launch g x y t => some ⟨0xa8, 0, g.code, 0, x.code, y.code, 0, t.code, 0⟩
  | .kend g => some ⟨0xa9, 0, g.code, 0, 0, 0, 0, 0, 0⟩
  | .bar g t => some ⟨0xaa, 0, g.code, 0, 0, 0, 0, t.code, 0⟩
  | .ared g op ty d x t => some ⟨0xab, op.code, g.code, d.code, x.code, 0, 0, t.code, (ty.code)⟩
  | .tidx g d x => some ⟨0xac, 0, g.code, d.code, x.code, 0, 0, 0, 0⟩
  | .flags g d => some ⟨0xad, 0, g.code, d.code, 0, 0, 0, 0, 0⟩
  | .chsend g kind rel x y z t => some ⟨0xb0, kind.code, g.code, 0, x.code, y.code, z.code, t.code, (bitOf rel)⟩
  | .chrecv g kind x y z t => some ⟨0xb1, kind.code, g.code, 0, x.code, y.code, z.code, t.code, 0⟩
  | .chsel g rot d x y z t => some ⟨0xb2, 0, g.code, d.code, x.code, y.code, z.code, t.code, (bitOf rot)⟩
  | .chsendm g kind rel x y z t => some ⟨0xb3, kind.code, g.code, 0, x.code, y.code, z.code, t.code, (bitOf rel)⟩
  | .chtest g d x t => some ⟨0xb4, 0, g.code, d.code, x.code, 0, 0, t.code, 0⟩
  | .chbind g x t => some ⟨0xb5, 0, g.code, 0, x.code, 0, 0, t.code, 0⟩
  | .chcan g x => some ⟨0xb6, 0, g.code, 0, x.code, 0, 0, 0, 0⟩
  | .phclaim g x y z t => some ⟨0xb8, 0, g.code, 0, x.code, y.code, z.code, t.code, 0⟩
  | .phins g vec d x y z t => some ⟨0xb9, (bitOf vec), g.code, d.code, x.code, y.code, z.code, t.code, 0⟩
  | .phprb g vec d x y t => some ⟨0xba, (bitOf vec), g.code, d.code, x.code, y.code, 0, t.code, 0⟩
  | .phdel g vec d x y t => some ⟨0xbb, (bitOf vec), g.code, d.code, x.code, y.code, 0, t.code, 0⟩
  | .phacc g vec kind d x y z t => some ⟨0xbc, (kind.code * 2 + bitOf vec), g.code, d.code, x.code, y.code, z.code, t.code, 0⟩
  | .phdrn g vec chan d x y z t => some ⟨0xbd, (bitOf chan * 2 + bitOf vec), g.code, d.code, x.code, y.code, z.code, t.code, 0⟩
  | .phrls g x t => some ⟨0xbe, 0, g.code, 0, x.code, 0, 0, t.code, 0⟩
  | .phstat g vec d x y t => some ⟨0xbf, (bitOf vec), g.code, d.code, x.code, y.code, 0, t.code, 0⟩
  | .mcfg g x => some ⟨0xc0, 0, g.code, 0, x.code, 0, 0, 0, 0⟩
  | .mlda g x y z t => some ⟨0xc1, 0, g.code, 0, x.code, y.code, z.code, t.code, 0⟩
  | .mldb g x y z => some ⟨0xc2, 0, g.code, 0, x.code, y.code, z.code, 0, 0⟩
  | .mrun g chan ring x y z t => some ⟨0xc3, (bitOf chan), g.code, 0, x.code, y.code, z.code, t.code, (bitOf ring)⟩
  | .mzero g x => some ⟨0xc4, 0, g.code, 0, x.code, 0, 0, 0, 0⟩
  | .mdrn g kind sat ty rm x y z t => some ⟨0xc5, (bitOf sat * 4 + kind.code), g.code, 0, x.code, y.code, z.code, t.code, (rm.code * 32 + ty.code)⟩
  | .msteer g x y => some ⟨0xc6, 0, g.code, 0, x.code, y.code, 0, 0, 0⟩
  | .mstat g d x t => some ⟨0xc7, 0, g.code, d.code, x.code, 0, 0, t.code, 0⟩
  | .sysr g d x t => some ⟨0xd0, 0, g.code, d.code, x.code, 0, 0, t.code, 0⟩
  | .sysw g x y t => some ⟨0xd1, 0, g.code, 0, x.code, y.code, 0, t.code, 0⟩
  | .fres g kind x y t => some ⟨0xd2, kind.code, g.code, 0, x.code, y.code, 0, t.code, 0⟩
  | .tlbi g kind x y t => some ⟨0xd3, kind.code, g.code, 0, x.code, y.code, 0, t.code, 0⟩
  | .tmap g d x t => some ⟨0xd4, 0, g.code, d.code, x.code, 0, 0, t.code, 0⟩
  | .evictSave g x t => some ⟨0xd5, 0, g.code, 0, x.code, 0, 0, t.code, 0⟩
  | .evictRestore g x t => some ⟨0xd5, 1, g.code, 0, x.code, 0, 0, t.code, 0⟩
  | .dloctl g x y t => some ⟨0xd6, 0, g.code, 0, x.code, y.code, 0, t.code, 0⟩
  | .halt g x => some ⟨0xd7, 0, g.code, 0, x.code, 0, 0, 0, 0⟩
  | .pick _ _ _ => none
  | .accept _ => none
  | .responseArrival _ => none
  | .writeAck _ _ => none
  | .homeRead _ => none
  | .homeWrite _ => none
  | .homeAtomic _ => none
  | .homeIld _ => none
  | .homeIst _ => none
  | .homeIrst _ => none
  | .mwatchArm _ => none
  | .pageWalk _ _ => none
  | .faultServiceReply _ _ _ => none
  | .taskPickup _ _ _ => none
  | .stealRequest _ _ _ => none
  | .stealServe _ => none
  | .stealReply _ => none
  | .spawnPush _ => none
  | .deferredCreation _ _ _ => none
  | .spillStart _ _ _ => none
  | .spillCheck _ _ _ _ => none
  | .forwardApply _ => none
  | .wake _ => none
  | .deferredWakeSend _ => none
  | .recall _ => none
  | .refillInstall _ => none
  | .recallDone _ => none
  | .trapQueueRetry _ => none
  | .barArrival _ => none
  | .barRelease _ => none
  | .ready _ => none
  | .readySelect _ => none
  | .offer _ => none
  | .go _ => none
  | .release _ => none
  | .dataLanding _ => none
  | .acceptance _ => none
  | .refuse _ => none
  | .withdraw _ => none
  | .channelTest _ => none
  | .bindRequest _ => none
  | .bindReply _ => none
  | .dloDetectionStart _ _ => none
  | .dloQuery _ => none
  | .dloReply _ => none
  | .anvilStep _ _ => none
  | .anvilDrain _ _ => none
  | .phSpillStep _ _ _ => none
  | .phSpillReply _ _ _ => none
  | .dmaBurst _ => none
  | .dmaBurstDone _ _ => none
  | .streamFill _ _ _ _ => none
  | .notify _ _ => none
  | .packetTake _ => none
  | .dependenceMet _ _ => none
  | .admission => none
  | .kernelComplete _ => none
  | .launchCopy _ => none
  | .spanningRelease _ _ => none
  | .evictedTilePacket _ => none
  | .ualinkInbound _ _ _ => none
  | .linkReplay _ => none
  | .linkRetrain _ _ => none
  | .patrol _ _ => none
  | .hmrWrite _ => none
  | .packageReset => none
  | .tamperAlarm => none
  | .sensorSample _ => none
  | .resume _ => none
  | .featcCommit => none
  | .featcReset => none
  | .srcmdRead _ => none
  | .srcmdWrite _ => none
  | .areplyq _ => none
  | .freply _ => none
  | .ckill _ => none
  | .cwgt _ => none
  | .ctxd _ => none
  | .qdesc _ => none
  | .registerWrite _ => none
  | .readStatus => none
  | .readTelemetry => none
  | .repairRead => none
  | .fwWrite _ _ _ _ => none
  | .fwActivate _ _ => none
  | .svnCommit _ => none
  | .repairSign _ _ => none
  | .reset _ => none
  | .getVersion => none
  | .getCapabilities => none
  | .negotiateAlgorithms _ => none
  | .getDigests => none
  | .getCertificate _ _ => none
  | .challenge _ => none
  | .getMeasurements _ _ => none
  | .keyExchange _ _ => none
  | .finish _ _ => none
  | .endSession _ => none
  | .heartbeat _ => none
  | .linkTrained _ _ => none
  | .portm _ => none
  | .route _ => none
  | .withdrawAnswer _ => none
  | .testReply _ => none
  | .instructionFetch _ _ _ => none
  | .taskReturned _ => none

/-- The words of an instruction: one, or two for LI64 (R71), and none for a row that no seat issues. -/
def encode (i : Instr) : List Word :=
  match encodeFields i with
  | none => []
  | some f =>
    match i with
    | .li64 _ _ imm => [f.word, BitVec.ofNat 64 (imm.toNat / 2 ^ 32)]
    | _ => [f.word]

/-- What the decoder reads from an instruction whose bits are w, the first word lowest; the bits above are zero. -/
def decodeTableWord (nbits w : Nat) : Option Instr :=
  let n := w % 2 ^ nbits
  match decode (BitVec.ofNat 64 n) (BitVec.ofNat 64 (n / 2 ^ 64)) with
  | .ok i => some i
  | .error _ => none

end Sys2Proof
end

