-- ==== Sys2Proof/Config.lean ====
section
/-! DEFINITION. What an implementation or the outside world fixes: constants of the Kazund package and the free values, which have no
body, so that nothing can be proved of them but what holds of every value. -/

namespace Sys2Proof.Config

/-- Torus width and height of the package: 64 by 64 tiles (R14). -/
def torusSide : Nat := 64
/-- Cores of a tile and seats of a core (R22). -/
def coresPerTile : Nat := 4
def seatsPerCore : Nat := 4
/-- Entries of a core's outstanding-request table (R215). -/
def requestEntries : Nat := 48
/-- Words of a tile's instruction cache: 64 KiB (R18). -/
def icacheWords : Nat := 8192
/-- Places of a ready queue (R152) and of a deque (R160). -/
def readyPlaces : Nat := 128
def dequePlaces : Nat := 32
/-- Bytes of HBM4 (R191). -/
def hbmBytes : Nat := 2 ^ 40
/-- The LLC-direct window (R191). -/
def ldBase : Nat := 2 ^ 40
def ldBytes : Nat := 2 ^ 32
/-- What an unlisted byte of global memory reads as: the spec gives HBM4, LLC-direct and host memory no contents after package reset
(R193), and the model takes zero (DESIGN CHOICE, notes/assumptions/1.md). -/
def emptyByte : Byte := 0

/-- The free value of width w that the n-th open choice takes (notes/assumptions/3.md). -/
opaque freeValue (w n : Nat) : BitVec w

/-- What the two bits of PORTM's LANES read while a port runs on 4 lanes: the number does not fit the field (R398), and the spec gives no
code for it (notes/assumptions/17.md). -/
opaque lanesFour : BitVec 2

/-- SHA-384, uninterpreted (notes/assumptions/20.md). -/
opaque sha384 : List Byte → BitVec 384
/-- A package's ECDSA signature over a digest by the identity key of a serial (R432), and whether any other word verifies under the
fused public half; uninterpreted (notes/assumptions/20.md). -/
opaque identitySign : Word → BitVec 384 → BitVec 768
opaque identityOther : Word → BitVec 384 → BitVec 768 → Bool
/-- Whether a word verifies under the Caerlas firmware key (R430); uninterpreted (notes/assumptions/20.md). -/
opaque firmwareKey : BitVec 384 → BitVec 768 → Bool
/-- SHA-384 of Hallmark's ROM and the fused configuration (R433, measurements 1 and 4), what GET_CAPABILITIES answers, Hallmark's share of a
key exchange, and whether a FINISH verifies; uninterpreted (notes/assumptions/21.md). -/
opaque romDigest : BitVec 384
opaque fusedConfig : List Byte
opaque spdmCapabilities : List Byte
/-- The answer to an MCTP control message, which the spec leaves to MCTP (R434). -/
opaque mctpControl : List Byte → List Byte
opaque keyShare : Nat → List Byte → List Byte
opaque finishGood : Nat → List Byte → Bool
/-- The HBM4 row of a granule, and the rows of a stack that may be repaired: the spec gives neither (R426; notes/assumptions/22.md). -/
opaque hbmRow : Nat → Nat
opaque spareRows : Nat → Nat

end Sys2Proof.Config
end

