-- ==== Sys2Proof/Machine/Tab.lean ====
section
/-! DEFINITION. Sparse tables: one canonical form for memory, register files and every other store that is read by a number.
An entry equal to the table's default is never listed by a write, and keys rise. -/

namespace Sys2Proof.Machine

/-- The value at a key; the default where nothing is listed. -/
def Tab.get {α : Type} (d : α) : Table α → Nat → α
  | [], _ => d
  | (k, v) :: t, n => if k = n then v else Tab.get d t n

/-- The entry at a key, if one is listed. -/
def Tab.find {α : Type} : Table α → Nat → Option α
  | [], _ => none
  | (k, v) :: t, n => if k = n then some v else Tab.find t n

/-- The table without a key. -/
def Tab.drop {α : Type} : Table α → Nat → Table α
  | [], _ => []
  | (k, v) :: t, n => if k = n then Tab.drop t n else (k, v) :: Tab.drop t n

/-- An entry put at its place by rising keys. -/
def Tab.ins {α : Type} : Table α → Nat → α → Table α
  | [], n, x => [(n, x)]
  | (k, v) :: t, n, x => if n < k then (n, x) :: (k, v) :: t else (k, v) :: Tab.ins t n x

/-- A listed value at a key, replacing what was there. -/
def Tab.put {α : Type} (t : Table α) (n : Nat) (x : α) : Table α := Tab.ins (Tab.drop t n) n x

/-- A value at a key, unlisted where it is the default. -/
def Tab.set {α : Type} [DecidableEq α] (d : α) (t : Table α) (n : Nat) (x : α) : Table α :=
  if x = d then Tab.drop t n else Tab.put t n x

/-- The canonical form: keys rise strictly and no value is the default. -/
def Tab.wf {α : Type} [DecidableEq α] (d : α) : Table α → Bool
  | [] => true
  | (k, v) :: t => decide (v ≠ d) && t.all (fun e => decide (k < e.1)) && Tab.wf d t

/-- Elements of a list that a test keeps, with the first that it does not keep taken out: removal by position. -/
def dropNth {α : Type} : List α → Nat → List α
  | [], _ => []
  | _ :: l, 0 => l
  | a :: l, n + 1 => a :: dropNth l n

end Sys2Proof.Machine
end

