-- ==== Sys2Proof/Machine/State.lean ====
section
/-! DEFINITION. The state of the package, as plain data: every register, memory and queue that the spec names, the packets in flight,
and the agenda that says which agent moves next. -/

namespace Sys2Proof.Machine

/-! ## Names -/

/-- A physical seat: physical tile, core, seat (R13, R22). -/
structure SeatId where
  ptn : Nat
  core : Nat
  seat : Nat
  deriving DecidableEq, Repr

/-- A frame of the package by its logical names: context slot, logical tile, core, frame number (R145). -/
structure FrameRef where
  ctx : Nat
  ltn : Nat
  core : Nat
  frm : Nat
  deriving DecidableEq, Repr

/-! ## Seats -/

/-- An instruction that has issued and not retired (R30, R91, R130): the frame words and their poison as it read them, the cycle counter, how
many of its local accesses are done, and what they have read. -/
structure Mid where
  instr : Instr
  words : Table Word
  poison : List Nat
  cyc : Word
  steps : Nat
  got : BitVec 512
  deriving DecidableEq, Repr

/-- The working state of a threadlet (R23), with the frame it runs in, the marks of registers whose parity check fails (R419, by operand
specifier, `badFlags` for the seat flags), the class of the firing that it runs (R152) and the instruction that it has issued. -/
structure Threadlet where
  ctx : Nat
  ltn : Nat
  core : Nat
  frm : Nat
  w : Table Word
  v : Table (BitVec 512)
  k : Table Word
  lr : Word
  flags : BitVec 6
  pc : Word
  sig : Word
  bad : List Operand
  badFlags : Bool
  cls : Nat
  mid : Option Mid
  deriving DecidableEq, Repr

/-- R22. A seat in SAVE holds the threadlet whose trap waits to be written. -/
inductive SeatState where
  | idle
  | run (t : Threadlet)
  | save (t : Threadlet)
  deriving DecidableEq, Repr

/-! ## Frames and slots -/

/-- A slot word (R143) with its status cell (R144). -/
structure Slot where
  entry : Nat
  armed : Bool
  urg : Bool
  reload : Bool
  err : Bool
  rld : Nat
  count : Nat
  pn : Nat
  last : Nat
  ecnt : Nat
  deriving DecidableEq, Repr

/-- A slot that reads zero (R141). -/
def Slot.zero : Slot := ⟨0, false, false, false, false, 0, 0, 0, 0, 0⟩

/-- STATE of R142; a FREE frame number has no frame. -/
inductive FrameState where
  | live
  | away
  | parked
  deriving DecidableEq, Repr

/-- A spill write-out (R162): the failure it met, if any, by address and status; whether a slot has become due meanwhile; the words that
signals have changed since they were written; and the words, by number / 4, that were written in granules marked as poisoned (R416). -/
structure WriteOut where
  failed : Option (Word × Nat)
  due : Bool
  changed : List Nat
  marked : List Nat
  deriving DecidableEq, Repr

/-- What a frame is doing while MOVING = 1 (R162, R165). -/
inductive Moving where
  | no
  | spill (o : WriteOut)
  /-- a refill -/
  | refill
  deriving DecidableEq, Repr

/-- A frame: its map entry (R142), slots, words (R140), poison marks of its words and slot words (R415), open traps NT (R376), the
pending-free mark (R176) and its bit of the overflow bitmap (R155). -/
structure Frame where
  st : FrameState
  moving : Moving
  large : Bool
  rtag : Nat
  owc : Nat
  runs : Nat
  tch : Bool
  pgr : Nat
  slots : Table Slot
  words : Table Word
  poison : List Nat
  badSlots : List Nat
  nt : Nat
  pendingFree : Bool
  ovf : Bool
  deriving DecidableEq, Repr

/-- A ready-queue entry (R152); `resume` is the state that a FRES or an eviction carries (R379, R388), and `stopped` marks an eviction's. -/
structure Ready where
  frm : Nat
  slot : Nat
  entry : Nat
  sig : Word
  cls : Nat
  resume : Option Threadlet
  stopped : Bool
  deriving DecidableEq, Repr

/-- A task record (R156): its eight words. -/
abbrev Task := List Word

/-- The datum of a signal: its words, `none` for a word that is not written (R146, R313); empty for no datum. -/
abbrev Datum := List (Option Word)

/-- A completion target as captured at issue: none, or a continuation (R171). -/
abbrev Dest := Option Word

/-- A task that a core has taken up and whose frame is not yet made (R157). -/
structure HeldTask where
  task : Task
  deriving DecidableEq, Repr

/-- A context's part of one core of a logical tile. `late`: resume and root entries that wait for a place of the ready queue
(notes/assumptions/52.md). -/
structure PartCore where
  frames : Table Frame
  /-- ready entries of the context, oldest first -/
  ready : List Ready
  late : List Ready
  /-- tasks held until their frames can be made (R157) -/
  tasks : List HeldTask
  /-- FNEW requests that wait under R161, by name -/
  waits : List Nat
  /-- a spill of the context failed on this core (R444) -/
  noSpill : Bool
  /-- spilled deque records (R160): they lie in memory; the count and the ring position of the oldest -/
  dqCount : Nat
  dqHead : Nat
  /-- places of the area kept for steal replies (R158) -/
  dqKept : Nat
  /-- deque records of the context while the tile is away (R387), and those that wait for room since, oldest first; and the places of the deque
  that are kept for steal replies and for which the core that the part stands on has yet to have room (R158) -/
  deque : List Task
  kept : Nat
  deriving DecidableEq, Repr

def PartCore.empty : PartCore := ⟨[], [], [], [], [], false, 0, 0, 0, [], 0⟩


/-! ## Barriers (R185, R186) -/

/-- What a subtree of present participants brings to an all-reduce: the operation and type of its lowest participant, the combined
value, and whether any participant of it differs from that operation or type. -/
structure Contrib where
  op : RedOp
  ty : Ty
  value : Nat
  bad : Bool
  deriving DecidableEq, Repr

/-- What a tile of another package told: its subtree is absent from a number on (R185). -/
structure Absent where
  ared : Bool
  src : Nat
  start : Nat
  deriving DecidableEq, Repr

/-- A barrier unit's place for one barrier or all-reduce: the tile's own arrival, with its value, and the arrivals of its children. -/
structure BarNode where
  ared : Bool
  num : Nat
  own : Option (Option Contrib)
  got : List (Nat × Option Contrib)
  sent : Bool
  deriving DecidableEq, Repr

/-! ## Stream windows (R231, R232) -/

/-- A window that is not FREE. `issued` counts the elements whose fill or write-back has started, `landed` the elements done beyond HEAD,
`passed` the STRM.adv requests of a write window with the element each ends before. -/
structure Window where
  ref : FrameRef
  rtag : Nat
  gbase : Nat
  gstride : Int
  count : Nat
  ring : Nat
  logRing : Nat
  logElem : Nat
  write : Bool
  head : Nat
  tail : Nat
  issued : Nat
  landed : List Nat
  passed : List (Nat × Nat)
  error : Option (Status × Nat)
  /-- the trap cause and the address that the error stands for (R218) -/
  errCause : Nat
  errVa : Word
  closing : Bool
  closeReq : Option Nat
  notify : Option (Nat × Nat)
  deriving DecidableEq, Repr

/-! ## Channels (R237 to R258) -/

/-- A port of the pod in a context: logical package, logical tile, logical port. -/
structure PortRef where
  pkg : Nat
  ltn : Nat
  port : Nat
  deriving DecidableEq, Repr

/-- Who posted a channel operation: a request, or an engine of the tile. -/
inductive ChOwner where
  | req (id : Nat)
  /-- an MDRN.chan, by its request; an automatic drain; a ring forward; a run's own receive (R284 to R291) -/
  | drain (id : Nat)
  | auto
  | ring
  | latch
  /-- a transfer of PHDRN.chan, by its request (R319) -/
  | table (id : Nat)
  deriving DecidableEq, Repr

/-- What a receive asks for, as its ready says (R241). -/
inductive Asked where
  | words (n : Nat)
  | block (bytes : Nat)
  | latch
  deriving DecidableEq, Repr

/-- What a posted operation sends or receives (R241). -/
inductive ChForm where
  | sendWords (data : List Word)
  | sendBlock (addr bytes : Nat)
  | sendBytes (data : List Byte) (poisoned : Bool)
  | recvWords (frm n : Nat)
  | recvBlock (addr bytes : Nat)
  /-- `asked` once its ready is sent -/
  | recvLatch (asked : Bool)
  | select (id : Nat)
  deriving DecidableEq, Repr

/-- An operation on a port: held by .rel, offered to a select (who, under which seq, how many words), the members whose acceptance is awaited, and the
status that a withdrawal completes it with (R242 to R252). -/
structure ChOp where
  owner : ChOwner
  ref : FrameRef
  rtag : Nat
  tag : Nat
  form : ChForm
  held : Bool
  offered : Option (PortRef × Nat × Nat)
  moving : List PortRef
  result : Status
  cancel : Option Status
  deriving DecidableEq, Repr

/-- A port that is not UNBOUND, or that still holds an operation: its members, the sender alone for RECV; the recorded readies of a SEND port and the
ready-select that it has yet to answer with an offer; the seq and the last seq released of a RECV port (R237, R243, R249). -/
structure Port where
  send : Bool
  bound : Bool
  members : List PortRef
  op : Option ChOp
  rdy : List (PortRef × Asked)
  rsel : Option (PortRef × Nat × Nat)
  seq : Nat
  released : Option Nat
  deriving DecidableEq, Repr

/-- A posted CHSEL (R249): its ports, the winner, and the ports whose answer to a withdraw is awaited. -/
structure Select where
  id : Nat
  ref : FrameRef
  rtag : Nat
  frm : Nat
  n : Nat
  rot : Bool
  ports : List Nat
  winner : Option Nat
  answers : List Nat
  cancel : Option Status
  deriving DecidableEq, Repr

/-- What a channel packet carries (R245). A unit of a block is none where it is poisoned (R247). -/
inductive ChBody where
  | ready (a : Asked)
  | readySelect (seq n : Nat)
  | offer (seq : Nat)
  | go (seq : Nat)
  | release (seq : Nat)
  | dataWords (data : List Word)
  | dataUnits (units : List (Option (List Byte)))
  | acceptance (st : Status)
  | refuse
  | withdraw (tag : Nat)
  | withdrawn (tag : Nat) (gone : Bool)
  | test (id : Nat)
  | tested (id : Nat) (partner : Bool)
  /-- the refuse that answers a test -/
  | testRefused (id : Nat)
  | bind (id : Nat) (unbind : Bool)
  | bound (id : Nat) (ok : Bool)
  deriving DecidableEq, Repr

/-- A channel packet. -/
structure ChPacket where
  ctx : Nat
  src : PortRef
  dst : PortRef
  body : ChBody
  deriving DecidableEq, Repr

/-! ## Anvil (R269 to R295) -/

/-- A block in the B latch, with the token latched for it, if one came. -/
structure Block where
  bytes : List Byte
  token : Option (List Byte)
  poisoned : Bool
  deriving DecidableEq, Repr

/-- Where a drain goes (R289, R291). -/
structure Drain where
  acc : Nat
  kind : DrainKind
  dest : Nat
  scale : Nat
  oty : Ty
  rm : RM
  sat : Bool
  deriving DecidableEq, Repr

/-- A run (R282 to R287): its words, the next step, the drain that a committed step awaits, the blocks to forward, what is outstanding,
and the first error. `fresh` counts the steps committed since the latest resume (R441); `ahead` are blocks of the B stream that the engine
has read into latch halves before their steps, with what reading them met, and `taking` are the bytes of the next one so far (R205, R285). -/
structure Run where
  id : Nat
  chan : Bool
  ring : Bool
  acc : Nat
  panel : Nat
  steps : Nat
  spa : Nat
  drn : Option Nat
  inp : Nat
  out : Nat
  next : Nat
  pend : Option (Nat × Nat)
  forward : List Block
  sending : Nat
  receiving : Nat
  drains : Nat
  status : Status
  stopped : Bool
  fresh : Nat
  ahead : List (Status × Block)
  taking : List Byte
  deriving DecidableEq, Repr

/-- A command (R274). -/
inductive Cmd where
  | cfg (w : Word)
  | lda (id x first count z : Nat)
  | ldb (x y z : Nat)
  | run (r : Run)
  | zero (mask : Nat)
  | drn (id : Nat) (d : Drain)
  | steer (n : Nat) (w : Word)
  | stat (id sel : Nat) (clear : Bool)
  deriving DecidableEq, Repr

/-- The engine's state (R269). -/
structure Anvil where
  abuf : Table Byte
  ascale : Table Byte
  apoison : List Nat
  acc : Table (BitVec 32)
  accBad : List Nat
  latch : List Block
  token : Table Byte
  bbase : Nat
  bstride : Nat
  btoken : Nat
  cfg : Word
  steer : Table Word
  nanc : Nat
  ovfc : Nat
  satc : Nat
  stepc : Nat
  queue : List Cmd
  /-- channel drains whose acceptance is awaited, by request: they hold a drain buffer and a place of the queue -/
  draining : List Nat
  /-- commands that have left the queue since the grant (R298) -/
  left : Nat
  /-- words that the MLDA at the head of the queue has read, whether they met poison, and what the drain at its place has yet to write, with
  its local address (R130, R205) -/
  words : Nat
  met : Bool
  writing : Option (Nat × List Byte)
  deriving DecidableEq, Repr

/-- The engine as a kernel takes the grant (R270); the token latch's bytes read 0x7F where unlisted. R270 gives the B stream no value: it is zero, DESIGN CHOICE
(notes/assumptions/2.md). -/
def Anvil.reset : Anvil := ⟨[], [], [], [], [], [], [], 0, 0, 0, 0, [], 0, 0, 0, 0, [], [], 0, 0, false, none⟩

/-! ## Pigeonhole (R296 to R322) -/

/-- A claimed table (R297, R305): its entries by way index, 8 x bucket + way, the empty key with a zero value where unlisted; the ways
that are reserved (R308). `ready` once the claim is complete. -/
structure PhTable where
  unit : Nat
  logb : Nat
  spe : Bool
  slog : Nat
  spill : Nat
  trp : Bool
  frac : Nat
  ovf : Bool
  sat : Bool
  nv : Bool
  ofl : Bool
  onc : Nat
  spc : Nat
  entries : Table (Nat × Nat)
  reserved : List Nat
  deriving DecidableEq, Repr

/-- What a lane operation does (R311, R321). -/
inductive PhKind where
  | ins
  | prb
  | del
  | acc (k : AccKind)
  | stat
  deriving DecidableEq, Repr

/-- The spill step of a lane: an insert alone, or a find with a way reserved or not (R309). -/
inductive PhStep where
  | insertNew
  | find (reserved : Option Nat)
  deriving DecidableEq, Repr

/-- Flags that accumulations set in a table: SAT, NV, OF (R305). -/
structure PhFlags where
  sat : Bool
  nv : Bool
  ofl : Bool
  deriving DecidableEq, Repr

/-- What a spill step replies: PLACE, or an outcome with its value; `delta` is what it adds to SPC. -/
structure PhReply where
  place : Bool
  code : Nat
  value : Nat
  delta : Int
  flags : PhFlags
  deriving DecidableEq, Repr

/-- How a lane stands. -/
inductive PhLaneState where
  | waiting
  | step (p : PhStep)
  | replied (p : PhStep) (r : PhReply)
  | done (code value : Nat)
  deriving DecidableEq, Repr

structure PhLane where
  lane : Nat
  key : Nat
  val : Nat
  st : PhLaneState
  deriving DecidableEq, Repr

/-- An operation at the table port (R306). -/
inductive PhBody where
  /-- the claim, and the spill groups filled so far; `none` before it is decided. `waits`: the requests it waits for, and `cmds`: how many
  commands have left Anvil's queue by then (R298) -/
  | claim (t : PhTable) (waits : List Nat) (cmds : Nat) (filled : Option Nat)
  | lanes (k : PhKind) (l : List PhLane)
  | drain (vec chan : Bool) (dest maxRec : Nat) (clr : Bool)
  | release
  | read (clear : Bool)
  deriving DecidableEq, Repr

structure PhOp where
  id : Nat
  tbl : Nat
  vec : Bool
  body : PhBody
  deriving DecidableEq, Repr

/-- A PHDRN.chan that is sending: its request, table, port, transfers left, and the datum it completes with (R307, R319). -/
structure PhSend where
  id : Nat
  tbl : Nat
  ref : FrameRef
  rtag : Nat
  port : Nat
  blocks : List (List Byte)
  posted : Bool
  datum : Word
  deriving DecidableEq, Repr

/-! ## Accesses of the device at homes of other packages (R190, R194, R400) -/

/-- What the device asks of a home in another package: bytes read or written, a word counted down (R355), a watch that ends once the word is at
most a bound (R346), or the spill step of a lane of Pigeonhole (R309), which its operation names, on the group at the address. -/
inductive FarKind where
  | read (n : Nat)
  | write (data : List Byte)
  /-- the poison mark of the granule at the address is set: part of the write of a tile's image there (R416) -/
  | poison
  | decrement
  | depend (bound : Int)
  | spill (op lane : Nat) (k : PhKind) (p : PhStep) (key val frac group : Nat)
  deriving DecidableEq, Repr

/-- Who makes an access of the device, for the fault service and for other packages, which answer the access that waits (R372, R194). -/
inductive Waiter where
  /-- a look at where an address lies, which never waits -/
  | look
  /-- a request of a seat that the device carries out itself -/
  | req (id : Nat)
  /-- the fetch of a seat, and of a tile's instruction cache ahead of one -/
  | seat (p : SeatId)
  | prefetch (ptn : Nat)
  /-- the trap or notice that a context writes, of a frame or of none -/
  | trap (frame : Option FrameRef)
  /-- the packet at a queue's RIDX, a dependence of it, an admission reply, a kernel's completion -/
  | queue (q : Nat)
  | depend (q dep : Nat)
  | kernel
  /-- the image of an evicted tile -/
  | tile (ltn : Nat)
  /-- the spill or refill of a frame, and a signal at a frame's image -/
  | frame (ref : FrameRef)
  | forward (ref : FrameRef) (cont : Word) (datum : Datum) (status : Nat)
  /-- a core's deque refill, a steal from it, and a task returned to it -/
  | deque (ltn core : Nat)
  | steal (ltn core : Nat)
  | taskBack (ltn core : Nat)
  /-- the spill step of a lane of a Pigeonhole operation -/
  | lane (op lane : Nat)
  /-- a memory request that comes in by UALink -/
  | inbound (va : Nat)
  /-- a register read of a register-access port -/
  | port (n : Nat)
  deriving DecidableEq, Repr

/-- An access of the device in a context: the die that asks, and who waits for it. -/
structure Dev where
  ctx : Nat
  die : Nat
  who : Waiter
  deriving DecidableEq, Repr

/-- An access of the device in a context at a home of another package. -/
structure Far where
  dev : Dev
  va : Nat
  pkg : Nat
  pa : Nat
  kind : FarKind
  deriving DecidableEq, Repr

/-- The other package's answer: a status, the bytes of a read, a spill step's reply. -/
structure FarAnswer where
  status : Status
  bytes : List Byte
  reply : Option PhReply
  deriving DecidableEq, Repr

/-- An access of the device that has left for another package, and its answer until the device takes it. -/
structure Loan where
  id : Nat
  far : Far
  answer : Option FarAnswer
  deriving DecidableEq, Repr

/-! ## The Dead Letter Office (R259 to R268) -/

/-- A tile as a detection names it. -/
structure TileRef where
  pkg : Nat
  ltn : Nat
  deriving DecidableEq, Repr

/-- A wait edge: a port of the tile, and the partner port that it waits on (R261). -/
structure Edge where
  port : Nat
  dst : PortRef
  deriving DecidableEq, Repr

inductive Verdict where
  | blocked
  | busy
  | active
  deriving DecidableEq, Repr

/-- What a reply carries (R262): the verdict, the lowest identity engaged below, the number of tiles engaged below, and open edges. -/
structure Report where
  verdict : Verdict
  low : Option TileRef
  count : Nat
  pairs : List (TileRef × Nat)
  deriving DecidableEq, Repr

/-- A detection: its initiator's tile, serial and pass. -/
structure Detection where
  init : TileRef
  serial : Nat
  pass : Nat
  deriving DecidableEq, Repr

/-- A visit entry, or the initiator's own record: the engager with the edge of its query, how many queries of the pass have yet to be
answered (those of the first pass are counted), the ASN and open edges of the first pass, the edges whose answers are awaited, and what the
answers brought so far. -/
structure Visit where
  det : Detection
  engager : TileRef
  via : Edge
  asked : Nat
  asn : Word
  edges : List Edge
  awaiting : List Edge
  got : Report
  deriving DecidableEq, Repr

/-! ## A context's part of a tile -/

/-- A context's part of a logical tile: what moves with it when it is evicted (R387). Local memory is the granted scratchpad by local
address (R128), zero where nothing is listed (R355). -/
structure Part where
  cores : Table PartCore
  spad : Table Byte
  /-- poisoned 64-bit words of the scratchpad, by local address / 8 (R415) -/
  spoison : List Nat
  /-- the tile has executed KEND (R184) -/
  ended : Bool
  /-- SFLAG (R33) and ASN (R259) -/
  sflag : BitVec 6
  asn : Word
  /-- barriers and all-reduces issued on the tile (R185) -/
  barNext : Nat
  aredNext : Nat
  bars : List BarNode
  /-- the numbers as the tile executed KEND, the subtrees of other packages that said they are absent, whether this tile has said so of its
  own, and numbers released since that it may yet issue (R185) -/
  barEnd : Nat
  aredEnd : Nat
  absents : List Absent
  absentTold : List Bool
  done : List (Bool × Nat × Option Contrib)
  /-- steps 1 to 5 of R184 are done -/
  finished : Bool
  /-- stream windows by number; an unlisted one is FREE for the context (R232) -/
  windows : Table Window
  /-- ports by logical number (R237), LAST (R250), posted selects, and completions that the engines have yet to take -/
  ports : Table Port
  /-- physical ports kept for binds that wait until a spanning kernel is released (R237, R240, R402) -/
  portsKept : Nat
  /-- 8-byte units of the block that is landing, by port (R130, R244) -/
  landed : Table Nat
  chLast : Nat
  sels : List Select
  ends : List (ChOwner × Status)
  anvil : Anvil
  /-- bytes that drains of tables have yet to write, by request, with their local addresses (R130, R318) -/
  pours : List (Nat × Nat × List Byte)
  /-- Pigeonhole tables by number, the port's operations in port order, and drains that are sending -/
  tables : Table PhTable
  phq : List PhOp
  phSends : List PhSend
  /-- the first 16 KiB unit of the scratchpad grant on the physical tile (R350) -/
  spBase : Nat
  /-- the root frame waits for a frame number or storage (R139; notes/assumptions/39.md) -/
  rootDue : Bool
  /-- visit entries, the detection that the tile has started, and the serial of its latest (R262, R264) -/
  visits : List Visit
  det : Option Visit
  serial : Nat
  /-- the ASN and the ports as the latest detection of the tile started (R262) -/
  dloSeen : Option (Word × Table Port)
  /-- seats stopped by an eviction (R387) -/
  stopped : List (Nat × Threadlet)
  /-- the bytes that the device wrote as the tile's image, and the granules of it, by 32 bytes from its base, that it marked as poisoned
  (R385, R416) -/
  image : Option (BitVec 16777216)
  imageBad : List Nat
  /-- a kill has discarded the image (R389, R390) -/
  gone : Bool
  deriving DecidableEq, Repr

def Part.empty : Part :=
  ⟨[], [], [], false, 0, 0, 0, 0, [], 0, 0, [], [], [], false, [], [], 0, [], 63, [], [], Anvil.reset, [], [], [], [], 0, false, [], none, 0, none, [],
    none, [], false⟩

/-! ## Requests -/

/-- Where an access is performed (R190). -/
inductive Home where
  | hbm
  | ld
  | host
  | remote (pkg : Nat)
  deriving DecidableEq, Repr

/-- A translated address: its home, the physical address there, and whether the page is an I-structure page (R190, R369). -/
structure Phys where
  home : Home
  pa : Nat
  is : Bool
  deriving DecidableEq, Repr

/-- A DMA shape record (R228). -/
structure Shape2d where
  gaddr : Nat
  gstride : Int
  laddr : Nat
  lstride : Nat
  rowb : Nat
  rows : Nat
  toGlobal : Bool
  deriving DecidableEq, Repr

/-- What an outstanding request asks. -/
inductive ReqKind where
  | load (bytes : Nat) (sext : Bool)
  | loadv
  | store (bytes : Nat) (data : Word)
  | storev (data : BitVec 512)
  | atom (op : AtomOp) (bytes : Nat) (v cmp : Word)
  | red (op : AtomOp) (bytes : Nat) (v : Word)
  | ild
  | ist (data : Word)
  /-- IRST of n words, of which `left` are not yet done -/
  | irst (n left : Nat)
  | watch (bytes : Nat) (cmp : Word)
  /-- a DMA, with the row and the byte of the row at which its next burst starts (R229) -/
  | dma (sh : Shape2d) (row off : Nat)
  /-- a burst of a DMA: local address and bytes; `toGlobal` as of the DMA -/
  | burst (parent la len : Nat) (toGlobal : Bool)
  /-- stream operations on a window (R231 to R235); `advWin` counts the elements not yet written back once it is applied -/
  | openWin (win : Nat) (desc : List Byte)
  | advWin (win n : Nat)
  | notifyWin (win m : Nat)
  | closeWin (win : Nat)
  /-- the fill of an element, and the write-back of an element that a STRM.adv passed (R233), a piece of it with one home at a time -/
  | fill (win elem off len : Nat)
  | wback (win elem off len parent : Nat)
  | fence
  | fnew (large : Bool)
  | spawn (task : Task)
  /-- LAUNCH to a queue; `waiting` once it waits for room there (R183, R356) -/
  | launch (queue : Nat) (waiting : Bool)
  | bar (n : Nat)
  | ared (n : Nat) (op : RedOp) (ty : Ty) (value : Nat)
  /-- a system register's read or write that has yet to reach it (R365) -/
  | sysr (sel : Word)
  | sysw (sel value : Word)
  /-- a FRES that waits for the fault service -/
  | fres (kind : FresKind) (ctx idx : Nat)
  /-- a TLBI and the requests that it waits for (R380) -/
  | tlbi (waits : List Nat)
  /-- an eviction under way, or a restore that waits for the fault service, with the word of TSEL (R387, R388) -/
  | evict (ctx ltn : Nat)
  | restore (ctx ltn : Nat) (tsel : Word)
  /-- a channel operation on a port (spec/11) -/
  | chan (port : Nat)
  | chtest (port : Nat)
  /-- a CHBIND and the replies it awaits -/
  | chbind (word : Word) (left : Nat)
  /-- an Anvil command (spec/12) -/
  | anvil
  /-- a Pigeonhole operation (spec/13), with the local range of a drain as known at its issue: an address and bytes (R298, R318) -/
  | pigeon (span : Option (Nat × Nat))
  /-- an operation on the image of an AWAY frame (R174) -/
  | imageOp
  /-- an operation whose effect is taken and whose result waits to arrive -/
  | answered
  deriving DecidableEq, Repr

/-- One outstanding request (R170, R215), in issue order within its frame. -/
structure Req where
  id : Nat
  ref : FrameRef
  rtag : Nat
  pc : Word
  iword : Word
  /-- where its completion goes; none for T = 0x10 -/
  dest : Dest
  kind : ReqKind
  va : Word
  ord : MemOrder
  scope : Scope
  /-- a write in the sense of R203 -/
  write : Bool
  /-- the frame's OWC counts it (R203) -/
  counted : Bool
  /-- it holds an entry of the core's table (R215), or waits for one since its tile was resumed; a burst, a fill or a write-back waits so for a place
  among the port's 32 (R229; notes/assumptions/35.md) -/
  entry : Bool
  late : Bool
  /-- its translation, once walked -/
  phys : Option Phys
  /-- held for the fault service, by the record of a die (R372), and replayed after it -/
  faultHeld : Bool
  die : Nat
  replayed : Bool
  /-- it has left for another package (R194) -/
  sent : Bool
  /-- its effect at its home is done -/
  performed : Bool
  ackPkg : Bool
  ackPod : Bool
  /-- its result -/
  status : Status
  /-- the trap cause of an error status with T = 0x10, 0 where R218 decides it by the status, and the CODE of its record -/
  cause : Nat
  code : Nat
  datum : Datum
  /-- bytes of a burst, a fill or a write-back that have been accessed, and of a request that goes by UALink in pieces; the piece that
  is out there (R196, R401) -/
  part : Nat
  piece : Nat
  /-- bytes of a burst or a fill that have landed in scratchpad (R130) -/
  landed : Nat
  deriving DecidableEq, Repr

/-- What waits for earlier accesses of a frame (R179, R183, R185, R246): the request or packet released when they are done. -/
inductive HeldBody where
  | signal (cont : Word) (datum : Datum) (status : Nat)
  | channel (port id : Nat)
  | barrier (id : Nat)
  | launch (id : Nat)
  | fence (id : Nat)
  | system (id : Nat)
  | stream (id : Nat)
  deriving DecidableEq, Repr

/-- One held request or packet: the frame, the scope, the writes whose acknowledgement at that scope it waits for, and the accesses
whose performing it waits for (R201). -/
structure Held where
  ref : FrameRef
  pod : Bool
  acks : List Nat
  perf : List Nat
  body : HeldBody
  deriving DecidableEq, Repr

/-- A trap or notice whose record is not yet written (R374, R376). -/
structure TrapJob where
  ctx : Nat
  /-- the first bytes of the entry -/
  bytes : List Byte
  frame : Option FrameRef
  rtag : Nat
  /-- the seat in SAVE, whose state is written from byte 512 on -/
  seat : Option SeatId
  thread : Option Threadlet
  /-- the physical tile whose core posts it, for a notice that a core posts (R444) -/
  poster : Option Nat
  deriving DecidableEq, Repr

/-- A deferred record (R211, R225): an ILD that waits on an empty word or an armed watch. -/
structure Deferred where
  id : Nat
  pa : Nat
  ild : Bool
  deriving DecidableEq, Repr

/-- An ILD or an armed watch of another package that waits here (R211, R225, R400): the name that its package gave it, its address, and a
watch's bytes and comparand. -/
structure Foreign where
  name : Nat
  pa : Nat
  watch : Option (Nat × Word)
  deriving DecidableEq, Repr

/-- A fault-service record that is out (R372), with the accesses of the device and the fetches that wait for it. -/
structure Service where
  ctx : Nat
  va : Nat
  kind : Nat
  die : Nat
  dev : List Waiter
  deriving DecidableEq, Repr

/-- What the fault service has answered an access of the device or a fetch on a page: it is replayed once, or fails (R372). -/
structure Mark where
  ctx : Nat
  va : Nat
  who : Waiter
  fail : Bool
  deriving DecidableEq, Repr

/-- A cached leaf (R370): context, virtual base, size, entry. -/
structure TlbEntry where
  ctx : Nat
  base : Nat
  size : Nat
  pte : Word
  deriving DecidableEq, Repr

/-- A register-access port (R391, R392): SRSEL, SRDATA, SRSTAT without BUSY, and the command that makes it busy. -/
structure SrPort where
  sel : Word
  data : Word
  stat : Word
  cmd : Option Nat
  deriving DecidableEq, Repr

def SrPort.reset : SrPort := ⟨0, 0, 0, none⟩

/-- PORTM (R398). -/
structure PortMode where
  up : Bool
  lanes : Nat
  mode : Nat
  deriving DecidableEq, Repr

def PortMode.reset : PortMode := ⟨false, 0, 0⟩

/-- What leaves for another package (R397 to R402): the egress port, the pod node and the packet's own fields. -/
inductive OutBody where
  /-- a signal, with the physical tile that counts it where it is lost (R151, R399) -/
  | signal (ptn ctx : Nat) (cont : Word) (datum : Datum) (status : Nat)
  | request (id : Nat)
  /-- a piece of a request that UALink carries: its first byte and its length (R401) -/
  | piece (id off len : Nat)
  /-- the withdrawal of an ILD or a watch (R184, R390) -/
  | withdraw (id : Nat)
  | device (id : Nat) (f : Far)
  | barrier (ctx index num : Nat) (ared up : Bool) (src : Nat) (val : Option Contrib)
  | absent (ctx index : Nat) (ared : Bool) (src start : Nat)
  | channel (p : ChPacket)
  | query (ctx : Nat) (det : Detection) (src : TileRef) (e : Edge)
  | reply (ctx : Nat) (det : Detection) (dst : TileRef) (e : Edge) (r : Report)
  /-- this package's admission of its part of the n-th spanning kernel, or the refusal, to package 0, and package 0's decision to the others (R402) -/
  | admitted (ctx n : Nat) (ok : Bool)
  deriving DecidableEq, Repr

/-- A packet that a scale-up port has accepted and not yet delivered; `via` is U as it was chosen (R399). -/
structure Out where
  port : Nat
  node : Nat
  via : List Nat
  body : OutBody
  deriving DecidableEq, Repr

/-- A packet that waits while its destination's old ports drain (R399): the node, whether by UALink, and the index into U. -/
structure Leaving where
  node : Nat
  ual : Bool
  index : Nat
  body : OutBody
  deriving DecidableEq, Repr

/-! ## Packets in flight -/

/-- An operation sent to the image of an AWAY frame (R174). -/
inductive ImageOp where
  | ffree
  | sloti (word : Word)
  | slota (delta : Int)
  deriving DecidableEq, Repr

/-- A response to a tile (R387): a result that arrives, an acknowledgement at a scope, a burst or an element that is done, a spill reply. -/
inductive Response where
  | arrival (id : Nat)
  | ack (id : Nat) (pod : Bool)
  | burst (id part : Nat)
  | element (win elem : Nat)
  | spillReply (op lane : Nat)
  deriving DecidableEq, Repr

/-- A packet on the network. Events name packets by their place in the list. -/
inductive Packet where
  /-- a SIG packet bound for core CORE of the tile of the context's ltn (R146) -/
  | signal (ctx ltn : Nat) (cont : Word) (datum : Datum) (status : Nat)
  /-- a signal forwarded to the home of an image, and one that the home keeps while the image is recalled (R164, R165) -/
  | forward (ref : FrameRef) (cont : Word) (datum : Datum) (status : Nat)
  | keptSignal (ref : FrameRef) (cont : Word) (datum : Datum) (status : Nat)
  /-- an operation of R174 forwarded to an image, with the issuing frame's request -/
  | imageOp (ref : FrameRef) (rtag slot : Nat) (op : ImageOp) (id : Nat)
  /-- a wake for an AWAY frame (R164) -/
  | wake (ref : FrameRef)
  /-- a wake kept in the deferred-record pool (R164) -/
  | keptWake (ref : FrameRef)
  /-- a recall on its way to the image's home, and the image on its way back (R165) -/
  | recall (ref : FrameRef)
  | image (ref : FrameRef)
  | recallDone (ref : FrameRef)
  /-- steal traffic (R158): thief and victim cores by ltn and core; `area` where the victim gave from its spill area -/
  | stealReq (ctx thiefLtn thiefCore victimLtn victimCore : Nat)
  | stealReply (ctx thiefLtn thiefCore victimLtn victimCore : Nat) (task : Option Task) (area : Bool)
  | taskReturn (ctx victimLtn victimCore : Nat) (task : Task) (area : Bool)
  /-- a SPAWN record on its way to its target (R181) -/
  | spawn (ctx ltn core : Nat) (any : Bool) (task : Task) (id : Nat)
  /-- barrier traffic (R185): the arrival of a subtree at a parent, and a release -/
  | barUp (ctx index num : Nat) (ared : Bool) (src : Nat) (val : Option Contrib)
  | barDown (ctx index num : Nat) (ared : Bool) (val : Option Contrib)
  | barAbsent (ctx index : Nat) (ared : Bool) (src start : Nat)
  /-- channel traffic (R245) -/
  | chan (p : ChPacket)
  /-- a query and a reply of a detection, along an edge of the tile that sends the query (R262) -/
  | dloQuery (ctx : Nat) (det : Detection) (src : TileRef) (e : Edge)
  | dloReply (ctx : Nat) (det : Detection) (dst : TileRef) (e : Edge) (r : Report)
  /-- a response that the home of an evicted tile's image keeps (R387) -/
  | response (ctx ltn : Nat) (r : Response)
  deriving DecidableEq, Repr

/-! ## Contexts -/

/-- STATE of a tile map entry (R386). -/
inductive TileState where
  | unmapped
  | resident
  | away
  | moving
  deriving DecidableEq, Repr

/-- TME (R386). -/
structure Tme where
  st : TileState
  ptn : Nat
  deriving DecidableEq, Repr

/-- The resident kernel of a context: what its launch packet and argument block fixed (R341, R342). -/
structure Kernel where
  width : Nat
  height : Nat
  codeBase : Word
  entry : Nat
  large : Bool
  anvil : Bool
  steal : Nat
  spUnits : Nat
  phUnits : Nat
  quota : Nat
  npk : Nat
  csig : Word
  spb : Word
  dqb : Word
  dqn : Nat
  slots : List Word
  args : List Word
  binds : List Word
  killed : Bool
  /-- entry threadlets are readied (R353, R402) -/
  started : Bool
  /-- the packet's queue and RIDX, for residency events (R402) -/
  queue : Nat
  ridx : Nat
  /-- which of the rack scheduler's packets a spanning kernel comes from, by their count (R402; notes/assumptions/88.md) -/
  span : Nat
  /-- steps 1 and 2 of R355 are done; its completion has been reported (R402, R406) -/
  released : Bool
  told : Bool
  deriving DecidableEq, Repr

/-- What a seat saved in an entry of the trap queue keeps (R27, R379): its frame and activation, `sig` as captured, its class, and whether its
frame was killed since. -/
structure Saved where
  ref : FrameRef
  rtag : Nat
  sig : Word
  cls : Nat
  dead : Bool
  deriving DecidableEq, Repr

/-- A context slot (R360, R363, R397), with what its trap queue's entries keep, by index mod N. -/
structure Ctx where
  valid : Bool
  priv : Bool
  ien : Bool
  fen : BitVec 5
  dlm : Nat
  ptr : BitVec 32
  weight : Nat
  cls : Nat
  tqb : Word
  thc : Word
  thx : Word
  evb : Word
  drb : Word
  drs : Word
  tsel : Word
  pkgself : Word
  pkgmap : Table Word
  tmes : Table Tme
  kernel : Option Kernel
  saved : Table Saved
  /-- reuse tags of frame numbers that were freed while their tile was away (R142, R150), by 1,024 x logical tile + 256 x core + number -/
  tags : Table Nat
  deriving DecidableEq, Repr

/-- A context slot after package reset (R363). -/
def Ctx.empty : Ctx :=
  ⟨false, false, false, 0, 0, 0, 0, 0, 0, 0, 0, 0, 0, 0, 0, 0, [], [], none, [], []⟩

/-! ## Tiles -/

/-- One context's place in a class's rotation (R154). -/
structure Rot where
  cls : Nat
  ctx : Nat
  deficit : Nat
  deriving DecidableEq, Repr

/-- A physical core (R28, R152 to R160). -/
structure Core where
  cyc : Word
  seats : Table SeatState
  nGap : Nat
  bGap : Nat
  rot : List Rot
  /-- deque records with their contexts, oldest first (R160) -/
  deque : List (Nat × Task)
  /-- reuse tags of the frame numbers (R142) -/
  rtags : Table Nat
  lfsr : BitVec 16
  /-- deque places kept for steal replies, by context (R158) -/
  reserved : List Nat
  deriving DecidableEq, Repr

def Core.reset : Core := ⟨0, [], 0, 0, [], [], [], 0, []⟩

/-- A word in the instruction cache (R77). -/
structure CachedWord where
  ctx : Nat
  va : Nat
  word : Word
  deriving DecidableEq, Repr

/-- A physical tile. -/
structure Tile where
  cores : Table Core
  stale : BitVec 32
  excess : BitVec 32
  undel : BitVec 32
  slogc : Word
  slogx : Word
  hold : Bool
  icache : List CachedWord
  deriving DecidableEq, Repr

def Tile.reset : Tile := ⟨[], 0, 0, 0, 0, 0, false, []⟩

/-! ## Queues and the Sorting Office (R336 to R359) -/

/-- A queue: its descriptor with EN and ERR as they stand, the read-index address, RIDX and WIDX, and whether the slot at RIDX was read
without VALID since the last notify (R336, R337, R340), words of the slot that have been read, by number (R340), and the LAUNCH that is being copied
into the slot at WIDX (R356). -/
structure Queue where
  desc : Word
  ria : Word
  ridx : Nat
  widx : Nat
  idle : Bool
  got : Table Word
  copying : Option Nat
  deriving DecidableEq, Repr

def Queue.reset : Queue := ⟨0, 0, 0, 0, false, [], none⟩

/-- A packet taken from a queue: its bytes, its argument block, its channel list, the dependences that have held, and, once it is pending,
its bypass count (R340, R343, R346, R349, R351). `read`: its argument block and channel list have been read, of which `args` are the bytes so far,
and it is good; `armed`: dependences whose watches are armed, with the words' physical addresses; `fail`: the
status that it is to be passed with, 0 once its kernel has started; `passed`: how many of the writes that pass it have performed (R344, R353); `told`:
the host has been sent it (R359). -/
structure Taken where
  queue : Nat
  ridx : Nat
  bytes : List Byte
  block : List Byte
  binds : List Word
  met : List Nat
  pending : Bool
  bypass : Nat
  armed : List (Nat × Nat)
  fail : Option Nat
  passed : Nat
  told : Bool
  args : List Byte
  read : Bool
  deriving DecidableEq, Repr

/-! ## Hallmark (R425 to R437) -/

/-- What Hallmark's endpoint answers, in order (R433, R434, R437). -/
inductive Reply where
  | refused
  | error
  | done
  | words (l : List Word)
  | bytes (l : List Byte)
  | records (l : List (List Byte))
  | signed (body : List Byte) (sig : List Byte)
  | session (n : Nat) (body : List Byte) (sig : List Byte)
  /-- the report of a tamper alarm (R435) -/
  | alarm
  deriving DecidableEq, Repr

/-- How an SPDM request comes, and its answer goes (R433). -/
inductive SpdmPath where
  | mctp
  | courier
  deriving DecidableEq, Repr

/-- Hallmark: HMSTAT's fields (R429), the firmware store by 2 x target + slot with the ACTIVE slots (R430), the repair store and the
records applied (R427), the columns that fuses retired and those that repairs retired or left defective in place (R425), the HBM4 rows
repaired (R426), identity (R432), SPDM sessions and measurements (R433), answers, and the sensors (R436, R437). -/
structure Hallmark where
  booted : Bool
  /-- the tamper sensors are armed (R428) -/
  armed : Bool
  tamp : Bool
  iderase : Bool
  idgone : Bool
  minsvn : Nat
  svn : Nat
  slotb : Nat
  fw : Table (List Byte)
  activeB : List Nat
  store : List (List Byte)
  applied : List (List Byte)
  fused : List (Nat × Nat)
  retired : List (Nat × Nat)
  defective : List (Nat × Nat)
  rows : List (List Byte)
  serial : Word
  certs : List Byte
  /-- open sessions: those that FINISH has secured are marked -/
  sessions : List (Nat × Bool)
  measured : List (List Byte)
  replies : List Reply
  /-- the path of the SPDM request that comes next (R433) -/
  path : SpdmPath
  sensors : Sensors
  throttled : List Nat
  throttles : Word
  deriving DecidableEq, Repr

/-- Hallmark as shipped in this model: every fuse zero, the stores empty, no column retired (notes/assumptions/2.md). -/
def Hallmark.reset : Hallmark :=
  ⟨false, false, false, false, false, 0, 0, 0, [], [], [], [], [], [], [], [], 0, [], [], [], [], .mctp, ⟨[], [], 0⟩, [], 0⟩

/-! ## The agenda -/

/-- What another package asks of one word here beside reads, writes and atomics (R211, R225, R400). An IRST asks once for each word. -/
inductive SyncKind where
  | ild
  | ist (datum : Word)
  | irst
  | watch (bytes : Nat) (cmp : Word)
  deriving DecidableEq, Repr

/-- What arrives from outside the package's own rules. -/
inductive Outside where
  /-- the parity check of a register of a seat fails from now on (R414, R419) -/
  | parity (p : SeatId) (op : Operand)
  /-- an uncorrectable error in a frame word, or a slot word (R414, R415, R419) -/
  | frameError (ref : FrameRef) (word : Nat)
  | slotError (ref : FrameRef) (slot : Nat)
  /-- an uncorrectable error in a scratchpad word (R414) -/
  | spadError (ctx ltn word : Nat)
  /-- an uncorrectable error in a panel of the A buffer, or from 64 on in a block of the latch, or in an accumulator (R414, R418) -/
  | panelError (ctx ltn n : Nat)
  | accError (ctx ltn acc : Nat)
  /-- a failed check of a status cell, a frame-map entry or a ready entry of a frame (R419) -/
  | frameCheck (ref : FrameRef) (slot : Option Nat)
  /-- a failed check of control state of a kernel on a tile, or of a frame-map entry whose context cannot be read (R419) -/
  | kernelCheck (ctx ptn : Nat)
  | coreCheck (ptn core : Nat)
  /-- the parity check of the seat flags fails from now on (R414, R419) -/
  | flagsParity (p : SeatId)
  /-- an uncorrectable error in a granule of HBM4, LLC or LLC-direct, by the structure's code (R414) -/
  | granuleError (src granule : Nat)
  /-- a parity error in a line of an instruction cache, or in an entry of a TLB, of a die and a tile (R414) -/
  | lineError (ptn ctx va bytes : Nat)
  | tlbError (entry die ptn : Nat)
  /-- a corrected error of a structure of a die, at a place that the record names (R422, R423) -/
  | corrected (src ctx die : Nat) (loc : Word) (ptn : Nat)
  /-- the host stores to its memory, or reports a word of it as poisoned (R194) -/
  | hostStore (addr : Nat) (data : List Byte)
  | hostPoison (word : Nat)
  /-- a plain register of the Courier window, or of a Postmaster's port, is written (R391, R392) -/
  | window (offset : Nat) (value : Word)
  | postmaster (die offset : Nat) (value : Word)
  /-- a Postmaster takes the oldest RAS record (R423) -/
  | rasTaken
  /-- a control message, and a management command whose code is not listed, at Hallmark's endpoint (R434) -/
  | control (message : List Byte)
  | command (code : Nat)
  /-- the path of the SPDM requests that follow (R433) -/
  | spdmPath (p : SpdmPath)
  /-- firmware sets the pod node number (R397) -/
  | node (n : Nat)
  /-- a packet arrives from another package (R400); the answer of another package to a request, and its acknowledgement (R194, R202) -/
  | arrive (p : Packet)
  | answered (id : Nat) (st : Status) (datum : List Byte)
  /-- a request of another package is performed here at a physical address, through a page with IS or without (R369, R400) -/
  | remote (kind : InboundKind) (pa bytes : Nat) (is : Bool)
  /-- an ILD, IST, IRST or MWATCH of another package reaches its home here, and one that waits is withdrawn (R184, R211, R225, R400) -/
  | remoteSync (name : Nat) (kind : SyncKind) (pa : Nat)
  | withdrawn (name : Nat)
  /-- a scale-up port delivers the n-th packet that the ports carry (R399) -/
  | delivered (n : Nat)
  /-- another package's answer to an access of the device -/
  | lent (id : Nat) (a : FarAnswer)
  /-- an access of another package's device, by the name that it gave it, at a physical address of this package -/
  | asked (name : Nat) (kind : FarKind) (pa : Nat)
  /-- another package's admission report on the n-th spanning kernel reaches package 0, or package 0's decision (pkg 0) this package (R402) -/
  | reported (ctx n pkg : Nat) (ok : Bool)
  deriving DecidableEq, Repr

/-- Finer steps, between the parts of an instruction or of an agent's step. -/
inductive Micro where
  /-- a seat issues after dt cycles of its core: it reads its frame words, and retires at a later turn (R30, R91) -/
  | issue (p : SeatId) (dt : Nat)
  /-- the next local access of a VGATH, VSCAT or SCPY that a seat has issued (R130, R134, R137) -/
  | access (p : SeatId)
  /-- a tile's instruction cache takes a word of a context that is resident there (R77) -/
  | prefetch (ptn ctx va : Nat)
  /-- a home accesses the next aligned 8 bytes of a burst, a fill or a write-back (R196) -/
  | piece (id : Nat)
  /-- a burst or a write-back reads its next 8 local bytes (R205) -/
  | gather (id : Nat)
  /-- Anvil reads the next block of a run with FN 0 into a free latch half (R285), or its next aligned 8 bytes; the MLDA at the head of the queue
  reads, or the drain at its place writes, its next aligned 8 bytes (R130, R205) -/
  | latch (ctx ltn : Nat)
  | engine (ctx ltn : Nat)
  /-- the next aligned 8 bytes of a burst, of a fill, of a table's drain, or of a channel block in a packet land in scratchpad (R130) -/
  | land (id : Nat)
  | landUnit (n : Nat)
  /-- the n-th aligned 8 bytes of a block that is on its way from a port are read again (R205, R244) -/
  | carry (ctx ltn port n : Nat)
  /-- the host stores between the read and the write of an atomic on a HOST page: of a request, or of one that comes in by UALink (R194) -/
  | race (id addr : Nat) (data : List Byte)
  | raceInbound (kind : InboundKind) (va : Word) (bytes addr : Nat) (data : List Byte)
  /-- the Sorting Office reads a word of the slot at a queue's RIDX, in a ring on a HOST page (R340) -/
  | slotPiece (q word : Nat)
  /-- the oldest admission reply that waits is taken up again (R395) -/
  | reply
  /-- a kernel's completion is reported, before its completion signal word is counted down (R406) -/
  | announce (ctx : Nat)
  deriving DecidableEq, Repr

/-- One turn: a seat issues after dt cycles of its core, an agent of the opcode table takes its step, or something arrives from
outside. -/
inductive Turn where
  | seat (p : SeatId) (dt : Nat)
  | event (i : Instr)
  | outside (a : Outside)
  | micro (m : Micro)
  deriving DecidableEq, Repr

/-! ## The package -/

structure State where
  /-- whose turn it is: the first turn, and the seat that moves when none is listed -/
  agenda : List Turn
  cur : SeatId
  nextId : Nat
  fresh : Nat
  /-- HBM4 and LLC-direct by physical address, host memory by host address -/
  mem : List Host.Cell
  host : List Host.Cell
  /-- poisoned 32-byte granules and full I-structure words, by physical address / 32 and / 8 -/
  granules : List Nat
  full : List Nat
  /-- those of the poisoned granules whose poison no HBM4 error made: an LLC error, or poison that an image carries (R414, R416, R426) -/
  llcBad : List Nat
  /-- 8-byte words of host memory that the host reports as poisoned (R194) -/
  hostBad : List Nat
  tlb : List TlbEntry
  ctxs : Table Ctx
  parts : Table Part
  tiles : Table Tile
  net : List Packet
  reqs : List Req
  held : List Held
  jobs : List TrapJob
  deferred : List Deferred
  /-- ILDs and watches of other packages that wait here (R400) -/
  foreign : List Foreign
  services : List Service
  /-- answers of the fault service that accesses of the device have yet to take (R372) -/
  failedPages : List Mark
  /-- PKGST (R363) -/
  halted : Bool
  haltCode : BitVec 32
  /-- feature words accepted, and DONE of FEATC (R357, R358) -/
  feat0a : Word
  feat1a : Word
  featDone : Bool
  /-- the message ring's registers, the write index, and messages that wait for room (R391, R393) -/
  hmb : Word
  hmn : Word
  hmw : Word
  hmr : Word
  msgIndex : Nat
  msgs : List (List Byte)
  areplya : Word
  /-- the register-access ports: 0 the Courier window's, d + 1 the Postmaster's of die d (R391, R392) -/
  ports : Table SrPort
  /-- RASSEQ, RASDROP, CETHR, RASCNT (R424) and the records that wait for the Postmasters (R423) -/
  rasSeq : Word
  rasDrop : BitVec 32
  cethr : Word
  rasCnt : Table (Nat × Nat)
  /-- uncorrectable and corrected events of each HBM4 row (R426) -/
  rows : Table (Nat × Nat)
  rasWait : List (List Byte)
  /-- PODID, ROUTE, PORTM, UALCTX (R397, R398) -/
  podid : Word
  route : Table Word
  portm : Table PortMode
  ualctx : Word
  /-- bytes of the LLC-direct carve-out (R193) -/
  carve : Nat
  /-- packets that the scale-up ports carry, and those that wait for a drain (R399, R400) -/
  out : List Out
  outHeld : List Leaving
  /-- accesses of the device at homes of other packages (R190, R194) -/
  loans : List Loan
  /-- answers to requests of other packages and of UALink, in order (R400, R401) -/
  served : List (Status × List Byte)
  /-- answers to ILDs, ISTs, IRSTs and watches of other packages, by name (R400) -/
  told : List (Nat × Status × List Byte)
  /-- watches of other packages' Sorting Offices on words here (R346): name, address, bound; and answers to accesses of their devices -/
  depends : List (Nat × Nat × Int)
  lentTo : List (Nat × FarAnswer)
  /-- packets kept for evicted tiles at their images' homes, in arrival order (R387) -/
  kept : List Packet
  /-- the Sorting Office: queues, packets taken in the order they were taken, those pending in the order they became so, DNOTC, RACKQ, how many of the rack
  scheduler's packets have been admitted or refused, the reports on spanning kernels by context and that count, and the kernels that are to be killed
  once this package has admitted its part (R336 to R351, R402), LAUNCH requests that wait for room as they were accepted (R356), and admission replies
  that wait for a page, with their blocks (R395) -/
  queues : Table Queue
  taken : List Taken
  dnotc : BitVec 32
  rackq : Word
  spans : Nat
  reports : List (Nat × Nat × Nat × Bool)
  doomed : List (Nat × Nat)
  launchq : List Nat
  replies : List (Word × List Byte)
  /-- the Courier link carries no traffic (R421) -/
  courierDown : Bool
  hallmark : Hallmark
  deriving DecidableEq, Repr

/-- Why the machine stops. -/
inductive Fault where
  /-- `exec` is asked to issue an instruction for a seat that runs nothing. Raised by every instruction row; safe: no seat issues then
  (R22). -/
  | noThreadlet
  deriving DecidableEq, Repr

/-- Why the machine answers nothing. -/
inductive Refusal where
  /-- an arm of exec without a meaning yet; safe -/
  | notModelled (mnemonic : String)
  /-- the agenda names a seat's instruction as the step of another agent; raised by step; safe -/
  | notAnEvent
  deriving DecidableEq, Repr

/-- The package right after package reset, before a context exists: every register as its Reset column says, and zero where none is
given (notes/assumptions/2.md). -/
def State.reset : State where
  agenda := []
  cur := ⟨0, 0, 0⟩
  nextId := 0
  fresh := 0
  mem := []
  host := []
  granules := []
  full := []
  llcBad := []
  hostBad := []
  tlb := []
  ctxs := []
  parts := []
  tiles := []
  net := []
  reqs := []
  held := []
  jobs := []
  deferred := []
  foreign := []
  services := []
  failedPages := []
  halted := false
  haltCode := 0
  feat0a := 0
  feat1a := 0
  featDone := false
  hmb := 0
  hmn := 0
  hmw := 0
  hmr := 0
  msgIndex := 0
  msgs := []
  areplya := 0
  ports := []
  rasSeq := 0
  rasDrop := 0
  cethr := 0
  rasCnt := []
  rows := []
  rasWait := []
  podid := 0
  route := []
  portm := []
  ualctx := 0
  carve := 0
  out := []
  outHeld := []
  loans := []
  served := []
  told := []
  depends := []
  lentTo := []
  kept := []
  queues := []
  taken := []
  dnotc := 0
  rackq := 0
  spans := 0
  reports := []
  doomed := []
  launchq := []
  replies := []
  courierDown := false
  hallmark := Hallmark.reset

end Sys2Proof.Machine
end

