-- ==== Sys2Proof/Machine/Access.lean ====
section
/-! DEFINITION. Named reads and writes of the pieces of the state. -/

namespace Sys2Proof.Machine

/-- The key of a context's part of a logical tile. -/
def partKey (ctx ltn : Nat) : Nat := ctx * 4096 + ltn

def State.part (s : State) (ctx ltn : Nat) : Part := Tab.get Part.empty s.parts (partKey ctx ltn)
def State.setPart (s : State) (ctx ltn : Nat) (p : Part) : State :=
  { s with parts := Tab.put s.parts (partKey ctx ltn) p }

def State.anvil (s : State) (ctx ltn : Nat) : Anvil := (s.part ctx ltn).anvil
def State.setAnvil (s : State) (ctx ltn : Nat) (a : Anvil) : State :=
  s.setPart ctx ltn { s.part ctx ltn with anvil := a }
/-- Places taken in the Anvil's command queue (R274). -/
def Anvil.places (e : Anvil) : Nat := e.queue.length + e.draining.length

/-- A tile that has left quiescence and may come back to it without a pick starts a detection anew (R262). -/
def State.dloAgain (s : State) (ctx ltn : Nat) : State := s.setPart ctx ltn { s.part ctx ltn with dloSeen := none }

def Part.core (p : Part) (c : Nat) : PartCore := Tab.get PartCore.empty p.cores c
def Part.setCore (p : Part) (c : Nat) (x : PartCore) : Part := { p with cores := Tab.put p.cores c x }

def State.partCore (s : State) (ctx ltn core : Nat) : PartCore := (s.part ctx ltn).core core
def State.setPartCore (s : State) (ctx ltn core : Nat) (x : PartCore) : State :=
  s.setPart ctx ltn ((s.part ctx ltn).setCore core x)

/-- The frame of a name; a FREE number has none (R142). -/
def State.frame (s : State) (r : FrameRef) : Option Frame := Tab.find (s.partCore r.ctx r.ltn r.core).frames r.frm
def State.setFrame (s : State) (r : FrameRef) (f : Frame) : State :=
  let c := s.partCore r.ctx r.ltn r.core
  s.setPartCore r.ctx r.ltn r.core { c with frames := Tab.put c.frames r.frm f }
def State.dropFrame (s : State) (r : FrameRef) : State :=
  let c := s.partCore r.ctx r.ltn r.core
  s.setPartCore r.ctx r.ltn r.core { c with frames := Tab.drop c.frames r.frm }
/-- An update of a frame, if there is one. -/
def State.modFrame (s : State) (r : FrameRef) (f : Frame → Frame) : State :=
  match s.frame r with
  | some x => s.setFrame r (f x)
  | none => s

def State.ctx (s : State) (c : Nat) : Ctx := Tab.get Ctx.empty s.ctxs c
def State.setCtx (s : State) (c : Nat) (x : Ctx) : State := { s with ctxs := Tab.put s.ctxs c x }

/-- The tile map entry of a logical tile (R386). -/
def State.tme (s : State) (ctx ltn : Nat) : Tme := Tab.get ⟨.unmapped, 0⟩ (s.ctx ctx).tmes ltn
def State.setTme (s : State) (ctx ltn : Nat) (t : Tme) : State :=
  let c := s.ctx ctx
  s.setCtx ctx { c with tmes := Tab.put c.tmes ltn t }

def State.tile (s : State) (ptn : Nat) : Tile := Tab.get Tile.reset s.tiles ptn
def State.setTile (s : State) (ptn : Nat) (t : Tile) : State := { s with tiles := Tab.put s.tiles ptn t }
def Tile.core (t : Tile) (c : Nat) : Core := Tab.get Core.reset t.cores c
def State.coreAt (s : State) (ptn core : Nat) : Core := (s.tile ptn).core core
def State.setCore (s : State) (ptn core : Nat) (c : Core) : State :=
  let t := s.tile ptn
  s.setTile ptn { t with cores := Tab.put t.cores core c }

def State.seat (s : State) (p : SeatId) : SeatState := Tab.get .idle (s.coreAt p.ptn p.core).seats p.seat
def State.setSeat (s : State) (p : SeatId) (x : SeatState) : State :=
  let c := s.coreAt p.ptn p.core
  s.setCore p.ptn p.core { c with seats := Tab.put c.seats p.seat x }

/-- The physical tile of a logical tile that is resident or moving (R386). -/
def State.ptnOf (s : State) (ctx ltn : Nat) : Option Nat :=
  let t := s.tme ctx ltn
  match t.st with
  | .resident | .moving => some t.ptn
  | .unmapped | .away => none

def State.kernel (s : State) (ctx : Nat) : Option Kernel := (s.ctx ctx).kernel

/-- Host writes are received: bring-up is done, and the Courier link carries traffic (R421, R428). -/
def State.windowOpen (s : State) : Bool := s.hallmark.booted && !s.courierDown

/-- The frame that a threadlet runs in. -/
def Threadlet.ref (t : Threadlet) : FrameRef := ⟨t.ctx, t.ltn, t.core, t.frm⟩

/-- The frame words of a size class (R140). -/
def frameWords (large : Bool) : Nat := if large then 120 else 24

/-- Contexts that have a part on a physical tile, in rising order; a kernel that has released its tiles has none (R355). -/
def State.ctxsOn (s : State) (ptn : Nat) : List (Nat × Nat) :=
  s.ctxs.flatMap fun e => if e.2.kernel.any (·.released) then [] else
    (e.2.tmes.filter fun t => decide ((t.2.st = .resident ∨ t.2.st = .moving) ∧ t.2.ptn = ptn)).map fun t => (e.1, t.1)

/-- The next name for a request. -/
def State.fresh1 (s : State) : Nat × State := (s.nextId, { s with nextId := s.nextId + 1 })

/-- A free value of w bits: nothing constrains it, and the next one is another (notes/assumptions/3.md). -/
def State.free (s : State) (w : Nat) : BitVec w × State :=
  (Config.freeValue w s.fresh, { s with fresh := s.fresh + 1 })

/-- A packet put on the network. -/
def State.send (s : State) (p : Packet) : State := { s with net := s.net ++ [p] }
/-- The n-th packet in flight, taken off the network. -/
def State.takePacket (s : State) (n : Nat) : State := { s with net := dropNth s.net n }

/-- The context of a packet in flight. -/
def Packet.ctx : Packet → Nat
  | .signal c .. => c
  | .forward r .. | .keptSignal r .. | .imageOp r .. | .wake r | .keptWake r | .recall r | .image r | .recallDone r => r.ctx
  | .stealReq c .. | .stealReply c .. | .taskReturn c .. | .spawn c .. | .barUp c .. | .barDown c .. | .barAbsent c .. => c
  | .chan p => p.ctx
  | .dloQuery c .. | .dloReply c .. | .response c .. => c

/-- Whether the home of a tile's image keeps what comes for it. -/
def State.keepsFor (s : State) (ctx ltn : Nat) : Bool := decide ((s.tme ctx ltn).st = .away) && !(s.part ctx ltn).gone

/-- A response to an evicted tile is kept at the home of its image, once (R387). -/
def State.keepResponse (s : State) (ctx ltn : Nat) (r : Response) : State :=
  if s.kept.contains (.response ctx ltn r) then s else { s with kept := s.kept ++ [.response ctx ltn r] }

/-- The outstanding request of a name. -/
def State.req (s : State) (id : Nat) : Option Req := s.reqs.find? fun r => r.id == id
def State.setReq (s : State) (r : Req) : State := { s with reqs := s.reqs.map fun x => if x.id = r.id then r else x }
def State.dropReq (s : State) (id : Nat) : State := { s with reqs := s.reqs.filter fun x => x.id != id }

/-- `fp` of a frame (R26): a continuation to slot 0 with no datum. -/
def contOf (pkg ltn core frm slot rtag word : Nat) : Word :=
  BitVec.ofNat 64 (pkg % 256 * 2 ^ 56 + ltn % 4096 * 2 ^ 44 + core % 4 * 2 ^ 42 + frm % 256 * 2 ^ 34 + slot % 8 * 2 ^ 31
    + rtag % 2 ^ 15 * 2 ^ 16 + word % 256 * 2 ^ 8 + 2 ^ 7)

/-- Fields of a continuation (R145). -/
def contPkg (c : Word) : Nat := c.toNat / 2 ^ 56 % 256
def contLtn (c : Word) : Nat := c.toNat / 2 ^ 44 % 4096
def contCore (c : Word) : Nat := c.toNat / 2 ^ 42 % 4
def contFrm (c : Word) : Nat := c.toNat / 2 ^ 34 % 256
def contSlot (c : Word) : Nat := c.toNat / 2 ^ 31 % 8
def contRtag (c : Word) : Nat := c.toNat / 2 ^ 16 % 2 ^ 15
def contWord (c : Word) : Nat := c.toNat / 2 ^ 8 % 256
def contV (c : Word) : Bool := decide (c.toNat / 2 ^ 7 % 2 = 1)
def contMbz (c : Word) : Nat := c.toNat % 2 ^ 7
/-- The continuation with another slot and word (R171, R180). -/
def contWith (c : Word) (slot word : Nat) : Word :=
  contOf (contPkg c) (contLtn c) (contCore c) (contFrm c) slot (contRtag c) word ||| BitVec.ofNat 64 (contMbz c)

/-- This package's logical number in a context (R397). -/
def State.pkgSelf (s : State) (ctx : Nat) : Nat := (s.ctx ctx).pkgself.toNat % 256

/-- The continuation of a frame (R26). -/
def State.fpOf (s : State) (r : FrameRef) : Word :=
  contOf (s.pkgSelf r.ctx) r.ltn r.core r.frm 0 ((s.frame r).map (·.rtag) |>.getD 0) 255

/-- An address as a trap record's ADDR word (R376). -/
def addrWord (a : Nat) : Word := BitVec.ofNat 64 a
/-- The frame byte offset of word f`n` (R140), which the records of a poisoned frame word name (R415). -/
def wordOffset (n : Nat) : Nat := 64 + 8 * n

/-- A slot of a frame. -/
def Frame.slot (f : Frame) (n : Nat) : Slot := Tab.get Slot.zero f.slots n
def Frame.setSlot (f : Frame) (n : Nat) (x : Slot) : Frame := { f with slots := Tab.set Slot.zero f.slots n x }
def Frame.word (f : Frame) (n : Nat) : Word := Tab.get 0 f.words n
/-- A whole-word write, which clears a poison mark (R415). -/
def Frame.setWord (f : Frame) (n : Nat) (x : Word) : Frame :=
  { f with words := Tab.set 0 f.words n x, poison := f.poison.filter (· != n) }

/-- The slot word of R143. -/
def Slot.toWord (x : Slot) : Word :=
  BitVec.ofNat 64 (x.entry % 2 ^ 32 * 2 ^ 32 + (if x.armed then 2 ^ 31 else 0) + (if x.urg then 2 ^ 30 else 0)
    + (if x.reload then 2 ^ 29 else 0) + (if x.err then 2 ^ 28 else 0) + x.rld % 4096 * 2 ^ 12 + x.count % 4096)
/-- The status cell of R144. -/
def Slot.toCell (x : Slot) : Nat := x.pn % 4096 * 2 ^ 20 + x.last % 8 * 2 ^ 8 + x.ecnt % 16 * 2 ^ 4
/-- The fields of a slot word put into a slot whose status cell reads zero but for PN (R143, R177). -/
def slotOfWord (w : Word) (pn : Nat) : Slot :=
  let n := w.toNat
  ⟨n / 2 ^ 32, decide (n / 2 ^ 31 % 2 = 1), decide (n / 2 ^ 30 % 2 = 1), decide (n / 2 ^ 29 % 2 = 1), false,
    n / 2 ^ 12 % 4096, n % 4096, pn, 0, 0⟩
/-- A slot from its word and its status cell as an image holds them (R163). -/
def slotOfImage (w : Word) (cell : Nat) : Slot :=
  let n := w.toNat
  { slotOfWord w (cell / 2 ^ 20 % 4096) with
    err := decide (n / 2 ^ 28 % 2 = 1), last := cell / 2 ^ 8 % 8, ecnt := cell / 2 ^ 4 % 16 }

/-- Little-endian bytes of a number (R3). -/
def leBytes : Nat → Nat → List Byte
  | 0, _ => []
  | n + 1, v => BitVec.ofNat 8 (v % 256) :: leBytes n (v / 256)
/-- The number of little-endian bytes (R3). -/
def ofLeBytes : List Byte → Nat
  | [] => 0
  | b :: l => b.toNat + 256 * ofLeBytes l

/-- The number that n bytes from an offset hold. -/
def le (l : List Byte) (o n : Nat) : Nat := ofLeBytes ((l.drop o).take n)

/-- DEPAi (R341) and DEPVi (R342) of a packet. -/
def Taken.depa (t : Taken) (i : Nat) : Nat := le t.bytes (40 + 8 * i) 8
def Taken.depv (t : Taken) (i : Nat) : Int := (BitVec.ofNat 64 (le t.block (192 + 8 * i) 8)).toInt

end Sys2Proof.Machine
end

