-- ==== Sys2Proof/Machine/Memory.lean ====
section
/-! DEFINITION. Bytes of memory: HBM4 and LLC-direct storage by physical address, host memory by host address, with poison per 32-byte
granule (R214) and presence per 8-byte word (R210). -/

namespace Sys2Proof.Machine

/-- One byte of a memory; an unlisted byte reads as Config.emptyByte (notes/assumptions/1.md). -/
def Memory.read (m : List Host.Cell) (a : Nat) : Byte := Tab.get Config.emptyByte m a
/-- One byte written, in the canonical form. -/
def Memory.write (m : List Host.Cell) (a : Nat) (b : Byte) : List Host.Cell := Tab.set Config.emptyByte m a b
/-- The canonical form. -/
def Memory.wf (m : List Host.Cell) : Bool := Tab.wf Config.emptyByte m

/-- Bytes from an address up. -/
def Memory.readBytes (m : List Host.Cell) : Nat → Nat → List Byte
  | _, 0 => []
  | a, n + 1 => Memory.read m a :: Memory.readBytes m (a + 1) n
/-- Bytes written from an address up. -/
def Memory.writeBytes (m : List Host.Cell) (a : Nat) : List Byte → List Host.Cell
  | [] => m
  | b :: l => Memory.writeBytes (Memory.write m a b) (a + 1) l

/-- The memory of a home. -/
def State.memOf (s : State) (h : Home) : List Host.Cell :=
  match h with
  | .host => s.host
  | .hbm | .ld | .remote _ => s.mem

/-- Granules that a range of bytes touches (R214). -/
def granulesOf (pa n : Nat) : List Nat := if n = 0 then [] else (List.range ((pa + n - 1) / 32 - pa / 32 + 1)).map (· + pa / 32)
/-- 8-byte words that a range of bytes touches (R210). -/
def wordsOf (pa n : Nat) : List Nat := if n = 0 then [] else (List.range ((pa + n - 1) / 8 - pa / 8 + 1)).map (· + pa / 8)

/-- A range that lies in a poisoned granule. -/
def State.poisoned (s : State) (h : Home) (pa n : Nat) : Bool :=
  match h with
  | .host => (wordsOf pa n).any fun w => s.hostBad.contains w
  | _ => (granulesOf pa n).any fun g => s.granules.contains g

/-- A granule that a range covers in part only. -/
def partial? (pa n g : Nat) : Bool := decide (g * 32 < pa) || decide (pa + n < g * 32 + 32)

/-- Whether a range of physical addresses has storage (R191): `carve` bytes of the LLC-direct window are backed. -/
def hasStorage (carve : Nat) (h : Home) (pa n : Nat) : Bool :=
  match h with
  | .hbm | .ld => decide (pa + n ≤ Config.hbmBytes) || (decide (Config.ldBase ≤ pa) && decide (pa + n ≤ Config.ldBase + carve))
  | .host | .remote _ => true

/-- Bytes of the scratchpad by local address, zero where unlisted (R128, R355). -/
def Part.byte (p : Part) (a : Nat) : Byte := Tab.get 0 p.spad a
def Part.bytes (p : Part) : Nat → Nat → List Byte
  | _, 0 => []
  | a, n + 1 => p.byte a :: Part.bytes p (a + 1) n
/-- The scratchpad with bytes written from an address up. -/
def spadWrite (m : Table Byte) (a : Nat) : List Byte → Table Byte
  | [] => m
  | b :: l => spadWrite (Tab.set 0 m a b) (a + 1) l
/-- A store to the scratchpad; a word that it covers whole loses its poison mark (R415). -/
def Part.store (p : Part) (a : Nat) (bs : List Byte) : Part :=
  { p with
    spad := spadWrite p.spad a bs
    spoison := p.spoison.filter fun w => !(decide (a ≤ w * 8) && decide (w * 8 + 8 ≤ a + bs.length)) }
/-- What a drain of a table has yet to write is written, by its request (R318). -/
def Part.pour (p : Part) (id : Nat) : Part :=
  (p.pours.filter fun e => e.1 = id).foldl (init := { p with pours := p.pours.filter fun e => e.1 ≠ id }) fun p e => p.store e.2.1 e.2.2
/-- The next aligned 8 bytes of it (R130). Their order, ascending here, is left open: DESIGN CHOICE (notes/assumptions/66.md). -/
def Part.pourUnit (p : Part) (id : Nat) : Part :=
  match p.pours.find? fun e => e.1 = id with
  | none => p
  | some (_, a, bytes) =>
    { p.store a (bytes.take 8) with
      pours := (p.pours.map fun e => if e.1 = id then (id, a + 8, bytes.drop 8) else e).filter fun e => !e.2.2.isEmpty }
/-- A range that touches a poisoned word (R415). -/
def Part.poisonedIn (p : Part) (a n : Nat) : Bool := (wordsOf a n).any fun w => p.spoison.contains w
/-- A range that touches a poisoned word without covering it. -/
def Part.poisonedPart (p : Part) (a n : Nat) : Bool :=
  (wordsOf a n).any fun w => p.spoison.contains w && !(decide (a ≤ w * 8) && decide (w * 8 + 8 ≤ a + n))

end Sys2Proof.Machine
end

