-- ==== Sys2Proof/Machine/Home.lean ====
section
/-! DEFINITION. Homes and translation: RAS records (R422, R423), messages to the host (R393), page walks (R366 to R369), writes at a
home with presence, watches and poison (R210, R214, R225), and the accesses that the device itself makes in a context. -/

namespace Sys2Proof.Machine

/-- The die of a physical address's home slice (R192). -/
def homeDie (pa : Nat) : Nat :=
  let g := pa / 512
  (g.xor ((g / 2 ^ 9).xor ((g / 2 ^ 18).xor ((g / 2 ^ 27).xor (g / 2 ^ 36))))) % 512 / 64

/-- The die of a physical tile: bits [12:10] of its PTN (R13). -/
def ptnDie (ptn : Nat) : Nat := ptn / 1024

/-! ## Messages to the host -/

/-- N of the message ring (R391). -/
def State.ringSize (s : State) : Nat := 2 ^ (s.hmn.toNat % 16 + 4)

/-- Bytes padded with zeros to a length. -/
def padTo (n : Nat) (l : List Byte) : List Byte := (l ++ List.replicate (n - l.length) 0).take n

/-- A message of R394: TYPE, CTX, six zero bytes and the body. -/
def messageBytes (type ctx : Nat) (body : List Byte) : List Byte :=
  padTo 128 ([BitVec.ofNat 8 type, BitVec.ofNat 8 ctx] ++ List.replicate 6 0 ++ body)

/-- Messages that wait are written while the ring has room and the Courier link carries traffic: the message, then the index at HMW (R393,
R421). -/
def State.drainMessages (s : State) : State :=
  let rec go : Nat → State → State
    | 0, s => s
    | k + 1, s =>
      match s.msgs with
      | [] => s
      | m :: rest =>
        if (BitVec.ofNat 64 s.msgIndex - s.hmr).toNat = s.ringSize then s
        else
          let a := s.hmb.toNat + 128 * (s.msgIndex % s.ringSize)
          let h := Memory.writeBytes s.host a m
          let h := Memory.writeBytes h s.hmw.toNat (leBytes 8 (s.msgIndex + 1))
          go k { s with host := h, msgIndex := s.msgIndex + 1, msgs := rest }
  if s.courierDown then s else go s.msgs.length s

/-- HOST_MESSAGE: a message is made and, when the ring has room, written (R393). -/
def State.hostMessage (s : State) (type ctx : Nat) (body : List Byte) : State :=
  { s with msgs := s.msgs ++ [messageBytes type ctx body] }.drainMessages

/-- A feature bit in force (R357, R358). -/
def State.feature (s : State) (bit : Nat) : Bool := s.featDone && s.feat0a.getLsbD bit

/-! ## RAS -/

/-- A RAS record (R422). -/
def rasBytes (src sev ctx die count : Nat) (loc : Word) (ptn seq : Nat) : List Byte :=
  padTo 64 (leBytes 1 src ++ leBytes 1 sev ++ leBytes 1 ctx ++ leBytes 1 die ++ leBytes 4 count ++ leBytes 8 loc.toNat
    ++ leBytes 2 ptn ++ leBytes 6 0 ++ leBytes 8 seq)

/-- A record beyond those that may wait is counted, saturating (R423, R424). -/
def State.dropRas (s : State) : State := { s with rasDrop := if s.rasDrop.toNat = 2 ^ 32 - 1 then s.rasDrop else s.rasDrop + 1 }

/-- A record goes to the Postmaster of its die, or to the host as a type-5 message; at most 1,024 wait (R423). -/
def State.postRas (s : State) (rec : List Byte) (ctx : Nat) : State :=
  let s := { s with rasSeq := s.rasSeq + 1 }
  if s.feature 3 then
    (if s.rasWait.length < 1024 then { s with rasWait := s.rasWait ++ [rec] } else s.dropRas)
  else if (s.msgs.filter fun m => m.head? == some 5).length < 1024 then s.hostMessage 5 ctx rec
  else s.dropRas

/-- RAS_RECORD for an event that is not a corrected error: it is counted, saturating, and makes one record (R422 to R424). -/
def State.ras (s : State) (src sev ctx die : Nat) (loc : Word) (ptn : Nat) : State :=
  let k := die * 64 + src
  let c := Tab.get (0, 0) s.rasCnt k
  let n := Nat.min (c.1 + 1) (2 ^ 32 - 1)
  let s := { s with rasCnt := Tab.put s.rasCnt k (n, c.2) }
  s.postRas (rasBytes src sev ctx die n loc ptn s.rasSeq.toNat) ctx

/-- A record whose LOC the specification does not give: a free value (notes/assumptions/3.md). -/
def State.rasOpen (s : State) (src sev ctx die ptn : Nat) : State :=
  let (loc, s) := s.free 64
  s.ras src sev ctx die loc ptn

/-- A corrected error is counted, and makes a record when the count reaches a multiple of CETHR (R423). -/
def State.rasCorrected (s : State) (src ctx die : Nat) (loc : Word) (ptn : Nat) : State :=
  let k := die * 64 + src
  let c := Tab.get (0, 0) s.rasCnt k
  let n := Nat.min (c.2 + 1) (2 ^ 32 - 1)
  let s := { s with rasCnt := Tab.put s.rasCnt k (c.1, n) }
  let t := s.cethr.toNat % 2 ^ 16
  if t = 0 ∨ n % t ≠ 0 then s else s.postRas (rasBytes src 0 ctx die n loc ptn s.rasSeq.toNat) ctx

/-! ## Translation -/

/-- Bits of a PTE (R366). -/
def pteV (e : Word) : Bool := e.getLsbD 0
def pteLeaf (e : Word) : Bool := e.getLsbD 1
def pteRcv (e : Word) : Bool := e.getLsbD 2
def pteW (e : Word) : Bool := e.getLsbD 3
def pteX (e : Word) : Bool := e.getLsbD 4
def pteIs (e : Word) : Bool := e.getLsbD 5
def pteLd (e : Word) : Bool := e.getLsbD 6
def pteHost (e : Word) : Bool := e.getLsbD 7
def ptePkg (e : Word) : Bool := e.getLsbD 8
def ptePa (e : Word) : Nat := 2 ^ 12 * (e.toNat / 2 ^ 12 % 2 ^ 36)
def pteRpkg (e : Word) : Nat := e.toNat / 2 ^ 52 % 256

/-- A malformed valid entry at a level (R366, R367): a leaf of 2^size bytes, or a table pointer. -/
def pteMalformed (e : Word) (lvl size : Nat) : Bool :=
  let n := e.toNat
  let leaf := pteLeaf e
  decide (n / 2 ^ 60 ≠ 0) || decide (n / 2 ^ 48 % 16 ≠ 0) || decide (n / 2 ^ 9 % 8 ≠ 0) || pteRcv e
    || (!ptePkg e && decide (pteRpkg e ≠ 0))
    || (decide (lvl = 0) && !leaf) || (decide (lvl = 3) && leaf)
    || (leaf && decide (ptePa e % 2 ^ size ≠ 0))
    || (!leaf && decide (Config.hbmBytes ≤ ptePa e))
    || (leaf && decide (1 < (if pteHost e then 1 else 0) + (if pteLd e then 1 else 0) + (if ptePkg e then 1 else 0)))
    || (pteLd e && !(decide (Config.ldBase ≤ ptePa e) && decide (ptePa e < Config.ldBase + Config.ldBytes)))
    || (pteIs e && pteHost e)

/-- How a walk ends (R368, R372). -/
inductive Walked where
  | leaf (pte : Word) (size : Nat)
  | miss (recoverable : Bool)
  /-- it fails: at a table whose entry cannot be read, with the source and the address of the record that the home writes -/
  | bad (lost : Option (Nat × Nat))
  deriving DecidableEq, Repr

/-- The structure whose error a poisoned granule stands for: LLC or LLC-direct, or HBM4 (R414). -/
def State.poisonSource (s : State) (granule : Nat) : Nat :=
  if Config.ldBase ≤ granule * 32 ∨ s.llcBad.contains granule then 0x10 else 0x11

/-- The entry at a physical address, or the source of the record where there is no storage or poison (R191, R214). -/
def State.pteAt (s : State) (pa : Nat) : Except Nat Word :=
  if !hasStorage s.carve .hbm pa 8 then .error 0x32
  else if s.poisoned .hbm pa 8 then .error (s.poisonSource (pa / 32))
  else .ok (BitVec.ofNat 64 (ofLeBytes (Memory.readBytes s.mem pa 8)))

/-- One level of a walk: the entry read, or how the walk ends. -/
def State.walkLevel (s : State) (va table : Nat) : Nat → Walked
  | lvl =>
    let lo := 16 + (if lvl = 0 then 0 else 5 + 9 * (lvl - 1))
    let idx := if lvl = 0 then 16 * (va / 2 ^ 16 % 32) else va / 2 ^ lo % (if lvl = 3 then 2 ^ 13 else 512)
    let pa := table + 8 * idx
    match s.pteAt pa with
    | .error src => .bad (some (src, pa))
    | .ok e =>
      if !pteV e then .miss (pteRcv e)
      else if pteMalformed e lvl lo then .bad none
      else if pteLeaf e then .leaf e lo
      else .leaf e 0

/-- Walk of R368: levels 3, 2, 1, 0. A table pointer is handed on; size 0 marks it. -/
def State.walk (s : State) (ctx va : Nat) : Walked :=
  let c := s.ctx ctx
  if !c.valid then .bad none
  else
    let rec go : Nat → Nat → Walked
      | 0, table => s.walkLevel va table 0
      | lvl + 1, table =>
        match s.walkLevel va table (lvl + 1) with
        | .leaf e 0 => go lvl (ptePa e)
        | w => w
    go 3 (2 ^ 16 * c.ptr.toNat)

/-- What an access needs of a leaf (R369). -/
inductive Access where
  | read
  | write
  | fetch
  deriving DecidableEq, Repr

/-- The outcome of a translation. -/
inductive Xlat where
  | ok (p : Phys)
  | miss
  | fault
  | prot
  deriving DecidableEq, Repr

/-- The home that a leaf gives an address (R190, R194, R397). -/
def State.leafPhys (s : State) (ctx va : Nat) (e : Word) (size : Nat) : Phys :=
  let pa := ptePa e + va % 2 ^ size
  let home :=
    if pteHost e then Home.host
    else if ptePkg e && decide (pteRpkg e ≠ s.pkgSelf ctx) then Home.remote (pteRpkg e)
    else if pteLd e then Home.ld
    else if decide (Config.ldBase ≤ pa) then Home.ld
    else Home.hbm
  ⟨home, pa, pteIs e⟩

/-- Permission and attributes of a leaf (R369). -/
def State.checkLeaf (s : State) (ctx va : Nat) (acc : Access) (e : Word) (size : Nat) : Xlat :=
  let allowed := match acc with
    | .read => true
    | .write => pteW e
    | .fetch => pteX e
  if allowed then .ok (s.leafPhys ctx va e size) else .prot

/-- A cached leaf of a context that maps an address (R370). -/
def TlbEntry.maps (t : TlbEntry) (ctx va : Nat) : Bool :=
  decide (t.ctx = ctx) && decide (t.base ≤ va) && decide (va < t.base + 2 ^ t.size)

/-- An event of an HBM4 row is counted, and recorded where the row has reached its limit (R426). -/
def State.countRow (s : State) (granule : Nat) (bad : Bool) : State :=
  let k := Config.hbmRow granule
  let c := Tab.get (0, 0) s.rows k
  let c := if bad then (c.1 + 1, c.2) else (c.1, c.2 + 1)
  let s := { s with rows := Tab.put s.rows k c }
  let reached := (bad && decide (c.1 = 4)) || (!bad && decide (c.2 = 256))
  let pa := granule * 32
  if reached then s.ras 0x20 4 0xFF (homeDie pa) (BitVec.ofNat 64 pa) 0 else s

/-- The record of an access that its home does not perform: poison met in HBM4 or in the LLC, whose rows are counted (R214, R426), or an
address without storage (R191). -/
def State.lostRas (s : State) (ctx : Nat) (l : Nat × Nat) : State :=
  let s := s.ras l.1 (if l.1 = 0x32 then 5 else 1) ctx (homeDie l.2) (BitVec.ofNat 64 l.2) 0
  if l.1 = 0x11 then s.countRow (l.2 / 32) true else s

/-- A translation by a new walk, with the leaf kept (R368, R370); a table that cannot be read writes a RAS record. -/
def State.translate (s : State) (ctx va : Nat) (acc : Access) : Xlat × State :=
  if 2 ^ 52 ≤ va then (.fault, s)
  else
    match s.walk ctx va with
    | .leaf e size =>
      let entry : TlbEntry := ⟨ctx, va / 2 ^ size * 2 ^ size, size, e⟩
      (s.checkLeaf ctx va acc e size, if s.tlb.contains entry then s else { s with tlb := s.tlb ++ [entry] })
    | .miss r => (if r then .miss else .fault, s)
    | .bad (some l) => (.fault, s.lostRas ctx l)
    | .bad none => (.fault, s)

/-! ## Writes at a home -/

/-- A request whose result is fixed at its home. -/
def Req.answer (r : Req) (st : Status) (datum : Datum) : Req :=
  { r with performed := true, ackPkg := true, ackPod := true, status := st, datum := datum }

/-- Requests named in a list are answered. -/
def State.answerAll (s : State) (ids : List Nat) (st : Status) (datum : Datum) : State :=
  { s with reqs := s.reqs.map fun r => if ids.contains r.id then r.answer st datum else r }

/-- An answer to an ILD, IST, IRST or watch of another package (R400). -/
def State.tell (s : State) (name : Nat) (st : Status) (l : List Byte) : State := { s with told := s.told ++ [(name, st, l)] }

/-- Waiting requests of other packages are answered. -/
def State.answerForeign (s : State) (who : Foreign → Bool) (st : Status) (l : List Byte) : State :=
  { s with
    foreign := s.foreign.filter fun f => !who f
    told := s.told ++ (s.foreign.filter who).map fun f => (f.name, st, l) }

/-- Armed watches of other packages on a written word (R225, R400). -/
def State.fireForeign (s : State) (pa n : Nat) : State :=
  let hit (f : Foreign) : Option (List Byte) :=
    match f.watch with
    | none => none
    | some (bytes, cmp) =>
      if decide (f.pa < pa + n) && decide (pa < f.pa + bytes) then
        let l := Memory.readBytes s.mem f.pa bytes
        if ofLeBytes l = cmp.toNat % 2 ^ (8 * bytes) then none else some l
      else none
  { s with
    foreign := s.foreign.filter fun f => (hit f).isNone
    told := s.told ++ s.foreign.filterMap fun f => (hit f).map fun l => (f.name, .ok, l) }

/-- The signed word at an address. -/
def State.signedAt (s : State) (pa : Nat) : Int := (BitVec.ofNat 64 (ofLeBytes (Memory.readBytes s.mem pa 8))).toInt

/-- Dependences of taken packets whose word a write has brought to their bound are met, and stay so (R346); so are those of other packages'
packets. -/
def State.fireDepends (s : State) (pa n : Nat) : State :=
  let near (a : Nat) : Bool := decide (a < pa + n) && decide (pa < a + 8)
  let met (t : Taken) (e : Nat × Nat) : Bool := near e.2 && decide (s.signedAt e.2 ≤ t.depv e.1)
  let far (d : Nat × Nat × Int) : Bool := near d.2.1 && decide (s.signedAt d.2.1 ≤ d.2.2)
  { s with
    taken := s.taken.map fun t => { t with met := t.met ++ (t.armed.filter (met t)).map (·.1), armed := t.armed.filter fun e => !met t e }
    depends := s.depends.filter fun d => !far d
    lentTo := s.lentTo ++ (s.depends.filter far).map fun d => (d.1, ⟨.ok, [], none⟩) }

/-- WATCH_FIRE: every armed watch on a written word whose value differs from its comparand completes (R225). -/
def State.fireWatches (s : State) (pa n : Nat) : State :=
  let hit (d : Deferred) : Option Word :=
    if d.ild then none
    else
      match s.req d.id with
      | some { kind := .watch bytes cmp, .. } =>
        if decide (d.pa < pa + n) && decide (pa < d.pa + bytes) then
          let v := ofLeBytes (Memory.readBytes s.mem d.pa bytes)
          if v = cmp.toNat % 2 ^ (8 * bytes) then none else some (BitVec.ofNat 64 v)
        else none
      | _ => none
  let fired := s.deferred.filterMap fun d => (hit d).map fun v => (d.id, v)
  let s := { s with deferred := s.deferred.filter fun d => d.ild || (hit d).isNone }
  ((fired.foldl (fun s e => s.answerAll [e.1] .ok [some e.2]) s).fireForeign pa n).fireDepends pa n

/-- A write through a mapping without IS empties the words it reaches and answers their chains with FAULT (R210). -/
def State.emptyWords (s : State) (pa n : Nat) : State :=
  let ws := wordsOf pa n
  let chain := s.deferred.filter fun d => d.ild && ws.contains (d.pa / 8)
  let s := { s with
    full := s.full.filter (fun w => !ws.contains w)
    deferred := s.deferred.filter (fun d => !(d.ild && ws.contains (d.pa / 8))) }
  (s.answerAll (chain.map (·.id)) .fault []).answerForeign (fun f => f.watch.isNone && ws.contains (f.pa / 8)) .fault []

/-- Granules that a write covers whole lose their poison, with a RAS record (R214). -/
def State.coverPoison (s : State) (pa n ctx : Nat) : State :=
  let hit := (granulesOf pa n).filter fun g => s.granules.contains g && !partial? pa n g
  let s := { s with granules := s.granules.filter (fun g => !hit.contains g), llcBad := s.llcBad.filter (fun g => !hit.contains g) }
  hit.foldl (fun s g => s.ras 0x30 1 ctx (homeDie (g * 32)) (BitVec.ofNat 64 (g * 32)) 0) s

/-- A granule gets its poison mark, with what its poison stands for (R214, R414, R416). -/
def State.markGranule (s : State) (granule : Nat) (hbm : Bool) : State :=
  if s.granules.contains granule then s
  else { s with granules := s.granules ++ [granule], llcBad := if hbm then s.llcBad else s.llcBad ++ [granule] }

/-- The first poisoned byte of a range at its home, which the record names (R214, R422): the range's first byte in a poisoned granule, or word
of host memory; for a write, in one that it covers only in part. -/
def State.badPlace (s : State) (p : Phys) (n : Nat) (write : Bool) : Phys :=
  let (l, k) := match p.home with
    | .host => ((wordsOf p.pa n).filter fun w => s.hostBad.contains w && (!write || decide (w * 8 < p.pa) || decide (p.pa + n < w * 8 + 8)), 8)
    | _ => ((granulesOf p.pa n).filter fun g => s.granules.contains g && (!write || partial? p.pa n g), 32)
  match l.head? with
  | some g => { p with pa := Nat.max p.pa (g * k) }
  | none => p

/-- A write meets poison when it covers a poisoned granule only in part (R214). -/
def State.writePoisoned (s : State) (h : Home) (pa n : Nat) : Bool :=
  match h with
  | .host => (wordsOf pa n).any fun w => s.hostBad.contains w && !(decide (pa ≤ w * 8) && decide (w * 8 + 8 ≤ pa + n))
  | _ => (granulesOf pa n).any fun g => s.granules.contains g && partial? pa n g

/-- A write performed at its home, whose bytes meet no poison in part: data, presence, poison marks and watches (R195, R210, R214,
R225). -/
def State.perform (s : State) (p : Phys) (ctx : Nat) (data : List Byte) : State :=
  match p.home with
  | .host =>
    { s with
      host := Memory.writeBytes s.host p.pa data
      hostBad := s.hostBad.filter fun w => !(wordsOf p.pa data.length).contains w }
  | .hbm | .ld | .remote _ =>
    let s := s.coverPoison p.pa data.length ctx
    let s := { s with mem := Memory.writeBytes s.mem p.pa data }
    (s.emptyWords p.pa data.length).fireWatches p.pa data.length

/-! ## Scale-up ports (R397, R399) -/

/-- Ports toward a node that are up and in the mode the node needs, in rising order: U (R399). -/
def State.egressPorts (s : State) (ual : Bool) (node : Nat) : List Nat :=
  (List.range 64).filter fun p =>
    (Tab.get 0 s.route node).getLsbD p &&
      (let m := Tab.get PortMode.reset s.portm p
       m.up && decide (m.mode = if ual then 1 else 0))

/-- The egress port and node for a logical package of a context: none where it is unmapped, where no port is usable, or where a packet
other than a memory request would go by UALink (R397, R399, R401). -/
def State.egress (s : State) (ctx pkg index : Nat) (mem : Bool) : Option (Nat × Nat) :=
  let m := Tab.get 0 (s.ctx ctx).pkgmap pkg
  if !m.getLsbD 63 ∨ (m.getLsbD 62 ∧ !mem) then none
  else
    let node := m.toNat % 256
    let u := s.egressPorts (m.getLsbD 62) node
    if u.isEmpty then none else (u[index % u.length]?).map fun p => (p, node)

/-- Whether the logical package is reached by UALink (R397). -/
def State.byUal (s : State) (ctx pkg : Nat) : Bool := (Tab.get 0 (s.ctx ctx).pkgmap pkg).getLsbD 62

/-- Packets toward a node that the ports carry were all accepted under this U (R399). -/
def State.drained (s : State) (ual : Bool) (node : Nat) : Bool :=
  s.out.all fun o => decide (o.node ≠ node) || decide (o.via = s.egressPorts ual node)

/-- A packet leaves by a port, or waits behind the drain of its destination's old ports (R399). -/
def State.inject (s : State) (port node : Nat) (ual : Bool) (index : Nat) (body : OutBody) : State :=
  if s.drained ual node && s.outHeld.all (fun l => l.node ≠ node) then
    { s with out := s.out ++ [⟨port, node, s.egressPorts ual node, body⟩] }
  else { s with outHeld := s.outHeld ++ [⟨node, ual, index, body⟩] }

/-- A packet for a logical package leaves; none where it has no way there. -/
def State.emit (s : State) (ctx pkg index : Nat) (mem : Bool) (body : OutBody) : Option State :=
  (s.egress ctx pkg index mem).map fun e => s.inject e.1 e.2 (s.byUal ctx pkg) index body

/-! ## Accesses of the device in a context -/

/-- What a device access waits for: the fault service, which brings the page of an address, or the answer of another package. -/
structure Miss where
  dev : Dev
  va : Nat
  far : Option Far
  deriving DecidableEq, Repr

/-- Why a device access fails or waits: translation, protection or storage, with the record that the home has to write (R191, R368); poison,
with the place whose record is to be written (R194, R214); or a wait. -/
inductive DevErr where
  | fault (lost : Option (Nat × Nat))
  | poison (at' : Option Phys)
  | wait (m : Miss)
  deriving DecidableEq, Repr

def DevErr.isPoison : DevErr → Bool
  | .poison _ => true
  | .fault _ | .wait _ => false
def DevErr.isFault : DevErr → Bool
  | .fault _ => true
  | .poison _ | .wait _ => false

/-- The status of R173 that a failed device access stands for, as a code and as a status. -/
def DevErr.status : DevErr → Nat
  | .poison _ => 1
  | .fault _ | .wait _ => 2
def DevErr.result : DevErr → Status
  | .poison _ => .poison
  | .fault _ | .wait _ => .fault

/-- Whether the fault service has answered an access for the page: its next miss is not recoverable, or, with `fail`, it fails (R372). -/
def State.marked (s : State) (d : Dev) (va : Nat) (fail : Bool) : Bool :=
  s.failedPages.any fun f => decide (f.ctx = d.ctx) && decide (f.who = d.who) && decide (f.va = va / 2 ^ 16 * 2 ^ 16) && (!fail || f.fail)

/-- The answers for the pages that an access has reached are taken. -/
def State.markDone (s : State) (d : Dev) (va n : Nat) : State :=
  { s with
    failedPages := s.failedPages.filter fun f =>
      !(decide (f.ctx = d.ctx) && decide (f.who = d.who) && decide (va / 2 ^ 16 * 2 ^ 16 ≤ f.va) && decide (f.va < va + n)) }

/-- The same, and the answers of other packages that the access has used go. -/
def State.devDone (s : State) (d : Dev) (va n : Nat) : State :=
  { s.markDone d va n with
    loans := s.loans.filter fun l => !(l.answer.isSome && decide (l.far.dev = d) && decide (va ≤ l.far.va) && decide (l.far.va < va + n)) }

/-- The address of a device access, by a new walk. A recoverable miss waits once for the fault service (R372). -/
def State.devXlat (s : State) (d : Dev) (va : Nat) (acc : Access) : Except DevErr Phys :=
  if s.marked d va true then .error (.fault none)
  else
    match (s.translate d.ctx va acc).1 with
    | .ok p => if hasStorage s.carve p.home p.pa 1 then .ok p else .error (.fault (some (0x32, p.pa)))
    | .miss => if s.marked d va false then .error (.fault none) else .error (.wait ⟨d, va, none⟩)
    | .fault => .error (.fault (match s.walk d.ctx va with
        | .bad l => l
        | .leaf .. | .miss _ => none))
    | .prot => .error (.fault none)

/-- An access at a home of another package: its answer, or the wait for it. -/
def State.farAccess (s : State) (d : Dev) (va : Nat) (p : Phys) (pkg : Nat) (k : FarKind) : Except DevErr FarAnswer :=
  let f : Far := ⟨d, va, pkg, p.pa, k⟩
  match (s.loans.find? fun l => decide (l.far = f)).bind (·.answer) with
  | none => .error (.wait ⟨d, va, some f⟩)
  | some a =>
    match a.status with
    | .ok => .ok a
    | .poison => .error (.poison none)
    | _ => .error (.fault none)

/-- The next piece of an access that UALink carries (R401): naturally aligned, of a power of two up to 64 bytes. -/
def ualPiece (pa n : Nat) : Nat :=
  (([64, 32, 16, 8, 4, 2, 1].find? fun k => decide (pa % k = 0) && decide (k ≤ n))).getD 0

/-- A range of at most 64 bytes as UALink carries it, piece by piece: (offset, length). -/
def ualPieces (pa n : Nat) : List (Nat × Nat) :=
  let rec go : Nat → Nat → List (Nat × Nat)
    | 0, _ => []
    | k + 1, o => if n ≤ o then [] else (o, ualPiece (pa + o) (n - o)) :: go k (o + ualPiece (pa + o) (n - o))
  go 64 0

/-- What an access to a range of another package goes there in: one piece, or by UALink its pieces (R401). -/
def State.farPieces (s : State) (ctx pkg pa n : Nat) : List (Nat × Nat) :=
  if s.byUal ctx pkg then ualPieces pa n else [(0, n)]

/-- Aligned pieces of 64 bytes of a range: (address, length). -/
def pieces (va n : Nat) : List (Nat × Nat) :=
  (List.range (n / 64 + 2)).filterMap fun i =>
    let lo := 64 * i - va % 64
    let hi := Nat.min n (64 * i + 64 - va % 64)
    if lo < hi then some (va + lo, hi - lo) else none

/-- The record of poison that a device's read has met is the host's proxy's to write (R194); of other homes it was written before. -/
def State.readPoison (s : State) (p : Phys) (n : Nat) : DevErr := .poison (if p.home = .host then some (s.badPlace p n false) else none)

/-- A range read at a home of another package. -/
def State.farRead (s : State) (d : Dev) (va : Nat) (p : Phys) (pkg n : Nat) : Except DevErr (List Byte) :=
  (s.farPieces d.ctx pkg p.pa n).foldl (init := .ok []) fun acc e =>
    match acc with
    | .error x => .error x
    | .ok l => (s.farAccess d (va + e.1) { p with pa := p.pa + e.1 } pkg (.read e.2)).map fun a => l ++ a.bytes

/-- A range written at a home of another package. -/
def State.farWrite (s : State) (d : Dev) (va : Nat) (p : Phys) (pkg : Nat) (data : List Byte) : Except DevErr Unit :=
  (s.farPieces d.ctx pkg p.pa data.length).foldl (init := .ok ()) fun acc e =>
    match acc with
    | .error x => .error x
    | .ok () =>
      (s.farAccess d (va + e.1) { p with pa := p.pa + e.1 } pkg (.write ((data.drop e.1).take e.2))).map fun _ => ()

/-- One piece read. -/
def State.devPiece (s : State) (d : Dev) (va n : Nat) : Except DevErr (List Byte) :=
  match s.devXlat d va .read with
  | .error x => .error x
  | .ok p =>
    match p.home with
    | .remote pkg => s.farRead d va p pkg n
    | .hbm | .ld | .host =>
      if s.poisoned p.home p.pa n then .error (s.readPoison p n) else .ok (Memory.readBytes (s.memOf p.home) p.pa n)

/-- Bytes read by the device in a context. -/
def State.devRead (s : State) (d : Dev) (va n : Nat) : Except DevErr (List Byte) :=
  (pieces va n).foldl (init := .ok []) fun acc e =>
    match acc with
    | .error x => .error x
    | .ok bs => (s.devPiece d e.1 e.2).map (bs ++ ·)

/-- Bytes read, with the marks and answers that the read has used taken. -/
def State.devTake (s : State) (d : Dev) (va n : Nat) : Except DevErr (List Byte × State) :=
  (s.devRead d va n).map fun bs => (bs, s.devDone d va n)

/-- Whether a write by the device would perform: every piece translates and meets no poison in part. -/
def State.devCheck (s : State) (d : Dev) (va n : Nat) : Except DevErr Unit :=
  (pieces va n).foldl (init := .ok ()) fun acc e =>
    match acc with
    | .error x => .error x
    | .ok () =>
      match s.devXlat d e.1 .write with
      | .error x => .error x
      | .ok p =>
        if p.is then .error (.fault none)
        else if s.writePoisoned p.home p.pa e.2 then .error (.poison (some (s.badPlace p e.2 true)))
        else .ok ()

/-- The pieces of a write of `n` bytes whose homes are in other packages are acknowledged (R194). -/
def State.farWrites (s : State) (d : Dev) (va n : Nat) (data : List Byte) : Except DevErr Unit :=
  (pieces va n).foldl (init := .ok ()) fun acc e =>
    match acc with
    | .error x => .error x
    | .ok () =>
      match s.devXlat d e.1 .write with
      | .ok ⟨.remote pkg, pa, is⟩ => s.farWrite d e.1 ⟨.remote pkg, pa, is⟩ pkg ((data.drop (e.1 - va)).take e.2)
      | .ok _ | .error _ => .ok ()

/-- `n` bytes written by the device in a context, all or none. -/
def State.devPut (s : State) (d : Dev) (va n : Nat) (data : List Byte) : Except DevErr State :=
  match s.devCheck d va n with
  | .error x => .error x
  | .ok () =>
    match s.farWrites d va n data with
    | .error x => .error x
    | .ok () =>
      let s : State := (pieces va n).foldl (init := s) fun s e =>
        match s.devXlat d e.1 .write with
        | .error _ | .ok ⟨.remote _, _, _⟩ => s
        | .ok p => s.perform p d.ctx ((data.drop (e.1 - va)).take e.2)
      .ok (s.devDone d va n)

/-- A list of bytes written by the device. -/
def State.devWrite (s : State) (d : Dev) (va : Nat) (data : List Byte) : Except DevErr State := s.devPut d va data.length data

/-- An access of the device leaves for another package, once; by UALink only reads, writes and atomics of words do (R194, R401). A package
without a way there gives the answer FAULT (R399). -/
def State.lend (s : State) (f : Far) : State :=
  let noUal : Bool := match f.kind with
    | .spill .. => s.byUal f.dev.ctx f.pkg
    | .read _ | .write _ | .poison | .decrement => false
    | .depend _ => s.byUal f.dev.ctx f.pkg
  if s.loans.any fun l => decide (l.far = f) then s
  else
    let id := s.nextId
    match (if noUal then none else s.emit f.dev.ctx f.pkg (f.pa / 512) true (.device id f)) with
    | some s => { s with nextId := id + 1, loans := s.loans ++ [⟨id, f, none⟩] }
    | none => { s with nextId := id + 1, loans := s.loans ++ [⟨id, f, some ⟨.fault, [], none⟩⟩] }

/-- FAULT_SERVICE_RECORD: one record for a page of a context and a die, to the Postmasters or to the host; `who` are the accesses of the
device that wait for it (R372). -/
def State.serviceRecord (s : State) (ctx va kind die : Nat) (who : List Waiter) : State :=
  let page := va / 2 ^ 16 * 2 ^ 16
  let same (f : Service) : Bool := decide (f.ctx = ctx) && decide (f.va = page) && decide (f.die = die)
  if s.services.any same then
    { s with services := s.services.map fun f => if same f then { f with dev := f.dev ++ who.filter fun w => !f.dev.contains w } else f }
  else
    let s := { s with services := s.services ++ [⟨ctx, page, kind, die, who⟩] }
    if s.feature 1 then s
    else s.hostMessage 2 ctx (leBytes 1 ctx ++ leBytes 1 kind ++ leBytes 6 0 ++ leBytes 8 page ++ leBytes 1 die)

/-- What a device access that waits does: it asks the fault service, or the other package. -/
def State.service (s : State) (m : Miss) (kind : Nat) : State :=
  match m.far with
  | some f => s.lend f
  | none => s.serviceRecord m.dev.ctx m.va kind m.dev.die [m.dev.who]

/-- The RAS record of poison met at a home (R194, R214, R422). -/
def State.poisonRas (s : State) (p : Phys) (ctx : Nat) : State :=
  match p.home with
  | .host => s.ras 0x12 1 ctx 8 (BitVec.ofNat 64 p.pa) 0
  | .ld | .hbm | .remote _ => s.lostRas ctx (s.poisonSource (p.pa / 32), p.pa)

/-- The records that a device access which fails leaves at the homes (R191, R194, R214, R368). -/
def State.devRas (s : State) (ctx : Nat) (e : DevErr) : State :=
  match e with
  | .fault (some l) => s.lostRas ctx l
  | .poison (some p) => s.poisonRas p ctx
  | .fault none | .poison none | .wait _ => s

/-- The record of a device access at an address that met poison, where its home has yet to write one. -/
def State.poisonAt (s : State) (ctx va : Nat) (e : DevErr) : State :=
  match e, s.devXlat ⟨ctx, 0, .look⟩ va .read with
  | .poison none, .ok p => s.poisonRas p ctx
  | _, _ => s

/-- An answer that an access which fails leaves behind: a read's, or one that failed itself. -/
def Loan.spent (l : Loan) : Bool :=
  match l.answer, l.far.kind with
  | some _, .read _ => true
  | some a, _ => decide (a.status ≠ .ok)
  | none, _ => false

/-- A device access that fails leaves its records, and the answers that it met go. -/
def State.devFail (s : State) (d : Dev) (e : DevErr) : State :=
  let s := s.devRas d.ctx e
  { s with
    failedPages := s.failedPages.filter fun f => !(decide (f.ctx = d.ctx) && decide (f.who = d.who))
    loans := s.loans.filter fun l => !(decide (l.far.dev = d) && l.spent) }

end Sys2Proof.Machine
end

