-- ==== Sys2Proof/Machine/Numbers.lean ====
section
/-! DEFINITION. Numbers (spec/03): integer results (R38, R54, R89), floating formats (R40 to R44), rounding (R45 to R51),
correctly rounded functions (R53), the Anvil step (R59) and KCG10 (R60). A finite value is held exactly, as
(-1)^neg x m x 2^e; a value that is not a dyadic rational is held by its leading bits and one sticky bit below them. -/

namespace Sys2Proof.Machine

/-- Seat flags, bit for bit as R33 lays them out: SAT NV DZ OF UF NX from bit 5 down. -/
abbrev Fl := BitVec 6

def Fl.none : Fl := 0
def Fl.nx : Fl := 1
def Fl.uf : Fl := 2
def Fl.of : Fl := 4
def Fl.dz : Fl := 8
def Fl.nv : Fl := 16
def Fl.sat : Fl := 32

/-- A flag raised on a condition. -/
def Fl.when (b : Bool) (f : Fl) : Fl := if b then f else 0

/-! ## Integers -/

/-- The low `w` bits of a value. -/
def lowBits (w v : Nat) : Nat := v % 2 ^ w

/-- Src of R89: the low bits of a register, signed or unsigned. -/
def intSrc (t : Ty) (v : Nat) : Int :=
  let x := v % 2 ^ t.width
  if t.signed && decide (2 ^ (t.width - 1) ≤ x) then (x : Int) - 2 ^ t.width else x

/-- The bits of a lane: x mod 2^W (R89, R115). -/
def putLane (t : Ty) (x : Int) : Nat := (x % (2 ^ t.width : Int)).toNat

/-- Put of R89: reduced to the width, then extended to 64 bits. -/
def put (t : Ty) (x : Int) : Word := BitVec.ofInt 64 (intSrc t (putLane t x))

/-- MIN of a type (R38). -/
def minInt (t : Ty) : Int := if t.signed then -(2 ^ (t.width - 1)) else 0
/-- MAX of a type (R38). -/
def maxInt (t : Ty) : Int := if t.signed then 2 ^ (t.width - 1) - 1 else 2 ^ t.width - 1

/-- PutSat of R89 before Put: the clamped value and SAT. -/
def clamp (t : Ty) (x : Int) : Int × Fl :=
  if x < minInt t then (minInt t, Fl.sat) else if maxInt t < x then (maxInt t, Fl.sat) else (x, 0)

/-- Put or PutSat, as the form names (R89, R98). -/
def finishInt (t : Ty) (sat : Bool) (x : Int) : Int × Fl := if sat then clamp t x else (x, 0)

/-- Quotient of R54. -/
def divInt (t : Ty) (x y : Int) : Int :=
  if y = 0 then (if t.signed then -1 else 2 ^ t.width - 1) else Int.tdiv x y
/-- Remainder of R54. -/
def remInt (_ : Ty) (x y : Int) : Int := if y = 0 then x else Int.tmod x y
/-- The cases in which DIV and REM trap when the context's integer-trap enable is set (R54, R99). -/
def divTraps (t : Ty) (x y : Int) : Bool := decide (y = 0) || (t.signed && decide (x = minInt t) && decide (y = -1))

/-- Shifts and rotates of R100 on W bits, before Put. -/
inductive ShiftKind where
  | shl | shr | sar | rol | ror
  deriving DecidableEq, Repr

/-- R100: the amount is taken mod W. -/
def shiftBits (k : ShiftKind) (w v amount : Nat) : Nat :=
  let x := v % 2 ^ w
  let s := amount % w
  match k with
  | .shl => (x * 2 ^ s) % 2 ^ w
  | .shr => x / 2 ^ s
  | .sar => if decide (2 ^ (w - 1) ≤ x) then 2 ^ w - 2 ^ (w - s) + x / 2 ^ s else x / 2 ^ s
  | .rol => (x * 2 ^ s) % 2 ^ w + x / 2 ^ (w - s)
  | .ror => x / 2 ^ s + (x * 2 ^ (w - s)) % 2 ^ w

/-- Leading zeros of W bits; W for zero (R101). -/
def clzBits (w v : Nat) : Nat := let x := v % 2 ^ w; if x = 0 then w else w - 1 - Nat.log2 x
/-- Trailing zeros of W bits; W for zero (R101). -/
def ctzBits (w v : Nat) : Nat :=
  let rec go : Nat → Nat → Nat → Nat
    | 0, _, n => n
    | k + 1, x, n => if x % 2 = 1 then n else go k (x / 2) (n + 1)
  go w (v % 2 ^ w) 0
/-- Count of 1 bits of W bits (R101). -/
def popBits (w v : Nat) : Nat :=
  let rec go : Nat → Nat → Nat → Nat
    | 0, _, n => n
    | k + 1, x, n => go k (x / 2) (n + x % 2)
  go w (v % 2 ^ w) 0
/-- The W bits in reverse order (R97). -/
def revBits (w v : Nat) : Nat :=
  let rec go : Nat → Nat → Nat → Nat
    | 0, _, r => r
    | k + 1, x, r => go k (x / 2) (r * 2 + x % 2)
  go w (v % 2 ^ w) 0
/-- The bytes of W bits in reverse order (R97). -/
def swapBytes (w v : Nat) : Nat :=
  let rec go : Nat → Nat → Nat → Nat
    | 0, _, r => r
    | k + 1, x, r => go k (x / 256) (r * 256 + x % 256)
  go (w / 8) (v % 2 ^ w) 0

/-- The field width of BFX and BFI: min(len, 64 - pos) (R102). -/
def fieldSpec (spec : Word) : Nat × Nat :=
  let pos := spec.toNat % 64
  let len := spec.toNat / 256 % 128
  (pos, Nat.min len (64 - pos))
/-- BFX (R102). -/
def bfx (x spec : Word) : Word :=
  let (pos, w) := fieldSpec spec
  BitVec.ofNat 64 (x.toNat / 2 ^ pos % 2 ^ w)
/-- BFI (R102). -/
def bfi (x y spec : Word) : Word :=
  let (pos, w) := fieldSpec spec
  let m : Word := BitVec.ofNat 64 ((2 ^ w - 1) * 2 ^ pos)
  (x &&& ~~~m) ||| ((y <<< pos) &&& m)

/-- Integer comparison under a condition (R74); two integers are never unordered. -/
def condInt (c : Cond) (x y : Int) : Bool :=
  match c with
  | .eq => decide (x = y) | .ne => decide (x ≠ y) | .lt => decide (x < y) | .le => decide (x ≤ y)
  | .gt => decide (y < x) | .ge => decide (y ≤ x) | .un => false

/-- CMPI: 64-bit values, signedness from the condition (R74, R104). -/
def condImm (c : CondI) (x y : Word) : Bool :=
  match c with
  | .eq => decide (x = y) | .ne => decide (x ≠ y)
  | .lt => decide (x.toInt < y.toInt) | .le => decide (x.toInt ≤ y.toInt)
  | .gt => decide (y.toInt < x.toInt) | .ge => decide (y.toInt ≤ x.toInt)
  | .ltu => decide (x.toNat < y.toNat) | .leu => decide (x.toNat ≤ y.toNat)
  | .gtu => decide (y.toNat < x.toNat) | .geu => decide (y.toNat ≤ x.toNat)

/-! ## Floating values -/

/-- A decoded value: NaN (signalling or not), an infinity, or the finite (-1)^neg x m x 2^e, zero having m = 0. -/
inductive Num where
  | nan (signalling : Bool)
  | inf (neg : Bool)
  | fin (neg : Bool) (m : Nat) (e : Int)
  deriving DecidableEq, Repr

/-- A format of R40: exponent bits, fraction bits, emin, the largest finite value as maxM x 2^maxE. -/
structure Fmt where
  expBits : Nat
  frac : Nat
  emin : Int
  maxM : Nat
  maxE : Int
  hasInf : Bool
  deriving DecidableEq, Repr

/-- R40, row by row; the types without a row take .f64's. -/
def fmt : Ty → Fmt
  | .f32 => ⟨8, 23, -126, 2 ^ 24 - 1, 104, true⟩
  | .f16 => ⟨5, 10, -14, 2 ^ 11 - 1, 5, true⟩
  | .bf16 => ⟨8, 7, -126, 2 ^ 8 - 1, 120, true⟩
  | .e5m2 => ⟨5, 2, -14, 7, 13, true⟩
  | .e4m3 => ⟨4, 3, -6, 14, 5, false⟩
  | .e3m2 => ⟨3, 2, -2, 7, 2, false⟩
  | .e2m3 => ⟨2, 3, 0, 15, -1, false⟩
  | .e2m1 => ⟨2, 1, 0, 3, 1, false⟩
  | _ => ⟨11, 52, -1022, 2 ^ 53 - 1, 971, true⟩

/-- The canonical NaN of a format (R42); the formats without one read +0 (R49). -/
def canonNaN : Ty → Nat
  | .f64 => 0x7FF8000000000000
  | .f32 => 0x7FC00000
  | .f16 => 0x7E00
  | .bf16 => 0x7FC0
  | .e5m2 => 0x7E
  | .e4m3 => 0x7F
  | .e8m0 => 0xFF
  | _ => 0

/-- The value of an encoding (R40, R41, R42). -/
def decodeNum (t : Ty) (bits : Nat) : Num :=
  match t with
  | .e8m0 => let c := bits % 256; if c = 255 then .nan false else .fin false 1 ((c : Int) - 127)
  | _ =>
    let f := fmt t
    let neg := decide (bits / 2 ^ (f.expBits + f.frac) % 2 = 1)
    let e := bits / 2 ^ f.frac % 2 ^ f.expBits
    let m := bits % 2 ^ f.frac
    if e = 0 then .fin neg m (f.emin - f.frac)
    else if e = 2 ^ f.expBits - 1 ∧ f.hasInf then
      (if m = 0 then .inf neg else .nan (decide (m < 2 ^ (f.frac - 1))))
    else if t = .e4m3 ∧ e = 15 ∧ m = 7 then .nan false
    else .fin neg (2 ^ f.frac + m) (f.emin + (e : Int) - 1 - f.frac)

/-- The sign bit of an encoding. -/
def signBit (t : Ty) (neg : Bool) : Nat := if neg then 2 ^ ((fmt t).expBits + (fmt t).frac) else 0

/-- The encoding of infinity. -/
def encodeInf (t : Ty) (neg : Bool) : Nat := signBit t neg + (2 ^ (fmt t).expBits - 1) * 2 ^ (fmt t).frac

/-- The encoding of r x 2^k, a value on the format's grid with r at most 2^p. -/
def encodeFin (t : Ty) (neg : Bool) (r : Nat) (k : Int) : Nat :=
  let f := fmt t
  let (r, k) := if r = 2 ^ (f.frac + 1) then (r / 2, k + 1) else (r, k)
  if r < 2 ^ f.frac then signBit t neg + r
  else signBit t neg + (k + f.frac - f.emin + 1).toNat * 2 ^ f.frac + (r - 2 ^ f.frac)

/-- The encoding of MAXF (R40). -/
def encodeMax (t : Ty) (neg : Bool) : Nat :=
  encodeFin t neg (fmt t).maxM (fmt t).maxE

/-- A rounding mode with the random value of SR (R45, R47). -/
inductive Mode where
  | rne | rtz | rup | rdn
  | sr (r n : Nat)
  deriving DecidableEq, Repr

/-- The modes that carry no random value. -/
def rmMode : RM → Mode
  | .rne => .rne | .rtz => .rtz | .rup => .rup | .rdn => .rdn

/-- Grid of R46 in units of 2^k: the rounded magnitude and whether it is inexact. -/
def grid (neg : Bool) (m : Nat) (e k : Int) (mode : Mode) : Nat × Bool :=
  if k ≤ e then (m * 2 ^ (e - k).toNat, false)
  else
    let d := (k - e).toNat
    let lo := m / 2 ^ d
    let rest := m % 2 ^ d
    if rest = 0 then (lo, false)
    else
      let up : Bool := match mode with
        | .rne => decide (2 ^ d < 2 * rest) || (decide (2 * rest = 2 ^ d) && decide (lo % 2 = 1))
        | .rtz => false
        | .rup => !neg
        | .rdn => neg
        | .sr r n => decide (2 ^ n ≤ rest * 2 ^ n / 2 ^ d + r)
      (if up then lo + 1 else lo, true)

/-- floor(log2(m x 2^e)) for m not zero. -/
def binade (m : Nat) (e : Int) : Int := (Nat.log2 m : Int) + e

/-- Whether r x 2^k is above m x 2^e. -/
def scaledGt (r : Nat) (k : Int) (m : Nat) (e : Int) : Bool :=
  if e ≤ k then decide (m < r * 2 ^ (k - e).toNat) else decide (m * 2 ^ (e - k).toNat < r)

/-- Overflow of R48. -/
def overflow (t : Ty) (neg : Bool) (mode : Mode) (sat : Bool) : Nat × Fl :=
  if sat then (encodeMax t neg, Fl.sat ||| Fl.nx)
  else if t = .e3m2 ∨ t = .e2m3 ∨ t = .e2m1 then (encodeMax t neg, Fl.sat ||| Fl.nx)
  else if t = .e4m3 then (0x7F, Fl.of ||| Fl.nx)
  else if mode = .rtz ∨ (mode = .rup ∧ neg) ∨ (mode = .rdn ∧ !neg) then (encodeMax t neg, Fl.of ||| Fl.nx)
  else (encodeInf t neg, Fl.of ||| Fl.nx)

/-- Special of R49 for the targets with a fraction. -/
def special (t : Ty) (x : Num) (sat : Bool) : Nat × Fl :=
  match x with
  | .nan s =>
    if t = .e3m2 ∨ t = .e2m3 ∨ t = .e2m1 then (0, Fl.nv) else (canonNaN t, Fl.when s Fl.nv)
  | .inf neg =>
    if (fmt t).hasInf then (encodeInf t neg, 0)
    else if t = .e4m3 ∧ !sat then (0x7F, Fl.nv)
    else (encodeMax t neg, Fl.sat)
  | .fin neg _ _ => (signBit t neg, 0)

/-- RoundTo of R46, for a format with a fraction. -/
def roundTo (t : Ty) (x : Num) (mode : Mode) (sat : Bool) : Nat × Fl :=
  match x with
  | .fin neg m e =>
    if m = 0 then (signBit t neg, 0)
    else
      let f := fmt t
      let b := binade m e
      let k := max b f.emin - f.frac
      let (r, inexact) := grid neg m e k mode
      if scaledGt r k f.maxM f.maxE then overflow t neg mode sat
      else
        let (r', _) := grid neg m e (b - f.frac) mode
        let tiny := inexact && !(scaledGt r' (b - f.frac) 1 f.emin || decide (r' = 2 ^ f.frac ∧ b = f.emin) ||
          decide (r' = 2 ^ (f.frac + 1) ∧ b + 1 = f.emin))
        (encodeFin t neg r k, Fl.when inexact Fl.nx ||| Fl.when tiny Fl.uf)
  | x => special t x sat

/-- Sources that signal (R42). -/
def Num.signals : Num → Bool
  | .nan s => s
  | _ => false
def Num.isNaN : Num → Bool
  | .nan _ => true
  | _ => false
/-- NV for a signalling source (R42). -/
def nvOf (l : List Num) : Fl := Fl.when (l.any Num.signals) Fl.nv

def Num.negate : Num → Num
  | .nan s => .nan s
  | .inf n => .inf (!n)
  | .fin n m e => .fin (!n) m e
def Num.neg : Num → Bool
  | .nan _ => false
  | .inf n => n
  | .fin n _ _ => n
def Num.isZero : Num → Bool
  | .fin _ 0 _ => true
  | _ => false

/-- The signed mantissa at an exponent not above the value's own. -/
def scaledInt (neg : Bool) (m : Nat) (e k : Int) : Int :=
  let v : Int := (m * 2 ^ (e - k).toNat : Nat)
  if neg then -v else v

/-- Exact sum (R42, R106): the sum of opposite infinities is NaN with NV; an exact zero from values that are not zeros of one
sign is +0, or -0 under RDN. -/
def addNum (rdn : Bool) (a b : Num) : Num × Fl :=
  match a, b with
  | .nan _, _ => (.nan false, nvOf [a, b])
  | _, .nan _ => (.nan false, nvOf [a, b])
  | .inf n, .inf n' => if n = n' then (.inf n, 0) else (.nan false, Fl.nv)
  | .inf n, .fin _ _ _ => (.inf n, 0)
  | .fin _ _ _, .inf n => (.inf n, 0)
  | .fin n m e, .fin n' m' e' =>
    if m = 0 ∧ m' = 0 then (.fin (if n = n' then n else rdn) 0 0, 0)
    else if m = 0 then (b, 0)
    else if m' = 0 then (a, 0)
    else
      let k := min e e'
      let v := scaledInt n m e k + scaledInt n' m' e' k
      if v = 0 then (.fin rdn 0 0, 0) else (.fin (decide (v < 0)) v.natAbs k, 0)

/-- Exact product; 0 x infinity is NaN with NV (R42). -/
def mulNum (a b : Num) : Num × Fl :=
  match a, b with
  | .nan _, _ => (.nan false, nvOf [a, b])
  | _, .nan _ => (.nan false, nvOf [a, b])
  | .inf n, .inf n' => (.inf (n != n'), 0)
  | .inf n, .fin n' m _ => if m = 0 then (.nan false, Fl.nv) else (.inf (n != n'), 0)
  | .fin n m _, .inf n' => if m = 0 then (.nan false, Fl.nv) else (.inf (n != n'), 0)
  | .fin n m e, .fin n' m' e' => (.fin (n != n') (m * m') (e + e'), 0)

/-- A quotient of magnitudes: 70 bits or more and a sticky bit. -/
def quotient (neg : Bool) (m : Nat) (e : Int) (m' : Nat) (e' : Int) : Num :=
  let s := 72 + Nat.log2 m' - Nat.log2 m
  let n := m * 2 ^ s
  .fin neg (2 * (n / m') + (if n % m' = 0 then 0 else 1)) (e - e' - s - 1)

/-- The quotient of R53 and R107. -/
def divNum (a b : Num) : Num × Fl :=
  match a, b with
  | .nan _, _ => (.nan false, nvOf [a, b])
  | _, .nan _ => (.nan false, nvOf [a, b])
  | .inf _, .inf _ => (.nan false, Fl.nv)
  | .inf n, .fin n' _ _ => (.inf (n != n'), 0)
  | .fin n _ _, .inf n' => (.fin (n != n') 0 0, 0)
  | .fin n m e, .fin n' m' e' =>
    if m' = 0 then (if m = 0 then (.nan false, Fl.nv) else (.inf (n != n'), Fl.dz))
    else if m = 0 then (.fin (n != n') 0 0, 0)
    else (quotient (n != n') m e m' e', 0)

/-- floor of the square root, by its bits from the given one down. -/
def isqrt (n : Nat) : Nat :=
  let rec go : Nat → Nat → Nat
    | 0, r => r
    | k + 1, r => let r' := r + 2 ^ k; go k (if r' * r' ≤ n then r' else r)
  go (Nat.log2 n / 2 + 1) 0

/-- The square root of R53. -/
def sqrtNum : Num → Num × Fl
  | .nan s => (.nan false, Fl.when s Fl.nv)
  | .inf false => (.inf false, 0)
  | .inf true => (.nan false, Fl.nv)
  | .fin n m e =>
    if m = 0 then (.fin n 0 0, 0)
    else if n then (.nan false, Fl.nv)
    else
      let s := 144 - Nat.log2 m
      let s := if (e - s) % 2 = 0 then s else s + 1
      let v := m * 2 ^ s
      let r := isqrt v
      (.fin false (2 * r + (if r * r = v then 0 else 1)) ((e - s) / 2 - 1), 0)

/-- 1 / sqrt(x) of R53. -/
def rsqrtNum : Num → Num × Fl
  | .nan s => (.nan false, Fl.when s Fl.nv)
  | .inf false => (.fin false 0 0, 0)
  | .inf true => (.nan false, Fl.nv)
  | .fin n m e =>
    if m = 0 then (.inf n, Fl.dz)
    else if n then (.nan false, Fl.nv)
    else
      let (m, e) := if e % 2 = 0 then (m, e) else (2 * m, e - 1)
      let k := 72 + Nat.log2 m
      let r := isqrt (2 ^ (2 * k) / m)
      (.fin false (2 * r + (if r * r * m = 2 ^ (2 * k) then 0 else 1)) (-(k : Int) - e / 2 - 1), 0)

/-- Bits carried while 2^f is formed. -/
def expBitsCarried : Nat := 320

/-- 2^f in units of 2^-320, f having `n` fraction bits in `f`: the product of the roots 2^(1/2), 2^(1/4), ... that f's bits
select. -/
def exp2Frac (f n : Nat) : Nat :=
  let rec go : Nat → Nat → Nat → Nat
    | 0, _, acc => acc
    | i + 1, root, acc =>
      let root' := isqrt (root * 2 ^ expBitsCarried)
      go i root' (if f / 2 ^ i % 2 = 1 then acc * root' / 2 ^ expBitsCarried else acc)
  go n (2 * 2 ^ expBitsCarried) (2 ^ expBitsCarried)

/-- 2^x of R53. The leading 320 bits decide the rounding (UNVERIFIED that they always do: notes/assumptions/4.md). -/
def exp2Num : Num → Num × Fl
  | .nan s => (.nan false, Fl.when s Fl.nv)
  | .inf false => (.inf false, 0)
  | .inf true => (.fin false 0 0, 0)
  | .fin n m e =>
    if m = 0 then (.fin false 1 0, 0)
    else if 13 ≤ binade m e then (.fin false 3 (if n then -8000 else 8000), 0)
    else if 0 ≤ e then
      let v : Int := (m * 2 ^ e.toNat : Nat)
      (.fin false 1 (if n then -v else v), 0)
    else
      let d := (-e).toNat
      if m % 2 ^ d = 0 then
        let v : Int := (m / 2 ^ d : Nat)
        (.fin false 1 (if n then -v else v), 0)
      else if binade m e < -100 then
        (if n then .fin false (2 ^ 200 - 1) (-200) else .fin false (2 ^ 200 + 1) (-200), 0)
      else
        let v : Int := if n then -(m : Int) else m
        let whole := v / (2 ^ d : Int)
        let part := (v % (2 ^ d : Int)).toNat
        (.fin false (2 * exp2Frac part d + 1) (whole - expBitsCarried - 1), 0)

/-- The first 240 fraction bits of log2 of y, y in [1, 2) in units of 2^-600. -/
def log2Frac (y : Nat) : Nat :=
  let rec go : Nat → Nat → Nat → Nat
    | 0, _, acc => acc
    | i + 1, y, acc =>
      let z := y * y / 2 ^ 600
      if 2 ^ 601 ≤ z then go i (z / 2) (2 * acc + 1) else go i z (2 * acc)
  go 240 y 0

/-- log2 x of R53. The leading 240 bits decide the rounding (UNVERIFIED that they always do: notes/assumptions/4.md). -/
def log2Num : Num → Num × Fl
  | .nan s => (.nan false, Fl.when s Fl.nv)
  | .inf false => (.inf false, 0)
  | .inf true => (.nan false, Fl.nv)
  | .fin n m e =>
    if m = 0 then (.inf true, Fl.dz)
    else if n then (.nan false, Fl.nv)
    else
      let b := binade m e
      if m = 2 ^ Nat.log2 m then (.fin (decide (b < 0)) b.natAbs 0, 0)
      else
        let l := log2Frac (m * 2 ^ (600 - Nat.log2 m))
        let v := b * 2 ^ 240 + (l : Int)
        if 0 ≤ v then (.fin false (2 * v.toNat + 1) (-241), 0)
        else (.fin true (2 * (v.natAbs - 1) + 1) (-241), 0)

/-- Ordering; none where a NaN takes part (R43). -/
def cmpNum (a b : Num) : Option Ordering :=
  match a, b with
  | .nan _, _ | _, .nan _ => none
  | .inf n, .inf n' => some (if n = n' then .eq else if n then .lt else .gt)
  | .inf n, .fin _ _ _ => some (if n then .lt else .gt)
  | .fin _ _ _, .inf n => some (if n then .gt else .lt)
  | .fin n m e, .fin n' m' e' =>
    let k := min e e'
    some (compare (scaledInt n m e k) (scaledInt n' m' e' k))

/-- A floating condition (R74, R108). -/
def condNum (c : Cond) (a b : Num) : Bool :=
  match c, cmpNum a b with
  | .un, o => o.isNone
  | .ne, none => true
  | _, none => false
  | .eq, some o => o == .eq
  | .ne, some o => o != .eq
  | .lt, some o => o == .lt
  | .le, some o => o != .gt
  | .gt, some o => o == .gt
  | .ge, some o => o != .lt

/-- Minimum or maximum of R43. -/
def minMaxNum (wantMax : Bool) (a b : Num) : Num :=
  match cmpNum a b with
  | none => if a.isNaN && b.isNaN then .nan false else if a.isNaN then b else a
  | some .lt => if wantMax then b else a
  | some .gt => if wantMax then a else b
  | some .eq => if a.neg = wantMax then b else a

/-- A value that is a result of its own format: NaN becomes canonical (R42). -/
def encodeSame (t : Ty) (x : Num) : Nat := (roundTo t x .rne false).1

/-- x rounded to an integer magnitude in a mode (R50, R111). -/
def roundInt (neg : Bool) (m : Nat) (e : Int) (mode : Mode) : Nat × Bool := grid neg m e 0 mode

/-- FRND (R111). -/
def frnd (t : Ty) (bits : Nat) (mode : Mode) : Nat × Fl :=
  match decodeNum t bits with
  | .nan s => (canonNaN t, Fl.when s Fl.nv)
  | .inf n => (encodeInf t n, 0)
  | .fin n m e =>
    if m = 0 ∨ 0 ≤ e then (bits % 2 ^ t.width, 0)
    else
      let (r, inexact) := roundInt n m e mode
      ((roundTo t (.fin n r 0) .rne false).1, Fl.when inexact Fl.nx)

/-- The class mask of R110. -/
def fclass (t : Ty) (bits : Nat) : Nat :=
  match decodeNum t bits with
  | .nan s => if s then 2 ^ 8 else 2 ^ 9
  | .inf n => if n then 2 ^ 0 else 2 ^ 7
  | .fin n m e =>
    if m = 0 then (if n then 2 ^ 3 else 2 ^ 4)
    else if binade m e < (fmt t).emin then (if n then 2 ^ 2 else 2 ^ 5)
    else (if n then 2 ^ 1 else 2 ^ 6)

/-! ## Conversions (R50) -/

/-- To .e8m0: p = 1, emin = -127, no subnormals (R50). -/
def toE8 (x : Num) (mode : Mode) : Nat × Fl :=
  match x with
  | .nan _ => (0xFF, Fl.nv)
  | .inf neg => if neg then (0xFF, Fl.nv) else (0xFE, Fl.sat)
  | .fin neg m e =>
    if m = 0 ∨ neg then (0xFF, Fl.nv)
    else
      let b := binade m e
      if b < -127 then (0, Fl.sat ||| Fl.nx)
      else
        let (r, inexact) := grid false m e b mode
        let c := if r = 2 then b + 1 else b
        if 127 < c then (0xFE, Fl.sat ||| Fl.nx) else ((c + 127).toNat, Fl.when inexact Fl.nx)

/-- To an integer type (R50). -/
def toIntTy (t : Ty) (x : Num) (mode : Mode) : Int × Fl :=
  match x with
  | .nan _ => (0, Fl.nv)
  | .inf neg => (if neg then minInt t else maxInt t, Fl.nv ||| Fl.sat)
  | .fin neg m e =>
    -- a magnitude of 2^64 or more lies outside every integer type
    if m ≠ 0 ∧ 65 ≤ binade m e then (if neg then minInt t else maxInt t, Fl.nv ||| Fl.sat)
    else
      let (r, inexact) := roundInt neg m e mode
      let v : Int := if neg then -(r : Int) else r
      if v < minInt t then (minInt t, Fl.nv ||| Fl.sat)
      else if maxInt t < v then (maxInt t, Fl.nv ||| Fl.sat)
      else (v, Fl.when inexact Fl.nx)

/-- Conversion between two types (R50, R109, R122): the bits of the destination at its width. An integer goes into a wider one with its sign or with
zeros, whatever .sat says. R50 has no row for an integer into .e8m0, for .e8m0 into an integer type, or for two integer types of one width: DEDUCED
(notes/assumptions/53.md) that the first two go by the rule for floating sources, and that .sat clamps in the third, as R109 has it. -/
def convert (dt st : Ty) (sat : Bool) (mode : Mode) (bits : Nat) : Nat × Fl :=
  if st.isInt then
    let v := intSrc st bits
    if dt.isInt then
      let (v, f) := finishInt dt (sat && decide (dt.width ≤ st.width)) v
      (putLane dt v, f)
    else
      let x : Num := .fin (decide (v < 0)) v.natAbs 0
      if dt = .e8m0 then toE8 x mode else roundTo dt x mode sat
  else
    let x := decodeNum st bits
    if dt.isInt then
      let (v, f) := toIntTy dt x mode
      (putLane dt v, f)
    else if dt = st then
      match x with
      | .nan s => (canonNaN dt, Fl.when s Fl.nv)
      | _ => (bits % 2 ^ dt.width, 0)
    else if dt = .e8m0 then toE8 x mode
    else roundTo dt x mode sat

/-- VCVT on stepping A1: a lane that is exactly 1.5 x 2^e rounds down under RNE into .e8m0 (R439). -/
def convertVcvt (dt st : Ty) (sat : Bool) (mode : Mode) (bits : Nat) : Nat × Fl :=
  if dt = .e8m0 ∧ st.inF ∧ mode = .rne then
    match decodeNum st bits with
    | .fin false m e =>
      let b := binade m e
      if m ≠ 0 ∧ m * 2 = 3 * 2 ^ Nat.log2 m ∧ -127 ≤ b ∧ b ≤ 126 then ((b + 127).toNat, Fl.nx)
      else convert dt st sat mode bits
    | _ => convert dt st sat mode bits
  else convert dt st sat mode bits

/-! ## Operations on encodings -/

/-- The two-source operations of R106 and R107. -/
inductive FloatOp where
  | add | sub | mul | div
  deriving DecidableEq, Repr

/-- One rounding of the exact result (R106, R107). -/
def floatOp (op : FloatOp) (t : Ty) (mode : Mode) (a b : Nat) : Nat × Fl :=
  let x := decodeNum t a
  let y := decodeNum t b
  let (r, f) := match op with
    | .add => addNum (decide (mode = .rdn)) x y
    | .sub => addNum (decide (mode = .rdn)) x y.negate
    | .mul => mulNum x y
    | .div => divNum x y
  let (v, f') := roundTo t r mode false
  (v, f ||| f')

/-- FFMA: one rounding of the exact product and sum (R55). With 0 x infinity and a quiet NaN addend the result is NaN and NV is
not set (DEDUCED, notes/assumptions/5.md). -/
def fmaOp (t : Ty) (mode : Mode) (a b c : Nat) : Nat × Fl :=
  let x := decodeNum t a
  let y := decodeNum t b
  let z := decodeNum t c
  let nv := nvOf [x, y, z]
  if x.isNaN || y.isNaN || z.isNaN then (canonNaN t, nv)
  else
    let (p, f) := mulNum x y
    let (r, f') := addNum (decide (mode = .rdn)) p z
    let (v, f'') := roundTo t r mode false
    (v, f ||| f' ||| f'')

/-- The one-source functions of R53. -/
inductive FloatFn where
  | sqrt | rcp | rsq | exp2 | log2
  deriving DecidableEq, Repr

/-- Correctly rounded functions (R53). -/
def floatFn (fn : FloatFn) (t : Ty) (mode : Mode) (a : Nat) : Nat × Fl :=
  let x := decodeNum t a
  let (r, f) := match fn with
    | .sqrt => sqrtNum x
    | .rcp => divNum (.fin false 1 0) x
    | .rsq => rsqrtNum x
    | .exp2 => exp2Num x
    | .log2 => log2Num x
  let (v, f') := roundTo t r mode false
  (v, f ||| f')

/-- FMIN and FMAX (R43, R108). -/
def floatMinMax (wantMax : Bool) (t : Ty) (a b : Nat) : Nat × Fl :=
  let x := decodeNum t a
  let y := decodeNum t b
  (encodeSame t (minMaxNum wantMax x y), nvOf [x, y])

/-- FCMP (R108). -/
def floatCmp (c : Cond) (t : Ty) (a b : Nat) : Bool × Fl :=
  let x := decodeNum t a
  let y := decodeNum t b
  (condNum c x y, nvOf [x, y])

/-- Two floating values added with RNE: Combine of R56 and R58, and .fadd of R75. -/
def faddRne (t : Ty) (a b : Nat) : Nat × Fl := floatOp .add t .rne a b

/-- Combine of R56 on encodings at the type's width. -/
def combine (op : RedOp) (t : Ty) (a b : Nat) : Nat × Fl :=
  if t.isInt then
    let x := intSrc t a
    let y := intSrc t b
    match op with
    | .add => (putLane t (x + y), 0)
    | .min => (putLane t (min x y), 0)
    | .max => (putLane t (max x y), 0)
    | .and => (Nat.land (a % 2 ^ t.width) (b % 2 ^ t.width), 0)
    | .or => (Nat.lor (a % 2 ^ t.width) (b % 2 ^ t.width), 0)
    | .xor => (Nat.xor (a % 2 ^ t.width) (b % 2 ^ t.width), 0)
  else
    match op with
    | .min => floatMinMax false t a b
    | .max => floatMinMax true t a b
    | .add | .and | .or | .xor => faddRne t a b

/-- A value that is a result as it stands: a NaN becomes the canonical NaN, and a signalling one sets NV (R42). -/
def passValue (t : Ty) (x : Nat) : Nat × Fl :=
  if t.isInt then (x, 0)
  else
    match decodeNum t x with
    | .nan s => (canonNaN t, Fl.when s Fl.nv)
    | .inf .. | .fin .. => (x, 0)

/-- One atomic operation at width W = 8 x size (R75, R136): the new value and, for .fadd, the flags. -/
def atomic (op : AtomOp) (bytes old v cmp : Nat) : Nat × Fl :=
  let w := 8 * bytes
  let o := old % 2 ^ w
  let x := v % 2 ^ w
  let st : Ty := if bytes = 4 then .s32 else .s64
  match op with
  | .swap => (x, 0)
  | .cas => (if o = cmp % 2 ^ w then x else o, 0)
  | .add => ((o + x) % 2 ^ w, 0)
  | .and => (Nat.land o x, 0)
  | .or => (Nat.lor o x, 0)
  | .xor => (Nat.xor o x, 0)
  | .min => (if intSrc st o ≤ intSrc st x then o else x, 0)
  | .max => (if intSrc st o ≤ intSrc st x then x else o, 0)
  | .minu => (Nat.min o x, 0)
  | .maxu => (Nat.max o x, 0)
  | .fadd => faddRne (if bytes = 4 then .f32 else .f64) o x

/-! ## Sums of products (R59) -/

/-- The exact sum of R59: NaN if any product is NaN or both infinities occur; -0 only when every product is -0. -/
def sumProducts (ps : List Num) : Num × Fl :=
  let zero : Num := .fin (ps.all fun p => p.isZero && p.neg) 0 0
  let anyNaN := ps.any Num.isNaN
  let pos := ps.any fun p => decide (p = .inf false)
  let ng := ps.any fun p => decide (p = .inf true)
  if anyNaN then (.nan false, 0)
  else if pos && ng then (.nan false, Fl.nv)
  else if pos then (.inf false, 0)
  else if ng then (.inf true, 0)
  else
    let s := ps.foldl (fun acc p => if p.isZero then acc else (addNum false acc p).1) (.fin false 0 0)
    (if s.isZero then zero else s, 0)

/-- A value multiplied by 2^k, exactly (R52). -/
def Num.scale (x : Num) (k : Int) : Num :=
  match x with
  | .fin n m e => .fin n m (e + k)
  | x => x

/-- A value under a block scale (R52). -/
def scaled (x : Num) (scale : Nat) : Num :=
  if scale % 256 = 255 then .nan false else x.scale ((scale % 256 : Nat) - 127 : Int)

/-- acc + S rounded once (R59, R121). -/
def accumulate (mode : Mode) (acc : Nat) (ps : List Num) : Nat × Fl :=
  let (s, f) := sumProducts ps
  let a := decodeNum .f32 acc
  let (r, f') := addNum (decide (mode = .rdn)) a s
  let (v, f'') := roundTo .f32 r mode false
  (v, f ||| f' ||| f'')

/-- The integer accumulator of R59 and R121: .s32, wrapping. -/
def accumulateInt (acc : Nat) (s : Int) : Nat := ((intSrc .s32 acc + s) % (2 ^ 32 : Int)).toNat

/-! ## KCG10 (R60, R61) -/

def rotl32 (x : BitVec 32) (n : Nat) : BitVec 32 := x.rotateLeft n

/-- One round of KCG10 (R60). -/
def kcgRound (k0 k1 : BitVec 32) (i : Nat) (c : BitVec 32 × BitVec 32 × BitVec 32 × BitVec 32) :
    BitVec 32 × BitVec 32 × BitVec 32 × BitVec 32 :=
  let (x0, x1, x2, x3) := c
  let x0 := x0 + x1 + (if i % 2 = 0 then k0 else k1)
  let x3 := rotl32 (x3 ^^^ x0) 16
  let x2 := x2 + x3
  let x1 := rotl32 (x1 ^^^ x2) 12
  let x0 := x0 + x1
  let x3 := rotl32 (x3 ^^^ x0) 8
  let x2 := x2 + x3 + BitVec.ofNat 32 (0x9E3779B9 * (i + 1))
  let x1 := rotl32 (x1 ^^^ x2) 7
  (x0, x1, x2, x3)

/-- KCG10 (R60): the four words, word 0 first. -/
def kcg10 (block stream key : Word) : List (BitVec 32) :=
  let c0 := block.setWidth 32
  let c1 := (block >>> 32).setWidth 32
  let c2 := stream.setWidth 32
  let c3 := (stream >>> 32).setWidth 32
  let k0 := key.setWidth 32
  let k1 := (key >>> 32).setWidth 32
  let (x0, x1, x2, x3) := (List.range 10).foldl (fun c i => kcgRound k0 k1 i c) (c0, c1, c2, c3)
  [x0 + c0, x1 + c1, x2 ^^^ k0, x3 ^^^ k1]

end Sys2Proof.Machine
end

