-- ==== Sys2Proof/Machine/Flags.lean ====
section
/-! DEFINITION. The flag register of a seat (R33), its merge, the exception enables of the context (R360), and the masks of R31. -/

namespace Sys2Proof.Machine

/-- Flags merge by OR when the instruction retires (R33). -/
def Threadlet.merge (t : Threadlet) (f : Fl) : Threadlet := { t with flags := t.flags ||| f }

/-- Flags whose exception the context enables: FEN's bit i enables bit i of the register (R360). -/
def State.enabledFlags (s : State) (ctx : Nat) (f : Fl) : Fl := f &&& (s.ctx ctx).fen.setWidth 6

/-- FLAGS of a trap record, and the value that FLAGS reads: zero-extended (R188, R375). -/
def flagsWord (f : Fl) : Word := f.setWidth 64

/-- The named mask register: k0 reads all ones (R23, R24). -/
def Threadlet.mask (t : Threadlet) (n : Fin 8) : Word := if n = 0 then BitVec.allOnes 64 else Tab.get 0 t.k n.val

/-- The guard's mask, negated where bit 3 is set (R31). -/
def Threadlet.guardMask (t : Threadlet) (g : Guard) : Word := if g.neg then ~~~(t.mask g.k) else t.mask g.k

/-- Whether the instruction executes: bit 0 for a scalar guard, any active lane for a lane mask (R31, R114). -/
def guardTrue (m : Word) : GuardUse → Bool
  | .scalar => m.getLsbD 0
  | .lanes n => decide (m.toNat % 2 ^ n ≠ 0)

/-- The merge of per-lane flags. -/
def orFlags (l : List Fl) : Fl := l.foldl (· ||| ·) 0

end Sys2Proof.Machine
end

