-- ==== Sys2Proof/Machine/Operands.lean ====
section
/-! DEFINITION. Reading and writing operands (R24 to R30, R89 to R91, R113): scalars, masks, frame words, vector lanes, and the checks
of what a source holds (R415, R419). -/

namespace Sys2Proof.Machine

/-- A seat's view: the seat, and the threadlet it runs. -/
structure View where
  seat : SeatId
  t : Threadlet
  deriving DecidableEq, Repr

/-- A scalar or mask source (R24); frame words and the cycle counter as of the issue (R28, R30, R91). -/
def State.readOp (s : State) (v : View) : Operand → Word
  | .w n => Tab.get 0 v.t.w n.val
  | .k n => v.t.mask n
  | .v _ => 0
  | .zr => 0
  | .fp => s.fpOf v.t.ref
  | .ltn => BitVec.ofNat 64 v.t.ltn
  | .core => BitVec.ofNat 64 v.t.core
  | .seat => BitVec.ofNat 64 v.seat.seat
  | .ctx => BitVec.ofNat 64 v.t.ctx
  | .cyc =>
    (match v.t.mid with
     | some m => m.cyc
     | none => (s.coreAt v.seat.ptn v.seat.core).cyc)
  | .sig => v.t.sig
  | .lr => v.t.lr
  | .f n =>
    match v.t.mid with
    | some m => Tab.get 0 m.words n.val
    | none => ((s.frame v.t.ref).map fun f => f.word n.val).getD 0

/-- The words of a frame and their poison marks as an instruction that has issued saw them (R30, R181). -/
def Threadlet.asIssued (t : Threadlet) (f : Frame) : Frame :=
  match t.mid with
  | some m => { f with words := m.words, poison := m.poison }
  | none => f

/-- A scalar or mask destination: a write to zr is discarded, and the read-only specials are never written (R24). A register written
anew has good parity (R419). -/
def writeOp (s : State) (t : Threadlet) (o : Operand) (x : Word) : State × Threadlet :=
  match o with
  | .w n => (s, { t with w := Tab.set 0 t.w n.val x, bad := t.bad.filter (· ≠ .w n) })
  | .k n => if n = 0 then (s, t) else (s, { t with k := Tab.set 0 t.k n.val x, bad := t.bad.filter (· ≠ .k n) })
  | .lr => (s, { t with lr := x, bad := t.bad.filter (· ≠ .lr) })
  | .f n => (s.modFrame t.ref fun f => f.setWord n.val x, t)
  | .zr | .v _ | .fp | .ltn | .core | .seat | .ctx | .cyc | .sig => (s, t)

/-- A vector register. -/
def Threadlet.vec (t : Threadlet) : Operand → BitVec 512
  | .v n => Tab.get 0 t.v n.val
  | _ => 0
/-- A vector destination; its parity mark goes when the instruction retires, where it has written the whole register (R419). -/
def Threadlet.setVec (t : Threadlet) (o : Operand) (x : BitVec 512) : Threadlet :=
  match o with
  | .v n => { t with v := Tab.set 0 t.v n.val x }
  | _ => t

/-- Element j of w bits (R113). Six-bit elements pack without gaps, so the same rule places them. -/
def lane (v : BitVec 512) (w j : Nat) : Nat := v.toNat / 2 ^ (w * j) % 2 ^ w

/-- The register with element j of w bits replaced. -/
def setLane (v : BitVec 512) (w j x : Nat) : BitVec 512 :=
  BitVec.ofNat 512 (v.toNat - lane v w j * 2 ^ (w * j) + x % 2 ^ w * 2 ^ (w * j))

/-- Lane j is active (R31). -/
def active (m : Word) (j : Nat) : Bool := m.getLsbD j

/-- A lane by lane operation: active lanes below n take f, the others keep the old element; the flags of the active lanes merge. -/
def mapLanes (m : Word) (n w : Nat) (old : BitVec 512) (f : Nat → Nat × Fl) : BitVec 512 × Fl :=
  (List.range n).foldl (init := (old, 0)) fun acc j =>
    if active m j then
      let (x, fl) := f j
      (setLane acc.1 w j x, acc.2 ||| fl)
    else acc

/-- A mask with one bit per lane (R118). -/
def mapMask (m : Word) (n : Nat) (old : Word) (f : Nat → Bool × Fl) : Word × Fl :=
  let r := (List.range n).foldl (init := ((0 : Nat), (0 : Fl))) fun acc j =>
    if active m j then
      let (b, fl) := f j
      (acc.1 + (if b then 2 ^ j else 0), acc.2 ||| fl)
    else (acc.1 + (if old.getLsbD j then 2 ^ j else 0), acc.2)
  (BitVec.ofNat 64 r.1, r.2)

/-- Bytes of a vector register, byte i from bits [8i+7 : 8i] (R113). -/
def vecBytes (v : BitVec 512) : List Byte := leBytes 64 v.toNat
/-- The register of 64 bytes. -/
def vecOfBytes (l : List Byte) : BitVec 512 := BitVec.ofNat 512 (ofLeBytes l)

/-- The random value of SR for a scalar instruction: n = 32, from the operand's bits [31:0] (R47). -/
def State.mode (s : State) (v : View) : Rounding → Mode
  | .rm m => rmMode m
  | .sr r => .sr ((s.readOp v r).toNat % 2 ^ 32) 32

/-- The random value of SR in a lane, by the width of the source element (R47). -/
def laneMode (t : Threadlet) (w j : Nat) : Rounding → Mode
  | .rm m => rmMode m
  | .sr r =>
    if 32 ≤ w then .sr (lane (t.vec r) w j % 2 ^ 32) 32
    else if w = 16 then .sr (lane (t.vec r) 16 j) 16
    else .sr (lane (t.vec r) 8 j) 8

/-- The specifier of an operand, for the CODE of a machine check (R24, R375). -/
def specifier : Operand → Nat
  | .w n => n.val
  | .v n => 0x40 + n.val
  | .k n => 0x60 + n.val
  | .zr => 0x68
  | .fp => 0x69
  | .ltn => 0x6A
  | .core => 0x6B
  | .seat => 0x6C
  | .ctx => 0x6D
  | .cyc => 0x6E
  | .sig => 0x6F
  | .lr => 0x70
  | .f n => 0x80 + n.val

/-- Sources that an instruction reads. -/
def sourcesOf (h : Shape) : List Operand := (h.uses.filter fun u => u.role.reads).map (·.op)
/-- Frame words that an instruction names (check 7 of R76). -/
def frameIndices (h : Shape) : List Nat :=
  h.uses.filterMap fun u => match u.op with
    | .f n => some n.val
    | _ => none

/-- The first source register whose parity check fails (R419). -/
def Threadlet.badSource (t : Threadlet) (l : List Operand) : Option Operand := l.find? fun o => t.bad.contains o

/-- The first frame-word source that is poisoned (R415). -/
def State.poisonedSource (s : State) (t : Threadlet) (l : List Operand) : Option Nat :=
  let marks : List Nat := match t.mid with
    | some m => m.poison
    | none => ((s.frame t.ref).map fun f => f.poison).getD []
  l.findSome? fun o => match o with
    | .f n => if marks.contains n.val then some n.val else none
    | _ => none

end Sys2Proof.Machine
end

