-- ==== Sys2Proof/Machine/Ops.lean ====
section
/-! DEFINITION. The shared operations: the ready queue (R152, R155), signals and slots (R146 to R148), frames (R150, R176), taking a trap
(R376) and returning from one (R379), and outstanding requests with their completions (R170, R171, R215 to R218). -/

namespace Sys2Proof.Machine

/-! ## The ready queue -/

/-- QN of a frame (R142), an entry that waits for a place of the queue among them (notes/assumptions/52.md). -/
def PartCore.qn (c : PartCore) (frm : Nat) : Nat := (c.ready.filter fun e => e.frm = frm).length + (c.late.filter fun e => e.frm = frm).length

/-- The ready entries of a frame, those that wait for a place too, are removed (R150, R379). -/
def PartCore.dropEntries (c : PartCore) (frm : Nat) : PartCore :=
  { c with ready := c.ready.filter fun e => e.frm ≠ frm, late := c.late.filter fun e => e.frm ≠ frm }

/-- Places taken in a core's ready queue: entries, and places kept for tasks taken up (R152, R157). -/
def State.readyTaken (s : State) (ptn core : Nat) : Nat :=
  ((s.ctxsOn ptn).map fun e =>
    let c := s.partCore e.1 e.2 core
    c.ready.length + c.tasks.length).foldl (· + ·) 0

/-- Whether anything waits for a place of a core's ready queue. -/
def State.waitsForPlace (s : State) (ptn core : Nat) : Bool :=
  (s.ctxsOn ptn).any fun e => (s.partCore e.1 e.2 core).frames.any (fun f => f.2.ovf) || !(s.partCore e.1 e.2 core).late.isEmpty

/-- Whether the core's queue has room and its overflow bitmap is empty (R147). -/
def State.queueOpen (s : State) (ptn core : Nat) : Bool :=
  decide (s.readyTaken ptn core < Config.readyPlaces) &&
    !s.waitsForPlace ptn core

/-- The class of an entry: 0 system, 1 urgent, 2 normal, 3 background; URG raises normal and background by one (R152). -/
def readyClass (launchClass : Nat) (urg : Bool) : Nat :=
  match launchClass with
  | 0 => 0
  | 1 => if urg then 1 else 2
  | _ => if urg then 2 else 3

/-- Entries of a core that a pick may take, oldest first within each context: the tile resident, the weight not zero, the frame not PARKED, and
the tile's part of the kernel not ended (R153, R184, R376). On a part that has ended the threadlets that an eviction has stopped since go on
(R37, R184). -/
def State.eligible (s : State) (ptn core : Nat) : List (Nat × Nat × Ready) :=
  (s.ctxsOn ptn).flatMap fun e =>
    if (s.tme e.1 e.2).st = .resident ∧ (s.ctx e.1).weight ≠ 0 then
      ((s.partCore e.1 e.2 core).ready.filter fun x =>
        (x.stopped || !(s.part e.1 e.2).ended) && (s.frame ⟨e.1, e.2, core, x.frm⟩).any fun f => f.st = .live).map fun x => (e.1, e.2, x)
    else []

/-- Whether a core's queue holds an entry of a class at all. -/
def State.classHeld (s : State) (ptn core cls : Nat) : Bool :=
  (s.ctxsOn ptn).any fun e => (s.partCore e.1 e.2 core).ready.any fun x => x.cls = cls

/-- The rotations of a core as its eligible entries stand: a context without one leaves, with its deficit, and a context that has one
enters at the tail (R154); the gap of an empty class is zero (R153). -/
def State.settleRot (s : State) (ptn core : Nat) : State :=
  let l := s.eligible ptn core
  let has (cls ctx : Nat) : Bool := l.any fun x => decide (x.1 = ctx) && decide (x.2.2.cls = cls)
  let c := s.coreAt ptn core
  let keep : List Rot := c.rot.filter fun x => has x.cls x.ctx
  let new : List Rot := (s.ctxsOn ptn).flatMap fun e =>
    ((List.range 4).filter fun cls => has cls e.1 && !keep.any fun x => decide (x.cls = cls) && decide (x.ctx = e.1)).map fun cls => ⟨cls, e.1, 0⟩
  s.setCore ptn core { c with
    rot := keep ++ new
    nGap := if s.classHeld ptn core 2 then c.nGap else 0
    bGap := if s.classHeld ptn core 3 then c.bGap else 0 }

/-- The rotations and gaps of a core follow where a context or a class has become empty (R153, R154). -/
def State.settleStale (s : State) (ptn core : Nat) : State :=
  let l := s.eligible ptn core
  let c := s.coreAt ptn core
  if c.rot.any (fun x => !l.any fun y => decide (y.1 = x.ctx) && decide (y.2.2.cls = x.cls))
      || (decide (c.nGap ≠ 0) && !s.classHeld ptn core 2) || (decide (c.bGap ≠ 0) && !s.classHeld ptn core 3) then s.settleRot ptn core
  else s

/-- The rotations of the core that a context's part stands on. -/
def State.settleCore (s : State) (ctx ltn core : Nat) : State :=
  match s.ptnOf ctx ltn with
  | some ptn => s.settleRot ptn core
  | none => s

/-- An entry put into the ready queue (R152); a tile that has executed KEND discards it (R184). -/
def State.pushReady (s : State) (r : FrameRef) (e : Ready) : State :=
  let c := s.partCore r.ctx r.ltn r.core
  if (s.part r.ctx r.ltn).ended then s
  else (s.setPartCore r.ctx r.ltn r.core { c with ready := c.ready ++ [e] }).settleCore r.ctx r.ltn r.core

/-- The resume entry goes ahead of the frame's other entries in its class (R379). -/
def insertResume (l : List Ready) (e : Ready) : List Ready :=
  match l with
  | [] => [e]
  | x :: t => if x.frm = e.frm ∧ x.cls = e.cls then e :: x :: t else x :: insertResume t e

/-- An entry that no firing made, a resume, a root entry or a threadlet that an eviction stopped: it takes its place in the queue, or waits for
one (notes/assumptions/52.md). -/
def State.pushLate (s : State) (r : FrameRef) (e : Ready) : State :=
  let c := s.partCore r.ctx r.ltn r.core
  let full : Bool := match s.ptnOf r.ctx r.ltn with
    | some ptn => decide (Config.readyPlaces ≤ s.readyTaken ptn r.core)
    | none => false
  let c := if full then { c with late := c.late ++ [e] }
    else if e.resume.isSome then { c with ready := insertResume c.ready e }
    else { c with ready := c.ready ++ [e] }
  if (s.part r.ctx r.ltn).ended ∧ !e.stopped then s
  else (s.setPartCore r.ctx r.ltn r.core c).settleCore r.ctx r.ltn r.core

/-- `sig` of a firing (R27). -/
def Slot.sig (x : Slot) (n : Nat) : Word :=
  BitVec.ofNat 64 (n % 8 + (if x.err then 8 else 0) + x.ecnt % 16 * 16 + x.last % 8 * 256)

/-- Enqueue of R147: captures `sig`, clears ERR, ECNT and LAST, and records ENTRY as it stands. -/
def State.enqueue (s : State) (r : FrameRef) (n : Nat) : State :=
  match s.frame r with
  | none => s
  | some f =>
    let x := f.slot n
    let s := s.setFrame r (f.setSlot n { x with err := false, ecnt := 0, last := 0 })
    s.pushReady r ⟨r.frm, n, x.entry, x.sig n, readyClass (s.ctx r.ctx).cls x.urg, none, false⟩

/-! ## Slots and signals -/

/-- An error status is noted (R147). -/
def Slot.note (x : Slot) (status : Nat) : Slot :=
  if status = 0 then x else { x with err := true, ecnt := Nat.min (x.ecnt + 1) 15, last := status }

/-- What Due does to the slot itself, PN aside (R147). -/
def Slot.rearm (x : Slot) : Slot := if x.reload && x.rld ≠ 0 then { x with count := x.rld } else { x with armed := false }

/-- Counts the firings that a slot may hold (R144, R148). -/
def pnLimit : Nat := 4095

/-- A slot that becomes due and keeps its firing in PN; `none` at the limit of R148. -/
def Slot.holdFiring (x : Slot) : Option Slot :=
  if x.pn = pnLimit then none else some { x.rearm with pn := x.pn + 1 }

/-- The slot at the limit of R148. -/
def Slot.atLimit (x : Slot) : Slot := { x with armed := false, count := 0 }

/-- A trap record's fixed part (R375). -/
def trapRecord (cause ctx rfl status code : Nat) (frame pc iword addr flags : Word) : List Byte :=
  leBytes 1 cause ++ leBytes 1 ctx ++ leBytes 1 rfl ++ leBytes 1 status ++ leBytes 4 code ++ leBytes 8 frame.toNat
    ++ leBytes 8 pc.toNat ++ leBytes 8 iword.toNat ++ leBytes 8 addr.toNat ++ leBytes 8 flags.toNat

/-- The saved state of a seat: bytes 512 to 4,095 of the entry (R375). -/
def seatImage (t : Threadlet) : List Byte :=
  padTo 3584 (((List.range 64).flatMap fun n => leBytes 8 (Tab.get 0 t.w n).toNat)
    ++ ((List.range 32).flatMap fun n => leBytes 64 (Tab.get 0 t.v n).toNat)
    ++ leBytes 8 (2 ^ 64 - 1)
    ++ ((List.range 7).flatMap fun n => leBytes 8 (Tab.get 0 t.k (n + 1)).toNat)
    ++ leBytes 8 t.lr.toNat ++ leBytes 8 t.flags.toNat ++ leBytes 8 t.pc.toNat ++ leBytes 8 t.sig.toNat)

/-- A register file read back from bytes, `size` bytes a register. -/
def regsOf (w size : Nat) (l : List Byte) (first n : Nat) : Table (BitVec w) :=
  (List.range n).foldl (fun t i => Tab.set 0 t (first + i) (BitVec.ofNat w (ofLeBytes ((l.drop (size * i)).take size)))) []

/-- The threadlet that bytes 512 to 3,167 of an entry describe, in a frame (R375, R379). -/
def threadOfImage (r : FrameRef) (l : List Byte) : Threadlet :=
  let word (o : Nat) : Word := BitVec.ofNat 64 (ofLeBytes ((l.drop o).take 8))
  ⟨r.ctx, r.ltn, r.core, r.frm, regsOf 64 8 l 0 64, regsOf 512 64 (l.drop 512) 0 32, regsOf 64 8 (l.drop 2568) 1 7,
    word 2624, (word 2632).setWidth 6, word 2640, word 2648 &&& 0x7FF, [], false, 2, none⟩

/-- A place in the signal log and a counter (R151). -/
def State.countStale (s : State) (ptn ctx : Nat) (cont : Word) : State :=
  let t := s.tile ptn
  s.setTile ptn { t with stale := t.stale + 1, slogc := cont, slogx := BitVec.ofNat 64 ctx }
def State.countUndel (s : State) (ptn ctx : Nat) (cont : Word) : State :=
  let t := s.tile ptn
  s.setTile ptn { t with undel := t.undel + 1, slogc := cont, slogx := BitVec.ofNat 64 ctx }
def State.countExcess (s : State) (ptn : Nat) : State :=
  let t := s.tile ptn
  s.setTile ptn { t with excess := t.excess + 1 }

/-- DELIVER: sends one signal from a tile (R146, R397). -/
def State.deliver (s : State) (fromPtn ctx : Nat) (cont : Word) (datum : Datum) (status : Nat) : State :=
  if !contV cont then s
  else if contPkg cont = s.pkgSelf ctx then
    (if (s.tme ctx (contLtn cont)).st = .unmapped then s.countUndel fromPtn ctx cont
     else s.send (.signal ctx (contLtn cont) cont datum status))
  else
    match s.emit ctx (contPkg cont) (contLtn cont) false (.signal fromPtn ctx cont datum status) with
    | none => s.countUndel fromPtn ctx cont
    | some s => s

/-- The physical tile that a frame's core belongs to, for counters; 0 where the tile is away. -/
def State.homePtn (s : State) (ctx ltn : Nat) : Nat := (s.ptnOf ctx ltn).getD 0

/-! ## Freeing frames -/

/-- The next reuse tag of a number freed while its tile is away is kept until the logical tile stands on a physical one again
(notes/assumptions/63.md). -/
def State.keepTag (s : State) (r : FrameRef) (tag : Nat) : State :=
  let c := s.ctx r.ctx
  s.setCtx r.ctx { c with tags := Tab.put c.tags (r.ltn * 1024 + r.core * 256 + r.frm) tag }

/-- The kept reuse tags of a logical tile come to the cores that it stands on now, for numbers that are FREE there. -/
def State.bringTags (s : State) (ctx ltn ptn : Nat) : State :=
  let mine (k : Nat) : Bool := decide (k / 1024 = ltn)
  let busy (k : Nat) : Bool := (s.ctxsOn ptn).any fun e => (s.partCore e.1 e.2 (k / 256 % 4)).frames.any fun f => decide (f.1 = k % 256)
  let c := s.ctx ctx
  let l := c.tags.filter fun e => mine e.1 && !busy e.1
  let s := s.setCtx ctx { c with tags := c.tags.filter fun e => !(mine e.1 && !busy e.1) }
  l.foldl (init := s) fun s e =>
    let k := s.coreAt ptn (e.1 / 256 % 4)
    s.setCore ptn (e.1 / 256 % 4) { k with rtags := Tab.put k.rtags (e.1 % 256) e.2 }

/-- What a packet for a frame's image comes to as the frame is freed (R150, R165). While it is AWAY its recall ends with the image, and what the
home keeps for it is dropped there; signals of a resident frame that its home has yet to send on, or to replay, go to its tile. -/
def Packet.afterFree (r : FrameRef) (f : Frame) (p : Packet) : Option Packet :=
  let away := decide (f.st = .away)
  match p with
  | .recall q | .image q | .recallDone q => if away && decide (q = r) then none else some p
  | .keptSignal q c d st =>
    some (if q = r ∧ f.rtag = contRtag c then (if away then .forward q c d st else .signal r.ctx r.ltn c d st) else p)
  | .forward q c d st => some (if q = r ∧ f.rtag = contRtag c ∧ !away then .signal r.ctx r.ltn c d st else p)
  | _ => some p

/-- FRAME_FREE (R150): the frame is gone, its ready entries with it, and the reuse tag of its number counts up. -/
def State.freeFrame (s : State) (r : FrameRef) : State :=
  match s.frame r with
  | none => s
  | some f =>
    let s : State := { s with net := s.net.filterMap (Packet.afterFree r f) }
    let c := s.partCore r.ctx r.ltn r.core
    let s := s.setPartCore r.ctx r.ltn r.core
      { c.dropEntries r.frm with frames := Tab.drop c.frames r.frm }
    let next := (f.rtag + 1) % 2 ^ 15
    match s.ptnOf r.ctx r.ltn with
    | none => s.keepTag r next
    | some ptn =>
      let k := s.coreAt ptn r.core
      s.setCore ptn r.core { k with rtags := Tab.put k.rtags r.frm next }

/-- Whether an eviction has stopped a threadlet of a frame that has yet to be picked again: it is still one of the frame's running threadlets
(R176, R388). -/
def State.stoppedIn (s : State) (r : FrameRef) : Bool :=
  let c := s.partCore r.ctx r.ltn r.core
  (s.part r.ctx r.ltn).stopped.any (fun e => decide (e.1 = r.core) && decide (e.2.frm = r.frm))
    || c.ready.any (fun e => e.stopped && decide (e.frm = r.frm)) || c.late.any fun e => e.stopped && decide (e.frm = r.frm)

/-- PENDING_FREE_DONE: a pending-free frame is freed once RUNS, OWC and NT are zero (R176). -/
def State.settleFree (s : State) (r : FrameRef) : State :=
  match s.frame r with
  | some f => if f.pendingFree && f.runs = 0 && f.owc = 0 && f.nt = 0 && !s.stoppedIn r then s.freeFrame r else s
  | none => s

/-- The open records of a killed frame are refused from now on (R379). -/
def State.deadRecords (s : State) (r : FrameRef) : State :=
  let c := s.ctx r.ctx
  s.setCtx r.ctx { c with saved := c.saved.map fun e => (e.1, if e.2.ref = r then { e.2 with dead := true } else e.2) }

/-- FRES.kill of a frame, and a frame whose trap record is lost (R374, R379). -/
def State.killFrame (s : State) (r : FrameRef) : State :=
  match s.frame r with
  | none => s
  | some f =>
    let c := s.partCore r.ctx r.ltn r.core
    let s := s.setPartCore r.ctx r.ltn r.core (c.dropEntries r.frm)
    let s := s.deadRecords r
    let slots := f.slots.map fun e => (e.1, { e.2 with armed := false, pn := 0 })
    (s.setFrame r { f with slots := slots, nt := 0, pendingFree := true, ovf := false }).settleFree r

/-! ## Taking a trap (R374 to R376) -/

/-- BASE and N of a context's trap queue (R374). -/
def State.trapBase (s : State) (ctx : Nat) : Nat := (s.ctx ctx).tqb.toNat / 2 ^ 12 % 2 ^ 40 * 2 ^ 12
def State.trapSize (s : State) (ctx : Nat) : Nat := 2 ^ ((s.ctx ctx).tqb.toNat % 16)
/-- The address of entry i (R374). -/
def State.trapEntry (s : State) (ctx i : Nat) : Nat := s.trapBase ctx + 4096 * (1 + i % s.trapSize ctx)

/-- Allocate of R374: one step at WIDX's home. `ok none`: the queue is full. -/
def State.allocate (s : State) (d : Dev) : Except DevErr (Option (Nat × State)) :=
  let ctx := d.ctx
  match s.devTake d (s.trapBase ctx) 16 with
  | .error e => .error e
  | .ok (bs, s) =>
    let widx := ofLeBytes (bs.take 8)
    let ridx := ofLeBytes (bs.drop 8)
    if (widx + 2 ^ 64 - ridx) % 2 ^ 64 < s.trapSize ctx then
      (match s.devWrite d (s.trapBase ctx) (leBytes 8 (widx + 1)) with
       | .ok s => .ok (some (widx, s))
       | .error e => .error e)
    else .ok none

/-- TRAP_NOTIFY (R376): a released signal to THC in context THX, or a message to the host. -/
def State.notifyTrap (s : State) (ctx fromPtn i : Nat) : State :=
  let c := s.ctx ctx
  if contV c.thc then s.deliver fromPtn (c.thx.toNat % 64) c.thc [some (BitVec.ofNat 64 i)] 0
  else s.hostMessage 1 ctx (leBytes 8 i)

/-- What an entry of the trap queue keeps of a seat that is saved there (R27, R379): nothing where the record saves none. -/
def State.noteSaved (s : State) (ctx i : Nat) (j : TrapJob) : State :=
  let c := s.ctx ctx
  let k := i % s.trapSize ctx
  match j.frame, j.thread with
  | some r, some t => s.setCtx ctx { c with saved := Tab.put c.saved k ⟨r, j.rtag, t.sig, t.cls, false⟩ }
  | some r, none => s.setCtx ctx { c with saved := Tab.put c.saved k ⟨r, j.rtag, 0, 2, false⟩ }
  | none, _ => s.setCtx ctx { c with saved := Tab.drop c.saved k }

/-- The tile that a job comes from: its frame's, that of the core which posts a notice (R444), and tile 0 for a notice that no core posts
(notes/assumptions/70.md). -/
def State.jobPtn (s : State) (j : TrapJob) : Nat :=
  match j.frame with
  | some r => s.homePtn r.ctx r.ltn
  | none => j.poster.getD 0

/-- A job's accesses to the trap queue: the die of its frame or of its core asks, and die 8, of the Sorting Office and its like, for a notice that no
core posts (R372). -/
def State.jobDev (s : State) (j : TrapJob) : Dev :=
  ⟨j.ctx, if j.frame.isSome ∨ j.poster.isSome then ptnDie (s.jobPtn j) else 8, .trap j.frame⟩

/-- The seat of a job leaves SAVE (R22). -/
def State.endSave (s : State) (j : TrapJob) : State :=
  match j.seat with
  | some p => s.setSeat p .idle
  | none => s

/-- The RAS record in place of a trap record that cannot be written (R374): of poison, with the control block's address; of a translation
that fails, with fields that the specification does not give and that are free values (notes/assumptions/6.md). -/
def State.rasLost (s : State) (ctx : Nat) (e : DevErr) : State :=
  if e.isPoison then s.poisonAt ctx (s.trapBase ctx) e
  else
    let (src, s) := s.free 8
    let (sev, s) := s.free 8
    let (die, s) := s.free 8
    let (n, s) := s.free 32
    let (loc, s) := s.free 64
    s.postRas (rasBytes src.toNat sev.toNat ctx die.toNat n.toNat loc 0 s.rasSeq.toNat) ctx

/-- A job whose record cannot be written: a RAS record in its place, and its frame is killed (R374). -/
def State.loseJob (s : State) (j : TrapJob) (e : DevErr) : State :=
  let s := (s.rasLost j.ctx e).devFail (s.jobDev j) e
  let s := s.endSave j
  match j.frame with
  | some r => if (s.frame r).any fun f => f.rtag = j.rtag then s.killFrame r else s
  | none => s

/-- Allocate, write, leave SAVE and notify; a deadlock record, of 288 bytes, goes to the Postmaster or to the host (R265). `none`: the job waits for room or for the fault service (R374, R376). -/
def State.runJob (s : State) (j : TrapJob) : Except State State :=
  match s.allocate (s.jobDev j) with
  | .error (.wait m) => .error (s.service m 1)
  | .error e => .ok (s.loseJob j e)
  | .ok none => .error s
  | .ok (some (i, s')) =>
    let data := match j.thread with
      | some t => padTo 512 j.bytes ++ seatImage t
      | none => padTo 512 j.bytes
    match s'.devWrite (s.jobDev j) (s.trapEntry j.ctx i) data with
    | .error (.wait m) => .error (s.service m 1)
    | .error e => .ok (s'.loseJob j e)
    | .ok s' =>
      let s' := (s'.endSave j).noteSaved j.ctx i j
      if j.bytes.length = 288 then .ok (if s'.feature 2 then s' else s'.hostMessage 4 j.ctx (leBytes 8 i))
      else .ok (s'.notifyTrap j.ctx (s'.jobPtn j) i)

/-- A record of a frame whose tile is being evicted or is away waits until it is restored (R389). -/
def State.jobAway (s : State) (j : TrapJob) : Bool :=
  j.frame.any fun r => decide ((s.tme r.ctx r.ltn).st = .away ∨ (s.tme r.ctx r.ltn).st = .moving)

/-- Records that a context keeps in its deferred-record region, 16 bytes each, and room for one more (R212, R363): waiting readers and
watches, wakes and signals kept at images, packets kept for evicted tiles, launches that wait for room, and notices that wait for the trap
queue (R356, R376, R387). The region is one pool for every home slice (notes/assumptions/15.md). -/
def State.deferredUsed (s : State) (ctx : Nat) : Nat :=
  (s.deferred.filter fun d => (s.req d.id).any fun q => decide (q.ref.ctx = ctx)).length
    + (s.net.filter fun p => match p with
        | .keptWake r | .keptSignal r _ _ _ => decide (r.ctx = ctx)
        | _ => false).length
    + (s.kept.filter fun p => decide (p.ctx = ctx)).length
    + (s.reqs.filter fun q => decide (q.ref.ctx = ctx) && (match q.kind with
        | .launch _ w => w
        | _ => false)).length
    + (s.jobs.filter fun j => decide (j.ctx = ctx) && j.frame.isNone).length
def State.deferredRoom (s : State) (ctx : Nat) : Bool := decide (s.deferredUsed ctx < (s.ctx ctx).drs.toNat * 256)

/-- A job waits (R374); a notice does in the context's deferred-record pool, for whose room the fault service is asked (R212, R376). -/
def State.waitJob (s : State) (j : TrapJob) : State :=
  let s := if j.frame.isSome ∨ s.deferredRoom j.ctx then s else s.serviceRecord j.ctx (s.trapBase j.ctx) 1 (s.jobDev j).die []
  { s with jobs := s.jobs ++ [j] }

/-- A job is run at once, or waits behind the context's earlier ones (R374, R376; notes/assumptions/72.md). -/
def State.postJob (s : State) (j : TrapJob) : State :=
  if s.jobAway j ∨ s.jobs.any fun x => decide (x.ctx = j.ctx) && !s.jobAway x then s.waitJob j
  else
    match s.runJob j with
    | .ok s => s
    | .error s => s.waitJob j

/-- What a trap reports (R375). -/
structure TrapInfo where
  cause : Nat
  code : Nat
  addr : Word
  flags : Fl
  rfl : Nat
  status : Nat
  pc : Word
  iword : Word
  deriving DecidableEq, Repr

/-- The record of a frame's trap (R375). -/
def State.frameRecord (s : State) (r : FrameRef) (i : TrapInfo) : List Byte :=
  trapRecord i.cause r.ctx i.rfl i.status i.code (s.fpOf r) i.pc i.iword i.addr (flagsWord i.flags)

/-- TRAP_PARK without a seat (R376, R218, R148, R419): the frame parks and its record is written. A frame that is AWAY is demanded, and
is PARKED once its refill is done (R165, R166). -/
def State.parkFrame (s : State) (r : FrameRef) (i : TrapInfo) : State :=
  match s.frame r with
  | none => s
  | some f =>
    let rec' := s.frameRecord r i
    let st := if f.st = .away then FrameState.away else .parked
    let s := (s.setFrame r { f with st := st, nt := f.nt + 1, ovf := false }).settleCore r.ctx r.ltn r.core
    let s := if f.st = .away then s.send (.wake r) else s
    s.postJob ⟨r.ctx, rec', some r, f.rtag, none, none, none⟩

/-- Trap(cause) of R376: the instruction has no effect and merges no flags; the frame parks, the seat saves, the record is written
with the seat's state before the instruction, and the handler is notified. -/
def State.trap (s : State) (v : View) (i : TrapInfo) : State :=
  let r := v.t.ref
  match s.frame r with
  | none => s.setSeat v.seat .idle
  | some f =>
    let rec' := s.frameRecord r { i with rfl := i.rfl ||| 1 }
    let s := (s.setFrame r { f with st := .parked, nt := f.nt + 1, runs := f.runs - 1, ovf := false }).settleCore r.ctx r.ltn r.core
    let s := s.setSeat v.seat (.save { v.t with mid := none })
    s.postJob ⟨r.ctx, rec', some r, f.rtag, some v.seat, some { v.t with mid := none }, none⟩

/-- A notice of R373: a record with no frame, written through Allocate and Notify (R376). -/
def State.notice (s : State) (ctx : Nat) (bytes : List Byte) : State := s.postJob ⟨ctx, bytes, none, 0, none, none, none⟩
/-- A notice that a core of a physical tile posts (R444). -/
def State.coreNotice (s : State) (ptn ctx : Nat) (bytes : List Byte) : State := s.postJob ⟨ctx, bytes, none, 0, none, none, some ptn⟩

/-! ## Returning from a trap (R378, R379) -/

/-- The frame of a trap is LIVE again when its last trap closes, and its held firings drain (R166, R379). -/
def State.closeTrap (s : State) (r : FrameRef) : State :=
  match s.frame r with
  | none => s
  | some f =>
    let nt := f.nt - 1
    let held := f.slots.any fun e => e.2.pn ≠ 0
    ((s.setFrame r (if nt = 0 ∧ f.st = .parked then { f with nt := 0, st := .live, ovf := held } else { f with nt := nt })).settleFree r).dloAgain
      r.ctx r.ltn

/-- The reserved fields of a frame trap record are zero (R6, R375): RFL [7:3], FRAME [6:0], bytes 48 to 511; with SEAT = 1 the flag register's
[63:6] (R33), `sig` [63:11] (R27), and bytes 3,168 to 4,095. -/
def recordMbz (l : List Byte) : Bool :=
  let rfl := ofLeBytes ((l.drop 2).take 1)
  decide (rfl / 8 = 0) && decide (ofLeBytes ((l.drop 8).take 1) % 128 = 0) && ((l.drop 48).take 464).all (· = 0)
    && (decide (rfl % 2 = 0) || (decide (ofLeBytes ((l.drop 3144).take 8) / 2 ^ 6 = 0) && decide (ofLeBytes ((l.drop 3160).take 8) / 2 ^ 11 = 0)
      && ((l.drop 3168).take 928).all (· = 0)))

/-- FRES of R378 and R379 on entry `idx` of the trap queue of the context of `d`, the request's own access: the status it completes with. A recoverable miss waits. -/
def State.fres (s : State) (d : Dev) (kind : FresKind) (idx : Nat) (deadlock : List Byte → Bool) : Except State (Status × State) :=
  let ctx := d.ctx
  let a := s.trapEntry ctx idx
  match s.devRead d a 4096 with
  | .error (.wait m) => .error (s.service m 0)
  | .error e => .ok (e.result, s.devFail d e)
  | .ok bs =>
    let cause := ofLeBytes (bs.take 1)
    let word (o : Nat) : Word := BitVec.ofNat 64 (ofLeBytes ((bs.drop o).take 8))
    let cont := word 8
    let r : FrameRef := ⟨ctx, contLtn cont, contCore cont, contFrm cont⟩
    let parked := (s.frame r).any fun f => f.st = .parked ∧ f.rtag = contRtag cont ∧ f.nt ≠ 0
    let kept := (Tab.find (s.ctx ctx).saved (idx % s.trapSize ctx)).filter fun k => decide (k.ref = r) && decide (k.rtag = contRtag cont)
    if cause = 0 ∨ 0x40 ≤ cause ∨ deadlock bs ∨ !parked ∨ kept.any (·.dead) ∨ !recordMbz bs then .ok (.refused, s.devDone d a 4096)
    else
      match s.devWrite d a [0] with
      | .error (.wait m) => .error (s.service m 1)
      | .error e => .ok (e.result, s.devFail d e)
      | .ok s =>
        let s := s.devDone d a 4096
        match kind with
        | .kill => .ok (.ok, s.killFrame r)
        | .retry | .skip =>
          let seat := decide (ofLeBytes ((bs.drop 2).take 1) % 2 = 1)
          let s :=
            if seat then
              let t := threadOfImage r (bs.drop 512)
              let step : Word := if ofLeBytes ((bs.drop 24).take 8) / 2 ^ 56 = 0x3B then 16 else 8
              let t := if kind = .skip then { t with pc := word 16 + step } else t
              let t := { t with
                sig := (kept.map (·.sig)).getD t.sig
                cls := (kept.map (·.cls)).getD (readyClass (s.ctx ctx).cls false) }
              s.pushLate r ⟨r.frm, t.sig.toNat % 8, 0, t.sig, t.cls, some t, false⟩
            else s
          .ok (.ok, (s.closeTrap r).settleCore r.ctx r.ltn r.core)

/-! ## Counting a signal -/

/-- PENDING_FIRING_LIMIT on a resident frame (R148). -/
def State.limitPark (s : State) (r : FrameRef) (n : Nat) : State :=
  (s.modFrame r fun f => f.setSlot n (f.slot n).atLimit).parkFrame r ⟨0x23, n, 0, 0, 0, 0, 0, 0⟩

/-- A machine check of a frame without a seat (R419, R423): its record, and the activation stops. -/
def State.frameMachineCheck (s : State) (r : FrameRef) (src code : Nat) : State :=
  let ptn := s.homePtn r.ctx r.ltn
  (s.rasOpen src 2 r.ctx (ptnDie ptn) ptn).parkFrame r ⟨0x30, code, 0, 0, 0, 0, 0, 0⟩

/-- A failed check of a slot word stops the activation (R419). -/
def State.slotCheck (s : State) (r : FrameRef) (n : Nat) : State := s.frameMachineCheck r 0x01 (0x100 + n)

/-- A signal or slot operation applied to a frame in a spill write-out sets TCH (R146, R174). -/
def Frame.touch (f : Frame) : Frame :=
  match f.moving with
  | .spill .. => { f with tch := true }
  | .no | .refill => f

/-- A slot that becomes due while the frame is written out keeps it LIVE (R162). -/
def Frame.fires (f : Frame) : Frame :=
  match f.moving with
  | .spill o => { f with moving := .spill { o with due := true } }
  | .no | .refill => f

/-- Due of R147 on a resident frame; a tile that has executed KEND discards the firing (R184). -/
def State.due (s : State) (r : FrameRef) (n : Nat) : State :=
  match s.frame r with
  | none => s
  | some f =>
    let x := f.slot n
    let f := f.fires
    if (s.part r.ctx r.ltn).ended then s.setFrame r (f.setSlot n x.rearm)
    else
    match x.holdFiring with
    | none => (s.setFrame r f).limitPark r n
    | some y =>
      let isOpen : Bool := match s.ptnOf r.ctx r.ltn with
        | some ptn => s.queueOpen ptn r.core
        | none => false
      if f.st = .live ∧ isOpen then (s.setFrame r (f.setSlot n x.rearm)).enqueue r n
      else s.setFrame r { f.setSlot n y with ovf := f.ovf || decide (f.st = .live) }

/-- Count of R147 on a resident frame: the slot, then Due when it reaches zero armed. A slot word whose check fails takes no signal. -/
def State.count (s : State) (r : FrameRef) (n status : Nat) : State :=
  match s.frame r with
  | none => s
  | some f =>
    let x := (f.slot n).note status
    if f.badSlots.contains n then s.slotCheck r n
    else if x.count = 0 then (s.setFrame r (f.setSlot n x)).countExcess (s.homePtn r.ctx r.ltn)
    else
      let x := { x with count := x.count - 1 }
      let s := s.setFrame r (f.setSlot n x)
      if x.count = 0 ∧ x.armed then s.due r n else s

/-- OVERFLOW_DRAIN: entries that wait for a place, then held firings, enter the queue while it has room, lowest frame number and lowest slot
first (R155; notes/assumptions/52.md). -/
def State.drainOverflow (s : State) (ptn core : Nat) : State :=
  let rec go : Nat → State → State
    | 0, s => s
    | k + 1, s =>
      if Config.readyPlaces ≤ s.readyTaken ptn core then s
      else
        match (s.ctxsOn ptn).findSome? fun e => (s.partCore e.1 e.2 core).late.head?.map fun x => (e.1, e.2, x) with
        | some (ctx, ltn, x) =>
          let c := s.partCore ctx ltn core
          go k ((s.setPartCore ctx ltn core { c with late := c.late.drop 1 }).pushLate ⟨ctx, ltn, core, x.frm⟩ x)
        | none =>
        let cands := (s.ctxsOn ptn).flatMap fun e =>
          ((s.partCore e.1 e.2 core).frames.filter fun f => f.2.ovf).map fun f => (⟨e.1, e.2, core, f.1⟩ : FrameRef)
        match cands.foldl (init := (none : Option FrameRef)) (fun b r => match b with
            | none => some r
            | some x => if r.frm < x.frm then some r else some x) with
        | none => s
        | some r =>
          match s.frame r with
          | none => s
          | some f =>
            match (List.range 8).find? fun n => (f.slot n).pn ≠ 0 with
            | none => go k (s.setFrame r { f with ovf := false })
            | some n =>
              if f.badSlots.contains n then go k (s.slotCheck r n)
              else
              let f := f.setSlot n { f.slot n with pn := (f.slot n).pn - 1 }
              let more := (List.range 8).any fun n => (f.slot n).pn ≠ 0
              go k ((s.setFrame r { f with ovf := more }).enqueue r n)
  go (2 * Config.readyPlaces) s

/-- Deque records of a resumed part come to its core, the newest first, and then its reserved places, as far as the core's deque has room (R158,
R160, R388; notes/assumptions/35.md). -/
def State.takeDeque (s : State) (ptn core : Nat) : State :=
  (s.ctxsOn ptn).foldl (init := s) fun s e =>
    let x := s.partCore e.1 e.2 core
    let c := s.coreAt ptn core
    let room := Config.dequePlaces - c.deque.length - c.reserved.length
    let n := Nat.min x.deque.length room
    let k := Nat.min x.kept (room - n)
    if n + k = 0 ∨ (s.tme e.1 e.2).st ≠ .resident then s
    else
      let left := x.deque.take (x.deque.length - n)
      let come := x.deque.drop (x.deque.length - n)
      (s.setPartCore e.1 e.2 core { x with deque := left, kept := x.kept - k }).setCore ptn core
        { c with deque := (come.map fun t => (e.1, t)) ++ c.deque, reserved := c.reserved ++ List.replicate k e.1 }

/-- A request that makes no place of its own in program order: a part of a DMA or of a window (R199). -/
def ReqKind.isPart : ReqKind → Bool
  | .burst .. | .fill .. | .wback .. => true
  | _ => false

/-- Bursts that a tile's port keeps outstanding (R229). -/
def burstLimit : Nat := 32

/-- A burst, a fill or a write-back of a resumed tile that waits for a place among the port's (R229, R388; notes/assumptions/35.md). -/
def Req.parked (q : Req) : Bool := q.kind.isPart && q.late

/-- Bursts of a resumed part take places among the port's as they free, in their order (R229, R388; notes/assumptions/35.md). -/
def State.takeBursts (s : State) (ptn : Nat) : State :=
  let here (q : Req) : Bool := q.kind.isPart && decide (s.ptnOf q.ref.ctx q.ref.ltn = some ptn)
  let waits := (s.reqs.filter fun q => here q && q.late).map (·.id)
  if waits.isEmpty then s
  else
    let ids := waits.take (burstLimit - (s.reqs.filter fun q => here q && !q.late).length)
    { s with reqs := s.reqs.map fun q => if ids.contains q.id then { q with late := false } else q }

/-- Requests of a resumed part take entries of the core's table as they free, the oldest first (R215, R388; notes/assumptions/35.md). -/
def State.takeEntries (s : State) (ptn core : Nat) : State :=
  let here (q : Req) : Bool := !q.kind.isPart && decide (q.ref.core = core) && decide (s.ptnOf q.ref.ctx q.ref.ltn = some ptn)
  let waits := (s.reqs.filter fun q => q.late && here q).map (·.id)
  if waits.isEmpty then s
  else
    let ids := waits.take (Config.requestEntries - (s.reqs.filter fun q => q.entry && here q).length)
    { s with reqs := s.reqs.map fun q => if ids.contains q.id then { q with entry := true, late := false } else q }

/-- Every core's rotations and gaps follow what has left its queue (R153), and it takes what waits as far as places are free, whatever freed them
(R155, R166, R168). -/
def State.drainAll (s : State) : State :=
  s.tiles.foldl (init := s) fun s t =>
    (List.range 4).foldl (init := s.takeBursts t.1) fun s k =>
      let s := ((s.takeDeque t.1 k).takeEntries t.1 k).settleStale t.1 k
      if s.waitsForPlace t.1 k then (s.drainOverflow t.1 k).settleStale t.1 k else s

/-! ## Requests and completions -/

/-- OWC of a frame counts up (R203). -/
def State.owcUp (s : State) (r : FrameRef) : State := s.modFrame r fun f => { f with owc := f.owc + 1 }
/-- OWC of the activation that issued a request counts down, and a pending-free frame may go (R176, R203). -/
def State.owcDown (s : State) (r : FrameRef) (rtag : Nat) : State :=
  match s.frame r with
  | some f => if f.rtag = rtag then (s.setFrame r { f with owc := f.owc - 1 }).settleFree r else s
  | none => s

/-- Entries of a core's outstanding-request table that are taken (R215). -/
def State.entriesTaken (s : State) (p : SeatId) : Nat :=
  (s.reqs.filter fun r => r.entry && r.ref.core = p.core && decide (s.ptnOf r.ref.ctx r.ref.ltn = some p.ptn)).length
/-- Room for one more request (R215). -/
def State.entryFree (s : State) (p : SeatId) : Bool := decide (s.entriesTaken p < Config.requestEntries)

/-- Where a completion will go, captured at issue: `word` is the index of D, or 0xFF (R171, R217). -/
def State.destOf (s : State) (v : View) (t : Target) (word : Nat) : Dest :=
  match t with
  | .slot n => some (contWith (s.fpOf v.t.ref) n.val word)
  | .nothing => none
  | .reg n => some (Tab.get 0 v.t.w n.val)

/-- The index of a frame word, and 0xFF for any other operand. -/
def wordIndex : Operand → Nat
  | .f n => n.val
  | _ => 0xFF

/-- A new request of the running threadlet (R170, R215). -/
def State.newReq (s : State) (v : View) (iword : Word) (dest : Dest) (kind : ReqKind) (va : Word) (ord : MemOrder) (scope : Scope)
    (write : Bool) : Req :=
  { id := s.nextId, ref := v.t.ref, rtag := ((s.frame v.t.ref).map (·.rtag)).getD 0, pc := v.t.pc, iword := iword, dest := dest,
    kind := kind, va := va, ord := ord, scope := scope, write := write, counted := write || dest.isNone, entry := true, phys := none,
    faultHeld := false, die := 0, replayed := false, sent := false, performed := false, ackPkg := false, ackPod := false, status := .ok, cause := 0,
    code := 0, datum := [], part := 0, piece := 0, late := false, landed := 0 }

/-- The request enters the tables, and OWC counts it where R203 says so. -/
def State.addReq (s : State) (r : Req) : State :=
  let s := { s with reqs := s.reqs ++ [r], nextId := s.nextId + 1 }
  if r.counted then s.owcUp r.ref else s

/-- The trap cause of an error status with T = 0x10 (R170, R218); 0 where nothing parks. -/
def parkCause (st : Status) (given : Nat) : Nat :=
  match st with
  | .ok | .cancelled => 0
  | .poison => if given = 0 then 0x12 else given
  | .fault => if given = 0 then 0x10 else given
  | .doubleWrite => if given = 0 then 0x13 else given
  | .deadlock => if given = 0 then 0x20 else given
  | .refused | .overflow => if given = 0 then 0x03 else given

/-- The code of a status (R173). -/
def statusCode : Status → Nat
  | .ok => 0 | .poison => 1 | .fault => 2 | .doubleWrite => 3 | .deadlock => 4 | .refused => 5 | .overflow => 6
  | .cancelled => 7

/-- COMPLETE of a request: it leaves the tables, its completion is sent, or with T = 0x10 an error status parks its frame, and OWC
counts it no more (R171, R203, R218). -/
def State.finish (s : State) (r : Req) : State :=
  let s := s.dropReq r.id
  let park (cause : Nat) (s : State) : State :=
    if cause = 0 ∨ !((s.frame r.ref).any fun f => f.rtag = r.rtag) then s
    else
      let t10 := r.dest.isNone
      s.parkFrame r.ref ⟨cause, r.code, r.va, 0, if t10 then 2 else 0, if t10 then statusCode r.status else 0, r.pc, r.iword⟩
  let s := match r.dest with
    | some c =>
      -- an OVERFLOW on a table with TRP = 1 is delivered, and parks the frame (R316)
      let s := s.deliver (s.homePtn r.ref.ctx r.ref.ltn) r.ref.ctx c r.datum (statusCode r.status)
      if r.status = .overflow ∧ r.cause = 0x18 then park 0x18 s else s
    | none => park (parkCause r.status r.cause) s
  if r.counted then s.owcDown r.ref r.rtag else s

/-- A request whose result is known at once: it waits only to arrive (R217). -/
def State.answer (s : State) (id : Nat) (st : Status) (datum : Datum) : State := s.answerAll [id] st datum

/-- A deadlock record in place of a frame's: its NSET is not zero (R266, R378). -/
def isDeadlock (l : List Byte) : Bool := decide (ofLeBytes (l.take 1) = 0x20) && decide (ofLeBytes ((l.drop 4).take 4) ≠ 0)

/-- An access in a context that the device makes for a seat's request: the seat's tile asks (R372). -/
def State.reqDev (s : State) (ctx : Nat) (q : Req) : Dev := ⟨ctx, ptnDie (s.homePtn q.ref.ctx q.ref.ltn), .req q.id⟩

/-- A FRES that may go on (R372, R379). -/
def State.fresStep (s : State) (id : Nat) : State :=
  match s.req id with
  | some q@{ kind := .fres k c i, .. } =>
    (match s.fres (s.reqDev c q) k i isDeadlock with
     | .ok (st, s) => s.answer id st []
     | .error s => s)
  | _ => s

/-- A request that reads: what a release waits for by its performing (R201). -/
def ReqKind.reads : ReqKind → Bool
  | .load .. | .loadv | .atom .. | .ild | .watch .. => true
  | .dma sh _ _ => !sh.toGlobal
  | _ => false

/-- Requests of an activation, in program order, without their parts. -/
def State.reqsOf (s : State) (r : FrameRef) (rtag : Nat) : List Req :=
  s.reqs.filter fun q => decide (q.ref = r) && decide (q.rtag = rtag) && !q.kind.isPart

/-- A stream operation that is held at the core: its port has not seen it (R201). -/
def State.strmHeld (s : State) (id : Nat) : Bool :=
  s.held.any fun h => match h.body with
    | .stream x => decide (x = id)
    | _ => false

/-- Earlier writes of an activation that are not yet complete. -/
def State.writesOf (s : State) (r : FrameRef) (rtag : Nat) : List Nat := ((s.reqsOf r rtag).filter (·.write)).map (·.id)
/-- Earlier reads of an activation that have not performed. -/
def State.readsOf (s : State) (r : FrameRef) (rtag : Nat) : List Nat :=
  ((s.reqsOf r rtag).filter fun q => q.kind.reads && !q.performed).map (·.id)

/-- The parts of a DMA or STRM.adv that are outstanding. -/
def State.partsOf (s : State) (id : Nat) : List Req :=
  s.reqs.filter fun q => match q.kind with
    | .burst p .. | .wback _ _ _ _ p => decide (p = id)
    | _ => false

/-- A DMA all of whose bursts have been issued (R229). -/
def ReqKind.allIssued : ReqKind → Bool
  | .dma sh row _ => decide (sh.rows ≤ row)
  | _ => true

/-- A DMA or a STRM.adv whose port has started every part of it (R229, R233). -/
def State.partsOut (s : State) (q : Req) : Bool :=
  match q.kind with
  | .dma .. => q.kind.allIssued
  | .advWin n _ =>
    !s.strmHeld q.id && (match Tab.find (s.part q.ref.ctx q.ref.ltn).windows n with
      | some w => w.passed.all fun x => decide (x.1 ≠ q.id) || decide (x.2 ≤ w.issued)
      | none => true)
  | _ => false

/-- A write that is acknowledged at a scope: package, or pod (R202). A DMA or a STRM.adv is, once all of its parts are. -/
def State.acked (s : State) (pod : Bool) (id : Nat) : Bool :=
  match s.req id with
  | none => true
  | some q =>
    (if pod then q.ackPod else q.ackPkg) ||
      (s.partsOut q && (s.partsOf id).all fun x => if pod then x.ackPod else x.ackPkg)

/-- An access that has performed. -/
def State.hasPerformed (s : State) (id : Nat) : Bool :=
  match s.req id with
  | none => true
  | some q => q.performed

/-- What is held of an evicted tile waits for its restore, and no channel transfer starts while the tile is MOVING (R387). -/
def State.heldOpen (s : State) (h : Held) : Bool :=
  match (s.tme h.ref.ctx h.ref.ltn).st, h.body with
  | .away, _ | .moving, .channel .. => false
  | _, _ => true

/-- A frame's stream operations reach the port in program order (R200). -/
def State.strmTurn (s : State) (h : Held) : Bool :=
  match h.body with
  | .stream id => s.held.all fun x => match x.body with
      | .stream y => decide (x.ref ≠ h.ref) || decide (id ≤ y)
      | _ => true
  | _ => true

/-- A held request or packet that may go. -/
def State.heldReady (s : State) (h : Held) : Bool := s.heldOpen h && s.strmTurn h && h.acks.all (s.acked h.pod) && h.perf.all s.hasPerformed

/-- What is held behind the activation's accesses so far: its writes, and its reads too where `reads` (R201, R206). -/
def State.hold (s : State) (r : FrameRef) (pod reads : Bool) (b : HeldBody) : Held :=
  let rtag := ((s.frame r).map (·.rtag)).getD 0
  ⟨r, pod, s.writesOf r rtag, if reads then s.readsOf r rtag else [], b⟩

/-- The scope of a release on a signal: pod where the target is another package (R206). -/
def State.relPod (s : State) (ctx : Nat) (cont : Word) : Bool := decide (contPkg cont ≠ s.pkgSelf ctx)

end Sys2Proof.Machine
end

