-- ==== Sys2Proof/Machine/Frames.lean ====
section
/-! DEFINITION. Creating frames (R140, R141, R161), barriers' arrivals (R185, R186), held sends (R206), and the end of a tile's part of a
kernel (R184). -/

namespace Sys2Proof.Machine

/-! ## Storage of a core -/

/-- Frames of a physical core, with their contexts. -/
def State.framesOn (s : State) (ptn core : Nat) : List (FrameRef × Frame) :=
  (s.ctxsOn ptn).flatMap fun e => (s.partCore e.1 e.2 core).frames.map fun f => (⟨e.1, e.2, core, f.1⟩, f.2)

/-- Granules of a size class (R140). -/
def granulesOfClass (large : Bool) : Nat := if large then 4 else 1

/-- Granules that a frame occupies; an AWAY frame has none (R142, R162). -/
def Frame.storage (f : Frame) : List Nat :=
  if f.st = .away then [] else (List.range (granulesOfClass f.large)).map (· + f.pgr)

/-- The lowest free granule, or the lowest free aligned group of four (R140). -/
def State.freeGranule (s : State) (ptn core : Nat) (large : Bool) : Option Nat :=
  let used := (s.framesOn ptn core).flatMap fun e => e.2.storage
  if large then
    ((List.range 64).map (· * 4)).find? fun g => (List.range 4).all fun k => !used.contains (g + k)
  else (List.range 256).find? fun g => !used.contains g

/-- The lowest FREE frame number (R140). -/
def State.freeNumber (s : State) (ptn core : Nat) : Option Nat :=
  let used := (s.framesOn ptn core).map fun e => e.1.frm
  (List.range 256).find? fun n => !used.contains n

/-- Granules that a context holds on a core (R161). -/
def PartCore.granulesUsed (c : PartCore) : Nat := (c.frames.map fun f => f.2.storage.length).foldl (· + ·) 0

/-- Room under the frame quota (R161). -/
def State.quotaRoom (s : State) (ctx ltn core : Nat) (large : Bool) : Bool :=
  decide ((s.partCore ctx ltn core).granulesUsed + granulesOfClass large ≤ ((s.kernel ctx).map (·.quota)).getD 0)

/-- A new frame, whose words and slots read zero (R141). -/
def Frame.new (large : Bool) (rtag pgr : Nat) : Frame :=
  ⟨.live, .no, large, rtag, 0, 0, false, pgr, [], [], [], [], 0, false, false⟩

/-- A frame created under the quota, a frame number and storage being free (R140, R141, R161). -/
def State.createFrame (s : State) (ctx ltn core : Nat) (large : Bool) : Option (FrameRef × State) :=
  match s.ptnOf ctx ltn with
  | none => none
  | some ptn =>
    if !s.quotaRoom ctx ltn core large then none
    else
      match s.freeNumber ptn core, s.freeGranule ptn core large with
      | some n, some g =>
        let rtag := Tab.get 0 (s.coreAt ptn core).rtags n
        let r : FrameRef := ⟨ctx, ltn, core, n⟩
        some (r, s.setFrame r (Frame.new large rtag g))
      | _, _ => none

/-- A frame that holds a posted .words receive or CHSEL (R244). -/
def State.postedIn (s : State) (r : FrameRef) : Bool :=
  (s.part r.ctx r.ltn).ports.any fun e => e.2.op.any fun o => decide (o.ref = r) && (match o.form with
    | .recvWords .. | .select _ => true
    | _ => false)

/-- A frame of R142 that is dormant: a spill may take it (R244). -/
def State.dormant (s : State) (r : FrameRef) (f : Frame) : Bool :=
  decide (f.st = .live) && decide (f.moving = .no) && f.runs = 0 && (s.partCore r.ctx r.ltn r.core).qn r.frm = 0
    && f.slots.all (fun e => e.2.pn = 0) && !f.pendingFree && !s.postedIn r

/-- A task record that is well formed (R145, R156, R181). -/
def taskOk (t : Task) : Bool :=
  let w := (t.headD 0).toNat
  let c := t.getD 7 0
  decide (w / 2 ^ 32 % 256 ≤ 6) && decide (w / 2 ^ 42 = 0) && !(contV c && decide (contMbz c ≠ 0))

/-! ## Barriers (R58, R185, R186) -/

/-- The participant index of a tile (R58): packages of a spanning kernel follow one another. -/
def State.partIndex (s : State) (ctx ltn : Nat) : Nat :=
  match s.kernel ctx with
  | some k => (if k.npk = 0 then 0 else s.pkgSelf ctx * k.width * k.height) + ltn
  | none => ltn

/-- Participants of a kernel. -/
def Kernel.participants (k : Kernel) : Nat := k.width * k.height * (k.npk + 1)

/-- The level at which a participant sends to its parent, and the parent: its lowest set bit (R58). -/
def parentOf (t : Nat) : Nat × Nat :=
  let l := ctzBits 32 t
  (l, t - 2 ^ l)

/-- Levels of the tree: a kernel has at most 4,096 tiles on each of 256 packages (R58, R341). -/
def treeLevels : Nat := 21

/-- The children of a participant in the tree over n participants, by rising level (R58). -/
def childrenOf (t n : Nat) : List Nat :=
  (List.range treeLevels).filterMap fun l => if t % 2 ^ (l + 1) = 0 ∧ t + 2 ^ l < n then some (t + 2 ^ l) else none

end Sys2Proof.Machine
end

