-- ==== Sys2Proof/Machine/Barrier.lean ====
section
/-! DEFINITION. The barrier unit of a tile (R58, R185, R186): a tile's own arrivals, the arrivals of its subtree, and the release. -/

namespace Sys2Proof.Machine

/-- Two contributions combined, the first that of the lower participant; an absent one passes the other unchanged (R56, R185, R186). -/
def combineContrib (a b : Option Contrib) : Option Contrib :=
  match a, b with
  | none, x => x
  | x, none => x
  | some a, some b =>
    some { a with
      value := (combine a.op a.ty a.value b.value).1
      bad := a.bad || b.bad || decide (a.op ≠ b.op) || decide (a.ty ≠ b.ty) }

/-- The result of an all-reduce, extended as R90 and Put give (R186); a NaN that met no other value is made canonical (R42;
notes/assumptions/54.md). -/
def contribResult (c : Contrib) : Word := if c.ty.isInt then put c.ty c.value else BitVec.ofNat 64 (passValue c.ty c.value).1

/-- The number that the tile gave its latest barrier or all-reduce (R185). -/
def Part.issued (p : Part) (ared : Bool) : Nat := if ared then p.aredNext else p.barNext

/-- That number as the tile executed KEND. -/
def Part.endedAt (p : Part) (ared : Bool) : Nat := if ared then p.aredEnd else p.barEnd

/-- A subtree of another package that told this tile that it is absent from a number on (R185). -/
def Part.toldAbsent (p : Part) (ared : Bool) (num src : Nat) : Bool :=
  p.absents.any fun a => decide (a.ared = ared) && decide (a.src = src) && decide (a.start ≤ num)

/-- The place of a barrier on a tile; a fresh one where none is kept. -/
def Part.barNode (p : Part) (ared : Bool) (num : Nat) : BarNode :=
  (p.bars.find? fun b => b.ared = ared ∧ b.num = num).getD ⟨ared, num, none, [], false⟩
def Part.dropBar (p : Part) (ared : Bool) (num : Nat) : Part :=
  { p with bars := p.bars.filter fun b => !(b.ared = ared ∧ b.num = num) }
def Part.setBar (p : Part) (b : BarNode) : Part := { p.dropBar b.ared b.num with bars := (p.dropBar b.ared b.num).bars ++ [b] }

/-- Tiles of the rectangle. -/
def Kernel.area (k : Kernel) : Nat := k.width * k.height

/-- The logical tile of a participant on this package, if it is here (R58, R402). -/
def State.partTile (s : State) (ctx index : Nat) : Option Nat :=
  match s.kernel ctx with
  | none => none
  | some k =>
    let base := if k.npk = 0 then 0 else s.pkgSelf ctx * k.area
    if base ≤ index ∧ index < base + k.area then some (index - base) else none

/-- A tile that has executed KEND is absent from every arrival after those issued before it (R185). -/
def State.autoArrives (s : State) (ctx : Nat) (ared : Bool) (num index : Nat) : Bool :=
  match s.partTile ctx index with
  | some ltn =>
    let p := s.part ctx ltn
    p.ended && decide (p.endedAt ared < num)
  | none => false

/-- A subtree in which every tile is absent; `fuel` bounds the levels. A child of another package is known to be absent once it has said so. -/
def State.silent (s : State) (ctx : Nat) (ared : Bool) (num n : Nat) : Nat → Nat → Bool
  | 0, _ => false
  | fuel + 1, t => s.autoArrives ctx ared num t && (childrenOf t n).all fun c =>
      if (s.partTile ctx c).isSome then s.silent ctx ared num n fuel c
      else (s.partTile ctx t).any fun ltn => (s.part ctx ltn).toldAbsent ared num c

/-- Barrier traffic to a participant: to its tile, or out of the package (R185, R402). -/
def State.barSend (s : State) (ctx index num : Nat) (ared up : Bool) (src : Nat) (val : Option Contrib) : State :=
  match s.partTile ctx index, s.kernel ctx with
  | some _, _ => s.send (if up then .barUp ctx index num ared src val else .barDown ctx index num ared val)
  | none, some k =>
    (s.emit ctx (index / k.area) (index % k.area) false (.barrier ctx index num ared up src val)).getD s
  | none, none => s

/-- A tile whose own arrival and whole subtree are in sends to its parent; participant 0 starts the release (R58, R185). An evicted tile's arrivals
are held with its image (R185). -/
def State.tryBar (s : State) (ctx ltn : Nat) (b : BarNode) : State :=
  match s.kernel ctx with
  | none => s
  | some k =>
    if s.keepsFor ctx ltn then s
    else
    let t := s.partIndex ctx ltn
    let n := k.participants
    let kids := childrenOf t n
    let own := match b.own with
      | some v => some v
      | none => if s.autoArrives ctx b.ared b.num t then some none else none
    let allIn := kids.all fun c => b.got.any (fun g => g.1 = c) || (s.part ctx ltn).toldAbsent b.ared b.num c || s.silent ctx b.ared b.num n treeLevels c
    match b.sent, own, allIn with
    | false, some v, true =>
      let val := kids.foldl (fun a c => combineContrib a (((b.got.find? fun g => g.1 = c).map (·.2)).getD none)) v
      let s := s.setPart ctx ltn ((s.part ctx ltn).setBar { b with own := some v, sent := true })
      if t = 0 then s.barSend ctx 0 b.num b.ared false 0 val
      else s.barSend ctx (parentOf t).2 b.num b.ared true t val
    | _, _, _ => s

/-- The number from which on a participant of this package and its whole subtree are absent; none while one of them is not. -/
def State.absentFrom (s : State) (ctx : Nat) (ared : Bool) (n : Nat) : Nat → Nat → Option Nat
  | 0, _ => none
  | fuel + 1, t =>
    match s.partTile ctx t with
    | none => none
    | some ltn =>
      let p := s.part ctx ltn
      if !p.ended then none
      else
        (childrenOf t n).foldl (init := some (p.endedAt ared + 1)) fun acc c =>
          let sub : Option Nat :=
            if (s.partTile ctx c).isSome then s.absentFrom ctx ared n fuel c
            else (p.absents.find? fun a => a.ared = ared ∧ a.src = c).map (·.start)
          match acc, sub with
          | some a, some b => some (Nat.max a b)
          | _, _ => none

/-- A tile whose parent is in another package tells it once that its subtree is absent from now on, since no message of its own would
otherwise tell that a later arrival is not to be waited for (R185; notes/assumptions/55.md). -/
def State.sendAbsent (s : State) (ctx ltn : Nat) (ared : Bool) (k : Kernel) : State :=
  let t := s.partIndex ctx ltn
  let up := (parentOf t).2
  let p := s.part ctx ltn
  if t = 0 ∨ (s.partTile ctx up).isSome ∨ p.absentTold.contains ared ∨ s.keepsFor ctx ltn then s
  else
    match s.absentFrom ctx ared k.participants treeLevels t with
    | some m =>
      ((s.setPart ctx ltn { p with absentTold := p.absentTold ++ [ared] }).emit ctx (up / k.area) (up % k.area) false
        (.absent ctx up ared t m)).getD s
    | none => s

/-- After a KEND, and after a tile comes back, every place of the context that now has its whole subtree sends on, and subtrees that are absent say
so. -/
def State.pumpBars (s : State) (ctx : Nat) : State :=
  match s.kernel ctx with
  | none => s
  | some k =>
    (List.range k.area).foldl (init := s) fun s ltn =>
      let s := (s.part ctx ltn).bars.foldl (fun s b => s.tryBar ctx ltn b) s
      (s.sendAbsent ctx ltn false k).sendAbsent ctx ltn true k

/-- The tile's own arrival, once its release condition holds (R185). -/
def State.postArrival (s : State) (id : Nat) : State :=
  match s.req id with
  | none => s
  | some r =>
    let arrive (num : Nat) (ared : Bool) (val : Option Contrib) : State :=
      let p := s.part r.ref.ctx r.ref.ltn
      let b := { p.barNode ared num with own := some val }
      (s.setPart r.ref.ctx r.ref.ltn (p.setBar b)).tryBar r.ref.ctx r.ref.ltn b
    match r.kind with
    | .bar n => arrive n false none
    | .ared n op ty value => arrive n true (some ⟨op, ty, value, false⟩)
    | _ => s

/-- BAR_ARRIVAL (R185): the parent takes an arrival of its subtree. An evicted tile's packets wait with its image. -/
def execBarArrival (n : Nat) (s : State) : Host.Outcome State Fault Refusal :=
  match s.net[n]? with
  | some (.barUp ctx index num ared src val) =>
    (match s.partTile ctx index with
     | some ltn =>
       if (s.ptnOf ctx ltn).isNone then .next s
       else
         let s := s.takePacket n
         let p := s.part ctx ltn
         let b0 := p.barNode ared num
         let b := { b0 with got := b0.got ++ [(src, val)] }
         .next ((s.setPart ctx ltn (p.setBar b)).tryBar ctx ltn b)
     | none => .next s)
  | some (.barAbsent ctx index ared src start) =>
    (match s.partTile ctx index with
     | some ltn =>
       let s := s.takePacket n
       let p := s.part ctx ltn
       .next ((s.setPart ctx ltn { p with absents := p.absents ++ [⟨ared, src, start⟩] }).pumpBars ctx)
     | none => .next s)
  | _ => .next s

/-- The requests of a tile that wait for a barrier or all-reduce. -/
def State.barRequests (s : State) (ctx ltn num : Nat) (ared : Bool) : List Req :=
  s.reqs.filter fun r => decide (r.ref.ctx = ctx) && decide (r.ref.ltn = ltn) && (match r.kind with
    | .bar n => !ared && decide (n = num)
    | .ared n _ _ _ => ared && decide (n = num)
    | _ => false)

/-- How a barrier or all-reduce completes (R185, R186). An ARED in which no participant is present completes OK with no datum: DESIGN CHOICE
(notes/assumptions/75.md). -/
def barAnswer (r : Req) (val : Option Contrib) : Req :=
  match r.kind, val with
  | .ared .., some c => if c.bad then r.answer .refused [] else r.answer .ok [some (contribResult c)]
  | _, _ => r.answer .ok []

/-- A release at a tile (R185): its BAR or ARED completes, and a tile that has executed KEND keeps the number for one that it may yet issue. -/
def State.released (s : State) (ctx ltn num : Nat) (ared : Bool) (val : Option Contrib) : State :=
  let l := s.barRequests ctx ltn num ared
  let p := s.part ctx ltn
  let s := if l.isEmpty && p.ended then s.setPart ctx ltn { p with done := p.done ++ [(ared, num, val)] } else s
  l.foldl (fun s r => s.finish (barAnswer r val)) s

/-- A barrier issued on a tile that has executed KEND (R185): it completes at once where the number has been released. Else the tile, which is
absent from it, arrives with no value, so that each place up to participant 0 knows of the number even where every tile is absent. -/
def State.postAbsent (s : State) (ctx ltn : Nat) (ared : Bool) (num : Nat) : State :=
  let p := s.part ctx ltn
  match p.done.find? fun d => d.1 = ared ∧ d.2.1 = num with
  | some d => (s.barRequests ctx ltn num ared).foldl (fun s r => s.finish (barAnswer r d.2.2)) s
  | none =>
    let b := { p.barNode ared num with own := some none }
    (s.setPart ctx ltn (p.setBar b)).tryBar ctx ltn b

/-- BAR_RELEASE (R185): the release goes on to the tile's children, and completes its BAR or ARED. -/
def execBarRelease (n : Nat) (s : State) : Host.Outcome State Fault Refusal :=
  match s.net[n]? with
  | some (.barDown ctx index num ared val) =>
    (match s.partTile ctx index with
     | some ltn =>
       if (s.ptnOf ctx ltn).isNone then .next s
       else
         let s := s.takePacket n
         let p := s.part ctx ltn
         let s := s.setPart ctx ltn (p.dropBar ared num)
         let kids := childrenOf index (((s.kernel ctx).map (·.participants)).getD 0)
         let s := kids.foldl (fun s c => s.barSend ctx c num ared false index val) s
         .next (s.released ctx ltn num ared val)
     | none => .next s)
  | _ => .next s

end Sys2Proof.Machine
end

