-- ==== Sys2Proof/Machine/Chan.lean ====
section
/-! DEFINITION. The channel unit of a tile (R237 to R253): ports, the rendezvous at the sending port, selects, withdrawal and binding. -/

namespace Sys2Proof.Machine

/-! ## Bind words -/

/-- Fields of a bind word (R238). -/
def bindRpkg (w : Word) : Nat := w.toNat / 2 ^ 56
def bindSltn (w : Word) : Nat := w.toNat / 2 ^ 44 % 4096
def bindRltn (w : Word) : Nat := w.toNat / 2 ^ 32 % 4096
def bindRport (w : Word) : Nat := w.toNat / 2 ^ 24 % 64
def bindSport (w : Word) : Nat := w.toNat / 2 ^ 16 % 64
def bindSpkg (w : Word) : Nat := w.toNat / 2 ^ 8 % 256
def bindOp (w : Word) : Nat := w.toNat % 4
def bindMbz (w : Word) : Bool := decide (w.toNat / 2 ^ 30 % 4 = 0 ∧ w.toNat / 2 ^ 22 % 4 = 0 ∧ w.toNat / 4 % 64 = 0)

/-! ## Ports -/

/-- A port that is UNBOUND and holds nothing (R237). -/
def Port.unbound : Port := ⟨false, false, [], none, [], none, 0, none⟩

def Part.port (p : Part) (n : Nat) : Port := Tab.get Port.unbound p.ports n
def Part.setPort (p : Part) (n : Nat) (x : Port) : Part := { p with ports := Tab.set Port.unbound p.ports n x }
def State.port (s : State) (ctx ltn n : Nat) : Port := (s.part ctx ltn).port n
def State.setPort (s : State) (ctx ltn n : Nat) (x : Port) : State := s.setPart ctx ltn ((s.part ctx ltn).setPort n x)
def State.modPort (s : State) (ctx ltn n : Nat) (f : Port → Port) : State := s.setPort ctx ltn n (f (s.port ctx ltn n))

/-- The name of a port of this package. -/
def State.portRef (s : State) (ctx ltn n : Nat) : PortRef := ⟨s.pkgSelf ctx, ltn, n⟩

/-- A channel packet sent: to a tile of this package, or through a scale-up port (R239, R400). -/
def State.chSend (s : State) (p : ChPacket) : State :=
  if p.dst.pkg = s.pkgSelf p.ctx then s.send (.chan p)
  else
    (s.emit p.ctx p.dst.pkg p.dst.ltn false (.channel p)).getD s

/-- What travels on the data plane; the rest of a reply's class; the requests (R245). Packets of one kind between two ports keep their
order, by one route (R15; notes/assumptions/7.md). -/
def ChBody.plane : ChBody → Nat
  | .dataWords _ | .dataUnits _ => 0
  | .acceptance _ | .refuse | .withdrawn .. | .tested .. | .testRefused _ | .bound .. => 1
  | .ready _ | .readySelect .. | .offer _ | .go _ | .release _ | .withdraw _ | .test _ | .bind .. => 2

/-- What a tile that is being saved still takes: data on their way, and what ends a transfer (R254, R387). -/
def ChBody.ends : ChBody → Bool
  | .dataWords _ | .dataUnits _ | .acceptance _ | .refuse | .withdrawn .. | .tested .. | .testRefused _ | .bound .. => true
  | .ready _ | .readySelect .. | .offer _ | .go _ | .release _ | .withdraw _ | .test _ | .bind .. => false

/-- Whether an earlier packet of its kind between its ports is on the way before the n-th one (R15; notes/assumptions/7.md). -/
def State.chBehind (s : State) (n : Nat) (p : ChPacket) : Bool :=
  (s.net.take n).any fun q => match q with
    | .chan q => decide (q.ctx = p.ctx) && decide (q.src = p.src) && decide (q.dst = p.dst) && decide (q.body.plane = p.body.plane)
    | _ => false

/-- A channel packet that has reached its tile: the tile is here, or a kill has discarded its image (R390), and no earlier packet of its kind between its ports is on the way. -/
def State.chArrived (s : State) (n : Nat) : Option ChPacket :=
  match s.net[n]? with
  | some (.chan p) =>
    let moving := decide ((s.tme p.ctx p.dst.ltn).st = .moving)
    if s.chBehind n p ∨ ((s.ptnOf p.ctx p.dst.ltn).isNone && !(s.part p.ctx p.dst.ltn).gone) ∨ (moving && !p.body.ends) then none else some p
  | _ => none

/-- An answer to a packet, from the port it reached to the port that sent it. -/
def State.chReply (s : State) (p : ChPacket) (b : ChBody) : State := s.chSend ⟨p.ctx, p.dst, p.src, b⟩

/-! ## Completions -/

/-- An operation of a channel completes: a request's completion is sent, an engine is told (R243, R257). -/
def State.chDone (s : State) (ctx ltn : Nat) (o : ChOwner) (st : Status) : State :=
  match o with
  | .req id =>
    (match s.req id with
     | some r => s.finish (r.answer st [])
     | none => s)
  | o =>
    let p := s.part ctx ltn
    s.setPart ctx ltn { p with ends := p.ends ++ [(o, st)] }

/-- Readies and ready-selects recorded at a port are answered with refuse (R239, R253). -/
def State.refuseRecorded (s : State) (ctx ltn n : Nat) : State :=
  let p := s.port ctx ltn n
  let dests := p.rdy.map (·.1) ++ (p.rsel.map (·.1)).toList
  let s := s.modPort ctx ltn n fun p => { p with rdy := [], rsel := none }
  dests.foldl (fun s m => s.chSend ⟨ctx, s.portRef ctx ltn n, m, .refuse⟩) s

/-- A port whose tile has executed KEND, or that is not bound, becomes unbound once it holds nothing, and what is recorded there is refused (R239,
R253). -/
def State.settlePort (s : State) (ctx ltn n : Nat) : State :=
  let p := s.port ctx ltn n
  if p.op.isNone ∧ (!p.bound ∨ (s.part ctx ltn).ended) then (s.refuseRecorded ctx ltn n).setPort ctx ltn n .unbound else s

/-- The operation on a port completes and leaves it. -/
def State.chEnd (s : State) (ctx ltn n : Nat) (st : Status) : State :=
  match (s.port ctx ltn n).op with
  | none => s
  | some op =>
    let p := s.part ctx ltn
    let s := if p.landed.isEmpty then s else s.setPart ctx ltn { p with landed := Tab.set 0 p.landed n 0 }
    ((s.modPort ctx ltn n fun p => { p with op := none }).settlePort ctx ltn n).chDone ctx ltn op.owner st

/-! ## Moving data -/

/-- Units of 64 bytes of a scratchpad block; a unit that meets poison travels marked (R247). -/
def Part.units (p : Part) (a bytes : Nat) : List (Option (List Byte)) :=
  (List.range (bytes / 64)).map fun i => if p.poisonedIn (a + 64 * i) 64 then none else some (p.bytes (a + 64 * i) 64)

/-- Bytes cut into units of at most 64. -/
def cutUnits (l : List Byte) (bad : Bool) : List (Option (List Byte)) :=
  (List.range ((l.length + 63) / 64)).map fun i => if bad then none else some ((l.drop (64 * i)).take 64)

/-- The size of a send of a block; 0 for words. -/
def ChForm.blockBytes : ChForm → Nat
  | .sendBlock _ n => n
  | .sendBytes l _ => l.length
  | _ => 0

/-- R241: a send and a receive match. -/
def ChForm.matches (f : ChForm) (a : Asked) : Bool :=
  match f, a with
  | .sendWords d, .words n => decide (d.length = n)
  | .sendBlock _ b, .block n => decide (b = n)
  | .sendBytes l _, .block n => decide (l.length = n)
  | .sendBlock _ b, .latch => decide (b = 1024 ∨ b = 1088)
  | .sendBytes l _, .latch => decide (l.length = 1024 ∨ l.length = 1088)
  | _, _ => false

/-- What a send puts on the network as its data move; poison in its block makes a RAS record on the sending tile (R247). -/
def State.chData (s : State) (ctx ltn : Nat) (f : ChForm) : ChBody × State :=
  match f with
  | .sendWords d => (.dataWords d, s)
  | .sendBlock a n =>
    let u := (s.part ctx ltn).units a n
    let ptn := s.homePtn ctx ltn
    (.dataUnits u, if u.any (·.isNone) then s.ras 0x02 1 ctx (ptnDie ptn) (BitVec.ofNat 64 a) ptn else s)
  | .sendBytes l bad => (.dataUnits (cutUnits l bad), s)
  | _ => (.dataWords [], s)

/-- Data sent to some members of a port, which then awaits their acceptances (R243, R248). -/
def State.chMove (s : State) (ctx ltn n : Nat) (op : ChOp) (dests : List PortRef) : State :=
  let (b, s) := s.chData ctx ltn op.form
  let s := s.modPort ctx ltn n fun p =>
    { p with op := some { op with moving := dests }, rdy := p.rdy.filter fun r => !dests.contains r.1 }
  dests.foldl (fun s m => s.chSend ⟨ctx, s.portRef ctx ltn n, m, b⟩) s

/-- A form that sends. An unbound port that still holds a receive, until it is refused, may be bound anew (R239, R251). -/
def ChForm.sends : ChForm → Bool
  | .sendWords _ | .sendBlock .. | .sendBytes .. => true
  | .recvWords .. | .recvBlock .. | .recvLatch _ | .select _ => false

/-- The block that is on its way from a port: its aligned 8 bytes may be read up to the sender's completion (R205, R244). -/
def State.carry (s : State) (ctx ltn port n : Nat) : State :=
  match (s.port ctx ltn port).op with
  | some op =>
    (match op.form with
     | .sendBlock a m =>
       if m ≤ 8 * n ∨ (s.part ctx ltn).poisonedIn (a + 8 * n) 8 then s
       else
         let w := (s.part ctx ltn).bytes (a + 8 * n) 8
         let put (b : ChBody) : ChBody := match b with
           | .dataUnits u => .dataUnits (u.zipIdx.map fun e =>
               if e.2 = n / 8 then e.1.map fun l => l.take (8 * (n % 8)) ++ w ++ l.drop (8 * (n % 8) + 8) else e.1)
           | b => b
         let mine (p : ChPacket) : Bool := decide (p.ctx = ctx) && decide (p.src = s.portRef ctx ltn port)
         { s with
           net := s.net.map fun q => match q with
             | .chan p => .chan (if mine p then { p with body := put p.body } else p)
             | q => q
           out := s.out.map fun o => { o with body := match o.body with
             | .channel p => .channel (if mine p then { p with body := put p.body } else p)
             | b => b }
           outHeld := s.outHeld.map fun o => { o with body := match o.body with
             | .channel p => .channel (if mine p then { p with body := put p.body } else p)
             | b => b } }
     | _ => s)
  | none => s

/-- An operation that a new ready or ready-select may find: posted, not offered, not moving. -/
def ChOp.free (o : ChOp) : Bool := !o.held && o.offered.isNone && o.moving.isEmpty

/-- The sending port acts on what it holds: data move once every member is ready, and an unoffered send is offered to a recorded
ready-select (R243, R248). -/
def State.chTry (s : State) (ctx ltn n : Nat) : State :=
  let p := s.port ctx ltn n
  match p.op with
  | none => s
  | some op =>
    if !p.send ∨ !op.free ∨ !op.form.sends then s
    else if p.members.all fun m => p.rdy.any fun r => r.1 = m then
      if p.rdy.all fun r => op.form.matches r.2 then s.chMove ctx ltn n op p.members
      else
        let s := p.members.foldl (fun s m => s.chSend ⟨ctx, s.portRef ctx ltn n, m, .refuse⟩) s
        (s.modPort ctx ltn n fun p => { p with rdy := [] }).chEnd ctx ltn n .refused
    else
      match p.rsel with
      | some (m, seq, k) =>
        (s.modPort ctx ltn n fun p => { p with op := some { op with offered := some (m, seq, k) }, rsel := none }).chSend
          ⟨ctx, s.portRef ctx ltn n, m, .offer seq⟩
      | none => s

/-! ## Posting (R242) -/

/-- A send posted on a port; a port that holds an operation, and a unicast send on a larger group, refuse it (R242, R248). -/
def State.postSend (s : State) (ctx ltn n : Nat) (op : ChOp) (multi : Bool) : State :=
  let p := s.port ctx ltn n
  if p.op.isSome ∨ (!multi ∧ p.members.length ≠ 1) then s.chDone ctx ltn op.owner .refused
  else (s.modPort ctx ltn n fun p => { p with op := some op }).chTry ctx ltn n

/-- A held send is posted (R246). -/
def State.postHeld (s : State) (ctx ltn n tag : Nat) : State :=
  match (s.port ctx ltn n).op with
  | some op =>
    if op.tag = tag ∧ op.held then (s.modPort ctx ltn n fun p => { p with op := some { op with held := false } }).chTry ctx ltn n
    else s
  | none => s

/-- What a receive asks for. -/
def ChForm.asked : ChForm → Option Asked
  | .recvWords _ n => some (.words n)
  | .recvBlock _ b => some (.block b)
  | .recvLatch _ => some .latch
  | _ => none

/-- Halves of the B latch in use: blocks latched, receives whose ready is sent, blocks read ahead, and forwards not yet accepted (R241, R285,
R286). -/
def Part.latchUsed (p : Part) : Nat :=
  let asked := (p.ports.filter fun e => e.2.op.any fun o => decide (o.form = .recvLatch true)).length
  let fwd := match p.anvil.queue with
    | .run r :: _ => r.forward.length + r.sending + r.ahead.length + if r.taking.isEmpty then 0 else 1
    | _ => 0
  p.anvil.latch.length + asked + fwd

/-- Latch receives that wait send their readies while a half is free, lowest port first (R241). -/
def State.latchReadies (s : State) (ctx ltn : Nat) : State :=
  (s.part ctx ltn).ports.foldl (init := s) fun s e =>
    let p := s.part ctx ltn
    match (p.port e.1).op, (p.port e.1).members with
    | some op, m :: _ =>
      if op.form = .recvLatch false ∧ p.latchUsed < 2 then
        (s.modPort ctx ltn e.1 fun q => { q with op := some { op with form := .recvLatch true } }).chSend
          ⟨ctx, s.portRef ctx ltn e.1, m, .ready .latch⟩
      else s
    | _, _ => s

/-- A receive posted on a port: its ready goes to the sending port (R243). -/
def State.postRecv (s : State) (ctx ltn n : Nat) (op : ChOp) : State :=
  let p := s.port ctx ltn n
  if p.op.isSome then s.chDone ctx ltn op.owner .refused
  else
    let s := s.modPort ctx ltn n fun p => { p with op := some op }
    match op.form, op.form.asked, p.members with
    | .recvLatch _, _, _ => s.latchReadies ctx ltn
    | _, some a, m :: _ => s.chSend ⟨ctx, s.portRef ctx ltn n, m, .ready a⟩
    | _, _, _ => s

/-- A select of a tile. -/
def Part.sel (p : Part) (id : Nat) : Option Select := p.sels.find? fun x => x.id = id
def Part.setSel (p : Part) (x : Select) : Part := { p with sels := p.sels.map fun y => if y.id = x.id then x else y }
def State.setSel (s : State) (ctx ltn : Nat) (x : Select) : State := s.setPart ctx ltn ((s.part ctx ltn).setSel x)

/-- The select leaves its ports and completes. -/
def State.endSelect (s : State) (ctx ltn : Nat) (x : Select) (st : Status) : State :=
  let p := s.part ctx ltn
  let s := s.setPart ctx ltn { p with sels := p.sels.filter fun y => y.id ≠ x.id }
  let s := p.ports.foldl (init := s) fun s e =>
    if e.2.op.any fun o => decide (o.form = .select x.id) then
      (s.modPort ctx ltn e.1 fun q => { q with op := none }).settlePort ctx ltn e.1
    else s
  s.chDone ctx ltn (.req x.id) st

/-- A CHSEL posted on every port of its set, in ascending order (R249). -/
def State.postSelect (s : State) (ctx ltn : Nat) (x : Select) (op : ChOp) : State :=
  if x.ports.isEmpty ∨ x.ports.any fun n => (s.port ctx ltn n).op.isSome then s.chDone ctx ltn op.owner .refused
  else
    let p := s.part ctx ltn
    let s := s.setPart ctx ltn { p with sels := p.sels ++ [x] }
    x.ports.foldl (init := s) fun s n =>
      let q := s.port ctx ltn n
      let seq := (q.seq + 1) % 256
      let s := s.setPort ctx ltn n { q with op := some op, seq := seq }
      match q.members with
      | m :: _ => s.chSend ⟨ctx, s.portRef ctx ltn n, m, .readySelect seq x.n⟩
      | [] => s

/-! ## Withdrawal (R252) -/

/-- CHCAN of a port with the status that its operation will complete with: CANCELLED, or DEADLOCK (R252, R265). A send with readies recorded that do not
move it, some of a group's or one behind a .rel, is cancelled at once and leaves them: DESIGN CHOICE (notes/assumptions/83.md). -/
def State.withdrawPort (s : State) (ctx ltn n : Nat) (st : Status) : State :=
  let p := s.port ctx ltn n
  match p.op with
  | none => s
  | some op =>
    if op.cancel.isSome then s
    else
      let mark := s.modPort ctx ltn n fun p => { p with op := some { op with cancel := some st } }
      match op.form, p.members with
      | .select id, _ =>
        (match (s.part ctx ltn).sel id with
         | some x =>
           if x.winner.isSome ∨ x.cancel.isSome then s
           else
             let s := s.setSel ctx ltn { x with cancel := some st, answers := x.ports }
             x.ports.foldl (init := s) fun s n =>
               match (s.port ctx ltn n).members with
               | m :: _ => s.chSend ⟨ctx, s.portRef ctx ltn n, m, .withdraw id⟩
               | [] => s
         | none => s)
      | .recvLatch false, _ => s.chEnd ctx ltn n st
      | .recvWords .., m :: _ | .recvBlock .., m :: _ | .recvLatch true, m :: _ =>
        mark.chSend ⟨ctx, s.portRef ctx ltn n, m, .withdraw op.tag⟩
      | _, _ => if op.offered.isSome ∨ !op.moving.isEmpty then mark else s.chEnd ctx ltn n st

/-- Whether an unbind of a sending port is under way: its members are being released (R239). -/
def State.unbinding (s : State) (ctx ltn sport : Nat) : Bool :=
  s.reqs.any fun q => match q.kind with
    | .chbind w _ => decide (q.ref.ctx = ctx) && decide (q.ref.ltn = ltn) && !q.performed && decide (bindOp w = 2) && decide (bindSport w = sport)
    | _ => false

/-- KEND withdraws every operation of the tile (R253). -/
def State.withdrawAll (s : State) (ctx ltn : Nat) : State :=
  (s.part ctx ltn).ports.foldl (init := s) fun s e =>
    ((s.withdrawPort ctx ltn e.1 .cancelled).refuseRecorded ctx ltn e.1).settlePort ctx ltn e.1

/-! ## Landing (R244) -/

/-- Words written to a frame in one place of its order, if it is still there. -/
def State.landWords (s : State) (r : FrameRef) (rtag i : Nat) (ws : List Word) : State :=
  match s.frame r with
  | some f =>
    if f.rtag = rtag then s.setFrame r (ws.zipIdx.foldl (fun f e => f.setWord (i + e.2) e.1) f) else s
  | none => s

/-- Units of a block written to scratchpad, poisoned ones excepted (R247), but for the aligned 8 bytes that have landed before (R130). -/
def Part.landUnits (p : Part) (a : Nat) (u : List (Option (List Byte))) (landed : Nat) : Part :=
  u.zipIdx.foldl (init := p) fun p e =>
    let k := 8 * landed - 64 * e.2
    match e.1 with
    | some bs => if bs.length ≤ k then p else p.store (a + 64 * e.2 + k) (bs.drop k)
    | none => p

/-- The aligned 8 bytes of a block that come next land (R130). -/
def Part.landUnit (p : Part) (a : Nat) (u : List (Option (List Byte))) (port : Nat) : Part :=
  let k := Tab.get 0 p.landed port
  let p := match u[k / 8]? with
    | some (some bs) => p.store (a + 8 * k) ((bs.drop (8 * (k % 8))).take 8)
    | _ => p
  { p with landed := Tab.set 0 p.landed port (k + 1) }

/-- A block latched: 1,088 bytes begin with a token (R285). -/
def blockOf (u : List (Option (List Byte))) : Block :=
  let bad := u.any (·.isNone)
  let bytes := u.flatMap fun x => x.getD (List.replicate 64 0)
  if bytes.length = 1088 then ⟨bytes.drop 64, some (bytes.take 64), bad⟩ else ⟨bytes, none, bad⟩

/-- A port that has not the state for a packet answers it with refuse (R245). -/
def State.refusesNew (s : State) (ctx ltn n : Nat) : Bool := (s.part ctx ltn).ended || !(s.port ctx ltn n).bound

end Sys2Proof.Machine
end

