-- ==== Sys2Proof/Machine/Grant.lean ====
section
/-! DEFINITION. What local instructions and the engines of a tile may reach of its scratchpad (R128, R296). -/

namespace Sys2Proof.Machine

/-- SPGRANT of the running kernel in bytes (R128). -/
def State.spGrant (s : State) (ctx : Nat) : Nat := ((s.kernel ctx).map (·.spUnits * 16384)).getD 0

/-- 16 KiB units of a table of 2^logb buckets of 128 bytes (R297). -/
def tableUnits (logb : Nat) : Nat := 2 ^ logb * 128 / 16384

def PhTable.holds (t : PhTable) (u : Nat) : Bool := decide (t.unit ≤ u) && decide (u < t.unit + tableUnits t.logb)

/-- A 16 KiB unit that a Pigeonhole claim holds, from the retirement of its PHCLAIM on (R128, R298). -/
def Part.unitClaimed (p : Part) (u : Nat) : Bool :=
  p.tables.any (fun e => e.2.holds u) || p.phq.any fun o => match o.body with
    | .claim t .. => t.holds u
    | _ => false

/-- A local byte that local instructions may reach (R128). -/
def State.localOk (s : State) (ctx ltn a : Nat) : Bool :=
  decide (a < s.spGrant ctx) && !(s.part ctx ltn).unitClaimed (a / 16384)

/-- A range of local bytes in reach: its first and last byte and every unit between (R128). -/
def State.rangeOk (s : State) (ctx ltn a n : Nat) : Bool :=
  n = 0 || (decide (a + n ≤ s.spGrant ctx) &&
    (List.range ((a + n - 1) / 16384 - a / 16384 + 1)).all fun k => !(s.part ctx ltn).unitClaimed (a / 16384 + k))

end Sys2Proof.Machine
end

