-- ==== Sys2Proof/Machine/Anvil.lean ====
section
/-! DEFINITION. Anvil, the matrix engine of a tile: types (R271), steps (R59, R284), drains (R289 to R291), and how commands leave the
queue (R274, R287). -/

namespace Sys2Proof.Machine

/-! ## Types (R271, R272) -/

/-- The classes of R271: 16-bit float, 8- and 6-bit float, 8-bit integer, 4-bit float, 4-bit integer. -/
def anvilClass : Ty → Option Nat
  | .f16 | .bf16 => some 0
  | .e5m2 | .e4m3 | .e3m2 | .e2m3 => some 1
  | .s8 | .z8 => some 2
  | .e2m1 => some 3
  | .s4 | .z4 => some 4
  | _ => none

/-- Elements of K in a step (R271). -/
def stepK (t : Ty) : Nat := if t.width = 16 then 16 else if t.width = 4 then 64 else 32

/-- The type of a code (R67). -/
def tyOfCode : Nat → Option Ty
  | 0 => some .s64 | 1 => some .s32 | 2 => some .s16 | 3 => some .s8 | 4 => some .s4
  | 5 => some .z64 | 6 => some .z32 | 7 => some .z16 | 8 => some .z8 | 9 => some .z4
  | 10 => some .f64 | 11 => some .f32 | 12 => some .f16 | 13 => some .bf16 | 14 => some .e5m2
  | 15 => some .e4m3 | 16 => some .e3m2 | 17 => some .e2m3 | 18 => some .e2m1 | 19 => some .e8m0
  | _ => none

/-- The types of A and B that a configuration word names, if it names a permitted pair (R271, R272). -/
def anvilTypes (w : Word) : Option (Ty × Ty) :=
  let n := w.toNat
  if n / 2 ^ 13 ≠ 0 ∨ n / 2 ^ 5 % 8 ≠ 0 then none
  else
    match tyOfCode (n % 32), tyOfCode (n / 2 ^ 8 % 32) with
    | some a, some b => if (anvilClass a).isSome ∧ anvilClass a = anvilClass b then some (a, b) else none
    | _, _ => none

/-! ## One step (R59, R273, R284) -/

/-- The 32 bytes of a row or column, as a number. -/
def rowBits (t : Table Byte) (a : Nat) : Nat := ofLeBytes ((List.range 32).map fun k => Tab.get 0 t (a + k))

/-- Elements k = 0 to K - 1 of a row under its scales: `scale kb` is the scale byte of K-block kb (R52, R273). -/
def rowNums (t : Ty) (bits : Nat) (scale : Nat → Nat) : List Num :=
  (List.range (stepK t)).map fun k =>
    let x := decodeNum t (bits / 2 ^ (t.width * k) % 2 ^ t.width)
    if t.blockScaled then scaled x (scale (k / 32)) else x

/-- Integer elements of a row (R38). -/
def rowInts (t : Ty) (bits : Nat) : List Int :=
  (List.range (stepK t)).map fun k => intSrc t (bits / 2 ^ (t.width * k) % 2 ^ t.width)

/-- One accumulator element updated: its new bits, and whether the step counts it in NANC and OVFC (R59, R288). -/
def stepElement (old : Nat) (ps : List Num) : Nat × Bool × Bool :=
  let (new, _) := accumulate .rne old ps
  let x := decodeNum .f32 old
  let y := decodeNum .f32 new
  let finite (n : Num) : Bool := match n with
    | .fin .. => true
    | _ => false
  let inf : Bool := match y with
    | .inf _ => true
    | _ => false
  (new, y.isNaN && !x.isNaN, inf && finite x && finite (sumProducts ps).1)

/-- The 1,024 new elements of an accumulator, with their counts (R284, R288). -/
def stepAll (ta tb : Ty) (e : Anvil) (acc panel : Nat) (block : List Byte) : List (Nat × Bool × Bool) :=
  let col (j : Nat) : Nat := ofLeBytes ((block.drop (32 * j)).take 32)
  let old (i j : Nat) : Nat := (Tab.get 0 e.acc (acc * 1024 + 32 * i + j)).toNat
  if ta.isInt then
    let rows := (List.range 32).map fun i => rowInts ta (rowBits e.abuf (panel * 1024 + 32 * i))
    let cols := (List.range 32).map fun j => rowInts tb (col j)
    rows.zipIdx.flatMap fun r => cols.zipIdx.map fun c =>
      (accumulateInt (old r.2 c.2) ((List.zipWith (· * ·) r.1 c.1).foldl (· + ·) 0), false, false)
  else
    let rows := (List.range 32).map fun i =>
      rowNums ta (rowBits e.abuf (panel * 1024 + 32 * i)) fun kb => (Tab.get 0 e.ascale (panel * 64 + 32 * kb + i)).toNat
    let cols := (List.range 32).map fun j =>
      rowNums tb (col j) fun kb => (Tab.get 0x7F e.token (32 * kb + j)).toNat
    rows.zipIdx.flatMap fun r => cols.zipIdx.map fun c =>
      stepElement (old r.2 c.2) (List.zipWith (fun x y => (mulNum x y).1) r.1 c.1)

/-- A saturating counter (R269). -/
def satCount (c n : Nat) : Nat := Nat.min (c + n) (2 ^ 32 - 1)

/-- Elements of an accumulator written. -/
def setAcc (t : Table (BitVec 32)) (acc : Nat) (vals : List Nat) : Table (BitVec 32) :=
  vals.zipIdx.foldl (fun t e => Tab.set 0 t (acc * 1024 + e.2) (BitVec.ofNat 32 e.1)) t

/-- An accumulator zeroed; its parity mark goes (R279, R418). -/
def Anvil.zeroAcc (e : Anvil) (acc : Nat) : Anvil :=
  { e with acc := e.acc.filter (fun x => x.1 / 1024 ≠ acc), accBad := e.accBad.filter (· ≠ acc) }

/-- A step committed: the elements at once, and the counters (R284, R288). -/
def Anvil.commit (e : Anvil) (ta tb : Ty) (acc panel : Nat) (block : List Byte) : Anvil :=
  let l := stepAll ta tb e acc panel block
  { e with
    acc := setAcc e.acc acc (l.map (·.1))
    nanc := satCount e.nanc (l.filter (·.2.1)).length
    ovfc := satCount e.ovfc (l.filter (·.2.2)).length }

/-! ## Drains (R289 to R291) -/

/-- OSZ (R291). -/
def drainBytes (t : Ty) : Nat := 1024 * t.width / 8

/-- One element of a drain: its bits, and its flags (R290). -/
def drainElement (d : Drain) (int : Bool) (bits : Nat) : Nat × Fl × Bool :=
  let g := if d.scale = 0 then Num.fin false 1 0 else decodeNum .f32 d.scale
  let a : Num := if int then
      let v := intSrc .s32 bits
      .fin (decide (v < 0)) v.natAbs 0
    else decodeNum .f32 bits
  let (v, _) := mulNum a g
  if d.oty.isInt then
    let (x, f) := toIntTy d.oty v (rmMode d.rm)
    (putLane d.oty x, f, false)
  else
    let (x, f) := roundTo d.oty v (rmMode d.rm) (d.sat || decide (d.oty.width ≤ 6))
    (x, f, (decodeNum d.oty x).isNaN && !v.isNaN)

/-- The converted array, packed in row-major order, and the engine with its counters (R288, R291). -/
def Anvil.convertAcc (e : Anvil) (d : Drain) (int : Bool) : List Byte × Anvil :=
  let l := (List.range 1024).map fun i => drainElement d int (Tab.get 0 e.acc (d.acc * 1024 + i)).toNat
  let bits := l.foldr (fun x n => x.1 + n * 2 ^ d.oty.width) 0
  let has (f m : Fl) : Bool := decide (f &&& m ≠ 0)
  (leBytes (drainBytes d.oty) bits,
    { e with
      nanc := satCount e.nanc (l.filter (·.2.2)).length
      ovfc := satCount e.ovfc (l.filter fun x => has x.2.1 Fl.of).length
      satc := satCount e.satc (l.filter fun x => has x.2.1 Fl.sat).length })

/-- A steering entry (R279). -/
def steerV (w : Word) : Bool := w.getLsbD 63
def steerChan (w : Word) : Bool := w.getLsbD 62
def steerAdv (w : Word) : Bool := w.getLsbD 61
def steerDest (w : Word) : Nat := w.toNat % 2 ^ 19
/-- The entry with DEST advanced, mod 2^19. -/
def steerAdvance (w : Word) (n : Nat) : Word := BitVec.ofNat 64 (w.toNat / 2 ^ 19 * 2 ^ 19 + (steerDest w + n) % 2 ^ 19)

/-- What becomes of a drain at its place: done with a status, sent on a channel, or to be written to scratchpad. -/
inductive Drained where
  | done (st : Status)
  | sent
  | write (a : Nat) (bytes : List Byte)
  deriving DecidableEq, Repr

/-- The port that a drain goes to at its place, if it goes to one. -/
def Anvil.drainPort (e : Anvil) (d : Drain) : Option Nat :=
  let w := Tab.get 0 e.steer d.dest
  match d.kind with
  | .spad => none
  | .chan => some d.dest
  | .steer => if steerV w ∧ steerChan w then some (steerDest w % 64) else none

/-- A drain whose port holds an earlier drain of the engine waits for it: commands are as if each were executed to its end (R274). -/
def State.drainWaits (s : State) (ctx ltn : Nat) (d : Drain) : Bool :=
  match (s.anvil ctx ltn).drainPort d with
  | none => false
  | some n => (s.port ctx ltn n).op.any fun o => match o.owner with
    | .drain _ | .auto => true
    | .req _ | .ring | .latch | .table _ => false

/-- Drain of R289: the accumulator is converted, and counted (R288), then sent to its destination (R291): a channel send is posted for
`owner`, and cancelled on a tile that has executed KEND (R295). A drain that fails writes no byte; the bytes of one to scratchpad are in its
buffer. -/
def State.drainTo (s : State) (ctx ltn : Nat) (d : Drain) (owner : ChOwner) (ref : FrameRef) (rtag : Nat) : Drained × State :=
  let e := s.anvil ctx ltn
  match anvilTypes e.cfg with
  | none => (.done .refused, s)
  | some (ta, _) =>
    if e.accBad.contains d.acc then (.done .poison, s)
    else
      let w := Tab.get 0 e.steer d.dest
      let osz := drainBytes d.oty
      let (bytes, e) := e.convertAcc d ta.isInt
      let s := s.setAnvil ctx ltn e
      let where' : Option (Bool × Nat) := match d.kind with
        | .spad => some (false, d.dest)
        | .chan => some (true, d.dest)
        | .steer => if steerV w then some (steerChan w, if steerChan w then steerDest w % 64 else steerDest w) else none
      match where' with
      | none => (.done .refused, s)
      | some (false, a) =>
        if !s.rangeOk ctx ltn a osz then (.done .refused, s)
        else
          let e := if d.kind = .steer ∧ steerAdv w then { e with steer := Tab.set 0 e.steer d.dest (steerAdvance w osz) } else e
          (.write a bytes, s.setAnvil ctx ltn e)
      | some (true, port) =>
        let q := s.port ctx ltn port
        if (s.part ctx ltn).ended then (.done .cancelled, s)
        else if !q.bound ∨ !q.send ∨ q.op.isSome ∨ q.members.length ≠ 1 then (.done .refused, s)
        else
          let op : ChOp := ⟨owner, ref, rtag, 0, .sendBytes bytes false, false, none, [], .ok, none⟩
          (.sent, s.postSend ctx ltn port op false)

/-! ## The queue (R274) -/

def Anvil.setRun (e : Anvil) (r : Run) : Anvil :=
  { e with queue := match e.queue with
      | .run _ :: l => .run r :: l
      | l => l }

/-- A command leaves the queue. -/
def Anvil.pop (e : Anvil) : Anvil := { e with queue := e.queue.drop 1, left := e.left + 1 }
/-- How many commands will have left the queue once it is empty. -/
def Anvil.allLeft (e : Anvil) : Nat := e.left + e.queue.length

/-- A run stops: its posted operations are withdrawn, and the blocks latched for it go, since later commands go on (R287). A drain whose bytes
are being written ends first. -/
def State.stopRun (s : State) (ctx ltn : Nat) (r : Run) (st : Status) : State :=
  let e := s.anvil ctx ltn
  let r := { r with
    stopped := true, status := if r.status = .ok then st else r.status, forward := [], ahead := [], taking := []
    pend := if e.writing.isSome then r.pend else none }
  let s := s.setAnvil ctx ltn { e.setRun r with latch := [] }
  (s.part ctx ltn).ports.foldl (init := s) fun s e =>
    match e.2.op with
    | some op => if op.owner = .latch ∨ op.owner = .ring ∨ op.owner = .auto then s.withdrawPort ctx ltn e.1 .cancelled else s
    | none => s

/-- A channel operation of the engine has completed (R285, R286, R291). -/
def State.anvilEnd (s : State) (ctx ltn : Nat) (o : ChOwner) (st : Status) : State :=
  let e := s.anvil ctx ltn
  match o with
  | .drain id => (s.setAnvil ctx ltn { e with draining := e.draining.filter (· ≠ id) }).answerAll [id] st []
  | .latch | .ring | .auto =>
    (match e.queue with
     | .run r :: _ =>
       let r := match o with
         | .latch => { r with receiving := r.receiving - 1 }
         | .ring => { r with sending := r.sending - 1 }
         | _ => { r with drains := r.drains - 1 }
       let e := e.setRun r
       let s := s.setAnvil ctx ltn (if r.stopped then { e with latch := [] } else e)
       -- a poisoned block is in the latch, and stops the run at its step (R294)
       if st = .ok ∨ (o = .latch ∧ st = .poison) ∨ r.stopped then s else s.stopRun ctx ltn r st
     | _ => s)
  | .req _ | .table _ => s

/-- Aligned 8 bytes that an MLDA reads for each panel: of the panel, and of its scales where ATY is block-scaled (R280). -/
def Anvil.panelUnits (e : Anvil) : Nat :=
  if ((anvilTypes e.cfg).map fun t => t.1.blockScaled).getD (((tyOfCode (e.cfg.toNat % 32)).map (·.blockScaled)).getD false) then 136
  else 128

/-- The aligned 8 bytes of a kilobyte at one address and 64 bytes at another: where the k-th lie. -/
def unitAt (x z k : Nat) : Nat := if k < 128 then x + 8 * k else z + 8 * (k - 128)

/-- The next aligned 8 bytes of an MLDA (R280): a panel's mark goes as it is loaded, and comes where poison is met (R294). -/
def Part.loadUnit (p : Part) (x first z : Nat) : Part :=
  let e := p.anvil
  let n := e.words / e.panelUnits
  let k := e.words % e.panelUnits
  let a := unitAt (x + 1024 * n) (z + 64 * n) k
  let bad := p.poisonedIn a 8
  let copy (t : Table Byte) (base : Nat) : Table Byte := (p.bytes a 8).zipIdx.foldl (fun t b => Tab.set 0 t (base + b.2) b.1) t
  let marks := if k = 0 then e.apoison.filter (· ≠ first + n) else e.apoison
  { p with anvil := { e with
      abuf := if k < 128 then copy e.abuf (1024 * (first + n) + 8 * k) else e.abuf
      ascale := if k < 128 then e.ascale else copy e.ascale (64 * (first + n) + 8 * (k - 128))
      apoison := if bad && !marks.contains (first + n) then marks ++ [first + n] else marks
      met := e.met || bad
      words := e.words + 1 } }

/-- The MLDA at the head of the queue reads all that it has yet to read, and completes (R280, R294). -/
def State.loadPanels (s : State) (ctx ltn id x first count z : Nat) : State :=
  let p := s.part ctx ltn
  let p := (List.range (count * p.anvil.panelUnits - p.anvil.words)).foldl (fun p _ => p.loadUnit x first z) p
  let st : Status := if p.anvil.met then .poison else .ok
  (s.setPart ctx ltn { p with anvil := { p.anvil.pop with words := 0, met := false } }).answerAll [id] st []

/-- The datum of MSTAT (R292). -/
def Anvil.statWord (e : Anvil) (sel : Nat) : Word :=
  match sel with
  | 0 => BitVec.ofNat 64 e.nanc
  | 1 => BitVec.ofNat 64 e.ovfc
  | 2 => BitVec.ofNat 64 e.satc
  | 3 => BitVec.ofNat 64 e.stepc
  | 4 => e.cfg
  | n => Tab.get 0 e.steer (n - 16)

/-- MSTAT's clear of the counter it read (R292). -/
def Anvil.clearCount (e : Anvil) (sel : Nat) : Anvil :=
  match sel with
  | 0 => { e with nanc := 0 }
  | 1 => { e with ovfc := 0 }
  | 2 => { e with satc := 0 }
  | _ => e

/-- A run that has no more to do completes; the steps it reports are those since the latest resume (R284, R441). -/
def State.endRun (s : State) (ctx ltn : Nat) (r : Run) : Option State :=
  let isOver := r.stopped || decide (r.steps ≤ r.next)
  if isOver ∧ r.pend.isNone ∧ r.forward.isEmpty ∧ r.sending = 0 ∧ r.receiving = 0 ∧ r.drains = 0 then
    let e := (s.anvil ctx ltn).pop
    let e := if r.steps = 0 then e else { e with stepc := r.fresh }
    some ((s.setAnvil ctx ltn e).answerAll [r.id] r.status [])
  else none

/-- A forward of the run at the head of the queue is posted once OUT holds nothing (R286). -/
def State.postForward (s : State) (ctx ltn : Nat) (r : Run) (ref : FrameRef) (rtag : Nat) : Option State :=
  let p := s.part ctx ltn
  match r.forward with
  | [] => none
  | b :: rest =>
    if p.ended then some (s.stopRun ctx ltn r .cancelled)
    else if (p.port r.out).op.isSome then none
    else
      let s := s.setAnvil ctx ltn (p.anvil.setRun { r with forward := rest, sending := r.sending + 1 })
      let bytes := (b.token.getD []) ++ b.bytes
      some (s.postSend ctx ltn r.out ⟨.ring, ref, rtag, 0, .sendBytes bytes b.poisoned, false, none, [], .ok, none⟩ false)

/-- A latch receive of the run is posted while it needs a block, a half is free, and IN holds nothing (R285). -/
def State.postLatch (s : State) (ctx ltn : Nat) (r : Run) (ref : FrameRef) (rtag : Nat) : Option State :=
  let p := s.part ctx ltn
  let e := p.anvil
  if !r.chan ∨ r.stopped ∨ r.steps ≤ r.next + e.latch.length + r.receiving then none
  else if p.ended then some (s.stopRun ctx ltn r .cancelled)
  else if (p.port r.inp).op.isSome ∨ 2 ≤ p.latchUsed then none
  else
    let s := s.setAnvil ctx ltn (e.setRun { r with receiving := r.receiving + 1 })
    let tag := s.nextId
    let s := { s with nextId := tag + 1 }
    some (s.postRecv ctx ltn r.inp ⟨.latch, ref, rtag, tag, .recvLatch false, false, none, [], .ok, none⟩)

/-- What the run at the head of the queue posts: a forward, or a latch receive (R285, R286). -/
def State.postRun (s : State) (ctx ltn : Nat) (r : Run) : Option State :=
  let q := s.req r.id
  let ref := (q.map (·.ref)).getD ⟨ctx, ltn, 0, 0⟩
  let rtag := (q.map (·.rtag)).getD 0
  match s.postForward ctx ltn r ref rtag with
  | some s => some s
  | none => s.postLatch ctx ltn r ref rtag

/-- The engine goes on with the command at the head of its queue, where no step or drain is needed. -/
def State.anvilGo (s : State) (ctx ltn : Nat) : Option State :=
  let e := s.anvil ctx ltn
  match e.queue with
  | [] => none
  | .cfg w :: _ => some (s.setAnvil ctx ltn { e.pop with cfg := w })
  | .ldb x y z :: _ => some (s.setAnvil ctx ltn { e.pop with bbase := x, bstride := y, btoken := z })
  | .zero m :: _ =>
    some (s.setAnvil ctx ltn ((List.range 8).foldl (fun e a => if m / 2 ^ a % 2 = 1 then e.zeroAcc a else e) e.pop))
  | .steer n w :: _ => some (s.setAnvil ctx ltn { e.pop with steer := Tab.set 0 e.steer n w })
  | .stat id sel clear :: _ =>
    let s := s.setAnvil ctx ltn (if clear then e.pop.clearCount sel else e.pop)
    some (s.answerAll [id] .ok [some (e.statWord sel)])
  | .run r :: _ =>
    (match s.endRun ctx ltn r with
     | some s => some s
     | none => if r.stopped then none else s.postRun ctx ltn r)
  | .lda .. :: _ | .drn .. :: _ => none

/-- The block of a step from scratchpad, and its token (R281), of which the first bytes have been read: REFUSED outside the grant, POISON where
what is yet to be read meets poison (R287, R294). -/
def State.spadBlock (s : State) (ctx ltn step : Nat) (token : Bool) (got : List Byte) : Except Status Block :=
  let p := s.part ctx ltn
  let x := (p.anvil.bbase + p.anvil.bstride * step) % 2 ^ 64
  let z := (p.anvil.btoken + 64 * step) % 2 ^ 64
  let k := got.length
  if !s.rangeOk ctx ltn x 1024 ∨ (token ∧ !s.rangeOk ctx ltn z 64) then .error .refused
  else if p.poisonedIn (x + k) (1024 - k) ∨ (token ∧ p.poisonedIn (z + (k - 1024)) (64 - (k - 1024))) then .error .poison
  else
    let l := got ++ (p.bytes x 1024 ++ if token then p.bytes z 64 else []).drop k
    .ok ⟨l.take 1024, if token then some (l.drop 1024) else none, false⟩

/-- What reading a block came to, as it is held for the block's step. -/
def aheadOf : Except Status Block → Status × Block
  | .ok b => (.ok, b)
  | .error st => (st, ⟨[], none, false⟩)

/-- The block of the B stream that the engine may read into a free latch half while the current step runs (R285): its step, and whether a token
comes with it. -/
def State.nextAhead (s : State) (ctx ltn : Nat) : Option (Run × Nat × Bool) :=
  let p := s.part ctx ltn
  match p.anvil.queue with
  | .run r :: _ =>
    let step := r.next + r.ahead.length
    if r.chan ∨ r.stopped ∨ r.steps ≤ step ∨ (r.taking.isEmpty ∧ 2 ≤ p.latchUsed) ∨ (s.tme ctx ltn).st ≠ .resident then none
    else (anvilTypes p.anvil.cfg).map fun t => (r, step, t.2.blockScaled)
  | _ => none

/-- The engine reads the next block of the B stream, or what is left of it; what it meets there is met at the block's step. -/
def State.readAhead (s : State) (ctx ltn : Nat) : State :=
  match s.nextAhead ctx ltn with
  | none => s
  | some (r, step, token) =>
    s.setAnvil ctx ltn ((s.anvil ctx ltn).setRun { r with
      ahead := r.ahead ++ [aheadOf (s.spadBlock ctx ltn step token r.taking)], taking := [] })

/-- The engine reads the next aligned 8 bytes of that block (R130, R205). -/
def State.readUnit (s : State) (ctx ltn : Nat) : State :=
  match s.nextAhead ctx ltn with
  | none => s
  | some (r, step, token) =>
    let p := s.part ctx ltn
    let x := (p.anvil.bbase + p.anvil.bstride * step) % 2 ^ 64
    let z := (p.anvil.btoken + 64 * step) % 2 ^ 64
    let a := unitAt x z (r.taking.length / 8)
    let st : Status := if !s.rangeOk ctx ltn x 1024 ∨ (token ∧ !s.rangeOk ctx ltn z 64) then .refused
      else if p.poisonedIn a 8 then .poison else .ok
    if st ≠ .ok then s.setAnvil ctx ltn (p.anvil.setRun { r with ahead := r.ahead ++ [(st, ⟨[], none, false⟩)], taking := [] })
    else
      let l := r.taking ++ p.bytes a 8
      s.setAnvil ctx ltn (p.anvil.setRun (if l.length < (if token then 1088 else 1024) then { r with taking := l }
        else { r with ahead := r.ahead ++ [(.ok, ⟨l.take 1024, if token then some (l.drop 1024) else none, false⟩)], taking := [] }))

/-- A step with its block (R284): not committed where poison is met (R294, R418). -/
def State.runStep (s : State) (ctx ltn : Nat) (r : Run) (ta tb : Ty) (b : Block) : State :=
  let e := s.anvil ctx ltn
  let a := (r.acc + r.next / r.spa) % 8
  let q := r.panel + r.next % r.spa
  let e := match b.token with
    | some t => { e with token := t.zipIdx.foldl (fun t x => Tab.set 0x7F t x.2 x.1) e.token }
    | none => e
  let s := s.setAnvil ctx ltn e
  if b.poisoned ∨ e.apoison.contains q ∨ e.accBad.contains a then s.stopRun ctx ltn r .poison
  else
    let tok := (List.range 64).map fun i => Tab.get 0x7F e.token i
    let fwd : List Block := if r.ring ∧ r.next + 1 < r.steps then
        [⟨b.bytes, if tb.blockScaled then some tok else none, false⟩] else []
    let drain := if r.drn.isSome ∧ (r.next + 1) % r.spa = 0 then some (a, r.next / r.spa) else none
    let r := { r with next := r.next + 1, fresh := r.fresh + 1, forward := r.forward ++ fwd, pend := drain }
    s.setAnvil ctx ltn ((e.commit ta tb a q b.bytes).setRun r)

/-- The automatic drain m of a run (R283). -/
def autoDrain (w m a : Nat) : Drain :=
  let oty := (tyOfCode (w / 2 ^ 21 % 32)).getD .f32
  let rm : RM := match w / 2 ^ 26 % 4 with
    | 0 => .rne
    | 1 => .rtz
    | 2 => .rup
    | _ => .rdn
  let dest := w % 2 ^ 19
  match w / 2 ^ 30 % 4 with
  | 0 => ⟨a, .spad, dest + m * drainBytes oty, w / 2 ^ 32 % 2 ^ 32, oty, rm, decide (w / 2 ^ 29 % 2 = 1)⟩
  | 1 => ⟨a, .chan, dest % 64, w / 2 ^ 32 % 2 ^ 32, oty, rm, decide (w / 2 ^ 29 % 2 = 1)⟩
  | _ => ⟨a, .steer, (dest % 16 + a) % 16, w / 2 ^ 32 % 2 ^ 32, oty, rm, decide (w / 2 ^ 29 % 2 = 1)⟩

/-- Drain buffers in use (R269, R289). -/
def Anvil.buffersUsed (e : Anvil) : Nat :=
  e.draining.length + match e.queue with
    | .run r :: _ => r.drains
    | _ => 0

/-- The drain at the head of the queue: the one that a committed step awaits, or an MDRN; with its owner and its request (R284, R289). -/
def Anvil.drainHead (e : Anvil) : Option (Drain × ChOwner × Nat) :=
  match e.queue with
  | .run r :: _ => r.pend.map fun x => (autoDrain (r.drn.getD 0) x.2 x.1, .auto, r.id)
  | .drn id d :: _ => some (d, .drain id, id)
  | _ => none

/-- What the drain at the head of the queue came to: an MDRN leaves the queue, and completes where it was not sent; after an automatic drain
the accumulator is zero, or the run stops (R284, R287). -/
def State.drainEnd (s : State) (ctx ltn : Nat) (d : Drained) : State :=
  let e := s.anvil ctx ltn
  let e := { e with writing := none }
  match e.queue with
  | .run r :: _ =>
    let a := (r.pend.map (·.1)).getD 0
    (match d with
     | .sent => s.setAnvil ctx ltn ((e.zeroAcc a).setRun { r with pend := none, drains := r.drains + 1 })
     | .done .ok | .write .. => s.setAnvil ctx ltn ((e.zeroAcc a).setRun { r with pend := none })
     | .done st => s.stopRun ctx ltn r st)
  | .drn id _ :: _ =>
    (match d with
     | .sent => s.setAnvil ctx ltn { e.pop with draining := e.draining ++ [id] }
     | .write .. => (s.setAnvil ctx ltn e.pop).answerAll [id] .ok []
     | .done st => (s.setAnvil ctx ltn e.pop).answerAll [id] st [])
  | _ => s

/-- Whether the drain at the head of the queue may begin: a drain buffer is free, and its port holds no earlier drain (R274, R289, R295). -/
def State.drainReady (s : State) (ctx ltn : Nat) : Bool :=
  let e := s.anvil ctx ltn
  e.writing.isNone && decide (e.buffersUsed < 2) && decide ((s.tme ctx ltn).st = .resident)
    && e.drainHead.any fun x => !s.drainWaits ctx ltn x.1

/-- The drain at the head begins at its place (R289): one to scratchpad has its bytes in the buffer then. -/
def State.drainBegin (s : State) (ctx ltn : Nat) : State :=
  match (s.anvil ctx ltn).drainHead with
  | none => s
  | some (d, owner, id) =>
    if !s.drainReady ctx ltn then s
    else
      let q := s.req id
      match s.drainTo ctx ltn d owner ((q.map (·.ref)).getD ⟨ctx, ltn, 0, 0⟩) ((q.map (·.rtag)).getD 0) with
      | (.write a bytes, s) => s.setAnvil ctx ltn { s.anvil ctx ltn with writing := some (a, bytes) }
      | (x, s) => s.drainEnd ctx ltn x

/-- The first bytes of a drain that is at its place are written, as many as asked; the drain ends with the last (R130, R291). The order of its aligned
8-byte words, ascending here, is left open: DESIGN CHOICE (notes/assumptions/66.md). -/
def State.drainWrite (s : State) (ctx ltn n : Nat) : State :=
  match (s.anvil ctx ltn).writing with
  | none => s
  | some (a, bytes) =>
    let p := (s.part ctx ltn).store a (bytes.take n)
    let left := bytes.drop n
    let s := s.setPart ctx ltn { p with anvil := { p.anvil with writing := some (a + n, left) } }
    if left.isEmpty then s.drainEnd ctx ltn (.write a bytes) else s

/-- The engine reads or writes the next aligned 8 bytes of scratchpad for the command at the head of its queue: an MLDA, a drain, or a block of a
run (R130, R205). -/
def State.engineUnit (s : State) (ctx ltn : Nat) : State :=
  let p := s.part ctx ltn
  if p.anvil.writing.isSome then s.drainWrite ctx ltn 8
  else
    match p.anvil.queue with
    | .lda _ x first count z :: _ =>
      if (s.tme ctx ltn).st ≠ .resident ∨ count * p.anvil.panelUnits ≤ p.anvil.words then s else s.setPart ctx ltn (p.loadUnit x first z)
    | _ => if s.drainReady ctx ltn then (s.drainBegin ctx ltn).drainWrite ctx ltn 8 else s.readUnit ctx ltn

end Sys2Proof.Machine
end

