-- ==== Sys2Proof/Machine/Pigeon.lean ====
section
/-! DEFINITION. The table port of a tile (R296 to R322): the hash, one lane operation, spill steps, claims and drains, in port order. -/

namespace Sys2Proof.Machine

/-! ## Hash and layout (R300, R301) -/

/-- The empty key (R300). -/
def emptyKey : Nat := 2 ^ 64 - 1

/-- H(key) (R301). -/
def phHash (key : Nat) : Nat :=
  let h1 := key * 0xD6E8FEB86659FD93 % 2 ^ 64
  h1.xor (h1 / 2 ^ 32)
/-- Hash64(key, n) (R301). -/
def hash64 (key n : Nat) : Nat := if n = 0 then 0 else phHash key / 2 ^ (64 - n)

/-- Way numbers of a key's window, 8 x bucket + way, in order (R301). -/
def PhTable.window (t : PhTable) (key : Nat) : List Nat :=
  (List.range 32).map fun i => ((hash64 key t.logb + i / 8) % 2 ^ t.logb) * 8 + i % 8

def PhTable.entry (t : PhTable) (w : Nat) : Nat × Nat := Tab.get (emptyKey, 0) t.entries w
def PhTable.setEntry (t : PhTable) (w key val : Nat) : PhTable :=
  { t with entries := Tab.set (emptyKey, 0) t.entries w (key, val) }

/-- Local address of a way (R300). -/
def PhTable.wayAddr (t : PhTable) (w : Nat) : Nat := t.unit * 16384 + 16 * w

/-- A new table (R297, R298, R305). -/
def PhTable.claim (unit logb slog spill frac : Nat) (spe trp : Bool) : PhTable :=
  ⟨unit, logb, spe, slog, spill, trp, frac, false, false, false, false, 0, 0, [], []⟩

/-- The word of R305. -/
def PhTable.word (t : PhTable) : Word :=
  let b (x : Bool) (n : Nat) : Nat := if x then 2 ^ n else 0
  BitVec.ofNat 64 (2 ^ 63 + b t.ovf 62 + b t.sat 61 + b t.nv 60 + b t.ofl 59 + b t.trp 58 + t.frac * 2 ^ 52 + t.logb * 2 ^ 48
    + t.onc * 2 ^ 32 + Nat.min t.spc (2 ^ 32 - 1))

def PhTable.flag (t : PhTable) (f : PhFlags) : PhTable :=
  { t with sat := t.sat || f.sat, nv := t.nv || f.nv, ofl := t.ofl || f.ofl }

/-! ## Acting on an entry (R311) -/

def noFlags : PhFlags := ⟨false, false, false⟩

/-- Fx of R311: FP32 to fixed point with F fraction bits. -/
def fxOf (frac v : Nat) : Int × PhFlags :=
  match (decodeNum .f32 (v % 2 ^ 32)).scale frac with
  | .nan _ => (0, ⟨false, true, false⟩)
  | x =>
    let (y, f) := toIntTy .s64 x .rne
    (y, ⟨decide (f &&& Fl.sat ≠ 0), false, false⟩)

/-- SatAdd of R311. -/
def satAdd (a b : Int) : Int × Bool :=
  let (x, f) := clamp .s64 (a + b)
  (x, decide (f ≠ 0))

/-- A floating value as a result: a NaN is canonical, and sets NV (R311). -/
def floatResult (t : Ty) (v : Nat) : Nat × PhFlags :=
  if (decodeNum t v).isNaN then (canonNaN t, ⟨false, true, false⟩) else (v % 2 ^ t.width, noFlags)

/-- The value of a new entry (R311). -/
def phInit (k : PhKind) (frac v : Nat) : Nat × PhFlags :=
  match k with
  | .acc .f32 => floatResult .f32 v
  | .acc .f64 => floatResult .f64 v
  | .acc .xacc =>
    let (x, f) := fxOf frac v
    (putLane .s64 x, f)
  | _ => (v, noFlags)

/-- A floating accumulation: one rounding; NV by a signalling operand or a NaN result, OF by an overflow (R311). -/
def floatAcc (t : Ty) (old v : Nat) : Nat × PhFlags :=
  let (x, f) := faddRne t old v
  (x, ⟨false, decide (f &&& Fl.nv ≠ 0) || (decodeNum t x).isNaN, decide (f &&& Fl.of ≠ 0)⟩)

/-- The new value of an accumulation (R311). -/
def phAcc (k : AccKind) (frac old v : Nat) : Nat × PhFlags :=
  match k with
  | .add => ((old + v) % 2 ^ 64, noFlags)
  | .f32 => floatAcc .f32 (old % 2 ^ 32) (v % 2 ^ 32)
  | .f64 => floatAcc .f64 old v
  | .xacc =>
    let (x, f) := fxOf frac v
    let (y, sat) := satAdd (intSrc .s64 old) x
    (putLane .s64 y, ⟨f.sat || sat, f.nv, false⟩)

/-- An entry found: what stands there afterwards, the outcome, and the flags (R310, R311, R321). `loc` is its location word. -/
def phAct (k : PhKind) (frac key old v loc : Nat) : (Nat × Nat) × Nat × Nat × PhFlags :=
  match k with
  | .ins => ((key, old), 3, old, noFlags)
  | .prb => ((key, old), 1, old, noFlags)
  | .del => ((emptyKey, 0), 1, old, noFlags)
  | .acc a =>
    let (x, f) := phAcc a frac old v
    ((key, x), 1, x, f)
  | .stat => ((key, old), 1, loc, noFlags)

/-- PHINS and PHACC insert an absent key. -/
def PhKind.inserts : PhKind → Bool
  | .ins | .acc _ => true
  | .prb | .del | .stat => false

/-! ## A lane at the port (R309) -/

/-- The first free way of a window that is not reserved. -/
def PhTable.freeWay (t : PhTable) (key : Nat) : Option Nat :=
  (t.window key).find? fun w => (t.entry w).1 = emptyKey && !t.reserved.contains w

/-- One lane performed at the port: its state and the table. `bad` are poisoned ways (R322). -/
def PhTable.lane (t : PhTable) (k : PhKind) (key v : Nat) (bad : Nat → Bool) : PhLaneState × PhTable :=
  if (t.window key).any bad then (.done 5 0, t)
  else
    match (t.window key).find? fun w => (t.entry w).1 = key with
    | some w =>
      let old := (t.entry w).2
      let (e, code, val, f) := phAct k t.frac key old v (2 ^ 63 + w / 8 * 32 + w % 8)
      let t := (t.setEntry w e.1 e.2).flag f
      (.done code val, if e.1 = emptyKey then { t with onc := t.onc - 1 } else t)
    | none =>
      if !t.ovf then
        if !k.inserts then (.done 0 0, t)
        else
          match t.freeWay key with
          | some w =>
            let (x, f) := phInit k t.frac v
            let t := (t.setEntry w key x).flag f
            (.done 2 x, { t with onc := t.onc + 1 })
          | none => if t.spe then (.step .insertNew, { t with ovf := true }) else (.done 4 0, t)
      else
        let r := if k.inserts then t.freeWay key else none
        (.step (.find r), match r with
          | some w => { t with reserved := t.reserved ++ [w] }
          | none => t)

/-- A spill reply applied at the port (R309). -/
def PhTable.applyReply (t : PhTable) (k : PhKind) (p : PhStep) (key v : Nat) (r : PhReply) : PhLaneState × PhTable :=
  let t := match p with
    | .find (some w) => { t with reserved := t.reserved.filter (· ≠ w) }
    | _ => t
  let t := { t with spc := ((t.spc : Int) + r.delta).toNat }.flag r.flags
  match r.place, p with
  | true, .find (some w) =>
    let (x, f) := phInit k t.frac v
    let t := (t.setEntry w key x).flag f
    (.done 2 x, { t with onc := t.onc + 1 })
  | _, _ => (.done r.code r.value, t)

/-! ## Spill steps (R304, R309) -/

/-- The entries of a group's bytes. -/
def groupEntries (l : List Byte) : List (Nat × Nat) :=
  (List.range 32).map fun e => (ofLeBytes ((l.drop (16 * e)).take 8), ofLeBytes ((l.drop (16 * e + 8)).take 8))

def entryBytes (e : Nat × Nat) : List Byte := leBytes 8 e.1 ++ leBytes 8 e.2

/-- The outcome of a spill step on a group: the entry it writes, if any, and the reply. -/
def groupStep (frac : Nat) (k : PhKind) (p : PhStep) (key v g : Nat) (l : List (Nat × Nat)) : Option (Nat × (Nat × Nat)) × PhReply :=
  let insertNew : Option (Nat × (Nat × Nat)) × PhReply :=
    match l.findIdx? fun e => e.1 = emptyKey with
    | none => (none, ⟨false, 4, 0, 0, noFlags⟩)
    | some e =>
      let (x, f) := phInit k frac v
      (some (e, (key, x)), ⟨false, 2, x, 1, f⟩)
  match p with
  | .insertNew => insertNew
  | .find reserved =>
    match l.findIdx? fun e => e.1 = key with
    | some e =>
      let old := (l.getD e (emptyKey, 0)).2
      let (new, code, val, f) := phAct k frac key old v (2 ^ 63 + 2 ^ 62 + g * 32 + e)
      (if new = (key, old) then none else some (e, new), ⟨false, code, val, if new.1 = emptyKey then -1 else 0, f⟩)
    | none =>
      if !k.inserts then (none, ⟨false, 0, 0, 0, noFlags⟩)
      else if reserved.isSome then (none, ⟨true, 0, 0, 0, noFlags⟩)
      else insertNew

/-- The outcome code of a spill step that failed (R304, R310). -/
def DevErr.lane : DevErr → PhReply
  | .poison _ => ⟨false, 5, 0, 0, noFlags⟩
  | .fault _ | .wait _ => ⟨false, 6, 0, 0, noFlags⟩

/-- Whether a spill step may write its group. -/
def PhKind.writes : PhKind → Bool
  | .ins | .acc _ | .del => true
  | .prb | .stat => false

/-- A spill step on a group at a home of this package: one step on its 512 bytes (R304). -/
def State.groupAt (s : State) (x : Phys) (ctx : Nat) (k : PhKind) (p : PhStep) (key v frac g : Nat) : Except DevErr (PhReply × State) :=
  if !hasStorage s.carve x.home x.pa 512 then .error (.fault (some (0x32, x.pa)))
  else if s.poisoned x.home x.pa 512 then .error (.poison (some (s.badPlace x 512 false)))
  else
    match groupStep frac k p key v g (groupEntries (Memory.readBytes (s.memOf x.home) x.pa 512)) with
    | (none, r) => .ok (r, s)
    | (some (e, y), r) => .ok (r, s.perform { x with pa := x.pa + 16 * e } ctx (entryBytes y))

/-- A spill step of a lane of an operation, at the home of its group (R190, R304); `error` where it waits for the fault service or for
another package. One that may write needs what a write needs (notes/assumptions/67.md). -/
def State.spillStep (s : State) (ctx ltn : Nat) (t : PhTable) (op lane : Nat) (k : PhKind) (p : PhStep) (key v : Nat) :
    Except State (PhReply × State) :=
  let g := hash64 key t.slog
  let a := t.spill + 512 * g
  let kind := if k.writes then 1 else 0
  let d : Dev := ⟨ctx, ptnDie (s.homePtn ctx ltn), .lane op lane⟩
  let step : Except DevErr (PhReply × State) :=
    match s.devXlat d a (if k.writes then .write else .read) with
    | .error e => .error e
    | .ok x =>
      if k.writes && x.is then .error (.fault none)
      else
        match x.home with
        | .remote pkg =>
          let f : FarKind := .spill op lane k p key v t.frac g
          (s.farAccess d a x pkg f).map fun r =>
            (r.reply.getD (DevErr.lane (.fault none)), { s with loans := s.loans.filter fun l => l.far ≠ ⟨d, a, pkg, x.pa, f⟩ })
        | .hbm | .ld | .host => s.groupAt x ctx k p key v t.frac g
  match step with
  | .ok (r, s) => .ok (r, s.markDone d a 512)
  | .error (.wait m) => .error (s.service m kind)
  | .error e => .ok (e.lane, s.devFail d e)

/-! ## Completions (R313, R316) -/

/-- The outcome of a lane that is done. -/
def PhLane.outcome (l : PhLane) : Option (Nat × Nat) :=
  match l.st with
  | .done c v => some (c, v)
  | _ => none

/-- The datum of a key instruction (R313): inactive lanes are not written, and read 0xFF in the outcome word. -/
def lanesDatum (vec : Bool) (l : List PhLane) : Datum :=
  let out (j : Nat) : Option (Nat × Nat) := (l.find? fun x => x.lane = j).bind (·.outcome)
  if vec then
    ((List.range 8).map fun j => (out j).map fun x => BitVec.ofNat 64 x.2)
      ++ [some (BitVec.ofNat 64 (ofLeBytes ((List.range 8).map fun j => BitVec.ofNat 8 (((out j).map (·.1)).getD 0xFF))))]
  else
    match out 0 with
    | some (c, v) => [some (BitVec.ofNat 64 v), some (BitVec.ofNat 64 c)]
    | none => []

/-- The status of a key instruction (R316). -/
def lanesStatus (l : List PhLane) : Status :=
  let has (c : Nat) : Bool := l.any fun x => (x.outcome.map (·.1)) = some c
  if has 6 then .fault else if has 5 then .poison else if has 4 then .overflow else .ok

/-- A Pigeonhole request is answered; an OVERFLOW with T = 0x10 or TRP = 1 parks its frame with cause 0x18 (R316). -/
def State.phAnswer (s : State) (id tbl : Nat) (trp : Bool) (st : Status) (d : Datum) : State :=
  { s with reqs := s.reqs.map fun r => if r.id = id then
      let r := r.answer st d
      if st = .overflow ∧ (trp ∨ r.dest.isNone) then { r with cause := 0x18, code := tbl } else r
    else r }

/-! ## Drains (R317 to R319) -/

/-- Records in the order of (H(key), key). -/
def phBefore (a b : Nat × Nat) : Bool :=
  decide (phHash a.1 < phHash b.1) || (decide (phHash a.1 = phHash b.1) && decide (a.1 ≤ b.1))
def insertRecord (x : Nat × Nat) : List (Nat × Nat) → List (Nat × Nat)
  | [] => [x]
  | y :: l => if phBefore x y then x :: y :: l else y :: insertRecord x l
def sortRecords (l : List (Nat × Nat)) : List (Nat × Nat) := l.foldr insertRecord []

/-- Records laid out (R318): one by one, or in groups of eight with the last padded. -/
def recordBytes (vec : Bool) (l : List (Nat × Nat)) : List Byte :=
  if vec then
    (List.range ((l.length + 7) / 8)).flatMap fun g =>
      let rec' (j : Nat) : Nat × Nat := l.getD (8 * g + j) (emptyKey, 0)
      ((List.range 8).flatMap fun j => leBytes 8 (rec' j).1) ++ ((List.range 8).flatMap fun j => leBytes 8 (rec' j).2)
  else l.flatMap entryBytes

/-- Transfers of a PHDRN.chan: 256 records each; stepping A1 omits the last where the count is a multiple of 256 (R319, R442). -/
def drainBlocks (vec : Bool) (l : List (Nat × Nat)) : List (List Byte) :=
  let n := l.length
  let k := if n ≠ 0 ∧ n % 256 = 0 then n / 256 else n / 256 + 1
  (List.range k).map fun i =>
    let part := (l.drop (256 * i)).take 256
    recordBytes vec (part ++ List.replicate (256 - part.length) (emptyKey, 0))

/-- Entries of a table's buckets. -/
def PhTable.records (t : PhTable) : List (Nat × Nat) := (t.entries.map (·.2)).filter fun e => e.1 ≠ emptyKey

/-- Entries without the keys that are deleted. -/
def PhTable.deleteKeys (t : PhTable) (keys : List Nat) : PhTable :=
  let gone := (t.entries.filter fun e => keys.contains e.2.1).length
  { t with entries := t.entries.filter (fun e => !keys.contains e.2.1), onc := t.onc - gone }

/-- The accesses of a Pigeonhole operation to its spill area as accesses of the device (R372). -/
def State.phDev (s : State) (ctx ltn id : Nat) : Dev := ⟨ctx, ptnDie (s.homePtn ctx ltn), .req id⟩

/-- What a drain's snapshot of the spill area reads: (group, entry, key, value); an entry above one of the same key is not used
(R304). -/
def State.spillRecords (s : State) (d : Dev) (t : PhTable) : Except DevErr (List (Nat × Nat × Nat × Nat)) :=
  (List.range (2 ^ t.slog)).foldl (init := .ok []) fun acc g =>
    match acc with
    | .error e => .error e
    | .ok l =>
      match s.devRead d (t.spill + 512 * g) 512 with
      | .error e => .error e
      | .ok b => .ok ((groupEntries b).zipIdx.foldl (init := l) fun l x =>
          if x.1.1 = emptyKey ∨ l.any (fun y => y.2.2.1 = x.1.1) then l else l ++ [(g, x.2, x.1.1, x.1.2)])

/-- Entries of the spill area deleted. -/
def State.dropSpilled (s : State) (d : Dev) (t : PhTable) (l : List (Nat × Nat × Nat × Nat)) : Except DevErr State :=
  l.foldl (init := .ok s) fun acc x =>
    match acc with
    | .error e => .error e
    | .ok s => s.devWrite d (t.spill + 512 * x.1 + 16 * x.2.1) (entryBytes (emptyKey, 0))

/-! ## The port's queue (R306, R307) -/

def State.setTable (s : State) (ctx ltn n : Nat) (t : PhTable) : State :=
  let p := s.part ctx ltn
  s.setPart ctx ltn { p with tables := Tab.put p.tables n t }
def State.dropTable (s : State) (ctx ltn n : Nat) : State :=
  let p := s.part ctx ltn
  s.setPart ctx ltn { p with tables := Tab.drop p.tables n }
def Part.table (p : Part) (n : Nat) : Option PhTable := Tab.find p.tables n
def State.setPhq (s : State) (ctx ltn : Nat) (q : List PhOp) : State := s.setPart ctx ltn { s.part ctx ltn with phq := q }
def State.dropPh (s : State) (ctx ltn id : Nat) : State :=
  s.setPhq ctx ltn ((s.part ctx ltn).phq.filter fun o => o.id ≠ id)
def State.putPh (s : State) (ctx ltn : Nat) (o : PhOp) : State :=
  s.setPhq ctx ltn ((s.part ctx ltn).phq.map fun x => if x.id = o.id then o else x)

/-- An operation that every later one on its table waits for, and that waits for every earlier one (R307). -/
def PhBody.barrier : PhBody → Bool
  | .claim .. | .drain .. | .release => true
  | .lanes .. | .read _ => false

/-- An operation that its place in port order lets start. A drain or a release waits for drains of its table that still send (R307). -/
def Part.phTurn (p : Part) (earlier : List PhOp) (o : PhOp) : Bool :=
  let same := earlier.filter fun x => x.tbl = o.tbl
  if o.body.barrier then same.isEmpty && !(p.phSends.any fun x => decide (x.tbl = o.tbl)) else !(same.any fun x => x.body.barrier)

/-- A waiting lane that no earlier lane of an equal key holds back (R308). -/
def laneFree (earlier : List PhOp) (tbl : Nat) (before : List PhLane) (l : PhLane) : Bool :=
  let held (x : PhLane) : Bool := decide (x.key = l.key) && x.outcome.isNone
  !(before.any held) && !(earlier.any fun o => decide (o.tbl = tbl) && (match o.body with
    | .lanes _ ls => ls.any held
    | _ => false))

/-- Units of the tables that a part has claimed. -/
def Part.claimed (p : Part) : Nat := (p.tables.map fun e => tableUnits e.2.logb).foldl (· + ·) 0

/-- Units of the tables that the other contexts of a tile have claimed (R296). -/
def State.claimedBeside (s : State) (ctx ltn : Nat) : Nat :=
  match s.ptnOf ctx ltn with
  | some ptn => (((s.ctxsOn ptn).filter fun e => decide (e ≠ (ctx, ltn))).map fun e => (s.part e.1 e.2).claimed).foldl (· + ·) 0
  | none => 0

/-- Refusals of PHCLAIM on a part with its tables (R298, R352). -/
def State.claimRefused (s : State) (ctx ltn : Nat) (p : Part) (tbl : Nat) (t : PhTable) : Bool :=
  let n := tableUnits t.logb
  (p.table tbl).isSome || (List.range n).any (fun k => p.tables.any fun e => e.2.holds (t.unit + k))
    || decide (16 < s.claimedBeside ctx ltn + p.claimed + n)
    || (s.kernel ctx).any (fun k => decide (k.phUnits < p.claimed + n))
    || p.windows.any fun e => decide (e.2.ring < (t.unit + n) * 16384) && decide (t.unit * 16384 < e.2.ring + 2 ^ e.2.logRing)

/-- Ways whose bytes are poisoned in scratchpad (R322). -/
def Part.badWay (p : Part) (t : PhTable) (w : Nat) : Bool := p.poisonedIn (t.wayAddr w) 16

/-- A released table's bytes return to scratchpad as the port left them (R299, R300). -/
def Part.unclaim (p : Part) (t : PhTable) : Part :=
  (List.range (2 ^ t.logb * 8)).foldl (init := p) fun p w =>
    { p with spad := spadWrite p.spad (t.wayAddr w) (entryBytes (t.entry w)) }

/-- A table released (R299). -/
def State.releaseTable (s : State) (ctx ltn n : Nat) : State :=
  match (s.part ctx ltn).table n with
  | some t => (s.setPart ctx ltn ((s.part ctx ltn).unclaim t)).dropTable ctx ltn n
  | none => s

/-- Every way written as an empty key: the marks of the range go (R298, R415). -/
def Part.clearMarks (p : Part) (t : PhTable) : Part :=
  { p with spoison := p.spoison.filter fun w => !t.holds (w * 8 / 16384) }

/-- The part with its tables as they will stand behind an operation of the port, as far as that is known now: a claim that is yet to be decided is
judged by what stands before it (R298, R307). -/
def State.behind (s : State) (ctx ltn : Nat) (p : Part) (o : PhOp) : Part :=
  match o.body with
  | .release => { p with tables := Tab.drop p.tables o.tbl }
  | .claim t _ _ none => if s.claimRefused ctx ltn p o.tbl t then p else { p with tables := Tab.put p.tables o.tbl t }
  | .claim _ _ _ (some _) | .lanes .. | .drain .. | .read _ => p

/-- TRP of the table that an operation will find at its place behind others (R316): whether its frame's OWC counts it. -/
def State.trpOf (s : State) (ctx ltn n : Nat) (q : List PhOp) : Bool :=
  ((q.foldl (fun p o => s.behind ctx ltn p o) (s.part ctx ltn)).table n).any (·.trp)

/-- Once a claim is decided, OWC counts what waits behind it as its tables stand (R203, R312, R316). -/
def State.recount (s : State) (ctx ltn : Nat) : State :=
  let q := (s.part ctx ltn).phq
  q.zipIdx.foldl (init := s) fun s e =>
    match s.req e.1.id with
    | none => s
    | some r =>
      let want := r.dest.isNone || s.trpOf ctx ltn e.1.tbl (q.take e.2)
      if want = r.counted then s
      else
        let s := s.setReq { r with counted := want }
        if want then (if (s.frame r.ref).any fun f => f.rtag = r.rtag then s.owcUp r.ref else s) else s.owcDown r.ref r.rtag

/-- A drain with its snapshot: it emits, deletes, and completes or goes on to send (R317 to R319). -/
def State.drainTable (s : State) (ctx ltn : Nat) (o : PhOp) (t : PhTable) (spilled : List (Nat × Nat × Nat × Nat)) : Except DevErr State :=
  match o.body with
  | .drain vec chan dest maxRec clr =>
    let all := sortRecords (t.records ++ spilled.map fun x => (x.2.2.1, x.2.2.2))
    let n := if chan ∧ maxRec = 0 then all.length else Nat.min maxRec all.length
    let out := all.take n
    let keys := out.map (·.1)
    let left := if clr then all.length - n else all.length
    let datum := BitVec.ofNat 64 (Nat.min left (2 ^ 32 - 1) * 2 ^ 32 + n)
    let gone := spilled.filter fun x => keys.contains x.2.2.1
    match (if clr then s.dropSpilled (s.phDev ctx ltn o.id) t gone else .ok s) with
    | .error e => .error e
    | .ok s =>
      let t := if clr then { t.deleteKeys keys with spc := t.spc - gone.length } else t
      let s := (s.setTable ctx ltn o.tbl t).dropPh ctx ltn o.id
      if chan then
        let q := s.req o.id
        let p := s.part ctx ltn
        .ok (s.setPart ctx ltn { p with phSends := p.phSends ++
          [⟨o.id, o.tbl, (q.map (·.ref)).getD ⟨ctx, ltn, 0, 0⟩, (q.map (·.rtag)).getD 0, dest, drainBlocks vec out, false, datum⟩] })
      else
        let p := s.part ctx ltn
        .ok ((s.setPart ctx ltn { p with pours := p.pours ++ [(o.id, dest, recordBytes vec out)] }).phAnswer o.id o.tbl false .ok [some datum])
  | _ => .ok s

/-- One operation at its turn: none where it waits for a spill step, or for the operations of R298. -/
def State.phOne (s : State) (ctx ltn : Nat) (earlier : List PhOp) (o : PhOp) : Option State :=
  let p := s.part ctx ltn
  match o.body, p.table o.tbl with
  | .claim t waits cmds none, _ =>
    if !waits.all s.hasPerformed ∨ p.anvil.left < cmds then none
    else
    let p := waits.foldl (fun p id => p.pour id) p
    let s := if p.pours = (s.part ctx ltn).pours then s else s.setPart ctx ltn p
    if s.claimRefused ctx ltn p o.tbl t then some (((s.dropPh ctx ltn o.id).phAnswer o.id o.tbl false .refused []).recount ctx ltn)
    else
      let s := (s.setPart ctx ltn (p.clearMarks t)).setTable ctx ltn o.tbl t
      if t.spe then some ((s.putPh ctx ltn { o with body := .claim t waits cmds (some 0) }).recount ctx ltn)
      else some (((s.dropPh ctx ltn o.id).phAnswer o.id o.tbl false .ok []).recount ctx ltn)
  | .claim _ _ _ (some _), _ => none
  | .release, none => some ((s.dropPh ctx ltn o.id).phAnswer o.id o.tbl false .refused [])
  | .release, some _ => some (((s.releaseTable ctx ltn o.tbl).dropPh ctx ltn o.id).phAnswer o.id o.tbl false .ok [])
  | .read _, none => some ((s.dropPh ctx ltn o.id).phAnswer o.id o.tbl false .ok [some 0])
  | .read clear, some t =>
    let s := if clear then s.setTable ctx ltn o.tbl { t with sat := false, nv := false, ofl := false } else s
    some ((s.dropPh ctx ltn o.id).phAnswer o.id o.tbl false .ok [some t.word])
  | .drain .., none => some ((s.dropPh ctx ltn o.id).phAnswer o.id o.tbl false .refused [])
  | .drain .., some t =>
    if (List.range (2 ^ t.logb * 8)).any (p.badWay t) then
      some ((s.dropPh ctx ltn o.id).phAnswer o.id o.tbl false .poison [])
    else if t.ovf then none
    else (s.drainTable ctx ltn o t []).toOption
  | .lanes k l, none =>
    let l := l.map fun x => { x with st := .done 0 0 }
    let st : Status := if k = .stat then .ok else .refused
    some ((s.dropPh ctx ltn o.id).phAnswer o.id o.tbl false st (lanesDatum o.vec l))
  | .lanes k l, some t =>
    if l.all fun x => x.outcome.isSome then
      some ((s.dropPh ctx ltn o.id).phAnswer o.id o.tbl t.trp (lanesStatus l) (lanesDatum o.vec l))
    else
      match l.zipIdx.find? fun x => decide (x.1.st = .waiting) && laneFree earlier o.tbl (l.take x.2) x.1 with
      | none => none
      | some (x, i) =>
        let (st, t) := t.lane k x.key x.val (p.badWay t)
        some ((s.setTable ctx ltn o.tbl t).putPh ctx ltn { o with body := .lanes k (l.set i { x with st := st }) })

/-- The first operation of the port that can go on does. -/
def State.phGo (s : State) (ctx ltn : Nat) : Option State :=
  let q := (s.part ctx ltn).phq
  (List.range q.length).findSome? fun i =>
    match q[i]? with
    | some o => if (s.part ctx ltn).phTurn (q.take i) o then s.phOne ctx ltn (q.take i) o else none
    | none => none

/-- Transfers of a PHDRN.chan are posted once their port holds nothing (R319). -/
def State.phPost (s : State) (ctx ltn : Nat) : Option State :=
  let p := s.part ctx ltn
  match p.phSends.find? fun x => !x.posted && (p.port x.port).op.isNone with
  | none => none
  | some x =>
    let upd (y : PhSend) : State :=
      s.setPart ctx ltn { p with phSends := p.phSends.map fun z => if z.id = x.id then y else z }
    match x.blocks with
    | [] => some ((s.setPart ctx ltn { p with phSends := p.phSends.filter fun z => z.id ≠ x.id }).phAnswer x.id 0 false .ok
        [some x.datum])
    | b :: rest =>
      let q := p.port x.port
      let s := upd { x with blocks := rest, posted := true }
      let op : ChOp := ⟨.table x.id, x.ref, x.rtag, 0, .sendBytes b false, false, none, [], .ok, none⟩
      some (if !q.bound ∨ !q.send ∨ p.ended then s.chDone ctx ltn (.table x.id) (if p.ended then .cancelled else .refused)
        else s.postSend ctx ltn x.port op false)

/-- A transfer of a PHDRN.chan has completed (R319). -/
def State.phEnd (s : State) (ctx ltn id : Nat) (st : Status) : State :=
  let p := s.part ctx ltn
  if st = .ok then s.setPart ctx ltn { p with phSends := p.phSends.map fun z => if z.id = id then { z with posted := false } else z }
  else
    (s.setPart ctx ltn { p with phSends := p.phSends.filter fun z => z.id ≠ id }).phAnswer id 0 false st []

/-! ## The engines of a tile go on -/

/-- One thing that the engines of a tile do by themselves, if there is any. On a tile that is not RESIDENT they take only what has ended,
and begin nothing (R295, R322, R387). -/
def State.engineGo (s : State) (ctx ltn : Nat) : Option State :=
  let p := s.part ctx ltn
  match p.ends with
  | (o, st) :: rest =>
    let s := s.setPart ctx ltn { p with ends := rest }
    some (match o with
      | .table id => s.phEnd ctx ltn id st
      | o => s.anvilEnd ctx ltn o st)
  | [] =>
    let st := (s.tme ctx ltn).st
    if st = .moving ∨ st = .away then none
    else
    match s.phGo ctx ltn with
    | some s => some s
    | none =>
      match s.phPost ctx ltn with
      | some s => some s
      | none => s.anvilGo ctx ltn

/-- The engines go on until nothing is left that needs no other agent's step; readies of latch receives follow. -/
def State.engines (s : State) (ctx ltn : Nat) : State :=
  let rec go : Nat → State → State
    | 0, s => s
    | k + 1, s =>
      match s.engineGo ctx ltn with
      | some s => go k s
      | none => s
  let s := go 4096 s
  let st := (s.tme ctx ltn).st
  if st = .moving ∨ st = .away then s else s.latchReadies ctx ltn

end Sys2Proof.Machine
end

