-- ==== Sys2Proof/Machine/Port.lean ====
section
/-! DEFINITION. The stream port of a tile (R228 to R235): DMA shape records and their bursts, and stream windows. -/

namespace Sys2Proof.Machine

/-! ## Bursts (R229) -/

/-- Bursts, fills and write-backs outstanding on a physical tile, those that wait for a place there since a resume among them (R229). -/
def State.burstsOut (s : State) (ctx ltn : Nat) : Nat :=
  let onTile (r : FrameRef) : Bool := match s.ptnOf ctx ltn with
    | some p => decide (s.ptnOf r.ctx r.ltn = some p)
    | none => decide (r.ctx = ctx ∧ r.ltn = ltn)
  (s.reqs.filter fun q => q.kind.isPart && onTile q.ref).length

/-- Whether a request is a part of another. -/
def ReqKind.parent : ReqKind → Option Nat
  | .burst p .. | .wback _ _ _ _ p => some p
  | _ => none

/-- A part put after its parent and the parts it already has: its place in program order is the parent's (R199). -/
def insertPart (parent : Nat) (q : Req) : List Req → List Req
  | [] => [q]
  | x :: l =>
    if (x.id = parent ∨ x.kind.parent = some parent) ∧ !(l.any fun y => decide (y.kind.parent = some parent)) then x :: q :: l
    else x :: insertPart parent q l

/-- The request of a part of an activation's DMA or window. -/
def State.partReq (s : State) (ref : FrameRef) (rtag : Nat) (kind : ReqKind) (va : Word) (write : Bool) (scope : Scope) (datum : Datum) :
    Req :=
  { id := s.nextId, ref := ref, rtag := rtag, pc := 0, iword := 0, dest := none, kind := kind, va := va, ord := .relaxed, scope := scope,
    write := write, counted := false, entry := false, phys := none, faultHeld := false, die := 0, replayed := false, sent := false,
    performed := false, ackPkg := false, ackPod := false, status := .ok, cause := 0, code := 0, datum := datum, part := 0, piece := 0,
    late := false, landed := 0 }

/-- A part issued by the port. -/
def State.addPart (s : State) (parent : Option Nat) (q : Req) : State :=
  { s with nextId := s.nextId + 1, reqs := match parent with
      | some p => insertPart p q s.reqs
      | none => s.reqs ++ [q] }

/-- Aligned words of scratchpad bytes; none where poison is met. -/
def Part.wordsAt (p : Part) (a n : Nat) : Option Datum :=
  if p.poisonedIn a n then none
  else some ((List.range (n / 8)).map fun i => some (BitVec.ofNat 64 (ofLeBytes (p.bytes (a + 8 * i) 8))))

/-- The bytes of a datum. -/
def datumBytes (d : Datum) : List Byte := d.flatMap fun w => leBytes 8 (w.getD 0).toNat
/-- Bytes as a datum. -/
def datumOf (l : List Byte) : Datum :=
  (List.range ((l.length + 7) / 8)).map fun i => some (BitVec.ofNat 64 (ofLeBytes ((l.drop (8 * i)).take 8)))

/-! ## DMA (R228 to R230) -/

/-- A signed 64-bit field. -/
def signed64 (n : Nat) : Int := (BitVec.ofNat 64 n).toInt

/-- The shape record's fields, where it keeps the rules of R228. -/
def shapeOf (l : List Byte) : Option Shape2d :=
  let f (o n : Nat) : Nat := ofLeBytes ((l.drop o).take n)
  let g := f 0 8
  let gs := f 8 8
  let la := f 16 4
  let ls := f 20 4
  let rowb := f 24 4
  let rows := f 28 4
  let dir := f 32 1
  if g % 8 ≠ 0 ∨ gs % 8 ≠ 0 ∨ la % 8 ≠ 0 ∨ ls % 8 ≠ 0 ∨ rowb % 8 ≠ 0 ∨ rowb < 8 ∨ 65536 < rowb ∨ rows < 1 ∨ 65536 < rows ∨ 1 < dir
      ∨ f 33 31 ≠ 0 then none
  else some ⟨g, signed64 gs, la, ls, rowb, rows, decide (dir = 1)⟩

/-- The global address of a byte of a row, mod 2^64. -/
def Shape2d.globalAt (sh : Shape2d) (row off : Nat) : Nat := (((sh.gaddr : Int) + row * sh.gstride + off) % (2 ^ 64 : Int)).toNat
def Shape2d.localAt (sh : Shape2d) (row off : Nat) : Nat := sh.laddr + row * sh.lstride + off

/-- Bytes of the burst that starts at a byte of a row: up to the next 256-byte boundary of its global addresses (R229). -/
def Shape2d.burstLen (sh : Shape2d) (row off : Nat) : Nat := Nat.min (sh.rowb - off) (256 - sh.globalAt row off % 256)

/-- Where the next burst starts. -/
def Shape2d.nextBurst (sh : Shape2d) (row off : Nat) : Nat × Nat :=
  let off := off + sh.burstLen row off
  if sh.rowb ≤ off then (row + 1, 0) else (row, off)

/-- Every row in reach (R228). -/
def State.shapeInReach (s : State) (ctx ltn : Nat) (sh : Shape2d) : Bool :=
  (List.range sh.rows).all fun r => s.rangeOk ctx ltn (sh.localAt r 0) sh.rowb

/-! ## Windows (R231 to R235) -/

def Window.elem (w : Window) : Nat := 2 ^ w.logElem
def Window.ringSize (w : Window) : Nat := 2 ^ w.logRing
def Window.seqBytes (w : Window) : Nat := w.count * w.elem
/-- AVAIL (R231). -/
def Window.avail (w : Window) : Nat := if w.write then w.head + w.ringSize - w.tail else w.head - w.tail
/-- The global address of an element, mod 2^64, and the local address of its ring bytes. -/
def Window.elemVa (w : Window) (e : Nat) : Word := BitVec.ofInt 64 ((w.gbase : Int) + e * w.gstride)
def Window.elemLa (w : Window) (e : Nat) : Nat := w.ring + e * w.elem % w.ringSize

/-- The descriptor's window, where it keeps the rules of R231; the ring's reach is checked apart. -/
def windowOf (ref : FrameRef) (rtag : Nat) (l : List Byte) : Option Window :=
  let f (o n : Nat) : Nat := ofLeBytes ((l.drop o).take n)
  let lr := f 24 1
  let le := f 25 1
  let dir := f 26 1
  if f 0 8 % 8 ≠ 0 ∨ f 8 8 % 8 ≠ 0 ∨ f 16 4 = 0 ∨ lr < 9 ∨ 16 < lr ∨ le < 3 ∨ 8 < le ∨ lr < le ∨ 1 < dir ∨ f 27 5 ≠ 0
      ∨ f 20 4 % 2 ^ lr ≠ 0 then none
  else some ⟨ref, rtag, f 0 8, signed64 (f 8 8), f 16 4, f 20 4, lr, le, decide (dir = 1), 0, 0, 0, [], [], none, 0, 0, false, none, none⟩

def Part.window (p : Part) (n : Nat) : Option Window := Tab.find p.windows n
def State.window (s : State) (ctx ltn n : Nat) : Option Window := (s.part ctx ltn).window n
def State.setWindow (s : State) (ctx ltn n : Nat) (w : Window) : State :=
  let p := s.part ctx ltn
  s.setPart ctx ltn { p with windows := Tab.put p.windows n w }
def State.dropWindow (s : State) (ctx ltn n : Nat) : State :=
  let p := s.part ctx ltn
  s.setPart ctx ltn { p with windows := Tab.drop p.windows n }

/-- A window of the tile that another context holds (R232). -/
def State.windowTaken (s : State) (ctx ltn n : Nat) : Bool :=
  match s.ptnOf ctx ltn with
  | some ptn => (s.ctxsOn ptn).any fun e => decide (e ≠ (ctx, ltn)) && (s.window e.1 e.2 n).isSome
  | none => false

/-- A request of the port is answered; AVAIL is its datum where it is OK (R217, R231). -/
def State.strmAnswer (s : State) (id : Nat) (st : Status) (avail : Nat) : State :=
  s.answer id st (if st = .ok then [some (BitVec.ofNat 64 avail)] else [])

/-- A request of the port meets the window's error: its status, and the cause and address of R218. -/
def State.strmFail (s : State) (id : Nat) (st : Status) (w : Window) : State :=
  let s := s.answer id st []
  match s.req id with
  | some q => s.setReq { q with cause := w.errCause, va := w.errVa }
  | none => s

/-- An armed notification whose condition holds completes (R234). -/
def State.checkNotify (s : State) (ctx ltn n : Nat) : State :=
  match s.window ctx ltn n with
  | none => s
  | some w =>
    match w.notify with
    | none => s
    | some (id, m) =>
      match w.error with
      | some (st, _) => (s.setWindow ctx ltn n { w with notify := none }).strmFail id st w
      | none =>
        if m ≤ w.avail ∨ (!w.write ∧ w.head = w.seqBytes) then
          (s.setWindow ctx ltn n { w with notify := none }).strmAnswer id .ok w.avail
        else s

/-- Fills and write-backs of a window that are outstanding. -/
def State.windowParts (s : State) (ctx ltn n : Nat) : List Req :=
  s.reqs.filter fun q => decide (q.ref.ctx = ctx) && decide (q.ref.ltn = ltn) && (match q.kind with
    | .fill win .. | .wback win .. => decide (win = n)
    | _ => false)

/-- Elements below which write-backs are asked for: the end of the latest .adv. -/
def Window.passedEnd (w : Window) : Nat := w.tail / w.elem

/-- A closing window with nothing outstanding is FREE, and its .close completes (R235). -/
def State.settleWindow (s : State) (ctx ltn n : Nat) : State :=
  match s.window ctx ltn n with
  | none => s
  | some w =>
    if w.closing ∧ (s.windowParts ctx ltn n).isEmpty ∧ (!w.write ∨ w.passedEnd ≤ w.issued) then
      let st := (w.error.map (·.1)).getD .ok
      let s := s.dropWindow ctx ltn n
      match w.closeReq with
      | some id => if st = .ok then s.strmAnswer id st w.avail else s.strmFail id st w
      | none => s
    else s

/-- An element cut at the 512-byte units of its addresses: each piece lies in one page and has one home (R192, R194). -/
def cutElem (va n : Nat) : List (Nat × Nat) :=
  (List.range ((va + n + 511) / 512 - va / 512)).map fun i =>
    let lo := Nat.max va ((va / 512 + i) * 512)
    let hi := Nat.min (va + n) ((va / 512 + i + 1) * 512)
    (lo, hi - lo)

/-- The next element that the port may start: a fill while there is room, or a write-back of a passed element, its pieces among the 32 bursts (R229,
R233). -/
def State.issueElem (s : State) (ctx ltn n : Nat) : Option State :=
  match s.window ctx ltn n with
  | none => none
  | some w =>
    let e := w.issued
    let l := cutElem (w.elemVa e).toNat w.elem
    if burstLimit < s.burstsOut ctx ltn + l.length ∨ (s.tme ctx ltn).st = .away then none
    else if w.write then
      match w.passed.find? fun x => e < x.2 with
      | none => none
      | some (id, _) =>
        let s := s.setWindow ctx ltn n { w with issued := e + 1 }
        let ref := ((s.req id).map (·.ref)).getD w.ref
        let rtag := ((s.req id).map (·.rtag)).getD w.rtag
        some (l.foldl (init := s) fun s x =>
          s.addPart (some id) (s.partReq ref rtag (.wback n e (x.1 - (w.elemVa e).toNat) x.2 id) (BitVec.ofNat 64 x.1) true .package []))
    else if w.error.isSome ∨ w.closing ∨ w.count ≤ e ∨ w.tail + w.ringSize < (e + 1) * w.elem then none
    else
      let s := s.setWindow ctx ltn n { w with issued := e + 1 }
      some (l.foldl (init := s) fun s x =>
        s.addPart none (s.partReq w.ref w.rtag (.fill n e (x.1 - (w.elemVa e).toNat) x.2) (BitVec.ofNat 64 x.1) false .package []))

/-- The port starts what it can for the windows of a tile (R233). -/
def State.pumpWindows (s : State) (ctx ltn : Nat) : State :=
  let rec go : Nat → Nat → State → State
    | 0, _, s => s
    | k + 1, n, s =>
      match s.issueElem ctx ltn n with
      | some s => go k n s
      | none => s
  (s.part ctx ltn).windows.foldl (fun s e => go burstLimit e.1 s) s

/-- A burst of a tile is done: the port goes on with the windows of every context of the tile (R229). -/
def State.pumpTile (s : State) (ctx ltn : Nat) : State :=
  match s.ptnOf ctx ltn with
  | some ptn => (s.ctxsOn ptn).foldl (fun s e => s.pumpWindows e.1 e.2) (s.pumpWindows ctx ltn)
  | none => s

/-- A STRM.adv on a write window is a write of its frame, counted in OWC (R203, R209): from its issue on, or from now on where the window was
opened anew meanwhile. -/
def State.chargeAdv (s : State) (q : Req) : State :=
  let here := (s.frame q.ref).any fun f => f.rtag = q.rtag
  let s := s.setReq { q with write := true, counted := q.counted || here }
  if q.counted || !here then s else s.owcUp q.ref

/-- An operation of the port on a window (R231 to R235). -/
def State.applyStrm (s : State) (id : Nat) : State :=
  match s.req id with
  | none => s
  | some q =>
    let c := q.ref.ctx
    let l := q.ref.ltn
    match q.kind with
    | .openWin n desc =>
      (match s.window c l n, windowOf q.ref q.rtag desc with
       | none, some w =>
         if s.windowTaken c l n ∨ !s.rangeOk c l w.ring w.ringSize ∨ (s.part c l).finished then s.answer id .refused []
         else ((s.setWindow c l n w).strmAnswer id .ok w.avail).pumpWindows c l
       | _, _ => s.answer id .refused [])
    | .advWin n b =>
      (match s.window c l n with
       | none => s.answer id .refused []
       | some w =>
         if w.closing then s.answer id .refused []
         else
           match w.error with
           | some (st, _) => s.strmFail id st w
           | none =>
             let limit := if w.write then Nat.min (w.head + w.ringSize) w.seqBytes else w.head
             if b % w.elem ≠ 0 ∨ limit < w.tail + b then s.answer id .refused []
             else if w.write then
               let upTo := (w.tail + b) / w.elem
               let s := s.chargeAdv { q with kind := .advWin n (b / w.elem) }
               let s := s.setWindow c l n { w with tail := w.tail + b, passed := if b = 0 then w.passed else w.passed ++ [(id, upTo)] }
               let s := if b = 0 then s.strmAnswer id .ok (w.avail) else s
               (s.checkNotify c l n).pumpWindows c l
             else
               let w := { w with tail := w.tail + b }
               ((((s.setWindow c l n w).strmAnswer id .ok w.avail).checkNotify c l n).pumpWindows c l))
    | .notifyWin n m =>
      (match s.window c l n with
       | none => s.answer id .refused []
       | some w =>
         if w.closing then s.answer id .refused []
         else
           match w.error with
           | some (st, _) => s.strmFail id st w
           | none =>
             if w.ringSize < m then s.answer id .refused []
             else
               let s := match w.notify with
                 | some (old, _) => s.answer old .cancelled []
                 | none => s
               (s.setWindow c l n { w with notify := some (id, m) }).checkNotify c l n)
    | .closeWin n =>
      (match s.window c l n with
       | none => s.answer id .refused []
       | some w =>
         if w.closing then s.answer id .refused []
         else
           let s := match w.notify with
             | some (old, _) => s.answer old .cancelled []
             | none => s
           (s.setWindow c l n { w with closing := true, closeReq := some id, notify := none }).settleWindow c l n)
    | _ => s

/-- KEND closes the windows of a tile (R235). -/
def State.closeWindows (s : State) (ctx ltn : Nat) : State :=
  (s.part ctx ltn).windows.foldl (init := s) fun s e =>
    match s.window ctx ltn e.1 with
    | none => s
    | some w =>
      let s := match w.notify with
        | some (old, _) => s.answer old .cancelled []
        | none => s
      (s.setWindow ctx ltn e.1 { w with closing := true, notify := none }).settleWindow ctx ltn e.1

/-- HEAD moved over elements that are done, up to one that failed (R233). -/
def Window.advanceHead (w : Window) : Window :=
  let stop := w.error.map (·.2)
  let rec go : Nat → Window → Window
    | 0, w => w
    | k + 1, w =>
      let e := w.head / w.elem
      if w.landed.contains e ∧ stop ≠ some e then go k { w with head := w.head + w.elem, landed := w.landed.filter (· ≠ e) } else w
  go (w.landed.length + 1) w

/-- An element is done: its fill has landed or its write-back is acknowledged, or it failed at an address with a cause (R218, R233). Of several
failures the window keeps the status of the first to come back: DESIGN CHOICE (notes/assumptions/16.md). -/
def Window.elemDone (w : Window) (e : Nat) (st : Status) (cause : Nat) (va : Word) : Window :=
  if st = .ok then { w with landed := w.landed ++ [e] }.advanceHead
  else
    match w.error with
    | none => { w with error := some (st, e), errCause := cause, errVa := va }
    | some (s0, e0) => { w with error := some (s0, Nat.min e0 e) }

/-- The .adv that passed an element counts it done; a failure gives its status, the first to come back (R233; notes/assumptions/16.md). -/
def State.advDone (s : State) (ctx ltn n parent : Nat) (st : Status) (cause : Nat) (va : Word) : State :=
  match s.req parent with
  | some q =>
    (match q.kind with
     | .advWin win left =>
       let q := { q with kind := .advWin win (left - 1) }
       let q := if q.status = .ok ∧ st ≠ .ok then { q with status := st, cause := cause, va := va } else q
       let s := s.setReq q
       if left ≤ 1 then
         let s := match s.window ctx ltn n with
           | some w => s.setWindow ctx ltn n { w with passed := w.passed.filter fun x => x.1 ≠ parent }
           | none => s
         s.strmAnswer parent q.status (((s.window ctx ltn n).map (·.avail)).getD 0)
       else s
     | _ => s)
  | none => s

end Sys2Proof.Machine
end

