-- ==== Sys2Proof/Machine/Release.lean ====
section
/-! DEFINITION. What goes on when earlier accesses of a frame are done: held signals, channel sends, arrivals, fences and stream operations
(R179, R183, R185, R201, R206, R207, R246). -/

namespace Sys2Proof.Machine

/-- A held request or packet goes. A launch waits from here on for the Sorting Office; a TLBI is done
(R380). -/
def State.releaseOne (s : State) (h : Held) : State :=
  match h.body with
  | .signal c d st => s.deliver (s.homePtn h.ref.ctx h.ref.ltn) h.ref.ctx c d st
  | .channel port id => (s.postHeld h.ref.ctx h.ref.ltn port id).engines h.ref.ctx h.ref.ltn
  | .barrier id => s.postArrival id
  | .fence id => s.answer id .ok []
  | .stream id => s.applyStrm id
  | .system id => s.answer id .ok []
  | .launch _ => s

/-- The first of a list that may go, and the others. -/
def State.nextHeld (s : State) : List Held → Option (Held × List Held)
  | [] => none
  | h :: l => if s.heldReady h then some (h, l) else (s.nextHeld l).map fun x => (x.1, h :: x.2)

/-- Everything held that may go, in order; what goes may let more go. -/
def State.releaseHeld (s : State) : State :=
  let rec go : Nat → State → State
    | 0, s => s
    | k + 1, s =>
      match s.nextHeld s.held with
      | some (h, l) => go k (State.releaseOne { s with held := l } h)
      | none => s
  go s.held.length s

/-- Whether a request still waits among the held ones. -/
def State.isHeld (s : State) (id : Nat) : Bool :=
  s.held.any fun h => match h.body with
    | .barrier x | .launch x | .fence x | .system x | .stream x | .channel _ x => decide (x = id)
    | .signal .. => false

end Sys2Proof.Machine
end

