-- ==== Sys2Proof/Machine/Finish.lean ====
section
/-! DEFINITION. The end of a threadlet (R95) and of a tile's part of a kernel (R184). -/

namespace Sys2Proof.Machine

/-- The end of a threadlet (R95): its flags merge into the per-tile register, and its seat is idle. A pending-free frame may go
(R176). -/
def State.endThreadlet (s : State) (v : View) : State :=
  let p := s.part v.t.ctx v.t.ltn
  let s := s.setPart v.t.ctx v.t.ltn { p with sflag := p.sflag ||| v.t.flags }
  let s := s.setSeat v.seat .idle
  (s.modFrame v.t.ref fun f => { f with runs := f.runs - 1 }).settleFree v.t.ref

/-- A seat that runs a threadlet of a context's part. -/
def SeatState.runs (x : SeatState) (ctx ltn : Nat) : Bool :=
  match x with
  | .run t => decide (t.ctx = ctx) && decide (t.ltn = ltn)
  | .idle | .save _ => false

/-- Threadlets of a context's part that run. -/
def State.runsOn (s : State) (ctx ltn : Nat) : Bool :=
  match s.ptnOf ctx ltn with
  | some ptn => (s.tile ptn).cores.any fun c => c.2.seats.any fun x => x.2.runs ctx ltn
  | none => false

/-- Threadlets of a part that an eviction has stopped and that have yet to run again (R37). -/
def Part.stoppedHere (p : Part) : Bool :=
  !p.stopped.isEmpty || p.cores.any fun c => c.2.ready.any (·.stopped) || c.2.late.any (·.stopped)

/-- Step 2 of R184 on one core: ready entries, held firings, deque records and spill records, and tasks taken up are discarded. -/
def PartCore.discard (c : PartCore) : PartCore :=
  { c with
    ready := []
    late := []
    tasks := []
    dqCount := 0
    dqHead := 0
    deque := []
    frames := c.frames.map fun f => (f.1, { f.2 with ovf := false, slots := f.2.slots.map fun x => (x.1, { x.2 with pn := 0 }) }) }

/-- KEND's step 2 on a tile (R184); `ended` stops every later pick. -/
def State.startEnd (s : State) (ctx ltn : Nat) : State :=
  let p := s.part ctx ltn
  let s := s.setPart ctx ltn { p with ended := true, rootDue := false, barEnd := p.barNext, aredEnd := p.aredNext, cores := p.cores.map fun c => (c.1, c.2.discard) }
  match s.ptnOf ctx ltn with
  | none => s
  | some ptn =>
    (List.range 4).foldl (init := s) fun s k =>
      let c := s.coreAt ptn k
      s.setCore ptn k { c with deque := c.deque.filter fun e => e.1 ≠ ctx }

/-- Requests of a tile that wait on what may never come: deferred ILDs, armed watches, launches that wait for room, and FNEWs that wait
(R184). -/
def State.endlessWaits (s : State) (ctx ltn : Nat) : List Nat :=
  let p := s.part ctx ltn
  let own := s.reqs.filter fun q => decide (q.ref.ctx = ctx) && decide (q.ref.ltn = ltn)
  let waits := p.cores.flatMap fun c => c.2.waits
  (own.filter fun q => match q.kind with
    | .ild | .watch .. => s.deferred.any fun d => d.id = q.id
    | .launch _ w => w
    | .fnew _ => waits.contains q.id
    | _ => false).map (·.id)

/-- ILDs and watches that have left for another package are withdrawn there, which answers them (R184, R390). -/
def State.withdrawFar (s : State) (ids : List Nat) : State :=
  (s.reqs.filter fun q => ids.contains q.id && q.sent && !q.performed).foldl (init := s) fun s q =>
    match q.kind, q.phys with
    | .ild, some ⟨.remote pkg, pa, _⟩ | .watch .., some ⟨.remote pkg, pa, _⟩ =>
      (s.emit q.ref.ctx pkg (pa / 512) true (.withdraw q.id)).getD s
    | _, _ => s

/-- Steps 4 and 5 of R184, once no threadlet of the part runs, nor has been stopped by an eviction while it ran. -/
def State.finishPart (s : State) (ctx ltn : Nat) : State :=
  let p := s.part ctx ltn
  if !p.ended ∨ p.finished ∨ s.runsOn ctx ltn ∨ p.stoppedHere then s
  else
    let ids := s.endlessWaits ctx ltn
    let s := { s with deferred := s.deferred.filter fun d => !ids.contains d.id }
    let s := s.answerAll ids .cancelled []
    let s := s.withdrawFar ((s.reqs.filter fun q => decide (q.ref.ctx = ctx) && decide (q.ref.ltn = ltn)).map (·.id))
    let frames := p.cores.flatMap fun c => c.2.frames.map fun f => (⟨ctx, ltn, c.1, f.1⟩ : FrameRef)
    let s := frames.foldl (fun s r => s.freeFrame r) s
    let p := s.part ctx ltn
    let s := s.setPart ctx ltn { p with finished := true, cores := p.cores.map fun c => (c.1, { c.2 with waits := [] }) }
    let p := s.part ctx ltn
    let releases : List PhOp := (List.range 4).map fun n => ⟨s.nextId + n, n, false, .release⟩
    let s : State := { s.setPart ctx ltn { p with phq := p.phq ++ releases } with nextId := s.nextId + 4 }
    let s := (s.closeWindows ctx ltn).withdrawAll ctx ltn
    (s.engines ctx ltn).releaseHeld

/-- Parts that have ended and whose last threadlet is gone finish, whatever took it (R184, R379). -/
def State.finishParts (s : State) : State :=
  s.parts.foldl (fun s e => if e.2.ended && !e.2.finished then s.finishPart (e.1 / 4096) (e.1 % 4096) else s) s

end Sys2Proof.Machine
end

