-- ==== Sys2Proof/Machine/Issue.lean ====
section
/-! DEFINITION. Issuing one instruction: the checks of R76 in their order around the meaning of the instruction, and what its outcome does
to the seat (R9, R33, R63, R376). -/

namespace Sys2Proof.Machine

/-- What the body of an instruction comes to, with the state and the threadlet as it leaves them. -/
inductive Res where
  /-- it retires: its flags merge and the PC advances -/
  | next (s : State) (t : Threadlet) (f : Fl)
  /-- it retires and branches -/
  | jump (s : State) (t : Threadlet) (pc : Word)
  /-- it traps: cause, CODE, ADDR, the flags it raised -/
  | trap (cause code : Nat) (addr : Word) (f : Fl)
  /-- it retires and has ended its threadlet -/
  | ended (s : State)
  /-- it is not ready to issue (R35) -/
  | wait

/-- A plain result. -/
def retire (s : State) (t : Threadlet) : Res := .next s t 0
/-- A trap with no code, address or flags. -/
def trapWith (cause : Nat) : Res := .trap cause 0 0 0

/-- A scalar or mask result written to D. -/
def retireOp (s : State) (v : View) (d : Operand) (x : Word) (f : Fl) : Res :=
  let (s, t) := writeOp s v.t d x
  .next s t f

/-- The first word of an instruction, for trap records (R375). -/
def firstWord (i : Instr) : Word := (encode i).headD 0

/-- The register after an even one: the new value of .cas (R136, R222). -/
def nextReg : Operand → Operand
  | .w n => .w ⟨(n.val + 1) % 64, Nat.mod_lt _ (by decide)⟩
  | .f n => .f ⟨(n.val + 1) % 120, Nat.mod_lt _ (by decide)⟩
  | o => o

/-- Whether the claim word of a PHCLAIM asks for a spill area, so that its Z is read (R297). -/
def claimSpills (w : Nat) : Bool := decide (w / 2 ^ 50 % 2 = 1)

/-- The trap of a poisoned frame-word source (R415). -/
def State.poisonTrap (s : State) (t : Threadlet) (l : List Operand) : Option Res :=
  (s.poisonedSource t l).map fun n => .trap 0x12 0 (addrWord (wordOffset n)) 0

/-- The operands that the instruction reads: the second value of .cas too (R136, R222), and Z of PHCLAIM only where its claim word, which can be
read, asks for a spill area (R297). -/
def State.readSources (s : State) (v : View) (i : Instr) (h : Shape) : List Operand :=
  match i with
  | .satom _ .cas _ d _ _ | .gatom _ .cas _ d _ _ _ _ _ => sourcesOf h ++ [nextReg d]
  | .phclaim _ x y z _ =>
    if (s.poisonedSource v.t [y]).isNone ∧ claimSpills (s.readOp v y).toNat then [x, y, z] else [x, y]
  | _ => sourcesOf h

/-- The registers that the instruction reads, with the register of its target (R419). -/
def State.readRegisters (s : State) (v : View) (i : Instr) (h : Shape) (t : Target) : List Operand :=
  s.readSources v i h ++ (match t with
    | .reg n => [Operand.w n]
    | .slot _ | .nothing => [])

/-- Instructions that judge all their frame-word sources in the body, since a check of one operand may fail whatever another holds
(R76 check 9: bounds and alignment come before poison). -/
def judgesSources : Instr → Bool
  | .scpy .. | .gldv .. | .gatom .. | .strmOpen .. | .strmAdv .. | .strmNotify .. | .sloti .. | .slota .. | .sigd .. | .cont .. | .launch ..
  | .chsend .. | .chsendm .. | .chrecv .. | .chsel .. | .phclaim .. | .phins .. | .phprb .. | .phdel .. | .phacc .. | .phdrn .. | .phstat ..
  | .mcfg .. | .mlda .. | .mldb .. | .mrun .. | .mzero .. | .mdrn .. | .msteer .. | .mstat ..
  | .sysw .. | .fres .. | .tlbi .. | .dloctl .. => true
  | _ => false

/-- The uses on which the checks of bounds and alignment rest: all but a datum, which is judged after those checks (R76 check 9, R131, R216). -/
def checkedUses (i : Instr) (h : Shape) : List Use :=
  match i with
  | .sts .. | .satom .. | .gst .. | .gatom .. | .gred .. | .ist .. | .irst .. | .mwatch .. => h.uses.drop 1
  | .spawn .. => h.uses.take 1
  | .phclaim .. => h.uses.take 2
  | _ => h.uses

/-- Frame-word sources that are read as one 64-bit operand before the body; a position of class `frame` names the first word of a run,
which its instruction reads and checks itself (R181, R255). -/
def plainSources (i : Instr) (h : Shape) : List Operand :=
  ((checkedUses i h).filter fun u => u.role.reads && decide (u.cls ≠ .frame)).map (·.op)

/-- Checks of an instruction in the order in which its description lists them, each with the operands it reads, whether it fails and its cause,
and then the poison of its frame-word sources: the first that fails traps. A check that reads a poisoned word cannot be made, and leaves the
trap to the poison (R76 check 9, R415; notes/assumptions/9.md). -/
def State.checked (s : State) (v : View) (l : List (List Operand × Bool × Nat)) (sources : List Operand) : Option Res :=
  match l.find? fun c => c.2.1 && (s.poisonedSource v.t c.1).isNone with
  | some c => some (trapWith c.2.2)
  | none => s.poisonTrap v.t sources

/-- The completion target of an instruction, for the check of R69. -/
def targetOf : Instr → Target
  | .gld _ _ _ _ _ _ t _ _ | .gst _ _ _ _ _ t _ _ | .gldv _ _ _ _ t _ _ | .gstv _ _ _ _ t _ _ | .gatom _ _ _ _ _ _ t _ _
  | .gred _ _ _ _ _ _ t _ _ | .ild _ _ _ _ t _ _ | .ist _ _ _ _ t _ _ | .irst _ _ _ _ t _ _ | .mwatch _ _ _ _ _ t _ _
  | .dma _ _ t _ _ | .strmOpen _ _ _ t _ _ | .strmAdv _ _ _ t _ _ | .strmNotify _ _ _ t _ _ | .strmClose _ _ t _ _
  | .fence _ t _ _ | .fnew _ _ _ t | .spawn _ _ _ t | .launch _ _ _ t | .bar _ t | .ared _ _ _ _ _ t | .chsend _ _ _ _ _ _ t
  | .chrecv _ _ _ _ _ t | .chsel _ _ _ _ _ _ t | .chsendm _ _ _ _ _ _ t | .chtest _ _ _ t | .chbind _ _ t
  | .phclaim _ _ _ _ t | .phins _ _ _ _ _ _ t | .phprb _ _ _ _ _ t | .phdel _ _ _ _ _ t | .phacc _ _ _ _ _ _ _ t
  | .phdrn _ _ _ _ _ _ _ t | .phrls _ _ t | .phstat _ _ _ _ _ t | .mlda _ _ _ _ t | .mrun _ _ _ _ _ _ t
  | .mdrn _ _ _ _ _ _ _ _ t | .mstat _ _ _ t | .sysr _ _ _ t | .sysw _ _ _ t | .fres _ _ _ _ t | .tlbi _ _ _ _ t
  | .tmap _ _ _ t | .evictSave _ _ t | .evictRestore _ _ t | .dloctl _ _ _ t => t
  | _ => .nothing

/-- The check of R69 on a register continuation: V = 1 and MBZ zero. -/
def targetGood (t : Threadlet) : Target → Bool
  | .reg n => let c := Tab.get 0 t.w n.val; contV c && decide (contMbz c = 0)
  | .slot _ | .nothing => true

/-- Instructions that hold an entry of the core's table of outstanding requests (R170, R215, R255, R278, R312, R377). -/
def holdsEntry : Instr → Bool
  | .gld .. | .gst .. | .gldv .. | .gstv .. | .gatom .. | .gred .. | .ild .. | .ist .. | .irst .. | .mwatch .. | .dma .. | .strmOpen ..
  | .strmAdv .. | .strmNotify .. | .strmClose .. | .fence .. | .fnew .. | .spawn .. | .launch .. | .bar .. | .ared .. | .chtest ..
  | .chbind .. | .phclaim .. | .phins .. | .phprb .. | .phdel .. | .phacc .. | .phdrn .. | .phrls .. | .phstat .. | .mlda .. | .mrun ..
  | .mdrn .. | .mstat .. | .sysr .. | .sysw .. | .fres .. | .tlbi .. | .tmap .. | .evictSave .. | .evictRestore .. | .dloctl .. => true
  | _ => false

/-- Instructions that enter the Anvil's command queue (R274). -/
def entersAnvil : Instr → Bool
  | .mcfg .. | .mlda .. | .mldb .. | .mrun .. | .mzero .. | .mdrn .. | .msteer .. | .mstat .. => true
  | _ => false

/-- An instruction that is not ready to issue (R35): it needs an entry while the core's 48 are taken (R215), or a place of the command queue while
that holds 16 commands (R274). -/
def State.notReady (s : State) (v : View) (i : Instr) : Bool :=
  (holdsEntry i && !s.entryFree v.seat) || (entersAnvil i && decide (16 ≤ (s.anvil v.t.ctx v.t.ltn).places))

/-- Machine check of an operand's parity (R419). -/
def machineCheckOf (o : Operand) : Res := .trap 0x30 (specifier o) 0 0

/-- Machine check of the seat flags, which have no specifier: CODE is a free value (R419; notes/assumptions/57.md). -/
def badFlagsTrap (s : State) : Res := .trap 0x30 (Config.freeValue 32 s.fresh).toNat 0 0

/-- Checks 3 to 7 of R76 on an instruction, with the privilege of its context (check 4). -/
def staticCheck (s : State) (t : Threadlet) (i : Instr) (h : Shape) : Option Nat :=
  if !h.coded then some 0x01
  else if i.privileged && !(s.ctx t.ctx).priv then some 0x0B
  else if !h.operandsOk then some 0x03
  else if (frameIndices h).any fun n => frameWords ((s.frame t.ref).any (·.large)) ≤ n then some 0x04
  else none

/-- Checks made with a true guard before the body: parity of the registers read (R419), the register continuation (R69), poisoned
frame-word sources (R415) unless the body judges them. The spec does not order parity against the continuation or against the poison: DESIGN
CHOICE, parity before both (notes/assumptions/56.md). -/
def sourceCheck (s : State) (v : View) (i : Instr) (h : Shape) : Option Res :=
  match v.t.badSource (s.readRegisters v i h (targetOf i)) with
  | some o => some (machineCheckOf o)
  | none =>
    if !targetGood v.t (targetOf i) then some (trapWith 0x03)
    else if judgesSources i then none
    else s.poisonTrap v.t (plainSources i h)

/-- What an instruction comes to: once it is ready to issue (R35), checks 3 to 8 of R76, then its body. -/
def judge (i : Instr) (h : Shape) (s : State) (v : View) (body : State → View → Res) : Res :=
  if s.notReady v i then .wait
  else
  match staticCheck s v.t i h with
  | some c => trapWith c
  | none =>
    if v.t.bad.contains (.k h.guard.k) then machineCheckOf (.k h.guard.k)
    else if !guardTrue (v.t.guardMask h.guard) h.gu then retire s v.t
    else (sourceCheck s v i h).getD (body s v)

/-- Whether an instruction writes every byte of its vector destination: every lane of its guard is active, and its lanes fill the register
(R114, R123, R419). -/
def writesWhole (i : Instr) (t : Threadlet) : Bool :=
  match i.shape with
  | none => false
  | some h =>
    (match h.gu with
     | .scalar => guardTrue (t.guardMask h.guard) .scalar
     | .lanes n => decide ((t.guardMask h.guard).toNat % 2 ^ n = 2 ^ n - 1))
      && (match i with
        | .vins .. => false
        | .vpack _ _ dt st _ _ _ _ => decide (dt.width ≠ 6) && decide (512 ≤ 2 * (if st.width = 6 then 64 else 512 / st.width) * dt.width)
        | .vunpk _ dt .. => decide (dt.width ≠ 6)
        | _ => true)

/-- The threadlet past an instruction: its flags merge, nothing is in progress, and a vector register that was written whole has good parity
again (R33, R91, R419). -/
def Threadlet.past (t : Threadlet) (i : Instr) (f : Fl) : Threadlet :=
  let dsts : List Operand := ((i.shape.map (·.uses)).getD []).filterMap fun u => if u.role.writes && decide (u.cls = .vector) then some u.op else none
  { t.merge f with
    mid := none
    bad := if t.bad = [] then [] else if writesWhole i t then t.bad.filter fun o => !dsts.contains o else t.bad }

/-- The seat after the outcome (R9, R33, R63): an enabled exception traps with cause 0x08 in place of retiring. -/
def settle (i : Instr) (s : State) (v : View) (r : Res) : State :=
  let info (cause code : Nat) (addr : Word) (f : Fl) : TrapInfo := ⟨cause, code, addr, f, 0, 0, v.t.pc, firstWord i⟩
  match r with
  | .next s' t f =>
    if s.enabledFlags v.t.ctx f ≠ 0 then (s.trap v (info 0x08 0 0 f)).finishPart v.t.ctx v.t.ltn
    else s'.setSeat v.seat (.run { t.past i f with pc := v.t.pc + BitVec.ofNat 64 i.size })
  | .jump s' t pc => s'.setSeat v.seat (.run { t with pc := pc, mid := none })
  | .trap c code addr f =>
    let s := if c = 0x30 then s.rasOpen 0x03 2 v.t.ctx (ptnDie v.seat.ptn) v.seat.ptn else s
    (s.trap v (info c code addr f)).finishPart v.t.ctx v.t.ltn
  | .ended s' => s'
  | .wait => if v.t.mid.isSome then s.setSeat v.seat (.run { v.t with mid := none }) else s

/-- One instruction issued by the current seat. -/
def issue (i : Instr) (s : State) (body : State → View → Res) : Host.Outcome State Fault Refusal :=
  match s.seat s.cur, i.shape with
  | .run t, some h =>
    let v : View := ⟨s.cur, t⟩
    .next (settle i s v (judge i h s v body))
  | _, _ => .fault .noThreadlet

end Sys2Proof.Machine
end

