-- ==== Sys2Proof/Machine/AnvilInstr.lean ====
section
/-! DEFINITION. The Anvil instructions (R276 to R292), and the engine's two steps (R284, R289). -/

namespace Sys2Proof.Machine

/-! ## Entering the queue (R270, R274, R278) -/

/-- The grant of R270. -/
def State.anvilGrant (s : State) (ctx : Nat) : Bool := ((s.kernel ctx).map (·.anvil)).getD false

/-- A command enters the queue as its instruction retires. -/
def State.command (s : State) (v : View) (c : Cmd) : State :=
  let e := s.anvil v.t.ctx v.t.ltn
  (s.setAnvil v.t.ctx v.t.ltn { e with queue := e.queue ++ [c] }).engines v.t.ctx v.t.ltn

/-- The checks of an Anvil instruction (R277): the grant, its own in their order, and the poison of its sources. -/
def State.anvilCheck (s : State) (v : View) (checks : List (List Operand × Bool × Nat)) (sources : List Operand) : Option Res :=
  s.checked v (([], !s.anvilGrant v.t.ctx, 0x03) :: checks) sources

/-- An Anvil instruction that completes nothing: its checks, and its command (R274, R277). -/
def State.anvilBody (s : State) (v : View) (checks : List (List Operand × Bool × Nat)) (sources : List Operand) (c : Cmd) : Res :=
  (s.anvilCheck v checks sources).getD (retire (s.command v c) v.t)

/-- The same for an instruction that completes (R278). -/
def State.anvilRequest (s : State) (v : View) (iword : Word) (dest : Dest) (checks : List (List Operand × Bool × Nat)) (sources : List Operand)
    (c : Nat → Cmd) : Res :=
  (s.anvilCheck v checks sources).getD
    (let q := s.newReq v iword dest .anvil 0 .relaxed .package false
     retire ((s.addReq q).command v (c q.id)) v.t)

/-! ## The instructions -/

/-- MCFG (R272, R277, R279). -/
def execMcfg (g : Guard) (x : Operand) (s : State) : Host.Outcome State Fault Refusal :=
  issue (.mcfg g x) s fun s v =>
    let w := s.readOp v x
    s.anvilBody v [([x], (anvilTypes w).isNone, 0x03)] [x] (.cfg w)

/-- Fields of the panel word (R280). -/
def panelFirst (w : Nat) : Nat := w % 64
def panelCount (w : Nat) : Nat := w / 2 ^ 8 % 128
def panelBad (w : Nat) : Bool :=
  decide (w / 2 ^ 15 ≠ 0) || decide (w / 2 ^ 6 % 4 ≠ 0) || decide (panelCount w = 0) || decide (64 < panelFirst w + panelCount w)

/-- MLDA (R277, R280). -/
def execMlda (g : Guard) (x y z : Operand) (t : Target) (s : State) : Host.Outcome State Fault Refusal :=
  issue (.mlda g x y z t) s fun s v =>
    let a := (s.readOp v x).toNat
    let w := (s.readOp v y).toNat
    let sc := (s.readOp v z).toNat
    let n := panelCount w
    s.anvilRequest v (firstWord (.mlda g x y z t)) (s.destOf v t 0xFF)
      [([y], panelBad w, 0x03), ([x], decide (a % 64 ≠ 0), 0x06), ([z], decide (sc % 64 ≠ 0), 0x06),
        ([x, y], !s.rangeOk v.t.ctx v.t.ltn a (1024 * n), 0x05), ([y, z], !s.rangeOk v.t.ctx v.t.ltn sc (64 * n), 0x05)] [x, y, z]
      fun id => .lda id a (panelFirst w) n sc

/-- MLDB (R277, R281). -/
def execMldb (g : Guard) (x y z : Operand) (s : State) : Host.Outcome State Fault Refusal :=
  issue (.mldb g x y z) s fun s v =>
    let a := (s.readOp v x).toNat
    let st := (s.readOp v y).toNat
    let tk := (s.readOp v z).toNat
    s.anvilBody v [([y], decide (st % 64 ≠ 0 ∨ 2 ^ 19 ≤ st), 0x03), ([x], decide (a % 64 ≠ 0), 0x06), ([z], decide (tk % 64 ≠ 0), 0x06)] [x, y, z]
      (.ldb a st tk)

/-- Fields of the run word (R282). -/
def runAcc (w : Nat) : Nat := w % 8
def runPanel (w : Nat) : Nat := w / 2 ^ 8 % 64
def runSteps (w : Nat) : Nat := w / 2 ^ 16 % 2 ^ 16
def runSpa (w : Nat) : Nat := w / 2 ^ 32 % 2 ^ 8
def runDrn (w : Nat) : Bool := decide (w / 2 ^ 40 % 2 = 1)
def runBad (w : Nat) : Bool :=
  decide (w / 2 ^ 41 ≠ 0) || decide (w / 2 ^ 14 % 4 ≠ 0) || decide (w / 2 ^ 3 % 32 ≠ 0) || decide (runSpa w = 0)
    || decide (64 < runPanel w + runSpa w)

/-- Fields of the B word (R285). -/
def bIn (w : Nat) : Nat := w % 64
def bOut (w : Nat) : Nat := w / 2 ^ 8 % 64
def bBad (w : Nat) (chan ring : Bool) : Bool :=
  decide (w / 2 ^ 14 ≠ 0) || decide (w / 2 ^ 6 % 4 ≠ 0) || (!ring && decide (bOut w ≠ 0)) || (!chan && decide (bIn w ≠ 0))

/-- The drain word (R283): what breaks it with cause 0x03, and a misaligned DEST with 0x06. -/
def drainWordBad (w : Nat) : Bool :=
  let kind := w / 2 ^ 30 % 4
  let dest := w % 2 ^ 19
  decide (w / 2 ^ 19 % 4 ≠ 0) || decide (kind = 3) || decide (3 < w / 2 ^ 26 % 8)
    || !((tyOfCode (w / 2 ^ 21 % 32)).map (·.inDrain)).getD false
    || (decide (kind = 1) && decide (dest / 64 ≠ 0)) || (decide (kind = 2) && decide (dest / 16 ≠ 0))
def drainWordMisaligned (w : Nat) : Bool := decide (w / 2 ^ 30 % 4 = 0) && decide (w % 64 ≠ 0)

/-- A port bound in a role. -/
def State.roleOk (s : State) (v : View) (n : Nat) (send : Bool) : Bool :=
  let p := s.port v.t.ctx v.t.ltn n
  p.bound && decide (p.send = send)

/-- MRUN (R277, R282 to R285). -/
def execMrun (g : Guard) (chan ring : Bool) (x y z : Operand) (t : Target) (s : State) : Host.Outcome State Fault Refusal :=
  issue (.mrun g chan ring x y z t) s fun s v =>
    let w := (s.readOp v x).toNat
    let b := (s.readOp v y).toNat
    let d := (s.readOp v z).toNat
    s.anvilRequest v (firstWord (.mrun g chan ring x y z t)) (s.destOf v t 0xFF)
      [([x], runBad w, 0x03), ([y], bBad b chan ring, 0x03),
        ([y], (chan && !s.roleOk v (bIn b) false) || (ring && !s.roleOk v (bOut b) true), 0x21),
        ([x, z], runDrn w && drainWordBad d, 0x03), ([x, z], runDrn w && drainWordMisaligned d, 0x06)] [x, y, z]
      fun id => .run ⟨id, chan, ring, runAcc w, runPanel w, runSteps w, runSpa w, if runDrn w then some d else none, bIn b, bOut b,
        0, none, [], 0, 0, 0, .ok, false, 0, [], []⟩

/-- MZERO (R277, R279). -/
def execMzero (g : Guard) (x : Operand) (s : State) : Host.Outcome State Fault Refusal :=
  issue (.mzero g x) s fun s v =>
    let w := (s.readOp v x).toNat
    s.anvilBody v [([x], decide (w / 2 ^ 8 ≠ 0), 0x03)] [x] (.zero w)

/-- MDRN (R277, R289 to R291). -/
def execMdrn (g : Guard) (kind : DrainKind) (sat : Bool) (ty : Ty) (rm : RM) (x y z : Operand) (t : Target) (s : State) :
    Host.Outcome State Fault Refusal :=
  issue (.mdrn g kind sat ty rm x y z t) s fun s v =>
    let a := (s.readOp v x).toNat
    let d := (s.readOp v y).toNat
    let w := (s.readOp v z).toNat
    s.anvilRequest v (firstWord (.mdrn g kind sat ty rm x y z t)) (s.destOf v t 0xFF)
      [([x], decide (7 < a), 0x03), ([z], decide (w / 2 ^ 32 ≠ 0), 0x03),
        ([y], (decide (kind = .chan) && decide (63 < d)) || (decide (kind = .steer) && decide (15 < d)), 0x03),
        ([y], decide (kind = .chan) && !s.roleOk v d true, 0x21),
        ([y], decide (kind = .spad) && decide (d % 64 ≠ 0), 0x06),
        ([y], decide (kind = .spad) && !s.rangeOk v.t.ctx v.t.ltn d (drainBytes ty), 0x05)] [x, y, z]
      fun id => .drn id ⟨a, kind, d, w, ty, rm, sat⟩

/-- A steering word with V = 1 that breaks R279. -/
def steerBad (w : Word) : Bool :=
  let n := w.toNat
  steerV w && (decide (n / 2 ^ 19 % 2 ^ 42 ≠ 0)
    || (if steerChan w then decide (steerDest w / 64 ≠ 0) else decide (steerDest w % 64 ≠ 0)))

/-- MSTEER (R277, R279). -/
def execMsteer (g : Guard) (x y : Operand) (s : State) : Host.Outcome State Fault Refusal :=
  issue (.msteer g x y) s fun s v =>
    let n := (s.readOp v x).toNat
    let w := s.readOp v y
    s.anvilBody v [([x], decide (15 < n), 0x03), ([y], steerBad w, 0x03)] [x, y] (.steer n w)

/-- A selector that R292 does not give. -/
def statBad (w : Nat) : Bool :=
  let sel := w % 32
  decide (w / 2 ^ 9 ≠ 0) || decide (w / 2 ^ 5 % 8 ≠ 0) || (decide (4 < sel) && decide (sel < 16))
    || (decide (w / 2 ^ 8 % 2 = 1) && decide (2 < sel))

/-- MSTAT (R277, R292). -/
def execMstat (g : Guard) (d x : Operand) (t : Target) (s : State) : Host.Outcome State Fault Refusal :=
  issue (.mstat g d x t) s fun s v =>
    let w := (s.readOp v x).toNat
    s.anvilRequest v (firstWord (.mstat g d x t)) (s.destOf v t (wordIndex d)) [([x], statBad w, 0x03)] [x]
      fun id => .stat id (w % 32) (decide (w / 2 ^ 8 % 2 = 1))

/-! ## The engine's steps -/

/-- ANVIL_STEP (R280, R284, R285): the MLDA at the head of the queue reads what it has yet to read; or the next step of the run there, once its
block is in a latch half: what has not been read ahead of a block of the B stream is read now. -/
def execAnvilStep (ctx ltn : Nat) (s : State) : Host.Outcome State Fault Refusal :=
  let e := s.anvil ctx ltn
  match e.queue with
  | .lda id x first count z :: _ =>
    if (s.tme ctx ltn).st ≠ .resident then .next s else .next ((s.loadPanels ctx ltn id x first count z).engines ctx ltn)
  | .run r :: _ =>
    if r.stopped ∨ r.steps ≤ r.next ∨ r.pend.isSome ∨ (s.tme ctx ltn).st ≠ .resident then .next s
    else if (r.chan ∧ e.latch.isEmpty) ∨ (!r.chan ∧ r.ahead.isEmpty ∧ r.taking.isEmpty ∧ 2 ≤ (s.part ctx ltn).latchUsed) then .next s
    else
      let s := if r.next = 0 then s.setAnvil ctx ltn { e with stepc := 0 } else s
      .next ((match anvilTypes e.cfg with
        | none => s.stopRun ctx ltn r .refused
        | some (ta, tb) =>
          if r.chan then
            match e.latch with
            | b :: rest => (s.setAnvil ctx ltn { s.anvil ctx ltn with latch := rest }).runStep ctx ltn r ta tb b
            | [] => s
          else
            match r.ahead with
            | (.ok, b) :: rest => s.runStep ctx ltn { r with ahead := rest } ta tb b
            | (st, _) :: _ => s.stopRun ctx ltn r st
            | [] =>
              match s.spadBlock ctx ltn r.next tb.blockScaled r.taking with
              | .error st => s.stopRun ctx ltn r st
              | .ok b => s.runStep ctx ltn { r with taking := [] } ta tb b).engines ctx ltn)
  | _ => .next s

/-- ANVIL_DRAIN (R289): the drain that the run awaits, or the MDRN at the head of the queue, once a drain buffer is free; one whose bytes are
being written goes on to its end (R295). -/
def execAnvilDrain (ctx ltn : Nat) (s : State) : Host.Outcome State Fault Refusal :=
  if (s.anvil ctx ltn).writing.isNone ∧ !s.drainReady ctx ltn then .next s
  else
    let s := s.drainBegin ctx ltn
    .next ((s.drainWrite ctx ltn (((s.anvil ctx ltn).writing.map (·.2.length)).getD 0)).engines ctx ltn)

end Sys2Proof.Machine
end

