-- ==== Sys2Proof/Machine/Torus.lean ====
section
/-! DEFINITION. Places on the package (R13, R14, R17, R425): physical tiles, torus positions and home slices' routers. -/

namespace Sys2Proof.Machine

/-- Fields of a PTN (R13). -/
def ptnCol (ptn : Nat) : Nat := ptn / 16 % 64
def ptnRow (ptn : Nat) : Nat := ptn % 16
/-- A number that names a physical tile (R13). -/
def ptnNames (ptn : Nat) : Bool := decide (ptn < 2 ^ 13) && decide (ptnCol ptn < 34)

/-- The active columns of a die: the lowest 32 that are not retired (R14, R425). -/
def Hallmark.columns (h : Hallmark) (die : Nat) : List Nat :=
  ((List.range 34).filter fun c => !h.fused.contains (die, c) && !h.retired.contains (die, c)).take 32

/-- The PTN at a torus position (R14). -/
def State.ptnAt (s : State) (x y : Nat) : Nat :=
  let die := x / 32 % 2 + 2 * (y / 16 % 4)
  die * 1024 + (s.hallmark.columns die).getD (x % 32) 0 * 16 + y % 16

/-- The torus position of an active tile (R14). -/
def State.torusOf (s : State) (ptn : Nat) : Option (Nat × Nat) :=
  let die := ptnDie ptn
  if !ptnNames ptn then none
  else ((s.hallmark.columns die).findIdx? fun c => c = ptnCol ptn).map fun c => (32 * (die % 2) + c, 16 * (die / 2) + ptnRow ptn)

/-- An active tile of the package that no repair has left defective (R14, R425). -/
def State.activeTile (s : State) (ptn : Nat) : Bool :=
  (s.torusOf ptn).isSome && !s.hallmark.defective.contains (ptnDie ptn, ptnCol ptn)

/-- The slice of an address (R192). -/
def homeSlice (pa : Nat) : Nat :=
  let g := pa / 512
  (g.xor ((g / 2 ^ 9).xor ((g / 2 ^ 18).xor ((g / 2 ^ 27).xor (g / 2 ^ 36))))) % 512

/-- The physical tile where an address's home slice attaches (R17, R192). -/
def State.homeTile (s : State) (pa : Nat) : Nat :=
  let n := homeSlice pa
  let d := n / 64
  let l := n % 64
  let y0 := l / 4
  s.ptnAt (32 * (d % 2) + 8 * (l % 4) + 4 * (y0 % 2)) (16 * (d / 2) + y0)

end Sys2Proof.Machine
end

