-- ==== Sys2Proof/Machine/ChanEvents.lean ====
section
/-! DEFINITION. The steps of the channel unit as its packets arrive (R239, R243 to R253, R258). -/

namespace Sys2Proof.Machine

/-- A posted operation of a tile receives a channel packet: a detection may start again (R262). -/
def State.chHeard (s : State) (p : ChPacket) : State :=
  if (s.port p.ctx p.dst.ltn p.dst.port).op.isSome then s.dloAgain p.ctx p.dst.ltn else s

/-- A channel packet taken by its tile, the engines going on after it; no step where it has not arrived or is of another kind. -/
def State.chTake (s : State) (n : Nat) (f : State → ChPacket → Option State) : Host.Outcome State Fault Refusal :=
  match s.chArrived n with
  | none => .next s
  | some p =>
    match f ((s.takePacket n).chHeard p) p with
    | some s => .next (s.engines p.ctx p.dst.ltn)
    | none => .next s

/-- READY (R243): recorded, and the data move once the send is there. Whether the port that it comes from is a member still is not tested: DESIGN CHOICE
(notes/assumptions/85.md). -/
def execReady (n : Nat) (s : State) : Host.Outcome State Fault Refusal :=
  s.chTake n fun s p => match p.body with
    | .ready a =>
      if s.refusesNew p.ctx p.dst.ltn p.dst.port then some (s.chReply p .refuse)
      else
        some ((s.modPort p.ctx p.dst.ltn p.dst.port fun q =>
          { q with rdy := q.rdy.filter (·.1 ≠ p.src) ++ [(p.src, a)] }).chTry p.ctx p.dst.ltn p.dst.port)
    | _ => none

/-- READY_SELECT (R249, R251): refused on a group port of two or more members; membership is not tested (notes/assumptions/85.md). It is recorded beside an
offer that is out under an older seq. -/
def execReadySelect (n : Nat) (s : State) : Host.Outcome State Fault Refusal :=
  s.chTake n fun s p => match p.body with
    | .readySelect seq k =>
      if s.refusesNew p.ctx p.dst.ltn p.dst.port ∨ 2 ≤ (s.port p.ctx p.dst.ltn p.dst.port).members.length then
        some (s.chReply p .refuse)
      else
        some ((s.modPort p.ctx p.dst.ltn p.dst.port fun q => { q with rsel := some (p.src, seq, k) }).chTry
          p.ctx p.dst.ltn p.dst.port)
    | _ => none

/-- The select for which an offer is current (R249): its seq is the port's, and no winner or withdrawal stands. -/
def State.offerCurrent (s : State) (p : ChPacket) : Option Select :=
  let q := s.port p.ctx p.dst.ltn p.dst.port
  match p.body, q.op with
  | .offer seq, some op =>
    (match op.form with
     | .select id =>
       match (s.part p.ctx p.dst.ltn).sel id with
       | some x => if q.seq = seq ∧ x.winner.isNone ∧ x.cancel.isNone ∧ x.ports.contains p.dst.port then some x else none
       | none => none
     | _ => none)
  | _, _ => none

/-- An offer that is late, or not current, is answered with release, unless a release for its port and seq was sent (R249). -/
def State.offerLate (s : State) (p : ChPacket) : State :=
  match p.body with
  | .offer seq =>
    if (s.port p.ctx p.dst.ltn p.dst.port).released = some seq then s
    else (s.modPort p.ctx p.dst.ltn p.dst.port fun q => { q with released := some seq }).chReply p (.release seq)
  | _ => s

/-- Winner of R250 among tied ports. -/
def selectWinner (rot : Bool) (last : Nat) (tied : List Nat) : Option Nat :=
  let lowest (l : List Nat) : Option Nat := l.foldl (init := none) fun b x => match b with
    | none => some x
    | some y => some (if x < y then x else y)
  if rot then (lowest (tied.filter (last < ·))).or (lowest tied) else lowest tied

/-- The winner is sent go, and every other port of the set release (R249). -/
def State.chooseWinner (s : State) (ctx ltn : Nat) (x : Select) (w : Nat) : State :=
  let s := s.setSel ctx ltn { x with winner := some w }
  let s := s.setPart ctx ltn { s.part ctx ltn with chLast := w }
  x.ports.foldl (init := s) fun s n =>
    let q := s.port ctx ltn n
    match q.members with
    | m :: _ =>
      if n = w then s.chSend ⟨ctx, s.portRef ctx ltn n, m, .go q.seq⟩
      else
        (s.setPort ctx ltn n { q with released := some q.seq }).chSend ⟨ctx, s.portRef ctx ltn n, m, .release q.seq⟩
    | [] => s

/-- Steps of a torus dimension from a coordinate to another, upward and downward. -/
def hopsUp (a b : Nat) : Nat := (b + 64 - a) % 64

/-- The input direction at which a packet between two tiles of the package reaches the second one's router (R15): 0 and 1 along x, upward and
downward, 2 and 3 along y. -/
def inputDirection (src dst : Nat × Nat) : Nat :=
  if src.2 ≠ dst.2 then (if hopsUp src.2 dst.2 ≤ 32 then 2 else 3) else if hopsUp src.1 dst.1 ≤ 32 then 0 else 1

/-- The input direction of a channel packet: none where it comes from another package, whose entry into the torus the specification does not
give (notes/assumptions/68.md). -/
def State.chDirection (s : State) (p : ChPacket) : Option Nat :=
  if p.src.pkg ≠ s.pkgSelf p.ctx then none
  else
    let place (ltn : Nat) : Nat × Nat := (s.torusOf (s.homePtn p.ctx ltn)).getD (0, 0)
    some (inputDirection (place p.src.ltn) (place p.dst.ltn))

/-- A CHSEL loses a port of its set; without ports it completes REFUSED, and a withdrawn one once every other port has answered (R251, R252). -/
def State.dropSelectPort (s : State) (ctx ltn : Nat) (x : Select) (port : Nat) : State :=
  let x := { x with ports := x.ports.filter (· ≠ port), answers := x.answers.filter (· ≠ port) }
  let s := ((s.setSel ctx ltn x).modPort ctx ltn port fun q => { q with op := none }).settlePort ctx ltn port
  if x.ports.isEmpty then s.endSelect ctx ltn x .refused
  else
    match x.cancel with
    | some st => if x.answers.isEmpty ∧ x.winner.isNone then s.endSelect ctx ltn x st else s
    | none => s

/-- An offer at an UNBOUND port or an ended tile is refused (R245, R253): the CHSEL for which it is current loses the port, since its ready-select goes
with the send (R239, R251). -/
def State.refuseOffer (s : State) (p : ChPacket) : State :=
  match s.offerCurrent p with
  | some x => (s.chReply p .refuse).dropSelectPort p.ctx p.dst.ltn x p.dst.port
  | none => s.chReply p .refuse

/-- OFFER (R249, R250): the offers accepted in one cycle at a tile, at most four, each from another input direction; the winner of each select
is chosen among its current ones, the selects in the order of their posting: DESIGN CHOICE (notes/assumptions/84.md). At a port of a tile that has executed KEND, whose CHSEL is withdrawn and not complete, the answer is release:
DESIGN CHOICE (notes/assumptions/77.md). -/
def execOffer (ns : List Nat) (s : State) : Host.Outcome State Fault Refusal :=
  let ps := ns.filterMap fun n => (s.chArrived n).bind fun p => match p.body with
    | .offer _ => some p
    | _ => none
  match ps with
  | [] => .next s
  | p :: _ =>
    if ps.length ≠ ns.length ∨ 4 < ns.length ∨ !ns.Nodup ∨ !((ps.filterMap s.chDirection).Nodup) ∨ ps.any (fun q => q.ctx ≠ p.ctx ∨ q.dst.ltn ≠ p.dst.ltn) then .next s
    else
      let ctx := p.ctx
      let ltn := p.dst.ltn
      let net : List Packet := (s.net.zipIdx.filter fun e => !ns.contains e.2).map (·.1)
      let s : State := { s with net := net }
      let s : State := ps.foldl (fun s q => s.chHeard q) s
      let dead : List ChPacket := ps.filter fun q =>
        s.refusesNew ctx ltn q.dst.port && ((s.port ctx ltn q.dst.port).op.isNone || (s.offerCurrent q).isSome)
      let live : List ChPacket := ps.filter fun q => !dead.contains q
      let cur : List (Nat × Nat) := live.filterMap fun q => (s.offerCurrent q).map fun x => (x.id, q.dst.port)
      let late : List ChPacket := live.filter fun q => (s.offerCurrent q).isNone
      let s : State := dead.foldl (fun s q => s.refuseOffer q) s
      let s : State := late.foldl (fun s q => s.offerLate q) s
      let sels : List Select := (s.part ctx ltn).sels
      .next (sels.foldl (fun (s : State) (x : Select) =>
        let tied : List Nat := (cur.filter fun c => decide (c.1 = x.id)).map (·.2)
        match selectWinner x.rot (s.part ctx ltn).chLast tied with
        | some w => s.chooseWinner ctx ltn x w
        | none => s) s)

/-- The send of a port that is offered to a select, with whom, the seq and the words. -/
def Port.offeredOp (q : Port) : Option (ChOp × PortRef × Nat × Nat) := q.op.bind fun o => o.offered.map fun x => (o, x)

/-- An offered send is released (R251, R252): it is unoffered again, and a ready or ready-select recorded since finds it; a withdrawn one completes, and
so does one whose port is unbound meanwhile (R239; notes/assumptions/73.md). -/
def State.unoffer (s : State) (ctx ltn port : Nat) (op : ChOp) : State :=
  let q := s.port ctx ltn port
  let s := s.setPort ctx ltn port { q with op := some { op with offered := none } }
  match op.cancel with
  | some st => s.chEnd ctx ltn port st
  | none => if q.bound then s.chTry ctx ltn port else s.chEnd ctx ltn port .refused

/-- GO (R249, R251): the data move to the select, or both sides complete REFUSED where they do not match. They move too where the offered send is
withdrawn and not complete on a tile that has executed KEND: DESIGN CHOICE (notes/assumptions/77.md). -/
def execGo (n : Nat) (s : State) : Host.Outcome State Fault Refusal :=
  s.chTake n fun s p => match p.body with
    | .go seq =>
      let port := p.dst.port
      let q := s.port p.ctx p.dst.ltn port
      some (match q.offeredOp with
        | some (op, m, sq, k) =>
          if sq = seq ∧ m = p.src then
            if op.form.matches (.words k) then s.chMove p.ctx p.dst.ltn port op [m]
            else (s.chReply p .refuse).chEnd p.ctx p.dst.ltn port .refused
          else s
        | none => if q.bound then s else s.chReply p .refuse)
    | _ => none

/-- RELEASE (R249, R251, R252): a ready-select that is recorded goes, and the send offered under its seq returns to unoffered; a withdrawn one completes.
An UNBOUND port refuses it (R245). -/
def execRelease (n : Nat) (s : State) : Host.Outcome State Fault Refusal :=
  s.chTake n fun s p => match p.body with
    | .release seq =>
      let port := p.dst.port
      let q := s.port p.ctx p.dst.ltn port
      let recorded := q.rsel.any fun r => decide (r.1 = p.src) && decide (r.2.1 = seq)
      some (if recorded then s.setPort p.ctx p.dst.ltn port { q with rsel := none }
        else
          match q.offeredOp with
          | some (op, m, sq, _) => if sq = seq ∧ m = p.src then s.unoffer p.ctx p.dst.ltn port op else s
          | none => if q.bound then s else s.chReply p .refuse)
    | _ => none

/-- Units and words as a receive takes them, with the status (R244, R247). -/
def State.landData (s : State) (ctx ltn port : Nat) (op : ChOp) (b : ChBody) : Status × State :=
  match op.form, b with
  | .recvWords f _, .dataWords ws => (.ok, s.landWords op.ref op.rtag f ws)
  | .recvBlock a _, .dataUnits u =>
    let p := s.part ctx ltn
    (if u.any (·.isNone) then .poison else .ok, s.setPart ctx ltn (p.landUnits a u (Tab.get 0 p.landed port)))
  | .recvLatch _, .dataUnits u =>
    let blk := blockOf u
    let e := s.anvil ctx ltn
    (if blk.poisoned then .poison else .ok, s.setAnvil ctx ltn { e with latch := e.latch ++ [blk] })
  | .select id, .dataWords ws =>
    (match (s.part ctx ltn).sel id with
     | some x => (.ok, s.landWords x.ref x.rtag x.frm (BitVec.ofNat 64 port :: ws))
     | none => (.ok, s))
  | _, _ => (.ok, s)

/-- The next aligned 8 bytes of the block that a packet brings to its tile land in scratchpad (R130). -/
def State.landUnit (s : State) (n : Nat) : State :=
  match s.chArrived n with
  | none => s
  | some p =>
    let a := s.part p.ctx p.dst.ltn
    match p.body, (a.port p.dst.port).op.map (fun o : ChOp => o.form) with
    | .dataUnits u, some (.recvBlock la _) =>
      if 8 * u.length ≤ Tab.get 0 a.landed p.dst.port then s else s.setPart p.ctx p.dst.ltn (a.landUnit la u p.dst.port)
    | _, _ => s

/-- DATA_LANDING (R244): the bytes land, the receive completes, and the acceptance is sent. -/
def execDataLanding (n : Nat) (s : State) : Host.Outcome State Fault Refusal :=
  s.chTake n fun s p =>
    let port := p.dst.port
    let ltn := p.dst.ltn
    match p.body, (s.port p.ctx ltn port).op with
    | .dataWords _, some op | .dataUnits _, some op =>
      let (st, s) := s.landData p.ctx ltn port op p.body
      let s := s.chReply p (.acceptance st)
      some (match op.form with
        | .select id =>
          (match (s.part p.ctx ltn).sel id with
           | some x => s.endSelect p.ctx ltn x st
           | none => s)
        | _ => s.chEnd p.ctx ltn port st)
    | .dataWords _, none | .dataUnits _, none => some (s.chReply p .refuse)
    | _, _ => none

/-- ACCEPTANCE (R243, R248): the send completes when every acceptance has returned, with POISON if any reported it. -/
def execAcceptance (n : Nat) (s : State) : Host.Outcome State Fault Refusal :=
  s.chTake n fun s p => match p.body with
    | .acceptance st =>
      let port := p.dst.port
      let ltn := p.dst.ltn
      some (match (s.port p.ctx ltn port).op with
        | some op =>
          let op := { op with moving := op.moving.filter (· ≠ p.src), result := if op.result = .ok then st else op.result }
          let s := s.modPort p.ctx ltn port fun q => { q with op := some op }
          if op.moving.isEmpty then (s.chEnd p.ctx ltn port op.result).chTry p.ctx ltn port else s
        | none => s)
    | _ => none

/-- REFUSE (R245, R251): the partner's operation completes REFUSED, and so does a CHTEST; a select loses the port, and completes so when it was
the winner or no port is left. -/
def execRefuse (n : Nat) (s : State) : Host.Outcome State Fault Refusal :=
  s.chTake n fun s p => match p.body with
    | .refuse =>
      let port := p.dst.port
      let ltn := p.dst.ltn
      some (match (s.port p.ctx ltn port).op with
        | none => s
        | some op =>
          match op.form with
          | .select id =>
            (match (s.part p.ctx ltn).sel id with
             | none => s
             | some x =>
               if x.winner = some port then
                 (s.landWords x.ref x.rtag x.frm [BitVec.ofNat 64 port]).endSelect p.ctx ltn x .refused
               else s.dropSelectPort p.ctx ltn x port)
          | _ => s.chEnd p.ctx ltn port .refused)
    | .testRefused id => some (match s.req id with
        | some r => s.finish (r.answer .refused [])
        | none => s)
    | _ => none

/-- A withdraw that is refused: at an UNBOUND port, or at one of a tile that has executed KEND unless its data move to the receive already
(R245, R253). -/
def State.refusesWithdraw (s : State) (p : ChPacket) : Bool :=
  let q := s.port p.ctx p.dst.ltn p.dst.port
  !q.bound || ((s.part p.ctx p.dst.ltn).ended && !q.op.any fun o => o.moving.contains p.src)

/-- WITHDRAW (R252): a ready or ready-select still unmatched is discarded; the answer says whether the receive is gone, or it is refused
(R245). -/
def execWithdraw (n : Nat) (s : State) : Host.Outcome State Fault Refusal :=
  s.chTake n fun s p => match p.body with
    | .withdraw tag =>
      let port := p.dst.port
      let q := s.port p.ctx p.dst.ltn port
      if s.refusesWithdraw p then some (s.chReply p .refuse)
      else
      let had := q.rdy.any (·.1 = p.src)
      let q := { q with
        rdy := q.rdy.filter (·.1 ≠ p.src)
        rsel := q.rsel.filter fun r => r.1 ≠ p.src }
      some ((if q = s.port p.ctx p.dst.ltn port then s else s.setPort p.ctx p.dst.ltn port q).chReply p (.withdrawn tag had))
    | _ => none

/-- WITHDRAW_ANSWER (R252): the receive completes when its ready is discarded, the CHSEL when every port has answered. -/
def execWithdrawAnswer (n : Nat) (s : State) : Host.Outcome State Fault Refusal :=
  s.chTake n fun s p => match p.body with
    | .withdrawn tag gone =>
      let port := p.dst.port
      let ltn := p.dst.ltn
      some (match (s.port p.ctx ltn port).op with
        | none => s
        | some op =>
          match op.form with
          | .select id =>
            (match (s.part p.ctx ltn).sel id with
             | none => s
             | some x =>
               let x := { x with answers := x.answers.filter (· ≠ port) }
               let s := s.setSel p.ctx ltn x
               match x.cancel with
               | some st => if id = tag ∧ x.answers.isEmpty ∧ x.winner.isNone then s.endSelect p.ctx ltn x st else s
               | none => s)
          | _ =>
            match op.cancel with
            | some st => if op.tag = tag ∧ gone then s.chEnd p.ctx ltn port st else s
            | none => s)
    | _ => none

/-- CHANNEL_TEST (R258): the sending port says whether it holds a send not offered elsewhere; an UNBOUND port, or one of an ended tile, refuses
(R245). A send that is still held for its release does not count: DESIGN CHOICE (notes/assumptions/78.md). -/
def execChannelTest (n : Nat) (s : State) : Host.Outcome State Fault Refusal :=
  s.chTake n fun s p => match p.body with
    | .test id =>
      let q := s.port p.ctx p.dst.ltn p.dst.port
      if s.refusesNew p.ctx p.dst.ltn p.dst.port then some (s.chReply p (.testRefused id))
      else
        let elsewhere := q.op.any fun o => o.moving.isEmpty && o.offered.any fun x => decide (x.1 ≠ p.src)
        some (s.chReply p (.tested id (q.op.any (fun o => !o.held) && !elsewhere)))
    | _ => none

/-- The snapshot of a RECV port (R258). -/
def recvSnapshot (q : Port) (partner : Bool) : Word :=
  BitVec.ofNat 64 (1 + (if partner then 2 else 0) + (if q.op.isSome then 4 else 0))

/-- TEST_REPLY (R258). -/
def execTestReply (n : Nat) (s : State) : Host.Outcome State Fault Refusal :=
  s.chTake n fun s p => match p.body with
    | .tested id partner =>
      some (match s.req id with
        | some r => s.finish (r.answer .ok [some (recvSnapshot (s.port p.ctx p.dst.ltn p.dst.port) partner)])
        | none => s)
    | _ => none

/-! ## Binding (R239) -/

/-- Physical ports that a part holds, those kept for binds that wait among them (R237, R240). -/
def Part.portsHeld (p : Part) : Nat := p.ports.length + p.portsKept

/-- Physical ports in use on a tile (R237). -/
def State.portsUsed (s : State) (ctx ltn : Nat) : Nat :=
  match s.ptnOf ctx ltn with
  | some ptn => ((s.ctxsOn ptn).map fun e => (s.part e.1 e.2).portsHeld).foldl (· + ·) 0
  | none => (s.part ctx ltn).portsHeld

/-- A logical port that can be bound: UNBOUND, with a free physical port on its tile; one that still holds an operation, until it is refused, has
one (R237, R239, R251). -/
def State.canBind (s : State) (ctx ltn n : Nat) : Bool :=
  let q := s.port ctx ltn n
  !q.bound && !(s.part ctx ltn).ended && (q.op.isSome || decide (s.portsUsed ctx ltn < 64))

/-- The receiving side of a bind (R239). -/
def State.bindRecv (s : State) (ctx ltn n : Nat) (src : PortRef) : State :=
  s.modPort ctx ltn n fun q => { q with send := false, bound := true, members := [src] }

/-- BIND_REQUEST (R239): the receiving side is changed first. An unbound port that still holds an operation keeps it until it is
refused (R251). -/
def execBindRequest (n : Nat) (s : State) : Host.Outcome State Fault Refusal :=
  s.chTake n fun s p => match p.body with
    | .bind id unbind =>
      let port := p.dst.port
      let ltn := p.dst.ltn
      if unbind then
        let q := s.port p.ctx ltn port
        let s := if q.bound ∧ q.members = [p.src] then
            (s.setPort p.ctx ltn port { q with bound := false }).settlePort p.ctx ltn port
          else s
        some (s.chReply p (.bound id true))
      else if s.canBind p.ctx ltn port then some ((s.bindRecv p.ctx ltn port p.src).chReply p (.bound id true))
      else some (s.chReply p (.bound id false))
    | _ => none

/-- The sending side of a bind that its receiver has accepted: whether its own rows of R239 still hold, and the port. A ready-select recorded at
a port whose group grows to two members is refused (R248, R251). -/
def State.bindSend (s : State) (ctx ltn sport : Nat) (add : Bool) (m : PortRef) : Option State :=
  let q := s.port ctx ltn sport
  if add then
    if !s.unbinding ctx ltn sport ∧ q.bound ∧ q.send ∧ q.op.isNone ∧ q.members.length < 16 ∧ !(q.members.any fun x => x.pkg = m.pkg ∧ x.ltn = m.ltn) then
      let s := s.setPort ctx ltn sport { q with members := q.members ++ [m], rsel := none }
      some (match q.rsel with
        | some (x, _, _) => s.chSend ⟨ctx, s.portRef ctx ltn sport, x, .refuse⟩
        | none => s)
    else none
  else if s.canBind ctx ltn sport then some (s.setPort ctx ltn sport { q with send := true, bound := true, members := [m] })
  else none

/-- Unbind at the sending port: what is recorded there is refused, and the port is free (R239). A send posted there meanwhile is refused,
unless its offer is out: what its member answers ends it, and the CHSEL with it there (R245, R251; notes/assumptions/73.md). -/
def State.unbindSend (s : State) (ctx ltn sport : Nat) : State :=
  let s := s.refuseRecorded ctx ltn sport
  let s := if (s.port ctx ltn sport).op.any (fun o => o.offered.isNone && o.moving.isEmpty) then s.chEnd ctx ltn sport .refused else s
  (s.modPort ctx ltn sport fun q => { q with bound := false }).settlePort ctx ltn sport

/-- BIND_REPLY (R239): the sending side changes, and CHBIND completes. Where the port was taken meanwhile the member is released again
and the CHBIND is refused. -/
def execBindReply (n : Nat) (s : State) : Host.Outcome State Fault Refusal :=
  s.chTake n fun s p => match p.body with
    | .bound id ok =>
      some (match s.req id with
        | none => s
        | some r =>
          match r.kind with
          | .chbind w left =>
            let sport := bindSport w
            if bindOp w = 2 then
              if left ≤ 1 then (s.unbindSend p.ctx p.dst.ltn sport).finish (r.answer .ok [])
              else s.setReq { r with kind := .chbind w (left - 1) }
            else if !ok then s.finish (r.answer .refused [])
            else
              (match s.bindSend p.ctx p.dst.ltn sport (decide (bindOp w = 1)) p.src with
               | some s => s.finish (r.answer .ok [])
               | none => (s.chSend ⟨p.ctx, p.dst, p.src, .bind id true⟩).finish (r.answer .refused []))
          | _ => s)
    | _ => none

end Sys2Proof.Machine
end

