-- ==== Sys2Proof/Machine/ChanInstr.lean ====
section
/-! DEFINITION. The channel instructions (R255 to R258). -/

namespace Sys2Proof.Machine

/-- Checks 1 and 2 of R256 on one port that must be bound as SEND or as RECV. -/
def State.portCheck (s : State) (v : View) (n : Nat) (send : Bool) : Option Nat :=
  let p := s.port v.t.ctx v.t.ltn n
  if 63 < n then some 0x03 else if p.bound ∧ p.send = send then none else some 0x21

/-- Those checks on the port that operand x names. -/
def State.portChecks (s : State) (v : View) (x : Operand) (send : Bool) : List (List Operand × Bool × Nat) :=
  let c := s.portCheck v (s.readOp v x).toNat send
  [([x], c.isSome, c.getD 0)]

/-- Checks 3 to 5 of R256 on a block of scratchpad, its address in operand y and its size in operand z. -/
def State.blockChecks (s : State) (v : View) (y z : Operand) : List (List Operand × Bool × Nat) :=
  let a := (s.readOp v y).toNat
  let n := (s.readOp v z).toNat
  [([z], decide (n < 64 ∨ 4096 < n ∨ n % 64 ≠ 0), 0x03), ([y], decide (a % 64 ≠ 0), 0x06),
    ([y, z], !s.rangeOk v.t.ctx v.t.ltn a n, 0x05)]

/-- Checks 3 and 5 of R256 on as many words from f(i) as operand z says, `extra` of them beyond the count. -/
def State.wordsChecks (s : State) (v : View) (i : Nat) (z : Operand) (extra : Nat) : List (List Operand × Bool × Nat) :=
  let n := (s.readOp v z).toNat
  [([z], decide (n < 1 ∨ 8 < n), 0x03), ([z], decide (frameWords ((s.frame v.t.ref).any (·.large)) < i + n + extra), 0x04)]

/-- The activation's reuse tag. -/
def State.rtagOf (s : State) (r : FrameRef) : Nat := ((s.frame r).map (·.rtag)).getD 0

/-- A channel operation of the running threadlet. -/
def State.chanOp (s : State) (v : View) (form : ChForm) (held : Bool) : ChOp :=
  ⟨.req s.nextId, v.t.ref, s.rtagOf v.t.ref, s.nextId, form, held, none, [], .ok, none⟩

/-- A request that holds no entry of the core's table (R237). -/
def State.chanReq (s : State) (v : View) (iword : Word) (dest : Dest) (port : Nat) : Req :=
  { s.newReq v iword dest (.chan port) 0 .relaxed .package false with entry := false }

/-- A send takes its port: posted at once, or held until the frame's earlier reads have performed and its writes are acknowledged (R201,
R206, R242, R246). -/
def State.issueSend (s : State) (v : View) (iword : Word) (dest : Dest) (port : Nat) (form : ChForm) (rel multi : Bool) : State :=
  let c := v.t.ctx
  let l := v.t.ltn
  let p := s.port c l port
  let pod := p.members.any fun m => m.pkg ≠ s.pkgSelf c
  let h := s.hold v.t.ref pod true (.channel port s.nextId)
  let wait := rel && !s.heldReady h
  let op := s.chanOp v form wait
  let s := s.addReq (s.chanReq v iword dest port)
  if wait && p.op.isNone && (multi || decide (p.members.length = 1)) then
    { s.modPort c l port fun q => { q with op := some op } with held := s.held ++ [h] }
  else (s.postSend c l port { op with held := false } multi).engines c l

/-- CHSEND and CHSENDM: the checks of R256, and what is sent. -/
def State.sendBody (s : State) (v : View) (iword : Word) (kind : SendKind) (rel multi : Bool) (x y z : Operand) (t : Target) : Res :=
  let port := (s.readOp v x).toNat
  let n := (s.readOp v z).toNat
  match kind with
  | .words =>
    let i := wordIndex y
    (match s.checked v (s.portChecks v x true ++ s.wordsChecks v i z 0) [x, z], (s.frame v.t.ref).map v.t.asIssued with
     | some r, _ => r
     | none, none => .wait
     | none, some f =>
       match (List.range n).find? fun k => f.poison.contains (i + k) with
       | some k => .trap 0x12 0 (addrWord (wordOffset (i + k))) 0
       | none =>
         let data := (List.range n).map fun k => f.word (i + k)
         retire (s.issueSend v iword (s.destOf v t 0xFF) port (.sendWords data) rel multi) v.t)
  | .spad =>
    let a := (s.readOp v y).toNat
    (s.checked v (s.portChecks v x true ++ s.blockChecks v y z) [x, y, z]).getD
        (retire (s.issueSend v iword (s.destOf v t 0xFF) port (.sendBlock a n) rel multi) v.t)

/-- CHSEND (R255 to R257). -/
def execChsend (g : Guard) (kind : SendKind) (rel : Bool) (x y z : Operand) (t : Target) (s : State) :
    Host.Outcome State Fault Refusal :=
  issue (.chsend g kind rel x y z t) s fun s v =>
    s.sendBody v (firstWord (.chsend g kind rel x y z t)) kind rel false x y z t

/-- CHSENDM (R248, R255). -/
def execChsendm (g : Guard) (kind : SendKind) (rel : Bool) (x y z : Operand) (t : Target) (s : State) :
    Host.Outcome State Fault Refusal :=
  issue (.chsendm g kind rel x y z t) s fun s v =>
    s.sendBody v (firstWord (.chsendm g kind rel x y z t)) kind rel true x y z t

/-- A receive takes its port (R242, R243). -/
def State.issueRecv (s : State) (v : View) (iword : Word) (dest : Dest) (port : Nat) (form : ChForm) : State :=
  let op := s.chanOp v form false
  let s := s.addReq (s.chanReq v iword dest port)
  (s.postRecv v.t.ctx v.t.ltn port op).engines v.t.ctx v.t.ltn

/-- CHRECV (R255 to R257). -/
def execChrecv (g : Guard) (kind : RecvKind) (x y z : Operand) (t : Target) (s : State) : Host.Outcome State Fault Refusal :=
  issue (.chrecv g kind x y z t) s fun s v =>
    let port := (s.readOp v x).toNat
    let iword := firstWord (.chrecv g kind x y z t)
    let n := (s.readOp v z).toNat
    let post (form : ChForm) : Res := retire (s.issueRecv v iword (s.destOf v t 0xFF) port form) v.t
    match kind with
    | .words => (s.checked v (s.portChecks v x false ++ s.wordsChecks v (wordIndex y) z 0) [x, z]).getD (post (.recvWords (wordIndex y) n))
    | .spad =>
      (s.checked v (s.portChecks v x false ++ s.blockChecks v y z) [x, y, z]).getD (post (.recvBlock (s.readOp v y).toNat n))
    | .latch => (s.checked v (s.portChecks v x false) [x]).getD (post (.recvLatch false))

/-- CHSEL (R249, R255, R256). -/
def execChsel (g : Guard) (rot : Bool) (d x y z : Operand) (t : Target) (s : State) : Host.Outcome State Fault Refusal :=
  issue (.chsel g rot d x y z t) s fun s v =>
    let set := s.readOp v x &&& s.readOp v y
    let ports := (List.range 64).filter fun n => set.getLsbD n
    let n := (s.readOp v z).toNat
    let bad := ports.findSome? fun p => s.portCheck v p false
    (s.checked v (([x, y], bad.isSome, bad.getD 0) :: s.wordsChecks v (wordIndex d) z 1) [x, y, z]).getD
      (let id := s.nextId
       let op := s.chanOp v (.select id) false
       let sel : Select := ⟨id, v.t.ref, s.rtagOf v.t.ref, wordIndex d, n, rot, ports, none, [], none⟩
       let s := s.addReq (s.chanReq v (firstWord (.chsel g rot d x y z t)) (s.destOf v t 0xFF) (ports.headD 0))
       retire ((s.postSelect v.t.ctx v.t.ltn sel op).engines v.t.ctx v.t.ltn) v.t)

/-- Members of a SEND port that are ready: a ready or ready-select is recorded (R258); one whose data are moving stays so until the acceptance
(R243). -/
def Port.nrdy (p : Port) (selects : Bool) : Nat :=
  (p.members.filter fun m => p.rdy.any (fun r => r.1 = m) || (p.op.any fun o => o.moving.contains m && (selects || o.offered.isNone))
    || (selects && (p.rsel.any (fun r => r.1 = m) || p.op.any fun o => o.offered.any fun r => r.1 = m))).length

/-- The snapshot of a SEND port (R258). -/
def sendSnapshot (p : Port) : Word :=
  BitVec.ofNat 64 (1 + (if p.nrdy false = p.members.length then 2 else 0) + (if p.op.isSome then 4 else 0)
    + p.members.length * 2 ^ 8 + p.nrdy true * 2 ^ 16)

/-- CHTEST (R258): a SEND port answers itself, a RECV port asks its sender. -/
def execChtest (g : Guard) (d x : Operand) (t : Target) (s : State) : Host.Outcome State Fault Refusal :=
  issue (.chtest g d x t) s fun s v =>
    let n := (s.readOp v x).toNat
    let p := s.port v.t.ctx v.t.ltn n
    if 63 < n then trapWith 0x03
    else if !p.bound then trapWith 0x21
    else
      let q := s.newReq v (firstWord (.chtest g d x t)) (s.destOf v t (wordIndex d)) (.chtest n) 0 .relaxed .package false
      let s := s.addReq q
      retire (if p.send then s.answer q.id .ok [some (sendSnapshot p)]
        else match p.members with
          | m :: _ => s.chSend ⟨v.t.ctx, s.portRef v.t.ctx v.t.ltn n, m, .test q.id⟩
          | [] => s) v.t

/-- A package that a context can reach over channels (R239, R397, R401). One that is mapped and to which no port is usable is none: DESIGN CHOICE
(notes/assumptions/86.md). -/
def State.chanReach (s : State) (ctx pkg ltn : Nat) : Bool := decide (pkg = s.pkgSelf ctx) || (s.egress ctx pkg ltn false).isSome

/-- Whether the sending side and the bind word allow a CHBIND (R238, R239). A send that is held for its release counts as posted: DESIGN CHOICE
(notes/assumptions/87.md); a group that is being unbound is not changed (notes/assumptions/73.md). -/
def State.bindAllowed (s : State) (v : View) (w : Word) : Bool :=
  let p := s.port v.t.ctx v.t.ltn (bindSport w)
  let c := v.t.ctx
  bindMbz w && decide (bindSltn w = 0) && decide (bindSpkg w = 0) &&
    (match bindOp w with
     | 2 => p.bound && p.send && p.op.isNone && !s.unbinding c v.t.ltn (bindSport w)
     | 3 => false
     | op =>
       decide (bindRltn w < ((s.kernel c).map (·.area)).getD 0) && s.chanReach c (bindRpkg w) (bindRltn w)
         && !(decide (bindRltn w = v.t.ltn) && decide (bindRpkg w = s.pkgSelf c))
         && (if op = 0 then s.canBind c v.t.ltn (bindSport w)
             else !s.unbinding c v.t.ltn (bindSport w) && p.bound && p.send && p.op.isNone && decide (p.members.length < 16)
               && !(p.members.any fun m => m.pkg = bindRpkg w ∧ m.ltn = bindRltn w)))

/-- CHBIND (R238, R239): the receiving side is changed first. -/
def execChbind (g : Guard) (x : Operand) (t : Target) (s : State) : Host.Outcome State Fault Refusal :=
  issue (.chbind g x t) s fun s v =>
    let w := s.readOp v x
    let c := v.t.ctx
    let l := v.t.ltn
    let p := s.port c l (bindSport w)
    let dests := if bindOp w = 2 then p.members else [⟨bindRpkg w, bindRltn w, bindRport w⟩]
    let q := s.newReq v (firstWord (.chbind g x t)) (s.destOf v t 0xFF) (.chbind w dests.length) 0 .relaxed .package false
    let good := s.bindAllowed v w
    let s := s.addReq q
    retire (if good then
        dests.foldl (fun s m => s.chSend ⟨c, s.portRef c l (bindSport w), m, .bind q.id (decide (bindOp w = 2))⟩) s
      else s.answer q.id .refused []) v.t

/-- CHCAN (R252, R256). -/
def execChcan (g : Guard) (x : Operand) (s : State) : Host.Outcome State Fault Refusal :=
  issue (.chcan g x) s fun s v =>
    let n := (s.readOp v x).toNat
    if 63 < n then trapWith 0x03
    else if !(s.port v.t.ctx v.t.ltn n).bound then trapWith 0x21
    else retire ((s.withdrawPort v.t.ctx v.t.ltn n .cancelled).engines v.t.ctx v.t.ltn) v.t

end Sys2Proof.Machine
end

