-- ==== Sys2Proof/Machine/Control.lean ====
section
/-! DEFINITION. Control instructions (R92 to R96). -/

namespace Sys2Proof.Machine

/-- A B-format target: PC + 8 x DISP (R63, R70). -/
def branchTarget (v : View) (disp : BitVec 32) : Word := v.t.pc + 8 * disp.signExtend 64

/-- A jump to a computed target: one that is not 8-byte aligned traps with cause 0x06 and writes neither the PC nor lr (R77, R93). -/
def jumpTo (s : State) (t : Threadlet) (target : Word) : Res :=
  if target.toNat % 8 = 0 then .jump s t target else trapWith 0x06

/-- NOP (R92). -/
def execNop (g : Guard) (s : State) : Host.Outcome State Fault Refusal :=
  issue (.nop g) s fun s v => retire s v.t

/-- BR (R92). -/
def execBr (g : Guard) (disp : BitVec 32) (s : State) : Host.Outcome State Fault Refusal :=
  issue (.br g disp) s fun s v => .jump s v.t (branchTarget v disp)

/-- JMP (R92, R93). -/
def execJmp (g : Guard) (x : Operand) (disp : BitVec 32) (s : State) : Host.Outcome State Fault Refusal :=
  issue (.jmp g x disp) s fun s v => jumpTo s v.t (branchTarget v disp + s.readOp v x)

/-- CALL (R92). -/
def execCall (g : Guard) (disp : BitVec 32) (s : State) : Host.Outcome State Fault Refusal :=
  issue (.call g disp) s fun s v =>
    let (s, t) := writeOp s v.t .lr (v.t.pc + 8)
    .jump s t (branchTarget v disp)

/-- CALLR (R92, R93). -/
def execCallr (g : Guard) (x : Operand) (disp : BitVec 32) (s : State) : Host.Outcome State Fault Refusal :=
  issue (.callr g x disp) s fun s v =>
    let target := branchTarget v disp + s.readOp v x
    let (s, t) := writeOp s v.t .lr (v.t.pc + 8)
    jumpTo s t target

/-- RET (R92, R93); lr is a register that it reads (R419). -/
def execRet (g : Guard) (s : State) : Host.Outcome State Fault Refusal :=
  issue (.ret g) s fun s v => if v.t.bad.contains .lr then machineCheckOf .lr else jumpTo s v.t v.t.lr

/-- LOOP (R94). -/
def execLoop (g : Guard) (d : Operand) (disp : BitVec 32) (s : State) : Host.Outcome State Fault Refusal :=
  issue (.loop g d disp) s fun s v =>
    let n := s.readOp v d - 1
    let (s, t) := writeOp s v.t d n
    .jump s t (if n ≠ 0 then branchTarget v disp else v.t.pc + 8)

/-- END (R95). -/
def execEndT (g : Guard) (s : State) : Host.Outcome State Fault Refusal :=
  issue (.endT g) s fun s v =>
    if v.t.badFlags then badFlagsTrap s else .ended ((s.endThreadlet v).finishPart v.t.ctx v.t.ltn)

/-- TRAP (R96). -/
def execTrap (g : Guard) (disp : BitVec 32) (s : State) : Host.Outcome State Fault Refusal :=
  issue (.trap g disp) s fun _ _ => .trap 0x09 disp.toNat 0 0

/-- BRK (R96). -/
def execBrk (g : Guard) (disp : BitVec 32) (s : State) : Host.Outcome State Fault Refusal :=
  issue (.brk g disp) s fun _ _ => .trap 0x0A disp.toNat 0 0

end Sys2Proof.Machine
end

