-- ==== Sys2Proof/Machine/HomeSteps.lean ====
section
/-! DEFINITION. The steps of outstanding requests outside the core: walks, the homes' steps, acknowledgements and arrivals
(R190 to R203, R210 to R218, R220 to R225, R372). -/

namespace Sys2Proof.Machine

/-! ## What a request accesses -/

/-- What an access needs of its page (R369). -/
def ReqKind.access : ReqKind → Option Access
  | .load .. | .loadv | .ild | .watch .. | .fill .. => some .read
  | .store .. | .storev _ | .atom .. | .red .. | .ist _ | .irst .. | .wback .. => some .write
  | .burst _ _ _ toGlobal => some (if toGlobal then .write else .read)
  | _ => none

/-- The address that a request accesses next: an IRST goes up word by word (R224), a burst or an element by the pieces accessed (R196). -/
def Req.curVa (r : Req) : Nat :=
  match r.kind with
  | .irst n left => (r.va + BitVec.ofNat 64 (8 * (n - left))).toNat
  | _ => (r.va + BitVec.ofNat 64 r.part).toNat

/-- Bytes of one step of a request. -/
def Req.whole (r : Req) : Nat :=
  match r.kind with
  | .load n _ | .store n _ | .atom _ n _ _ | .red _ n _ | .watch n _ => n
  | .loadv | .storev _ => 64
  | .ild | .ist _ | .irst .. => 8
  | .burst _ _ n _ | .fill _ _ _ n | .wback _ _ _ n _ => n
  | _ => 0

/-- The physical address that it accesses next. -/
def Req.curPhys (r : Req) : Option Phys := r.phys.map fun p => { p with pa := p.pa + r.part }

/-- Bytes of a request that are not yet accessed. -/
def Req.size (r : Req) : Nat := r.whole - r.part

/-- A range cut at every 64 KiB. -/
def cutPages (va n : Nat) : List (Nat × Nat) :=
  if n = 0 then []
  else (List.range ((va + n - 1) / 2 ^ 16 - va / 2 ^ 16 + 1)).map fun i =>
    let lo := Nat.max va ((va / 2 ^ 16 + i) * 2 ^ 16)
    let hi := Nat.min (va + n) ((va / 2 ^ 16 + i + 1) * 2 ^ 16)
    (lo, hi - lo)

/-- The virtual ranges that a request has yet to access, each within one page, its parts that are out excepted. -/
def State.pending (s : State) (r : Req) : List (Nat × Nat) :=
  match r.kind with
  | .dma sh row off =>
    (List.range (sh.rows - row)).flatMap fun k =>
      let o := if k = 0 then off else 0
      cutPages (sh.globalAt (row + k) o) (sh.rowb - o)
  | .advWin n _ =>
    (match s.window r.ref.ctx r.ref.ltn n with
     | some w =>
       let first := w.passed.foldl (fun a x => if x.1 < r.id then Nat.max a x.2 else a) w.issued
       let last := ((w.passed.find? fun x => x.1 = r.id).map (·.2)).getD first
       (List.range (last - first)).flatMap fun k => cutPages (w.elemVa (first + k)).toNat w.elem
     | none => [])
  | .irst _ left => cutPages r.curVa (8 * left)
  | _ => if r.kind.access.isSome then cutPages r.curVa r.size else []

/-- The home of an address as the page tables stand. -/
def State.peek (s : State) (ctx va : Nat) : Option Phys :=
  match s.walk ctx va with
  | .leaf e size => some (s.leafPhys ctx va e size)
  | .miss _ | .bad _ => none

/-- Two ranges of bytes meet. -/
def meet (a n b m : Nat) : Bool := decide (a < b + m) && decide (b < a + n)

/-- A request that accesses several pages. -/
def ReqKind.many : ReqKind → Bool
  | .irst .. | .dma .. | .advWin .. => true
  | _ => false

/-- An earlier request's bytes meet those of an access, by address or by home (R200). -/
def State.overlaps (s : State) (q : Req) (va n : Nat) (p : Phys) : Bool :=
  (s.pending q).any fun e =>
    meet e.1 e.2 va n ||
      ((if !q.kind.many && q.phys.isSome then q.curPhys else s.peek q.ref.ctx e.1).any fun x => decide (x.home = p.home) && meet x.pa e.2 p.pa n)

/-! ## Order (R199 to R201) -/

/-- Requests of the activation that are earlier in program order, without the request's own parent and without fills (R208). -/
def State.earlier (s : State) (r : Req) : List Req :=
  (s.reqs.takeWhile fun q => q.id ≠ r.id).filter fun q =>
    decide (q.ref = r.ref) && decide (q.rtag = r.rtag) && decide (some q.id ≠ r.kind.parent) && (match q.kind with
      | .fill .. => false
      | _ => true)

/-- An access that has performed; a DMA once every burst has (R229), a STRM.adv once every write-back has. -/
def State.accessDone (s : State) (q : Req) : Bool := q.performed || (s.partsOut q && (s.partsOf q.id).all (·.performed))

/-- An acquire that holds what follows it, and a release that waits for what precedes it (R201). -/
def acquires (o : MemOrder) : Bool := decide (o = .acquire ∨ o = .acqRel)
def releases (o : MemOrder) : Bool := decide (o = .release ∨ o = .acqRel)

/-- The order in which a request's access may perform: R200 and R201, a part by its parent's order and place. -/
def State.orderOk (s : State) (r : Req) (p : Phys) : Bool :=
  let o := (r.kind.parent.bind s.req).getD r
  match r.kind with
  | .fill .. => true
  | _ =>
    (s.earlier r).all fun q =>
      !(acquires q.ord && !q.kind.isPart && !s.accessDone q)
        && !(releases o.ord && !q.kind.isPart
          && ((q.kind.reads && !s.accessDone q) || (q.write && !s.acked (decide (o.scope = .pod)) q.id)))
        && (q.performed || !s.overlaps q r.curVa r.size p)

/-! ## How a request goes on -/

/-- The place where things stand after a request has moved: what it held is released, and the engines of its tile go on. -/
def State.onward (s : State) (r : Req) : State := (s.engines r.ref.ctx r.ref.ltn).releaseHeld

/-- The graver of two statuses: FAULT before POISON (R224, R230). -/
def worseStatus (a b : Status) : Status :=
  match a, b with
  | .fault, _ | _, .fault => .fault
  | .poison, _ | _, .poison => .poison
  | _, b => b

/-- The rest of the 64 KiB page of an IRST is passed over; its completion carries the graver status (R224). -/
def Req.skipPage (r : Req) (st : Status) (cause : Nat) : Req :=
  match r.kind with
  | .irst n left =>
    let k := Nat.min left ((2 ^ 16 - r.curVa % 2 ^ 16) / 8)
    { r with
      kind := .irst n (left - k)
      phys := none
      replayed := false
      performed := decide (left ≤ k)
      status := worseStatus r.status st
      cause := if worseStatus r.status st = r.status then r.cause else cause }
  | _ => r

/-- A request that is not performed: its status, and the cause of R218. -/
def Req.failed (r : Req) (st : Status) (cause : Nat) : Req :=
  match r.kind with
  | .irst .. => if st = .fault then r.skipPage st cause else { r.answer st [] with cause := cause }
  | _ => { r.answer st [] with cause := cause }
def State.failReq (s : State) (r : Req) (st : Status) (cause : Nat) : State := s.setReq (r.failed st cause)

/-! ## Translation -/

/-- A cached leaf, by its place in the cache; a context whose CTXD is not valid has none (R368, R370). -/
def State.cachedLeaf (s : State) (ctx va : Nat) (n : Option Nat) : Option TlbEntry :=
  n.bind fun i => (s.tlb[i]?).bind fun t => if t.maps ctx va ∧ (s.ctx ctx).valid then some t else none

/-- A request held for the fault service, by the record of the page and of its tile's die (R212, R372). -/
def State.holdFault (s : State) (r : Req) (va kind : Nat) : State :=
  let die := ptnDie (s.homePtn r.ref.ctx r.ref.ltn)
  (s.setReq { r with faultHeld := true, die := die }).serviceRecord r.ref.ctx va kind die []

/-- A walk or a lookup for a request (R368 to R372). -/
def State.walkReq (s : State) (r : Req) (acc : Access) (cached : Option Nat) : State :=
  let va := r.curVa
  let c := r.ref.ctx
  let (x, s) : Xlat × State :=
    if 2 ^ 52 ≤ va then (.fault, s)
    else
      match (if r.replayed then none else s.cachedLeaf c va cached) with
      | some t => (s.checkLeaf c va acc t.pte t.size, s)
      | none => s.translate c va acc
  match x with
  | .ok p => s.setReq { r with phys := some p }
  | .miss =>
    if r.replayed then s.failReq r .fault 0x10
    else s.holdFault r va (if acc = .read then 0 else 1)
  | .fault => s.failReq r .fault 0x10
  | .prot => s.failReq r .fault 0x11

/-- PAGE_WALK (R368). -/
def execPageWalk (id : Nat) (cached : Option Nat) (s : State) : Host.Outcome State Fault Refusal :=
  match s.req id with
  | none => .next s
  | some r =>
    if r.phys.isSome ∨ r.performed ∨ r.faultHeld ∨ r.sent ∨ r.parked then .next s
    else
      match r.kind.access with
      | none => .next s
      | some acc => .next ((s.walkReq r acc cached).onward r)

/-- The answer of the fault service for a page of a context and a die (R372): requests held by that record are replayed once, or fail, wherever their
tile is now (R388). Each access of the device and each fetch that waited finds the answer marked for it. -/
def State.serviceReply (s : State) (f : Service) (present : Bool) : State :=
  let s := { s with
    services := s.services.filter fun x => x ≠ f
    failedPages := s.failedPages ++ f.dev.map fun w => (⟨f.ctx, f.va, w, !present⟩ : Mark) }
  let mine (q : Req) : Bool := q.faultHeld && decide (q.ref.ctx = f.ctx) && decide (q.curVa / 2 ^ 16 * 2 ^ 16 = f.va)
    && decide (q.die = f.die)
  let s : State := { s with reqs := s.reqs.map fun q => if mine q then
      (if present then { q with faultHeld := false, replayed := true } else { q with faultHeld := false }.failed .fault 0x10)
    else q }
  (s.reqs.foldl (fun s q => if q.performed then s else s.fresStep q.id) s).releaseHeld

/-- FAULT_SERVICE_REPLY (R372): a Postmaster answers in hardware mode. -/
def execFaultServiceReply (ctx : Nat) (va : Word) (present : Bool) (s : State) : Host.Outcome State Fault Refusal :=
  match s.services.find? fun f => f.ctx = ctx ∧ f.va = va.toNat / 2 ^ 16 * 2 ^ 16 with
  | some f => .next (if s.feature 1 then s.serviceReply f present else s)
  | none => .next s

/-! ## The homes' steps -/

/-- Operations that a UALink port does not carry (R401). -/
def ReqKind.noUal : ReqKind → Bool
  | .ild | .ist _ | .irst .. | .watch .. => true
  | .atom op .. | .red op .. => decide (op = .fadd)
  | _ => false

/-- Accesses that a page's attributes forbid (R210, R225). -/
def ReqKind.forbidden (k : ReqKind) (p : Phys) : Bool :=
  match k with
  | .ild | .ist _ | .irst .. => !p.is
  | .watch .. => p.is || decide (p.home = .host)
  | .store .. | .storev _ | .atom .. | .red .. | .wback .. | .burst _ _ _ true => p.is
  | _ => false

/-- A request for another package leaves through a scale-up port, or fails (R194, R397 to R401). By UALink what is longer than a piece
goes piece by piece, a 64-byte access apart. -/
def State.sendRemote (s : State) (r : Req) (p : Phys) (pkg : Nat) : State :=
  let ual := s.byUal r.ref.ctx pkg
  match s.egress r.ref.ctx pkg (p.pa / 512) true with
  | some (port, node) =>
    if ual ∧ r.kind.noUal then s.failReq r .fault 0x10
    else
      let n := if ual ∧ r.kind.isPart then ualPiece p.pa r.size else 0
      let body : OutBody := if n = 0 then .request r.id else .piece r.id r.part n
      let s := (s.setReq { r with sent := true, piece := n }).inject port node ual (p.pa / 512) body
      -- an ILD or a watch of a tile that has finished its part is withdrawn there at once (R184)
      match r.kind with
      | .ild | .watch .. =>
        if (s.part r.ref.ctx r.ref.ltn).finished then (s.emit r.ref.ctx pkg (p.pa / 512) true (.withdraw r.id)).getD s else s
      | _ => s
  | none => s.failReq r .fault 0x10

/-! ## Local bytes that leave (R205, R229, R233) -/

/-- Where a burst to global memory or a write-back reads its local bytes. -/
def State.localSource (s : State) (r : Req) : Option Nat :=
  match r.kind with
  | .burst _ la _ true => some la
  | .wback w e off _ _ => (s.window r.ref.ctx r.ref.ltn w).map fun w => w.elemLa e + off
  | _ => none

/-- The next local word of a burst or a write-back is read (R130, R205); one that meets poison fails whole (R416). -/
def State.gatherWord (s : State) (r : Req) : Req :=
  match s.localSource r with
  | none => r
  | some la =>
    let k := r.datum.length
    if r.whole ≤ 8 * k then r
    else
      match (s.part r.ref.ctx r.ref.ltn).wordsAt (la + 8 * k) 8 with
      | some d => { r with datum := r.datum ++ d }
      | none => r.answer .poison []

/-- All that is left of its local bytes. -/
def State.gatherRest (s : State) (r : Req) : Req := (List.range (r.whole / 8)).foldl (fun q _ => if q.performed then q else s.gatherWord q) r

/-- One step of a request at its home: its place in the order, its page's attributes, its local bytes, storage, then the step (R191, R194, R205,
R210, R230). -/
def State.homeStep (s : State) (id : Nat) (mine : ReqKind → Bool) (f : State → Req → Phys → State) :
    Host.Outcome State Fault Refusal :=
  match s.req id with
  | none => .next s
  | some r =>
    match r.curPhys with
    | none => .next s
    | some p =>
      if !mine r.kind ∨ r.performed ∨ r.faultHeld ∨ r.sent ∨ r.parked ∨ (s.deferred.any fun d => d.id = id) ∨ !s.orderOk r p then .next s
      else
        let s := if r.kind.forbidden p then s.failReq r .fault 0x11
          else
            let r := s.gatherRest r
            if r.performed then s.setReq r
            else
              match p.home with
              | .remote pkg => s.sendRemote r p pkg
              | .hbm | .ld | .host =>
                if hasStorage s.carve p.home p.pa r.size then f s r p
                else (s.failReq r .fault 0x10).lostRas r.ref.ctx (0x32, p.pa)
        .next (s.onward r)

/-- Bytes read at a home: an empty word of an I-structure page reads zero (R210). -/
def State.homeBytes (s : State) (p : Phys) (n : Nat) : List Byte :=
  (List.range n).map fun i =>
    if p.is && !s.full.contains ((p.pa + i) / 8) then 0 else Memory.read (s.memOf p.home) (p.pa + i)

/-- The datum of a load (R217, R220); stepping A1 does not sign-extend from HOST pages (R440). -/
def loadDatum (k : ReqKind) (p : Phys) (l : List Byte) : Datum :=
  match k with
  | .load n sext =>
    let v := ofLeBytes l
    [some (if sext ∧ p.home ≠ .host then BitVec.ofInt 64 ((BitVec.ofNat (8 * n) v).toInt) else BitVec.ofNat 64 v)]
  | _ => datumOf l

/-- HOME_READ (R195, R214, R220). -/
def execHomeRead (id : Nat) (s : State) : Host.Outcome State Fault Refusal :=
  s.homeStep id (fun k => match k with
      | .load .. | .loadv | .burst _ _ _ false | .fill .. => true
      | _ => false)
    fun s r p =>
      if s.poisoned p.home p.pa r.size then
        let ras := r.kind.isPart || decide (p.home = .host)
        (if ras then s.poisonRas (s.badPlace p r.size false) r.ref.ctx else s).failReq r .poison 0x12
      else s.setReq { r with performed := true, datum := r.datum ++ loadDatum r.kind p (s.homeBytes p r.size) }

/-- The bytes that a write has yet to store. -/
def Req.writeBytes (r : Req) : List Byte :=
  match r.kind with
  | .store n d => leBytes n d.toNat
  | .storev d => leBytes 64 d.toNat
  | _ => (datumBytes r.datum).drop r.part

/-- A granule that a write by pieces covers whole loses its poison with the piece that completes it (R214, R230). -/
def State.coverPiece (s : State) (r : Req) (p : Phys) (n : Nat) : State :=
  match p.home with
  | .hbm | .ld =>
    let start := Nat.max ((r.phys.map (·.pa)).getD p.pa) (p.pa / 32 * 32)
    s.coverPoison start (p.pa + n - start) r.ref.ctx
  | .host | .remote _ => s

/-- HOME_WRITE (R195, R214, R221). A burst or a write-back of which pieces are written fails no more (R230). -/
def execHomeWrite (id : Nat) (s : State) : Host.Outcome State Fault Refusal :=
  s.homeStep id (fun k => match k with
      | .store .. | .storev _ | .burst _ _ _ true | .wback .. => true
      | _ => false)
    fun s r p =>
      let d := r.writeBytes
      if r.part = 0 ∧ s.writePoisoned p.home p.pa d.length then (s.poisonRas (s.badPlace p d.length true) r.ref.ctx).failReq r .poison 0x12
      else
        let u := s.perform p r.ref.ctx d
        (if r.part = 0 then u else u.coverPiece r p d.length).setReq { r with performed := true, datum := [] }

/-! ## Finer steps of the homes -/

/-- A request whose home is this package's and whose turn it is, with the place that it accesses next. -/
def State.midway (s : State) (id : Nat) (f : Req → Phys → State) : State :=
  match s.req id with
  | none => s
  | some r =>
    match r.curPhys with
    | none => s
    | some p =>
      let near : Bool := match p.home with
        | .remote _ => false
        | .hbm | .ld | .host => true
      if r.performed ∨ r.faultHeld ∨ r.sent ∨ r.parked ∨ !near ∨ !s.orderOk r p ∨ r.kind.forbidden p ∨ !hasStorage s.carve p.home p.pa r.size then s
      else f r p

/-- The next aligned 8 bytes of a burst, a fill or a write-back at its home, the lowest first (DESIGN CHOICE, notes/assumptions/66.md); the last
piece is left to HOME_READ and HOME_WRITE. A write begins so only where it meets no poison, at its home or in scratchpad, whose bytes it has all
read, and is then done whole: a burst that fails writes nothing (R196, R230, R416). -/
def State.onePiece (s : State) (id : Nat) : State :=
  s.midway id fun r p =>
    if !r.kind.isPart ∨ r.size ≤ 8 then s
    else
      match r.kind with
      | .burst _ _ _ false | .fill .. =>
        if s.poisoned p.home p.pa r.size then s
        else s.setReq { r with datum := r.datum ++ datumOf (s.homeBytes p 8), part := r.part + 8 }
      | _ =>
        let r := s.gatherRest r
        if r.performed then s.setReq r
        else if r.part = 0 ∧ s.writePoisoned p.home p.pa r.size then s
        else ((s.perform p r.ref.ctx ((datumBytes r.datum).drop r.part |>.take 8)).coverPiece r p 8).setReq { r with part := r.part + 8 }

/-- A granule that a write has begun to store to, and covers in part: no error is found there before the write is done (R230). -/
def State.midWrite (s : State) (granule : Nat) : Bool :=
  s.reqs.any fun r => r.kind.isPart && r.write && !r.performed && decide (r.part ≠ 0) && (match r.phys with
    | some ⟨.hbm, pa, _⟩ | some ⟨.ld, pa, _⟩ => (granulesOf pa r.whole).contains granule && partial? pa r.whole granule
    | _ => false)

/-- The next local word of a burst to global memory or of a write-back, the lowest first (R205; DESIGN CHOICE, notes/assumptions/66.md). Poison is left
to the home's step until the page is known to take the write, since a page with IS fails the burst first (R210, R230). -/
def State.gather (s : State) (id : Nat) : State :=
  match s.req id with
  | some r =>
    let q := s.gatherWord r
    let taken : Bool := r.phys.any fun p => !r.kind.forbidden p
    if r.performed ∨ r.sent ∨ r.parked ∨ (q.performed ∧ !taken) then s else s.setReq q
  | none => s

/-- Watches armed in a granule that becomes poisoned complete (R225), those of other packages and of the Sorting Office too (R346). -/
def State.poisonWatches (s : State) (granule : Nat) : State :=
  let hit (d : Deferred) : Bool := !d.ild && decide (d.pa / 32 = granule)
  let ids := (s.deferred.filter hit).map (·.id)
  let s := s.answerForeign (fun f => f.watch.isSome && decide (f.pa / 32 = granule)) .poison []
  let s : State := { s with
    taken := s.taken.map fun t => if t.armed.any fun e => decide (e.2 / 32 = granule) then { t with armed := [], fail := some 1 } else t
    depends := s.depends.filter fun d => decide (d.2.1 / 32 ≠ granule)
    lentTo := s.lentTo ++ (s.depends.filter fun d => decide (d.2.1 / 32 = granule)).map fun d => (d.1, ⟨.poison, [], none⟩) }
  ids.foldl (init := { s with deferred := s.deferred.filter fun d => !hit d }) fun s id => match s.req id with
    | some r => s.failReq r .poison 0x12
    | none => s

/-- A granule that a write of an image stores with its poison mark set (R225, R416): watches armed there complete before the data are there. -/
def State.markPoisoned (s : State) (granules : List Nat) (write : State → State) : State :=
  let s := write (granules.foldl (fun s g => s.poisonWatches g) s)
  granules.foldl (fun s g => s.markGranule g false) s

/-- The write of an atomic whose read gave a value (R222, R223). -/
def State.writeAtomic (s : State) (r : Req) (p : Phys) (old : Nat) : State :=
  let n := r.size
  let (new, d) : Nat × Datum := match r.kind with
    | .atom op _ v cmp => ((atomic op n old v.toNat cmp.toNat).1, [some (BitVec.ofNat 64 old)])
    | .red op _ v => ((atomic op n old v.toNat v.toNat).1, [])
    | _ => (old, [])
  (s.perform p r.ref.ctx (leBytes n new)).setReq { r with performed := true, datum := d }

/-- HOME_ATOMIC (R197, R222, R223): one step. -/
def execHomeAtomic (id : Nat) (s : State) : Host.Outcome State Fault Refusal :=
  s.homeStep id (fun k => match k with
      | .atom .. | .red .. => true
      | _ => false)
    fun s r p =>
      if s.poisoned p.home p.pa r.size then (s.poisonRas (s.badPlace p r.size false) r.ref.ctx).failReq r .poison 0x12
      else s.writeAtomic r p (ofLeBytes (s.homeBytes p r.size))

/-- The host stores to its memory. -/
def State.hostStore (s : State) (a : Nat) (d : List Byte) : State :=
  { s with
    host := Memory.writeBytes s.host a d
    hostBad := s.hostBad.filter fun w => !(decide (a ≤ w * 8) && decide (w * 8 + 8 ≤ a + d.length)) }

/-- An atomic on a HOST page between whose read and write the host stores (R194). -/
def State.race (s : State) (id a : Nat) (d : List Byte) : State :=
  s.midway id fun r p =>
    match r.kind with
    | .atom .. | .red .. =>
      if p.home ≠ .host ∨ s.poisoned p.home p.pa r.size then s
      else
        let old := ofLeBytes (s.homeBytes p r.size)
        (s.hostStore a d).writeAtomic r p old
    | _ => s

/-- A request put into the deferred-record pool, or held for the fault service while the region is full; one whose tile has finished its
part is withdrawn (R184, R212). No byte of memory changes, where R211 lets the record and its chain lie in the region and in the empty word: DESIGN
CHOICE (notes/assumptions/90.md). -/
def State.defer (s : State) (r : Req) (p : Phys) (ild : Bool) : State :=
  if (s.part r.ref.ctx r.ref.ltn).finished then s.failReq r .cancelled 0
  else if s.deferredRoom r.ref.ctx then { s with deferred := s.deferred ++ [⟨r.id, p.pa, ild⟩] }
  else s.holdFault r r.curVa 1

/-- HOME_ILD (R211, R224). -/
def execHomeIld (id : Nat) (s : State) : Host.Outcome State Fault Refusal :=
  s.homeStep id (fun k => decide (k = .ild)) fun s r p =>
    if s.poisoned p.home p.pa 8 then s.failReq r .poison 0x12
    else if s.full.contains (p.pa / 8) then
      s.setReq { r with performed := true, datum := [some (BitVec.ofNat 64 (ofLeBytes (s.homeBytes p 8)))] }
    else s.defer r p true

/-- An empty word is filled: every ILD that waits on it is answered with the datum, and its watches are judged (R211, R225). -/
def State.fillWord (s : State) (pa : Nat) (d : Word) : State :=
  let w := pa / 8
  let chain := s.deferred.filter fun x => x.ild && decide (x.pa / 8 = w)
  let s := { s with
    mem := Memory.writeBytes s.mem pa (leBytes 8 d.toNat)
    full := s.full ++ [w]
    deferred := s.deferred.filter fun x => !(x.ild && decide (x.pa / 8 = w)) }
  let s := s.answerAll (chain.map (·.id)) .ok [some d]
  (s.answerForeign (fun f => f.watch.isNone && decide (f.pa / 8 = w)) .ok (leBytes 8 d.toNat)).fireWatches pa 8

/-- A full word is emptied and reads zero; its chain stays (R211, R224). -/
def State.emptyWord (s : State) (pa : Nat) : State :=
  if s.full.contains (pa / 8) then
    ({ s with
      mem := Memory.writeBytes s.mem pa (List.replicate 8 0)
      full := s.full.filter fun x => x ≠ pa / 8 } : State).fireWatches pa 8
  else s

/-- HOME_IST (R211, R213): the word is filled and its chain answered, or DOUBLE_WRITE. -/
def execHomeIst (id : Nat) (s : State) : Host.Outcome State Fault Refusal :=
  s.homeStep id (fun k => match k with
      | .ist _ => true
      | _ => false)
    fun s r p =>
      match r.kind with
      | .ist d =>
        let w := p.pa / 8
        if s.poisoned p.home p.pa 8 then (s.poisonRas p r.ref.ctx).failReq r .poison 0x12
        else if s.full.contains w then
          (s.failReq r .doubleWrite 0x13).ras 0x31 5 r.ref.ctx (homeDie p.pa) (BitVec.ofNat 64 p.pa) 0
        else (s.fillWord p.pa d).setReq { r with performed := true }
      | _ => s

/-- One word of an IRST is done: the next one, in the same page or in the next. -/
def Req.nextWord (r : Req) (p : Phys) : Req :=
  match r.kind with
  | .irst n left =>
    let r := { r with kind := .irst n (left - 1), performed := decide (left ≤ 1) }
    if r.curVa % 2 ^ 16 = 0 then { r with phys := none, replayed := false } else { r with phys := some { p with pa := p.pa + 8 } }
  | _ => r

/-- HOME_IRST (R211, R224): a full word is emptied and reads zero; an empty one keeps its chain. -/
def execHomeIrst (id : Nat) (s : State) : Host.Outcome State Fault Refusal :=
  s.homeStep id (fun k => match k with
      | .irst .. => true
      | _ => false)
    fun s r p =>
      if s.poisoned p.home p.pa 8 then
        let st := worseStatus r.status .poison
        (s.poisonRas p r.ref.ctx).setReq { r.nextWord p with status := st, cause := if st = r.status then r.cause else 0x12 }
      else (s.emptyWord p.pa).setReq (r.nextWord p)

/-- MWATCH_ARM (R198, R225): the comparison and the arming are one step. -/
def execMwatchArm (id : Nat) (s : State) : Host.Outcome State Fault Refusal :=
  s.homeStep id (fun k => match k with
      | .watch .. => true
      | _ => false)
    fun s r p =>
      match r.kind with
      | .watch n cmp =>
        let v := ofLeBytes (s.homeBytes p n)
        if s.poisoned p.home p.pa n then s.failReq r .poison 0x12
        else if v ≠ cmp.toNat % 2 ^ (8 * n) then s.setReq { r with performed := true, datum := [some (BitVec.ofNat 64 v)] }
        else s.defer r p false
      | _ => s

/-! ## Acknowledgements and arrivals -/

/-- Words of an IRST, or bytes of a piece, that lie in the unit of 512 bytes at its place: what leaves by one port at once (R194). -/
def Req.unitWords (r : Req) : Nat := (512 - r.curVa % 512) / 8
/-- What has left is the last of the request: the words of an IRST beyond the current unit, and the pieces behind one that goes by UALink, have
yet to. -/
def Req.lastUnit (r : Req) : Bool :=
  match r.kind with
  | .irst _ left => decide (left ≤ r.unitWords)
  | _ => decide (r.piece = 0) || decide (r.whole ≤ r.part + r.piece)

/-- An egress port has accepted a request, or its latest piece: it does not wait for a drain (R194, R202, R399). -/
def State.accepted (s : State) (r : Req) : Bool :=
  r.sent && r.lastUnit && !s.outHeld.any fun l => match l.body with
    | .request id | .piece id _ _ => decide (id = r.id)
    | _ => false

/-- OWC counts a DMA or a STRM.adv no more once every part of it is acknowledged at pod scope, unless its status may yet park the frame
(R203). -/
def State.settleOwc (s : State) (part : Req) : State :=
  match part.kind.parent.bind s.req with
  | some q =>
    if q.counted ∧ q.dest.isSome ∧ s.partsOut q ∧ (s.partsOf q.id).all (·.ackPod) then
      (s.setReq { q with counted := false }).owcDown q.ref q.rtag
    else s
  | none => s

/-- WRITE_ACK (R202, R203): a write is acknowledged at its package, or at pod scope; from a HOST or PKG page the package comes first. -/
def execWriteAck (id : Nat) (pod : Bool) (s : State) : Host.Outcome State Fault Refusal :=
  match s.req id with
  | none => .next s
  | some r =>
    let far : Bool := match r.phys with
      | some ⟨.host, _, _⟩ | some ⟨.remote _, _, _⟩ => true
      | _ => false
    if !r.write ∨ r.kind.access.isNone ∨ r.parked then .next s
    else if s.keepsFor r.ref.ctx r.ref.ltn then .next (s.keepResponse r.ref.ctx r.ref.ltn (.ack id pod))
    else if !pod then
      if r.ackPkg ∨ !(r.performed ∨ s.accepted r) then .next s else .next ((s.setReq { r with ackPkg := true }).onward r)
    else if r.ackPod ∨ !r.performed ∨ (far ∧ !r.ackPkg) then .next s
    else
      let q := { r with ackPkg := true, ackPod := true }
      if r.kind.isPart then .next (((s.setReq q).settleOwc r).onward r)
      else if r.dest.isNone then .next ((s.finish q).onward r)
      else
        let s := s.setReq { q with counted := false }
        .next ((if r.counted then s.owcDown r.ref r.rtag else s).onward r)

end Sys2Proof.Machine
end

