-- ==== Sys2Proof/Machine/Kill.lean ====
section
/-! DEFINITION. Ending a kernel by force (R390, R419). -/

namespace Sys2Proof.Machine

/-- A notice record of R375 with a cause and fields from offset 4 on. -/
def noticeBytes (cause ctx : Nat) (rest : List Byte) : List Byte := leBytes 1 cause ++ leBytes 1 ctx ++ leBytes 2 0 ++ rest

/-- Seats that run threadlets of a context's part stop (R390). -/
def State.stopSeats (s : State) (ctx ltn : Nat) : State :=
  match s.ptnOf ctx ltn with
  | none => s
  | some ptn =>
    (List.range 16).foldl (init := s) fun s n =>
      let p : SeatId := ⟨ptn, n / 4, n % 4⟩
      if (s.seat p).runs ctx ltn then s.setSeat p .idle else s

/-- Whether a packet is bound for a tile of a context, as one kept for an evicted tile is (R387). -/
def Packet.boundFor (p : Packet) (ctx ltn : Nat) : Bool :=
  match p with
  | .signal c l _ _ _ => decide (c = ctx ∧ l = ltn)
  | .forward r _ _ _ | .keptSignal r _ _ _ | .imageOp r _ _ _ _ | .wake r | .keptWake r | .recall r | .image r | .recallDone r => decide (r.ctx = ctx ∧ r.ltn = ltn)
  | .stealReq c _ _ l _ | .taskReturn c l _ _ _ => decide (c = ctx ∧ l = ltn)
  | .stealReply c l _ _ _ _ _ => decide (c = ctx ∧ l = ltn)
  | .spawn c l _ _ _ _ => decide (c = ctx ∧ l = ltn)
  | .barUp .. | .barDown .. | .barAbsent .. => false
  | .chan p => decide (p.ctx = ctx ∧ p.dst.ltn = ltn)
  | .dloQuery .. | .dloReply .. => false
  | .response c l _ => decide (c = ctx ∧ l = ltn)

/-- A request that its parts perform. -/
def ReqKind.compound : ReqKind → Bool
  | .dma .. | .advWin .. => true
  | _ => false

/-- The kept packets of a context's tile come back to the network, in their order. -/
def State.unkeep (s : State) (ctx ltn : Nat) : State :=
  { s with
    net := s.net ++ s.kept.filter fun p => p.boundFor ctx ltn
    kept := s.kept.filter fun p => !p.boundFor ctx ltn }

/-- A kill discards the image of an evicted tile (R389, R390), with what waits for it: its frames are freed, its records that wait are gone,
requests that read are withdrawn, and writes that are under way are only acknowledged. Packets that reach it from now on meet an ended
tile. -/
def State.discardImage (s : State) (ctx ltn : Nat) : State :=
  let mine (q : Req) : Bool := decide (q.ref.ctx = ctx) && decide (q.ref.ltn = ltn)
  let gone (q : Req) : Bool := mine q && (!q.write || q.kind.isPart || q.ackPod || q.kind.compound)
  let s := s.withdrawFar ((s.reqs.filter gone).map (·.id))
  let ids := (s.reqs.filter gone).map (·.id)
  let s : State := { s with
    reqs := (s.reqs.filter fun q => !gone q).map fun q =>
      if mine q then { q with dest := none, counted := false, entry := false } else q
    deferred := s.deferred.filter fun d => !ids.contains d.id
    jobs := s.jobs.filter fun j => !(j.frame.any fun r => decide (r.ctx = ctx) && decide (r.ltn = ltn))
    held := s.held.filter fun h => !(decide (h.ref.ctx = ctx) && decide (h.ref.ltn = ltn)) }
  let frames := (s.part ctx ltn).cores.flatMap fun c => c.2.frames.map fun f => (⟨ctx, ltn, c.1, f.1⟩ : FrameRef)
  let s := frames.foldl (fun s r => s.freeFrame r) s
  (s.setPart ctx ltn { Part.empty with ended := true, finished := true, gone := true }).unkeep ctx ltn

/-- Seats that an eviction keeps in SAVE are IDLE: no trap record waits for them (R22). -/
def State.endSaves (s : State) (ctx ltn ptn : Nat) : State :=
  (List.range 16).foldl (init := s) fun s n =>
    let p : SeatId := ⟨ptn, n / 4, n % 4⟩
    match s.seat p with
    | .save t => if t.ctx = ctx ∧ t.ltn = ltn ∧ !(s.jobs.any fun j => decide (j.seat = some p)) then s.setSeat p .idle else s
    | .idle | .run _ => s

/-- A kill ends an eviction that is under way: the tile is RESIDENT, and its stopped threadlets are gone (notes/assumptions/64.md). -/
def State.endEviction (s : State) (ctx ltn : Nat) : State :=
  let t := s.tme ctx ltn
  if t.st = .moving then
    ((s.setTme ctx ltn ⟨.resident, t.ptn⟩).setPart ctx ltn { s.part ctx ltn with stopped := [], image := none, imageBad := [] }).endSaves ctx ltn t.ptn
  else s

/-- The end of a kernel on one tile by a kill: as KEND does from step 4 on (R390). -/
def State.killTile (s : State) (ctx ltn : Nat) : State :=
  if (s.tme ctx ltn).st = .away then s.discardImage ctx ltn
  else (((s.endEviction ctx ltn).stopSeats ctx ltn).startEnd ctx ltn).finishPart ctx ltn

/-- The reports on a spanning kernel that is decided are no more (R402). -/
def State.dropReports (s : State) (ctx n : Nat) : State :=
  { s with reports := s.reports.filter fun r => !(decide (r.1 = ctx) && decide (r.2.1 = n)) }

/-- CKILL of a context's resident kernel (R390); it completes by R355 with the notice 0x43. -/
def State.killKernel (s : State) (ctx : Nat) : State :=
  match s.kernel ctx with
  | none => s
  | some k =>
    let s := if k.npk = 0 then s else s.dropReports ctx k.span
    let s := s.setCtx ctx { s.ctx ctx with kernel := some { k with killed := true } }
    let s : State := (List.range k.area).foldl (fun s l => s.killTile ctx l) s
    s.pumpBars ctx

/-- A kernel whose control state failed its check: a RAS record and the kill (R419). -/
def State.machineCheckKernel (s : State) (ctx ptn : Nat) : State :=
  (s.rasOpen 0x08 2 ctx (ptnDie ptn) ptn).killKernel ctx

end Sys2Proof.Machine
end

