-- ==== Sys2Proof/Machine/Sched.lean ====
section
/-! DEFINITION. Picks (R152 to R154), signals accepted (R146), tasks, deques and stealing (R156 to R160, R181), and creations that
waited (R161). -/

namespace Sys2Proof.Machine

/-! ## Picks -/

/-- A seat that may take a threadlet: idle, in a package that is not halted (R22, R383). -/
def State.seatFree (s : State) (p : SeatId) : Bool :=
  !s.halted && decide (p.core < 4) && decide (p.seat < 4) && decide (s.seat p = .idle)

/-- PickClass (R153). -/
def pickClass (l : List (Nat × Nat × Ready)) (nGap bGap : Nat) : Nat :=
  let has (c : Nat) : Bool := l.any fun x => decide (x.2.2.cls = c)
  if has 0 then 0
  else if has 3 && decide (63 ≤ bGap) then 3
  else if has 1 then (if has 2 && decide (15 ≤ nGap) then 2 else 1)
  else if has 2 then 2
  else 3

/-- The gaps after a pick of a class, `n` and `b` telling whether the normal and background classes held an eligible entry (R153). -/
def gapsAfter (cls nGap bGap : Nat) (n b : Bool) : Nat × Nat :=
  match cls with
  | 1 => (if n then nGap + 1 else nGap, if b then bGap + 1 else bGap)
  | 2 => (0, if b then bGap + 1 else bGap)
  | 3 => (nGap, 0)
  | _ => (nGap, bGap)

/-- PickContext's rotation after its head gave an entry (R154): `more` tells whether the context has an entry left in the class. -/
def rotAfter (l : List Rot) (cls ctx weight : Nat) (more : Bool) : List Rot :=
  match l.find? fun x => x.cls = cls ∧ x.ctx = ctx with
  | none => l
  | some x =>
    let d := (if x.deficit < 1 then x.deficit + weight else x.deficit) - 1
    let others := l.filter fun y => !(y.cls = cls ∧ y.ctx = ctx)
    if !more then others
    else if d < 1 then others ++ [{ x with deficit := d }]
    else l.map fun y => if y.cls = cls ∧ y.ctx = ctx then { y with deficit := d } else y

/-- The threadlet of an entry (R23): the state a resume carries, or every register zero and the PC at ENTRY. -/
def State.threadOf (s : State) (r : FrameRef) (e : Ready) : Threadlet :=
  match e.resume with
  | some t => { t with ctx := r.ctx, ltn := r.ltn, core := r.core, frm := r.frm, cls := e.cls }
  | none =>
    let base := ((s.kernel r.ctx).map (·.codeBase)).getD 0
    ⟨r.ctx, r.ltn, r.core, r.frm, [], [], [], 0, 0, base + BitVec.ofNat 64 (8 * e.entry), e.sig, [], false, e.cls, none⟩

/-- The list without its first entry that equals another. -/
def dropEntry (l : List Ready) (e : Ready) : List Ready :=
  match l with
  | [] => []
  | x :: t => if x = e then t else x :: dropEntry t e

/-- An entry given to a seat: QN counts down, RUNS and ASN up (R142, R152, R259). -/
def State.startSeat (s : State) (p : SeatId) (r : FrameRef) (e : Ready) : State :=
  let t := s.threadOf r e
  let c := s.partCore r.ctx r.ltn r.core
  let s := s.setPartCore r.ctx r.ltn r.core { c with ready := dropEntry c.ready e }
  let s := s.modFrame r fun f => { f with runs := f.runs + 1 }
  let a := s.part r.ctx r.ltn
  (s.setPart r.ctx r.ltn { a with asn := a.asn + 1 }).setSeat p (.run t)

/-- PICK (R153, R154): the class by the gaps, the context by the rotation, its oldest entry; then held firings take the place (R155). -/
def execPick (ptn core seat : Nat) (s : State) : Host.Outcome State Fault Refusal :=
  let p : SeatId := ⟨ptn, core, seat⟩
  if !s.seatFree p then .next s
  else
    let s := s.settleRot ptn core
    let l := s.eligible ptn core
    let c := s.coreAt ptn core
    let cls := pickClass l c.nGap c.bGap
    match c.rot.find? fun x => x.cls = cls with
    | none => .next s
    | some h =>
      match l.find? fun x => decide (x.1 = h.ctx) && decide (x.2.2.cls = cls) with
      | none => .next s
      | some (ctx, ltn, e) =>
        let has (k : Nat) : Bool := l.any fun x => decide (x.2.2.cls = k)
        let mine := (l.filter fun x => decide (x.1 = ctx) && decide (x.2.2.cls = cls)).length
        let g := gapsAfter cls c.nGap c.bGap (has 2) (has 3)
        let s := s.setCore ptn core { c with
          nGap := g.1
          bGap := g.2
          rot := rotAfter c.rot cls ctx (s.ctx ctx).weight (decide (1 < mine)) }
        let s := s.startSeat p ⟨ctx, ltn, core, e.frm⟩ e
        .next ((s.settleRot ptn core).drainOverflow ptn core)

/-! ## Signals accepted -/

/-- A datum put into a frame (R146, R313): the new frame and status. -/
def putDatum (f : Frame) (word : Nat) (datum : Datum) (status : Nat) : Frame × Nat :=
  if word = 0xFF ∨ datum = [] then (f, status)
  else if word + datum.length ≤ frameWords f.large then
    (datum.zipIdx.foldl (fun f e => match e.1 with
      | some x => f.setWord (word + e.2) x
      | none => f) f, status)
  else (f, if status = 0 then 2 else status)

/-- The words that a signal has changed in a frame that is being written out are kept, to be rewritten (R162). -/
def Frame.changedBy (f old : Frame) : Frame :=
  match f.moving with
  | .spill o =>
    let new := (List.range (frameWords f.large)).filter fun i =>
      !o.changed.contains i && (decide (f.word i ≠ old.word i) || decide (f.poison.contains i ≠ old.poison.contains i))
    { f with moving := .spill { o with changed := o.changed ++ new } }
  | .no | .refill => f

/-- Signals go to the image: the frame is AWAY, or its refill is not done (R146, R165). -/
def Frame.gone (f : Frame) : Bool := decide (f.st = .away)

/-- The tile that counts a signal to a logical tile: the one it stands on, else the one at the home of its image (R387). -/
def State.tileFor (s : State) (ctx ltn : Nat) : Nat :=
  match s.ptnOf ctx ltn with
  | some ptn => ptn
  | none =>
    match s.devXlat ⟨ctx, 0, .look⟩ ((s.ctx ctx).evb.toNat + 2 ^ 21 * ltn) .read with
    | .ok p => s.homeTile p.pa
    | .error _ => 0

/-- Accept of R146 at the core of a resident tile. -/
def State.acceptSignal (s : State) (ptn ctx ltn : Nat) (cont : Word) (datum : Datum) (status : Nat) : State :=
  let r : FrameRef := ⟨ctx, ltn, contCore cont, contFrm cont⟩
  match s.frame r with
  | none => s.countStale ptn ctx cont
  | some f =>
    if f.rtag ≠ contRtag cont then s.countStale ptn ctx cont
    else if f.gone then s.send (.forward r cont datum status)
    else
      let x := putDatum f.touch (contWord cont) datum status
      (s.setFrame r (x.1.changedBy f)).count r (contSlot cont) x.2

/-- ACCEPT (R146): the packet's tile is here. One that comes from another package for a tile that is unmapped by then counts as Stale (R168;
notes/assumptions/81.md). -/
def execAccept (n : Nat) (s : State) : Host.Outcome State Fault Refusal :=
  match s.net[n]? with
  | some (.signal ctx ltn cont datum status) =>
    (match s.ptnOf ctx ltn with
     | some ptn => .next ((s.takePacket n).acceptSignal ptn ctx ltn cont datum status)
     | none =>
       .next (if (s.part ctx ltn).gone ∨ (s.tme ctx ltn).st = .unmapped then (s.takePacket n).countStale (s.tileFor ctx ltn) ctx cont else s))
  | _ => .next s

/-! ## Tasks -/

/-- Fields of a task record (R156). -/
def taskEntry (t : Task) : Nat := (t.getD 0 0).toNat % 2 ^ 32
def taskNarg (t : Task) : Nat := (t.getD 0 0).toNat / 2 ^ 32 % 256
def taskLarge (t : Task) : Bool := (t.getD 0 0).getLsbD 40
def taskUrg (t : Task) : Bool := (t.getD 0 0).getLsbD 41
def taskCont (t : Task) : Word := t.getD 7 0

/-- The frame of a task (R157): its arguments, its continuation, and its threadlet's entry, with sig zero, in the place kept for it; one of a
resumed part may have to wait for a place (notes/assumptions/52.md). -/
def State.startTask (s : State) (r : FrameRef) (t : Task) : State :=
  let s := s.modFrame r fun f =>
    ((List.range (Nat.min (taskNarg t) 6)).foldl (fun f i => f.setWord i (t.getD (i + 1) 0)) f).setWord 6 (taskCont t)
  s.pushLate r ⟨r.frm, 0, taskEntry t, 0, readyClass (s.ctx r.ctx).cls (taskUrg t), none, false⟩

/-- A task taken up (R157): its frame is made, or it is held until it can be. -/
def State.takeUp (s : State) (ctx ltn core : Nat) (t : Task) : State :=
  match s.createFrame ctx ltn core (taskLarge t) with
  | some (r, s) => s.startTask r t
  | none =>
    let c := s.partCore ctx ltn core
    s.setPartCore ctx ltn core { c with tasks := c.tasks ++ [⟨t⟩] }

/-- An idle seat finds no eligible entry, and the ready queue has a free place (R157). -/
def State.mayPickup (s : State) (ptn core : Nat) : Bool :=
  (List.range 4).any (fun k => s.seatFree ⟨ptn, core, k⟩) && (s.eligible ptn core).isEmpty
    && decide (s.readyTaken ptn core < Config.readyPlaces)

/-- A context's resident part on a physical tile. -/
def State.ltnOn (s : State) (ptn ctx : Nat) : Option Nat :=
  ((s.ctxsOn ptn).find? fun e => decide (e.1 = ctx) && decide ((s.tme e.1 e.2).st = .resident)).map (·.2)

/-! ## Deques and their spill areas (R160) -/

/-- The address of place i of a deque spill area (R342). -/
def State.areaAt (s : State) (ctx ltn core i : Nat) : Nat :=
  match s.kernel ctx with
  | some k => k.dqb.toNat + (4 * ltn + core) * 64 * k.dqn + 64 * (i % Nat.max k.dqn 1)
  | none => 0

/-- A record written at the newest end of its kernel's area: none for a full area, else the write. -/
def State.areaPush (s : State) (d : Dev) (ltn core : Nat) (t : Task) : Option (Except DevErr State) :=
  let ctx := d.ctx
  let c := s.partCore ctx ltn core
  let n := ((s.kernel ctx).map (·.dqn)).getD 0
  if n ≤ c.dqCount + c.dqKept then none
  else some (match s.devWrite d (s.areaAt ctx ltn core (c.dqHead + c.dqCount)) (t.flatMap fun w => leBytes 8 w.toNat) with
    | .ok s => .ok (s.setPartCore ctx ltn core { s.partCore ctx ltn core with dqCount := c.dqCount + 1 })
    | .error e => .error e)

/-- Words of a record. -/
def taskOfBytes (l : List Byte) : Task := (List.range 8).map fun i => BitVec.ofNat 64 (ofLeBytes ((l.drop (8 * i)).take 8))

/-- The status of a SPAWN that finds no place (R160). -/
def spawnFailure (l : List DevErr) : Status :=
  if l.any (·.isFault) then .fault else if l.any (·.isPoison) then .poison else .overflow

/-- What the 16 oldest records of a full deque come to for a SPAWN's request: those written go, the others stay in their places; the failures met.
`ltnOf` gives the logical tile whose area takes a context's records. -/
def State.spillDeque (s : State) (ltnOf : Nat → Option Nat) (die core id : Nat) : List (Nat × Task) → Nat → State × List (Nat × Task) × List DevErr
  | [], _ => (s, [], [])
  | l, 0 => (s, l, [])
  | (ctx, t) :: l, n + 1 =>
    let d : Dev := ⟨ctx, die, .req id⟩
    match (ltnOf ctx).bind fun ltn => s.areaPush d ltn core t with
    | some (.ok s) => s.spillDeque ltnOf die core id l n
    | some (.error e) =>
      let s := match e with
        | .wait _ => s
        | .fault _ | .poison _ => s.devFail d e
      let x := s.spillDeque ltnOf die core id l n
      (x.1, (ctx, t) :: x.2.1, e :: x.2.2)
    | none =>
      let x := s.spillDeque ltnOf die core id l n
      (x.1, (ctx, t) :: x.2.1, x.2.2)

/-- A record pushed at the newest end of a full deque, whose 16 oldest records are spilled (R160, R181): the status, with the deque as it is then,
or the page that the fault service must bring. `places` is how many records the deque may hold. -/
def State.pushFull (s : State) (ltnOf : Nat → Option Nat) (die core id places : Nat) (l : List (Nat × Task)) (new : Nat × Task) :
    Except Miss (Status × List (Nat × Task) × State) :=
  let x := s.spillDeque ltnOf die core id l 16
  match x.2.2.findSome? fun e => match e with
      | .wait m => some m
      | .fault _ | .poison _ => none with
  | some m => .error m
  | none => .ok (if x.2.1.length < places then (.ok, x.2.1 ++ [new], x.1) else (spawnFailure x.2.2, x.2.1, x.1))

/-- A record pushed at the newest end of a core's deque, which spills when it is full (R160, R181): the status, or the page that the
fault service must bring. -/
def State.pushDeque (s : State) (ptn core ctx id : Nat) (t : Task) : Except Miss (Status × State) :=
  let c := s.coreAt ptn core
  if c.deque.length + c.reserved.length < Config.dequePlaces then
    .ok (.ok, s.setCore ptn core { c with deque := c.deque ++ [(ctx, t)] })
  else
    (s.pushFull (s.ltnOn ptn) (ptnDie ptn) core id (Config.dequePlaces - c.reserved.length) c.deque (ctx, t)).map fun x =>
      (x.1, x.2.2.setCore ptn core { x.2.2.coreAt ptn core with deque := x.2.1 })

/-- Deque records on a core, for the choice of ANY (R181). -/
def State.dequeLen (s : State) (ctx ltn core : Nat) : Nat :=
  match s.ptnOf ctx ltn with
  | some ptn => (s.coreAt ptn core).deque.length
  | none => (s.partCore ctx ltn core).deque.length

/-- The core that a SPAWN's target names as the record arrives (R181). -/
def State.spawnCore (s : State) (ctx ltn core : Nat) (any : Bool) : Nat :=
  if any then
    (List.range 4).foldl (init := 0) fun b k => if s.dequeLen ctx ltn k < s.dequeLen ctx ltn b then k else b
  else core

/-- A record pushed into an evicted tile's image (R181): its deque keeps at most as many records as a core's, and spills as one (R160). -/
def State.pushImage (s : State) (ctx ltn core id : Nat) (t : Task) : Except Miss (Status × State) :=
  let c := s.partCore ctx ltn core
  if c.deque.length + c.kept < Config.dequePlaces then .ok (.ok, s.setPartCore ctx ltn core { c with deque := c.deque ++ [t] })
  else
    (s.pushFull (fun _ => some ltn) (ptnDie (s.tileFor ctx ltn)) core id (Config.dequePlaces - c.kept) (c.deque.map fun t => (ctx, t))
      (ctx, t)).map fun x => (x.1, x.2.2.setPartCore ctx ltn core { x.2.2.partCore ctx ltn core with deque := x.2.1.map (·.2) })

/-- SPAWN_PUSH (R181). -/
def execSpawnPush (n : Nat) (s : State) : Host.Outcome State Fault Refusal :=
  match s.net[n]? with
  | some (.spawn ctx ltn core any t id) =>
    if (s.part ctx ltn).ended then .next ((s.takePacket n).answer id .refused [])
    else
      let k := s.spawnCore ctx ltn core any
      let r := match s.ptnOf ctx ltn with
        | some ptn => s.pushDeque ptn k ctx id t
        | none => s.pushImage ctx ltn k id t
      (match r with
       | .ok (st, s) => .next ((s.takePacket n).answer id st [])
       | .error m => .next (s.service m 1))
  | _ => .next s

/-- A spill area that cannot be read kills its kernel (R160, R419); a recoverable miss waits for the fault service. -/
def State.areaFailed (s : State) (d : Dev) (ptn : Nat) (e : DevErr) : State :=
  match e with
  | .wait m => s.service m 0
  | .fault _ | .poison _ => (s.devFail d e).machineCheckKernel d.ctx ptn

/-- The newest record of a context on a core, with the deque without it. -/
def popNewest (l : List (Nat × Task)) (ctx : Nat) : Option (Task × List (Nat × Task)) :=
  match (l.zipIdx.filter fun e => decide (e.1.1 = ctx)).getLast? with
  | some ((_, t), i) => some (t, dropNth l i)
  | none => none

/-- DEQUE_REFILL (R160): up to 16 of the newest records of the kernel's area come to the core, as far as it has room, one at least. A record that
R156 does not allow is rejected whole: it leaves the area, and no task comes of it (R6; notes/assumptions/82.md). -/
def State.refillDeque (s : State) (d : Dev) (ptn ltn core : Nat) : Except DevErr State :=
  let ctx := d.ctx
  let p := s.partCore ctx ltn core
  let c := s.coreAt ptn core
  let room := Nat.max 1 (Config.dequePlaces - c.deque.length - c.reserved.length)
  let n := Nat.min p.dqCount (Nat.min 16 room)
  let first := p.dqHead + (p.dqCount - n)
  let got : Except DevErr (List Task) := (List.range n).foldl (init := .ok []) fun acc i =>
    match acc with
    | .error e => .error e
    | .ok l =>
      match s.devRead d (s.areaAt ctx ltn core (first + i)) 64 with
      | .ok bs => .ok (if taskOk (taskOfBytes bs) then l ++ [taskOfBytes bs] else l)
      | .error e => .error e
  match got with
  | .error e => .error e
  | .ok l =>
    let s := (List.range n).foldl (fun s i => s.devDone d (s.areaAt ctx ltn core (first + i)) 64) s
    let s := s.setPartCore ctx ltn core { p with dqCount := p.dqCount - n }
    .ok (s.setCore ptn core { s.coreAt ptn core with deque := l.map (fun t => (ctx, t)) ++ c.deque })

/-- TASK_PICKUP (R157, R158): the newest record of the context, from the core or after a refill. -/
def execTaskPickup (ptn core ctx : Nat) (s : State) : Host.Outcome State Fault Refusal :=
  match s.ltnOn ptn ctx with
  | none => .next s
  | some ltn =>
    if !s.mayPickup ptn core ∨ (s.part ctx ltn).ended then .next s
    else
      let pop (s : State) : State :=
        match popNewest (s.coreAt ptn core).deque ctx with
        | some (t, l) => (s.setCore ptn core { s.coreAt ptn core with deque := l }).takeUp ctx ltn core t
        | none =>
          -- records of a resumed part that wait for room in the deque
          let c := s.partCore ctx ltn core
          match c.deque.getLast? with
          | some t => (s.setPartCore ctx ltn core { c with deque := c.deque.dropLast }).takeUp ctx ltn core t
          | none => s
      if (s.coreAt ptn core).deque.any (fun e => e.1 = ctx) || !(s.partCore ctx ltn core).deque.isEmpty then .next (pop s)
      else if (s.partCore ctx ltn core).dqCount = 0 then .next s
      else
        let d : Dev := ⟨ctx, ptnDie ptn, .deque ltn core⟩
        match s.refillDeque d ptn ltn core with
        | .ok s => .next (pop s)
        | .error e => .next (s.areaFailed d ptn e)

/-! ## Stealing (R158, R159) -/

/-- The member cores of a thief's steal domain, in ascending (ltn, core) (R158, R159). -/
def State.stealDomain (s : State) (ctx ltn : Nat) : List (Nat × Nat) :=
  match s.kernel ctx, s.ptnOf ctx ltn with
  | some k, some ptn =>
    let quad (q : Nat) : Option (Nat × Nat × Nat) := (s.torusOf q).map fun x => (ptnDie q, x.1 % 32 / 16, x.2 % 16 / 8)
    let tiles := (List.range k.area).filter fun l =>
      match k.steal, s.ptnOf ctx l with
      | 1, _ => decide (l = ltn)
      | 2, some q => decide (quad q = quad ptn)
      | 3, some q => decide (ptnDie q = ptnDie ptn)
      | 4, _ => true
      | _, _ => false
    tiles.flatMap fun l => (List.range 4).map fun c => (l, c)
  | _, _ => []

/-- One step of the LFSR (R159). -/
def lfsrNext (x : BitVec 16) : BitVec 16 := if x.getLsbD 0 then (x >>> 1) ^^^ 0xB400 else x >>> 1

/-- NextVictim (R159): the victim's index among n, and the register. -/
def nextVictim (n self : Nat) : Nat → BitVec 16 → Option (Nat × BitVec 16)
  | 0, _ => none
  | fuel + 1, x =>
    let y := lfsrNext x
    if y.toNat % n ≠ self then some (y.toNat % n, y) else nextVictim n self fuel y

/-- A steal request of a core is out (R158). -/
def State.stealOut (s : State) (ptn core : Nat) : Bool :=
  (s.net ++ s.kept).any fun p => match p with
    | .stealReq c l k _ _ | .stealReply c l k _ _ _ _ => decide (k = core) && decide (s.ptnOf c l = some ptn)
    | _ => false

/-- STEAL_REQUEST (R158): a core with nothing to run and no records of the kernel asks a victim. -/
def execStealRequest (ptn core ctx : Nat) (s : State) : Host.Outcome State Fault Refusal :=
  match s.ltnOn ptn ctx with
  | none => .next s
  | some ltn =>
    let c := s.coreAt ptn core
    let l := s.stealDomain ctx ltn
    if !s.mayPickup ptn core ∨ (s.part ctx ltn).ended ∨ s.stealOut ptn core ∨ (c.deque.any fun e => e.1 = ctx)
        ∨ (s.partCore ctx ltn core).dqCount ≠ 0 ∨ (s.partCore ctx ltn core).deque ≠ [] ∨ l.length < 2 then .next s
    else
      match l.findIdx? fun e => e = (ltn, core) with
      | none => .next s
      | some self =>
        match nextVictim l.length self 65536 c.lfsr with
        | none => .next s
        | some (v, x) =>
          let victim := l.getD v (0, 0)
          .next ((s.setCore ptn core { c with lfsr := x }).send (.stealReq ctx ltn core victim.1 victim.2))

/-- The oldest record of a context on a core, with the deque without it. -/
def popOldest (l : List (Nat × Task)) (ctx : Nat) : Option (Task × List (Nat × Task)) :=
  match l with
  | [] => none
  | e :: t => if e.1 = ctx then some (e.2, t) else (popOldest t ctx).map fun x => (x.1, e :: x.2)

/-- STEAL_SERVE (R158, R160): the oldest record, from the area when it is not empty; its place stays reserved. A record of the area that R156 does
not allow is rejected whole (R6; notes/assumptions/82.md). -/
def execStealServe (n : Nat) (s : State) : Host.Outcome State Fault Refusal :=
  match s.net[n]? with
  | some (.stealReq ctx tl tc vl vc) =>
    (match s.ptnOf ctx vl with
     | none => .next s
     | some ptn =>
       let p := s.partCore ctx vl vc
       let reply (s : State) (t : Option Task) (area : Bool) : State := (s.takePacket n).send (.stealReply ctx tl tc vl vc t area)
       if (s.part ctx vl).ended then .next (reply s none false)
       else if p.dqCount ≠ 0 then
         let d : Dev := ⟨ctx, ptnDie ptn, .steal tl tc⟩
         match s.devTake d (s.areaAt ctx vl vc p.dqHead) 64 with
         | .ok (bs, s) =>
           if !taskOk (taskOfBytes bs) then
             .next (reply (s.setPartCore ctx vl vc { p with dqHead := p.dqHead + 1, dqCount := p.dqCount - 1 }) none false)
           else
           .next (reply (s.setPartCore ctx vl vc { p with dqHead := p.dqHead + 1, dqCount := p.dqCount - 1, dqKept := p.dqKept + 1 })
             (some (taskOfBytes bs)) true)
         | .error (.wait m) => .next (s.service m 0)
         | .error e => .next ((reply s none false).areaFailed d ptn e)
       else
         let c := s.coreAt ptn vc
         match p.deque, popOldest c.deque ctx with
         | t :: l, _ => .next (reply (s.setPartCore ctx vl vc { p with deque := l, kept := p.kept + 1 }) (some t) false)
         | [], some (t, l) => .next (reply (s.setCore ptn vc { c with deque := l, reserved := c.reserved ++ [ctx] }) (some t) false)
         | [], none => .next (reply s none false))
  | _ => .next s

/-- The first occurrence of a number taken out of a list. -/
def dropFirst (l : List Nat) (n : Nat) : List Nat :=
  match l with
  | [] => []
  | x :: t => if x = n then t else x :: dropFirst t n

/-- A victim's reserved place is given up (R158). -/
def State.unreserve (s : State) (ctx vl vc : Nat) (area : Bool) : State :=
  let p := s.partCore ctx vl vc
  if area then s.setPartCore ctx vl vc { p with dqKept := p.dqKept - 1 }
  else if p.kept ≠ 0 then s.setPartCore ctx vl vc { p with kept := p.kept - 1 }
  else
    match s.ptnOf ctx vl with
    | some ptn =>
      let c := s.coreAt ptn vc
      s.setCore ptn vc { c with reserved := dropFirst c.reserved ctx }
    | none => s

/-- STEAL_REPLY (R158): the task is taken up once the ready queue has a place, or goes back when the thief's tile has executed KEND. -/
def execStealReply (n : Nat) (s : State) : Host.Outcome State Fault Refusal :=
  match s.net[n]? with
  | some (.stealReply ctx tl tc vl vc task area) =>
    (match s.ptnOf ctx tl with
     | none => .next s
     | some ptn =>
       let done (s : State) : State := s.takePacket n
       match task with
       | none => .next ((done s).dloAgain ctx tl)
       | some t =>
         if (s.part ctx tl).ended then .next ((done s).send (.taskReturn ctx vl vc t area))
         else if Config.readyPlaces ≤ s.readyTaken ptn tc then .next s
         else .next (((done s).unreserve ctx vl vc area).takeUp ctx tl tc t))
  | _ => .next s

/-- TASK_RETURNED (R158): the task takes its reserved place at the oldest end, or is discarded on a tile that has executed KEND. One whose place the
core has yet to have room for waits with the part's records, and one whose area cannot be written kills the kernel as one that cannot be read does
(DESIGN CHOICE, notes/assumptions/71.md). -/
def execTaskReturned (n : Nat) (s : State) : Host.Outcome State Fault Refusal :=
  match s.net[n]? with
  | some (.taskReturn ctx vl vc t area) =>
    (match s.ptnOf ctx vl with
     | none => .next s
     | some ptn =>
       let p := s.partCore ctx vl vc
       let gone := (s.takePacket n).unreserve ctx vl vc area
       if (s.part ctx vl).ended then .next gone
       else if area then
         let d := Nat.max 1 (((s.kernel ctx).map (·.dqn)).getD 1)
         let head := (p.dqHead % d + d - 1) % d
         let w : Dev := ⟨ctx, ptnDie ptn, .taskBack vl vc⟩
         match s.devWrite w (s.areaAt ctx vl vc head) (t.flatMap fun w => leBytes 8 w.toNat) with
         | .error (.wait m) => .next (s.service m 1)
         | .error e => .next (gone.areaFailed w ptn e)
         | .ok s =>
           let s := (s.takePacket n).unreserve ctx vl vc true
           let p := s.partCore ctx vl vc
           .next (s.setPartCore ctx vl vc { p with dqHead := head, dqCount := p.dqCount + 1 })
       else if p.kept ≠ 0 then
         let p := gone.partCore ctx vl vc
         .next (gone.setPartCore ctx vl vc { p with deque := t :: p.deque })
       else
         let c := gone.coreAt ptn vc
         .next (gone.setCore ptn vc { c with deque := (ctx, t) :: c.deque }))
  | _ => .next s

/-! ## Creations that waited (R161) -/

/-- The first waiting FNEW of a core whose frame can be made. -/
def State.readyWait (s : State) (ctx ltn core : Nat) : List Nat → Option (Nat × FrameRef × State)
  | [] => none
  | id :: l =>
    let large : Bool := (s.req id).any fun q => match q.kind with
      | .fnew b => b
      | _ => false
    match s.createFrame ctx ltn core large with
    | some (r, s) => some (id, r, s)
    | none => s.readyWait ctx ltn core l

/-- The first held task of a core whose frame can be made. -/
def State.readyTask (s : State) (ctx ltn core : Nat) : List HeldTask → Option (HeldTask × FrameRef × State)
  | [] => none
  | t :: l =>
    match s.createFrame ctx ltn core (taskLarge t.task) with
    | some (r, s) => some (t, r, s)
    | none => s.readyTask ctx ltn core l

/-- The list without the first held task that equals another. -/
def dropTask (l : List HeldTask) (t : HeldTask) : List HeldTask :=
  match l with
  | [] => []
  | x :: m => if x = t then m else x :: dropTask m t

end Sys2Proof.Machine
end

