-- ==== Sys2Proof/Machine/Spill.lean ====
section
/-! DEFINITION. Frame spill and refill (R161 to R165, R444), and the signals and operations applied to an image (R164, R174). -/

namespace Sys2Proof.Machine

/-! ## The image (R163) -/

/-- IMG (R163). -/
def State.imageVa (s : State) (r : FrameRef) : Nat :=
  ((s.kernel r.ctx).map (·.spb.toNat)).getD 0 + ((r.ltn * 4 + r.core) * 256 + r.frm) * 2048

/-- The frame-map entry of R142. -/
def mapEntry (ctx : Nat) (f : Frame) (qn : Nat) : Word :=
  let st := match f.st with
    | .live => 1
    | .away => 2
    | .parked => 3
  let moving := if f.moving = .no then 0 else 1
  BitVec.ofNat 64 (st * 2 ^ 62 + (if f.large then 2 ^ 61 else 0) + moving * 2 ^ 60 + ctx % 64 * 2 ^ 54 + f.rtag % 2 ^ 15 * 2 ^ 39
    + f.owc % 128 * 2 ^ 32 + qn % 256 * 2 ^ 24 + f.runs % 8 * 2 ^ 21 + (if f.tch then 2 ^ 20 else 0) + f.pgr % 256)

/-- Bytes 0 to 95 of an image: the header and the status cells. -/
def imageSlots (f : Frame) : List Byte :=
  ((List.range 8).flatMap fun n => leBytes 8 (f.slot n).toWord.toNat) ++ ((List.range 8).flatMap fun n => leBytes 4 (f.slot n).toCell)
/-- `n` of the frame's words from one on, as they lie from byte 128 on. -/
def imageWords (f : Frame) (first n : Nat) : List Byte := (List.range n).flatMap fun i => leBytes 8 (f.word (first + i)).toNat

/-- Where an image lies: HBM4 or LLC-direct storage of this package, without IS (R444). -/
def State.imagePhys (s : State) (d : Dev) (r : FrameRef) (acc : Access) : Except DevErr Phys :=
  match s.devXlat d (s.imageVa r) acc with
  | .error e => .error e
  | .ok p =>
    match p.home with
    | .hbm | .ld =>
      if p.is then .error (.fault none)
      else if !hasStorage s.carve p.home p.pa 2048 then .error (.fault (some (0x32, p.pa)))
      else .ok p
    | .host | .remote _ => .error (.fault none)

/-- Where a word of a frame lies in its image. -/
def Phys.imageWord (p : Phys) (i : Nat) : Phys := { p with pa := p.pa + 128 + 8 * i }

/-- The frame's header, status cells and words from four times a group on written to its image, the granules that hold its poisoned words with
their marks set (R163, R416). -/
def State.putImage (s : State) (r : FrameRef) (f : Frame) (p : Phys) (groups : List Nat) : State :=
  let bad := (f.badSlots.map fun n => (p.pa + 8 * n) / 32)
    ++ (f.poison.filter fun i => groups.contains (i / 4)).map fun i => (p.imageWord i).pa / 32
  s.markPoisoned bad fun s => groups.foldl (init := s.perform p r.ctx (imageSlots f)) fun s g =>
    s.perform (p.imageWord (4 * g)) r.ctx (imageWords f (4 * g) 4)

/-- The accesses of a frame's core to the frame's image. -/
def State.spillDev (s : State) (r : FrameRef) : Dev := ⟨r.ctx, ptnDie (s.homePtn r.ctx r.ltn), .frame r⟩

/-- The image written: the frame as it stands, or why it cannot be, with the failing address (R162, R416, R444). -/
def State.writeImage (s : State) (r : FrameRef) (f : Frame) : Except (DevErr × Word) State :=
  let va := s.imageVa r
  match s.imagePhys (s.spillDev r) r .write with
  | .error e => .error (e, BitVec.ofNat 64 va)
  | .ok p =>
    if s.writePoisoned p.home p.pa 104 then .error (.poison (some { p with pa := p.pa + 96 }), BitVec.ofNat 64 (va + 96))
    else
      let qn := (s.partCore r.ctx r.ltn r.core).qn r.frm
      let s := s.putImage r f p (List.range (frameWords f.large / 4))
      let s := s.perform { p with pa := p.pa + 96 } r.ctx (leBytes 8 (mapEntry r.ctx f qn).toNat)
      .ok (s.devDone (s.spillDev r) va 2048)

/-- The header, the status cells and the words that signals have changed written again (R162): a changed word alone, and with the others of its
granule where the write-out itself has marked that (R416). -/
def State.rewriteImage (s : State) (r : FrameRef) (f : Frame) (o : WriteOut) : Except (DevErr × Word) State :=
  let va := s.imageVa r
  match s.imagePhys (s.spillDev r) r .write with
  | .error e => .error (e, BitVec.ofNat 64 va)
  | .ok p =>
    let alone := o.changed.filter fun i => !o.marked.contains (i / 4)
    match alone.find? fun i => s.writePoisoned p.home (p.imageWord i).pa 8 with
    | some i => .error (.poison (some (p.imageWord i)), BitVec.ofNat 64 (va + 128 + 8 * i))
    | none =>
      let s := alone.foldl (init := s) fun s i => s.perform (p.imageWord i) r.ctx (imageWords f i 1)
      let s := s.putImage r f p ((o.changed.map (· / 4)).filter fun g => o.marked.contains g).eraseDups
      .ok (s.devDone (s.spillDev r) va 2048)

/-! ## Spilling -/

/-- Size classes that wait for storage on a core: FNEWs, held tasks, and refills (R161). -/
def State.waitingClasses (s : State) (ctx ltn core : Nat) : List (Bool × Bool) :=
  let c := s.partCore ctx ltn core
  (c.waits.map fun id => (false, (s.req id).any fun q => match q.kind with
      | .fnew b => b
      | _ => false))
    ++ (c.tasks.map fun t => (false, taskLarge t.task))
    ++ (s.net.filterMap fun p => match p with
      | .image r => if r.ctx = ctx ∧ r.ltn = ltn ∧ r.core = core then (s.frame r).map fun f => (true, f.large) else none
      | _ => none)

/-- Dormant frames of a context on a core, by rising number. -/
def State.dormantOn (s : State) (ctx ltn core : Nat) : List (Nat × Frame) :=
  (s.partCore ctx ltn core).frames.filter fun e => s.dormant ⟨ctx, ltn, core, e.1⟩ e.2

/-- The frame that R161 spills for a creation: the lowest dormant one while the quota has no room; for a large frame without a free group,
the lowest dormant frame of the lowest group that such frames and free granules make up. -/
def State.victimFor (s : State) (ctx ltn core ptn : Nat) (refill large : Bool) : Option Nat :=
  let d := s.dormantOn ctx ltn core
  if !s.quotaRoom ctx ltn core large then (d.head?).map (·.1)
  else if (!refill ∧ (s.freeNumber ptn core).isNone) ∨ !large ∨ (s.freeGranule ptn core true).isSome then none
  else
    let other := (s.framesOn ptn core).flatMap fun e =>
      if d.any fun x => decide (e.1 = ⟨ctx, ltn, core, x.1⟩) then [] else e.2.storage
    match ((List.range 64).map (· * 4)).find? fun g => (List.range 4).all fun k => !other.contains (g + k) with
    | none => none
    | some g => (d.find? fun x => x.2.storage.any fun y => decide (g ≤ y ∧ y < g + 4)).map (·.1)

/-- A write-out of a frame as it begins. -/
def Frame.writeOut (f : Frame) (failed : Option (Word × Nat)) : Moving := .spill ⟨failed, false, [], (f.poison.map (· / 4)).eraseDups⟩

/-- SPILL_START (R161, R162): the write-out of a dormant frame that a waiting creation needs. The frame's OWC counts the writes of a write-out as
one: DESIGN CHOICE (notes/assumptions/71.md). -/
def execSpillStart (ctx ltn core : Nat) (s : State) : Host.Outcome State Fault Refusal :=
  match s.ptnOf ctx ltn with
  | none => .next s
  | some ptn =>
    let c := s.partCore ctx ltn core
    let busy := c.frames.any fun e => match e.2.moving with
      | .spill .. => true
      | .no | .refill => false
    let victim := (s.waitingClasses ctx ltn core).findSome? fun w => s.victimFor ctx ltn core ptn w.1 w.2
    match victim.map (fun n => (⟨ctx, ltn, core, n⟩ : FrameRef)) with
    | none => .next s
    | some r =>
      match s.frame r with
      | none => .next s
      | some f =>
        if c.noSpill ∨ busy ∨ (s.tme ctx ltn).st ≠ .resident then .next s
        else
          let g := { f with moving := f.writeOut none, tch := false, owc := f.owc + 1 }
          match s.writeImage r { f with moving := f.writeOut none, tch := false } with
          | .ok s => .next (s.setFrame r g)
          | .error (.wait m, _) => .next (s.service m 1)
          | .error (e, a) => .next ((s.setFrame r { g with moving := f.writeOut (some (a, e.status)) }).devFail (s.spillDev r) e)

/-- SPILL_FAILED (R444): the frame stays LIVE, the core spills no more of the context, and posts the notice. -/
def State.spillFailed (s : State) (r : FrameRef) (f : Frame) (addr : Word) (status : Nat) : State :=
  let fp := s.fpOf r
  let s := (s.setFrame r { f with moving := .no, tch := false, owc := f.owc - 1 }).settleFree r
  let c := s.partCore r.ctx r.ltn r.core
  let s := s.setPartCore r.ctx r.ltn r.core { c with noSpill := true }
  s.coreNotice (s.homePtn r.ctx r.ltn) r.ctx
    (noticeBytes 0x44 r.ctx (leBytes 4 0 ++ leBytes 8 fp.toNat ++ leBytes 8 addr.toNat ++ leBytes 8 status))

/-- SPILL_CHECK (R162): one step once the image writes have performed. -/
def execSpillCheck (ctx ltn core frm : Nat) (s : State) : Host.Outcome State Fault Refusal :=
  let r : FrameRef := ⟨ctx, ltn, core, frm⟩
  match s.frame r with
  | none => .next s
  | some f =>
    match f.moving with
    | .no | .refill => .next s
    | .spill o =>
      match o.failed with
      | some (a, st) => .next (s.spillFailed r f a st)
      | none =>
      let still := !o.due && s.dormant r { f with moving := .no }
      if !still then .next ((s.setFrame r { f with moving := .no, owc := f.owc - 1 }).settleFree r)
      else if f.tch then
        match s.rewriteImage r f o with
        | .ok s => .next (s.setFrame r { f with tch := false, moving := f.writeOut none })
        | .error (.wait m, _) => .next (s.service m 1)
        | .error (e, a) => .next ((s.devFail (s.spillDev r) e).spillFailed r f a e.status)
      else .next (s.setFrame r { f with st := .away, moving := .no, owc := f.owc - 1, slots := [], words := [] })

/-! ## At the image (R164, R174) -/

/-- A slot of an image. -/
def State.imageSlot (s : State) (p : Phys) (n : Nat) : Slot :=
  slotOfImage (BitVec.ofNat 64 (ofLeBytes (Memory.readBytes s.mem (p.pa + 8 * n) 8))) (ofLeBytes (Memory.readBytes s.mem (p.pa + 64 + 4 * n) 4))
/-- A slot of an image written: its word and its status cell. -/
def State.setImageSlot (s : State) (p : Phys) (ctx n : Nat) (x : Slot) : State :=
  (s.perform { p with pa := p.pa + 8 * n } ctx (leBytes 8 x.toWord.toNat)).perform { p with pa := p.pa + 64 + 4 * n } ctx (leBytes 4 x.toCell)

/-- A slot of an image that its home cannot read or write: its word or its status cell lies in a poisoned granule (R214, R415, R416). -/
def State.imageSlotBad (s : State) (p : Phys) (n : Nat) : Bool :=
  s.granules.contains ((p.pa + 8 * n) / 32) || s.granules.contains ((p.pa + 64 + 4 * n) / 32)

/-- The home's record of such a slot (R214): at its word, or at its status cell where that alone is lost. -/
def State.imageSlotRas (s : State) (r : FrameRef) (p : Phys) (n : Nat) : State :=
  let word : Phys := { p with pa := p.pa + 8 * n }
  s.poisonRas (if s.granules.contains (word.pa / 32) then word else { p with pa := p.pa + 64 + 4 * n }) r.ctx

/-- A signal that meets such a slot: the home's record, and the activation stops (R214, R419). -/
def State.imageSlotCheck (s : State) (r : FrameRef) (p : Phys) (n : Nat) : State := (s.imageSlotRas r p n).slotCheck r n

/-- A wake for the frame's core: sent, or kept by the home while another is on its way there and its pool has room (R164, R212). -/
def State.sendWake (s : State) (r : FrameRef) : State :=
  let busy := s.net.any fun p => match p with
    | .wake q => decide (q.ctx = r.ctx ∧ q.ltn = r.ltn ∧ q.core = r.core)
    | _ => false
  s.send (if busy && s.deferredRoom r.ctx then .keptWake r else .wake r)

/-- Due at an image: the firing is kept in PN and the frame's core is woken; at the limit of R148 the frame parks. -/
def State.imageDue (s : State) (r : FrameRef) (p : Phys) (n : Nat) : State :=
  let x := s.imageSlot p n
  match x.holdFiring with
  | some y => (s.setImageSlot p r.ctx n y).sendWake r
  | none => (s.setImageSlot p r.ctx n x.atLimit).parkFrame r ⟨0x23, n, 0, 0, 0, 0, 0, 0⟩

/-- Count at an image (R147, R164). -/
def State.imageCount (s : State) (r : FrameRef) (p : Phys) (n status : Nat) : State :=
  if s.imageSlotBad p n then s.imageSlotCheck r p n
  else
    let x := (s.imageSlot p n).note status
    if x.count = 0 then (s.setImageSlot p r.ctx n x).countExcess (s.homePtn r.ctx r.ltn)
    else
      let x := { x with count := x.count - 1 }
      let s := s.setImageSlot p r.ctx n x
      if x.count = 0 ∧ x.armed then s.imageDue r p n else s

/-- The words of a datum that are written, with their places in the frame: all at once, or one by one where some are left out. -/
def datumPieces (word : Nat) (datum : Datum) : List (Nat × List Byte) :=
  if datum.all (·.isSome) then [(word, datum.flatMap fun x => leBytes 8 (x.getD 0).toNat)]
  else datum.zipIdx.filterMap fun e => e.1.map fun x => (word + e.2, leBytes 8 x.toNat)

/-- A datum written to an image (R146, R164): words of the frame's class. A write that meets a poisoned granule without covering it is not
performed: the status is POISON, with a RAS record (R214). -/
def State.imageDatum (s : State) (r : FrameRef) (f : Frame) (p : Phys) (word : Nat) (datum : Datum) (status : Nat) : State × Nat :=
  if word = 0xFF ∨ datum = [] then (s, status)
  else if word + datum.length ≤ frameWords f.large then
    let at' (i : Nat) : Phys := { p with pa := p.pa + 128 + 8 * i }
    match (datumPieces word datum).find? fun e => s.writePoisoned p.home (at' e.1).pa e.2.length with
    | some e => (s.poisonRas (at' e.1) r.ctx, if status = 0 then 1 else status)
    | none =>
      let s : State := (datumPieces word datum).foldl (init := s) fun s e => s.perform (at' e.1) r.ctx e.2
      let gone (i : Nat) : Bool := decide (word ≤ i) && decide (i < word + datum.length) && !s.granules.contains ((at' i).pa / 32)
      (s.modFrame r fun f => { f with poison := f.poison.filter fun i => !gone i }, status)
  else (s, if status = 0 then 2 else status)

/-- An image that has been recalled and whose frame the core has not yet reported installed (R165). -/
def State.recalled (s : State) (r : FrameRef) : Bool :=
  s.net.any fun p => match p with
    | .image q | .recallDone q => decide (q = r)
    | _ => false

/-- The frame operations of R174 come to: the frame as it is then, or the cause of the refusal. -/
def ImageOp.check (op : ImageOp) (x : Slot) (busy pendingFree : Bool) : Option Nat :=
  match op with
  | .ffree => if !pendingFree && busy then some 0x22 else none
  | .sloti _ => if pendingFree then some 0x22 else none
  | .slota d => if pendingFree then some 0x22 else if 0 ≤ (x.count : Int) + d ∧ (x.count : Int) + d ≤ 4095 then none else some 0x03

/-- An operation of R174 at an image: the slot words are read and written there. -/
def State.imageApply (s : State) (r : FrameRef) (f : Frame) (p : Phys) (n : Nat) (op : ImageOp) : State :=
  match op with
  | .ffree => (s.setFrame r { f with pendingFree := true }).settleFree r
  | .sloti w =>
    let s := s.setImageSlot p r.ctx n (slotOfWord w (s.imageSlot p n).pn)
    let x := s.imageSlot p n
    if x.armed ∧ x.count = 0 then s.imageDue r p n else s
  | .slota d =>
    let x := s.imageSlot p n
    let k := ((x.count : Int) + d).toNat
    let s := s.setImageSlot p r.ctx n { x with count := k, armed := true }
    if k = 0 then s.imageDue r p n else s

/-- The slots of an image that an operation of R174 reads or writes in part: FFREE's test reads all. -/
def ImageOp.touches (op : ImageOp) (slot : Nat) : List Nat :=
  match op with
  | .ffree => List.range 8
  | .sloti _ | .slota _ => [slot]

/-- The same operation on a frame that is resident again: one that is being written out anew has been touched (R174). -/
def State.frameApply (s : State) (r : FrameRef) (f : Frame) (n : Nat) (op : ImageOp) : State :=
  let f := f.touch
  match op with
  | .ffree => (s.setFrame r { f with pendingFree := true }).settleFree r
  | .sloti w =>
    let y := slotOfWord w (f.slot n).pn
    let s := s.setFrame r { f.setSlot n y with badSlots := f.badSlots.filter (· != n) }
    if y.armed ∧ y.count = 0 then s.due r n else s
  | .slota d =>
    if f.badSlots.contains n then s.slotCheck r n
    else
      let k := ((((f.slot n).count : Int)) + d).toNat
      let s := s.setFrame r (f.setSlot n { f.slot n with count := k, armed := true })
      if k = 0 then s.due r n else s

/-- The reply to an operation of R174; the cause 0x12 goes with the status POISON, and 0x10 with FAULT (R191, R214, R218). -/
def State.opReply (s : State) (id : Nat) (cause : Option Nat) : State :=
  match cause, s.req id with
  | none, _ => s.answer id .ok []
  | some c, some q => s.setReq { q.answer (if c = 0x12 then .poison else if c = 0x10 then .fault else .refused) [] with cause := c }
  | some _, none => s

/-- The tile that counts a signal dropped at an image: on stepping A1, the tile at the image's home slice (R150, R443). -/
def State.dropTile (s : State) (r : FrameRef) : Nat :=
  match s.imagePhys ⟨r.ctx, 0, .look⟩ r .write with
  | .ok p => s.homeTile p.pa
  | .error _ => s.homePtn r.ctx r.ltn

/-- FORWARD_APPLY (R164, R165, R174): a signal or an operation at the home of an image. While the image is recalled a signal is kept there,
in the deferred-record pool, and an operation waits; once the frame is resident it goes on to the core. Where the image cannot be reached, the
home writes its record (R191, R368), a signal is dropped as Stale (DESIGN CHOICE, notes/assumptions/36.md), and an operation completes FAULT. -/
def execForwardApply (n : Nat) (s : State) : Host.Outcome State Fault Refusal :=
  match s.net[n]? with
  | some (.forward r cont datum status) =>
    if s.recalled r then
      .next (if s.deferredRoom r.ctx then (s.takePacket n).send (.keptSignal r cont datum status)
        else s.serviceRecord r.ctx (s.imageVa r) 1 (ptnDie (s.homePtn r.ctx r.ltn)) [])
    else
    (match s.frame r with
     | none => .next ((s.takePacket n).countStale (s.dropTile r) r.ctx cont)
     | some f =>
       if f.rtag ≠ contRtag cont then .next ((s.takePacket n).countStale (s.dropTile r) r.ctx cont)
       else if f.st ≠ .away then .next ((s.takePacket n).send (.signal r.ctx r.ltn cont datum status))
       else
         let d : Dev := { s.spillDev r with who := .forward r cont datum status }
         match s.imagePhys d r .write with
         | .error (.wait m) => .next (s.service m 1)
         | .error e => .next (((s.takePacket n).devFail d e).countStale (s.dropTile r) r.ctx cont)
         | .ok p =>
           let s := (s.takePacket n).devDone d (s.imageVa r) 2048
           let x := s.imageDatum r f p (contWord cont) datum status
           .next (x.1.imageCount r p (contSlot cont) x.2))
  | some (.imageOp r rtag slot op id) =>
    (match s.frame r with
     | none => .next ((s.takePacket n).opReply id (some 0x03))
     | some f =>
       if f.rtag ≠ rtag then .next ((s.takePacket n).opReply id (some 0x03))
       else if s.recalled r then .next s
       else if f.st ≠ .away then
         let s := s.takePacket n
         let busy := f.slots.any (fun e => e.2.count ≠ 0 || e.2.pn ≠ 0) || decide ((s.partCore r.ctx r.ltn r.core).qn r.frm ≠ 0)
         match op.check (f.slot slot) busy f.pendingFree with
         | some c => .next (s.opReply id (some c))
         | none => .next ((s.frameApply r f slot op).opReply id none)
       else
         let d : Dev := { s.spillDev r with who := .req id }
         match s.imagePhys d r .write with
         | .error (.wait m) => .next (s.service m 1)
         | .error e => .next (((s.takePacket n).devFail d e).opReply id (some 0x10))
         | .ok p =>
           let s := (s.takePacket n).devDone d (s.imageVa r) 2048
           match (op.touches slot).find? (s.imageSlotBad p) with
           | some k => .next ((s.imageSlotRas r p k).opReply id (some 0x12))
           | none =>
           let busy := (List.range 8).any fun k => decide ((s.imageSlot p k).count ≠ 0 ∨ (s.imageSlot p k).pn ≠ 0)
           match op.check (s.imageSlot p slot) busy f.pendingFree with
           | some c => .next (s.opReply id (some c))
           | none => .next ((s.imageApply r f p slot op).opReply id none))
  | _ => .next s

/-! ## Refilling (R165) -/

/-- WAKE (R165): a refill starts, unless the frame is resident, gone, or being refilled; none does on a tile that is MOVING (R387). -/
def execWake (n : Nat) (s : State) : Host.Outcome State Fault Refusal :=
  match s.net[n]? with
  | some (.wake r) =>
    if (s.tme r.ctx r.ltn).st ≠ .resident then .next s
    else
      let s := s.takePacket n
      match s.frame r with
      | some f =>
        if f.st = .away ∧ f.moving = .no then .next ((s.setFrame r { f with moving := .refill }).send (.recall r)) else .next s
      | none => .next s
  | _ => .next s

/-- DEFERRED_WAKE_SEND (R164). -/
def execDeferredWakeSend (n : Nat) (s : State) : Host.Outcome State Fault Refusal :=
  match s.net[n]? with
  | some (.keptWake r) => .next ((s.takePacket n).send (.wake r))
  | _ => .next s

/-- RECALL (R165): the image is marked and returned. -/
def execRecall (n : Nat) (s : State) : Host.Outcome State Fault Refusal :=
  match s.net[n]? with
  | some (.recall r) => .next ((s.takePacket n).send (.image r))
  | _ => .next s

/-- A slot word or a status cell of an image with a reserved field that is not zero (R6, R143, R144); those that the home cannot read are met as the
slots are (R415). -/
def State.imageBroken (s : State) (p : Phys) : Bool :=
  (List.range 8).any fun n =>
    let w := ofLeBytes (Memory.readBytes s.mem (p.pa + 8 * n) 8)
    let c := ofLeBytes (Memory.readBytes s.mem (p.pa + 64 + 4 * n) 4)
    !s.imageSlotBad p n && (decide (w / 2 ^ 24 % 16 ≠ 0) || decide (c / 2 ^ 11 % 2 ^ 9 ≠ 0) || decide (c % 16 ≠ 0))

/-- The frame that an image holds (R163, R416): a word of a poisoned granule comes back poisoned, as the frame left it where it is marked; a
slot whose status cell is lost fails its check (R419). -/
def State.frameOfImage (s : State) (f : Frame) (p : Phys) (pgr : Nat) : Frame :=
  let word (o : Nat) : Word := BitVec.ofNat 64 (ofLeBytes (Memory.readBytes s.mem (p.pa + o) 8))
  let base : Frame := { Frame.new f.large f.rtag pgr with owc := f.owc, runs := f.runs, nt := f.nt, pendingFree := f.pendingFree }
  let g := (List.range 8).foldl (fun g n => Frame.setSlot g n (s.imageSlot p n)) base
  let g := (List.range (frameWords f.large)).foldl (fun g i => Frame.setWord g i (word (128 + 8 * i))) g
  let bad := (List.range (frameWords f.large)).filter fun i => f.poison.contains i ||
    (s.granules.contains ((p.pa + 128 + 8 * i) / 32) && !f.poison.any fun j => decide (j / 4 = i / 4))
  let slots := (List.range 8).filter fun n => f.badSlots.contains n || s.granules.contains ((p.pa + 64 + 4 * n) / 32) ||
    (s.granules.contains ((p.pa + 8 * n) / 32) && !f.badSlots.any fun j => decide (j / 4 = n / 4))
  let held := g.slots.any fun e => e.2.pn ≠ 0
  { g with
    poison := bad
    badSlots := slots
    st := if f.nt = 0 then .live else .parked
    ovf := decide (f.nt = 0) && held }

/-- A refill whose image cannot be read, or is rejected (R6), is given up: the frame stays AWAY, and the image takes signals again
(notes/assumptions/36.md, 82.md). -/
def State.refillFailed (s : State) (r : FrameRef) (f : Frame) : State :=
  { s.setFrame r { f with moving := .no } with
    net := s.net.map fun p => match p with
      | .keptSignal q c d st => if q = r then .forward q c d st else p
      | p => p }

/-- REFILL_INSTALL (R165): storage under the quota, the image installed, recall-done sent; its held firings drain by R155. -/
def execRefillInstall (n : Nat) (s : State) : Host.Outcome State Fault Refusal :=
  match s.net[n]? with
  | some (.image r) =>
    (match s.ptnOf r.ctx r.ltn, s.frame r with
     | some ptn, some f =>
       if f.moving ≠ .refill ∨ !s.quotaRoom r.ctx r.ltn r.core f.large then .next s
       else
         match s.freeGranule ptn r.core f.large, s.imagePhys (s.spillDev r) r .read with
         | some g, .ok p =>
           if s.imageBroken p then .next (((s.takePacket n).devDone (s.spillDev r) (s.imageVa r) 2048).refillFailed r f)
           else
           let s := ((s.takePacket n).setFrame r (s.frameOfImage f p g)).devDone (s.spillDev r) (s.imageVa r) 2048
           .next ((((s.send (.recallDone r)).settleFree r).drainOverflow ptn r.core).dloAgain r.ctx r.ltn)
         | _, .error (.wait m) => .next (s.service m 0)
         | some _, .error e => .next (((s.takePacket n).devFail (s.spillDev r) e).refillFailed r f)
         | none, .ok _ => .next s
         | none, .error _ => .next s
     | some _, none => .next (s.takePacket n)
     | none, _ => .next s)
  | _ => .next s

/-- RECALL_DONE (R165): the kept signals are replayed to the core in their order, and the image is released. -/
def execRecallDone (n : Nat) (s : State) : Host.Outcome State Fault Refusal :=
  match s.net[n]? with
  | some (.recallDone r) =>
    let s := s.takePacket n
    let kept := s.net.filterMap fun p => match p with
      | .keptSignal q c d st => if q = r then some (Packet.signal r.ctx r.ltn c d st) else none
      | _ => none
    let others := s.net.filter fun p => match p with
      | .keptSignal q _ _ _ => decide (q ≠ r)
      | _ => true
    .next { s with net := others ++ kept }
  | _ => .next s

/-! ## Trap queues (R374) -/

/-- TRAP_QUEUE_RETRY (R374, R376): the n-th record that waits is written, if it is its context's first and there is room. -/
def execTrapQueueRetry (n : Nat) (s : State) : Host.Outcome State Fault Refusal :=
  match s.jobs[n]? with
  | none => .next s
  | some j =>
    if s.jobAway j ∨ (s.jobs.take n).any fun x => decide (x.ctx = j.ctx) && !s.jobAway x then .next s
    else
      match State.runJob { s with jobs := dropNth s.jobs n } j with
      | .ok s => .next s
      | .error s' => .next { s' with jobs := s.jobs }

end Sys2Proof.Machine
end

