-- ==== Sys2Proof/Machine/Place.lean ====
section
/-! DEFINITION. Eligible tiles and placement (R350), a kernel's start on its tiles (R139, R353), and its release (R355). -/

namespace Sys2Proof.Machine

/-- What a kernel needs of a tile (R350); `ports` for the logical tile that it would take. -/
structure Need where
  ctx : Nat
  spUnits : Nat
  phUnits : Nat
  anvil : Bool
  quota : Nat
  large : Bool
  ports : Nat
  deriving DecidableEq, Repr

/-- Scratchpad units of a tile. -/
def spadUnits : Nat := 32

/-- The lowest run of n free units of scratchpad on a tile (R350). -/
def State.spadRun (s : State) (ptn n : Nat) : Option Nat :=
  let used : List (Nat × Nat) := (s.ctxsOn ptn).map fun e => ((s.part e.1 e.2).spBase, ((s.kernel e.1).map (·.spUnits)).getD 0)
  (List.range (spadUnits + 1 - n)).find? fun b => used.all fun u => decide (u.2 = 0 ∨ n = 0 ∨ b + n ≤ u.1 ∨ u.1 + u.2 ≤ b)

/-- The sum of a field over the kernels on a tile. -/
def State.sumOn (s : State) (ptn : Nat) (f : Kernel → Nat) : Nat :=
  ((s.ctxsOn ptn).map fun e => ((s.kernel e.1).map f).getD 0).foldl (· + ·) 0

/-- Physical ports in use on a physical tile (R237). -/
def State.portsOn (s : State) (ptn : Nat) : Nat := ((s.ctxsOn ptn).map fun e => (s.part e.1 e.2).portsHeld).foldl (· + ·) 0

/-- A tile that takes new contexts at all: active, not held, none of its parts being moved, fewer than four contexts (R350). -/
def State.tileOpen (s : State) (ptn : Nat) : Bool :=
  s.activeTile ptn && !(s.tile ptn).hold && decide ((s.ctxsOn ptn).length < 4)
    && (s.ctxsOn ptn).all fun e => decide ((s.tme e.1 e.2).st = .resident)

/-- R350. -/
def State.tileFits (s : State) (ptn : Nat) (n : Need) : Bool :=
  s.tileOpen ptn && !(s.ctxsOn ptn).any (fun e => decide (e.1 = n.ctx)) && (s.spadRun ptn n.spUnits).isSome
    && decide (s.sumOn ptn (·.phUnits) + n.phUnits ≤ 16) && !(n.anvil && (s.ctxsOn ptn).any fun e => (s.kernel e.1).any (·.anvil))
    && decide (s.sumOn ptn (·.quota) + n.quota ≤ 256) && decide (s.portsOn ptn + n.ports ≤ 64)

/-- PLACEMENT (R350): the first block whose every tile is eligible, else the first eligible tiles by (y, x). `need` gives what each logical
tile needs. -/
def State.placement (s : State) (w h : Nat) (need : Nat → Need) : Option (List Nat) :=
  let block (o : Nat) : List Nat := (List.range (w * h)).map fun l => s.ptnAt ((o % 64 + l % w) % 64) ((o / 64 + l / w) % 64)
  let ok (b : List Nat) : Bool := (b.zipIdx).all fun e => s.tileFits e.1 (need e.2)
  (((List.range 4096).find? fun o => ok (block o)).map block).orElse fun _ =>
    let tiles := (List.range 4096).foldl (init := ([] : List Nat)) fun acc o =>
      if acc.length < w * h && s.tileFits (s.ptnAt (o % 64) (o / 64)) (need acc.length) then acc ++ [s.ptnAt (o % 64) (o / 64)] else acc
    if tiles.length = w * h then some tiles else none

/-! ## Residency events (R402) -/

/-- Tiles that a new context could take, and contexts resident. -/
def State.openTiles (s : State) : Nat := ((List.range 4096).filter fun o => s.tileOpen (s.ptnAt (o % 64) (o / 64))).length
def State.residents (s : State) : Nat := (s.ctxs.filter fun e => e.2.kernel.any fun k => !k.released).length

/-- A type-6 message (R402). -/
def State.residency (s : State) (event ctx queue ridx ltn : Nat) : State :=
  s.hostMessage 6 ctx (leBytes 1 event ++ leBytes 1 queue ++ leBytes 2 0 ++ leBytes 4 ridx ++ leBytes 2 ltn ++ leBytes 2 0
    ++ leBytes 4 s.openTiles ++ leBytes 1 s.residents)

/-! ## Starting (R139, R353) -/

/-- A tile granted to a kernel: its map entry, its part as new, its registers for stealing, the reuse tags that count on from frames freed while
the logical tile was away, and no old code in the instruction cache (R77, R142, R150, R159, R353). -/
def State.grantTile (s : State) (ctx ltn ptn spUnits : Nat) : State :=
  let base := (s.spadRun ptn spUnits).getD 0
  let s := (s.setTme ctx ltn ⟨.resident, ptn⟩).setPart ctx ltn { Part.empty with spBase := base }
  let s : State := (List.range 4).foldl (init := s) fun s k =>
    s.setCore ptn k { s.coreAt ptn k with lfsr := BitVec.ofNat 16 (4 * ptn + k + 1) }
  let s := s.bringTags ctx ltn ptn
  let t := s.tile ptn
  s.setTile ptn { t with icache := t.icache.filter fun c => c.ctx ≠ ctx }

/-- One entry of a channel list applied on the tiles of this package (R240). -/
def State.bindEntry (s : State) (ctx : Nat) (w : Word) : State :=
  let self := s.pkgSelf ctx
  let s := if bindRpkg w = self then s.bindRecv ctx (bindRltn w) (bindRport w) ⟨bindSpkg w, bindSltn w, bindSport w⟩ else s
  if bindSpkg w = self then
    (s.bindSend ctx (bindSltn w) (bindSport w) (decide (bindOp w = 1)) ⟨bindRpkg w, bindRltn w, bindRport w⟩).getD s
  else s

/-- The root frame of a tile (R139), if it can be made now. -/
def State.makeRoot (s : State) (ctx ltn : Nat) (k : Kernel) : Option (FrameRef × State) :=
  (s.createFrame ctx ltn 0 k.large).map fun x =>
    (x.1, x.2.modFrame x.1 fun f =>
      let f := (List.range 16).foldl (fun f i => Frame.setWord f i (k.args.getD i 0)) f
      (List.range 8).foldl (fun f n => Frame.setSlot f n (slotOfWord (k.slots.getD n 0) 0)) f)

/-- The root frame of a tile: where no frame number or storage is free it waits for them, as a creation does (notes/assumptions/39.md). -/
def State.rootFrame (s : State) (ctx ltn : Nat) (k : Kernel) : State :=
  match s.makeRoot ctx ltn k with
  | none => s.setPart ctx ltn { s.part ctx ltn with rootDue := true }
  | some (_, s) => s

/-- The entry threadlet of a root frame is readied, and a root slot that is armed with COUNT 0 is due (R139). -/
def State.readyRoot (s : State) (r : FrameRef) (k : Kernel) : State :=
  let s := s.pushLate r ⟨r.frm, 0, k.entry, 0, readyClass (s.ctx r.ctx).cls false, none, false⟩
  (List.range 8).foldl (init := s) fun s i =>
    if (s.frame r).any fun f => (f.slot i).armed && decide ((f.slot i).count = 0) then s.due r i else s

/-- A root frame that had to wait is made; its entry threadlet is readied where the others are (R139, R353). -/
def State.lateRoot (s : State) (ctx ltn : Nat) (k : Kernel) : Option State :=
  (s.makeRoot ctx ltn k).map fun x =>
    let s := x.2.setPart ctx ltn { x.2.part ctx ltn with rootDue := false }
    if k.started then s.readyRoot x.1 k else s

/-- Entry threadlets of every tile (R353, R402). -/
def State.readyKernel (s : State) (ctx : Nat) : State :=
  match s.kernel ctx with
  | none => s
  | some k =>
    let s : State := (List.range k.area).foldl (init := s) fun s l => match (s.partCore ctx l 0).frames.head? with
      | some (n, _) => s.readyRoot ⟨ctx, l, 0, n⟩ k
      | none => s
    match s.kernel ctx with
    | some k => s.setCtx ctx { s.ctx ctx with kernel := some { k with started := true } }
    | none => s

/-! ## Creations that waited (R157, R161) -/

/-- DEFERRED_CREATION (R157, R161): a root frame that waits, else a waiting FNEW, else a held task, gets its frame. -/
def execDeferredCreation (ctx ltn core : Nat) (s : State) : Host.Outcome State Fault Refusal :=
  if (s.ptnOf ctx ltn).isNone then .next s
  else
    let root : Option State := if (s.part ctx ltn).rootDue ∧ core = 0 then (s.kernel ctx).bind (s.lateRoot ctx ltn) else none
    match root with
    | some s => .next s
    | none =>
    let c := s.partCore ctx ltn core
    match s.readyWait ctx ltn core c.waits with
    | some (id, r, s) =>
      let c := s.partCore ctx ltn core
      .next ((s.setPartCore ctx ltn core { c with waits := dropFirst c.waits id }).answer id .ok [some (s.fpOf r)])
    | none =>
      match s.readyTask ctx ltn core c.tasks with
      | some (t, r, s) =>
        let c := s.partCore ctx ltn core
        .next ((s.setPartCore ctx ltn core { c with tasks := dropTask c.tasks t }).startTask r t.task)
      | none => .next s

/-- A bind word whose two ports lie in this package. -/
def State.nearBind (s : State) (ctx : Nat) (w : Word) : Bool :=
  decide (bindRpkg w = s.pkgSelf ctx) && decide (bindSpkg w = s.pkgSelf ctx)

/-- Ports that binds will take anew on a tile, when they are made. -/
def State.bindPorts (s : State) (ctx ltn : Nat) (l : List Word) : Nat :=
  let self := s.pkgSelf ctx
  let mine (pkg l' port : Nat) : Option Nat := if pkg = self ∧ l' = ltn ∧ !(s.port ctx ltn port).bound then some port else none
  (l.flatMap fun w => (mine (bindRpkg w) (bindRltn w) (bindRport w)).toList ++ (mine (bindSpkg w) (bindSltn w) (bindSport w)).toList).eraseDups.length

/-- The binds of a spanning kernel that wait until it is released (R240, R402). -/
def State.lateBinds (s : State) (ctx : Nat) (k : Kernel) : List Word := if k.npk = 0 then [] else k.binds.dropWhile (s.nearBind ctx)

/-- They keep their physical ports (R237, R350). -/
def State.keepPorts (s : State) (ctx : Nat) (k : Kernel) : State :=
  let l := s.lateBinds ctx k
  if l = [] then s
  else (List.range k.area).foldl (fun s i => s.setPart ctx i { s.part ctx i with portsKept := s.bindPorts ctx i l }) s

/-- The kept ports are there for the binds. -/
def State.unkeepPorts (s : State) (ctx : Nat) : State :=
  { s with parts := s.parts.map fun e => (e.1, if e.1 / 4096 = ctx then { e.2 with portsKept := 0 } else e.2) }

/-- The binds that waited are made, in list order (R402). -/
def State.bindRest (s : State) (ctx : Nat) (k : Kernel) : State := (s.lateBinds ctx k).foldl (fun s w => s.bindEntry ctx w) s

/-- The steps 1 to 4 of R353 on given tiles; a spanning kernel binds its channels from the first cross-package one on, and readies its entries,
later (R240, R402). -/
def State.startKernel (s : State) (ctx cls weight : Nat) (k : Kernel) (tiles : List Nat) : State :=
  let s := s.setCtx ctx { s.ctx ctx with kernel := some k, cls := cls, weight := weight }
  let s : State := tiles.zipIdx.foldl (fun s e => s.grantTile ctx e.2 e.1 k.spUnits) s
  let s : State := (if k.npk = 0 then k.binds else k.binds.takeWhile (s.nearBind ctx)).foldl (fun s w => s.bindEntry ctx w) s
  let s := s.keepPorts ctx k
  let s : State := (List.range k.area).foldl (fun s l => s.rootFrame ctx l k) s
  if k.npk = 0 then s.readyKernel ctx else s

/-! ## Completion (R355) -/

/-- A tile whose part of the kernel is finished (R184): its steps done, no engine at work, every request of it done. -/
def State.tileDone (s : State) (ctx ltn : Nat) : Bool :=
  let p := s.part ctx ltn
  p.finished && p.ports.all (fun e => e.2.op.isNone) && p.windows.isEmpty && p.anvil.queue.isEmpty && p.anvil.draining.isEmpty
    && p.phq.isEmpty && p.phSends.isEmpty && (decide ((s.tme ctx ltn).st ≠ .away) || p.gone) && decide ((s.tme ctx ltn).st ≠ .moving)

/-- Every tile of the context's kernel is done, and no request or held packet of it is left. -/
def State.kernelDone (s : State) (ctx : Nat) : Bool :=
  match s.kernel ctx with
  | none => false
  | some k => (List.range k.area).all (s.tileDone ctx) && s.reqs.all (fun q => decide (q.ref.ctx ≠ ctx))
    && s.held.all fun h => decide (h.ref.ctx ≠ ctx)

/-- Signals of the context still on the way count as Stale on their tiles (R150, R184); the kernel's other packets end with it. -/
def State.purge (s : State) (ctx : Nat) : State :=
  let s : State := (s.net ++ s.kept).foldl (init := s) fun s p => match p with
    | .signal c l cont _ _ =>
      if c = ctx then s.countStale (s.tileFor c l) c cont else s
    | .forward r cont _ _ => if r.ctx = ctx then s.countStale (s.dropTile r) ctx cont else s
    | .keptSignal r cont _ _ => if r.ctx = ctx then s.countStale (s.tileFor r.ctx r.ltn) ctx cont else s
    | _ => s
  { s with
    net := s.net.filter fun p => p.ctx ≠ ctx
    kept := s.kept.filter fun p => p.ctx ≠ ctx }

/-- Step 4 of R355, with the report of the completion where it has yet to be made (R402): the tile map entries are removed. Signals sent to the
kernel since its release count as Stale too (R150, R168). -/
def State.endKernel (s : State) (ctx : Nat) : State :=
  match s.kernel ctx with
  | none => s
  | some k =>
    let s := s.purge ctx
    let s : State := { s with parts := s.parts.filter fun e => e.1 / 4096 ≠ ctx }
    let s := s.setCtx ctx { s.ctx ctx with kernel := none, tmes := [] }
    if k.told then s else s.residency 1 ctx k.queue k.ridx 0

/-- Steps 1 and 2 of R355: every grant is given up and scratchpad zeroed. What is left of the parts is that of ended tiles. -/
def State.freeKernel (s : State) (ctx : Nat) : State :=
  match s.kernel ctx with
  | none => s
  | some k =>
    if k.released then s
    else
    let tiles := (List.range k.area).filterMap fun l => s.ptnOf ctx l
    let s := s.purge ctx
    let s : State := { s with parts := s.parts.filter fun e => e.1 / 4096 ≠ ctx }
    let s : State := (List.range k.area).foldl (fun s l => s.setPart ctx l { Part.empty with ended := true, finished := true }) s
    let s := s.setCtx ctx { s.ctx ctx with kernel := some { k with released := true } }
    tiles.foldl (init := s) fun s ptn => (List.range 4).foldl (init := s) fun s c =>
      let x := s.coreAt ptn c
      ((s.setCore ptn c { x with reserved := x.reserved.filter fun r => r ≠ ctx }).settleRot ptn c).drainOverflow ptn c

end Sys2Proof.Machine
end

