-- ==== Sys2Proof/Machine/Launch.lean ====
section
/-! DEFINITION. Queues, launch packets and the Sorting Office (R336 to R359, R395, R402). -/

namespace Sys2Proof.Machine

/-! ## Queues -/

def State.queue (s : State) (q : Nat) : Queue := Tab.get Queue.reset s.queues q
def State.setQueue (s : State) (q : Nat) (x : Queue) : State := { s with queues := Tab.put s.queues q x }

/-- Fields of a queue descriptor (R336). -/
def Queue.en (q : Queue) : Bool := q.desc.getLsbD 63
def Queue.dev (q : Queue) : Bool := q.desc.getLsbD 62
def Queue.sys (q : Queue) : Bool := q.desc.getLsbD 61
def Queue.ctx (q : Queue) : Nat := q.desc.toNat / 2 ^ 54 % 64
def Queue.size (q : Queue) : Nat := 2 ^ (q.desc.toNat / 2 ^ 50 % 16 + 4)
def Queue.base (q : Queue) : Nat := q.desc.toNat / 2 ^ 12 % 2 ^ 38 * 2 ^ 12
def Queue.lctx (q : Queue) : Nat := q.desc.toNat / 2 ^ 6 % 64
/-- The address of the slot of an index (R337). -/
def Queue.slotAt (q : Queue) (i : Nat) : Nat := q.base + 64 * (i % q.size)
/-- Packets made visible and not yet passed (R337). -/
def Queue.waiting (q : Queue) : Nat := (q.widx + 2 ^ 32 - q.ridx % 2 ^ 32) % 2 ^ 32

/-- QUEUE_STOP (R339): ERR set, EN clear, and the queue-error record. -/
def State.stopQueue (s : State) (q widx status : Nat) : State :=
  let x := s.queue q
  let s := s.setQueue q { x with desc := (x.desc ||| (1#64 <<< 60)) &&& ~~~(1#64 <<< 63) }
  s.notice x.ctx (noticeBytes 0x40 x.ctx (leBytes 4 q ++ leBytes 8 widx ++ leBytes 1 status))

/-- NOTIFY (R338, R339): it is received while the window takes writes (R421, R428). -/
def execNotify (q : Nat) (value : Word) (s : State) : Host.Outcome State Fault Refusal :=
  let x := s.queue q
  if 256 ≤ q ∨ !s.windowOpen then .next s
  else if !s.featDone ∨ !x.en ∨ x.dev then .next { s with dnotc := s.dnotc + 1 }
  else if 2 ^ 32 ≤ value.toNat ∨ x.size < { x with widx := value.toNat }.waiting then .next (s.stopQueue q value.toNat 0)
  else .next (s.setQueue q { x with widx := value.toNat, idle := false })

/-! ## Packets (R341, R342) -/

def Taken.pri (t : Taken) : Nat := le t.bytes 2 1
def Taken.weight (t : Taken) : Nat := le t.bytes 3 1
def Taken.width (t : Taken) : Nat := le t.bytes 4 1
def Taken.height (t : Taken) : Nat := le t.bytes 5 1
def Taken.kfl (t : Taken) : Nat := le t.bytes 6 1
def Taken.spg (t : Taken) : Nat := le t.bytes 7 1
def Taken.phqUnits (t : Taken) : Nat := le t.bytes 20 1
def Taken.fq (t : Taken) : Nat := le t.bytes 21 1
def Taken.npk (t : Taken) : Nat := le t.bytes 22 1
def Taken.argp (t : Taken) : Nat := le t.bytes 24 8
def Taken.chlp (t : Taken) : Nat := le t.bytes 32 8
def Taken.csig (t : Taken) : Nat := le t.bytes 56 8

/-- Fields that lie in their ranges, and MBZ fields zero, in the packet (R341). -/
def packetOk (t : Taken) (sys rack : Bool) : Bool :=
  decide (t.pri ≤ 2) && (decide (t.pri ≠ 0) || sys) && decide (1 ≤ t.width ∧ t.width ≤ 64) && decide (1 ≤ t.height ∧ t.height ≤ 64)
    && decide (t.kfl < 32) && decide (t.kfl / 4 ≤ 4) && decide (t.spg ≤ 32) && decide (le t.bytes 8 8 % 256 = 0)
    && decide (t.phqUnits ≤ 16) && decide (t.phqUnits ≤ t.spg) && decide (1 ≤ t.fq) && (decide (4 ≤ t.fq) || decide (t.kfl % 2 = 0))
    && (decide (t.npk = 0) || rack) && decide (le t.bytes 23 1 = 0) && decide (t.argp % 64 = 0) && decide (t.chlp % 8 = 0)
    && decide (t.depa 0 % 8 = 0) && decide (t.depa 1 % 8 = 0) && decide (t.csig % 8 = 0)

/-- The same for the argument block, with the root slot words of R143 (R342). -/
def blockOk (t : Taken) : Bool :=
  ((List.range 8).all fun i => decide (le t.block (8 * i) 8 / 2 ^ 24 % 16 = 0)) && decide (le t.block 208 8 % 2 ^ 21 = 0)
    && decide (le t.block 216 8 % 4096 = 0) && decide (le t.block 224 4 ≤ 65536) && decide (le t.block 228 28 = 0)

/-- A port of a channel list as its entries so far leave it: who, whether it sends, and its members. -/
structure ListPort where
  who : PortRef
  send : Bool
  members : List PortRef
  deriving DecidableEq, Repr

/-- One entry of a channel list in its order (R238 to R240): `none` where it breaks a rule. -/
def bindStep (area : Nat) (okPkg : Nat → Bool) (acc : Option (List ListPort)) (w : Word) : Option (List ListPort) :=
  match acc with
  | none => none
  | some l =>
    let src : PortRef := ⟨bindSpkg w, bindSltn w, bindSport w⟩
    let dst : PortRef := ⟨bindRpkg w, bindRltn w, bindRport w⟩
    let at? (p : PortRef) := l.find? fun x => x.who = p
    if !bindMbz w ∨ 1 < bindOp w ∨ area ≤ src.ltn ∨ area ≤ dst.ltn ∨ !okPkg src.pkg ∨ !okPkg dst.pkg
        ∨ (src.pkg = dst.pkg ∧ src.ltn = dst.ltn) ∨ (at? dst).isSome then none
    else
      let recv : ListPort := ⟨dst, false, [src]⟩
      match bindOp w, at? src with
      | 0, none => some (l ++ [⟨src, true, [dst]⟩, recv])
      | 1, some x =>
        if x.send ∧ x.members.length < 16 ∧ !(x.members.any fun m => m.pkg = dst.pkg ∧ m.ltn = dst.ltn) then
          some ((l.map fun y => if y.who = src then { y with members := y.members ++ [dst] } else y) ++ [recv])
        else none
      | _, _ => none

/-- The ports that a channel list binds, if its entries are good: a package is one of the context's (R239, R397), and one that the kernel spans (R402;
notes/assumptions/89.md). -/
def State.listPorts (s : State) (ctx : Nat) (t : Taken) : Option (List ListPort) :=
  let okPkg (p : Nat) : Bool := decide (p = s.pkgSelf ctx) ||
    (decide (t.npk ≠ 0) && decide (p ≤ t.npk) && (let m := Tab.get 0 (s.ctx ctx).pkgmap p; m.getLsbD 63 && !m.getLsbD 62))
  t.binds.foldl (bindStep (t.width * t.height) okPkg) (some [])

/-! ## Passing (R344) -/

/-- Package 0 tells the other packages what it has decided on a spanning kernel (R402). -/
def State.tellAll (s : State) (ctx n npk : Nat) (ok : Bool) : State :=
  (List.range npk).foldl (fun s i => (s.emit ctx (i + 1) 0 false (.admitted ctx n ok)).getD s) s

/-- A package's report on its part of the spanning kernel that comes next, to package 0; a refusal by package 0 itself goes to all of them (R402). -/
def State.report (s : State) (ctx npk : Nat) (ok : Bool) : State :=
  let n := s.spans
  let s : State := { s with spans := n + 1 }
  let s := if ok then s else s.dropReports ctx n
  if s.pkgSelf ctx ≠ 0 then (s.emit ctx 0 0 false (.admitted ctx n ok)).getD s
  else if ok then s
  else s.tellAll ctx n npk false

/-- A refusal of a spanning kernel's part, which nothing more comes of where the kernel has been refused already (R402). -/
def State.reportRefusal (s : State) (ctx npk : Nat) : State :=
  if s.doomed.contains (ctx, s.spans) then { s with spans := s.spans + 1, doomed := s.doomed.erase (ctx, s.spans) } else s.report ctx npk false

/-- A page on host memory that the Sorting Office may not use while HQ is not in force (R336). -/
def State.hostRing (s : State) (ctx va : Nat) : Bool :=
  !s.feature 5 && (match s.devXlat ⟨ctx, 8, .look⟩ va .read with
    | .ok p => decide (p.home = .host)
    | .error _ => false)

/-- Whether the ring slot or the read-index word of a queue lies on such a page: nothing is then taken or passed (R336). -/
def State.hostQueue (s : State) (q : Nat) : Bool :=
  let x := s.queue q
  s.hostRing x.ctx (x.slotAt x.ridx) || s.hostRing x.ctx x.ria.toNat

/-- Writes by the device in a context, each after the one before: the status of the first that fails ends them. `error`: the page, or the other
package, that one of them waits for, with how many have performed and the state behind them. -/
def State.devWrites (s : State) (d : Dev) : List (Nat × List Byte) → Except (Miss × Nat × State) (Option Status × State)
  | [] => .ok (none, s)
  | (a, bytes) :: l =>
    match s.devWrite d a bytes with
    | .ok s => (s.devWrites d l).mapError fun e => (e.1, e.2.1 + 1, e.2.2)
    | .error (.wait m) => .error (m, 0, s)
    | .error e => .ok (some e.result, s.devFail d e)

/-- The Sorting Office's accesses for a queue: it asks as die 8 (R372; notes/assumptions/42.md). -/
def State.queueDev (s : State) (q : Nat) : Dev := ⟨(s.queue q).ctx, 8, .queue q⟩

/-- What has been read of the slot at a queue's RIDX is forgotten. -/
def Queue.forget (q : Queue) : Queue := { q with got := [] }

/-- A taken packet as it stands now. -/
def State.setTaken (s : State) (t : Taken) : State := { s with taken := s.taken.map fun y => if y.queue = t.queue then t else y }

/-- The queue of the rack scheduler (R402). -/
def State.isRack (s : State) (q : Nat) : Bool := s.rackq.getLsbD 63 && decide (s.rackq.toNat % 256 = q)

/-- PASS_PACKET (R344): STAT, VALID := 0, then RIDX, each after the one before; a failed write stops the queue (R336). A refusal posts its
record, and is reported where the packet is of the rack scheduler's queue (R343, R402). A ring or read-index word that may not be used stops the
queue, and the packet is not passed (R336). `error`: what it waits for, while the packet stays taken, to be passed so. -/
def State.passPacket (s : State) (t : Taken) (stat : Nat) : Except (Miss × State) State :=
  let x := s.queue t.queue
  let c := x.ctx
  let a := x.slotAt t.ridx
  let next := (t.ridx + 1) % 2 ^ 32
  let gone (s : State) : State := { s with taken := s.taken.filter fun y => y.queue ≠ t.queue }
  if s.hostQueue t.queue then .ok ((gone (s.setQueue t.queue x.forget)).stopQueue t.queue x.widx 0)
  else
    match s.devWrites (s.queueDev t.queue) ([(a + 1, leBytes 1 stat), (a, leBytes 1 0), (x.ria.toNat, leBytes 8 next)].drop t.passed) with
    | .error (m, n, s) => .error (m, s.setTaken { t with fail := some stat, passed := t.passed + n })
    | .ok (bad, s) =>
      let s := gone (s.setQueue t.queue { x.forget with ridx := next, idle := false })
      let s := match bad with
        | some st => s.stopQueue t.queue x.widx (statusCode st)
        | none => s
      if stat = 0 then .ok s
      else
        let s := s.notice c (noticeBytes 0x41 c (leBytes 4 t.queue ++ leBytes 8 t.ridx ++ leBytes 1 stat))
        let s := s.residency 2 c t.queue t.ridx 0
        .ok (if t.npk ≠ 0 ∧ s.isRack t.queue then s.reportRefusal c t.npk else s)

/-- A taken packet passed: while a page of the queue is brought it stays taken, to be passed so. -/
def State.passTaken (s : State) (t : Taken) (stat : Nat) : State :=
  match s.passPacket t stat with
  | .ok s => s
  | .error (m, s) => s.service m 1

/-! ## Taking (R340, R343) -/

/-- A taken packet without dependences left is pending, behind those that became so before it (R349). -/
def State.becomePending (s : State) (t : Taken) : State :=
  { s with taken := (s.taken.filter fun y => y.queue ≠ t.queue) ++ [{ t with pending := true }] }

/-- Dependences that have yet to hold (R346). -/
def Taken.unmet (t : Taken) : List Nat := (List.range 2).filter fun i => decide (t.depa i ≠ 0) && !t.met.contains i

/-- A range read on from where an earlier read of it met a page that had to be brought: the bytes so far, and what stops it. -/
def State.readOn (s : State) (d : Dev) (va n : Nat) (got : List Byte) : List Byte × Option DevErr :=
  (pieces va n).foldl (init := (got, none)) fun acc e =>
    if acc.2.isSome ∨ e.1 + e.2 ≤ va + acc.1.length then acc
    else
      match s.devPiece d e.1 e.2 with
      | .ok l => (acc.1 ++ l, none)
      | .error x => (acc.1, some x)

/-- What the read of a packet's argument block and channel list comes to: all of it, a count of the list out of its range, or what stops it. -/
inductive ArgRead where
  | all
  | long
  | stop (e : DevErr)
  deriving DecidableEq, Repr

/-- ARGUMENT_READ (R343): the argument block, the list's count and its entries, each byte read once; what has been read is kept while a page is
brought. -/
def State.readArguments (s : State) (t : Taken) : ArgRead × Taken × State :=
  let d := s.queueDev t.queue
  let (block, e) := s.readOn d t.argp 256 (t.args.take 256)
  let s := s.devDone d t.argp block.length
  let t := { t with args := block ++ t.args.drop 256 }
  match e with
  | some e => (.stop e, t, s)
  | none =>
    let t := { t with block := block }
    if t.chlp = 0 then (.all, t, s)
    else
      let (count, e) := s.readOn d t.chlp 8 ((t.args.drop 256).take 8)
      let s := s.devDone d t.chlp count.length
      let t := { t with args := block ++ count ++ t.args.drop 264 }
      match e with
      | some e => (.stop e, t, s)
      | none =>
        let n := ofLeBytes count
        if 4096 < n then (.long, t, s)
        else
          let (l, e) := s.readOn d (t.chlp + 8) (8 * n) (t.args.drop 264)
          let s := s.devDone d (t.chlp + 8) l.length
          let t := { t with args := block ++ count ++ l }
          match e with
          | some e => (.stop e, t, s)
          | none => (.all, { t with binds := (List.range n).map fun i => BitVec.ofNat 64 (le l (8 * i) 8) }, s)

/-- The last case of R343: another queue's packet of the context is in admission with another class while a kernel of it is resident. -/
def State.classClash (s : State) (ctx : Nat) (t : Taken) : Bool :=
  (s.kernel ctx).isSome &&
    s.taken.any fun o => o.read && decide ((s.queue o.queue).ctx = ctx) && decide (o.queue ≠ t.queue) && decide (o.pri ≠ t.pri)

/-- A packet of which something is left to do before it is pending, or to pass it. -/
def Taken.unread (t : Taken) : Bool := !t.read || (t.pending && t.fail.isSome)

/-- A taken packet goes on: it is passed where it is to be, its argument block and channel list are read, and a good one waits on its
dependences (R343, R346). It does so whether or not its queue still runs (R339). -/
def State.readPacket (s : State) (t : Taken) : Host.Outcome State Fault Refusal :=
  match t.fail with
  | some st => .next (s.passTaken t st)
  | none =>
    match s.readArguments t with
    | (.stop (.wait m), t, s) => .next ((s.setTaken t).service m 0)
    | (.stop e, t, s) => .next ((s.devFail (s.queueDev t.queue) e).passTaken t e.status)
    | (.long, t, s) => .next (s.passTaken t 5)
    | (.all, t, s) =>
      let c := (s.queue t.queue).ctx
      if !blockOk t ∨ (s.listPorts c t).isNone ∨ s.classClash c t then .next (s.passTaken t 5)
      else
        let t := { t with read := true }
        .next (if t.unmet = [] then s.becomePending t else s.setTaken t)

/-- Whether the Sorting Office may read the slot at a queue's RIDX (R337, R340, R345). -/
def State.mayTake (s : State) (q : Nat) : Bool :=
  let x := s.queue q
  decide (q < 256) && s.hallmark.booted && x.en && !x.idle && decide (x.waiting ≠ 0) && !(s.taken.any fun t => t.queue = q)

/-- The 64 bytes of the slot at a queue's RIDX: words read before stand (R340). -/
def State.slotBytes (s : State) (q : Nat) : Except DevErr (List Byte) :=
  let x := s.queue q
  let words (l : List Byte) : List Byte := (List.range 8).flatMap fun i => match Tab.find x.got i with
    | some w => leBytes 8 w.toNat
    | none => (l.drop (8 * i)).take 8
  if x.got.length = 8 then .ok (words []) else (s.devRead (s.queueDev q) (x.slotAt x.ridx) 64).map words

/-- A word of a slot in a ring on a HOST page, read apart from the others: each aligned 8 bytes is whole (R340). -/
def State.slotPiece (s : State) (q word : Nat) : State :=
  let x := s.queue q
  let d := s.queueDev q
  let a := x.slotAt x.ridx + 8 * word
  if !s.mayTake q ∨ 8 ≤ word ∨ s.hostRing x.ctx (x.slotAt x.ridx) ∨ (Tab.find x.got word).isSome then s
  else
    match s.devXlat d a .read, s.devPiece d a 8 with
    | .ok ⟨.host, _, _⟩, .ok l => s.setQueue q { x with got := Tab.put x.got word (BitVec.ofNat 64 (ofLeBytes l)) }
    | _, _ => s

/-- PACKET_TAKE (R340, R343, R345): the slot at RIDX is read, and a packet found there is taken: it is the packet from then on (R340), and is read on,
or passed with a refusal. A ring that may not be used is not read, and with a read-index word that may not be used no packet is taken (R336). -/
def execPacketTake (q : Nat) (s : State) : Host.Outcome State Fault Refusal :=
  let x := s.queue q
  let d := s.queueDev q
  let stop (s : State) (status : Nat) : Host.Outcome State Fault Refusal := .next ((s.setQueue q x.forget).stopQueue q x.widx status)
  match s.taken.find? fun t => t.queue = q && t.unread with
  | some t => s.readPacket t
  | none =>
    if !s.mayTake q then .next s
    else if s.hostRing x.ctx (x.slotAt x.ridx) then stop s 0
    else
      match s.slotBytes q with
      | .error (.wait m) => .next (s.service m 0)
      | .error e => stop (s.devFail d e) e.status
      | .ok bytes =>
        let s := s.devDone d (x.slotAt x.ridx) 64
        if le bytes 0 1 ≠ 1 then .next (s.setQueue q { x.forget with idle := true })
        else if s.hostRing x.ctx x.ria.toNat then stop s 0
        else
          let t : Taken := ⟨q, x.ridx, bytes, [], [], [], false, 0, [], none, 0, false, [], false⟩
          let t := { t with fail := if packetOk t x.sys (s.isRack q) then none else some 5 }
          State.readPacket { s.setQueue q x.forget with taken := s.taken ++ [t] } t

/-! ## Dependences (R346, R347) -/

/-- The Sorting Office's accesses for a dependence of a queue's packet. -/
def State.dependDev (s : State) (q dep : Nat) : Dev := { s.queueDev q with who := .depend q dep }

/-- The watch of a dependence: checked and armed in one step at the word's home (R346). `ok`: whether the word is at most its bound, and where
else its watch stands. -/
def State.checkDepend (s : State) (t : Taken) (dep : Nat) : Except DevErr (Bool × Option Nat) :=
  let d := s.dependDev t.queue dep
  match s.devXlat d (t.depa dep) .read with
  | .error e => .error e
  | .ok p =>
    if p.home = .host ∨ p.is then .error (.fault none)
    else
      match p.home with
      | .remote pkg => (s.farAccess d (t.depa dep) p pkg (.depend (t.depv dep))).map fun _ => (true, none)
      | .hbm | .ld | .host =>
        if s.poisoned p.home p.pa 8 then .error (.poison (some p))
        else .ok (decide (s.signedAt p.pa ≤ t.depv dep), some p.pa)

/-- DEPENDENCE_MET (R346): the watch of a dependence is armed, or finds its word at or below its bound; a packet whose dependences have all held
is pending, and one whose watch failed is passed with an error. -/
def execDependenceMet (q dep : Nat) (s : State) : Host.Outcome State Fault Refusal :=
  match s.taken.find? fun t => t.queue = q with
  | none => .next s
  | some t =>
    let d := s.dependDev q dep
    let on (s : State) (t : Taken) : State := if t.unmet = [] then s.becomePending t else s.setTaken t
    if t.pending then .next s
    else
      match t.fail with
      | some st => .next (s.passTaken t st)
      | none =>
        if !t.read then .next s
        else if !t.unmet.contains dep then .next (on s t)
        else if t.armed.any fun e => e.1 = dep then .next s
        else
          match s.checkDepend t dep with
          | .error (.wait m) => .next (s.service m 0)
          | .error e => .next ((s.devFail d e).passTaken t e.status)
          | .ok (true, _) => .next (on (s.devDone d (t.depa dep) 8) { t with met := t.met ++ [dep] })
          | .ok (false, pa) => .next (on (s.devDone d (t.depa dep) 8) { t with armed := t.armed ++ pa.toList.map fun a => (dep, a) })

/-! ## Admission (R348 to R353) -/

/-- What a packet needs of the tile that its logical tile takes (R350). -/
def State.needOf (s : State) (t : Taken) (ltn : Nat) : Need :=
  let c := (s.queue t.queue).ctx
  let ports := ((s.listPorts c t).getD []).filter fun p => decide (p.who.pkg = s.pkgSelf c) && decide (p.who.ltn = ltn)
  ⟨c, t.spg, t.phqUnits, decide (t.kfl / 2 % 2 = 1), t.fq, decide (t.kfl % 2 = 1), ports.length⟩

/-- The kernel that a packet starts. -/
def Taken.kernel (t : Taken) : Kernel where
  width := t.width
  height := t.height
  codeBase := BitVec.ofNat 64 (le t.bytes 8 8)
  entry := le t.bytes 16 4
  large := decide (t.kfl % 2 = 1)
  anvil := decide (t.kfl / 2 % 2 = 1)
  steal := t.kfl / 4
  spUnits := t.spg
  phUnits := t.phqUnits
  quota := t.fq
  npk := t.npk
  csig := BitVec.ofNat 64 t.csig
  spb := BitVec.ofNat 64 (le t.block 208 8)
  dqb := BitVec.ofNat 64 (le t.block 216 8)
  dqn := le t.block 224 4
  slots := (List.range 8).map fun i => BitVec.ofNat 64 (le t.block (8 * i) 8)
  args := (List.range 16).map fun i => BitVec.ofNat 64 (le t.block (64 + 8 * i) 8)
  binds := t.binds
  killed := false
  started := false
  queue := t.queue
  ridx := t.ridx
  span := 0
  released := false
  told := false

/-- The steps of R353 on given tiles, the packet passed last, and the admission reported; a spanning kernel that package 0 has refused meanwhile ends at
once (R402). Nothing starts where the packet may not be passed (R336). -/
def State.startPacket (s : State) (t : Taken) (tiles : List Nat) : State :=
  let c := (s.queue t.queue).ctx
  let n := s.spans
  if s.hostQueue t.queue then s.passTaken t 0
  else
    let s := (s.startKernel c t.pri t.weight { t.kernel with span := n } tiles).residency 0 c t.queue t.ridx 0
    let s := if t.npk = 0 then s else s.report c t.npk true
    let s := if t.npk ≠ 0 ∧ s.doomed.contains (c, n) then State.killKernel { s with doomed := s.doomed.erase (c, n) } c else s
    s.passTaken t 0

/-- Pending packets in rank order, those of a context with a resident kernel left out, and those that are being passed (R348, R349). -/
def State.ranked (s : State) : List Taken :=
  let l := s.taken.filter fun t => t.pending && t.fail.isNone && (s.kernel (s.queue t.queue).ctx).isNone && (s.ctx (s.queue t.queue).ctx).valid
  (List.range 3).flatMap fun c => l.filter fun t => decide (t.pri = c)

/-- The packet to admit with its tiles, and those ranked above it that do not fit: the highest that fits, none ranked below a blocked one
(R349, R351). -/
def State.choose (s : State) : List Taken → Option (Taken × List Nat × List Nat)
  | [] => none
  | t :: l =>
    (s.placement t.width t.height (s.needOf t)).elim
      (if 8 ≤ t.bypass then none else (s.choose l).map fun x => (x.1, x.2.1, t.queue :: x.2.2)) fun tiles => some (t, tiles, [])

/-- ADMISSION (R349 to R353). Packets ranked above the one admitted count it (R351); one that may not be passed is not admitted (R336). -/
def execAdmission (s : State) : Host.Outcome State Fault Refusal :=
  if !s.hallmark.booted ∨ !s.featDone ∨ !s.feature 0 then .next s
  else
    match s.choose s.ranked with
    | none => .next s
    | some (t, tiles, over') =>
      let past (y : Taken) : Bool := over'.contains y.queue && !s.hostQueue t.queue
      let s' : State := { s with taken := s.taken.map fun y => if past y then { y with bypass := y.bypass + 1 } else y }
      .next (s'.startPacket t tiles)

/-- Pending packets are sent to the host in rank order while admission is host-assisted (R359): one whose context has a kernel resident is not
ranked, and waits (R348). -/
def State.announceHost (s : State) : State :=
  if !s.hallmark.booted ∨ !s.featDone ∨ s.feature 0 then s
  else
    (s.ranked.filter fun t => !t.told).foldl (init := s) fun s t =>
      let s : State := { s with taken := s.taken.map fun y => if y.queue = t.queue then { y with told := true } else y }
      s.hostMessage 3 (s.queue t.queue).ctx (leBytes 1 t.queue ++ leBytes 3 0 ++ leBytes 4 t.ridx ++ List.replicate 48 0 ++ t.bytes)

/-- Host addresses that a device access can name (R366); a reply block beyond them cannot be translated (notes/assumptions/41.md). -/
def hostReach : Nat := 2 ^ 48

/-- An admission reply with its block is taken up (R359, R395): the packet that it names is placed, or passed with a refusal; one that names a
packet which waits on its dependences refuses it too, and one that names none is discarded (notes/assumptions/41.md). `error`: what it waits
for. -/
def State.admissionReply (s : State) (value : Word) (block : List Byte) (bad : Bool) : Except (Miss × State) State :=
  let q := value.toNat % 256
  match s.taken.find? fun t => t.queue = q ∧ t.ridx = value.toNat / 2 ^ 32 ∧ t.fail ≠ some 0 with
  | none => .ok s
  | some t =>
    let c := (s.queue q).ctx
    let area := t.width * t.height
    let tiles := (List.range area).map fun i => le block (8 + 2 * i) 2
    let good := !bad && t.pending && t.fail.isNone && decide (le block 0 8 = area) && decide (tiles.Nodup) && (s.kernel c).isNone
      && (s.ctx c).valid && tiles.zipIdx.all fun e => s.tileFits e.1 (s.needOf t e.2)
    if good then .ok (s.startPacket t tiles) else s.passPacket t 5

/-- A reply that waits for a page is held with its block, and taken up again later (R395). -/
def State.replyOr (s : State) (value : Word) (block : List Byte) (bad : Bool) : State :=
  match s.admissionReply value block bad with
  | .ok s => s
  | .error (m, s) => { s.service m 1 with replies := s.replies ++ [(value, if bad then [] else block)] }

/-- The oldest reply that waits is taken up again, while a kernel may be made resident (R358). -/
def State.replyAgain (s : State) : State :=
  match s.replies with
  | [] => s
  | (v, l) :: rest => if s.featDone then { s with replies := rest }.replyOr v l (decide (l = [])) else s

/-- AREPLYQ (R359, R395): the host's reply places a pending packet. The block at AREPLYA is read once; one that the host reports as poisoned
makes a RAS record (R194, R414). -/
def execAreplyq (value : Word) (s : State) : Host.Outcome State Fault Refusal :=
  let q := value.toNat % 256
  if !s.windowOpen ∨ value.toNat / 2 ^ 8 % 2 ^ 24 ≠ 0 ∨ s.feature 0 ∨ !s.featDone then .next s
  else
    match s.taken.find? fun t => t.queue = q ∧ t.ridx = value.toNat / 2 ^ 32 ∧ t.fail ≠ some 0 with
    | none => .next s
    | some t =>
      let a := s.areplya.toNat
      let n := 8 + 2 * (t.width * t.height)
      let lost := s.poisoned .host a n
      let s := if lost ∧ a + n ≤ hostReach then s.poisonRas ⟨.host, a, false⟩ (s.queue q).ctx else s
      .next (s.replyOr value (Memory.readBytes s.host a n) (lost || decide (hostReach < a + n)))

/-! ## Completion (R355) -/

/-- The decrement of the completion signal word, one step at its home (R355). -/
def State.decrement (s : State) (ctx : Nat) (a : Nat) : Except DevErr State :=
  let d : Dev := ⟨ctx, 8, .kernel⟩
  match s.devXlat d a .write with
  | .error e => .error e
  | .ok p =>
    if p.is then .error (.fault none)
    else
      match p.home with
      | .remote pkg => (s.farAccess d a p pkg .decrement).map fun _ => s.devDone d a 8
      | .hbm | .ld | .host =>
        if s.poisoned p.home p.pa 8 then .error (.poison (some p))
        else .ok ((s.perform p ctx (leBytes 8 ((ofLeBytes (Memory.readBytes (s.memOf p.home) p.pa 8) + 2 ^ 64 - 1) % 2 ^ 64))).devDone d a 8)

/-- The completion of a kernel that is done may be reported before its completion signal word is counted down (R406). -/
def State.announce (s : State) (ctx : Nat) : State :=
  match s.kernel ctx with
  | none => s
  | some k =>
    if k.told ∨ (!k.released && !s.kernelDone ctx) then s
    else
      let s := (s.freeKernel ctx).residency 1 ctx k.queue k.ridx 0
      s.setCtx ctx { s.ctx ctx with kernel := (s.kernel ctx).map fun k => { k with told := true } }

/-- KERNEL_COMPLETE (R355, R390): the tiles are released, the completion signal word is counted down, and the map entries go. While the word's
page or package is awaited, the tiles stay released. -/
def execKernelComplete (ctx : Nat) (s : State) : Host.Outcome State Fault Refusal :=
  match s.kernel ctx with
  | none => .next s
  | some k =>
    if !k.released && !s.kernelDone ctx then .next s
    else
      let s := s.freeKernel ctx
      if k.killed then .next ((s.notice ctx (noticeBytes 0x43 ctx [])).endKernel ctx)
      else if k.csig = 0 then .next (s.endKernel ctx)
      else
        match s.decrement ctx k.csig.toNat with
        | .ok s => .next (s.endKernel ctx)
        | .error (.wait m) => .next (s.service m 1)
        | .error e =>
          .next (((s.devFail ⟨ctx, 8, .kernel⟩ e).notice ctx (noticeBytes 0x42 ctx (leBytes 4 0 ++ leBytes 8 k.csig.toNat ++ leBytes 1 e.status))).endKernel
            ctx)

/-! ## LAUNCH (R356) -/

/-- MBZ fields and NPK of a packet that a LAUNCH presents (R356). -/
def launchOk (l : List Byte) : Bool :=
  decide (le l 2 1 < 4) && decide (le l 6 1 < 32) && decide (le l 22 1 = 0) && decide (le l 23 1 = 0)

/-- LAUNCH requests that wait for room in a queue, in the order the Sorting Office accepted them. -/
def State.launchWaits (s : State) (q : Nat) : List Nat :=
  s.launchq.filter fun id => (s.req id).any fun r => match r.kind with
    | .launch n w => w && decide (n = q) && !r.performed
    | _ => false

/-- A request answered with a status. -/
def State.answerWith (s : State) (id : Nat) (st : Status) : Host.Outcome State Fault Refusal := .next (s.answer id st [])

/-- A LAUNCH that finds its ring full waits in the context's deferred-record region, behind those accepted before it; one whose tile has
executed KEND is cancelled, and a full region waits for the fault service (R212, R356). -/
def State.launchWait (s : State) (r : Req) (q : Nat) (waiting : Bool) : State :=
  if (s.part r.ref.ctx r.ref.ltn).ended then s.answer r.id .cancelled []
  else if waiting then s
  else if s.deferredRoom r.ref.ctx then { s.setReq { r with kind := .launch q true } with launchq := s.launchq ++ [r.id] }
  else s.holdFault r r.curVa 1

/-- Another LAUNCH whose copy into the slot at WIDX has begun and is not done (R356). -/
def State.copiedBy (s : State) (x : Queue) (id : Nat) : Bool :=
  x.copying.any fun o => decide (o ≠ id) && (s.req o).any fun r => !r.performed

/-- LAUNCH_COPY (R183, R356): bytes 2 to 63 are written, then STAT, then VALID. A ring that may not be used (R336) takes no copy: the LAUNCH
completes FAULT (notes/assumptions/69.md). -/
def execLaunchCopy (id : Nat) (s : State) : Host.Outcome State Fault Refusal :=
  match s.req id with
  | none => .next s
  | some r =>
    match r.kind with
    | .launch q waiting =>
      let c := r.ref.ctx
      let x := s.queue q
      let waits := s.launchWaits q
      let a := x.slotAt x.widx
      if r.performed ∨ r.faultHeld ∨ s.isHeld id ∨ (waiting ∧ waits.head? ≠ some id) ∨ s.copiedBy x id then .next s
      else if 256 ≤ q ∨ !x.en ∨ !x.dev ∨ x.lctx ≠ c then s.answerWith id .refused
      else
        let d : Dev := ⟨c, 8, .req id⟩
        match s.devRead d r.va.toNat 64 with
        | .error (.wait m) => .next (s.service m 0)
        | .error e => (s.devFail d e).answerWith id e.result
        | .ok l =>
          if !launchOk l then s.answerWith id .refused
          else if x.size ≤ x.waiting ∨ (!waiting ∧ x.copying ≠ some id ∧ waits ≠ []) then .next (s.launchWait r q waiting)
          else if s.hostRing x.ctx a then s.answerWith id .fault
          else
            match s.devWrites ⟨x.ctx, 8, .req id⟩ [(a + 2, l.drop 2), (a + 1, [0]), (a, [1])] with
            | .error (m, _) => .next ((s.setQueue q { x with copying := some id }).service m 1)
            | .ok (some st, s) => s.answerWith id st
            | .ok (none, s) =>
              ({ (s.devDone d r.va.toNat 64).setQueue q { x with widx := (x.widx + 1) % 2 ^ 32, idle := false, copying := none } with
                  launchq := s.launchq.filter (· ≠ id) }).answerWith id .ok
    | _ => .next s

/-! ## Spanning kernels (R402) -/

/-- Whether every other package has reported its admission of a spanning kernel, or one its refusal (R402). -/
def State.allAdmitted (s : State) (ctx n npk : Nat) : Bool := (List.range npk).all fun i => s.reports.contains (ctx, n, i + 1, true)
def State.anyRefused (s : State) (ctx n : Nat) : Bool := s.reports.any fun r => decide (r.1 = ctx) && decide (r.2.1 = n) && !r.2.2.2

/-- A report of another package reaches package 0, or package 0's decision another package: it is held until the kernel is released or killed here, and
one on a kernel of which that is done goes (R402). -/
def State.reportIn (s : State) (ctx n pkg : Nat) (ok : Bool) : State :=
  let live := (s.kernel ctx).any fun k => decide (k.npk ≠ 0) && decide (k.span = n) && !k.started && !k.killed
  if pkg = 0 ↔ s.pkgSelf ctx = 0 then s
  else if live ∨ (s.spans ≤ n ∧ !s.doomed.contains (ctx, n)) then { s with reports := s.reports ++ [(ctx, n, pkg, ok)] } else s

/-- The packet of the spanning kernel that comes next, once it is taken. -/
def State.nextSpan (s : State) (ctx : Nat) : Option Taken :=
  s.taken.find? fun t => s.isRack t.queue && decide (t.npk ≠ 0) && decide ((s.queue t.queue).ctx = ctx)

/-- The refusal of a spanning kernel of which this package has yet to admit its part: it ends as it is admitted (R402). -/
def State.doom (s : State) (ctx n : Nat) : State :=
  if n < s.spans ∨ s.doomed.contains (ctx, n) then s else { s.dropReports ctx n with doomed := s.doomed ++ [(ctx, n)] }

/-- Whether what this package holds on a spanning kernel lets it be released, or killed: package 0 has the reports, and every other package what
package 0 has decided (R402). -/
def State.decided (s : State) (ctx n npk : Nat) (ok : Bool) : Bool :=
  if s.pkgSelf ctx ≠ 0 then s.reports.contains (ctx, n, 0, ok)
  else if ok then s.allAdmitted ctx n npk
  else s.anyRefused ctx n

/-- SPANNING_RELEASE (R402): once every package has admitted, the channels from the first cross-package one on are bound, in list order, and the
entries readied; a refusal kills the package's part, now or as it is admitted. Package 0 tells the others. Reports and decisions name the kernel by
its count (notes/assumptions/88.md). -/
def execSpanningRelease (ctx : Nat) (ok : Bool) (s : State) : Host.Outcome State Fault Refusal :=
  match (s.kernel ctx).filter fun k => decide (k.npk ≠ 0) && !k.started && !k.killed with
  | none =>
    let n := s.spans
    if ok ∨ !s.decided ctx n 0 false then .next s
    else if s.pkgSelf ctx ≠ 0 then .next (s.doom ctx n)
    else
      match s.nextSpan ctx with
      | some t => .next ((s.doom ctx n).tellAll ctx n t.npk false)
      | none => .next s
  | some k =>
    if !s.decided ctx k.span k.npk ok then .next s
    else
      let s := s.dropReports ctx k.span
      let s := if s.pkgSelf ctx = 0 then s.tellAll ctx k.span k.npk ok else s
      .next (if ok then ((s.unkeepPorts ctx).bindRest ctx k).readyKernel ctx else s.killKernel ctx)

/-! ## Evicted tiles (R387) -/

/-- Whether a packet is bound for a tile that is away; what goes to a frame's image does not come to the tile. -/
def State.boundAway (s : State) (p : Packet) : Bool :=
  match p with
  | .barUp ctx i _ _ _ _ | .barDown ctx i _ _ _ | .barAbsent ctx i _ _ _ =>
    (match s.partTile ctx i with
     | some l => s.keepsFor ctx l
     | none => false)
  | .dloQuery .. | .dloReply .. => false
  | .forward .. | .keptSignal .. | .imageOp .. | .keptWake _ | .recall _ | .recallDone _ => false
  | p => (s.ctx p.ctx).tmes.any fun e => s.keepsFor p.ctx e.1 && p.boundFor p.ctx e.1

/-- Whether a packet comes behind one of its kind between its ports (R15, R254). -/
def State.behindOther (s : State) (n : Nat) (p : Packet) : Bool :=
  match p with
  | .chan q => s.chBehind n q
  | _ => false

/-- EVICTED_TILE_PACKET (R254, R387): kept at the image's home, in arrival order. A SPAWN's record is pushed in the image (R181). -/
def execEvictedTilePacket (n : Nat) (s : State) : Host.Outcome State Fault Refusal :=
  match s.net[n]? with
  | some (.spawn ..) => .next s
  | some p =>
    if !s.boundAway p ∨ s.behindOther n p then .next s
    else if s.deferredRoom p.ctx then .next { s.takePacket n with kept := s.kept ++ [p] }
    else .next (s.serviceRecord p.ctx (s.ctx p.ctx).drb.toNat 1 8 [])
  | none => .next s

end Sys2Proof.Machine
end

