-- ==== Sys2Proof/Machine/PigeonInstr.lean ====
section
/-! DEFINITION. The Pigeonhole instructions (R312 to R321), and the spill steps and replies of the table port (R304, R309). -/

namespace Sys2Proof.Machine

/-! ## Entering the port (R306, R315) -/

/-- Two ranges of bytes that meet. -/
def rangesMeet (a n b m : Nat) : Bool := decide (0 < n) && decide (0 < m) && decide (a < b + m) && decide (b < a + n)

/-- Bytes that a drain's output may take (R318). -/
def drainSpan (vec : Bool) (n : Nat) : Nat := if vec then 128 * ((n + 7) / 8) else 16 * n

/-- The local range of an operation as known at its issue (R298, R318). -/
def PhBody.span (b : PhBody) : Option (Nat × Nat) :=
  match b with
  | .drain vec false dest maxRec _ => some (dest, drainSpan vec maxRec)
  | .drain _ true .. | .claim .. | .lanes .. | .release | .read _ => none

/-- An operation enters the port as its instruction retires; with T = 0x10, or on a table with TRP = 1, the frame's OWC counts it (R306,
R312, R316). -/
def State.phEnter (s : State) (v : View) (iword : Word) (dest : Dest) (tbl : Nat) (vec : Bool) (body : PhBody) : State :=
  let c := v.t.ctx
  let l := v.t.ltn
  let q := s.newReq v iword dest (.pigeon body.span) 0 .relaxed .package false
  let q := { q with counted := q.counted || s.trpOf c l tbl (s.part c l).phq }
  let s := s.addReq q
  (s.setPhq c l ((s.part c l).phq ++ [⟨q.id, tbl, vec, body⟩])).engines c l

/-- Result words beyond the issuing frame's class with a slot target (check 6 of R315). -/
def State.resultFits (s : State) (v : View) (d : Operand) (t : Target) (n : Nat) : Bool :=
  match t with
  | .slot _ => decide (wordIndex d + n ≤ frameWords ((s.frame v.t.ref).any (·.large)))
  | .nothing | .reg _ => true

/-- Lanes of a key instruction: lane 0 in the scalar form, the active lanes in the .v form (R306, R312). -/
def State.keyLanes (s : State) (v : View) (g : Guard) (vec : Bool) (y : Operand) (val : Nat → Nat) : List PhLane :=
  if vec then
    ((List.range 8).filter fun j => active (v.t.guardMask g) j).map fun j => ⟨j, lane (v.t.vec y) 64 j, val j, .waiting⟩
  else [⟨0, (s.readOp v y).toNat, val 0, .waiting⟩]

/-- The operand Z of a key instruction in a lane. -/
def State.laneOperand (s : State) (v : View) (vec : Bool) (z : Operand) (j : Nat) : Nat :=
  if vec then lane (v.t.vec z) 64 j else (s.readOp v z).toNat

/-- A key instruction with its third source: checks 1, 5 and 6 of R315, then its lanes enter the port. -/
def State.keyBody (s : State) (v : View) (g : Guard) (iword : Word) (vec : Bool) (k : PhKind) (d x y z : Operand) (val : Nat → Nat)
    (t : Target) : Res :=
  let n := (s.readOp v x).toNat
  let l := s.keyLanes v g vec y val
  (s.checked v [([x], decide (3 < n), 0x03), ([y], l.any fun e => e.key = emptyKey, 0x19),
    ([], !s.resultFits v d t (if vec then 9 else 2), 0x04)] [x, y, z]).getD
      (retire (s.phEnter v iword (s.destOf v t (wordIndex d)) n vec (.lanes k l)) v.t)

/-! ## Claims (R297, R298) -/

/-- A claim word that breaks R297. -/
def claimBad (w : Nat) : Bool :=
  let logb := w / 2 ^ 8 % 16
  let slog := w / 2 ^ 40 % 32
  decide (w / 2 ^ 58 ≠ 0) || decide (w / 2 ^ 45 % 32 ≠ 0) || decide (w / 2 ^ 12 % 2 ^ 28 ≠ 0) || decide (w / 2 ^ 5 % 8 ≠ 0)
    || decide (logb < 7) || decide (11 < logb) || decide (62 < w / 2 ^ 52 % 64) || decide (20 < slog)
    || (decide (slog ≠ 0) && decide (w / 2 ^ 50 % 2 = 0))

/-- The table that a claim word names. -/
def tableOfWord (w spill : Nat) : PhTable :=
  let spe := claimSpills w
  PhTable.claim (w % 32) (w / 2 ^ 8 % 16) (w / 2 ^ 40 % 32) (if spe then spill else 0) (w / 2 ^ 52 % 64) spe
    (decide (w / 2 ^ 51 % 2 = 1))

/-- Bytes from the first to the last of a DMA's local side. -/
def Shape2d.localSpan (sh : Shape2d) : Nat := sh.lstride * (sh.rows - 1) + sh.rowb

/-- Earlier operations of the tile that a claim waits for, beside that Anvil's commands leave its queue (R298): a drain of Anvil may leave the queue
before it has completed, and one of a table the port. -/
def State.claimWaits (s : State) (ctx ltn : Nat) (t : PhTable) : List Nat :=
  let a := t.unit * 16384
  let n := tableUnits t.logb * 16384
  let p := s.part ctx ltn
  let dmas := s.reqs.filterMap fun q => match q.kind with
    | .dma sh _ _ => if q.ref.ctx = ctx ∧ q.ref.ltn = ltn ∧ rangesMeet a n sh.laddr sh.localSpan then some q.id else none
    | _ => none
  let chans := p.ports.filterMap fun e => e.2.op.bind fun o =>
    let span : Option (Nat × Nat) := match o.form with
      | .sendBlock b m | .recvBlock b m => some (b, m)
      | _ => none
    match o.owner, span with
    | .req id, some (b, m) => if rangesMeet a n b m then some id else none
    | _, _ => none
  let drains := s.reqs.filterMap fun q => match q.kind with
    | .pigeon (some (b, m)) => if q.ref.ctx = ctx ∧ q.ref.ltn = ltn ∧ rangesMeet a n b m then some q.id else none
    | _ => none
  let sends := p.anvil.queue.filterMap fun c => match c with
    | .drn id _ => some id
    | _ => none
  dmas ++ chans ++ drains ++ sends ++ p.anvil.draining

/-- PHCLAIM (R297, R298, R315). -/
def execPhclaim (g : Guard) (x y z : Operand) (t : Target) (s : State) : Host.Outcome State Fault Refusal :=
  issue (.phclaim g x y z t) s fun s v =>
    let n := (s.readOp v x).toNat
    let w := (s.readOp v y).toNat
    let sp := (s.readOp v z).toNat
    let tb := tableOfWord w sp
    let units := tableUnits tb.logb
    (s.checked v [([x], decide (3 < n), 0x03), ([y], claimBad w, 0x03), ([y], decide (tb.unit % units ≠ 0), 0x06),
      ([y, z], tb.spe && decide (sp % 512 ≠ 0), 0x06), ([y], decide (s.spGrant v.t.ctx < (tb.unit + units) * 16384), 0x05)]
      (if tb.spe then [x, y, z] else [x, y])).getD
      (retire (s.phEnter v (firstWord (.phclaim g x y z t)) (s.destOf v t 0xFF) n false
        (.claim tb (s.claimWaits v.t.ctx v.t.ltn tb) (s.anvil v.t.ctx v.t.ltn).allLeft none)) v.t)

/-! ## The other instructions -/

/-- PHINS (R311, R315). -/
def execPhins (g : Guard) (vec : Bool) (d x y z : Operand) (t : Target) (s : State) : Host.Outcome State Fault Refusal :=
  issue (.phins g vec d x y z t) s fun s v =>
    s.keyBody v g (firstWord (.phins g vec d x y z t)) vec .ins d x y z (s.laneOperand v vec z) t

/-- PHPRB (R311, R315). -/
def execPhprb (g : Guard) (vec : Bool) (d x y : Operand) (t : Target) (s : State) : Host.Outcome State Fault Refusal :=
  issue (.phprb g vec d x y t) s fun s v =>
    s.keyBody v g (firstWord (.phprb g vec d x y t)) vec .prb d x y .zr (fun _ => 0) t

/-- PHDEL (R311, R315). -/
def execPhdel (g : Guard) (vec : Bool) (d x y : Operand) (t : Target) (s : State) : Host.Outcome State Fault Refusal :=
  issue (.phdel g vec d x y t) s fun s v =>
    s.keyBody v g (firstWord (.phdel g vec d x y t)) vec .del d x y .zr (fun _ => 0) t

/-- PHACC (R311, R315). -/
def execPhacc (g : Guard) (vec : Bool) (kind : AccKind) (d x y z : Operand) (t : Target) (s : State) :
    Host.Outcome State Fault Refusal :=
  issue (.phacc g vec kind d x y z t) s fun s v =>
    s.keyBody v g (firstWord (.phacc g vec kind d x y z t)) vec (.acc kind) d x y z (s.laneOperand v vec z) t

/-- PHDRN (R315, R317 to R319). -/
def execPhdrn (g : Guard) (vec chan : Bool) (d x y z : Operand) (t : Target) (s : State) : Host.Outcome State Fault Refusal :=
  issue (.phdrn g vec chan d x y z t) s fun s v =>
    let n := (s.readOp v x).toNat
    let a := (s.readOp v y).toNat
    let w := (s.readOp v z).toNat
    let m := w % 2 ^ 32
    let p := s.port v.t.ctx v.t.ltn a
    (s.checked v [([x], decide (3 < n), 0x03), ([z], decide (w / 2 ^ 33 ≠ 0) || (!chan && decide (32768 < m)), 0x03),
      ([y], chan && decide (63 < a), 0x03), ([y], chan && !(p.bound && p.send), 0x21), ([y], !chan && decide (a % 64 ≠ 0), 0x06),
      ([y, z], !chan && !s.rangeOk v.t.ctx v.t.ltn a (drainSpan vec m), 0x05), ([], !s.resultFits v d t 1, 0x04)] [x, y, z]).getD
      (retire (s.phEnter v (firstWord (.phdrn g vec chan d x y z t)) (s.destOf v t (wordIndex d)) n vec
        (.drain vec chan a m (decide (w / 2 ^ 32 % 2 = 1)))) v.t)

/-- PHRLS (R299, R315). -/
def execPhrls (g : Guard) (x : Operand) (t : Target) (s : State) : Host.Outcome State Fault Refusal :=
  issue (.phrls g x t) s fun s v =>
    let n := (s.readOp v x).toNat
    if 3 < n then trapWith 0x03
    else retire (s.phEnter v (firstWord (.phrls g x t)) (s.destOf v t 0xFF) n false .release) v.t

/-- PHSTAT (R315, R320, R321). -/
def execPhstat (g : Guard) (vec : Bool) (d x y : Operand) (t : Target) (s : State) : Host.Outcome State Fault Refusal :=
  issue (.phstat g vec d x y t) s fun s v =>
    let iword := firstWord (.phstat g vec d x y t)
    if vec then s.keyBody v g iword true .stat d x y .zr (fun _ => 0) t
    else
      let n := (s.readOp v x).toNat
      let c := (s.readOp v y).toNat
      (s.checked v [([x], decide (3 < n), 0x03), ([y], decide (c / 2 ≠ 0), 0x03), ([], !s.resultFits v d t 1, 0x04)] [x, y]).getD
        (retire (s.phEnter v iword (s.destOf v t (wordIndex d)) n false (.read (decide (c = 1)))) v.t)

/-! ## Spill steps and replies -/

/-- What the port has sent to the homes of a table's groups and not yet heard: the fill of a claim, a lane's step, a drain's snapshot. -/
inductive SpillWork where
  | fill (o : PhOp) (t : PhTable) (g : Nat)
  | lane (o : PhOp) (t : PhTable) (k : PhKind) (i : Nat) (l : PhLane) (p : PhStep)
  | drain (o : PhOp) (t : PhTable)
  deriving DecidableEq, Repr

/-- Outstanding spill work, in port order. -/
def Part.spillWork (p : Part) : List SpillWork :=
  p.phq.zipIdx.flatMap fun e =>
    let o := e.1
    match o.body, p.table o.tbl with
    | .claim t _ _ (some g), _ => [.fill o t g]
    | .lanes k l, some t => l.zipIdx.filterMap fun x => match x.1.st with
        | .step q => some (.lane o t k x.2 x.1 q)
        | _ => none
    | .drain .., some t => if t.ovf && p.phTurn (p.phq.take e.2) o then [.drain o t] else []
    | _, _ => []

/-- One group of a claim's spill area filled with empty entries; a failed write withdraws the claim (R298). While the tile is away its last
write is not acknowledged (R322). -/
def State.fillGroup (s : State) (ctx ltn : Nat) (o : PhOp) (t : PhTable) (g : Nat) : State :=
  if g + 1 = 2 ^ t.slog ∧ (s.tme ctx ltn).st = .away then s
  else
  let d := s.phDev ctx ltn o.id
  match s.devWrite d (t.spill + 512 * g) ((List.replicate 32 (entryBytes (emptyKey, 0))).flatten) with
  | .ok s =>
    if g + 1 = 2 ^ t.slog then (s.dropPh ctx ltn o.id).phAnswer o.id o.tbl false .ok []
    else s.putPh ctx ltn { o with body := .claim t [] 0 (some (g + 1)) }
  | .error (.wait m) => s.service m 1
  | .error e =>
    ((((s.devFail d e).releaseTable ctx ltn o.tbl).dropPh ctx ltn o.id).phAnswer o.id o.tbl false (e.result) []).recount ctx ltn

/-- A drain that must read the spill area takes its snapshot (R317). -/
def State.drainSpill (s : State) (ctx ltn : Nat) (o : PhOp) (t : PhTable) : State :=
  let d := s.phDev ctx ltn o.id
  let done (e : DevErr) : State := match e with
    | .wait m => s.service m 0
    | e => ((s.devFail d e).dropPh ctx ltn o.id).phAnswer o.id o.tbl false (e.result) []
  match s.spillRecords d t with
  | .error e => done e
  | .ok l =>
    match s.drainTable ctx ltn o t l with
    | .error e => done e
    | .ok s => s.devDone d t.spill (512 * 2 ^ t.slog)

/-- A lane replaced in its operation. -/
def setPhLane (o : PhOp) (k : PhKind) (i : Nat) (l : PhLane) : PhOp :=
  match o.body with
  | .lanes _ ls => { o with body := .lanes k (ls.set i l) }
  | _ => o

/-- PH_SPILL_STEP (R304, R309): the n-th outstanding piece of spill work is performed at its home. -/
def execPhSpillStep (ctx ltn n : Nat) (s : State) : Host.Outcome State Fault Refusal :=
  match (s.part ctx ltn).spillWork[n]? with
  | none => .next s
  | some (.fill o t g) => .next ((s.fillGroup ctx ltn o t g).engines ctx ltn)
  | some (.drain o t) => .next (if (s.tme ctx ltn).st = .resident then (s.drainSpill ctx ltn o t).engines ctx ltn else s)
  | some (.lane o t k i l p) =>
    match s.spillStep ctx ltn t o.id l.lane k p l.key l.val with
    | .error s => .next s
    | .ok (r, s) => .next (s.putPh ctx ltn (setPhLane o k i { l with st := .replied p r }))

/-- The way that a reply fills: its key and value words are written whole, and lose their poison marks (R309, R415). -/
def Part.fillWay (p : Part) (t : PhTable) (step : PhStep) (r : PhReply) : Part :=
  match r.place, step with
  | true, .find (some w) => { p with spoison := p.spoison.filter fun x => decide (x < t.wayAddr w / 8) || decide (t.wayAddr w / 8 + 2 ≤ x) }
  | _, _ => p

/-- The replies to spill steps that are back, in port order: operation, table, kind, lane's place, lane. -/
def Part.repliesBack (p : Part) : List (PhOp × PhTable × PhKind × Nat × PhLane) :=
  p.phq.flatMap fun o =>
    match o.body, p.table o.tbl with
    | .lanes k ls, some t => ls.zipIdx.filterMap fun x => match x.1.st with
        | .replied .. => some (o, t, k, x.2, x.1)
        | _ => none
    | _, _ => []

/-- A spill reply kept at the home of an evicted tile's image, in port order among those kept for the tile (R322). -/
def State.keepReply (s : State) (ctx ltn op lane : Nat) : State :=
  let order := (s.part ctx ltn).repliesBack.map fun x => (x.1.id, x.2.2.2.1)
  let later (p : Packet) : Bool := match p with
    | .response c l (.spillReply o k) => decide (c = ctx) && decide (l = ltn) && decide (order.idxOf (op, lane) < order.idxOf (o, k))
    | _ => false
  let r : Packet := .response ctx ltn (.spillReply op lane)
  if s.kept.contains r then s
  else
    let i := s.kept.findIdx later
    { s with kept := s.kept.take i ++ r :: s.kept.drop i }

/-- PH_SPILL_REPLY (R309): the n-th reply that is back is applied at the port. A reply to an evicted tile is kept at the home of its image
(R322, R387). -/
def execPhSpillReply (ctx ltn n : Nat) (s : State) : Host.Outcome State Fault Refusal :=
  match (s.part ctx ltn).repliesBack[n]? with
  | some (o, t, k, i, l) =>
    if s.keepsFor ctx ltn then .next (s.keepReply ctx ltn o.id i)
    else
    (match l.st with
     | .replied st r =>
       let s := s.setPart ctx ltn ((s.part ctx ltn).fillWay t st r)
       let (st, t) := t.applyReply k st l.key l.val r
       .next (((s.setTable ctx ltn o.tbl t).putPh ctx ltn (setPhLane o k i { l with st := st })).engines ctx ltn)
     | _ => .next s)
  | none => .next s

end Sys2Proof.Machine
end

