-- ==== Sys2Proof/Machine/PortSteps.lean ====
section
/-! DEFINITION. The stream port's steps: the bursts of a DMA (R229, R230) and the elements of windows (R233). -/

namespace Sys2Proof.Machine

/-- DMA_BURST (R229): the next burst of a DMA is issued while the tile has fewer than 32 outstanding. A burst from scratchpad reads its
bytes later, word by word (R205). -/
def execDmaBurst (id : Nat) (s : State) : Host.Outcome State Fault Refusal :=
  match s.req id with
  | none => .next s
  | some r =>
    match r.kind with
    | .dma sh row off =>
      let c := r.ref.ctx
      let l := r.ref.ltn
      if sh.rows ≤ row ∨ r.performed ∨ burstLimit ≤ s.burstsOut c l ∨ (s.ptnOf c l).isNone then .next s
      else
        let n := sh.burstLen row off
        let la := sh.localAt row off
        let next := sh.nextBurst row off
        let s := s.setReq { r with kind := .dma sh next.1 next.2 }
        .next (s.addPart (some id)
          (s.partReq r.ref r.rtag (.burst id la n sh.toGlobal) (BitVec.ofNat 64 (sh.globalAt row off)) sh.toGlobal r.scope []))
    | _ => .next s

/-- A part whose data or acknowledgement is back. -/
def Req.partBack (q : Req) : Bool := q.performed && (!q.write || q.ackPod)

/-- Earlier bursts of the same DMA that are out and whose local bytes meet (R229). -/
def State.burstBlocked (s : State) (q : Req) (parent la n : Nat) : Bool :=
  ((s.reqs.takeWhile fun x => x.id ≠ q.id).any fun x => match x.kind with
    | .burst p a m _ => decide (p = parent) && meet a m la n
    | _ => false)

/-- The last burst completes the DMA (R230). -/
def State.settleDma (s : State) (id : Nat) : State :=
  match s.req id with
  | none => s
  | some r => if r.kind.allIssued && (s.partsOf id).isEmpty then s.setReq { r.answer r.status [] with cause := r.cause } else s

/-- DMA_BURST_DONE (R230): the burst's data land in scratchpad; a failed burst gives its status to the DMA and writes nothing. -/
def execDmaBurstDone (id b : Nat) (s : State) : Host.Outcome State Fault Refusal :=
  match s.req id, s.req b with
  | some r, some q =>
    (match q.kind with
     | .burst parent la n toGlobal =>
       if parent ≠ id ∨ !q.partBack ∨ q.parked ∨ (!toGlobal ∧ s.burstBlocked q id la n) then .next s
       else if s.keepsFor r.ref.ctx r.ref.ltn then .next (s.keepResponse r.ref.ctx r.ref.ltn (.burst id b))
       else
         let c := r.ref.ctx
         let l := r.ref.ltn
         let s := s.dropReq b
         let s := if q.status = .ok ∧ !toGlobal then
            s.setPart c l ((s.part c l).store (la + q.landed) (((datumBytes q.datum).take n).drop q.landed)) else s
         let st := worseStatus r.status q.status
         let s := s.setReq (if st = r.status then r else { r with status := st, cause := q.cause, va := q.va })
         .next (((s.settleDma id).pumpTile c l).onward r)
     | _ => .next s)
  | _, _ => .next s

/-- The pieces of an element that are out, and the STRM.adv that passed it. -/
def State.elemParts (s : State) (ctx ltn win elem : Nat) : List (Req × Option Nat) :=
  s.reqs.filterMap fun q =>
    if q.ref.ctx = ctx ∧ q.ref.ltn = ltn then
      match q.kind with
      | .fill w e _ _ => if w = win ∧ e = elem then some (q, none) else none
      | .wback w e _ _ p => if w = win ∧ e = elem then some (q, some p) else none
      | _ => none
    else none

/-- The piece that an element's failure names: the first with the element's status. -/
def failedPiece (l : List Req) (st : Status) : Option Req := l.find? fun q => decide (q.status = st)

/-- The bytes of an element's fill that have yet to land do, in the ring at their places. -/
def State.landElem (s : State) (ctx ltn : Nat) (w : Window) (elem : Nat) (l : List Req) : State :=
  l.foldl (init := s) fun s q => match q.kind with
    | .fill _ _ off n =>
      s.setPart ctx ltn ((s.part ctx ltn).store (w.elemLa elem + off + q.landed) (((datumBytes q.datum).take n).drop q.landed))
    | _ => s

/-- STREAM_FILL (R233): an element's fill lands in the ring, or its write-back is acknowledged, once each of its pieces is back, and HEAD
moves. -/
def execStreamFill (ctx ltn win elem : Nat) (s : State) : Host.Outcome State Fault Refusal :=
  let l := s.elemParts ctx ltn win elem
  match l.head?, s.window ctx ltn win with
  | some (q, parent), some w =>
    if !l.all (fun x => x.1.partBack && !x.1.parked) then .next s
    else if s.keepsFor ctx ltn then .next (s.keepResponse ctx ltn (.element win elem))
    else
      let reqs := l.map (·.1)
      let st := reqs.foldl (fun a x => worseStatus a x.status) Status.ok
      let bad := (failedPiece reqs st).getD q
      let s := reqs.foldl (fun s x => s.dropReq x.id) s
      let s := if st = .ok then s.landElem ctx ltn w elem reqs else s
      let s := s.setWindow ctx ltn win (w.elemDone elem st bad.cause bad.va)
      let s := match parent with
        | some p => s.advDone ctx ltn win p st bad.cause bad.va
        | none => s
      .next ((((s.checkNotify ctx ltn win).pumpTile ctx ltn).settleWindow ctx ltn win).onward q)
  | _, _ => .next s

/-- The next aligned 8 bytes of a request's data land in scratchpad (R130): of a burst, of an element's fill, or of a drain of a table. -/
def State.land (s : State) (id : Nat) : State :=
  match s.req id with
  | none => s
  | some q =>
    let c := q.ref.ctx
    let l := q.ref.ltn
    let put (la n : Nat) : State :=
      if n ≤ q.landed then s
      else
        let bytes := (((datumBytes q.datum).take n).drop q.landed).take 8
        (s.setReq { q with landed := q.landed + 8 }).setPart c l ((s.part c l).store (la + q.landed) bytes)
    if s.keepsFor c l ∨ q.parked then s
    else
      match q.kind with
      | .burst parent la n false => if !q.partBack ∨ q.status ≠ .ok ∨ s.burstBlocked q parent la n then s else put la n
      | .fill win elem off n =>
        (match s.window c l win with
         | some w =>
           if (s.elemParts c l win elem).all fun x => x.1.partBack && !x.1.parked && decide (x.1.status = .ok) then put (w.elemLa elem + off) n else s
         | none => s)
      | _ => if (s.part c l).pours.any fun e => e.1 = id then s.setPart c l ((s.part c l).pourUnit id) else s

end Sys2Proof.Machine
end

