-- ==== Sys2Proof/Machine/Replay.lean ====
section
/-! DEFINITION. The packets that the home of an evicted tile's image keeps, as it replays them to the tile when it is restored (R387, R388). -/

namespace Sys2Proof.Machine

/-- A request that is done completes at its tile: what a drain of a table has yet to write is written before (R130, R171, R217). -/
def State.respond (s : State) (r : Req) : State :=
  let p := s.part r.ref.ctx r.ref.ltn
  let s := if p.pours.any fun e => e.1 = r.id then s.setPart r.ref.ctx r.ref.ltn (p.pour r.id) else s
  (s.finish r).onward r

/-- The step by which a tile takes a response. -/
def State.responseStep (s : State) (ctx ltn : Nat) (r : Response) : Host.Outcome State Fault Refusal :=
  match r with
  | .arrival id =>
    .next (match s.req id with
      | some q => if !q.performed ∨ (q.write ∧ !q.ackPod) then s else s.respond q
      | none => s)
  | .ack id pod => execWriteAck id pod s
  | .burst id b => execDmaBurstDone id b s
  | .element w e => execStreamFill ctx ltn w e s
  | .spillReply op lane =>
    execPhSpillReply ctx ltn ((s.part ctx ltn).repliesBack.findIdx fun x => decide (x.1.id = op) && decide (x.2.2.2.1 = lane)) s

/-- The step by which a tile takes the n-th packet of the network; none for a packet that no tile takes. -/
def State.packetStep (s : State) (n : Nat) (p : Packet) : Option (Host.Outcome State Fault Refusal) :=
  match p with
  | .signal .. => some (execAccept n s)
  | .wake _ => some (execWake n s)
  | .image _ => some (execRefillInstall n s)
  | .stealReq .. => some (execStealServe n s)
  | .stealReply .. => some (execStealReply n s)
  | .taskReturn .. => some (execTaskReturned n s)
  | .barUp .. | .barAbsent .. => some (execBarArrival n s)
  | .barDown .. => some (execBarRelease n s)
  | .chan p => some (match p.body with
      | .ready _ => execReady n s
      | .readySelect .. => execReadySelect n s
      | .offer _ => execOffer [n] s
      | .go _ => execGo n s
      | .release _ => execRelease n s
      | .dataWords _ | .dataUnits _ => execDataLanding n s
      | .acceptance _ => execAcceptance n s
      | .refuse | .testRefused _ => execRefuse n s
      | .withdraw _ => execWithdraw n s
      | .withdrawn .. => execWithdrawAnswer n s
      | .test _ => execChannelTest n s
      | .tested .. => execTestReply n s
      | .bind .. => execBindRequest n s
      | .bound .. => execBindReply n s)
  | .response .. | .forward .. | .keptSignal .. | .imageOp .. | .keptWake _ | .recall _ | .recallDone _ | .spawn .. | .dloQuery .. | .dloReply .. =>
    none

/-- Whether the home of a tile's image keeps a packet for it. -/
def State.keptFor (s : State) (ctx ltn : Nat) (p : Packet) : Bool :=
  match p with
  | .barUp c i _ _ _ _ | .barDown c i _ _ _ | .barAbsent c i _ _ _ => decide (c = ctx) && decide (s.partTile ctx i = some ltn)
  | p => p.boundFor ctx ltn

/-- A kept packet is replayed behind the first ones of the network, as many as still wait: the tile takes it, or it has arrived there and waits with
them. -/
def State.replayOne (x : State × Nat) (p : Packet) : State × Nat :=
  match p with
  | .response ctx ltn r =>
    (match x.1.responseStep ctx ltn r with
     | .next s => (s, x.2)
     | .fault _ | .refused _ => x)
  | p =>
    let i := Nat.min x.2 x.1.net.length
    let s : State := { x.1 with net := x.1.net.take i ++ p :: x.1.net.drop i }
    match s.packetStep i p with
    | some (.next u) => (u, if u.net.count p < s.net.count p then i else i + 1)
    | some (.fault _) | some (.refused _) | none => (s, i + 1)

/-- The packets kept for a tile that has been installed are replayed in the order in which they arrived; those that wait stand before what arrives later
(R254, R388). -/
def State.replayKept (s : State) (ctx ltn : Nat) : State :=
  let mine := s.kept.filter (s.keptFor ctx ltn)
  (mine.foldl State.replayOne ({ s with kept := s.kept.filter fun p => !s.keptFor ctx ltn p }, 0)).1

end Sys2Proof.Machine
end

