-- ==== Sys2Proof/Machine/SysRegs.lean ====
section
/-! DEFINITION. System registers (R360 to R365, R397, R402, R424, R429): selectors, the checks of R377, reading and writing. -/

namespace Sys2Proof.Machine

/-- A selector's fields (R362). -/
structure Sel where
  space : Nat
  ltn : Nat
  core : Nat
  ctx : Nat
  idx : Nat
  reg : Nat
  deriving DecidableEq, Repr

/-- The fields of a selector. -/
def selOf (w : Word) : Sel :=
  let n := w.toNat
  ⟨n / 2 ^ 62, n / 2 ^ 48 % 4096, n / 2 ^ 46 % 4, n / 2 ^ 40 % 64, n / 2 ^ 12 % 4096, n % 4096⟩

/-- How software may use a register (R5). -/
inductive RegAccess where
  | rw
  | ro
  | hw
  | wo
  | w1c
  deriving DecidableEq, Repr

/-- A row of R363: the values of IDX, or 0 for a register without one, the access, the MBZ bits, and the mark U. -/
structure RegRow where
  count : Nat
  access : RegAccess
  mbz : Word
  user : Bool
  deriving DecidableEq, Repr

/-- Bits hi to lo of a word. -/
def bitsMask (hi lo : Nat) : Word := BitVec.ofNat 64 (2 ^ (hi + 1) - 2 ^ lo)

/-- The registers of each space (R363, R397, R402, R424, R429). A register whose table gives only its low bits reads and takes zero
above them. -/
def regRow (space reg : Nat) : Option RegRow :=
  match space, reg with
  | 0, 0x001 => some ⟨256, .rw, bitsMask 5 0, false⟩
  | 0, 0x002 => some ⟨256, .rw, 0, false⟩
  | 0, 0x003 => some ⟨256, .hw, 0, false⟩
  | 0, 0x010 => some ⟨0, .ro, bitsMask 63 6, false⟩
  | 0, 0x011 => some ⟨0, .ro, bitsMask 63 0, false⟩
  | 0, 0x012 => some ⟨0, .rw, bitsMask 63 6, false⟩
  | 0, 0x013 => some ⟨0, .rw, bitsMask 63 0, false⟩
  | 0, 0x014 => some ⟨0, .rw, bitsMask 63 3, false⟩
  | 0, 0x020 => some ⟨0, .rw, bitsMask 63 32, false⟩
  | 0, 0x030 => some ⟨0, .hw, 0, false⟩
  | 0, 0x040 => some ⟨0, .hw, 0, false⟩
  | 0, 0x041 => some ⟨256, .rw, 0, false⟩
  | 0, 0x042 => some ⟨64, .rw, bitsMask 63 17 ||| bitsMask 15 10 ||| bitsMask 7 2, false⟩
  | 0, 0x043 => some ⟨0, .rw, bitsMask 62 6, false⟩
  | 0, 0x044 => some ⟨0, .rw, bitsMask 62 8, false⟩
  | 0, 0x050 => some ⟨0, .hw, 0, false⟩
  | 0, 0x051 => some ⟨0, .hw, 0, false⟩
  | 0, 0x052 => some ⟨0, .rw, bitsMask 63 16, false⟩
  | 0, 0x053 => some ⟨1024, .hw, 0, false⟩
  | 0, 0x060 => some ⟨0, .hw, bitsMask 31 23 ||| bitsMask 13 4, false⟩
  | 1, 0x100 => some ⟨0, .rw, bitsMask 53 48 ||| bitsMask 15 0, false⟩
  | 1, 0x101 => some ⟨0, .hw, bitsMask 53 48 ||| bitsMask 15 0, true⟩
  | 1, 0x102 => some ⟨0, .rw, bitsMask 63 10, false⟩
  | 1, 0x103 => some ⟨0, .rw, bitsMask 63 52 ||| bitsMask 11 4, false⟩
  | 1, 0x104 => some ⟨0, .rw, bitsMask 6 0, false⟩
  | 1, 0x105 => some ⟨0, .rw, bitsMask 63 6, false⟩
  | 1, 0x106 => some ⟨0, .rw, 0, false⟩
  | 1, 0x107 => some ⟨0, .rw, 0, false⟩
  | 1, 0x108 => some ⟨0, .rw, 0, false⟩
  | 1, 0x109 => some ⟨0, .rw, bitsMask 62 13, false⟩
  | 1, 0x10A => some ⟨0, .wo, bitsMask 63 1, false⟩
  | 1, 0x10B => some ⟨4096, .hw, bitsMask 61 13, false⟩
  | 1, 0x110 => some ⟨256, .rw, bitsMask 61 8, false⟩
  | 1, 0x111 => some ⟨0, .rw, bitsMask 63 8, true⟩
  | 2, 0x200 => some ⟨0, .rw, bitsMask 63 32, false⟩
  | 2, 0x201 => some ⟨0, .rw, bitsMask 63 32, false⟩
  | 2, 0x202 => some ⟨0, .rw, bitsMask 63 32, false⟩
  | 2, 0x203 => some ⟨0, .hw, bitsMask 6 0, false⟩
  | 2, 0x204 => some ⟨0, .hw, bitsMask 63 6, false⟩
  | 2, 0x210 => some ⟨0, .w1c, bitsMask 63 6, true⟩
  | 2, 0x211 => some ⟨0, .hw, 0, false⟩
  | 3, 0x300 => some ⟨256, .hw, bitsMask 19 8, false⟩
  | 3, 0x301 => some ⟨2048, .hw, bitsMask 19 11 ||| bitsMask 3 0, false⟩
  | 3, 0x302 => some ⟨2048, .hw, bitsMask 27 24, false⟩
  | _, _ => none

/-- The source codes of R422. -/
def rasSources : List Nat := [1, 2, 3, 4, 5, 6, 7, 8, 0x10, 0x11, 0x12, 0x18, 0x19, 0x1A, 0x20, 0x21, 0x22, 0x30, 0x31, 0x32]

/-- A selector that R362 and R363 allow, with its row (R424 for RASCNT's index). -/
def selRow (w : Word) : Option RegRow :=
  let x := selOf w
  match regRow x.space x.reg with
  | none => none
  | some r =>
    let fields := decide (w.toNat / 2 ^ 60 % 4 = 0) && decide (w.toNat / 2 ^ 24 % 2 ^ 16 = 0) && (decide (2 ≤ x.space) || decide (x.ltn = 0))
      && (decide (x.space = 3) || decide (x.core = 0)) && (decide (x.space ≠ 0) || decide (x.ctx = 0))
    let idx := if r.count = 0 then decide (x.idx = 0) else decide (x.idx < r.count)
    let ras := !(decide (x.space = 0) && decide (x.reg = 0x053)) || (decide (x.idx / 64 ≤ 9) && rasSources.contains (x.idx % 64))
    if fields && idx && ras then some r else none

/-- R364: what a context that is not privileged may read. -/
def State.userMay (s : State) (r : RegRow) (x : Sel) (ctx : Nat) : Bool :=
  r.user && decide (x.ctx = ctx) && (!(decide (x.space = 2) && decide (x.reg = 0x210)) || decide (x.ltn < ((s.kernel ctx).map (·.area)).getD 0))

/-! ## Reading -/

/-- CTXD (R360). -/
def Ctx.word (c : Ctx) : Word :=
  BitVec.ofNat 64 ((if c.valid then 2 ^ 63 else 0) + (if c.priv then 2 ^ 62 else 0) + (if c.ien then 2 ^ 61 else 0) + c.fen.toNat * 2 ^ 56
    + c.dlm % 4 * 2 ^ 54 + c.ptr.toNat * 2 ^ 16)

/-- TME (R386). -/
def Tme.word (t : Tme) : Word :=
  BitVec.ofNat 64 (match t.st with
    | .unmapped => 0
    | .resident => 2 ^ 62 + t.ptn
    | .away => 2 * 2 ^ 62
    | .moving => 3 * 2 ^ 62)

/-- HMSTAT (R429). -/
def Hallmark.status (h : Hallmark) : Word :=
  BitVec.ofNat 64 (h.minsvn % 2 ^ 16 * 2 ^ 48 + h.svn % 2 ^ 16 * 2 ^ 32 + h.slotb % 2 ^ 9 * 2 ^ 14 + (if h.tamp then 8 else 0)
    + (if h.iderase then 4 else 0) + (if h.idgone then 2 else 0) + (if h.booted then 1 else 0))

/-- LANES of PORTM (R398). -/
def lanesField (n : Nat) : Nat := if n = 4 then Config.lanesFour.toNat else n % 4
/-- PORTM (R398). -/
def PortMode.word (m : PortMode) : Word := BitVec.ofNat 64 ((if m.up then 2 ^ 16 else 0) + lanesField m.lanes * 2 ^ 8 + m.mode % 4)

/-- PKGST (R363). -/
def State.pkgst (s : State) : Word := BitVec.ofNat 64 ((if s.halted then 1 else 0) + (if s.halted then s.haltCode.toNat * 2 ^ 32 else 0))

/-- The frame of a number on a physical core, whichever context owns it. -/
def State.frameAt (s : State) (ptn core frm : Nat) : Option (FrameRef × Frame) := (s.framesOn ptn core).find? fun e => e.1.frm = frm

/-- A core-space register of a frame that is AWAY (R142 to R144, R363), read in its image: the value that it would hold if the frame were
resident, with PGR a free value (R142), or why the image cannot be read (notes/assumptions/3.md). -/
def State.imageReg (s : State) (d : Dev) (r : FrameRef) (f : Frame) (x : Sel) : Except DevErr Word :=
  match s.imagePhys d r .read with
  | .error e => .error e
  | .ok p =>
    let lost : Option Nat := ((if x.reg = 0x300 then [96] else [8 * (x.idx % 8), 64 + 4 * (x.idx % 8)]).find? fun o =>
      s.granules.contains ((p.pa + o) / 32))
    match lost with
    | some o => .error (.poison (some { p with pa := p.pa + o }))
    | none =>
      let y := s.imageSlot p (x.idx % 8)
      .ok (match x.reg with
        | 0x300 =>
          mapEntry r.ctx { f with st := if f.nt = 0 then .live else .parked, moving := .no, pgr := (Config.freeValue 8 s.fresh).toNat }
            ((s.partCore r.ctx r.ltn r.core).qn r.frm)
        | 0x301 => BitVec.ofNat 64 y.toCell
        | _ => y.toWord)

/-- A core-space register (R142 to R144, R363). -/
def State.coreReg (s : State) (ptn : Nat) (who : Waiter) (x : Sel) : Except DevErr Word :=
  let frm := if x.reg = 0x300 then x.idx else x.idx / 8
  match s.frameAt ptn x.core frm with
  | none => .ok (if x.reg = 0x300 then BitVec.ofNat 64 (Tab.get 0 (s.coreAt ptn x.core).rtags frm % 2 ^ 15 * 2 ^ 39) else 0)
  | some (r, f) =>
    if f.st = .away then s.imageReg ⟨r.ctx, ptnDie ptn, who⟩ r f x
    else
      .ok (match x.reg with
        | 0x300 => mapEntry r.ctx f ((s.partCore r.ctx r.ltn r.core).qn r.frm)
        | 0x301 => BitVec.ofNat 64 (f.slot (x.idx % 8)).toCell
        | _ => (f.slot (x.idx % 8)).toWord)

/-- A package register (R363, R397, R402, R424, R429). -/
def State.packageReg (s : State) (x : Sel) : Word :=
  match x.reg with
  | 0x001 => (s.queue x.idx).desc
  | 0x002 => (s.queue x.idx).ria
  | 0x003 => BitVec.ofNat 64 ((s.queue x.idx).ridx % 2 ^ 32 * 2 ^ 32 + (s.queue x.idx).widx % 2 ^ 32)
  | 0x010 => 0x3F
  | 0x012 => s.feat0a
  | 0x013 => s.feat1a
  | 0x014 => if s.featDone then 4 else 0
  | 0x020 => s.dnotc.setWidth 64
  | 0x030 => s.pkgst
  | 0x040 => s.podid
  | 0x041 => Tab.get 0 s.route x.idx
  | 0x042 => (Tab.get PortMode.reset s.portm x.idx).word
  | 0x043 => s.ualctx
  | 0x044 => s.rackq
  | 0x050 => s.rasSeq
  | 0x051 => s.rasDrop.setWidth 64
  | 0x052 => s.cethr
  | 0x053 =>
    let c := Tab.get (0, 0) s.rasCnt (x.idx / 64 * 64 + x.idx % 64)
    BitVec.ofNat 64 (c.1 % 2 ^ 32 * 2 ^ 32 + c.2 % 2 ^ 32)
  | 0x060 => s.hallmark.status
  | _ => 0

/-- A context register (R363, R397); CKILL reads zero. -/
def State.contextReg (s : State) (x : Sel) : Word :=
  let c := s.ctx x.ctx
  match x.reg with
  | 0x100 => c.word
  | 0x101 => c.word &&& ~~~(bitsMask 47 16)
  | 0x102 => BitVec.ofNat 64 (c.weight % 256 + c.cls % 4 * 256)
  | 0x103 => c.tqb
  | 0x104 => c.thc
  | 0x105 => c.thx
  | 0x106 => c.evb
  | 0x107 => c.drb
  | 0x108 => c.drs
  | 0x109 => c.tsel
  | 0x10B => (s.tme x.ctx x.idx).word
  | 0x110 => Tab.get 0 c.pkgmap x.idx
  | 0x111 => c.pkgself
  | _ => 0

/-- A tile register (R363). -/
def State.tileReg (s : State) (ptn : Nat) (x : Sel) : Word :=
  let t := s.tile ptn
  match x.reg with
  | 0x200 => t.stale.setWidth 64
  | 0x201 => t.excess.setWidth 64
  | 0x202 => t.undel.setWidth 64
  | 0x203 => t.slogc
  | 0x204 => t.slogx
  | 0x210 => (s.part x.ctx x.ltn).sflag.setWidth 64
  | 0x211 => (s.part x.ctx x.ltn).asn
  | _ => 0

/-- The value of a register; none where its tile is unmapped or evicted (R365). -/
def State.sysGet (s : State) (who : Waiter) (w : Word) : Option (Except DevErr Word) :=
  let x := selOf w
  match x.space with
  | 0 => some (.ok (s.packageReg x))
  | 1 => some (.ok (s.contextReg x))
  | 2 => (s.ptnOf x.ctx x.ltn).map fun ptn => .ok (s.tileReg ptn x)
  | _ => (s.ptnOf x.ctx x.ltn).map fun ptn => s.coreReg ptn who x

/-- The state past a read: a core-space register may have taken a free value, and the image has been read. -/
def State.pastRead (s : State) (who : Waiter) (w : Word) : State :=
  let x := selOf w
  if x.space = 3 then
    match (s.ptnOf x.ctx x.ltn).bind fun ptn => (s.frameAt ptn x.core (if x.reg = 0x300 then x.idx else x.idx / 8)).map fun e => (ptn, e.1) with
    | some (ptn, r) => { s with fresh := s.fresh + 1 }.devDone ⟨r.ctx, ptnDie ptn, who⟩ (s.imageVa r) 2048
    | none => { s with fresh := s.fresh + 1 }
  else s

/-- The same where the image could not be read: the records that the access leaves. -/
def State.failedRead (s : State) (who : Waiter) (w : Word) (e : DevErr) : State :=
  let x := selOf w
  match (s.ptnOf x.ctx x.ltn).bind fun ptn => (s.frameAt ptn x.core (if x.reg = 0x300 then x.idx else x.idx / 8)).map fun f => (ptn, f.1) with
  | some (ptn, r) => s.devFail ⟨r.ctx, ptnDie ptn, who⟩ e
  | none => s

/-! ## Writing -/

/-- MBZ bits of the value, with LCTX where DEV = 0 (R336). -/
def mbzOf (x : Sel) (r : RegRow) (y : Word) : Word :=
  if x.space = 0 ∧ x.reg = 0x001 ∧ !y.getLsbD 62 then r.mbz ||| bitsMask 11 6 else r.mbz

/-- A value with a field outside its stated range (R13, R336, R363, R374). -/
def outOfRange (x : Sel) (y : Word) : Bool :=
  match x.space, x.reg with
  | 0, 0x001 =>
    let lg := y.toNat / 2 ^ 50 % 16
    decide (13 ≤ lg) || decide (y.toNat % 2 ^ 50 / 2 ^ 12 * 2 ^ 12 % 2 ^ (lg + 10) ≠ 0)
  | 0, 0x002 => decide (y.toNat % 8 ≠ 0) || decide (2 ^ 52 ≤ y.toNat)
  | 1, 0x103 => decide (13 ≤ y.toNat % 16)
  | 1, 0x106 => decide (y.toNat % 2 ^ 21 ≠ 0)
  | 1, 0x107 => decide (y.toNat % 4096 ≠ 0)
  | 1, 0x109 => decide (34 ≤ ptnCol (y.toNat % 2 ^ 13))
  | _, _ => false

/-- The checks of R377 on the value of a SYSW, with the descriptor that is written while EN = 1 (R336): the cause. -/
def State.valueCheck (s : State) (w : Word) (r : RegRow) (y : Word) : Option Nat :=
  let x := selOf w
  if y &&& mbzOf x r y ≠ 0 then some 0x02
  else if r.access = .hw ∨ r.access = .ro ∨ outOfRange x y then some 0x03
  else if x.space = 0 ∧ x.reg = 0x001 ∧ (s.queue x.idx).en then some 0x03
  else none

/-- Contexts with a resident kernel. -/
def State.anyResident (s : State) : Bool := s.ctxs.any fun e => e.2.kernel.isSome

/-- Writes of the feature words and of FEATC (R357, R358). -/
def State.putFeature (s : State) (reg : Nat) (y : Word) : State :=
  match reg with
  | 0x012 => if s.featDone then s else { s with feat0a := y &&& 0x3F }
  | 0x013 => if s.featDone then s else { s with feat1a := 0 }
  | _ =>
    let s := if y.getLsbD 1 && !s.anyResident then { s with featDone := false } else s
    if y.getLsbD 0 then { s with featDone := true } else s

/-- CTXD (R361): refused in the states that rule forbids. THC, whose fields R145 gives a dash, never holds state from an earlier context (R5): as
VALID goes it takes a free value, a moment that is a DESIGN CHOICE (notes/assumptions/61.md). -/
def State.putCtxd (s : State) (ctx : Nat) (y : Word) : Status × State :=
  let c := s.ctx ctx
  let valid := y.getLsbD 63
  let priv := y.getLsbD 62
  let base := c.tqb.toNat / 2 ^ 12 % 2 ^ 40
  let named := s.queues.any fun e => e.2.en && (decide (e.2.ctx = ctx) || (e.2.dev && decide (e.2.lctx = ctx)))
  if (valid ∧ base = 0) ∨ (c.kernel.isSome ∧ (valid ≠ c.valid ∨ priv ≠ c.priv)) ∨ (!valid ∧ named) then (.refused, s)
  else
    let (thc, s) := if c.valid && !valid then s.free 64 else (c.thc, s)
    (.ok, s.setCtx ctx { c with
      thc := if c.valid && !valid then thc &&& ~~~bitsMask 6 0 else thc
      valid := valid
      priv := priv
      ien := y.getLsbD 61
      fen := BitVec.ofNat 5 (y.toNat / 2 ^ 56 % 32)
      ptr := BitVec.ofNat 32 (y.toNat / 2 ^ 16 % 2 ^ 32) })

/-- CWGT (R385): the weight, on every core of the context's tiles. -/
def State.putWeight (s : State) (ctx : Nat) (y : Word) : State :=
  let s := s.setCtx ctx { s.ctx ctx with weight := y.toNat % 256 }
  (s.ctx ctx).tmes.foldl (init := s) fun s e =>
    (List.range 4).foldl (fun s k => s.settleCore ctx e.1 k) s

/-- QDESC (R336, R339, R358): ERR clears; a queue is not enabled while DONE = 0, nor written while EN = 1. -/
def State.putQdesc (s : State) (q : Nat) (y : Word) : Status × State :=
  let x := s.queue q
  if x.en ∨ (y.getLsbD 63 ∧ !s.featDone) then (.refused, s)
  else (.ok, s.setQueue q { x.forget with desc := y &&& ~~~(1#64 <<< 60), idle := false })

/-- PORTM (R398): a change of mode takes the port down. -/
def State.putPortm (s : State) (p : Nat) (y : Word) : Status × State :=
  let mode := y.toNat % 4
  let m := Tab.get PortMode.reset s.portm p
  if mode = 3 ∨ (mode = 1 ∧ !s.feature 4) then (.refused, s)
  else (.ok, if mode = m.mode then s else { s with portm := Tab.put s.portm p ⟨false, 0, mode⟩ })

/-- A package register written (R363, R397, R402, R424). -/
def State.putPackage (s : State) (x : Sel) (y : Word) : Status × State :=
  match x.reg with
  | 0x001 => s.putQdesc x.idx y
  | 0x002 => (.ok, s.setQueue x.idx { s.queue x.idx with ria := y })
  | 0x012 | 0x013 | 0x014 => (.ok, s.putFeature x.reg y)
  | 0x020 => (.ok, { s with dnotc := y.setWidth 32 })
  | 0x041 => (.ok, { s with route := Tab.set 0 s.route x.idx y })
  | 0x042 => s.putPortm x.idx y
  | 0x043 => (.ok, { s with ualctx := y })
  | 0x044 => (.ok, { s with rackq := y })
  | 0x052 => (.ok, { s with cethr := y })
  | _ => (.ok, s)

/-- A context register written (R363, R397). -/
def State.putContext (s : State) (x : Sel) (y : Word) : Status × State :=
  let c := s.ctx x.ctx
  match x.reg with
  | 0x100 => s.putCtxd x.ctx y
  | 0x102 => (.ok, s.putWeight x.ctx y)
  | 0x103 => (.ok, s.setCtx x.ctx { c with tqb := y })
  | 0x104 => (.ok, s.setCtx x.ctx { c with thc := y })
  | 0x105 => (.ok, s.setCtx x.ctx { c with thx := y })
  | 0x106 => (.ok, s.setCtx x.ctx { c with evb := y })
  | 0x107 => (.ok, s.setCtx x.ctx { c with drb := y })
  | 0x108 => (.ok, s.setCtx x.ctx { c with drs := y })
  | 0x109 => (.ok, s.setCtx x.ctx { c with tsel := y })
  | 0x10A => (.ok, if y.getLsbD 0 then s.killKernel x.ctx else s)
  | 0x110 => (.ok, s.setCtx x.ctx { c with pkgmap := Tab.set 0 c.pkgmap x.idx y })
  | 0x111 => (.ok, s.setCtx x.ctx { c with pkgself := y })
  | _ => (.ok, s)

/-- A tile register written (R363); SFLAG clears the bits written as 1. -/
def State.putTile (s : State) (ptn : Nat) (x : Sel) (y : Word) : State :=
  let t := s.tile ptn
  match x.reg with
  | 0x200 => s.setTile ptn { t with stale := y.setWidth 32 }
  | 0x201 => s.setTile ptn { t with excess := y.setWidth 32 }
  | 0x202 => s.setTile ptn { t with undel := y.setWidth 32 }
  | 0x210 =>
    let p := s.part x.ctx x.ltn
    s.setPart x.ctx x.ltn { p with sflag := p.sflag &&& ~~~(y.setWidth 6) }
  | _ => s

/-- A SYSW at its register (R365). -/
def State.sysPut (s : State) (w y : Word) : Status × State :=
  let x := selOf w
  match x.space with
  | 0 => s.putPackage x y
  | 1 => s.putContext x y
  | 2 =>
    (match s.ptnOf x.ctx x.ltn with
     | some ptn => (.ok, s.putTile ptn x y)
     | none => (.refused, s))
  | _ => (.ok, s)

end Sys2Proof.Machine
end

