-- ==== Sys2Proof/Machine/Evict.lean ====
section
/-! DEFINITION. Eviction and its resume (R387 to R389). -/

namespace Sys2Proof.Machine

/-- The tile word of EVICT (R387). -/
def tileCtx (w : Word) : Nat := w.toNat / 2 ^ 12 % 64
def tileLtn (w : Word) : Nat := w.toNat % 4096

/-- The base of a tile's image (R385). -/
def State.tileImage (s : State) (ctx ltn : Nat) : Nat := (s.ctx ctx).evb.toNat + 2 ^ 21 * ltn

/-- Step 2 of EVICT.save (R37, R387): each seat of the context stops at an instruction boundary and stays in SAVE until the image is written
(R22), and a seat in SAVE is taken with its trap still pending (R389). A seat whose instruction has made some of its accesses stops once that
has retired (notes/assumptions/65.md). -/
def State.stopSeatsOf (s : State) (ctx ltn ptn : Nat) : State :=
  (List.range 16).foldl (init := s) fun s n =>
    let p : SeatId := ⟨ptn, n / 4, n % 4⟩
    match s.seat p with
    | .run t =>
      if t.ctx = ctx ∧ t.ltn = ltn ∧ (t.mid.any fun m => decide (m.steps ≠ 0)) = false then
        let a := s.part ctx ltn
        let t := { t with mid := none }
        let s := s.setPart ctx ltn { a with stopped := a.stopped ++ [(n / 4, t)] }
        (s.modFrame t.ref fun f => { f with runs := f.runs - 1 }).setSeat p (.save t)
      else s
    | .save t =>
      if t.ctx = ctx ∧ t.ltn = ltn then
        { s with jobs := s.jobs.map fun j => if j.seat = some p then { j with seat := none } else j }
      else s
    | .idle => s

/-- Steps 1 and 2 of EVICT.save (R387): no more picks, and the seats stop. -/
def State.stopTile (s : State) (ctx ltn ptn : Nat) : State :=
  let s := (s.setTme ctx ltn ⟨.moving, ptn⟩).stopSeatsOf ctx ltn ptn
  (List.range 4).foldl (fun s k => s.settleRot ptn k) s

/-- A port through which data are moving: to a send, until every acceptance is back, or toward a receive (R254). -/
def State.portMoves (s : State) (ctx ltn : Nat) (e : Nat × Port) : Bool :=
  e.2.op.any (fun o => !o.moving.isEmpty) || s.net.any fun p => match p with
    | .chan ⟨c, _, d, .dataWords _⟩ | .chan ⟨c, _, d, .dataUnits _⟩ => decide (c = ctx) && decide (d = ⟨s.pkgSelf ctx, ltn, e.1⟩)
    | _ => false

/-- Step 3 of EVICT.save (R254, R295, R387): nothing is under way that must finish first. -/
def State.tileStill (s : State) (ctx ltn : Nat) : Bool :=
  let p := s.part ctx ltn
  !s.runsOn ctx ltn && p.ports.all (fun e => !s.portMoves ctx ltn e) && p.anvil.writing.isNone
    && p.cores.all fun c => c.2.frames.all fun f => decide (f.2.moving = .no)

/-- A read window is filled anew beyond HEAD after the resume (R235): fills that are out are forgotten. -/
def Window.refill (w : Window) : Window := if w.write then w else { w with issued := w.head / w.elem, landed := [] }

/-- Poisoned blocks that the run at the head of Anvil's queue holds: read ahead of their steps, or yet to be forwarded (R285, R286, R416). -/
def Anvil.poisonedAhead (e : Anvil) : Nat :=
  match e.queue with
  | .run r :: _ => (r.ahead.filter fun b => decide (b.1 = .poison) || b.2.poisoned).length + (r.forward.filter (·.poisoned)).length
  | _ => 0

/-- Blocks that a posted operation sends marked as poisoned (R247, R286). -/
def Port.poisonedSend (q : Port) : Bool :=
  q.op.any fun o => match o.form with
    | .sendBytes _ bad => bad
    | _ => false

/-- Poisoned words that a part holds: of frames, of the scratchpad, of Anvil and of posted sends (R415, R416, R418). -/
def Part.poisonedWords (p : Part) : Nat :=
  p.spoison.length + p.anvil.apoison.length + p.anvil.accBad.length + (p.anvil.latch.filter (·.poisoned)).length + p.anvil.poisonedAhead
    + (p.ports.filter fun e => e.2.poisonedSend).length
    + (p.cores.map fun c => (c.2.frames.map fun f => f.2.poison.length + f.2.badSlots.length).foldl (· + ·) 0).foldl (· + ·) 0

/-- Free granule numbers of a tile's image. -/
def State.freeGranules (s : State) : Nat → List Nat × State
  | 0 => ([], s)
  | n + 1 =>
    let (g, s) := s.free 16
    let (l, s) := s.freeGranules n
    (g.toNat :: l, s)

/-- The bytes of a tile's image, and its granules that carry poison, one for each poisoned word: which, the stepping's layout decides (R385, R416). They
are laid out once for a save, which may have to wait. -/
def State.layImage (s : State) (ctx ltn : Nat) : State :=
  let a := s.part ctx ltn
  let (h, s) : BitVec 16777216 × State := match a.image with
    | some h => (h, s)
    | none => s.free 16777216
  let (l, s) := s.freeGranules (a.poisonedWords - a.imageBad.length)
  s.setPart ctx ltn { a with image := some h, imageBad := (a.imageBad ++ l).take a.poisonedWords }

/-- The granules of the image that carry poison, by their addresses and where they lie. -/
def State.imageMarks (s : State) (d : Dev) (ltn : Nat) : List (Nat × Phys) :=
  (s.part d.ctx ltn).imageBad.filterMap fun g =>
    let va := s.tileImage d.ctx ltn + 32 * g
    match s.devXlat d va .write with
    | .ok p => some (va, p)
    | .error _ => none

/-- The marks that another package sets are acknowledged (R194, R416). -/
def State.farMarks (s : State) (d : Dev) (l : List (Nat × Phys)) : Except DevErr Unit :=
  l.foldl (init := .ok ()) fun acc e =>
    match acc, e.2.home with
    | .ok (), .remote pkg => (s.farAccess d e.1 e.2 pkg .poison).map fun _ => ()
    | acc, _ => acc

/-- The bytes of a tile's image. -/
def tileBytes (h : BitVec 16777216) : List Byte := leBytes 2097152 h.toNat

/-- Step 4 of EVICT.save (R387, R416): the image is written, 2 MiB whose bytes the specification leaves to the stepping, with its poison marks. -/
def State.writeTile (s : State) (d : Dev) (ltn : Nat) (h : BitVec 16777216) : Except DevErr State :=
  let l := s.imageMarks d ltn
  let near := l.filterMap fun e => match e.2.home with
    | .hbm | .ld => some (e.2.pa / 32)
    | .host | .remote _ => none
  let host := l.flatMap fun e => if e.2.home = .host then wordsOf e.2.pa 32 else []
  ((near.foldl (fun s g => s.poisonWatches g) s).devPut d (s.tileImage d.ctx ltn) 2097152 (tileBytes h)).bind fun u =>
    (s.farMarks d l).map fun _ =>
      let u := near.foldl (fun s g => s.markGranule g false) u
      { u with hostBad := u.hostBad ++ (host.filter fun w => !u.hostBad.contains w).eraseDups }

/-- Steps 4 and 5 of EVICT.save (R387): what the physical tile held of the context leaves with its part, its seats are IDLE, and the tile is AWAY. -/
def State.leaveTile (s : State) (ctx ltn ptn : Nat) : State :=
  let a := s.part ctx ltn
  let s := s.setPart ctx ltn { a with windows := a.windows.map fun w => (w.1, w.2.refill) }
  let s : State := { s with reqs := s.reqs.filter fun q => !(decide (q.ref.ctx = ctx) && decide (q.ref.ltn = ltn) && (match q.kind with
    | .fill .. => true
    | _ => false)) }
  let s : State := (List.range 4).foldl (init := s) fun s k =>
    let c := s.coreAt ptn k
    let mine : List Task := (c.deque.filter fun e => e.1 = ctx).map (·.2)
    let x := s.partCore ctx ltn k
    let s := s.setPartCore ctx ltn k { x with deque := x.deque ++ mine, kept := x.kept + (c.reserved.filter fun r => r = ctx).length }
    s.setCore ptn k { c with deque := c.deque.filter fun e => e.1 ≠ ctx, reserved := c.reserved.filter fun r => r ≠ ctx }
  (s.endSaves ctx ltn ptn).setTme ctx ltn ⟨.away, 0⟩

/-- A physical tile that a part has left (R387): its queues take what waits, and the port goes on with the windows of its other contexts (R229, R233). -/
def State.tileLeft (s : State) (ptn : Nat) : State :=
  let s : State := (List.range 4).foldl (fun s k => (s.settleRot ptn k).drainOverflow ptn k) s
  (s.ctxsOn ptn).foldl (fun s e => s.pumpWindows e.1 e.2) s

/-- Steps 4 to 6 of EVICT.save (R387): the image is written, the part leaves, and the map entry is reported. -/
def State.saveTile (s : State) (ctx ltn : Nat) : Except DevErr State :=
  match s.ptnOf ctx ltn, (s.part ctx ltn).image with
  | none, _ | _, none => .ok s
  | some ptn, some h =>
    (s.writeTile ⟨ctx, ptnDie ptn, .tile ltn⟩ ltn h).map fun s =>
      let s := (s.leaveTile ctx ltn ptn).tileLeft ptn
      let k := s.kernel ctx
      s.residency 3 ctx ((k.map (·.queue)).getD 0) ((k.map (·.ridx)).getD 0) ltn

/-- Entries of a resumed part beyond the room of a core's ready queue wait for places, in their order (notes/assumptions/35.md, 52.md). -/
def State.trimReady (s : State) (ctx ltn ptn core : Nat) : State :=
  let excess := s.readyTaken ptn core - Config.readyPlaces
  let c := s.partCore ctx ltn core
  let n := c.ready.length - Nat.min excess c.ready.length
  s.setPartCore ctx ltn core { c with ready := c.ready.take n, late := c.ready.drop n ++ c.late }

/-- The threadlets of stopped seats go back first in their class (R388), as far as the ready queues have places (R152). -/
def State.restoreSeats (s : State) (ctx ltn ptn : Nat) : State :=
  let a := s.part ctx ltn
  let s := s.setPart ctx ltn { a with stopped := [], image := none, imageBad := [] }
  let s := s.setTme ctx ltn ⟨.resident, ptn⟩
  let s : State := a.stopped.reverse.foldl (init := s) fun s e =>
    let c := s.partCore ctx ltn e.1
    let r : Ready := ⟨e.2.frm, e.2.sig.toNat % 8, 0, e.2.sig, e.2.cls, some e.2, true⟩
    s.setPartCore ctx ltn e.1 { c with ready := r :: c.ready }
  (List.range 4).foldl (fun s k => (s.trimReady ctx ltn ptn k).settleRot ptn k) s

/-- An eviction goes on (R387): once nothing is under way it is saved, and its request is answered. One that a kill has ended is refused, and
one whose image cannot be written leaves the tile RESIDENT (notes/assumptions/64.md). -/
def State.evictStep (s : State) (id : Nat) : State :=
  match s.req id with
  | some { kind := .evict ctx ltn, performed := false, .. } =>
    if (s.tme ctx ltn).st ≠ .moving then s.answer id .refused []
    else
    let s := s.stopSeatsOf ctx ltn (s.tme ctx ltn).ptn
    if !s.tileStill ctx ltn then s
    else
      let s := s.layImage ctx ltn
      match s.saveTile ctx ltn with
      | .ok s => s.answer id .ok []
      | .error (.wait m) => s.service m 1
      | .error e =>
        let ptn := (s.tme ctx ltn).ptn
        ((((s.devFail ⟨ctx, ptnDie ptn, .tile ltn⟩ e).endSaves ctx ltn ptn).restoreSeats ctx ltn ptn).answer id e.result []).releaseHeld
  | _ => s

/-- What an evicted tile's part needs of a physical tile (R350, R388). -/
def State.needOfPart (s : State) (ctx ltn : Nat) (k : Kernel) : Need :=
  ⟨ctx, k.spUnits, k.phUnits, k.anvil, k.quota, k.large, (s.part ctx ltn).portsHeld⟩

/-- A tile that a part may resume on (R388): eligible as R350 gives, with the part's frame numbers free, since every continuation keeps
its frame number (R29), storage for the frames, and the numbers of the part's windows FREE, since the tile has 16 (R18, R232; DESIGN CHOICE,
notes/assumptions/76.md). -/
def State.canResume (s : State) (ctx ltn ptn : Nat) (k : Kernel) : Bool :=
  let n := s.needOfPart ctx ltn k
  s.tileOpen ptn && !(s.ctxsOn ptn).any (fun e => decide (e.1 = ctx)) && (s.spadRun ptn n.spUnits).isSome
    && decide (s.sumOn ptn (·.phUnits) + n.phUnits ≤ 16) && !(n.anvil && (s.ctxsOn ptn).any fun e => (s.kernel e.1).any (·.anvil))
    && decide (s.sumOn ptn (·.quota) + n.quota ≤ 256) && decide (s.portsOn ptn + n.ports ≤ 64)
    && (s.part ctx ltn).windows.all (fun w => (s.ctxsOn ptn).all fun e => (s.window e.1 e.2 w.1).isNone)
    && (s.part ctx ltn).cores.all fun c =>
      let used := (s.framesOn ptn c.1).map fun e => e.1.frm
      c.2.frames.all fun f => !used.contains f.1

/-- Storage for the resident frames of a part on a core, large ones first; none where it does not fit. -/
def State.placeFrames (s : State) (ctx ltn core ptn : Nat) (l : List (Nat × Frame)) : Option State :=
  let order := (l.filter fun f => f.2.large) ++ l.filter fun f => !f.2.large
  let homeless := l.map (·.1)
  let rec go : List (Nat × Frame) → List Nat → State → Option State
    | [], _, s => some s
    | (n, f) :: rest, left, s =>
      if f.st = .away then go rest (left.filter (· != n)) s
      else
        let used := (s.framesOn ptn core).flatMap fun e =>
          if decide (e.1.ctx = ctx) && decide (e.1.ltn = ltn) && left.contains e.1.frm then [] else e.2.storage
        let g := if f.large then
            ((List.range 64).map (· * 4)).find? fun g => (List.range 4).all fun k => !used.contains (g + k)
          else (List.range 256).find? fun g => !used.contains g
        match g with
        | none => none
        | some g => go rest (left.filter (· != n)) (s.setFrame ⟨ctx, ltn, core, n⟩ { f with pgr := g })
  go order homeless s

/-- Step 1 of EVICT.restore (R388): the part comes to the tile, its ready entries put aside until step 4. A run that goes on counts its steps
anew (R441), read windows are filled again and a closing one ends where nothing is left of it (R235), and the requests and the bursts take entries
of the cores' tables and places of the port as there is room (R18, R229; notes/assumptions/35.md). -/
def State.installPart (s : State) (ctx ltn ptn base : Nat) : State :=
  let t := s.tile ptn
  let s := s.setTile ptn { t with icache := t.icache.filter fun w => w.ctx ≠ ctx }
  let a := s.part ctx ltn
  let q := a.anvil.queue.map fun c => match c with
    | .run r => Cmd.run (if r.stopped then r else { r with fresh := 0 })
    | c => c
  let s := s.setPart ctx ltn { a with
    spBase := base, anvil := { a.anvil with queue := q }
    cores := a.cores.map fun c => (c.1, ({ c.2 with ready := [], late := [] } : PartCore)) }
  let mine (q : Req) : Bool := decide (q.ref.ctx = ctx) && decide (q.ref.ltn = ltn) && (q.entry || q.kind.isPart)
  let s : State := { s with reqs := s.reqs.map fun q => if mine q then { q with entry := false, late := true } else q }
  let s := (s.bringTags ctx ltn ptn).dloAgain ctx ltn
  let s := (List.range 4).foldl (fun s c => s.takeEntries ptn c) (s.takeBursts ptn)
  a.windows.foldl (fun s w => s.settleWindow ctx ltn w.1) s

/-- Step 4 of EVICT.restore (R388): the stopped seats' threadlets first in their class, then the saved ready entries in their order. -/
def State.restoreReady (s : State) (ctx ltn ptn : Nat) (old : Table PartCore) : State :=
  let s : State := old.foldl (init := s) fun s e =>
    let c := s.partCore ctx ltn e.1
    s.setPartCore ctx ltn e.1 { c with ready := c.ready ++ e.2.ready, late := e.2.late ++ c.late }
  let s := s.restoreSeats ctx ltn ptn
  (List.range 4).foldl (fun s c => s.drainOverflow ptn c) s

/-- Steps 1 to 4 of EVICT.restore on a tile (R388). Deque records and ready entries that find no place wait (notes/assumptions/35.md, 52.md). -/
def State.resumeTile (s : State) (ctx ltn ptn : Nat) (k : Kernel) : Option State :=
  let base := (s.spadRun ptn k.spUnits).getD 0
  let old := (s.part ctx ltn).cores
  let s := s.setTme ctx ltn ⟨.resident, ptn⟩
  let placed : Option State := old.foldl (init := some s) fun acc c =>
    acc.bind fun s => s.placeFrames ctx ltn c.1 ptn c.2.frames
  placed.map fun s =>
    let s := ((s.installPart ctx ltn ptn base).replayKept ctx ltn).restoreReady ctx ltn ptn old
    ((((s.pumpWindows ctx ltn).engines ctx ltn).releaseHeld).pumpBars ctx).residency 4 ctx k.queue k.ridx ltn

/-- The device's own check of a tile's image (R385): every byte stands as it was written, granules that it marked as poisoned apart. -/
def State.imageStands (s : State) (d : Dev) (ltn : Nat) (h : BitVec 16777216) (bad : List Nat) : Except DevErr Bool :=
  (List.range 65536).foldl (init := .ok true) fun acc g =>
    match acc with
    | .error e => .error e
    | .ok b =>
      if bad.contains g then .ok b
      else (s.devRead d (s.tileImage d.ctx ltn + 32 * g) 32).map fun l => b && decide (ofLeBytes l = h.toNat / 2 ^ (256 * g) % 2 ^ 256)

/-- EVICT.restore (R385, R388): the status it completes with, and what the device must wait for first in its place. `tsel` names the tile
where its V is set. -/
def State.evictRestore (s : State) (ctx ltn : Nat) (tsel : Word) : Except Miss (Status × State) :=
  if (s.tme ctx ltn).st ≠ .away then .ok (.refused, s)
  else
  match s.kernel ctx with
  | none => .ok (.refused, s)
  | some k =>
    let ptn : Option Nat :=
      if tsel.getLsbD 63 then
        (let p := tsel.toNat % 2 ^ 13
         if s.canResume ctx ltn p k then some p else none)
      else (((List.range 4096).map fun o => s.ptnAt (o % 64) (o / 64))).find? fun p => s.canResume ctx ltn p k
    match ptn with
    | none => .ok (.refused, s)
    | some p =>
      match (s.part ctx ltn).image with
      | none => .ok (.fault, s)
      | some h =>
        let d : Dev := ⟨ctx, ptnDie p, .tile ltn⟩
        match s.imageStands d ltn h (s.part ctx ltn).imageBad with
        | .error (.wait m) => .error m
        | .error e => .ok (.fault, s.devFail d e)
        | .ok false => .ok (.fault, s.devDone d (s.tileImage ctx ltn) 2097152)
        | .ok true =>
          match (s.devDone d (s.tileImage ctx ltn) 2097152).resumeTile ctx ltn p k with
          | some s => .ok (.ok, s)
          | none => .ok (.refused, s)

/-- A restore goes on: it is answered, or waits for the fault service (R372, R388). -/
def State.restoreStep (s : State) (id : Nat) : State :=
  match s.req id with
  | some { kind := .restore ctx ltn tsel, performed := false, .. } =>
    (match s.evictRestore ctx ltn tsel with
     | .ok (st, s) => s.answer id st []
     | .error m => s.service m 0)
  | _ => s

end Sys2Proof.Machine
end

