-- ==== Sys2Proof/Machine/System.lean ====
section
/-! DEFINITION. The system instructions (R360 to R384, R387) as they issue, the steps of register writes at their registers (R361, R365, R385,
R390, R398, R399), and the arrival of responses. -/

namespace Sys2Proof.Machine

/-! ## Halting -/

/-- The device's own halt codes (R421, R435, R436). -/
def torusCode : BitVec 32 := 0xFFFF0018
def tamperCode : BitVec 32 := 0xFFFF0030
def thermalCode : BitVec 32 := 0xFFFF0031
/-- A halt that only package reset leaves (R435). -/
def lastingHalt (c : BitVec 32) : Bool := decide (c = tamperCode) || decide (c = torusCode)

/-- HALT (R383): no tile picks any more, and PKGST holds the code of the halt: the alarm's whatever halted the package before (R435). Another halt
of the device takes the place of one that RESUME could leave sooner (notes/assumptions/23.md). -/
def State.haltWith (s : State) (code : BitVec 32) : State :=
  let keep := s.halted && decide (code ≠ tamperCode) && (lastingHalt s.haltCode || !(lastingHalt code || decide (code = thermalCode)))
  { s with halted := true, haltCode := if keep then s.haltCode else code }

/-! ## Requests of system instructions -/

/-- A system request: its checks in order (R377), the poison of its sources, and its issue. -/
def State.sysIssue (s : State) (v : View) (checks : List (List Operand × Bool × Nat)) (sources : List Operand) (q : Req) (f : State → State) :
    Res :=
  (s.checked v checks sources).getD (retire (f (s.addReq q)) v.t)

/-- A request whose result is known as it issues. -/
def Req.done (q : Req) (st : Status) (d : Datum) : Req := { q with performed := true, status := st, datum := d }

/-- Whether two selectors name one register: STALE, EXCESS, UNDEL and the signal log are one of each physical tile, whatever names it (R151,
R362). -/
def State.sameReg (s : State) (a b : Word) : Bool :=
  let x := selOf a
  let y := selOf b
  decide (a = b) || (decide (x.space = 2) && decide (y.space = 2) && decide (x.reg = y.reg) && decide (x.reg ≤ 0x204)
    && decide ((s.ptnOf x.ctx x.ltn).isSome ∧ s.ptnOf x.ctx x.ltn = s.ptnOf y.ctx y.ltn))

/-- Whether a frame has an earlier write of a register that has yet to reach it (R365). -/
def State.writeAhead (s : State) (q : Req) (sel : Word) : Bool :=
  s.reqs.any fun x => match x.kind with
    | .sysw y _ => s.sameReg y sel && decide (x.ref = q.ref) && decide (x.rtag = q.rtag) && decide (x.id < q.id) && !x.performed
    | _ => false

/-- A read reaches its register (R365): REFUSED with no datum where the tile is unmapped or evicted; where an image cannot be read, its status
is what that access comes to (notes/assumptions/3.md). -/
def State.readSys (s : State) (id : Nat) : State :=
  match s.req id with
  | some q =>
    (match q.kind with
     | .sysr sel =>
       if q.performed ∨ s.writeAhead q sel then s
       else
         match s.sysGet (.req id) sel with
         | some (.ok w) => (s.pastRead (.req id) sel).answer id .ok [some w]
         | some (.error (.wait m)) => s.service m 0
         | some (.error e) => (s.failedRead (.req id) sel e).answer id e.result []
         | none => s.answer id .refused []
     | _ => s)
  | none => s

/-- Reads that waited for a write of their frame go on. -/
def State.readsOn (s : State) : State := s.reqs.foldl (fun s q => s.readSys q.id) s

/-- The checks of R377 on a selector, and for SYSR the test of R364. -/
def State.readCause (s : State) (ctx : Nat) (sel : Word) : Option Nat :=
  match selRow sel with
  | none => some 0x03
  | some r => if !(s.ctx ctx).priv ∧ !s.userMay r (selOf sel) ctx then some 0x0B else none

/-- The checks of R377 on a SYSW. -/
def State.writeCause (s : State) (sel y : Word) : Option Nat :=
  match selRow sel with
  | none => some 0x03
  | some r => s.valueCheck sel r y

/-- SYSR (R365). -/
def execSysr (g : Guard) (d x : Operand) (t : Target) (s : State) : Host.Outcome State Fault Refusal :=
  issue (.sysr g d x t) s fun s v =>
    let sel := s.readOp v x
    let q := s.newReq v (firstWord (.sysr g d x t)) (s.destOf v t (wordIndex d)) (.sysr sel) 0 .relaxed .frame false
    let c := s.readCause v.t.ctx sel
    s.sysIssue v [([x], c.isSome, c.getD 0)] [x] q fun s => s.readSys q.id

/-- SYSW (R365): the write takes effect when it reaches its register. -/
def execSysw (g : Guard) (x y : Operand) (t : Target) (s : State) : Host.Outcome State Fault Refusal :=
  issue (.sysw g x y t) s fun s v =>
    let sel := s.readOp v x
    let w := s.readOp v y
    let c := s.writeCause sel w
    s.sysIssue v [([x], (selRow sel).isNone, 0x03), ([x, y], c.isSome, c.getD 0)] [x, y]
      (s.newReq v (firstWord (.sysw g x y t)) (s.destOf v t 0xFF) (.sysw sel w) 0 .relaxed .frame false) id

/-- FRES (R378, R379). -/
def execFres (g : Guard) (kind : FresKind) (x y : Operand) (t : Target) (s : State) : Host.Outcome State Fault Refusal :=
  issue (.fres g kind x y t) s fun s v =>
    let c := (s.readOp v x).toNat
    let n := (s.readOp v y).toNat
    let q := s.newReq v (firstWord (.fres g kind x y t)) (s.destOf v t 0xFF) (.fres kind c n) 0 .relaxed .frame false
    s.sysIssue v [([x], decide (63 < c), 0x03), ([y], decide (2 ^ 32 ≤ n), 0x03)] [x, y] q fun s => s.fresStep q.id

/-- Entries that a TLBI drops (R380). -/
def tlbiDrops (kind : TlbiKind) (c va : Nat) (e : TlbEntry) : Bool :=
  match kind with
  | .page => e.maps c va
  | .ctx => decide (e.ctx = c)
  | .all => true

/-- The TLBI itself (R380): the entries go, and it waits for the requests that translated through them. -/
def State.tlbiStart (s : State) (q : Req) (kind : TlbiKind) (c va : Nat) : State :=
  let gone := s.tlb.filter (tlbiDrops kind c va)
  let used := s.reqs.filter fun r => r.phys.isSome && gone.any fun e => e.maps r.ref.ctx r.curVa
  let h : Held := ⟨q.ref, true, (used.filter (·.write)).map (·.id), (used.map (·.id)), .system q.id⟩
  { s with tlb := s.tlb.filter fun e => !tlbiDrops kind c va e, held := s.held ++ [h] }.releaseHeld

/-- TLBI (R380). -/
def execTlbi (g : Guard) (kind : TlbiKind) (x y : Operand) (t : Target) (s : State) : Host.Outcome State Fault Refusal :=
  issue (.tlbi g kind x y t) s fun s v =>
    let c := (s.readOp v x).toNat
    let va := (s.readOp v y).toNat
    let q := s.newReq v (firstWord (.tlbi g kind x y t)) (s.destOf v t 0xFF) (.tlbi []) 0 .relaxed .frame false
    s.sysIssue v [([x], decide (kind ≠ .all ∧ 63 < c), 0x03)] [x, y] q fun s => s.tlbiStart q kind c va

/-- TMAP (R381): the datum holds the hold state before, and the contexts resident on the tile. -/
def execTmap (g : Guard) (d x : Operand) (t : Target) (s : State) : Host.Outcome State Fault Refusal :=
  issue (.tmap g d x t) s fun s v =>
    let op := s.readOp v x
    let tsel := (s.ctx v.t.ctx).tsel
    let ptn := tsel.toNat % 2 ^ 13
    let datum : Word := BitVec.ofNat 64 ((if (s.tile ptn).hold then 1 else 0) + (s.ctxsOn ptn).length % 8 * 2 ^ 8)
    let q := s.newReq v (firstWord (.tmap g d x t)) (s.destOf v t (wordIndex d)) .answered 0 .relaxed .frame false
    let good := tsel.getLsbD 63
    s.sysIssue v [([x], decide (1 < op.toNat), 0x03)] [x] (if good then q.done .ok [some datum] else q.done .refused []) fun s =>
      if good then s.setTile ptn { s.tile ptn with hold := decide (op = 0) } else s

/-- A tile word that EVICT refuses outright (R387). -/
def State.evictRefused (s : State) (c l : Nat) (want : TileState) : Bool :=
  match s.kernel c with
  | none => true
  | some k => decide (k.area ≤ l) || decide ((s.tme c l).st ≠ want)

/-- EVICT.save (R387). -/
def execEvictSave (g : Guard) (x : Operand) (t : Target) (s : State) : Host.Outcome State Fault Refusal :=
  issue (.evictSave g x t) s fun s v =>
    let w := s.readOp v x
    let c := tileCtx w
    let l := tileLtn w
    let own := decide (c = v.t.ctx) && decide (l = v.t.ltn)
    let q := s.newReq v (firstWord (.evictSave g x t)) (s.destOf v t 0xFF) (.evict c l) 0 .relaxed .frame false
    let no := s.evictRefused c l .resident || own
    s.sysIssue v [([x], decide (2 ^ 18 ≤ w.toNat), 0x03)] [x] (if no then q.done .refused [] else q) fun s =>
      if no then s else (s.stopTile c l (s.homePtn c l)).evictStep q.id

/-- EVICT.restore (R388). -/
def execEvictRestore (g : Guard) (x : Operand) (t : Target) (s : State) : Host.Outcome State Fault Refusal :=
  issue (.evictRestore g x t) s fun s v =>
    let w := s.readOp v x
    let c := tileCtx w
    let l := tileLtn w
    let q := s.newReq v (firstWord (.evictRestore g x t)) (s.destOf v t 0xFF) (.restore c l (s.ctx v.t.ctx).tsel) 0 .relaxed .frame false
    let no := s.evictRefused c l .away
    s.sysIssue v [([x], decide (2 ^ 18 ≤ w.toNat), 0x03)] [x] (if no then q.done .refused [] else q) fun s =>
      if no then s else s.restoreStep q.id

/-- DLOCTL (R382). -/
def execDloctl (g : Guard) (x y : Operand) (t : Target) (s : State) : Host.Outcome State Fault Refusal :=
  issue (.dloctl g x y t) s fun s v =>
    let c := (s.readOp v x).toNat
    let m := (s.readOp v y).toNat
    let q := s.newReq v (firstWord (.dloctl g x y t)) (s.destOf v t 0xFF) .answered 0 .relaxed .frame false
    s.sysIssue v [([x], decide (63 < c), 0x03), ([y], decide (2 < m), 0x03)] [x, y] (q.done .ok []) fun s => s.setCtx c { s.ctx c with dlm := m }

/-- HALT (R383): its own threadlet ends as END ends it, with END's check of the seat flags (R419). -/
def execHalt (g : Guard) (x : Operand) (s : State) : Host.Outcome State Fault Refusal :=
  issue (.halt g x) s fun s v =>
    let w := s.readOp v x
    if 0xFFFF0000 ≤ w.toNat then trapWith 0x03
    else if v.t.badFlags then badFlagsTrap s
    else .ended (((s.haltWith (w.setWidth 32)).endThreadlet v).finishPart v.t.ctx v.t.ltn)

/-! ## Writes at their registers -/

/-- The space and number of a selector's register. -/
def selReg (w : Word) : Nat × Nat := ((selOf w).space, (selOf w).reg)

/-- A write of one of the registers named reaches it (R365): those of one frame to one register in program order. -/
def State.writeStep (s : State) (id : Nat) (mine : Nat × Nat → Bool) : Host.Outcome State Fault Refusal :=
  match s.req id with
  | none => .next s
  | some q =>
    match q.kind with
    | .sysw sel y =>
      if !mine (selReg sel) ∨ q.performed ∨ s.writeAhead q sel then .next s
      else
        let (st, s) := s.sysPut sel y
        .next (s.answer id st []).readsOn
    | _ => .next s

/-- CKILL (R390). -/
def execCkill (id : Nat) (s : State) : Host.Outcome State Fault Refusal := s.writeStep id fun r => decide (r = (1, 0x10A))
/-- CWGT (R385). -/
def execCwgt (id : Nat) (s : State) : Host.Outcome State Fault Refusal := s.writeStep id fun r => decide (r = (1, 0x102))
/-- CTXD (R361). -/
def execCtxd (id : Nat) (s : State) : Host.Outcome State Fault Refusal := s.writeStep id fun r => decide (r = (1, 0x100))
/-- QDESC (R336). -/
def execQdesc (id : Nat) (s : State) : Host.Outcome State Fault Refusal := s.writeStep id fun r => decide (r = (0, 0x001))
/-- PORTM (R398). -/
def execPortm (id : Nat) (s : State) : Host.Outcome State Fault Refusal := s.writeStep id fun r => decide (r = (0, 0x042))
/-- ROUTE (R399). -/
def execRoute (id : Nat) (s : State) : Host.Outcome State Fault Refusal := s.writeStep id fun r => decide (r = (0, 0x041))
/-- Registers whose writes are steps of their own. -/
def ownStep : List (Nat × Nat) := [(1, 0x10A), (1, 0x102), (1, 0x100), (0, 0x001), (0, 0x042), (0, 0x041)]
/-- REGISTER_WRITE (R365): any other register. -/
def execRegisterWrite (id : Nat) (s : State) : Host.Outcome State Fault Refusal := s.writeStep id fun r => !ownStep.contains r

/-! ## Responses -/

/-- RESPONSE_ARRIVAL (R171, R204, R217): a request that is done completes, once its writes are acknowledged at pod scope; on an evicted
tile, after it resumes (R168); what a drain of a table has yet to write is written before its completion (R130). An eviction, or a restore or a read of a register that waited, goes on first (R365, R387, R388). -/
def execResponseArrival (id : Nat) (s : State) : Host.Outcome State Fault Refusal :=
  match s.req id with
  | none => .next s
  | some r =>
    if !r.performed then .next (((s.evictStep id).restoreStep id).readSys id)
    else if (r.write ∧ !r.ackPod) ∨ r.kind.isPart then .next s
    else if s.keepsFor r.ref.ctx r.ref.ltn then .next (s.keepResponse r.ref.ctx r.ref.ltn (.arrival id))
    else .next (s.respond r)

end Sys2Proof.Machine
end

