-- ==== Sys2Proof/Machine/Courier.lean ====
section
/-! DEFINITION. The Courier window and the Postmasters' register-access ports (R357, R358, R391 to R396). -/

namespace Sys2Proof.Machine

/-! ## Register access (R392) -/

def State.srPort (s : State) (n : Nat) : SrPort := Tab.get SrPort.reset s.ports n
def State.setSrPort (s : State) (n : Nat) (p : SrPort) : State := { s with ports := Tab.set SrPort.reset s.ports n p }

/-- Ports: 0 the window's, d + 1 that of the Postmaster of die d: a compute die, or I/O die 1, which is die 9 (R11, R392). -/
def srPortIs (n : Nat) : Bool := decide (n ≤ 8) || decide (n = 10)

/-- Whether a port takes a request: bring-up is done, and the window's link carries traffic. -/
def State.srOpen (s : State) (n : Nat) : Bool := srPortIs n && s.hallmark.booted && !(decide (n = 0) && s.courierDown)

/-- A port that may perform a command now: it is open, and not busy with another (R392). -/
def State.srReady (s : State) (port cmd : Nat) : Bool := s.srOpen port && decide ((s.srPort port).cmd = none ∨ (s.srPort port).cmd = some cmd)

/-- SRCMD_READ (R392): the read that the port accepted, or one that it accepts now, is performed; one of an image that cannot be read is REFUSED
(notes/assumptions/3.md). -/
def execSrcmdRead (port : Nat) (s : State) : Host.Outcome State Fault Refusal :=
  if !s.srReady port 1 then .next s
  else
    let p : SrPort := { s.srPort port with cmd := none }
    match selRow p.sel with
    | none => .next (s.setSrPort port { p with stat := 0x03 })
    | some _ =>
      match s.sysGet (.port port) p.sel with
      | some (.ok w) => .next ((s.pastRead (.port port) p.sel).setSrPort port { p with data := w, stat := 0 })
      | some (.error (.wait m)) => .next ((s.service m 0).setSrPort port { p with cmd := some 1 })
      | some (.error e) => .next ((s.failedRead (.port port) p.sel e).setSrPort port { p with stat := 5 })
      | none => .next (s.setSrPort port { p with stat := 5 })

/-- SRCMD_WRITE (R392): the write that the port accepted, or one that it accepts now, is performed. -/
def execSrcmdWrite (port : Nat) (s : State) : Host.Outcome State Fault Refusal :=
  if !s.srReady port 2 then .next s
  else
    let p : SrPort := { s.srPort port with cmd := none }
    match s.writeCause p.sel p.data with
    | some c => .next (s.setSrPort port { p with stat := BitVec.ofNat 64 c })
    | none =>
      let (st, s) := s.sysPut p.sel p.data
      .next (s.setSrPort port { p with stat := BitVec.ofNat 64 (statusCode st) }).readsOn

/-- MBZ bits of a selector, by its space and its register (R362); a write of SRSEL that sets one is discarded whole (R391). -/
def selMbz (y : Word) : Word :=
  let x := selOf y
  bitsMask 61 60 ||| bitsMask 39 24 ||| (if x.space < 2 then bitsMask 59 48 else 0) ||| (if x.space ≠ 3 then bitsMask 47 46 else 0)
    ||| (if x.space = 0 then bitsMask 45 40 else 0) ||| (if (regRow x.space x.reg).any (fun r => r.count = 0) then bitsMask 23 12 else 0)

/-- A write of SRSEL, SRDATA or SRCMD at a port (R391, R392): discarded while the port is busy. -/
def State.writeSrPort (s : State) (n offset : Nat) (y : Word) : State :=
  let p := s.srPort n
  if p.cmd.isSome then s
  else
    match offset with
    | 0x00 => if y &&& selMbz y ≠ 0 then s else s.setSrPort n { p with sel := y }
    | 0x08 => s.setSrPort n { p with data := y }
    | 0x10 => if y = 1 ∨ y = 2 then s.setSrPort n { p with cmd := some y.toNat } else s
    | _ => s

/-- A read at a port (R392): BUSY while a command is being performed; SRCMD reads zero. -/
def State.readSrPort (s : State) (n offset : Nat) : Word :=
  let p := s.srPort n
  match offset with
  | 0x00 => p.sel
  | 0x08 => p.data
  | 0x18 => if p.cmd.isSome then p.stat ||| bitsMask 63 63 else p.stat
  | _ => 0

/-! ## Other registers -/

/-- HMR_WRITE (R393): the messages that wait for room are written. -/
def execHmrWrite (value : Word) (s : State) : Host.Outcome State Fault Refusal :=
  if !s.windowOpen then .next s else .next { s with hmr := value }.drainMessages

/-- Every die reads below 95 °C in the latest sample (R436); sensors count in 1/16 °C (R437). -/
def Hallmark.cool (h : Hallmark) : Bool := h.sensors.dieTemp.all fun t => decide (t < 95 * 16)

/-- RESUME (R383, R391, R435, R436). -/
def execResume (value : Word) (s : State) : Host.Outcome State Fault Refusal :=
  if !s.windowOpen ∨ value ≠ 1 ∨ lastingHalt s.haltCode ∨ (s.haltCode = thermalCode ∧ !s.hallmark.cool) then .next s
  else .next { s with halted := false, haltCode := 0 }

/-- FEATC_COMMIT (R358). -/
def execFeatcCommit (s : State) : Host.Outcome State Fault Refusal := .next (if s.windowOpen then s.putFeature 0x014 1 else s)
/-- FEATC_RESET (R358). -/
def execFeatcReset (s : State) : Host.Outcome State Fault Refusal := .next (if s.windowOpen then s.putFeature 0x014 2 else s)

/-- FREPLY (R396): the host answers a record that it holds, in host-assisted mode. -/
def execFreply (value : Word) (s : State) : Host.Outcome State Fault Refusal :=
  let mbz : Word := bitsMask 63 52 ||| bitsMask 15 13 ||| bitsMask 11 11 ||| bitsMask 7 6
  let n := value.toNat
  if !s.windowOpen ∨ value &&& mbz ≠ 0 ∨ s.feature 1 then .next s
  else
    match s.services.find? fun f => f.ctx = n % 64 ∧ f.die % 8 = n / 2 ^ 8 % 8 ∧ f.va = n / 2 ^ 16 % 2 ^ 36 * 2 ^ 16 with
    | some f => .next (s.serviceReply f (value.getLsbD 12))
    | none => .next s

/-- A plain register of the window is written (R391): a value with an MBZ bit is discarded whole, and the message ring's registers take
none while DONE = 1. Registers with steps of their own are not among them. -/
def State.writeWindow (s : State) (offset : Nat) (y : Word) : State :=
  if !s.windowOpen then s
  else
    match offset with
    | 0x10 => s.putFeature 0x012 y
    | 0x18 => s.putFeature 0x013 y
    | 0x20 => if y &&& bitsMask 63 3 ≠ 0 then s else s.putFeature 0x014 y
    | 0x2000 => if s.featDone ∨ y.toNat % 4096 ≠ 0 then s else { s with hmb := y }
    | 0x2008 => if s.featDone ∨ 13 ≤ y.toNat then s else { s with hmn := y }
    | 0x2010 => if s.featDone ∨ y.toNat % 8 ≠ 0 then s else { s with hmw := y }
    | 0x3008 => if y.toNat % 64 ≠ 0 then s else { s with areplya := y }
    | 0x4000 => s.writeSrPort 0 0x00 y
    | 0x4008 => s.writeSrPort 0 0x08 y
    | 0x4010 => s.writeSrPort 0 0x10 y
    | _ => s

/-- A register of a Postmaster's port is written (R392). -/
def State.writePostmaster (s : State) (die offset : Nat) (y : Word) : State :=
  if s.srOpen (die + 1) then s.writeSrPort (die + 1) offset y else s

/-- A register of a Postmaster's port is read (R392). -/
def State.readPostmaster (s : State) (die offset : Nat) : Word := if s.srOpen (die + 1) then s.readSrPort (die + 1) offset else 0

/-- A register of the window (R391): unassigned offsets and write-only registers read zero. -/
def State.windowWord (s : State) (offset : Nat) : Word :=
  match offset with
  | 0x00 => 0x3F
  | 0x10 => s.feat0a
  | 0x18 => s.feat1a
  | 0x20 => if s.featDone then 4 else 0
  | 0x1000 => s.pkgst
  | 0x2000 => s.hmb
  | 0x2008 => s.hmn
  | 0x2010 => s.hmw
  | 0x2018 => s.hmr
  | 0x4000 => s.readSrPort 0 0x00
  | 0x4008 => s.readSrPort 0 0x08
  | 0x4018 => s.readSrPort 0 0x18
  | _ => 0

/-- A read of the window, which answers once the package is up and while the link carries traffic (R421, R428). -/
def State.readWindow (s : State) (offset : Nat) : Option Word := if s.windowOpen then some (s.windowWord offset) else none

end Sys2Proof.Machine
end

