-- ==== Sys2Proof/Machine/Links.lean ====
section
/-! DEFINITION. Links (R398, R399, R420, R421), requests that come from other packages (R194, R400, R401), and the patrols of memory (R417,
R426). -/

namespace Sys2Proof.Machine

/-! ## Links -/

/-- The I/O die of a scale-up port (R11). -/
def portDie (p : Nat) : Nat := if p < 32 then 8 else 9

/-- The record of a scale-up port's event (R421, R422): SEV 3, with a lane mask that the spec leaves open. -/
def State.linkRas (s : State) (src die port ptn : Nat) : State :=
  let (m, s) := s.free 8
  s.ras src 3 0xFF die (BitVec.ofNat 64 (port % 64 + m.toNat * 2 ^ 8)) ptn

/-- LINK_REPLAY (R420): it changes timing only. -/
def execLinkReplay (_link : Link) (s : State) : Host.Outcome State Fault Refusal := .next s

/-- A scale-up port after a retrain (R421): with fewer than 2 working lanes it is down. -/
def PortMode.retrained (m : PortMode) (how : Retrain) : PortMode :=
  match how with
  | .recovered => m
  | .lane => if m.lanes = 4 then { m with lanes := 2 } else { m with up := false, lanes := 0 }
  | .failed => { m with up := false, lanes := 0 }

/-- LINK_RETRAIN (R399, R401, R421). A torus link has no degraded state, and its numbers count four to a tile. The links are first trained as the
package comes up (R428). -/
def execLinkRetrain (link : Link) (how : Retrain) (s : State) : Host.Outcome State Fault Refusal :=
  match link with
  | .port p =>
    let m := Tab.get PortMode.reset s.portm p
    if 64 ≤ p ∨ !m.up ∨ 2 ≤ m.mode then .next s
    else .next ({ s with portm := Tab.put s.portm p (m.retrained how) }.linkRas 0x19 (portDie p) p 0)
  | .torus n =>
    if !s.hallmark.booted then .next s
    else
      let s := s.rasOpen 0x18 3 0xFF (ptnDie (n / 4)) (n / 4)
      .next (if how = .failed then s.haltWith torusCode else s)
  | .courier =>
    if !s.hallmark.booted then .next s
    else
      let s : State := { s with courierDown := decide (how = .failed) }
      .next (s.rasOpen 0x1A 3 0xFF 8 0).drainMessages

/-- LINK_TRAINED (R398, R399): a port that is on comes up on 4 lanes, or on 2. Ports are first trained as the package comes up (R428). -/
def execLinkTrained (port lanes : Nat) (s : State) : Host.Outcome State Fault Refusal :=
  let m := Tab.get PortMode.reset s.portm port
  if !s.hallmark.booted ∨ 64 ≤ port ∨ 2 ≤ m.mode ∨ m.up ∨ (lanes ≠ 2 ∧ lanes ≠ 4) then .next s
  else .next { s with portm := Tab.put s.portm port { m with up := true, lanes := lanes } }

/-! ## Packets that waited for a drain (R399) -/

/-- An answer to an access of the device at a home of another package. -/
def State.lentBack (s : State) (id : Nat) (a : FarAnswer) : State :=
  let s : State := { s with loans := s.loans.map fun l => if l.id = id ∧ l.answer.isNone then { l with answer := some a } else l }
  (s.reqs.foldl (fun s q => if q.performed then s else s.fresStep q.id) s).releaseHeld

/-- A packet that finds no usable port after the drain: a request completes FAULT, a signal is Undeliverable (R399), and of any other packet
nothing is left (notes/assumptions/55.md). -/
def State.lose (s : State) (l : Leaving) : State :=
  match l.body with
  | .signal ptn ctx cont _ _ => s.countUndel ptn ctx cont
  | .request id | .piece id _ _ =>
    (match s.req id with
     | some r => if r.performed then s else (s.failReq { r with sent := false } .fault 0x10).onward r
     | none => s)
  | .device id _ => s.lentBack id ⟨.fault, [], none⟩
  | .withdraw _ | .barrier .. | .absent .. | .channel _ | .query .. | .reply .. | .admitted .. => s

/-- Packets whose destination's old ports have delivered all they accepted leave, in order, by the new choice (R399). -/
def State.pumpOut (s : State) : State :=
  let (lost, s) : List Leaving × State := s.outHeld.foldl (init := ([], { s with outHeld := [] })) fun (lost, s) l =>
    let u := s.egressPorts l.ual l.node
    if !s.drained l.ual l.node ∨ s.outHeld.any fun x => decide (x.node = l.node) then (lost, { s with outHeld := s.outHeld ++ [l] })
    else
      match u[l.index % u.length]? with
      | some p => (lost, { s with out := s.out ++ [⟨p, l.node, u, l.body⟩] })
      | none => (lost ++ [l], s)
  lost.foldl State.lose s

/-- A scale-up port delivers a packet: the oldest that it carries (R399). -/
def State.delivered (s : State) (n : Nat) : State :=
  match s.out[n]? with
  | none => s
  | some o => if (s.out.take n).any fun x => decide (x.port = o.port) then s else { s with out := dropNth s.out n }

/-! ## Requests from outside -/

/-- An answer to a request of another package. -/
def State.serve (s : State) (st : Status) (l : List Byte) : State := { s with served := s.served ++ [(st, l)] }

/-- A request of another party performed at a home of this package, in one step (R195, R197, R210, R214); on a HOST page, where an atomic is a read and
then a write, what the host does `between` them (R194). -/
def State.serveAt (s : State) (kind : InboundKind) (p : Phys) (ctx n : Nat) (between : State → State) : State :=
  if !hasStorage s.carve p.home p.pa n then
    (s.ras 0x32 5 ctx (homeDie p.pa) (BitVec.ofNat 64 p.pa) 0).serve .fault []
  else
    match kind with
    | .read =>
      if s.poisoned p.home p.pa n then (if p.home = .host then s.poisonRas (s.badPlace p n false) ctx else s).serve .poison []
      else s.serve .ok (s.homeBytes p n)
    | .write d =>
      if p.is then s.serve .fault []
      else if s.writePoisoned p.home p.pa n then (s.poisonRas (s.badPlace p n true) ctx).serve .poison []
      else ((s.perform p ctx d).serve .ok []).releaseHeld
    | .atomic op v cmp =>
      if p.is then s.serve .fault []
      else if s.poisoned p.home p.pa n then (s.poisonRas p ctx).serve .poison []
      else
        let old := ofLeBytes (s.homeBytes p n)
        let s := if p.home = .host then between s else s
        ((s.perform p ctx (leBytes n (atomic op n old v.toNat cmp.toNat).1)).serve .ok (leBytes n old)).releaseHeld

/-- Requests that UALink carries here (R401): naturally aligned, of 1 to 64 bytes, atomics of 4 or 8 without .fadd. -/
def ualCarries (kind : InboundKind) (va n : Nat) : Bool :=
  [1, 2, 4, 8, 16, 32, 64].contains n && decide (va % n = 0)
    && (match kind with
      | .read => true
      | .write d => decide (d.length = n)
      | .atomic op _ _ => decide (n = 4 ∨ n = 8) && decide (op ≠ .fadd))

/-- A request that UALink brings (R401): translated in the context that UALCTX names, then performed, the host storing `between` the read and the write
of an atomic on a HOST page (R194); a recoverable miss waits for the fault service. -/
def State.ualinkInbound (s : State) (kind : InboundKind) (va : Word) (bytes : Nat) (between : State → State) : State :=
  let c := s.ualctx.toNat % 64
  if !s.hallmark.booted then s
  else if !s.ualctx.getLsbD 63 ∨ !ualCarries kind va.toNat bytes then s.serve .refused []
  else
    let acc : Access := match kind with
      | .read => .read
      | .write _ | .atomic .. => .write
    let d : Dev := ⟨c, 8, .inbound va.toNat⟩
    let (x, s') := if s.marked d va.toNat true then (.fault, s.devDone d va.toNat bytes) else s.translate c va.toNat acc
    match x with
    | .ok ⟨.remote _, _, _⟩ | .fault | .prot => s'.serve .fault []
    | .ok p => (s'.serveAt kind p c bytes between).devDone d va.toNat bytes
    | .miss =>
      if s.marked d va.toNat false then (s.devDone d va.toNat bytes).serve .fault []
      else s'.service ⟨d, va.toNat, none⟩ (if acc = .read then 0 else 1)

/-- UALINK_INBOUND (R401). -/
def execUalinkInbound (kind : InboundKind) (va : Word) (bytes : Nat) (s : State) : Host.Outcome State Fault Refusal :=
  .next (s.ualinkInbound kind va bytes id)

/-- The home of a physical address that another package names (R194). -/
def physHome (pa : Nat) : Home := if Config.ldBase ≤ pa then .ld else .hbm

/-- A request of another package at a physical address (R194, R369, R400): it is not translated again. -/
def State.serveRemote (s : State) (kind : InboundKind) (pa n : Nat) (is : Bool) : State := s.serveAt kind ⟨physHome pa, pa, is⟩ 0xFF n id

/-- Bytes of the word that a request names. -/
def SyncKind.bytes (k : SyncKind) : Nat :=
  match k with
  | .watch n _ => n
  | .ild | .ist _ | .irst => 8

/-- An ILD, IST, IRST or MWATCH of another package on one word of good bytes (R211, R213, R225, R400). -/
def State.syncWord (s : State) (name : Nat) (kind : SyncKind) (pa : Nat) : State :=
  let full := s.full.contains (pa / 8)
  match kind with
  | .ild => if full then s.tell name .ok (Memory.readBytes s.mem pa 8) else { s with foreign := s.foreign ++ [⟨name, pa, none⟩] }
  | .ist d =>
    if full then (s.tell name .doubleWrite []).ras 0x31 5 0xFF (homeDie pa) (BitVec.ofNat 64 pa) 0
    else (s.fillWord pa d).tell name .ok []
  | .irst => (s.emptyWord pa).tell name .ok []
  | .watch n cmp =>
    let l := Memory.readBytes s.mem pa n
    if ofLeBytes l ≠ cmp.toNat % 2 ^ (8 * n) then s.tell name .ok l else { s with foreign := s.foreign ++ [⟨name, pa, some (n, cmp)⟩] }

/-- A request of that kind reaches its home: a word is aligned, and of 4 or 8 bytes (R191, R214, R224, R225). -/
def State.serveSync (s : State) (name : Nat) (kind : SyncKind) (pa : Nat) : State :=
  let n := kind.bytes
  if (n ≠ 4 ∧ n ≠ 8) ∨ pa % n ≠ 0 then s
  else if !hasStorage s.carve (physHome pa) pa n then
    (s.ras 0x32 5 0xFF (homeDie pa) (BitVec.ofNat 64 pa) 0).tell name .fault []
  else if s.poisoned (physHome pa) pa n then
    (match kind with
     | .ist _ | .irst => s.poisonRas ⟨physHome pa, pa, true⟩ 0xFF
     | .ild | .watch .. => s).tell name .poison []
  else (s.syncWord name kind pa).releaseHeld

/-- Another package withdraws its ILD or watch, as KEND and CKILL do (R184, R212, R390): one that waits here is answered CANCELLED. -/
def State.withdrawForeign (s : State) (name : Nat) : State := s.answerForeign (fun f => decide (f.name = name)) .cancelled []

/-- The words of an IRST in one 512-byte unit are done, in the other package: the status of a page without IS passes over the rest of the
page (R224). -/
def Req.nextUnit (r : Req) (st : Status) : Req :=
  match r.kind with
  | .irst n left =>
    if st = .fault then r.skipPage st 0
    else
      let k := Nat.min left r.unitWords
      let q := { r with kind := .irst n (left - k), performed := decide (left ≤ k), status := worseStatus r.status st }
      if q.curVa % 2 ^ 16 = 0 then { q with phys := none, replayed := false }
      else { q with phys := r.phys.map fun p => { p with pa := p.pa + 8 * k } }
  | _ => r

/-- Another package's answer to a request that left for it (R194, R202). The words of an IRST in one 512-byte unit leave together, and those
of the next unit follow; so do the pieces of an access that goes by UALink (R401), of which those that another package has written before one
fails stand: DESIGN CHOICE (notes/assumptions/92.md). -/
def State.remoteAnswer (s : State) (id : Nat) (st : Status) (l : List Byte) : State :=
  match s.req id with
  | none => s
  | some r =>
    if !r.sent ∨ r.performed then s
    else
      let s := match r.kind with
        | .irst .. =>
          s.setReq { r.nextUnit st with sent := false }
        | _ =>
          if st ≠ Status.ok then s.setReq (r.failed st 0)
          else
            match r.phys with
            | some p =>
              let d : Datum := match r.kind with
                | .load .. => loadDatum r.kind p l
                | .loadv => datumOf l
                | .burst _ _ _ false | .fill .. => r.datum ++ datumOf l
                | .atom .. | .ild | .watch .. => [some (BitVec.ofNat 64 (ofLeBytes l))]
                | _ => []
              let d := match r.kind with
                | .burst _ _ _ true | .wback .. => r.datum
                | _ => d
              if r.piece ≠ 0 ∧ r.piece < r.size then s.setReq { r with part := r.part + r.piece, sent := false, datum := d }
              else s.setReq { r with performed := true, datum := d }
            | none => s
      s.onward r

/-! ## Accesses of other packages' devices -/

/-- Bytes that a device's access reaches, at an address aligned to the second number. -/
def FarKind.span (k : FarKind) : Nat × Nat :=
  match k with
  | .read n => (n, 1)
  | .write d => (d.length, 1)
  | .decrement | .depend _ => (8, 8)
  | .poison => (32, 32)
  | .spill .. => (512, 512)

/-- An access of another package's device on good bytes: the answer, or none while a watch is armed. -/
def State.farServe (s : State) (name : Nat) (kind : FarKind) (x : Phys) : Option FarAnswer × State :=
  match kind with
  | .read n => (some ⟨.ok, Memory.readBytes s.mem x.pa n, none⟩, s)
  | .write d => (some ⟨.ok, [], none⟩, s.perform x 0xFF d)
  | .poison => (some ⟨.ok, [], none⟩, s.markPoisoned [x.pa / 32] id)
  | .decrement => (some ⟨.ok, [], none⟩, s.perform x 0xFF (leBytes 8 ((ofLeBytes (Memory.readBytes s.mem x.pa 8) + 2 ^ 64 - 1) % 2 ^ 64)))
  | .depend b =>
    if s.signedAt x.pa ≤ b then (some ⟨.ok, [], none⟩, s) else (none, { s with depends := s.depends ++ [(name, x.pa, b)] })
  | .spill _ _ k p key v frac g =>
    match s.groupAt x 0xFF k p key v frac g with
    | .ok (r, s) => (some ⟨.ok, [], some r⟩, s)
    | .error e => (some ⟨e.result, [], none⟩, s.devRas 0xFF e)

/-- Whether an access of another package's device meets poison: a write only where it covers a granule in part (R214). -/
def State.farPoisoned (s : State) (kind : FarKind) (x : Phys) : Bool :=
  match kind with
  | .write d => s.writePoisoned x.home x.pa d.length
  | .read n => s.poisoned x.home x.pa n
  | .decrement | .depend _ => s.poisoned x.home x.pa 8
  | .poison | .spill .. => false

/-- A write that covers its bytes whole. -/
def FarKind.isWrite (k : FarKind) : Bool :=
  match k with
  | .write _ => true
  | .read _ | .poison | .decrement | .depend _ | .spill .. => false

/-- Whether poison that an access of another package's device meets makes a record here: that of a write or of a read, modify and write
(R214), and that of a dependence (R346). -/
def FarKind.records (k : FarKind) : Bool :=
  match k with
  | .write _ | .decrement | .spill .. | .depend _ => true
  | .read _ | .poison => false

/-- An access of another package's device at a physical address of this package (R190, R194, R304, R346, R355). -/
def State.serveFar (s : State) (name : Nat) (kind : FarKind) (pa : Nat) : State :=
  let x : Phys := ⟨physHome pa, pa, false⟩
  let give (s : State) (a : FarAnswer) : State := { s with lentTo := s.lentTo ++ [(name, a)] }
  if pa % kind.span.2 ≠ 0 then s
  else if !hasStorage s.carve x.home pa kind.span.1 then
    give (s.ras 0x32 5 0xFF (homeDie pa) (BitVec.ofNat 64 pa) 0) ⟨.fault, [], none⟩
  else if s.farPoisoned kind x then give (if kind.records then s.poisonRas (s.badPlace x kind.span.1 kind.isWrite) 0xFF else s) ⟨.poison, [], none⟩
  else
    match s.farServe name kind x with
    | (some a, s) => (give s a).releaseHeld
    | (none, s) => s

/-- Whether an answer fits what was asked. -/
def FarKind.fits (k : FarKind) (a : FarAnswer) : Bool :=
  match a.status, k with
  | .ok, .read n => decide (a.bytes.length = n)
  | .ok, .spill .. => a.reply.isSome
  | .ok, _ | .poison, _ | .fault, _ => true
  | _, _ => false

/-- Another package's answer to an access of the device here. -/
def State.lentAnswer (s : State) (id : Nat) (a : FarAnswer) : State :=
  if s.loans.any fun l => decide (l.id = id) && l.far.kind.fits a then s.lentBack id a else s

/-! ## Patrols -/

/-- An uncorrectable error poisons a granule: a step in its coherence order that writes no data, with its record (R214, R225, R414, R417, R426). -/
def State.poisonGranule (s : State) (src granule : Nat) : State :=
  let s := s.markGranule granule (decide (src = 0x11))
  let s := s.ras src 1 0xFF (homeDie (granule * 32)) (BitVec.ofNat 64 (granule * 32)) 0
  let s := if src = 0x11 then s.countRow granule true else s
  (s.poisonWatches granule).releaseHeld

/-- Where a granule lies, and the code of what holds it. -/
def granuleHome (granule : Nat) : Home := if granule * 32 < Config.hbmBytes then .hbm else .ld
def granuleSrc (granule : Nat) : Nat := if granule * 32 < Config.hbmBytes then 0x11 else 0x10

/-- An error in a granule: of HBM4 or of the LLC, which caches what lies in HBM4, or of LLC-direct (R414). -/
def State.granuleError (s : State) (src granule : Nat) : State :=
  if !hasStorage s.carve (granuleHome granule) (granule * 32) 32 ∨ (src ≠ 0x10 ∧ src ≠ granuleSrc granule) ∨ s.midWrite granule then s
  else s.poisonGranule src granule

/-- PATROL (R417): what it corrects is counted, and what it cannot is marked as poisoned and reported. -/
def execPatrol (granule : Nat) (find : PatrolFind) (s : State) : Host.Outcome State Fault Refusal :=
  let pa := granule * 32
  let src := granuleSrc granule
  if !s.hallmark.booted ∨ !hasStorage s.carve (granuleHome granule) pa 32 then .next s
  else
    match find with
    | .clean => .next s
    | .corrected =>
      let s := s.rasCorrected src 0xFF (homeDie pa) (BitVec.ofNat 64 pa) 0
      .next (if src = 0x11 then s.countRow granule false else s)
    | .uncorrectable => .next (if s.midWrite granule then s else s.poisonGranule src granule)

end Sys2Proof.Machine
end

