-- ==== Sys2Proof/Machine/Dlo.lean ====
section
/-! DEFINITION. The Dead Letter Office (R259 to R268): quiescence, wait edges, and the two passes of a detection. -/

namespace Sys2Proof.Machine

/-! ## Quiescence (R260) -/

/-- Channel operations of a tile whose completion names a slot, by a slot or by a continuation to it. -/
def State.channelsFor (s : State) (r : FrameRef) (f : Frame) (n : Nat) : Nat :=
  let mine (q : Req) : Bool := match q.kind, q.dest with
    | .chan _, some c => decide (q.ref.ctx = r.ctx) && decide (q.ref.ltn = r.ltn) && !q.performed && decide (contPkg c = s.pkgSelf r.ctx)
        && decide (contLtn c = r.ltn) && decide (contCore c = r.core) && decide (contFrm c = r.frm) && decide (contRtag c = f.rtag)
        && decide (contSlot c = n)
    | _, _ => false
  (s.reqs.filter mine).length

/-- An outstanding request that makes its tile busy: a posted channel operation does not (R260). -/
def Req.busies (q : Req) : Bool :=
  match q.kind with
  | .chan _ => q.performed
  | _ => true

/-- R260. -/
def State.quiescent (s : State) (ctx ltn : Nat) : Bool :=
  let p := s.part ctx ltn
  match s.ptnOf ctx ltn with
  | none => false
  | some ptn =>
    !p.ended && decide ((s.tme ctx ltn).st = .resident) && !s.runsOn ctx ltn
      && (List.range 4).all (fun k => (s.coreAt ptn k).deque.all fun e => decide (e.1 ≠ ctx))
      && p.cores.all (fun c => c.2.ready.isEmpty && c.2.late.isEmpty && c.2.tasks.isEmpty && c.2.deque.isEmpty && decide (c.2.dqCount = 0) && c.2.frames.all fun f =>
          decide (f.2.st = .live) && decide (f.2.moving = .no) && f.2.slots.all fun x => decide (x.2.pn = 0)
            && (!x.2.armed || decide (x.2.count = 0) || decide (x.2.count ≤ s.channelsFor ⟨ctx, ltn, c.1, f.1⟩ f.2 x.1)))
      && s.reqs.all (fun q => !(decide (q.ref.ctx = ctx) && decide (q.ref.ltn = ltn) && q.busies))
      && s.held.all (fun h => !(decide (h.ref.ctx = ctx) && decide (h.ref.ltn = ltn)))
      && (s.net ++ s.kept).all (fun x => match x with
        | .stealReq c l _ _ _ | .stealReply c l _ _ _ _ _ => !(decide (c = ctx) && decide (l = ltn))
        | _ => true)
      && p.anvil.queue.isEmpty && p.anvil.draining.isEmpty && p.phq.isEmpty && p.phSends.isEmpty

/-! ## Wait edges (R261) -/

/-- The wait edges of one port. -/
def portEdges (n : Nat) (p : Port) : List Edge :=
  match p.op with
  | none => []
  | some op =>
    match op.form with
    | .recvWords .. | .recvBlock .. | .recvLatch true | .select _ => p.members.map fun m => ⟨n, m⟩
    | .recvLatch false => []
    | .sendWords _ | .sendBlock .. | .sendBytes .. =>
      if op.moving.isEmpty then (p.members.filter fun m => !p.rdy.any fun r => decide (r.1 = m)).map fun m => ⟨n, m⟩ else []

/-- The wait edges of a tile, by rising port. -/
def Part.edges (p : Part) : List Edge := p.ports.flatMap fun e => portEdges e.1 e.2

/-- Whether a port holds an operation facing a partner: the complementary one, since a channel has one sending end (R237, R261). -/
def Port.faces (p : Port) (m : PortRef) : Bool := p.op.isSome && p.members.contains m

/-- An edge is open unless the partner port holds the complementary operation; the port of another package is not seen from here, and that
package answers for it (R261, R262; notes/assumptions/24.md). -/
def State.edgeOpen (s : State) (ctx ltn : Nat) (e : Edge) : Bool :=
  if e.dst.pkg ≠ s.pkgSelf ctx then true else !(s.port ctx e.dst.ltn e.dst.port).faces (s.portRef ctx ltn e.port)

/-- Whether a tile waits and every edge of it is open (R262). -/
def State.blockedTile (s : State) (ctx ltn : Nat) : Bool :=
  s.quiescent ctx ltn && (s.part ctx ltn).edges.all (s.edgeOpen ctx ltn)

/-! ## Traffic -/

/-- Identities compare as numbers (R262). -/
def identity (ctx : Nat) (t : TileRef) : Nat := ctx * 2 ^ 20 + t.pkg * 2 ^ 12 + t.ltn

/-- A query along an edge of a tile. -/
def State.sendQuery (s : State) (ctx : Nat) (det : Detection) (src : TileRef) (e : Edge) : State :=
  if e.dst.pkg = s.pkgSelf ctx then s.send (.dloQuery ctx det src e)
  else
    (s.emit ctx e.dst.pkg e.dst.ltn false (.query ctx det src e)).getD s

/-- A reply to the tile that sent a query along its edge. -/
def State.sendReply (s : State) (ctx : Nat) (det : Detection) (dst : TileRef) (e : Edge) (r : Report) : State :=
  if dst.pkg = s.pkgSelf ctx then s.send (.dloReply ctx det dst e r)
  else
    (s.emit ctx dst.pkg dst.ltn false (.reply ctx det dst e r)).getD s

/-- A reply that carries nothing but its verdict. -/
def bare (v : Verdict) : Report := ⟨v, none, 0, []⟩

/-- Two verdicts together: BLOCKED only if both are, BUSY if any is, ACTIVE otherwise (R262). -/
def Verdict.and (a b : Verdict) : Verdict :=
  match a, b with
  | .blocked, .blocked => .blocked
  | .busy, _ | _, .busy => .busy
  | .active, _ | _, .active => .active

/-- A pair put into a list by rising tile. -/
def insertPair (x : TileRef × Nat) : List (TileRef × Nat) → List (TileRef × Nat)
  | [] => [x]
  | y :: l => if identity 0 x.1 < identity 0 y.1 ∨ (x.1 = y.1 ∧ x.2 ≤ y.2) then x :: y :: l else y :: insertPair x l

/-- What two reports carry together (R262): at most 32 pairs, lowest tile first. -/
def Report.and (a b : Report) : Report :=
  let low := match a.low, b.low with
    | some x, some y => if identity 0 y < identity 0 x then some y else some x
    | some x, none => some x
    | none, y => y
  ⟨a.verdict.and b.verdict, low, a.count + b.count, (b.pairs.foldl (fun l x => insertPair x l) a.pairs).take 32⟩

/-! ## Visit entries (R264) -/

/-- The entries of a physical tile, of every context on it. -/
def State.visitsOn (s : State) (ptn : Nat) : List (Nat × Nat × Visit) :=
  (s.ctxsOn ptn).flatMap fun e => (s.part e.1 e.2).visits.map fun v => (e.1, e.2, v)

def Part.visit (p : Part) (init : TileRef) : Option Visit := p.visits.find? fun v => v.det.init = init
def State.dropVisit (s : State) (ctx ltn : Nat) (init : TileRef) : State :=
  let p := s.part ctx ltn
  s.setPart ctx ltn { p with visits := p.visits.filter fun v => v.det.init ≠ init }
def State.putVisit (s : State) (ctx ltn : Nat) (v : Visit) : State :=
  let p := s.part ctx ltn
  s.setPart ctx ltn { p with visits := (p.visits.filter fun x => x.det.init ≠ v.det.init) ++ [v] }

/-- The engager of an entry is told how it ended, if it still waits, and the entry goes. -/
def State.endVisit (s : State) (ctx ltn : Nat) (v : Visit) (r : Report) : State :=
  (s.dropVisit ctx ltn v.det.init).sendReply ctx v.det v.engager v.via r

/-- A name of a tile of this package in a context. -/
def State.tileRef (s : State) (ctx ltn : Nat) : TileRef := ⟨s.pkgSelf ctx, ltn⟩

/-- Room for an entry of an initiator (R264): the highest identity is displaced and answered BUSY; false where the query's own is the
highest. -/
def State.makeRoom (s : State) (ptn ctx : Nat) (init : TileRef) : Bool × State :=
  let l := s.visitsOn ptn
  if l.length < 32 then (true, s)
  else
    let top := l.foldl (init := (none : Option (Nat × Nat × Visit))) fun b x => match b with
      | none => some x
      | some y => if identity y.1 y.2.2.det.init < identity x.1 x.2.2.det.init then some x else some y
    match top with
    | none => (true, s)
    | some (c, l, v) =>
      if identity c v.det.init < identity ctx init then (false, s)
      else (true, if v.awaiting = [] then s.dropVisit c l v.det.init else s.endVisit c l v (bare .busy))

/-! ## Detections -/

/-- What the initiator's tile adds below itself. -/
def ownReport (t : TileRef) (edges : List Edge) : Report :=
  ⟨.blocked, some t, 1, ((edges.map (·.port)).eraseDups.map fun p => (t, p)).take 32⟩

/-- A detection starts with a new serial and its first pass (R262). -/
def State.startDetection (s : State) (ctx ltn : Nat) : State :=
  let p := s.part ctx ltn
  let t := s.tileRef ctx ltn
  let det : Detection := ⟨t, (p.serial + 1) % 256, 1⟩
  let edges := p.edges
  let v : Visit := ⟨det, t, ⟨0, ⟨0, 0, 0⟩⟩, 0, p.asn, edges, edges, ownReport t edges⟩
  let s := s.setPart ctx ltn { p with serial := det.serial, det := some v, dloSeen := some (p.asn, p.ports) }
  edges.foldl (fun s e => s.sendQuery ctx det t e) s

/-- DLO_DETECTION_START (R262, R265): a quiescent tile with wait edges, all open, whose context's mode is not 0. -/
def execDloDetectionStart (ctx ltn : Nat) (s : State) : Host.Outcome State Fault Refusal :=
  let p := s.part ctx ltn
  if (s.ctx ctx).dlm = 0 ∨ !s.blockedTile ctx ltn ∨ p.edges = [] ∨ p.dloSeen = some (p.asn, p.ports) then .next s
  else .next (s.startDetection ctx ltn)

/-- Entries of a tile that is no longer quiescent answer ACTIVE and go (R262): at the end of the step in which it leaves quiescence. -/
def State.leaveVisits (s : State) (ctx ltn : Nat) : State :=
  if s.quiescent ctx ltn then s
  else
    (s.part ctx ltn).visits.foldl (init := s) fun s v =>
      if v.awaiting = [] then s.dropVisit ctx ltn v.det.init else s.endVisit ctx ltn v (bare .active)

/-- The tiles of the package that have left quiescence while engaged (R262). -/
def State.leaveAll (s : State) : State :=
  s.parts.foldl (init := s) fun s e => if e.2.visits = [] then s else s.leaveVisits (e.1 / 4096) (e.1 % 4096)

/-- An entry answers one query of the second pass, and goes with the last of them (R263). -/
def State.countDown (s : State) (ctx ltn : Nat) (v : Visit) : State :=
  if v.asked ≤ 1 ∧ v.awaiting = [] then s.dropVisit ctx ltn v.det.init else s.putVisit ctx ltn { v with asked := v.asked - 1 }

/-- Whether an 8-bit serial is older than another: fewer than 128 behind it (R262; notes/assumptions/73.md). -/
def olderSerial (a b : Nat) : Bool := decide (a ≠ b) && decide ((b + 256 - a) % 256 < 128)

/-- DLO_QUERY (R262 to R264). A query of a detection older than the tile's entry of its initiator leaves that entry as it is
(notes/assumptions/73.md). -/
def execDloQuery (n : Nat) (s : State) : Host.Outcome State Fault Refusal :=
  match s.net[n]? with
  | some (.dloQuery ctx det src e) =>
    let ltn := e.dst.ltn
    let s := s.takePacket n
    let answer (s : State) (v : Verdict) : State := s.sendReply ctx det src e (bare v)
    (match s.ptnOf ctx ltn with
     | none => .next (answer s .active)
     | some ptn =>
       let p := s.part ctx ltn
       let t := s.tileRef ctx ltn
       let s := match p.visit det.init with
         | some v => if !olderSerial v.det.serial det.serial then s
             else if v.awaiting = [] then s.dropVisit ctx ltn det.init else s.endVisit ctx ltn v (bare .busy)
         | none => s
       let p := s.part ctx ltn
       let closed := (p.port e.dst.port).faces ⟨src.pkg, src.ltn, e.port⟩
       if !s.blockedTile ctx ltn ∨ closed then .next (answer s .active)
       else if det.init = t then .next (answer s .blocked)
       else
         match p.visit det.init with
         | some v =>
           if v.det.serial ≠ det.serial then .next (answer s (if det.pass = 1 then .blocked else .busy))
           else if det.pass = 1 then .next (answer (s.putVisit ctx ltn { v with asked := v.asked + 1 }) .blocked)
           else if p.asn ≠ v.asn ∨ p.edges ≠ v.edges then .next (answer (s.countDown ctx ltn v) .active)
           else if v.det.pass = 2 then .next (answer (s.countDown ctx ltn v) .blocked)
           else
             let w : Visit := { v with det := det, engager := src, via := e, awaiting := v.edges, got := ownReport t v.edges }
             if v.edges = [] then .next ((s.countDown ctx ltn w).sendReply ctx det src e w.got)
             else .next (v.edges.foldl (fun s x => s.sendQuery ctx det t x) (s.putVisit ctx ltn w))
         | none =>
           if det.pass = 2 then .next (answer s .busy)
           else
             match s.makeRoom ptn ctx det.init with
             | (false, s) => .next (answer s .busy)
             | (true, s) =>
               let edges := p.edges
               let w : Visit := ⟨det, src, e, 1, p.asn, edges, edges, ownReport t edges⟩
               let s := s.putVisit ctx ltn w
               .next (if edges = [] then s.sendReply ctx det src e w.got
                 else edges.foldl (fun s x => s.sendQuery ctx det t x) s))
  | _ => .next s

/-- DEADLOCK_DECLARE (R265, R266): the record, and in mode 2 the operation on the lowest port with an open edge completes DEADLOCK. -/
def State.declare (s : State) (ctx ltn : Nat) (v : Visit) (got : Report) : State :=
  let mode := (s.ctx ctx).dlm
  let port := ((v.edges.map (·.port)).head?).getD 0
  let word (t : TileRef) (p : Nat) : List Byte := leBytes 8 (t.pkg * 2 ^ 56 + t.ltn * 2 ^ 44 + p)
  let record := leBytes 1 0x20 ++ leBytes 1 ctx ++ leBytes 1 mode ++ leBytes 1 got.pairs.length ++ leBytes 4 got.count
    ++ word v.det.init 0 ++ leBytes 8 (if mode = 2 then 2 ^ 63 + port else 0) ++ leBytes 8 0
    ++ padTo 256 (got.pairs.flatMap fun x => word x.1 x.2)
  if mode = 0 then s
  else
    let s := s.notice ctx record
    if mode = 2 then (s.withdrawPort ctx ltn port .deadlock).engines ctx ltn else s

/-- The initiator has every answer of a pass (R263, R264). -/
def State.passDone (s : State) (ctx ltn : Nat) (v : Visit) : State :=
  let p := s.part ctx ltn
  let t := s.tileRef ctx ltn
  let stop (s : State) : State := s.setPart ctx ltn { s.part ctx ltn with det := none }
  match v.got.verdict with
  | .busy => if s.blockedTile ctx ltn ∧ p.edges ≠ [] ∧ (s.ctx ctx).dlm ≠ 0 then s.startDetection ctx ltn else stop s
  | .active => stop s
  | .blocked =>
    if !s.blockedTile ctx ltn ∨ p.asn ≠ v.asn ∨ p.edges ≠ v.edges then stop s
    else if v.det.pass = 1 then
      let det : Detection := { v.det with pass := 2 }
      let w : Visit := { v with det := det, awaiting := v.edges, got := ownReport t v.edges }
      v.edges.foldl (fun s e => s.sendQuery ctx det t e) (s.setPart ctx ltn { p with det := some w })
    else if v.got.low = some t then (stop s).declare ctx ltn v v.got
    else stop s

/-- An answer that reaches an engaged tile. With the last of the second pass, a tile that is not as the first pass found it replies ACTIVE, though it has
collected a BUSY: DESIGN CHOICE (notes/assumptions/91.md). -/
def State.collect (s : State) (ctx ltn : Nat) (det : Detection) (e : Edge) (r : Report) : State :=
  let p := s.part ctx ltn
  match p.visit det.init with
  | none => s
  | some v =>
    if v.det ≠ det ∨ !v.awaiting.contains e then s
    else
      let w : Visit := { v with awaiting := v.awaiting.erase e, got := v.got.and r }
      if w.awaiting ≠ [] then s.putVisit ctx ltn w
      else
        let still := s.blockedTile ctx ltn && decide (p.asn = w.asn) && decide (p.edges = w.edges)
        let r : Report := if det.pass = 1 ∨ still then w.got else bare .active
        let s := if det.pass = 1 then s.putVisit ctx ltn w else s.countDown ctx ltn w
        s.sendReply ctx det w.engager w.via r

/-- DLO_REPLY (R262, R263): one answer is collected; with the last, an engaged tile replies and the initiator decides. -/
def execDloReply (n : Nat) (s : State) : Host.Outcome State Fault Refusal :=
  match s.net[n]? with
  | some (.dloReply ctx det dst e r) =>
    let ltn := dst.ltn
    let s := s.takePacket n
    let p := s.part ctx ltn
    (match s.ptnOf ctx ltn with
     | none => .next s
     | some _ =>
       match p.det with
       | some v =>
         if v.det = det ∧ v.awaiting.contains e then
           let w : Visit := { v with awaiting := v.awaiting.erase e, got := v.got.and r }
           let s := s.setPart ctx ltn { p with det := some w }
           .next (if w.awaiting = [] then s.passDone ctx ltn w else s)
         else .next (s.collect ctx ltn det e r)
       | none => .next (s.collect ctx ltn det e r))
  | _ => .next s

end Sys2Proof.Machine
end

