-- ==== Sys2Proof/Machine/Fetch.lean ====
section
/-! DEFINITION. Fetching an instruction (R71, R76, R77): the tile's instruction cache, memory through the page tables, and what a fetch that
fails or a word that is rejected comes to. -/

namespace Sys2Proof.Machine

/-- What a fetch of a word comes to: the word, a trap with its cause and ADDR, or a wait for the fault service. -/
inductive Fetched where
  | word (w : Word)
  | trap (cause : Nat) (addr : Word)
  | wait

/-- A word read from memory for execution (R77, R369, R415), with the translation kept. A fetch of an address without storage is one that fails
translation (DEDUCED, notes/assumptions/58.md), and one at a PC that is no multiple of 8 reads the 8 bytes there (DESIGN CHOICE, 59.md). -/
def State.fetchMem (s : State) (d : Dev) (va : Nat) : Fetched × State :=
  let ctx := d.ctx
  if s.marked d va true then (.trap 0x10 0, s.devDone d va 8)
  else
    match s.translate ctx va .fetch with
    | (.ok p, u) =>
      let s := u.devDone d va 8
      (match p.home with
       | .remote pkg =>
         (match u.farRead d va p pkg 8 with
          | .ok l => (.word (BitVec.ofNat 64 (ofLeBytes l)), s)
          | .error (.wait m) => (.wait, u.service m 2)
          | .error (.poison _) => (.trap 0x12 (BitVec.ofNat 64 va), u.devFail d (.poison none))
          | .error (.fault _) => (.trap 0x10 0, u.devFail d (.fault none)))
       | .hbm | .ld | .host =>
         if !hasStorage s.carve p.home p.pa 8 then (.trap 0x10 0, s.lostRas ctx (0x32, p.pa))
         else if s.poisoned p.home p.pa 8 then (.trap 0x12 (BitVec.ofNat 64 va), s.poisonRas (s.badPlace p 8 false) ctx)
         else (.word (BitVec.ofNat 64 (ofLeBytes (s.homeBytes p 8))), s))
    | (.miss, s) => if s.marked d va false then (.trap 0x10 0, s.devDone d va 8) else (.wait, s.service ⟨d, va, none⟩ 2)
    | (.fault, s) => (.trap 0x10 0, s)
    | (.prot, s) => (.trap 0x11 0, s)

/-- A word that the tile's instruction cache holds. -/
def State.cachedWord (s : State) (ptn ctx va : Nat) : Option Word :=
  ((s.tile ptn).icache.find? fun c => decide (c.ctx = ctx) && decide (c.va = va)).map (·.word)

/-- A seat's fetches as accesses of the device (R372). -/
def SeatId.fetches (p : SeatId) (ctx : Nat) : Dev := ⟨ctx, ptnDie p.ptn, .seat p⟩

/-- The word at an address for a seat, from its tile's cache or from memory. -/
def State.fetchWord (s : State) (p : SeatId) (ctx va : Nat) : Fetched × State :=
  match s.cachedWord p.ptn ctx va with
  | some w => (.word w, s)
  | none => s.fetchMem (p.fetches ctx) va

/-- What stands at the PC of a threadlet. -/
inductive Next where
  | instr (i : Instr)
  /-- the word fails a check of R76 with this cause -/
  | reject (cause : Nat) (iword : Word)
  /-- the fetch fails -/
  | fault (cause : Nat) (addr : Word)
  | wait

/-- The cause of a rejected word: the privilege check comes before checks 5 and 6 (R76, R78). -/
def rejectCause (priv : Bool) (w : Word) (r : Reject) : Nat :=
  let opc := w.toNat / 2 ^ 56
  match r with
  | .illegal => 0x01
  | .mbz => if 0xD1 ≤ opc ∧ opc ≤ 0xD7 ∧ !priv then 0x0B else 0x02
  | .operand => if 0xD1 ≤ opc ∧ opc ≤ 0xD7 ∧ !priv then 0x0B else 0x03

/-- The instruction of one or two words. -/
def nextOf (priv : Bool) (w w1 : Word) : Next :=
  match decode w w1 with
  | .ok i => .instr i
  | .error r => .reject (rejectCause priv w r) w

/-- An LI64 whose first word passes checks 1 to 3, so that its second word is fetched (R71). -/
def wantsSecond (w : Word) : Bool :=
  decide (w.toNat / 2 ^ 56 = 0x3B) && (match decode w 0 with
    | .error .illegal => false
    | _ => true)

/-- The instruction at the PC of a seat's threadlet. An LI64 whose second word cannot be fetched takes that fault even where checks 5 and 6
would reject its first word: DESIGN CHOICE (notes/assumptions/60.md). A seat of a tile that is being evicted begins no instruction (R37). -/
def State.fetchNext (s : State) (p : SeatId) (t : Threadlet) : Next × State :=
  let priv := (s.ctx t.ctx).priv
  if (s.tme t.ctx t.ltn).st = .moving then (.wait, s)
  else
  match s.fetchWord p t.ctx t.pc.toNat with
  | (.word w, s) =>
    if wantsSecond w then
      (match s.fetchWord p t.ctx (t.pc + 8).toNat with
       | (.word w1, s) => (nextOf priv w w1, s)
       | (.trap c a, s) => (.fault c a, s)
       | (.wait, s) => (.wait, s))
    else (nextOf priv w 0, s)
  | (.trap c a, s) => (.fault c a, s)
  | (.wait, s) => (.wait, s)

/-- A fetch fault (R77): RFL.FETCH, IWORD 0. -/
def State.fetchTrap (s : State) (v : View) (cause : Nat) (addr : Word) : State :=
  (s.trap v ⟨cause, 0, addr, 0, 4, 0, v.t.pc, 0⟩).finishPart v.t.ctx v.t.ltn

/-- A word that is rejected traps at its own PC (R76). -/
def State.rejectTrap (s : State) (v : View) (cause : Nat) (w : Word) : State :=
  (s.trap v ⟨cause, 0, 0, 0, 0, 0, v.t.pc, w⟩).finishPart v.t.ctx v.t.ltn

/-- A word put into the tile's instruction cache, which holds 64 KiB (R18): the oldest word goes. -/
def State.cacheWord (s : State) (ptn ctx va : Nat) (w : Word) : State :=
  let t := s.tile ptn
  let l := (t.icache.filter fun c => !(decide (c.ctx = ctx) && decide (c.va = va))) ++ [⟨ctx, va, w⟩]
  s.setTile ptn { t with icache := l.drop (l.length - Config.icacheWords) }

/-- INSTRUCTION_FETCH (R77): a seat's next word comes from memory into the instruction cache, the second of an LI64 after the first; a word
that is there is fetched anew. -/
def execInstructionFetch (ptn core seat : Nat) (s : State) : Host.Outcome State Fault Refusal :=
  let p : SeatId := ⟨ptn, core, seat⟩
  match s.seat p with
  | .run t =>
    let first := s.cachedWord ptn t.ctx t.pc.toNat
    let va := if first.any wantsSecond && (s.cachedWord ptn t.ctx (t.pc + 8).toNat).isNone then (t.pc + 8).toNat else t.pc.toNat
    (match s.fetchMem (p.fetches t.ctx) va with
     | (.word w, s) => .next (s.cacheWord ptn t.ctx va w)
     | (.trap c a, s) => .next (s.fetchTrap ⟨p, t⟩ c a)
     | (.wait, s) => .next s)
  | .idle | .save _ => .next s

end Sys2Proof.Machine
end

