-- ==== Sys2Proof/Machine/Scalar.lean ====
section
/-! DEFINITION. Scalar integer instructions (R89 to R91, R97 to R105). -/

namespace Sys2Proof.Machine

/-- Two sources and one result through Src, and Put or PutSat (R89, R97, R98). -/
def intBinary (s : State) (v : View) (sat : Bool) (ty : Ty) (d x y : Operand) (f : Int → Int → Int) : Res :=
  let (r, fl) := finishInt ty sat (f (intSrc ty (s.readOp v x).toNat) (intSrc ty (s.readOp v y).toNat))
  retireOp s v d (put ty r) fl

/-- One source and one result (R97, R98). -/
def intUnary (s : State) (v : View) (sat : Bool) (ty : Ty) (d x : Operand) (f : Int → Int) : Res :=
  let (r, fl) := finishInt ty sat (f (intSrc ty (s.readOp v x).toNat))
  retireOp s v d (put ty r) fl

/-- A bit pattern of W bits, then Put (R97, R100). -/
def bitsUnary (s : State) (v : View) (ty : Ty) (d x : Operand) (f : Nat → Nat) : Res :=
  retireOp s v d (put ty (f (s.readOp v x).toNat)) 0

/-- A count, written unsigned (R101). -/
def countUnary (s : State) (v : View) (d x : Operand) (f : Nat → Nat) : Res :=
  retireOp s v d (BitVec.ofNat 64 (f (s.readOp v x).toNat)) 0

/-- 64-bit operations with no type (R97). -/
def wordBinary (s : State) (v : View) (d x y : Operand) (f : Word → Word → Word) : Res :=
  retireOp s v d (f (s.readOp v x) (s.readOp v y)) 0

/-- Shifts and rotates (R100). -/
def shiftBinary (s : State) (v : View) (k : ShiftKind) (ty : Ty) (d x y : Operand) : Res :=
  retireOp s v d (put ty (shiftBits k ty.width (s.readOp v x).toNat (s.readOp v y).toNat)) 0

/-- DIV and REM: with the context's integer-trap enable set, the cases of R54 trap with cause 0x07 (R99). -/
def divBinary (s : State) (v : View) (ty : Ty) (d x y : Operand) (f : Ty → Int → Int → Int) : Res :=
  let a := intSrc ty (s.readOp v x).toNat
  let b := intSrc ty (s.readOp v y).toNat
  if (s.ctx v.t.ctx).ien && divTraps ty a b then trapWith 0x07 else retireOp s v d (put ty (f ty a b)) 0

/-- A comparison's outcome: 1 or 0 (R103). -/
def boolWord (b : Bool) : Word := if b then 1 else 0

/-- A 64-bit operation with an immediate (R104). -/
def immBinary (s : State) (v : View) (d x : Operand) (f : Word → Word) : Res := retireOp s v d (f (s.readOp v x)) 0

/-- ADD (R97, R98). -/
def execAdd (g : Guard) (sat : Bool) (ty : Ty) (d x y : Operand) (s : State) : Host.Outcome State Fault Refusal :=
  issue (.add g sat ty d x y) s fun s v => intBinary s v sat ty d x y fun x y => x + y

/-- SUB (R97, R98). -/
def execSub (g : Guard) (sat : Bool) (ty : Ty) (d x y : Operand) (s : State) : Host.Outcome State Fault Refusal :=
  issue (.sub g sat ty d x y) s fun s v => intBinary s v sat ty d x y fun x y => x - y

/-- MUL (R97, R98). -/
def execMul (g : Guard) (sat : Bool) (ty : Ty) (d x y : Operand) (s : State) : Host.Outcome State Fault Refusal :=
  issue (.mul g sat ty d x y) s fun s v => intBinary s v sat ty d x y fun x y => x * y

/-- MULH (R99). -/
def execMulh (g : Guard) (ty : Ty) (d x y : Operand) (s : State) : Host.Outcome State Fault Refusal :=
  issue (.mulh g ty d x y) s fun s v => intBinary s v false ty d x y fun x y => x * y / 2 ^ ty.width

/-- DIV (R54, R99). -/
def execDiv (g : Guard) (ty : Ty) (d x y : Operand) (s : State) : Host.Outcome State Fault Refusal :=
  issue (.div g ty d x y) s fun s v => divBinary s v ty d x y divInt

/-- REM (R54, R99). -/
def execRem (g : Guard) (ty : Ty) (d x y : Operand) (s : State) : Host.Outcome State Fault Refusal :=
  issue (.rem g ty d x y) s fun s v => divBinary s v ty d x y remInt

/-- AND (R97). -/
def execAnd (g : Guard) (d x y : Operand) (s : State) : Host.Outcome State Fault Refusal :=
  issue (.and g d x y) s fun s v => wordBinary s v d x y fun x y => x &&& y

/-- OR (R97). -/
def execOr (g : Guard) (d x y : Operand) (s : State) : Host.Outcome State Fault Refusal :=
  issue (.or g d x y) s fun s v => wordBinary s v d x y fun x y => x ||| y

/-- XOR (R97). -/
def execXor (g : Guard) (d x y : Operand) (s : State) : Host.Outcome State Fault Refusal :=
  issue (.xor g d x y) s fun s v => wordBinary s v d x y fun x y => x ^^^ y

/-- ANDN (R97). -/
def execAndn (g : Guard) (d x y : Operand) (s : State) : Host.Outcome State Fault Refusal :=
  issue (.andn g d x y) s fun s v => wordBinary s v d x y fun x y => x &&& ~~~y

/-- ORN (R97). -/
def execOrn (g : Guard) (d x y : Operand) (s : State) : Host.Outcome State Fault Refusal :=
  issue (.orn g d x y) s fun s v => wordBinary s v d x y fun x y => x ||| ~~~y

/-- SHL (R100). -/
def execShl (g : Guard) (ty : Ty) (d x y : Operand) (s : State) : Host.Outcome State Fault Refusal :=
  issue (.shl g ty d x y) s fun s v => shiftBinary s v .shl ty d x y

/-- SHR (R100). -/
def execShr (g : Guard) (ty : Ty) (d x y : Operand) (s : State) : Host.Outcome State Fault Refusal :=
  issue (.shr g ty d x y) s fun s v => shiftBinary s v .shr ty d x y

/-- SAR (R100). -/
def execSar (g : Guard) (ty : Ty) (d x y : Operand) (s : State) : Host.Outcome State Fault Refusal :=
  issue (.sar g ty d x y) s fun s v => shiftBinary s v .sar ty d x y

/-- ROL (R100). -/
def execRol (g : Guard) (ty : Ty) (d x y : Operand) (s : State) : Host.Outcome State Fault Refusal :=
  issue (.rol g ty d x y) s fun s v => shiftBinary s v .rol ty d x y

/-- ROR (R100). -/
def execRor (g : Guard) (ty : Ty) (d x y : Operand) (s : State) : Host.Outcome State Fault Refusal :=
  issue (.ror g ty d x y) s fun s v => shiftBinary s v .ror ty d x y

/-- MIN (R97). -/
def execMin (g : Guard) (ty : Ty) (d x y : Operand) (s : State) : Host.Outcome State Fault Refusal :=
  issue (.min g ty d x y) s fun s v => intBinary s v false ty d x y fun x y => if x ≤ y then x else y

/-- MAX (R97). -/
def execMax (g : Guard) (ty : Ty) (d x y : Operand) (s : State) : Host.Outcome State Fault Refusal :=
  issue (.max g ty d x y) s fun s v => intBinary s v false ty d x y fun x y => if x ≤ y then y else x

/-- CLZ (R101). -/
def execClz (g : Guard) (ty : Ty) (d x : Operand) (s : State) : Host.Outcome State Fault Refusal :=
  issue (.clz g ty d x) s fun s v => countUnary s v d x (clzBits ty.width)

/-- CTZ (R101). -/
def execCtz (g : Guard) (ty : Ty) (d x : Operand) (s : State) : Host.Outcome State Fault Refusal :=
  issue (.ctz g ty d x) s fun s v => countUnary s v d x (ctzBits ty.width)

/-- POPC (R101). -/
def execPopc (g : Guard) (ty : Ty) (d x : Operand) (s : State) : Host.Outcome State Fault Refusal :=
  issue (.popc g ty d x) s fun s v => countUnary s v d x (popBits ty.width)

/-- BREV (R97). -/
def execBrev (g : Guard) (ty : Ty) (d x : Operand) (s : State) : Host.Outcome State Fault Refusal :=
  issue (.brev g ty d x) s fun s v => bitsUnary s v ty d x (revBits ty.width)

/-- BSWAP (R97). -/
def execBswap (g : Guard) (ty : Ty) (d x : Operand) (s : State) : Host.Outcome State Fault Refusal :=
  issue (.bswap g ty d x) s fun s v => bitsUnary s v ty d x (swapBytes ty.width)

/-- EXT (R97). -/
def execExt (g : Guard) (ty : Ty) (d x : Operand) (s : State) : Host.Outcome State Fault Refusal :=
  issue (.ext g ty d x) s fun s v => intUnary s v false ty d x fun x => x

/-- BFX (R102). -/
def execBfx (g : Guard) (d x y : Operand) (s : State) : Host.Outcome State Fault Refusal :=
  issue (.bfx g d x y) s fun s v => wordBinary s v d x y bfx

/-- BFI (R102). -/
def execBfi (g : Guard) (d x y z : Operand) (s : State) : Host.Outcome State Fault Refusal :=
  issue (.bfi g d x y z) s fun s v => retireOp s v d (bfi (s.readOp v x) (s.readOp v y) (s.readOp v z)) 0

/-- MADD (R97). -/
def execMadd (g : Guard) (ty : Ty) (d x y z : Operand) (s : State) : Host.Outcome State Fault Refusal :=
  issue (.madd g ty d x y z) s fun s v => intBinary s v false ty d x y fun x y => x * y + intSrc ty (s.readOp v z).toNat

/-- CMP (R103). -/
def execCmp (g : Guard) (cond : Cond) (ty : Ty) (d x y : Operand) (s : State) : Host.Outcome State Fault Refusal :=
  issue (.cmp g cond ty d x y) s fun s v => retireOp s v d (boolWord (condInt cond (intSrc ty (s.readOp v x).toNat) (intSrc ty (s.readOp v y).toNat))) 0

/-- SEL (R103). -/
def execSel (g : Guard) (d x y z : Operand) (s : State) : Host.Outcome State Fault Refusal :=
  issue (.sel g d x y z) s fun s v => retireOp s v d (if (s.readOp v z).getLsbD 0 then s.readOp v x else s.readOp v y) 0

/-- MOV (R103). -/
def execMov (g : Guard) (d x : Operand) (s : State) : Host.Outcome State Fault Refusal :=
  issue (.mov g d x) s fun s v => retireOp s v d (s.readOp v x) 0

/-- ABS (R97, R98). -/
def execAbs (g : Guard) (sat : Bool) (ty : Ty) (d x : Operand) (s : State) : Host.Outcome State Fault Refusal :=
  issue (.abs g sat ty d x) s fun s v => intUnary s v sat ty d x fun x => (x.natAbs : Int)

/-- NEG (R97, R98). -/
def execNeg (g : Guard) (sat : Bool) (ty : Ty) (d x : Operand) (s : State) : Host.Outcome State Fault Refusal :=
  issue (.neg g sat ty d x) s fun s v => intUnary s v sat ty d x fun x => -x

/-- ADDI (R104). -/
def execAddi (g : Guard) (d x : Operand) (imm : BitVec 32) (s : State) : Host.Outcome State Fault Refusal :=
  issue (.addi g d x imm) s fun s v => immBinary s v d x fun x => x + imm.signExtend 64

/-- MULI (R104). -/
def execMuli (g : Guard) (d x : Operand) (imm : BitVec 32) (s : State) : Host.Outcome State Fault Refusal :=
  issue (.muli g d x imm) s fun s v => immBinary s v d x fun x => x * imm.signExtend 64

/-- ANDI (R104). -/
def execAndi (g : Guard) (d x : Operand) (imm : BitVec 32) (s : State) : Host.Outcome State Fault Refusal :=
  issue (.andi g d x imm) s fun s v => immBinary s v d x fun x => x &&& imm.setWidth 64

/-- ORI (R104). -/
def execOri (g : Guard) (d x : Operand) (imm : BitVec 32) (s : State) : Host.Outcome State Fault Refusal :=
  issue (.ori g d x imm) s fun s v => immBinary s v d x fun x => x ||| imm.setWidth 64

/-- XORI (R104). -/
def execXori (g : Guard) (d x : Operand) (imm : BitVec 32) (s : State) : Host.Outcome State Fault Refusal :=
  issue (.xori g d x imm) s fun s v => immBinary s v d x fun x => x ^^^ imm.setWidth 64

/-- SHLI (R104). -/
def execShli (g : Guard) (d x : Operand) (imm : BitVec 6) (s : State) : Host.Outcome State Fault Refusal :=
  issue (.shli g d x imm) s fun s v => immBinary s v d x fun x => BitVec.ofNat 64 (shiftBits .shl 64 x.toNat imm.toNat)

/-- SHRI (R104). -/
def execShri (g : Guard) (d x : Operand) (imm : BitVec 6) (s : State) : Host.Outcome State Fault Refusal :=
  issue (.shri g d x imm) s fun s v => immBinary s v d x fun x => BitVec.ofNat 64 (shiftBits .shr 64 x.toNat imm.toNat)

/-- SARI (R104). -/
def execSari (g : Guard) (d x : Operand) (imm : BitVec 6) (s : State) : Host.Outcome State Fault Refusal :=
  issue (.sari g d x imm) s fun s v => immBinary s v d x fun x => BitVec.ofNat 64 (shiftBits .sar 64 x.toNat imm.toNat)

/-- CMPI (R104). -/
def execCmpi (g : Guard) (cond : CondI) (d x : Operand) (imm : BitVec 32) (s : State) : Host.Outcome State Fault Refusal :=
  issue (.cmpi g cond d x imm) s fun s v => immBinary s v d x fun x => boolWord (condImm cond x (imm.signExtend 64))

/-- LI (R104). -/
def execLi (g : Guard) (d : Operand) (imm : BitVec 32) (s : State) : Host.Outcome State Fault Refusal :=
  issue (.li g d imm) s fun s v => retireOp s v d (imm.signExtend 64) 0

/-- LIH (R105). -/
def execLih (g : Guard) (d : Operand) (imm : BitVec 32) (s : State) : Host.Outcome State Fault Refusal :=
  issue (.lih g d imm) s fun s v => retireOp s v d (BitVec.ofNat 64 (imm.toNat * 2 ^ 32 + (s.readOp v d).toNat % 2 ^ 32)) 0

/-- LI64 (R71). -/
def execLi64 (g : Guard) (d : Operand) (imm : Word) (s : State) : Host.Outcome State Fault Refusal :=
  issue (.li64 g d imm) s fun s v => retireOp s v d imm 0

/-- LEA (R104). -/
def execLea (g : Guard) (d x : Operand) (imm : BitVec 32) (s : State) : Host.Outcome State Fault Refusal :=
  issue (.lea g d x imm) s fun s v => immBinary s v d x fun x => x + imm.signExtend 64

/-- LEA.pc (R104). -/
def execLeaPc (g : Guard) (d : Operand) (imm : BitVec 32) (s : State) : Host.Outcome State Fault Refusal :=
  issue (.leaPc g d imm) s fun s v => retireOp s v d (v.t.pc + 8 * imm.signExtend 64) 0

end Sys2Proof.Machine
end

