-- ==== Sys2Proof/Machine/Float.lean ====
section
/-! DEFINITION. Scalar floating-point instructions (R90, R106 to R112). -/

namespace Sys2Proof.Machine

/-- A floating result: the low bits, and zeros above (R90). -/
def retireFloat (s : State) (v : View) (d : Operand) (r : Nat × Fl) : Res := retireOp s v d (BitVec.ofNat 64 r.1) r.2

/-- Two sources, one rounding (R106, R107). -/
def floatBinary (s : State) (v : View) (op : FloatOp) (ty : Ty) (m : Mode) (d x y : Operand) : Res :=
  retireFloat s v d (floatOp op ty m (s.readOp v x).toNat (s.readOp v y).toNat)

/-- FADD (R106). -/
def execFadd (g : Guard) (ty : Ty) (rnd : Rounding) (d x y : Operand) (s : State) : Host.Outcome State Fault Refusal :=
  issue (.fadd g ty rnd d x y) s fun s v => floatBinary s v .add ty (s.mode v rnd) d x y

/-- FSUB (R106). -/
def execFsub (g : Guard) (ty : Ty) (rnd : Rounding) (d x y : Operand) (s : State) : Host.Outcome State Fault Refusal :=
  issue (.fsub g ty rnd d x y) s fun s v => floatBinary s v .sub ty (s.mode v rnd) d x y

/-- FMUL (R106). -/
def execFmul (g : Guard) (ty : Ty) (rnd : Rounding) (d x y : Operand) (s : State) : Host.Outcome State Fault Refusal :=
  issue (.fmul g ty rnd d x y) s fun s v => floatBinary s v .mul ty (s.mode v rnd) d x y

/-- FFMA (R55, R106). -/
def execFfma (g : Guard) (ty : Ty) (rm : RM) (d x y z : Operand) (s : State) : Host.Outcome State Fault Refusal :=
  issue (.ffma g ty rm d x y z) s fun s v => retireFloat s v d (fmaOp ty (rmMode rm) (s.readOp v x).toNat (s.readOp v y).toNat (s.readOp v z).toNat)

/-- FDIV (R107). -/
def execFdiv (g : Guard) (ty : Ty) (rm : RM) (d x y : Operand) (s : State) : Host.Outcome State Fault Refusal :=
  issue (.fdiv g ty rm d x y) s fun s v => floatBinary s v .div ty (rmMode rm) d x y

/-- FSQRT (R107). -/
def execFsqrt (g : Guard) (ty : Ty) (rm : RM) (d x : Operand) (s : State) : Host.Outcome State Fault Refusal :=
  issue (.fsqrt g ty rm d x) s fun s v => retireFloat s v d (floatFn .sqrt ty (rmMode rm) (s.readOp v x).toNat)

/-- FMIN (R43, R108). -/
def execFmin (g : Guard) (ty : Ty) (d x y : Operand) (s : State) : Host.Outcome State Fault Refusal :=
  issue (.fmin g ty d x y) s fun s v => retireFloat s v d (floatMinMax false ty (s.readOp v x).toNat (s.readOp v y).toNat)

/-- FMAX (R43, R108). -/
def execFmax (g : Guard) (ty : Ty) (d x y : Operand) (s : State) : Host.Outcome State Fault Refusal :=
  issue (.fmax g ty d x y) s fun s v => retireFloat s v d (floatMinMax true ty (s.readOp v x).toNat (s.readOp v y).toNat)

/-- FCMP (R108). -/
def execFcmp (g : Guard) (cond : Cond) (ty : Ty) (d x y : Operand) (s : State) : Host.Outcome State Fault Refusal :=
  issue (.fcmp g cond ty d x y) s fun s v => 
    let r := floatCmp cond ty (s.readOp v x).toNat (s.readOp v y).toNat
    retireOp s v d (boolWord r.1) r.2

/-- FCVT (R50, R109); an integer result is extended by Put (R90). -/
def execFcvt (g : Guard) (sat : Bool) (dt ty : Ty) (rnd : Rounding) (d x : Operand) (s : State) : Host.Outcome State Fault Refusal :=
  issue (.fcvt g sat dt ty rnd d x) s fun s v => 
    let r := convert dt ty sat (s.mode v rnd) (s.readOp v x).toNat
    retireOp s v d (if dt.isInt then put dt r.1 else BitVec.ofNat 64 r.1) r.2

/-- FCLASS (R110). -/
def execFclass (g : Guard) (ty : Ty) (d x : Operand) (s : State) : Host.Outcome State Fault Refusal :=
  issue (.fclass g ty d x) s fun s v => retireOp s v d (BitVec.ofNat 64 (fclass ty (s.readOp v x).toNat)) 0

/-- FRND (R111). -/
def execFrnd (g : Guard) (ty : Ty) (rm : RM) (d x : Operand) (s : State) : Host.Outcome State Fault Refusal :=
  issue (.frnd g ty rm d x) s fun s v => retireFloat s v d (frnd ty (s.readOp v x).toNat (rmMode rm))

end Sys2Proof.Machine
end

