-- ==== Sys2Proof/Machine/Local.lean ====
section
/-! DEFINITION. The scratchpad as cores and engines of the tile reach it (R128, R131, R415). -/

namespace Sys2Proof.Machine

/-- The effective address X + OFF x 2^SZ (R68). -/
def State.localAddr (s : State) (v : View) (x : Operand) (off : BitVec 16) (sz : Nat) : Nat :=
  (s.readOp v x + off.signExtend 64 * BitVec.ofNat 64 (2 ^ sz)).toNat

/-- Checks 2 to 4 of R131 for a load of consecutive bytes by an instruction that reads a datum as well. -/
def State.loadCheck (s : State) (v : View) (data : List Operand) (a n align : Nat) : Option Res :=
  if a % align ≠ 0 then some (trapWith 0x06)
  else if !s.rangeOk v.t.ctx v.t.ltn a n then some (trapWith 0x05)
  else if (s.poisonTrap v.t data).isSome then s.poisonTrap v.t data
  else if (s.part v.t.ctx v.t.ltn).poisonedIn a n then some (.trap 0x12 0 (addrWord a) 0)
  else none

/-- Checks 2 to 4 of R131 for a store of consecutive bytes. -/
def State.storeCheck (s : State) (v : View) (data : List Operand) (a n align : Nat) : Option Res :=
  if a % align ≠ 0 then some (trapWith 0x06)
  else if !s.rangeOk v.t.ctx v.t.ltn a n then some (trapWith 0x05)
  else if (s.poisonTrap v.t data).isSome then s.poisonTrap v.t data
  else if (s.part v.t.ctx v.t.ltn).poisonedPart a n then some (.trap 0x12 0 (addrWord a) 0)
  else none

/-- A value read from consecutive local bytes, little-endian (R3). -/
def State.localRead (s : State) (ctx ltn a n : Nat) : Nat := ofLeBytes ((s.part ctx ltn).bytes a n)
/-- Consecutive local bytes written. -/
def State.localWrite (s : State) (ctx ltn a : Nat) (bs : List Byte) : State := s.setPart ctx ltn ((s.part ctx ltn).store a bs)

end Sys2Proof.Machine
end

