-- ==== Sys2Proof/Machine/LocalMem.lean ====
section
/-! DEFINITION. Local memory instructions (R131 to R137). -/

namespace Sys2Proof.Machine

/-- Zero or sign extension of a loaded value (R132). -/
def extendLoad (sext : Bool) (bytes v : Nat) : Word :=
  if sext then BitVec.ofInt 64 (intSrc (match bytes with | 1 => .s8 | 2 => .s16 | 4 => .s32 | _ => .s64) v)
  else BitVec.ofNat 64 (v % 2 ^ (8 * bytes))

/-- Local addresses of the active byte lanes of VLDS and VSTS: (lane, address), sums mod 2^64 (R128, R133). -/
def activeBytes (m : Word) (a : Nat) : List (Nat × Nat) :=
  (List.range 64).filterMap fun j => if active m j then some (j, (a + j) % 2 ^ 64) else none

/-- Local addresses of the active elements of VGATH and VSCAT: (lane, address), sums mod 2^64 (R134). -/
def activeElems (m : Word) (a bytes : Nat) (idx : BitVec 512) : List (Nat × Nat) :=
  (List.range (64 / bytes)).filterMap fun j =>
    if active m j then some (j, (a + lane idx (8 * bytes) j * bytes) % 2 ^ 64) else none

/-- The first address of a list whose word is poisoned (R131, R415). -/
def poisonAt (p : Part) (l : List (Nat × Nat)) (bytes : Nat) : Option Nat :=
  (l.find? fun e => p.poisonedIn e.2 bytes).map (·.2)

/-- A poisoned word that a masked store of bytes reaches without covering it whole (R415). -/
def partPoisonAt (p : Part) (l : List (Nat × Nat)) : Option Nat :=
  (l.find? fun e => p.spoison.contains (e.2 / 8) &&
    !((List.range 8).all fun k => l.any fun f => f.2 = e.2 / 8 * 8 + k)).map (·.2)

/-- The poisoned words that a masked store covers whole lose their marks (R415). -/
def clearCovered (p : Part) (l : List (Nat × Nat)) : Part :=
  { p with spoison := p.spoison.filter fun w => !((List.range 8).all fun k => l.any fun f => f.2 = w * 8 + k) }

/-- LDS (R132). -/
def execLds (g : Guard) (sext : Bool) (sz : Fin 7) (d x : Operand) (off : BitVec 16) (s : State) :
    Host.Outcome State Fault Refusal :=
  issue (.lds g sext sz d x off) s fun s v =>
    let n := 2 ^ sz.val
    let a := s.localAddr v x off sz.val
    (s.loadCheck v [] a n n).getD (retireOp s v d (extendLoad sext n (s.localRead v.t.ctx v.t.ltn a n)) 0)

/-- STS (R132). -/
def execSts (g : Guard) (sz : Fin 7) (d x : Operand) (off : BitVec 16) (s : State) : Host.Outcome State Fault Refusal :=
  issue (.sts g sz d x off) s fun s v =>
    let n := 2 ^ sz.val
    let a := s.localAddr v x off sz.val
    (s.storeCheck v [d] a n n).getD (retire (s.localWrite v.t.ctx v.t.ltn a (leBytes n (s.readOp v d).toNat)) v.t)

/-- VLDS: inactive bytes of D are unchanged (R133). -/
def execVlds (g : Guard) (d x : Operand) (off : BitVec 16) (s : State) : Host.Outcome State Fault Refusal :=
  issue (.vlds g d x off) s fun s v =>
    let a := s.localAddr v x off 6
    let m := v.t.guardMask g
    let p := s.part v.t.ctx v.t.ltn
    let l := activeBytes m a
    if a % 16 ≠ 0 then trapWith 0x06
    else if !(l.all fun e => s.localOk v.t.ctx v.t.ltn e.2) then trapWith 0x05
    else
      match poisonAt p l 1 with
      | some b => .trap 0x12 0 (addrWord b) 0
      | none =>
        let (r, fl) := mapLanes m 64 8 (v.t.vec d) fun j => ((p.byte ((a + j) % 2 ^ 64)).toNat, 0)
        .next s (v.t.setVec d r) fl

/-- VSTS: only active bytes are written (R133). -/
def execVsts (g : Guard) (d x : Operand) (off : BitVec 16) (s : State) : Host.Outcome State Fault Refusal :=
  issue (.vsts g d x off) s fun s v =>
    let a := s.localAddr v x off 6
    let p := s.part v.t.ctx v.t.ltn
    let l := activeBytes (v.t.guardMask g) a
    if a % 16 ≠ 0 then trapWith 0x06
    else if !(l.all fun e => s.localOk v.t.ctx v.t.ltn e.2) then trapWith 0x05
    else
      match partPoisonAt p l with
      | some b => .trap 0x12 0 (addrWord b) 0
      | none =>
        let p := clearCovered p l
        let m := l.foldl (fun m e => Tab.set 0 m e.2 (BitVec.ofNat 8 (lane (v.t.vec d) 8 e.1))) p.spad
        retire (s.setPart v.t.ctx v.t.ltn { p with spad := m }) v.t

/-- Local accesses that an instruction in progress has done, and what they have read (R130). -/
def Threadlet.doneSteps (t : Threadlet) : Nat := (t.mid.map (·.steps)).getD 0
def Threadlet.gotSoFar (t : Threadlet) (old : BitVec 512) : BitVec 512 :=
  match t.mid with
  | some m => if m.steps = 0 then old else m.got
  | none => old
/-- One more access is done. -/
def Threadlet.oneStep (t : Threadlet) (got : BitVec 512) : Threadlet :=
  { t with mid := t.mid.map fun m => { m with steps := m.steps + 1, got := got } }

/-- The elements of VGATH or VSCAT that are left, in ascending order, or the trap: alignment, then the grant, before the first of them, and a
poisoned word before each (R131, R134, R415). `part`: whether a poisoned word is met. -/
def State.elemsLeft (s : State) (v : View) (g : Guard) (sz : Fin 7) (x : Operand) (off : BitVec 16) (y : Operand) (part : Bool) :
    Except Res (List (Nat × Nat)) :=
  let n := 2 ^ sz.val
  let a := s.localAddr v x off sz.val
  let l := activeElems (v.t.guardMask g) a n (v.t.vec y)
  let left := l.drop v.t.doneSteps
  if v.t.doneSteps = 0 ∧ a % n ≠ 0 then .error (trapWith 0x06)
  else if v.t.doneSteps = 0 ∧ !(l.all fun e => s.rangeOk v.t.ctx v.t.ltn e.2 n) then .error (trapWith 0x05)
  else
    match (if part then Machine.poisonAt (s.part v.t.ctx v.t.ltn) left n else none) with
    | some b => .error (.trap 0x12 0 (addrWord b) 0)
    | none => .ok left

/-- The register with one element gathered, and the scratchpad with one scattered (R134). -/
def gatherOne (p : Part) (n : Nat) (r : BitVec 512) (e : Nat × Nat) : BitVec 512 := setLane r (8 * n) e.1 (ofLeBytes (p.bytes e.2 n))
def scatterOne (n : Nat) (x : BitVec 512) (p : Part) (e : Nat × Nat) : Part := p.store e.2 (leBytes n (lane x (8 * n) e.1))

/-- VGATH (R134): the elements that are left. -/
def execVgath (g : Guard) (sz : Fin 7) (d x : Operand) (off : BitVec 16) (y : Operand) (s : State) :
    Host.Outcome State Fault Refusal :=
  issue (.vgath g sz d x off y) s fun s v =>
    match s.elemsLeft v g sz x off y true with
    | .error r => r
    | .ok l => .next s (v.t.setVec d (l.foldl (gatherOne (s.part v.t.ctx v.t.ltn) (2 ^ sz.val)) (v.t.gotSoFar (v.t.vec d)))) 0

/-- VSCAT: the elements that are left, in ascending order, so the higher lane's value remains (R134). -/
def execVscat (g : Guard) (sz : Fin 7) (d x : Operand) (off : BitVec 16) (y : Operand) (s : State) :
    Host.Outcome State Fault Refusal :=
  issue (.vscat g sz d x off y) s fun s v =>
    match s.elemsLeft v g sz x off y (decide (sz.val < 3)) with
    | .error r => r
    | .ok l => retire (s.setPart v.t.ctx v.t.ltn (l.foldl (scatterOne (2 ^ sz.val) (v.t.vec d)) (s.part v.t.ctx v.t.ltn))) v.t

/-- The frame byte offset of LDF and STF, and its checks: a multiple of 64, and the last word within the size class (R135). -/
def State.frameOffset (s : State) (v : View) (x : Operand) (off : BitVec 16) : Except Res Nat :=
  let e := s.localAddr v x off 6
  if e % 64 ≠ 0 then .error (trapWith 0x06)
  else if frameWords ((s.frame v.t.ref).any (·.large)) ≤ e / 8 + 7 then .error (trapWith 0x04)
  else .ok (e / 8)

/-- LDF (R135): an active word that is poisoned traps (R415). -/
def execLdf (g : Guard) (d x : Operand) (off : BitVec 16) (s : State) : Host.Outcome State Fault Refusal :=
  issue (.ldf g d x off) s fun s v =>
    match s.frameOffset v x off, s.frame v.t.ref with
    | .error r, _ => r
    | .ok w, some f =>
      let m := v.t.guardMask g
      match (List.range 8).find? fun j => active m j && f.poison.contains (w + j) with
      | some j => .trap 0x12 0 (addrWord (wordOffset (w + j))) 0
      | none =>
        let (r, fl) := mapLanes m 8 64 (v.t.vec d) fun j => ((f.word (w + j)).toNat, 0)
        .next s (v.t.setVec d r) fl
    | .ok _, none => retire s v.t

/-- STF (R135). -/
def execStf (g : Guard) (d x : Operand) (off : BitVec 16) (s : State) : Host.Outcome State Fault Refusal :=
  issue (.stf g d x off) s fun s v =>
    match s.frameOffset v x off with
    | .error r => r
    | .ok w =>
      let m := v.t.guardMask g
      retire (s.modFrame v.t.ref fun f => (List.range 8).foldl (init := f) fun f j =>
        if active m j then f.setWord (w + j) (BitVec.ofNat 64 (lane (v.t.vec d) 64 j)) else f) v.t

/-- SATOM (R136): one indivisible step. .cas reads the register after D too. -/
def execSatom (g : Guard) (op : AtomOp) (sz : Fin 7) (d x : Operand) (off : BitVec 16) (s : State) :
    Host.Outcome State Fault Refusal :=
  issue (.satom g op sz d x off) s fun s v =>
    let n := 2 ^ sz.val
    let a := s.localAddr v x off sz.val
    (s.loadCheck v [d] a n n).getD
      (let old := s.localRead v.t.ctx v.t.ltn a n
       let arg := if op = .cas then s.readOp v (nextReg d) else s.readOp v d
       let (new, f) := atomic op n old arg.toNat (s.readOp v d).toNat
       retireOp (s.localWrite v.t.ctx v.t.ltn a (leBytes n new)) v d (BitVec.ofNat 64 old) f)

/-- The checks of SCPY before its first unit, in the order of R131 and R137: length and overlap, alignment, bounds, and the poison of its
operands; X + OFF x 2^SZ is `src`, D `dst` and Y gives the length `n`. -/
def State.copyFirst (s : State) (v : View) (d x y : Operand) (u src dst n : Nat) : Option Res :=
  s.checked v
    [([y], decide (4096 < n), 0x03),
      ([d, x, y], decide ((dst + 2 ^ 64 - src) % 2 ^ 64 < n ∨ (src + 2 ^ 64 - dst) % 2 ^ 64 < n), 0x03),
      ([x], decide (src % u ≠ 0), 0x06), ([d], decide (dst % u ≠ 0), 0x06),
      ([x, y], !s.rangeOk v.t.ctx v.t.ltn src n, 0x05), ([d, y], !s.rangeOk v.t.ctx v.t.ltn dst n, 0x05)] [d, x, y]

/-- The checks of SCPY: those of its operands, and poisoned words, which alone are looked for again once its first unit has moved. ADDR
of that trap is the start of what is left of the range that met it: DESIGN CHOICE (notes/assumptions/8.md). -/
def State.copyCheck (s : State) (v : View) (d x y : Operand) (u src dst n : Nat) : Option Res :=
  let p := s.part v.t.ctx v.t.ltn
  let moved := v.t.doneSteps / 2 * u
  let first := if v.t.doneSteps = 0 then s.copyFirst v d x y u src dst n else none
  if first.isSome then first
  else if p.poisonedIn (src + moved) (n - moved) then some (.trap 0x12 0 (addrWord (src + moved)) 0)
  else if u < 8 ∧ p.poisonedIn (dst + moved) (n - moved) then some (.trap 0x12 0 (addrWord (dst + moved)) 0)
  else none

/-- What is left of a copy after k accesses, reads and writes in turn; `got` is the unit read and not yet written. -/
def copyRest (p : Part) (u src dst n k : Nat) (got : BitVec 512) : Part :=
  let p := if k % 2 = 1 then p.store (dst + u * (k / 2)) (leBytes u got.toNat) else p
  let o := u * ((k + 1) / 2)
  p.store (dst + o) (p.bytes (src + o) (n - o))

/-- SCPY (R137): its checks, then the units that are left. -/
def execScpy (g : Guard) (sz : Fin 7) (d x : Operand) (off : BitVec 16) (y : Operand) (s : State) :
    Host.Outcome State Fault Refusal :=
  issue (.scpy g sz d x off y) s fun s v =>
    let u := 2 ^ sz.val
    let n := (s.readOp v y).toNat * u
    let src := s.localAddr v x off sz.val
    let dst := (s.readOp v d).toNat
    if n = 0 ∧ (s.poisonedSource v.t [y]).isNone then retire s v.t
    else
      (s.copyCheck v d x y u src dst n).getD
        (retire (s.setPart v.t.ctx v.t.ltn (copyRest (s.part v.t.ctx v.t.ltn) u src dst n v.t.doneSteps (v.t.gotSoFar 0))) v.t)

/-! ## One access of an instruction in progress (R130, R134, R137) -/

/-- The next access of VGATH, VSCAT or SCPY, where its checks pass and one is left; any other instruction has no access of its own here. -/
def nextAccess (i : Instr) (s : State) (v : View) : Res :=
  let p := s.part v.t.ctx v.t.ltn
  match i with
  | .vgath g sz d x off y =>
    (match s.elemsLeft v g sz x off y true with
     | .ok (e :: _) => .next s (v.t.oneStep (gatherOne p (2 ^ sz.val) (v.t.gotSoFar (v.t.vec d)) e)) 0
     | .ok [] | .error _ => .wait)
  | .vscat g sz d x off y =>
    (match s.elemsLeft v g sz x off y (decide (sz.val < 3)) with
     | .ok (e :: _) => .next (s.setPart v.t.ctx v.t.ltn (scatterOne (2 ^ sz.val) (v.t.vec d) p e)) (v.t.oneStep 0) 0
     | .ok [] | .error _ => .wait)
  | .scpy _ sz d x off y =>
    let u := 2 ^ sz.val
    let n := (s.readOp v y).toNat * u
    let src := s.localAddr v x off sz.val
    let dst := (s.readOp v d).toNat
    let k := v.t.doneSteps
    if n ≤ k / 2 * u ∨ (s.copyCheck v d x y u src dst n).isSome then .wait
    else if k % 2 = 0 then .next s (v.t.oneStep (BitVec.ofNat 512 (ofLeBytes (p.bytes (src + u * (k / 2)) u)))) 0
    else .next (s.setPart v.t.ctx v.t.ltn (p.store (dst + u * (k / 2)) (leBytes u (v.t.gotSoFar 0).toNat))) (v.t.oneStep 0) 0
  | _ => .wait

end Sys2Proof.Machine
end

