-- ==== Sys2Proof/Machine/Global.lean ====
section
/-! DEFINITION. The split-phase instructions as they issue (R215 to R228, R231, R232). -/

namespace Sys2Proof.Machine

/-- The effective address X + OFF x 2^SZ, mod 2^64 (R216). -/
def State.globalAddr (s : State) (v : View) (x : Operand) (off : BitVec 16) (sz : Nat) : Word :=
  s.readOp v x + off.signExtend 64 * BitVec.ofNat 64 (2 ^ sz)

/-- The last checks of a request, alignment (R216) and poison of its data sources (R76, R415), and its issue. -/
def State.requestBody (s : State) (v : View) (align : Nat) (data : List Operand) (q : Req) : Res :=
  if q.va.toNat % align ≠ 0 then trapWith 0x06
  else (s.poisonTrap v.t data).getD (retire (s.addReq q) v.t)

/-- GLD (R217, R220). -/
def execGld (g : Guard) (sext : Bool) (sz : Fin 7) (d x : Operand) (off : BitVec 16) (t : Target) (scope : Scope) (ord : MemOrder)
    (s : State) : Host.Outcome State Fault Refusal :=
  issue (.gld g sext sz d x off t scope ord) s fun s v =>
    let n := 2 ^ sz.val
    s.requestBody v n [] (s.newReq v (firstWord (.gld g sext sz d x off t scope ord)) (s.destOf v t (wordIndex d)) (.load n sext)
      (s.globalAddr v x off sz.val) ord scope false)

/-- GST (R221): D is read at issue. -/
def execGst (g : Guard) (sz : Fin 7) (d x : Operand) (off : BitVec 16) (t : Target) (scope : Scope) (ord : MemOrder) (s : State) :
    Host.Outcome State Fault Refusal :=
  issue (.gst g sz d x off t scope ord) s fun s v =>
    let n := 2 ^ sz.val
    s.requestBody v n [d] (s.newReq v (firstWord (.gst g sz d x off t scope ord)) (s.destOf v t 0xFF) (.store n (s.readOp v d))
      (s.globalAddr v x off sz.val) ord scope true)

/-- GLDV (R216, R217, R220): with a slot target its eight words must lie in the frame's class. -/
def execGldv (g : Guard) (d x : Operand) (off : BitVec 16) (t : Target) (scope : Scope) (ord : MemOrder) (s : State) :
    Host.Outcome State Fault Refusal :=
  issue (.gldv g d x off t scope ord) s fun s v =>
    let fits : Bool := match t with
      | .slot _ => decide (wordIndex d + 7 < frameWords ((s.frame v.t.ref).any (·.large)))
      | .nothing | .reg _ => true
    (s.checked v [([], !fits, 0x04)] [x]).getD
      (s.requestBody v 64 [] (s.newReq v (firstWord (.gldv g d x off t scope ord)) (s.destOf v t (wordIndex d)) .loadv
        (s.globalAddr v x off 6) ord scope false))

/-- GSTV (R221). -/
def execGstv (g : Guard) (d x : Operand) (off : BitVec 16) (t : Target) (scope : Scope) (ord : MemOrder) (s : State) :
    Host.Outcome State Fault Refusal :=
  issue (.gstv g d x off t scope ord) s fun s v =>
    s.requestBody v 64 [] (s.newReq v (firstWord (.gstv g d x off t scope ord)) (s.destOf v t 0xFF) (.storev (v.t.vec d))
      (s.globalAddr v x off 6) ord scope true)

/-- GATOM (R222): the comparand is D, and the new value of .cas the word or register after it. -/
def execGatom (g : Guard) (op : AtomOp) (sz : Fin 7) (d x : Operand) (off : BitVec 16) (t : Target) (scope : Scope) (ord : MemOrder)
    (s : State) : Host.Outcome State Fault Refusal :=
  issue (.gatom g op sz d x off t scope ord) s fun s v =>
    let n := 2 ^ sz.val
    let e := nextReg d
    let fits : Bool := match d with
      | .f i => op ≠ .cas || decide (i.val + 1 < frameWords ((s.frame v.t.ref).any (·.large)))
      | _ => true
    (s.checked v [([], !fits, 0x04)] [x]).getD
      (s.requestBody v n (if op = .cas then [d, e] else [d])
        (s.newReq v (firstWord (.gatom g op sz d x off t scope ord)) (s.destOf v t (wordIndex d))
          (.atom op n (if op = .cas then s.readOp v e else s.readOp v d) (s.readOp v d)) (s.globalAddr v x off sz.val) ord scope true))

/-- GRED (R223). -/
def execGred (g : Guard) (op : AtomOp) (sz : Fin 7) (d x : Operand) (off : BitVec 16) (t : Target) (scope : Scope) (ord : MemOrder)
    (s : State) : Host.Outcome State Fault Refusal :=
  issue (.gred g op sz d x off t scope ord) s fun s v =>
    let n := 2 ^ sz.val
    s.requestBody v n [d] (s.newReq v (firstWord (.gred g op sz d x off t scope ord)) (s.destOf v t 0xFF) (.red op n (s.readOp v d))
      (s.globalAddr v x off sz.val) ord scope true)

/-- ILD (R224). -/
def execIld (g : Guard) (d x : Operand) (off : BitVec 16) (t : Target) (scope : Scope) (ord : MemOrder) (s : State) :
    Host.Outcome State Fault Refusal :=
  issue (.ild g d x off t scope ord) s fun s v =>
    s.requestBody v 8 [] (s.newReq v (firstWord (.ild g d x off t scope ord)) (s.destOf v t (wordIndex d)) .ild
      (s.globalAddr v x off 3) ord scope false)

/-- IST (R224). -/
def execIst (g : Guard) (d x : Operand) (off : BitVec 16) (t : Target) (scope : Scope) (ord : MemOrder) (s : State) :
    Host.Outcome State Fault Refusal :=
  issue (.ist g d x off t scope ord) s fun s v =>
    s.requestBody v 8 [d] (s.newReq v (firstWord (.ist g d x off t scope ord)) (s.destOf v t 0xFF) (.ist (s.readOp v d))
      (s.globalAddr v x off 3) ord scope true)

/-- IRST (R224): none does nothing and completes OK. That too many words are judged after the address and the poison of D is a DESIGN CHOICE
(notes/assumptions/74.md). -/
def execIrst (g : Guard) (d x : Operand) (off : BitVec 16) (t : Target) (scope : Scope) (ord : MemOrder) (s : State) :
    Host.Outcome State Fault Refusal :=
  issue (.irst g d x off t scope ord) s fun s v =>
    let n := (s.readOp v d).toNat
    let a := s.globalAddr v x off 3
    if a.toNat % 8 ≠ 0 then trapWith 0x06
    else
      (s.poisonTrap v.t [d]).getD
        (if 65536 < n then trapWith 0x03
        else
          let q := s.newReq v (firstWord (.irst g d x off t scope ord)) (s.destOf v t 0xFF) (.irst n n) a ord scope true
          s.requestBody v 8 [] (if n = 0 then q.answer .ok [] else q))

/-- MWATCH (R225): the comparand is read at issue. -/
def execMwatch (g : Guard) (sz : Fin 7) (d x : Operand) (off : BitVec 16) (t : Target) (scope : Scope) (ord : MemOrder) (s : State) :
    Host.Outcome State Fault Refusal :=
  issue (.mwatch g sz d x off t scope ord) s fun s v =>
    let n := 2 ^ sz.val
    s.requestBody v n [d] (s.newReq v (firstWord (.mwatch g sz d x off t scope ord)) (s.destOf v t (wordIndex d))
      (.watch n (s.readOp v d)) (s.globalAddr v x off sz.val) ord scope false)

/-- FENCE (R207, R226): answered once the frame's earlier accesses are done at its scope. -/
def execFence (g : Guard) (t : Target) (scope : Scope) (ord : MemOrder) (s : State) : Host.Outcome State Fault Refusal :=
  issue (.fence g t scope ord) s fun s v =>
    let q := s.newReq v (firstWord (.fence g t scope ord)) (s.destOf v t 0xFF) .fence 0 .relaxed scope false
    let h := s.hold v.t.ref (decide (scope = .pod)) true (.fence q.id)
    let h := if ord = .acquire then { h with acks := [] } else h
    let s := s.addReq q
    retire (if s.heldReady h then s.answer q.id .ok [] else { s with held := s.held ++ [h] }) v.t

/-- PREF (R227): it performs nothing. -/
def execPref (g : Guard) (sz : Fin 7) (x : Operand) (off : BitVec 16) (scope : Scope) (s : State) : Host.Outcome State Fault Refusal :=
  issue (.pref g sz x off scope) s fun s v =>
    if (s.globalAddr v x off sz.val).toNat % 2 ^ sz.val ≠ 0 then trapWith 0x06 else retire s v.t

/-- DMA (R228): the record is read at issue; one that breaks its rules is refused whole. -/
def execDma (g : Guard) (x : Operand) (t : Target) (scope : Scope) (ord : MemOrder) (s : State) : Host.Outcome State Fault Refusal :=
  issue (.dma g x t scope ord) s fun s v =>
    let a := (s.readOp v x).toNat
    let c := v.t.ctx
    let l := v.t.ltn
    match s.loadCheck v [] a 64 64 with
    | some r => r
    | none =>
      let q (k : ReqKind) (write : Bool) : Req :=
        s.newReq v (firstWord (.dma g x t scope ord)) (s.destOf v t 0xFF) k (s.readOp v x) ord scope write
      retire (match shapeOf ((s.part c l).bytes a 64) with
        | some sh =>
          if s.shapeInReach c l sh then s.addReq { q (.dma sh 0 0) sh.toGlobal with va := BitVec.ofNat 64 sh.gaddr }
          else s.addReq ((q .answered false).answer .refused [])
        | none => s.addReq ((q .answered false).answer .refused [])) v.t

/-- Accesses of an activation with acquire that have not performed: what follows is held behind them (R201). -/
def State.acquiresOf (s : State) (r : FrameRef) (rtag : Nat) : List Nat :=
  ((s.reqsOf r rtag).filter fun q => decide (q.ord = .acquire ∨ q.ord = .acqRel) && !q.performed).map (·.id)

/-- A stream operation reaches the port: at once, or when the frame's earlier accesses are done: acquires, and with release the reads and
writes (R201, R232). -/
def State.sendStrm (s : State) (v : View) (q : Req) : State :=
  let rel := decide (q.ord = .release ∨ q.ord = .acqRel)
  let h := s.hold v.t.ref (decide (q.scope = .pod)) rel (.stream q.id)
  let h := { h with acks := if rel then h.acks else [], perf := h.perf ++ s.acquiresOf v.t.ref q.rtag }
  let s := s.addReq q
  if s.heldReady h then s.applyStrm q.id else { s with held := s.held ++ [h] }

/-- STRM.open (R231, R232). Neither rule orders the window number against the descriptor's address: DESIGN CHOICE, the window number first
(notes/assumptions/79.md). -/
def execStrmOpen (g : Guard) (d x : Operand) (t : Target) (scope : Scope) (ord : MemOrder) (s : State) :
    Host.Outcome State Fault Refusal :=
  issue (.strmOpen g d x t scope ord) s fun s v =>
    let n := (s.readOp v d).toNat
    let a := (s.readOp v x).toNat
    match s.checked v [([d], decide (15 < n), 0x03), ([x], decide (a % 32 ≠ 0), 0x06), ([x], !s.rangeOk v.t.ctx v.t.ltn a 32, 0x05)] [d, x],
        s.loadCheck v [] a 32 32 with
    | some r, _ | none, some r => r
    | none, none =>
      retire (s.sendStrm v (s.newReq v (firstWord (.strmOpen g d x t scope ord)) (s.destOf v t 0xFF)
        (.openWin n ((s.part v.t.ctx v.t.ltn).bytes a 32)) (s.readOp v x) ord scope false)) v.t

/-- An operation on a window that is open, with the other operand that it reads. -/
def State.strmBody (s : State) (v : View) (iword : Word) (d x : Operand) (t : Target) (scope : Scope) (ord : MemOrder)
    (kind : Nat → ReqKind) (write : Nat → Bool) : Res :=
  let n := (s.readOp v d).toNat
  (s.checked v [([d], decide (15 < n), 0x03)] [d, x]).getD
    (retire (s.sendStrm v (s.newReq v iword (s.destOf v t 0xFF) (kind n) 0 ord scope (write n))) v.t)

/-- Whether a STRM.adv passes bytes of a write window, as known at issue: of the latest .open of its number that the port has yet to see, else of the
window (R203, R209). -/
def State.advWrites (s : State) (ctx ltn n : Nat) : Bool :=
  match s.reqs.reverse.findSome? fun q => match q.kind with
      | .openWin m desc =>
        if q.ref.ctx = ctx ∧ q.ref.ltn = ltn ∧ m = n ∧ !q.performed then some (decide (ofLeBytes ((desc.drop 26).take 1) = 1)) else none
      | _ => none with
  | some b => b
  | none => (s.window ctx ltn n).any (·.write)

/-- STRM.adv (R233): on a write window it is a write of the frame (R209). -/
def execStrmAdv (g : Guard) (d x : Operand) (t : Target) (scope : Scope) (ord : MemOrder) (s : State) :
    Host.Outcome State Fault Refusal :=
  issue (.strmAdv g d x t scope ord) s fun s v =>
    s.strmBody v (firstWord (.strmAdv g d x t scope ord)) d x t scope ord (fun n => .advWin n (s.readOp v x).toNat)
      fun n => s.advWrites v.t.ctx v.t.ltn n

/-- STRM.notify (R234). -/
def execStrmNotify (g : Guard) (d x : Operand) (t : Target) (scope : Scope) (ord : MemOrder) (s : State) :
    Host.Outcome State Fault Refusal :=
  issue (.strmNotify g d x t scope ord) s fun s v =>
    s.strmBody v (firstWord (.strmNotify g d x t scope ord)) d x t scope ord (fun n => .notifyWin n (s.readOp v x).toNat)
      fun _ => false

/-- STRM.close (R235). -/
def execStrmClose (g : Guard) (d : Operand) (t : Target) (scope : Scope) (ord : MemOrder) (s : State) :
    Host.Outcome State Fault Refusal :=
  issue (.strmClose g d t scope ord) s fun s v =>
    s.strmBody v (firstWord (.strmClose g d t scope ord)) d .zr t scope ord .closeWin fun _ => false

end Sys2Proof.Machine
end

