-- ==== Sys2Proof/Machine/Threads.lean ====
section
/-! DEFINITION. Instructions for threadlets, tasks and barriers (R170 to R188). -/

namespace Sys2Proof.Machine

/-! ## Frames and slots named by a continuation -/

/-- The frame on the issuing core that X names (R174). -/
def State.namedFrame (s : State) (v : View) (c : Word) : Option (FrameRef × Frame) :=
  let t := v.t
  if !contV c ∨ contMbz c ≠ 0 ∨ contPkg c ≠ s.pkgSelf t.ctx ∨ contLtn c ≠ t.ltn ∨ contCore c ≠ t.core then none
  else
    let r : FrameRef := ⟨t.ctx, t.ltn, t.core, contFrm c⟩
    match s.frame r with
    | some f => if f.rtag = contRtag c then some (r, f) else none
    | none => none

/-- An operation sent to the home of an AWAY frame's image; the seat does not wait (R174). -/
def State.sendImageOp (s : State) (v : View) (iword : Word) (r : FrameRef) (rtag slot : Nat) (op : ImageOp) : State :=
  let q := { s.newReq v iword none .imageOp 0 .relaxed .package false with entry := false, code := slot }
  (s.addReq q).send (.imageOp r rtag slot op q.id)

/-- FFREE's test of the slots and of QN (R176). -/
def Frame.busy (f : Frame) (qn : Nat) : Bool := f.slots.any (fun e => e.2.count ≠ 0 || e.2.pn ≠ 0) || decide (qn ≠ 0)

/-- SLOTI on a slot word: its fields, with the status cell cleared and PN kept (R177). A whole word written has good check bits
(R415). -/
def slotiFrame (f : Frame) (n : Nat) (y : Word) : Frame :=
  { f.setSlot n (slotOfWord y (f.slot n).pn) with badSlots := f.badSlots.filter (· != n) }

/-- SLOTA's new count, in range (R178). -/
def slotaCount (x : Slot) (delta : Int) : Option Nat :=
  let n := (x.count : Int) + delta
  if 0 ≤ n ∧ n ≤ 4095 then some n.toNat else none

/-- FNEW (R175): made at once where it can be, else it waits under R161. -/
def execFnew (g : Guard) (large : Bool) (d : Operand) (t : Target) (s : State) : Host.Outcome State Fault Refusal :=
  issue (.fnew g large d t) s fun s v =>
    let q := s.newReq v (firstWord (.fnew g large d t)) (s.destOf v t (wordIndex d)) (.fnew large) 0 .relaxed .package false
    let s := s.addReq q
    retire (match s.createFrame v.t.ctx v.t.ltn v.t.core large with
      | some (r, s) => s.answer q.id .ok [some (s.fpOf r)]
      | none =>
        let c := s.partCore v.t.ctx v.t.ltn v.t.core
        s.setPartCore v.t.ctx v.t.ltn v.t.core { c with waits := c.waits ++ [q.id] }) v.t

/-- FFREE (R174, R176). -/
def execFfree (g : Guard) (x : Operand) (s : State) : Host.Outcome State Fault Refusal :=
  issue (.ffree g x) s fun s v =>
    match s.namedFrame v (s.readOp v x) with
    | none => trapWith 0x03
    | some (r, f) =>
      if f.st = .away then
        retire (s.sendImageOp v (firstWord (.ffree g x)) r f.rtag (contSlot (s.readOp v x)) .ffree) v.t
      else if f.pendingFree then retire s v.t
      else if f.badSlots ≠ [] then retire (s.slotCheck r (f.badSlots.headD 0)) v.t
      else if f.busy ((s.partCore r.ctx r.ltn r.core).qn r.frm) || s.postedIn r then trapWith 0x22
      else retire ((s.setFrame r { f.touch with pendingFree := true }).settleFree r) v.t

/-- SLOTI (R174, R177). -/
def execSloti (g : Guard) (x y : Operand) (s : State) : Host.Outcome State Fault Refusal :=
  issue (.sloti g x y) s fun s v =>
    let c := s.readOp v x
    let w := s.readOp v y
    let named := s.namedFrame v c
    match s.checked v [([x], named.isNone, 0x03), ([x], named.any fun e => e.2.pendingFree, 0x22),
        ([y], decide (w.toNat / 2 ^ 24 % 16 ≠ 0), 0x02)] [x, y], named with
    | some r, _ => r
    | none, none => trapWith 0x03
    | none, some (r, f) =>
      if f.st = .away then retire (s.sendImageOp v (firstWord (.sloti g x y)) r f.rtag (contSlot c) (.sloti w)) v.t
      else
        let f := slotiFrame f.touch (contSlot c) w
        let s := s.setFrame r f
        let y := f.slot (contSlot c)
        retire (if y.armed ∧ y.count = 0 then s.due r (contSlot c) else s) v.t

/-- SLOTA (R174, R178). -/
def execSlota (g : Guard) (x y : Operand) (s : State) : Host.Outcome State Fault Refusal :=
  issue (.slota g x y) s fun s v =>
    let c := s.readOp v x
    let delta := (s.readOp v y).toInt
    let named := s.namedFrame v c
    match s.checked v [([x], named.isNone, 0x03), ([x], named.any fun e => e.2.pendingFree, 0x22)] [x, y], named with
    | some r, _ => r
    | none, none => trapWith 0x03
    | none, some (r, f) =>
      if f.st = .away then retire (s.sendImageOp v (firstWord (.slota g x y)) r f.rtag (contSlot c) (.slota delta)) v.t
      else
        if f.badSlots.contains (contSlot c) then retire (s.slotCheck r (contSlot c)) v.t
        else
        match slotaCount (f.slot (contSlot c)) delta with
        | none => trapWith 0x03
        | some n =>
          let s := s.setFrame r (f.touch.setSlot (contSlot c) { f.slot (contSlot c) with count := n, armed := true })
          retire (if n = 0 then s.due r (contSlot c) else s) v.t

/-! ## Signals -/

/-- A signal sent by a threadlet: at once, or held until the frame's earlier accesses are done (R179, R206). -/
def State.sendSignal (s : State) (v : View) (rel : Bool) (c : Word) (datum : Datum) (st : Nat) : State :=
  let r := v.t.ref
  let h := s.hold r (s.relPod r.ctx c) true (.signal c datum st)
  if rel ∧ !s.heldReady h then { s with held := s.held ++ [h] }
  else s.deliver v.seat.ptn r.ctx c datum st

/-- SIG (R179): no datum. -/
def execSig (g : Guard) (st : Status) (rel : Bool) (x : Operand) (s : State) : Host.Outcome State Fault Refusal :=
  issue (.sig g st rel x) s fun s v =>
    let c := s.readOp v x
    if contV c ∧ contMbz c ≠ 0 then trapWith 0x03
    else if !contV c then retire s v.t
    else retire (s.sendSignal v rel (contWith c (contSlot c) 0xFF) [] (statusCode st)) v.t

/-- SIGD (R179): a continuation with V = 0 names nothing, and Y is not read. -/
def execSigd (g : Guard) (st : Status) (rel : Bool) (x y : Operand) (s : State) : Host.Outcome State Fault Refusal :=
  issue (.sigd g st rel x y) s fun s v =>
    let c := s.readOp v x
    (s.checked v [([x], contV c && decide (contMbz c ≠ 0), 0x03)] [x]).getD
      (if !contV c then retire s v.t
      else (s.poisonTrap v.t [y]).getD (retire (s.sendSignal v rel c [some (s.readOp v y)] (statusCode st)) v.t))

/-- CONT (R180). -/
def execCont (g : Guard) (d x y z : Operand) (s : State) : Host.Outcome State Fault Refusal :=
  issue (.cont g d x y z) s fun s v =>
    let c := s.readOp v x
    let n := (s.readOp v y).toNat
    let w := (s.readOp v z).toNat
    (s.checked v [([x], !contV c || decide (contMbz c ≠ 0), 0x03), ([y], decide (7 < n), 0x03),
      ([z], decide (119 < w ∧ w ≠ 0xFF), 0x03)] [x, y, z]).getD (retireOp s v d (contWith c n w) 0)

/-! ## Tasks and launches -/

/-- The target word of SPAWN (R181): tile, core, and whether any core of the tile may take it. -/
def State.spawnTarget (s : State) (v : View) (y : Word) : Option (Nat × Nat × Bool) :=
  let n := y.toNat
  let area := ((s.kernel v.t.ctx).map (·.area)).getD 0
  if n / 2 ^ 16 ≠ 0 then none
  else if n / 2 ^ 15 = 1 then (if n % 2 ^ 15 = 0 then some (v.t.ltn, v.t.core, false) else none)
  else if area ≤ n % 4096 then none
  else if n / 2 ^ 14 % 2 = 1 then (if n / 2 ^ 12 % 4 = 0 then some (n % 4096, 0, true) else none)
  else some (n % 4096, n / 2 ^ 12 % 4, false)

/-- SPAWN (R181): the record is read at issue and travels to its target. -/
def execSpawn (g : Guard) (x y : Operand) (t : Target) (s : State) : Host.Outcome State Fault Refusal :=
  issue (.spawn g x y t) s fun s v =>
    let i := wordIndex x
    match (s.frame v.t.ref).map v.t.asIssued with
    | none => .wait
    | some f =>
      if frameWords f.large ≤ i + 7 then trapWith 0x04
      else
        match (List.range 8).find? fun k => f.poison.contains (i + k) with
        | some k => .trap 0x12 0 (addrWord (wordOffset (i + k))) 0
        | none =>
          (s.poisonTrap v.t [y]).getD
            (let task := (List.range 8).map fun k => f.word (i + k)
             let q := s.newReq v (firstWord (.spawn g x y t)) (s.destOf v t 0xFF) (.spawn task) 0 .relaxed .package false
             let s := s.addReq q
             retire (match s.spawnTarget v (s.readOp v y), taskOk task with
               | some (ltn, core, any), true => s.send (.spawn v.t.ctx ltn core any task q.id)
               | _, _ => s.answer q.id .refused []) v.t)

/-- LAUNCH (R183): the request leaves when the frame's earlier writes have performed at package scope. -/
def execLaunch (g : Guard) (x y : Operand) (t : Target) (s : State) : Host.Outcome State Fault Refusal :=
  issue (.launch g x y t) s fun s v =>
    let a := s.readOp v x
    (s.checked v [([x], decide (a.toNat % 64 ≠ 0), 0x06)] [x, y]).getD
      (let q := s.newReq v (firstWord (.launch g x y t)) (s.destOf v t 0xFF) (.launch (s.readOp v y).toNat false) a .relaxed .package
         false
       let h := s.hold v.t.ref false false (.launch q.id)
       let s := s.addReq q
       retire (if s.heldReady h then s else { s with held := s.held ++ [h] }) v.t)

/-! ## Barriers -/

/-- Barriers or all-reduces of a tile that are outstanding (R185). -/
def State.barsOut (s : State) (ctx ltn : Nat) (ared : Bool) : Nat :=
  (s.reqs.filter fun r => decide (r.ref.ctx = ctx) && decide (r.ref.ltn = ltn) && (match r.kind with
    | .bar _ => !ared
    | .ared .. => ared
    | _ => false)).length

/-- A barrier's arrival: refused past the limit, else numbered and sent once earlier writes are done (R185). -/
def State.arriveBar (s : State) (v : View) (q : Req) (ared : Bool) (kind : Nat → ReqKind) : State :=
  let c := v.t.ctx
  let l := v.t.ltn
  if 16 ≤ s.barsOut c l ared then (s.addReq { q with kind := .answered }).answer q.id .refused []
  else
    let p := s.part c l
    let n := p.issued ared + 1
    let pod := ((s.kernel c).map fun k => decide (k.npk ≠ 0)).getD false
    let h := s.hold q.ref pod false (.barrier q.id)
    let s := s.setPart c l (if ared then { p with aredNext := n } else { p with barNext := n })
    let s := s.addReq { q with kind := kind n }
    if p.ended then s.postAbsent c l ared n
    else if s.heldReady h then s.postArrival q.id else { s with held := s.held ++ [h] }

/-- BAR (R185). -/
def execBar (g : Guard) (t : Target) (s : State) : Host.Outcome State Fault Refusal :=
  issue (.bar g t) s fun s v =>
    let q := s.newReq v (firstWord (.bar g t)) (s.destOf v t 0xFF) (.bar 0) 0 .relaxed .package false
    retire (s.arriveBar v q false .bar) v.t

/-- ARED (R186): X is read at the type. -/
def execAred (g : Guard) (op : RedOp) (ty : Ty) (d x : Operand) (t : Target) (s : State) : Host.Outcome State Fault Refusal :=
  issue (.ared g op ty d x t) s fun s v =>
    let value := (s.readOp v x).toNat % 2 ^ ty.width
    let q := s.newReq v (firstWord (.ared g op ty d x t)) (s.destOf v t (wordIndex d)) (.ared 0 op ty value) 0 .relaxed .package
      false
    retire (s.arriveBar v q true fun n => .ared n op ty value) v.t

/-! ## The end of the tile's part -/

/-- KEND (R184): the threadlet ends; the first one on the tile ends its part of the kernel. -/
def execKend (g : Guard) (s : State) : Host.Outcome State Fault Refusal :=
  issue (.kend g) s fun s v =>
    let c := v.t.ctx
    let l := v.t.ltn
    if v.t.badFlags then badFlagsTrap s
    else
    let s := s.endThreadlet v
    if (s.part c l).ended then .ended (s.finishPart c l)
    else .ended (((s.startEnd c l).pumpBars c).finishPart c l)

/-! ## Indices and flags -/

/-- The steal domain's number (R187). -/
def State.tidxFact (s : State) (v : View) (k : Kernel) (sel : Nat) : Option Nat :=
  match sel with
  | 0 => some v.t.ltn
  | 1 => some (v.t.ltn % k.width)
  | 2 => some (v.t.ltn / k.width)
  | 3 => some k.width
  | 4 => some k.height
  | 5 => some k.area
  | 6 => some (s.pkgSelf v.t.ctx)
  | 7 => some (k.npk + 1)
  | 8 => some k.steal
  | 9 => some (if (s.frame v.t.ref).any (·.large) then 1 else 0)
  | _ => none

/-- TIDX (R187). -/
def execTidx (g : Guard) (d x : Operand) (s : State) : Host.Outcome State Fault Refusal :=
  issue (.tidx g d x) s fun s v =>
    match s.kernel v.t.ctx with
    | none => trapWith 0x03
    | some k =>
      match s.tidxFact v k (s.readOp v x).toNat with
      | some n => retireOp s v d (BitVec.ofNat 64 n) 0
      | none => trapWith 0x03

/-- FLAGS (R188): read and cleared as one step. -/
def execFlags (g : Guard) (d : Operand) (s : State) : Host.Outcome State Fault Refusal :=
  issue (.flags g d) s fun s v =>
    if v.t.badFlags then badFlagsTrap s
    else retireOp s { v with t := { v.t with flags := 0 } } d (flagsWord v.t.flags) 0

end Sys2Proof.Machine
end

