-- ==== Sys2Proof/Machine/Trust.lean ====
section
/-! DEFINITION. Hallmark (R425 to R437): images, repairs, bring-up, the tamper alarm, sensors, and its MCTP and SPDM endpoint. Hashes and
signatures are uninterpreted (notes/assumptions/20.md). -/

namespace Sys2Proof.Machine

/-- Bytes from an offset on that are all zero. -/
def zeroIn (l : List Byte) (o n : Nat) : Bool := decide (le l o n = 0)

/-- The fields of a 48-byte digest and of a 96-byte signature. -/
def digestAt (l : List Byte) (o : Nat) : BitVec 384 := BitVec.ofNat 384 (le l o 48)
def sigAt (l : List Byte) (o : Nat) : BitVec 768 := BitVec.ofNat 768 (le l o 96)
def digestBytes (d : BitVec 384) : List Byte := leBytes 48 d.toNat
def sigBytes (d : BitVec 768) : List Byte := leBytes 96 d.toNat

/-- A signature under the identity key's fused public half: one that Hallmark made, or any other that verifies (R432). -/
def identityVerifies (serial : Word) (d : BitVec 384) (sig : BitVec 768) : Bool :=
  decide (sig = Config.identitySign serial d) || Config.identityOther serial d sig

/-! ## Images (R430) -/

def imageSvn (l : List Byte) : Nat := le l 6 2
def imageCarve (l : List Byte) : Nat := le l 5 1
def imageLength (l : List Byte) : Nat := le l 8 4

/-- IMAGE_VERIFY (R430). -/
def imageValid (target minsvn : Nat) (l : List Byte) : Bool :=
  decide (le l 0 4 = 0x584B5A46) && decide (le l 4 1 = target) && decide (imageCarve l ≤ 16)
    && (decide (target ≠ 0) || decide (imageCarve l = 0)) && decide (imageLength l % 4096 = 0) && decide (imageLength l ≤ 2 ^ 23)
    && zeroIn l 12 4 && zeroIn l 24 40 && zeroIn l 112 16 && zeroIn l 224 32
    && Config.firmwareKey (Config.sha384 (padTo 128 l)) (sigAt l 128)
    && decide (digestAt l 64 = Config.sha384 (padTo (imageLength l) (l.drop 256))) && decide (minsvn ≤ imageSvn l)

/-- The bytes of a slot: 0 is slot A, 1 slot B. -/
def Hallmark.image (h : Hallmark) (target slot : Nat) : List Byte := Tab.get [] h.fw (2 * target + slot)
/-- The ACTIVE slot of a target. -/
def Hallmark.active (h : Hallmark) (target : Nat) : Nat := if h.activeB.contains target then 1 else 0

/-- The slot that a target runs: the ACTIVE one, else the other; none where neither is valid. The number of images that failed (R430). -/
def Hallmark.runSlot (h : Hallmark) (target : Nat) : Option Nat × Nat :=
  let a := h.active target
  if imageValid target h.minsvn (h.image target a) then (some a, 0)
  else if imageValid target h.minsvn (h.image target (1 - a)) then (some (1 - a), 1)
  else (none, 2)

/-! ## Repairs (R425 to R427) -/

def recKind (l : List Byte) : Nat := le l 4 2
def recSeq (l : List Byte) : Nat := le l 6 2
def recColumn (l : List Byte) : Nat × Nat := (le l 16 1, le l 17 1)
def recStack (l : List Byte) : Nat := le l 18 1

/-- A record whose fields and signature are good (R427). -/
def recordGood (serial : Word) (l : List Byte) : Bool :=
  decide (l.length = 160) && decide (le l 0 4 = 0x584B5A52) && decide (recKind l = 1 ∨ recKind l = 2) && decide (1 ≤ recSeq l ∧ recSeq l ≤ 64)
    && decide (le l 8 8 = serial.toNat) && zeroIn l 21 3 && zeroIn l 28 36
    && (decide (recKind l ≠ 1) || decide (le l 16 1 < 8 ∧ le l 17 1 < 34)) && (decide (recKind l ≠ 2) || decide (recStack l ≤ 15))
    && identityVerifies serial (Config.sha384 (padTo 64 l)) (sigAt l 64)

/-- Columns of a die that no fuse and no repair has retired. -/
def Hallmark.kept (h : Hallmark) (die : Nat) : List Nat :=
  (List.range 34).filter fun c => !h.fused.contains (die, c) && !h.retired.contains (die, c)

/-- HBM4 rows of a stack that are repaired. -/
def stackRows (l : List (List Byte)) (stack : Nat) : Nat := (l.filter fun r => recKind r = 2 ∧ recStack r = stack).length

/-- One record applied, or rejected (R425 to R427). -/
def Hallmark.applyRecord (h : Hallmark) (l : List Byte) : Option Hallmark :=
  if !recordGood h.serial l ∨ h.applied.any (fun r => recSeq r = recSeq l) then none
  else if recKind l = 1 then
    let c := recColumn l
    let reserve := decide (32 < (h.kept c.1).length)
    let h' := { h with applied := h.applied ++ [l] }
    if !(h.kept c.1).contains c.2 ∨ h.defective.contains c then (if reserve then some h' else none)
    else if reserve then some { h' with retired := h.retired ++ [c] }
    else some { h' with defective := h.defective ++ [c] }
  else if Config.spareRows (recStack l) ≤ stackRows h.rows (recStack l) then none
  else some { h with applied := h.applied ++ [l], rows := h.rows ++ [l] }

/-- Records by rising SEQ. -/
def insertRepair (x : List Byte) : List (List Byte) → List (List Byte)
  | [] => [x]
  | y :: l => if recSeq x < recSeq y then x :: y :: l else y :: insertRepair x l
def sortRepairs (l : List (List Byte)) : List (List Byte) := l.foldl (fun a x => insertRepair x a) []

/-! ## Bring-up (R428) -/

/-- Records of repair events come from I/O die 1, where Hallmark stands. -/
def State.repairRas (s : State) (src : Nat) : State := s.rasOpen src 4 0xFF 9 0

def State.repairRasN (s : State) (src : Nat) : Nat → State
  | 0 => s
  | n + 1 => (s.repairRas src).repairRasN src n

/-- Hallmark as its own reset leaves it: fuses, stores and what has left it stay. -/
def Hallmark.cleared (h : Hallmark) : Hallmark :=
  { h with
    booted := false
    armed := false
    tamp := false
    svn := 0
    slotb := 0
    applied := []
    retired := []
    defective := []
    rows := []
    sessions := []
    measured := []
    path := .mctp
    sensors := Hallmark.reset.sensors
    throttled := []
    throttles := 0 }

/-- Every part of the package after reset, Hallmark and what lies outside excepted (R428 steps 1 to 5; notes/assumptions/25.md). The Courier
link is not trained until step 6. -/
def State.cleared (s : State) : State :=
  { State.reset with
    agenda := s.agenda
    cur := s.cur
    nextId := s.nextId
    fresh := s.fresh
    host := s.host
    hostBad := s.hostBad
    out := s.out
    served := s.served
    told := s.told
    courierDown := true
    hallmark := s.hallmark.cleared }

/-- Step 4 of R428: each record is applied or rejected. -/
def State.applyRepairs (s : State) : State :=
  (sortRepairs s.hallmark.store).foldl (init := s) fun s l =>
    match s.hallmark.applyRecord l with
    | some h => State.repairRas { s with hallmark := h } 0x21
    | none => s.repairRas 0x22

/-- The measurements of step 7 (R433). -/
def State.measurements (s : State) (a b : List Byte) : List (List Byte) :=
  [digestBytes Config.romDigest, padTo 256 a, padTo 256 b, leBytes 8 (s.hallmark.status &&& ~~~(9#64)).toNat ++ Config.fusedConfig,
    digestBytes (Config.sha384 (s.hallmark.applied.flatMap id)), leBytes 8 0x3F ++ leBytes 8 0]

/-- The scale-up ports as step 6 of R428 trains them, in mode 0: whether a port has a partner, and on how many lanes it trains, the spec leaves
open (notes/assumptions/25.md). -/
def trainedPorts (m : BitVec 128) : Table PortMode :=
  (List.range 64).foldl (init := []) fun t p =>
    let n := m.toNat / 4 ^ p % 4
    Tab.put t p (if n = 0 then PortMode.reset else ⟨true, if n = 1 then 2 else 4, 0⟩)

/-- Steps 4 to 7 of R428 with the slots that run. -/
def State.bringUp (s : State) (a b : Nat) : State :=
  let ia := s.hallmark.image 0 a
  let ib := s.hallmark.image 1 b
  let h := { s.hallmark with
    svn := Nat.min (imageSvn ia) (imageSvn ib)
    slotb := (if a = 1 then 0xFF else 0) + (if b = 1 then 0x100 else 0) }
  let s : State := State.applyRepairs { s with hallmark := h, carve := imageCarve ib * 2 ^ 28 }
  let (m, s) := s.free 128
  { s with
    courierDown := false
    portm := trainedPorts m
    hallmark := { s.hallmark with booted := true, measured := s.measurements ia ib } }

/-- PACKAGE_RESET (R428): the tamper sensors are armed, and without a valid image for both targets the package stops at step 3. -/
def State.packageReset (s : State) : State :=
  let s := s.cleared
  let s : State := { s with hallmark := { s.hallmark with armed := true } }
  let (a, na) := s.hallmark.runSlot 0
  let (b, nb) := s.hallmark.runSlot 1
  let s := s.repairRasN 0x22 (na + nb)
  match a, b with
  | some a, some b => s.bringUp a b
  | _, _ => s

def execPackageReset (s : State) : Host.Outcome State Fault Refusal := .next s.packageReset

/-! ## The alarm and the sensors -/

/-- TAMPER_ALARM (R435), once the sensors are armed (R428), with a record whose SRC, SEV and COUNT the spec leaves open. -/
def execTamperAlarm (s : State) : Host.Outcome State Fault Refusal :=
  let h := s.hallmark
  if !h.armed then .next s
  else
  let s : State := { s with hallmark := { h with sessions := [], idgone := h.idgone || h.iderase, tamp := true, replies := h.replies ++ [Reply.alarm] } }
  let s := s.haltWith tamperCode
  let (src, s) := s.free 8
  let (sev, s) := s.free 8
  let (n, s) := s.free 32
  .next (s.postRas (rasBytes src.toNat sev.toNat 0xFF 9 n.toNat 0 0 s.rasSeq.toNat) 0xFF)

/-- Dies that throttle on a sample (R436): by their own temperature, or by the package's power. -/
def throttling (x : Sensors) : List Nat :=
  (List.range 8).filter fun d => decide (100 * 16 < x.dieTemp.getD d 0) || decide (3200000 < x.powerMw)

/-- SENSOR_SAMPLE (R436). -/
def execSensorSample (sample : Sensors) (s : State) : Host.Outcome State Fault Refusal :=
  let h := s.hallmark
  let now := throttling sample
  let new := (now.filter fun d => !h.throttled.contains d).length
  let count := Nat.min (h.throttles.toNat + new) (2 ^ 64 - 1)
  let s := { s with hallmark := { h with sensors := sample, throttled := now, throttles := BitVec.ofNat 64 count } }
  .next (if sample.dieTemp.any fun t => decide (110 * 16 ≤ t) then s.haltWith thermalCode else s)

/-! ## MCTP management (R434) -/

/-- An answer of the endpoint. -/
def State.reply (s : State) (r : Reply) : State := { s with hallmark := { s.hallmark with replies := s.hallmark.replies ++ [r] } }

/-- A command outside a secured session, or after an alarm, whose halt only package reset leaves, is refused (R434, R435). -/
def State.management (s : State) (secured duringAlarm : Bool) (f : State → State) : Host.Outcome State Fault Refusal :=
  if !(secured && s.hallmark.sessions.any (·.2)) ∨ (!duringAlarm ∧ s.hallmark.tamp) then .next (s.reply .refused)
  else .next (f s)

/-- A command whose code is not listed is refused (R434). -/
def State.unlisted (s : State) (code : Nat) : State :=
  if [0x01, 0x02, 0x03, 0x10, 0x11, 0x12, 0x13, 0x14].contains code then s else s.reply .refused

/-- A control message is answered as MCTP has it (R434). -/
def State.control (s : State) (message : List Byte) : State := s.reply (.bytes (Config.mctpControl message))

/-- READ_STATUS. -/
def execReadStatus (s : State) : Host.Outcome State Fault Refusal := .next (s.reply (.words [s.hallmark.status]))

/-- The words of R437. -/
def Hallmark.telemetry (h : Hallmark) : List Word :=
  ((List.range 10).map fun i => BitVec.ofNat 64 (h.sensors.dieTemp.getD i 0)) ++ ((List.range 16).map fun i => BitVec.ofNat 64 (h.sensors.hbmTemp.getD i 0))
    ++ [BitVec.ofNat 64 h.sensors.powerMw, BitVec.ofNat 64 ((h.throttled.map fun d => 2 ^ d).foldl (· + ·) 0), h.throttles]

/-- READ_TELEMETRY (R437). -/
def execReadTelemetry (s : State) : Host.Outcome State Fault Refusal := .next (s.reply (.words s.hallmark.telemetry))

/-- REPAIR_READ (R434). -/
def execRepairRead (s : State) : Host.Outcome State Fault Refusal := .next (s.reply (.records s.hallmark.store))

/-- Bytes put into a byte string, which grows with zeros. -/
def putBytes (l : List Byte) (o : Nat) (d : List Byte) : List Byte := padTo o l ++ d ++ l.drop (o + d.length)

/-- FW_WRITE (R431): within the slot that is not ACTIVE. -/
def execFwWrite (secured : Bool) (target offset : Nat) (data : List Byte) (s : State) : Host.Outcome State Fault Refusal :=
  s.management secured false fun s =>
    if 1 < target ∨ 256 + 2 ^ 23 < offset + data.length then s.reply .refused
    else
      let h := s.hallmark
      let slot := 1 - h.active target
      { s with hallmark := { h with fw := Tab.put h.fw (2 * target + slot) (putBytes (h.image target slot) offset data) } }.reply .done

/-- FW_ACTIVATE (R431): ACTIVE flips only where the slot verifies. -/
def execFwActivate (secured : Bool) (target : Nat) (s : State) : Host.Outcome State Fault Refusal :=
  s.management secured false fun s =>
    let h := s.hallmark
    if 1 < target then s.reply .refused
    else if imageValid target h.minsvn (h.image target (1 - h.active target)) then
      { s with hallmark := { h with activeB := if h.activeB.contains target then h.activeB.filter (· ≠ target) else h.activeB ++ [target] } }.reply .done
    else (s.repairRas 0x22).reply .error

/-- SVN_COMMIT (R431): fuses never decrease. -/
def execSvnCommit (secured : Bool) (s : State) : Host.Outcome State Fault Refusal :=
  s.management secured false fun s =>
    { s with hallmark := { s.hallmark with minsvn := Nat.max s.hallmark.minsvn s.hallmark.svn } }.reply .done

/-- REPAIR_SIGN (R426, R427, R432): the record is signed and stored, 64 at most. -/
def execRepairSign (secured : Bool) (record : List Byte) (s : State) : Host.Outcome State Fault Refusal :=
  s.management secured false fun s =>
    let h := s.hallmark
    let body := padTo 64 record
    if h.idgone ∨ 64 ≤ h.store.length then s.reply .refused
    else if recKind body = 2 ∧ Config.spareRows (recStack body) ≤ stackRows h.store (recStack body) then (s.repairRas 0x22).reply .refused
    else
      { s with hallmark := { h with store := h.store ++ [body ++ sigBytes (Config.identitySign h.serial (Config.sha384 body))] } }.reply .done

/-- RESET (R434). -/
def execReset (secured : Bool) (s : State) : Host.Outcome State Fault Refusal := s.management secured true fun s => s.packageReset

/-! ## SPDM (R433) -/

/-- An SPDM request and its answer, over MCTP, or over Courier where its window is open (R421, R428, R433). -/
def State.spdm (s : State) (f : State → State) : Host.Outcome State Fault Refusal :=
  .next (if s.hallmark.path = .courier ∧ !s.windowOpen then s else f s)

/-- A signed answer, or an error once the identity key is erased (R432). -/
def State.signed (s : State) (f : BitVec 768 → Reply) (body : List Byte) : State :=
  if s.hallmark.idgone then s.reply .error else s.reply (f (Config.identitySign s.hallmark.serial (Config.sha384 body)))

/-- GET_VERSION: SPDM 1.3. -/
def execGetVersion (s : State) : Host.Outcome State Fault Refusal := s.spdm fun s => s.reply (.bytes [0x13])
/-- GET_CAPABILITIES. -/
def execGetCapabilities (s : State) : Host.Outcome State Fault Refusal := s.spdm fun s => s.reply (.bytes Config.spdmCapabilities)
/-- NEGOTIATE_ALGORITHMS: the request offers the algorithms of R433, or nothing is agreed. -/
def execNegotiateAlgorithms (offer : List Algorithm) (s : State) : Host.Outcome State Fault Refusal :=
  s.spdm fun s => s.reply (if Algorithm.supported.all fun a => offer.contains a then .done else .error)
/-- GET_DIGESTS. -/
def execGetDigests (s : State) : Host.Outcome State Fault Refusal := s.spdm fun s => s.reply (.bytes (digestBytes (Config.sha384 s.hallmark.certs)))
/-- GET_CERTIFICATE. -/
def execGetCertificate (offset length : Nat) (s : State) : Host.Outcome State Fault Refusal :=
  s.spdm fun s => s.reply (.bytes ((s.hallmark.certs.drop offset).take length))
/-- CHALLENGE. -/
def execChallenge (nonce : List Byte) (s : State) : Host.Outcome State Fault Refusal :=
  s.spdm fun s =>
    let body := nonce ++ digestBytes (Config.sha384 s.hallmark.certs) ++ digestBytes (Config.sha384 (s.hallmark.measured.flatMap id))
    s.signed (fun g => .signed body (sigBytes g)) body

/-- A measurement by its index (R433): 0 asks for their number, 255 for all (notes/assumptions/21.md). -/
def Hallmark.measurement (h : Hallmark) (index : Nat) : Option (List Byte) :=
  if index = 0 then some [BitVec.ofNat 8 h.measured.length]
  else if index = 255 then some (h.measured.flatMap id)
  else h.measured[index - 1]?

/-- GET_MEASUREMENTS. -/
def execGetMeasurements (index : Nat) (nonce : List Byte) (s : State) : Host.Outcome State Fault Refusal :=
  s.spdm fun s =>
    match s.hallmark.measurement index with
    | none => s.reply .error
    | some m => s.signed (fun g => .signed (m ++ nonce) (sigBytes g)) (m ++ nonce)

/-- KEY_EXCHANGE: a session opens, not yet secured. -/
def execKeyExchange (session : Nat) (share : List Byte) (s : State) : Host.Outcome State Fault Refusal :=
  s.spdm fun s =>
    let h := s.hallmark
    let body := share ++ Config.keyShare session share
    if h.idgone ∨ h.sessions.any (fun x => x.1 = session) then s.reply .error
    else
      let s : State := { s with hallmark := { h with sessions := h.sessions ++ [(session, false)] } }
      s.signed (fun g => .session session body (sigBytes g)) body

/-- FINISH: the session is secured where its verification is good. -/
def execFinish (session : Nat) (verify : List Byte) (s : State) : Host.Outcome State Fault Refusal :=
  s.spdm fun s =>
    let h := s.hallmark
    if h.sessions.contains (session, false) ∧ Config.finishGood session verify then
      let s : State := { s with hallmark := { h with sessions := h.sessions.map fun x => if x.1 = session then (session, true) else x } }
      s.reply .done
    else s.reply .error

/-- END_SESSION. -/
def execEndSession (session : Nat) (s : State) : Host.Outcome State Fault Refusal :=
  s.spdm fun s =>
    let h := s.hallmark
    if h.sessions.contains (session, true) then
      let s : State := { s with hallmark := { h with sessions := h.sessions.filter fun x => x.1 ≠ session } }
      s.reply .done
    else s.reply .error

/-- HEARTBEAT. -/
def execHeartbeat (session : Nat) (s : State) : Host.Outcome State Fault Refusal :=
  s.spdm fun s => s.reply (if s.hallmark.sessions.contains (session, true) then .done else .error)

end Sys2Proof.Machine
end

