-- ==== Sys2Proof/Machine/Vector.lean ====
section
/-! DEFINITION. Vector and mask instructions (R113 to R127). -/

namespace Sys2Proof.Machine

/-- A vector result. -/
def retireVec (s : State) (v : View) (d : Operand) (r : BitVec 512 × Fl) : Res := .next s (v.t.setVec d r.1) r.2

/-- Lane by lane at width W of TY: integer rows with Put or PutSat (R115, R116). -/
def vecInt (s : State) (v : View) (g : Guard) (sat : Bool) (ty : Ty) (d x y : Operand) (f : Int → Int → Int) : Res :=
  let w := ty.width
  retireVec s v d (mapLanes (v.t.guardMask g) (512 / w) w (v.t.vec d) fun j =>
    let (r, fl) := finishInt ty sat (f (intSrc ty (lane (v.t.vec x) w j)) (intSrc ty (lane (v.t.vec y) w j)))
    (putLane ty r, fl))

/-- Lane by lane on bit patterns of w bits, with no flag (R117). -/
def vecBits (s : State) (v : View) (g : Guard) (w : Nat) (d : Operand) (f : Nat → Nat) : Res :=
  retireVec s v d (mapLanes (v.t.guardMask g) (512 / w) w (v.t.vec d) fun j => (f j, 0))

/-- Lane by lane on encodings of a floating type (R120). -/
def vecFloat (s : State) (v : View) (g : Guard) (ty : Ty) (d : Operand) (f : Nat → Nat × Fl) : Res :=
  let w := ty.width
  retireVec s v d (mapLanes (v.t.guardMask g) (512 / w) w (v.t.vec d) f)

/-- VSHL, VSHR and VSAR (R116). -/
def vecShift (s : State) (v : View) (g : Guard) (k : ShiftKind) (ty : Ty) (d x y : Operand) : Res :=
  let w := ty.width
  vecBits s v g w d fun j => shiftBits k w (lane (v.t.vec x) w j) (lane (v.t.vec y) w j)

/-- The mask result of VCMP and VFCMP: bits above L are zero (R118). -/
def vecMask (s : State) (v : View) (g : Guard) (n : Nat) (d : Operand) (f : Nat → Bool × Fl) : Res :=
  let (m, fl) := mapMask (v.t.guardMask g) n (s.readOp v d) f
  retireOp s v d m fl

/-- One pass of the tree of R56 at distance 2^l: lane values, absent where none. -/
def treeLevel (op : RedOp) (t : Ty) (l : Nat) (vals : List (Option Nat)) (f : Fl) : List (Option Nat) × Fl :=
  (List.range vals.length).foldl (init := (vals, f)) fun acc j =>
    if j % 2 ^ (l + 1) = 0 then
      match (acc.1[j]?).join, (acc.1[j + 2 ^ l]?).join with
      | some a, some b =>
        let (r, fl) := combine op t a b
        (acc.1.set j (some r), acc.2 ||| fl)
      | none, some b => (acc.1.set j (some b), acc.2)
      | _, none => acc
    else acc

/-- The tree of R56 over the lanes: the combined value, absent when no lane is. A lane that meets no other is a result by R42: its NaN is
canonical, and NV tells of a signalling one (DEDUCED, notes/assumptions/54.md). -/
def reduceTree (op : RedOp) (t : Ty) (vals : List (Option Nat)) : Option Nat × Fl :=
  let (r, f) := (List.range (Nat.log2 vals.length)).foldl (init := (vals, (0 : Fl))) fun acc l => treeLevel op t l acc.1 acc.2
  match (r[0]?).join with
  | none => (none, f)
  | some x => (some (passValue t x).1, f ||| (passValue t x).2)

/-- The prefix of R57: the destination and the flags. The first active lane's result is its source, by R42 with a NaN made canonical
(DEDUCED, notes/assumptions/54.md). -/
def scanLanes (op : RedOp) (t : Ty) (m : Word) (src old : BitVec 512) : BitVec 512 × Fl :=
  let w := t.width
  let r := (List.range (512 / w)).foldl (init := (old, (none : Option Nat), (0 : Fl))) fun acc j =>
    if active m j then
      let x := lane src w j
      match acc.2.1 with
      | none =>
        let (y, fl) := passValue t x
        (setLane acc.1 w j y, some (y % 2 ^ w), acc.2.2 ||| fl)
      | some p =>
        let (y, fl) := combine op t p x
        (setLane acc.1 w j y, some (y % 2 ^ w), acc.2.2 ||| fl)
    else acc
  (r.1, r.2.2)

/-- A value extended as a scalar result: Put for integers, zeros above for floating types (R90, R125). -/
def extendResult (t : Ty) (x : Nat) : Word := if t.isInt then put t x else BitVec.ofNat 64 x

/-- The elements of a register at a type, read packed (R113, R123). -/
def packedCount (t : Ty) : Nat := if t.width = 6 then 64 else 512 / t.width

/-- The mask bit that governs element j of a packed destination: for a 4-bit type, bit j governs byte j (R114). -/
def packedActive (m : Word) (t : Ty) (j : Nat) : Bool := if t.width = 4 then active m (j / 2) else active m j

/-- Packed elements written one by one where active. -/
def mapPacked (m : Word) (t : Ty) (n : Nat) (old : BitVec 512) (f : Nat → Option (Nat × Fl)) : BitVec 512 × Fl :=
  (List.range n).foldl (init := (old, 0)) fun acc j =>
    if packedActive m t j then
      match f j with
      | some (x, fl) => (setLane acc.1 t.width j x, acc.2 ||| fl)
      | none => acc
    else acc

/-- VADD (R116). -/
def execVadd (g : Guard) (sat : Bool) (ty : Ty) (d x y : Operand) (s : State) : Host.Outcome State Fault Refusal :=
  issue (.vadd g sat ty d x y) s fun s v => vecInt s v g sat ty d x y fun x y => x + y

/-- VSUB (R116). -/
def execVsub (g : Guard) (sat : Bool) (ty : Ty) (d x y : Operand) (s : State) : Host.Outcome State Fault Refusal :=
  issue (.vsub g sat ty d x y) s fun s v => vecInt s v g sat ty d x y fun x y => x - y

/-- VMUL (R116). -/
def execVmul (g : Guard) (sat : Bool) (ty : Ty) (d x y : Operand) (s : State) : Host.Outcome State Fault Refusal :=
  issue (.vmul g sat ty d x y) s fun s v => vecInt s v g sat ty d x y fun x y => x * y

/-- VMULH (R116). -/
def execVmulh (g : Guard) (ty : Ty) (d x y : Operand) (s : State) : Host.Outcome State Fault Refusal :=
  issue (.vmulh g ty d x y) s fun s v => vecInt s v g false ty d x y fun x y => x * y / 2 ^ ty.width

/-- VMAD (R116). -/
def execVmad (g : Guard) (ty : Ty) (d x y z : Operand) (s : State) : Host.Outcome State Fault Refusal :=
  issue (.vmad g ty d x y z) s fun s v => 
    let w := ty.width
    vecBits s v g w d fun j => putLane ty
      (intSrc ty (lane (v.t.vec x) w j) * intSrc ty (lane (v.t.vec y) w j) + intSrc ty (lane (v.t.vec z) w j))

/-- VMIN (R116). -/
def execVmin (g : Guard) (ty : Ty) (d x y : Operand) (s : State) : Host.Outcome State Fault Refusal :=
  issue (.vmin g ty d x y) s fun s v => vecInt s v g false ty d x y fun x y => if x ≤ y then x else y

/-- VMAX (R116). -/
def execVmax (g : Guard) (ty : Ty) (d x y : Operand) (s : State) : Host.Outcome State Fault Refusal :=
  issue (.vmax g ty d x y) s fun s v => vecInt s v g false ty d x y fun x y => if x ≤ y then y else x

/-- VABSD (R116). -/
def execVabsd (g : Guard) (ty : Ty) (d x y : Operand) (s : State) : Host.Outcome State Fault Refusal :=
  issue (.vabsd g ty d x y) s fun s v => vecInt s v g false ty d x y fun x y => ((x - y).natAbs : Int)

/-- VAND, per byte lane (R117). -/
def execVand (g : Guard) (d x y : Operand) (s : State) : Host.Outcome State Fault Refusal :=
  issue (.vand g d x y) s fun s v => vecBits s v g 8 d fun j => Nat.land (lane (v.t.vec x) 8 j) (lane (v.t.vec y) 8 j)

/-- VOR, per byte lane (R117). -/
def execVor (g : Guard) (d x y : Operand) (s : State) : Host.Outcome State Fault Refusal :=
  issue (.vor g d x y) s fun s v => vecBits s v g 8 d fun j => Nat.lor (lane (v.t.vec x) 8 j) (lane (v.t.vec y) 8 j)

/-- VXOR, per byte lane (R117). -/
def execVxor (g : Guard) (d x y : Operand) (s : State) : Host.Outcome State Fault Refusal :=
  issue (.vxor g d x y) s fun s v => vecBits s v g 8 d fun j => Nat.xor (lane (v.t.vec x) 8 j) (lane (v.t.vec y) 8 j)

/-- VSHL (R116). -/
def execVshl (g : Guard) (ty : Ty) (d x y : Operand) (s : State) : Host.Outcome State Fault Refusal :=
  issue (.vshl g ty d x y) s fun s v => vecShift s v g .shl ty d x y

/-- VSHR (R116). -/
def execVshr (g : Guard) (ty : Ty) (d x y : Operand) (s : State) : Host.Outcome State Fault Refusal :=
  issue (.vshr g ty d x y) s fun s v => vecShift s v g .shr ty d x y

/-- VSAR (R116). -/
def execVsar (g : Guard) (ty : Ty) (d x y : Operand) (s : State) : Host.Outcome State Fault Refusal :=
  issue (.vsar g ty d x y) s fun s v => vecShift s v g .sar ty d x y

/-- VCMP (R118). -/
def execVcmp (g : Guard) (cond : Cond) (ty : Ty) (d x y : Operand) (s : State) : Host.Outcome State Fault Refusal :=
  issue (.vcmp g cond ty d x y) s fun s v => 
    let w := ty.width
    vecMask s v g (512 / w) d fun j =>
      (condInt cond (intSrc ty (lane (v.t.vec x) w j)) (intSrc ty (lane (v.t.vec y) w j)), 0)

/-- VSEL (R117). -/
def execVsel (g : Guard) (ty : Ty) (d x y z : Operand) (s : State) : Host.Outcome State Fault Refusal :=
  issue (.vsel g ty d x y z) s fun s v => 
    let w := ty.width
    vecBits s v g w d fun j => if active (s.readOp v z) j then lane (v.t.vec x) w j else lane (v.t.vec y) w j

/-- VFADD (R120). -/
def execVfadd (g : Guard) (ty : Ty) (rnd : Rounding) (d x y : Operand) (s : State) : Host.Outcome State Fault Refusal :=
  issue (.vfadd g ty rnd d x y) s fun s v => 
    let w := ty.width
    vecFloat s v g ty d fun j => floatOp .add ty (laneMode v.t w j rnd) (lane (v.t.vec x) w j) (lane (v.t.vec y) w j)

/-- VFSUB (R120). -/
def execVfsub (g : Guard) (ty : Ty) (rnd : Rounding) (d x y : Operand) (s : State) : Host.Outcome State Fault Refusal :=
  issue (.vfsub g ty rnd d x y) s fun s v => 
    let w := ty.width
    vecFloat s v g ty d fun j => floatOp .sub ty (laneMode v.t w j rnd) (lane (v.t.vec x) w j) (lane (v.t.vec y) w j)

/-- VFMUL (R120). -/
def execVfmul (g : Guard) (ty : Ty) (rnd : Rounding) (d x y : Operand) (s : State) : Host.Outcome State Fault Refusal :=
  issue (.vfmul g ty rnd d x y) s fun s v => 
    let w := ty.width
    vecFloat s v g ty d fun j => floatOp .mul ty (laneMode v.t w j rnd) (lane (v.t.vec x) w j) (lane (v.t.vec y) w j)

/-- VFFMA (R55, R120). -/
def execVffma (g : Guard) (ty : Ty) (rm : RM) (d x y z : Operand) (s : State) : Host.Outcome State Fault Refusal :=
  issue (.vffma g ty rm d x y z) s fun s v => 
    let w := ty.width
    vecFloat s v g ty d fun j =>
      fmaOp ty (rmMode rm) (lane (v.t.vec x) w j) (lane (v.t.vec y) w j) (lane (v.t.vec z) w j)

/-- VFMIN (R43, R120). -/
def execVfmin (g : Guard) (ty : Ty) (d x y : Operand) (s : State) : Host.Outcome State Fault Refusal :=
  issue (.vfmin g ty d x y) s fun s v => 
    let w := ty.width
    vecFloat s v g ty d fun j => floatMinMax false ty (lane (v.t.vec x) w j) (lane (v.t.vec y) w j)

/-- VFMAX (R43, R120). -/
def execVfmax (g : Guard) (ty : Ty) (d x y : Operand) (s : State) : Host.Outcome State Fault Refusal :=
  issue (.vfmax g ty d x y) s fun s v => 
    let w := ty.width
    vecFloat s v g ty d fun j => floatMinMax true ty (lane (v.t.vec x) w j) (lane (v.t.vec y) w j)

/-- VFCMP (R118). -/
def execVfcmp (g : Guard) (cond : Cond) (ty : Ty) (d x y : Operand) (s : State) : Host.Outcome State Fault Refusal :=
  issue (.vfcmp g cond ty d x y) s fun s v => 
    let w := ty.width
    vecMask s v g (512 / w) d fun j => floatCmp cond ty (lane (v.t.vec x) w j) (lane (v.t.vec y) w j)

/-- VRCP (R53, R120). -/
def execVrcp (g : Guard) (ty : Ty) (rm : RM) (d x : Operand) (s : State) : Host.Outcome State Fault Refusal :=
  issue (.vrcp g ty rm d x) s fun s v => 
    let w := ty.width
    vecFloat s v g ty d fun j => floatFn .rcp ty (rmMode rm) (lane (v.t.vec x) w j)

/-- VRSQ (R53, R120). -/
def execVrsq (g : Guard) (ty : Ty) (rm : RM) (d x : Operand) (s : State) : Host.Outcome State Fault Refusal :=
  issue (.vrsq g ty rm d x) s fun s v => 
    let w := ty.width
    vecFloat s v g ty d fun j => floatFn .rsq ty (rmMode rm) (lane (v.t.vec x) w j)

/-- VSQRT (R53, R120). -/
def execVsqrt (g : Guard) (ty : Ty) (rm : RM) (d x : Operand) (s : State) : Host.Outcome State Fault Refusal :=
  issue (.vsqrt g ty rm d x) s fun s v => 
    let w := ty.width
    vecFloat s v g ty d fun j => floatFn .sqrt ty (rmMode rm) (lane (v.t.vec x) w j)

/-- VEXP2 (R53, R120). -/
def execVexp2 (g : Guard) (ty : Ty) (rm : RM) (d x : Operand) (s : State) : Host.Outcome State Fault Refusal :=
  issue (.vexp2 g ty rm d x) s fun s v => 
    let w := ty.width
    vecFloat s v g ty d fun j => floatFn .exp2 ty (rmMode rm) (lane (v.t.vec x) w j)

/-- VLOG2 (R53, R120). -/
def execVlog2 (g : Guard) (ty : Ty) (rm : RM) (d x : Operand) (s : State) : Host.Outcome State Fault Refusal :=
  issue (.vlog2 g ty rm d x) s fun s v => 
    let w := ty.width
    vecFloat s v g ty d fun j => floatFn .log2 ty (rmMode rm) (lane (v.t.vec x) w j)

/-- VFDIV (R53, R120). -/
def execVfdiv (g : Guard) (ty : Ty) (rm : RM) (d x y : Operand) (s : State) : Host.Outcome State Fault Refusal :=
  issue (.vfdiv g ty rm d x y) s fun s v => 
    let w := ty.width
    vecFloat s v g ty d fun j => floatOp .div ty (rmMode rm) (lane (v.t.vec x) w j) (lane (v.t.vec y) w j)

/-- VCVT (R122, R439): 4-bit and 6-bit elements are held one per byte (R113). -/
def execVcvt (g : Guard) (sat : Bool) (dt ty : Ty) (rnd : Rounding) (d x : Operand) (s : State) : Host.Outcome State Fault Refusal :=
  issue (.vcvt g sat dt ty rnd d x) s fun s v => 
    let wd := Nat.max 8 dt.width
    let ws := Nat.max 8 ty.width
    retireVec s v d (mapLanes (v.t.guardMask g) (512 / Nat.max wd ws) wd (v.t.vec d) fun j =>
      convertVcvt dt ty sat (laneMode v.t ws j rnd) (lane (v.t.vec x) ws j))

/-- VSHUF (R117). -/
def execVshuf (g : Guard) (ty : Ty) (d x y : Operand) (s : State) : Host.Outcome State Fault Refusal :=
  issue (.vshuf g ty d x y) s fun s v => 
    let w := ty.width
    vecBits s v g w d fun j => lane (v.t.vec x) w (lane (v.t.vec y) w j % (512 / w))

/-- VBCAST (R117). -/
def execVbcast (g : Guard) (ty : Ty) (d x : Operand) (s : State) : Host.Outcome State Fault Refusal :=
  issue (.vbcast g ty d x) s fun s v => 
    vecBits s v g ty.width d fun _ => (s.readOp v x).toNat % 2 ^ ty.width

/-- VINS: only the selected lane, when it is active (R114, R117). -/
def execVins (g : Guard) (ty : Ty) (d x y : Operand) (s : State) : Host.Outcome State Fault Refusal :=
  issue (.vins g ty d x y) s fun s v => 
    let w := ty.width
    let i := (s.readOp v y).toNat % (512 / w)
    if active (v.t.guardMask g) i then retireVec s v d (setLane (v.t.vec d) w i (s.readOp v x).toNat, 0) else retire s v.t

/-- VEXTR: only when the selected lane is active (R114, R117). -/
def execVextr (g : Guard) (ty : Ty) (d x y : Operand) (s : State) : Host.Outcome State Fault Refusal :=
  issue (.vextr g ty d x y) s fun s v => 
    let w := ty.width
    let i := (s.readOp v y).toNat % (512 / w)
    if active (v.t.guardMask g) i then
      let e := lane (v.t.vec x) w i
      retireOp s v d (if ty.signed then put ty e else BitVec.ofNat 64 e) 0
    else retire s v.t

/-- VRED (R56, R125). -/
def execVred (g : Guard) (op : RedOp) (ty : Ty) (d x : Operand) (s : State) : Host.Outcome State Fault Refusal :=
  issue (.vred g op ty d x) s fun s v => 
    let w := ty.width
    let m := v.t.guardMask g
    let vals := (List.range (512 / w)).map fun j => if active m j then some (lane (v.t.vec x) w j) else none
    let (r, f) := reduceTree op ty vals
    retireOp s v d (extendResult ty (r.getD 0)) f

/-- VSCAN (R57, R126). -/
def execVscan (g : Guard) (op : RedOp) (ty : Ty) (d x : Operand) (s : State) : Host.Outcome State Fault Refusal :=
  issue (.vscan g op ty d x) s fun s v => 
    retireVec s v d (scanLanes op ty (v.t.guardMask g) (v.t.vec x) (v.t.vec d))

/-- VDOT (R121): a lane with a NaN source sets NV for a signalling one only; else a product or sum with no value sets it (R42). DEDUCED
(log 5). -/
def execVdot (g : Guard) (ty : Ty) (rm : RM) (d x y : Operand) (s : State) : Host.Outcome State Fault Refusal :=
  issue (.vdot g ty rm d x y) s fun s v => 
    let w := ty.width
    let n := 32 / w
    retireVec s v d (mapLanes (v.t.guardMask g) 16 32 (v.t.vec d) fun j =>
      let acc := lane (v.t.vec d) 32 j
      let at' (o : Operand) (k : Nat) : Nat := lane (v.t.vec o) w (j * n + k)
      if ty.isInt then
        let sum := (List.range n).foldl (fun a k => a + intSrc ty (at' x k) * intSrc ty (at' y k)) (0 : Int)
        (accumulateInt acc sum, 0)
      else
        let src := decodeNum .f32 acc :: (List.range n).map (fun k => decodeNum ty (at' x k)) ++ (List.range n).map fun k => decodeNum ty (at' y k)
        let ps := (List.range n).map fun k => mulNum (decodeNum ty (at' x k)) (decodeNum ty (at' y k))
        let (r, f) := accumulate (rmMode rm) acc (ps.map (·.1))
        (r, if src.any Num.isNaN then nvOf src else f ||| orFlags (ps.map (·.2))))

/-- VPACK (R123): elements of Y follow those of X, but for a 6-bit destination, which takes none: it leaves the elements where they would stand
(DESIGN CHOICE, notes/assumptions/62.md). -/
def execVpack (g : Guard) (sat : Bool) (dt ty : Ty) (rm : RM) (d x y : Operand) (s : State) : Host.Outcome State Fault Refusal :=
  issue (.vpack g sat dt ty rm d x y) s fun s v => 
    let n := packedCount ty
    retireVec s v d (mapPacked (v.t.guardMask g) dt (packedCount dt) (v.t.vec d) fun j =>
      if j < n then some (convert dt ty sat (rmMode rm) (lane (v.t.vec x) ty.width j))
      else if j < 2 * n ∧ dt.width ≠ 6 then some (convert dt ty sat (rmMode rm) (lane (v.t.vec y) ty.width (j - n)))
      else none)

/-- VUNPK (R124). -/
def execVunpk (g : Guard) (dt ty : Ty) (d x y : Operand) (s : State) : Host.Outcome State Fault Refusal :=
  issue (.vunpk g dt ty d x y) s fun s v => 
    let n := packedCount dt
    let part := (s.readOp v y).toNat % Nat.max 1 (packedCount ty / n)
    retireVec s v d (mapPacked (v.t.guardMask g) dt n (v.t.vec d) fun j =>
      some (convert dt ty false .rne (lane (v.t.vec x) ty.width (part * n + j))))

/-- VPOPC (R116). -/
def execVpopc (g : Guard) (ty : Ty) (d x : Operand) (s : State) : Host.Outcome State Fault Refusal :=
  issue (.vpopc g ty d x) s fun s v => vecBits s v g ty.width d fun j => popBits ty.width (lane (v.t.vec x) ty.width j)

/-- VCLZ (R116). -/
def execVclz (g : Guard) (ty : Ty) (d x : Operand) (s : State) : Host.Outcome State Fault Refusal :=
  issue (.vclz g ty d x) s fun s v => vecBits s v g ty.width d fun j => clzBits ty.width (lane (v.t.vec x) ty.width j)

/-- VRNG (R127). -/
def execVrng (g : Guard) (d x y z : Operand) (s : State) : Host.Outcome State Fault Refusal :=
  issue (.vrng g d x y z) s fun s v => 
    retireVec s v d (mapLanes (v.t.guardMask g) 16 32 (v.t.vec d) fun j =>
      let o := kcg10 (s.readOp v x + BitVec.ofNat 64 (j / 4)) (s.readOp v y) (s.readOp v z)
      ((o.getD (j % 4) 0).toNat, 0))

/-- The operations of KOP (R119). -/
def maskOp (op : MaskOp) (x y : Word) : Word :=
  match op with
  | .and => x &&& y | .or => x ||| y | .xor => x ^^^ y | .andn => x &&& ~~~y | .orn => x ||| ~~~y | .not => ~~~x | .mov => x

/-- KOP (R119). -/
def execKop (g : Guard) (op : MaskOp) (d x y : Operand) (s : State) : Host.Outcome State Fault Refusal :=
  issue (.kop g op d x y) s fun s v => retireOp s v d (maskOp op (s.readOp v x) (s.readOp v y)) 0

/-- KPOPC (R119). -/
def execKpopc (g : Guard) (d x : Operand) (s : State) : Host.Outcome State Fault Refusal :=
  issue (.kpopc g d x) s fun s v => retireOp s v d (BitVec.ofNat 64 (popBits 64 (s.readOp v x).toNat)) 0

/-- KFIRST: 64 for an empty mask (R119). -/
def execKfirst (g : Guard) (d x : Operand) (s : State) : Host.Outcome State Fault Refusal :=
  issue (.kfirst g d x) s fun s v => retireOp s v d (BitVec.ofNat 64 (ctzBits 64 (s.readOp v x).toNat)) 0

/-- VMOV, per byte lane (R117). -/
def execVmov (g : Guard) (d x : Operand) (s : State) : Host.Outcome State Fault Refusal :=
  issue (.vmov g d x) s fun s v => vecBits s v g 8 d fun j => lane (v.t.vec x) 8 j

end Sys2Proof.Machine
end

