-- ==== Sys2Proof/Machine/Dispatch.lean ====
section
/-! DEFINITION. One arm per constructor of Instr: a direct call of its meaning. -/

namespace Sys2Proof.Machine

def exec (i : Instr) (s : State) : Host.Outcome State Fault Refusal :=
  match i with
  | .nop g => Sys2Proof.Machine.execNop g s
  | .br g disp => Sys2Proof.Machine.execBr g disp s
  | .jmp g x disp => Sys2Proof.Machine.execJmp g x disp s
  | .call g disp => Sys2Proof.Machine.execCall g disp s
  | .callr g x disp => Sys2Proof.Machine.execCallr g x disp s
  | .ret g => Sys2Proof.Machine.execRet g s
  | .loop g d disp => Sys2Proof.Machine.execLoop g d disp s
  | .endT g => Sys2Proof.Machine.execEndT g s
  | .trap g disp => Sys2Proof.Machine.execTrap g disp s
  | .brk g disp => Sys2Proof.Machine.execBrk g disp s
  | .add g sat ty d x y => Sys2Proof.Machine.execAdd g sat ty d x y s
  | .sub g sat ty d x y => Sys2Proof.Machine.execSub g sat ty d x y s
  | .mul g sat ty d x y => Sys2Proof.Machine.execMul g sat ty d x y s
  | .mulh g ty d x y => Sys2Proof.Machine.execMulh g ty d x y s
  | .div g ty d x y => Sys2Proof.Machine.execDiv g ty d x y s
  | .rem g ty d x y => Sys2Proof.Machine.execRem g ty d x y s
  | .and g d x y => Sys2Proof.Machine.execAnd g d x y s
  | .or g d x y => Sys2Proof.Machine.execOr g d x y s
  | .xor g d x y => Sys2Proof.Machine.execXor g d x y s
  | .andn g d x y => Sys2Proof.Machine.execAndn g d x y s
  | .orn g d x y => Sys2Proof.Machine.execOrn g d x y s
  | .shl g ty d x y => Sys2Proof.Machine.execShl g ty d x y s
  | .shr g ty d x y => Sys2Proof.Machine.execShr g ty d x y s
  | .sar g ty d x y => Sys2Proof.Machine.execSar g ty d x y s
  | .rol g ty d x y => Sys2Proof.Machine.execRol g ty d x y s
  | .ror g ty d x y => Sys2Proof.Machine.execRor g ty d x y s
  | .min g ty d x y => Sys2Proof.Machine.execMin g ty d x y s
  | .max g ty d x y => Sys2Proof.Machine.execMax g ty d x y s
  | .clz g ty d x => Sys2Proof.Machine.execClz g ty d x s
  | .ctz g ty d x => Sys2Proof.Machine.execCtz g ty d x s
  | .popc g ty d x => Sys2Proof.Machine.execPopc g ty d x s
  | .brev g ty d x => Sys2Proof.Machine.execBrev g ty d x s
  | .bswap g ty d x => Sys2Proof.Machine.execBswap g ty d x s
  | .ext g ty d x => Sys2Proof.Machine.execExt g ty d x s
  | .bfx g d x y => Sys2Proof.Machine.execBfx g d x y s
  | .bfi g d x y z => Sys2Proof.Machine.execBfi g d x y z s
  | .madd g ty d x y z => Sys2Proof.Machine.execMadd g ty d x y z s
  | .cmp g cond ty d x y => Sys2Proof.Machine.execCmp g cond ty d x y s
  | .sel g d x y z => Sys2Proof.Machine.execSel g d x y z s
  | .mov g d x => Sys2Proof.Machine.execMov g d x s
  | .abs g sat ty d x => Sys2Proof.Machine.execAbs g sat ty d x s
  | .neg g sat ty d x => Sys2Proof.Machine.execNeg g sat ty d x s
  | .addi g d x imm => Sys2Proof.Machine.execAddi g d x imm s
  | .muli g d x imm => Sys2Proof.Machine.execMuli g d x imm s
  | .andi g d x imm => Sys2Proof.Machine.execAndi g d x imm s
  | .ori g d x imm => Sys2Proof.Machine.execOri g d x imm s
  | .xori g d x imm => Sys2Proof.Machine.execXori g d x imm s
  | .shli g d x imm => Sys2Proof.Machine.execShli g d x imm s
  | .shri g d x imm => Sys2Proof.Machine.execShri g d x imm s
  | .sari g d x imm => Sys2Proof.Machine.execSari g d x imm s
  | .cmpi g cond d x imm => Sys2Proof.Machine.execCmpi g cond d x imm s
  | .li g d imm => Sys2Proof.Machine.execLi g d imm s
  | .lih g d imm => Sys2Proof.Machine.execLih g d imm s
  | .li64 g d imm => Sys2Proof.Machine.execLi64 g d imm s
  | .lea g d x imm => Sys2Proof.Machine.execLea g d x imm s
  | .leaPc g d imm => Sys2Proof.Machine.execLeaPc g d imm s
  | .fadd g ty rnd d x y => Sys2Proof.Machine.execFadd g ty rnd d x y s
  | .fsub g ty rnd d x y => Sys2Proof.Machine.execFsub g ty rnd d x y s
  | .fmul g ty rnd d x y => Sys2Proof.Machine.execFmul g ty rnd d x y s
  | .ffma g ty rm d x y z => Sys2Proof.Machine.execFfma g ty rm d x y z s
  | .fdiv g ty rm d x y => Sys2Proof.Machine.execFdiv g ty rm d x y s
  | .fsqrt g ty rm d x => Sys2Proof.Machine.execFsqrt g ty rm d x s
  | .fmin g ty d x y => Sys2Proof.Machine.execFmin g ty d x y s
  | .fmax g ty d x y => Sys2Proof.Machine.execFmax g ty d x y s
  | .fcmp g cond ty d x y => Sys2Proof.Machine.execFcmp g cond ty d x y s
  | .fcvt g sat dt ty rnd d x => Sys2Proof.Machine.execFcvt g sat dt ty rnd d x s
  | .fclass g ty d x => Sys2Proof.Machine.execFclass g ty d x s
  | .frnd g ty rm d x => Sys2Proof.Machine.execFrnd g ty rm d x s
  | .vadd g sat ty d x y => Sys2Proof.Machine.execVadd g sat ty d x y s
  | .vsub g sat ty d x y => Sys2Proof.Machine.execVsub g sat ty d x y s
  | .vmul g sat ty d x y => Sys2Proof.Machine.execVmul g sat ty d x y s
  | .vmulh g ty d x y => Sys2Proof.Machine.execVmulh g ty d x y s
  | .vmad g ty d x y z => Sys2Proof.Machine.execVmad g ty d x y z s
  | .vmin g ty d x y => Sys2Proof.Machine.execVmin g ty d x y s
  | .vmax g ty d x y => Sys2Proof.Machine.execVmax g ty d x y s
  | .vabsd g ty d x y => Sys2Proof.Machine.execVabsd g ty d x y s
  | .vand g d x y => Sys2Proof.Machine.execVand g d x y s
  | .vor g d x y => Sys2Proof.Machine.execVor g d x y s
  | .vxor g d x y => Sys2Proof.Machine.execVxor g d x y s
  | .vshl g ty d x y => Sys2Proof.Machine.execVshl g ty d x y s
  | .vshr g ty d x y => Sys2Proof.Machine.execVshr g ty d x y s
  | .vsar g ty d x y => Sys2Proof.Machine.execVsar g ty d x y s
  | .vcmp g cond ty d x y => Sys2Proof.Machine.execVcmp g cond ty d x y s
  | .vsel g ty d x y z => Sys2Proof.Machine.execVsel g ty d x y z s
  | .vfadd g ty rnd d x y => Sys2Proof.Machine.execVfadd g ty rnd d x y s
  | .vfsub g ty rnd d x y => Sys2Proof.Machine.execVfsub g ty rnd d x y s
  | .vfmul g ty rnd d x y => Sys2Proof.Machine.execVfmul g ty rnd d x y s
  | .vffma g ty rm d x y z => Sys2Proof.Machine.execVffma g ty rm d x y z s
  | .vfmin g ty d x y => Sys2Proof.Machine.execVfmin g ty d x y s
  | .vfmax g ty d x y => Sys2Proof.Machine.execVfmax g ty d x y s
  | .vfcmp g cond ty d x y => Sys2Proof.Machine.execVfcmp g cond ty d x y s
  | .vrcp g ty rm d x => Sys2Proof.Machine.execVrcp g ty rm d x s
  | .vrsq g ty rm d x => Sys2Proof.Machine.execVrsq g ty rm d x s
  | .vsqrt g ty rm d x => Sys2Proof.Machine.execVsqrt g ty rm d x s
  | .vfdiv g ty rm d x y => Sys2Proof.Machine.execVfdiv g ty rm d x y s
  | .vexp2 g ty rm d x => Sys2Proof.Machine.execVexp2 g ty rm d x s
  | .vlog2 g ty rm d x => Sys2Proof.Machine.execVlog2 g ty rm d x s
  | .vcvt g sat dt ty rnd d x => Sys2Proof.Machine.execVcvt g sat dt ty rnd d x s
  | .vshuf g ty d x y => Sys2Proof.Machine.execVshuf g ty d x y s
  | .vbcast g ty d x => Sys2Proof.Machine.execVbcast g ty d x s
  | .vins g ty d x y => Sys2Proof.Machine.execVins g ty d x y s
  | .vextr g ty d x y => Sys2Proof.Machine.execVextr g ty d x y s
  | .vred g op ty d x => Sys2Proof.Machine.execVred g op ty d x s
  | .vscan g op ty d x => Sys2Proof.Machine.execVscan g op ty d x s
  | .vdot g ty rm d x y => Sys2Proof.Machine.execVdot g ty rm d x y s
  | .vpack g sat dt ty rm d x y => Sys2Proof.Machine.execVpack g sat dt ty rm d x y s
  | .vunpk g dt ty d x y => Sys2Proof.Machine.execVunpk g dt ty d x y s
  | .vpopc g ty d x => Sys2Proof.Machine.execVpopc g ty d x s
  | .vclz g ty d x => Sys2Proof.Machine.execVclz g ty d x s
  | .vrng g d x y z => Sys2Proof.Machine.execVrng g d x y z s
  | .kop g op d x y => Sys2Proof.Machine.execKop g op d x y s
  | .kpopc g d x => Sys2Proof.Machine.execKpopc g d x s
  | .kfirst g d x => Sys2Proof.Machine.execKfirst g d x s
  | .vmov g d x => Sys2Proof.Machine.execVmov g d x s
  | .lds g sext sz d x off => Sys2Proof.Machine.execLds g sext sz d x off s
  | .sts g sz d x off => Sys2Proof.Machine.execSts g sz d x off s
  | .vlds g d x off => Sys2Proof.Machine.execVlds g d x off s
  | .vsts g d x off => Sys2Proof.Machine.execVsts g d x off s
  | .vgath g sz d x off y => Sys2Proof.Machine.execVgath g sz d x off y s
  | .vscat g sz d x off y => Sys2Proof.Machine.execVscat g sz d x off y s
  | .ldf g d x off => Sys2Proof.Machine.execLdf g d x off s
  | .stf g d x off => Sys2Proof.Machine.execStf g d x off s
  | .satom g op sz d x off => Sys2Proof.Machine.execSatom g op sz d x off s
  | .scpy g sz d x off y => Sys2Proof.Machine.execScpy g sz d x off y s
  | .gld g sext sz d x off t scope ord => Sys2Proof.Machine.execGld g sext sz d x off t scope ord s
  | .gst g sz d x off t scope ord => Sys2Proof.Machine.execGst g sz d x off t scope ord s
  | .gldv g d x off t scope ord => Sys2Proof.Machine.execGldv g d x off t scope ord s
  | .gstv g d x off t scope ord => Sys2Proof.Machine.execGstv g d x off t scope ord s
  | .gatom g op sz d x off t scope ord => Sys2Proof.Machine.execGatom g op sz d x off t scope ord s
  | .gred g op sz d x off t scope ord => Sys2Proof.Machine.execGred g op sz d x off t scope ord s
  | .ild g d x off t scope ord => Sys2Proof.Machine.execIld g d x off t scope ord s
  | .ist g d x off t scope ord => Sys2Proof.Machine.execIst g d x off t scope ord s
  | .irst g d x off t scope ord => Sys2Proof.Machine.execIrst g d x off t scope ord s
  | .mwatch g sz d x off t scope ord => Sys2Proof.Machine.execMwatch g sz d x off t scope ord s
  | .dma g x t scope ord => Sys2Proof.Machine.execDma g x t scope ord s
  | .strmOpen g d x t scope ord => Sys2Proof.Machine.execStrmOpen g d x t scope ord s
  | .strmAdv g d x t scope ord => Sys2Proof.Machine.execStrmAdv g d x t scope ord s
  | .strmNotify g d x t scope ord => Sys2Proof.Machine.execStrmNotify g d x t scope ord s
  | .strmClose g d t scope ord => Sys2Proof.Machine.execStrmClose g d t scope ord s
  | .fence g t scope ord => Sys2Proof.Machine.execFence g t scope ord s
  | .pref g sz x off scope => Sys2Proof.Machine.execPref g sz x off scope s
  | .fnew g large d t => Sys2Proof.Machine.execFnew g large d t s
  | .ffree g x => Sys2Proof.Machine.execFfree g x s
  | .sloti g x y => Sys2Proof.Machine.execSloti g x y s
  | .slota g x y => Sys2Proof.Machine.execSlota g x y s
  | .sig g st rel x => Sys2Proof.Machine.execSig g st rel x s
  | .sigd g st rel x y => Sys2Proof.Machine.execSigd g st rel x y s
  | .cont g d x y z => Sys2Proof.Machine.execCont g d x y z s
  | .spawn g x y t => Sys2Proof.Machine.execSpawn g x y t s
  | .launch g x y t => Sys2Proof.Machine.execLaunch g x y t s
  | .kend g => Sys2Proof.Machine.execKend g s
  | .bar g t => Sys2Proof.Machine.execBar g t s
  | .ared g op ty d x t => Sys2Proof.Machine.execAred g op ty d x t s
  | .tidx g d x => Sys2Proof.Machine.execTidx g d x s
  | .flags g d => Sys2Proof.Machine.execFlags g d s
  | .chsend g kind rel x y z t => Sys2Proof.Machine.execChsend g kind rel x y z t s
  | .chrecv g kind x y z t => Sys2Proof.Machine.execChrecv g kind x y z t s
  | .chsel g rot d x y z t => Sys2Proof.Machine.execChsel g rot d x y z t s
  | .chsendm g kind rel x y z t => Sys2Proof.Machine.execChsendm g kind rel x y z t s
  | .chtest g d x t => Sys2Proof.Machine.execChtest g d x t s
  | .chbind g x t => Sys2Proof.Machine.execChbind g x t s
  | .chcan g x => Sys2Proof.Machine.execChcan g x s
  | .phclaim g x y z t => Sys2Proof.Machine.execPhclaim g x y z t s
  | .phins g vec d x y z t => Sys2Proof.Machine.execPhins g vec d x y z t s
  | .phprb g vec d x y t => Sys2Proof.Machine.execPhprb g vec d x y t s
  | .phdel g vec d x y t => Sys2Proof.Machine.execPhdel g vec d x y t s
  | .phacc g vec kind d x y z t => Sys2Proof.Machine.execPhacc g vec kind d x y z t s
  | .phdrn g vec chan d x y z t => Sys2Proof.Machine.execPhdrn g vec chan d x y z t s
  | .phrls g x t => Sys2Proof.Machine.execPhrls g x t s
  | .phstat g vec d x y t => Sys2Proof.Machine.execPhstat g vec d x y t s
  | .mcfg g x => Sys2Proof.Machine.execMcfg g x s
  | .mlda g x y z t => Sys2Proof.Machine.execMlda g x y z t s
  | .mldb g x y z => Sys2Proof.Machine.execMldb g x y z s
  | .mrun g chan ring x y z t => Sys2Proof.Machine.execMrun g chan ring x y z t s
  | .mzero g x => Sys2Proof.Machine.execMzero g x s
  | .mdrn g kind sat ty rm x y z t => Sys2Proof.Machine.execMdrn g kind sat ty rm x y z t s
  | .msteer g x y => Sys2Proof.Machine.execMsteer g x y s
  | .mstat g d x t => Sys2Proof.Machine.execMstat g d x t s
  | .sysr g d x t => Sys2Proof.Machine.execSysr g d x t s
  | .sysw g x y t => Sys2Proof.Machine.execSysw g x y t s
  | .fres g kind x y t => Sys2Proof.Machine.execFres g kind x y t s
  | .tlbi g kind x y t => Sys2Proof.Machine.execTlbi g kind x y t s
  | .tmap g d x t => Sys2Proof.Machine.execTmap g d x t s
  | .evictSave g x t => Sys2Proof.Machine.execEvictSave g x t s
  | .evictRestore g x t => Sys2Proof.Machine.execEvictRestore g x t s
  | .dloctl g x y t => Sys2Proof.Machine.execDloctl g x y t s
  | .halt g x => Sys2Proof.Machine.execHalt g x s
  | .pick ptn core seat => Sys2Proof.Machine.execPick ptn core seat s
  | .accept n => Sys2Proof.Machine.execAccept n s
  | .responseArrival id => Sys2Proof.Machine.execResponseArrival id s
  | .writeAck id pod => Sys2Proof.Machine.execWriteAck id pod s
  | .homeRead id => Sys2Proof.Machine.execHomeRead id s
  | .homeWrite id => Sys2Proof.Machine.execHomeWrite id s
  | .homeAtomic id => Sys2Proof.Machine.execHomeAtomic id s
  | .homeIld id => Sys2Proof.Machine.execHomeIld id s
  | .homeIst id => Sys2Proof.Machine.execHomeIst id s
  | .homeIrst id => Sys2Proof.Machine.execHomeIrst id s
  | .mwatchArm id => Sys2Proof.Machine.execMwatchArm id s
  | .pageWalk id cached => Sys2Proof.Machine.execPageWalk id cached s
  | .faultServiceReply ctx va present => Sys2Proof.Machine.execFaultServiceReply ctx va present s
  | .taskPickup ptn core ctx => Sys2Proof.Machine.execTaskPickup ptn core ctx s
  | .stealRequest ptn core ctx => Sys2Proof.Machine.execStealRequest ptn core ctx s
  | .stealServe n => Sys2Proof.Machine.execStealServe n s
  | .stealReply n => Sys2Proof.Machine.execStealReply n s
  | .spawnPush n => Sys2Proof.Machine.execSpawnPush n s
  | .deferredCreation ctx ltn core => Sys2Proof.Machine.execDeferredCreation ctx ltn core s
  | .spillStart ctx ltn core => Sys2Proof.Machine.execSpillStart ctx ltn core s
  | .spillCheck ctx ltn core frm => Sys2Proof.Machine.execSpillCheck ctx ltn core frm s
  | .forwardApply n => Sys2Proof.Machine.execForwardApply n s
  | .wake n => Sys2Proof.Machine.execWake n s
  | .deferredWakeSend n => Sys2Proof.Machine.execDeferredWakeSend n s
  | .recall n => Sys2Proof.Machine.execRecall n s
  | .refillInstall n => Sys2Proof.Machine.execRefillInstall n s
  | .recallDone n => Sys2Proof.Machine.execRecallDone n s
  | .trapQueueRetry n => Sys2Proof.Machine.execTrapQueueRetry n s
  | .barArrival n => Sys2Proof.Machine.execBarArrival n s
  | .barRelease n => Sys2Proof.Machine.execBarRelease n s
  | .ready n => Sys2Proof.Machine.execReady n s
  | .readySelect n => Sys2Proof.Machine.execReadySelect n s
  | .offer ns => Sys2Proof.Machine.execOffer ns s
  | .go n => Sys2Proof.Machine.execGo n s
  | .release n => Sys2Proof.Machine.execRelease n s
  | .dataLanding n => Sys2Proof.Machine.execDataLanding n s
  | .acceptance n => Sys2Proof.Machine.execAcceptance n s
  | .refuse n => Sys2Proof.Machine.execRefuse n s
  | .withdraw n => Sys2Proof.Machine.execWithdraw n s
  | .channelTest n => Sys2Proof.Machine.execChannelTest n s
  | .bindRequest n => Sys2Proof.Machine.execBindRequest n s
  | .bindReply n => Sys2Proof.Machine.execBindReply n s
  | .dloDetectionStart ctx ltn => Sys2Proof.Machine.execDloDetectionStart ctx ltn s
  | .dloQuery n => Sys2Proof.Machine.execDloQuery n s
  | .dloReply n => Sys2Proof.Machine.execDloReply n s
  | .anvilStep ctx ltn => Sys2Proof.Machine.execAnvilStep ctx ltn s
  | .anvilDrain ctx ltn => Sys2Proof.Machine.execAnvilDrain ctx ltn s
  | .phSpillStep ctx ltn n => Sys2Proof.Machine.execPhSpillStep ctx ltn n s
  | .phSpillReply ctx ltn n => Sys2Proof.Machine.execPhSpillReply ctx ltn n s
  | .dmaBurst id => Sys2Proof.Machine.execDmaBurst id s
  | .dmaBurstDone id b => Sys2Proof.Machine.execDmaBurstDone id b s
  | .streamFill ctx ltn win elem => Sys2Proof.Machine.execStreamFill ctx ltn win elem s
  | .notify q value => Sys2Proof.Machine.execNotify q value s
  | .packetTake q => Sys2Proof.Machine.execPacketTake q s
  | .dependenceMet q dep => Sys2Proof.Machine.execDependenceMet q dep s
  | .admission => Sys2Proof.Machine.execAdmission s
  | .kernelComplete ctx => Sys2Proof.Machine.execKernelComplete ctx s
  | .launchCopy id => Sys2Proof.Machine.execLaunchCopy id s
  | .spanningRelease ctx ok => Sys2Proof.Machine.execSpanningRelease ctx ok s
  | .evictedTilePacket n => Sys2Proof.Machine.execEvictedTilePacket n s
  | .ualinkInbound kind va bytes => Sys2Proof.Machine.execUalinkInbound kind va bytes s
  | .linkReplay link => Sys2Proof.Machine.execLinkReplay link s
  | .linkRetrain link how => Sys2Proof.Machine.execLinkRetrain link how s
  | .patrol granule find => Sys2Proof.Machine.execPatrol granule find s
  | .hmrWrite value => Sys2Proof.Machine.execHmrWrite value s
  | .packageReset => Sys2Proof.Machine.execPackageReset s
  | .tamperAlarm => Sys2Proof.Machine.execTamperAlarm s
  | .sensorSample sample => Sys2Proof.Machine.execSensorSample sample s
  | .resume value => Sys2Proof.Machine.execResume value s
  | .featcCommit => Sys2Proof.Machine.execFeatcCommit s
  | .featcReset => Sys2Proof.Machine.execFeatcReset s
  | .srcmdRead port => Sys2Proof.Machine.execSrcmdRead port s
  | .srcmdWrite port => Sys2Proof.Machine.execSrcmdWrite port s
  | .areplyq value => Sys2Proof.Machine.execAreplyq value s
  | .freply value => Sys2Proof.Machine.execFreply value s
  | .ckill id => Sys2Proof.Machine.execCkill id s
  | .cwgt id => Sys2Proof.Machine.execCwgt id s
  | .ctxd id => Sys2Proof.Machine.execCtxd id s
  | .qdesc id => Sys2Proof.Machine.execQdesc id s
  | .registerWrite id => Sys2Proof.Machine.execRegisterWrite id s
  | .readStatus => Sys2Proof.Machine.execReadStatus s
  | .readTelemetry => Sys2Proof.Machine.execReadTelemetry s
  | .repairRead => Sys2Proof.Machine.execRepairRead s
  | .fwWrite secured target offset data => Sys2Proof.Machine.execFwWrite secured target offset data s
  | .fwActivate secured target => Sys2Proof.Machine.execFwActivate secured target s
  | .svnCommit secured => Sys2Proof.Machine.execSvnCommit secured s
  | .repairSign secured record => Sys2Proof.Machine.execRepairSign secured record s
  | .reset secured => Sys2Proof.Machine.execReset secured s
  | .getVersion => Sys2Proof.Machine.execGetVersion s
  | .getCapabilities => Sys2Proof.Machine.execGetCapabilities s
  | .negotiateAlgorithms ok => Sys2Proof.Machine.execNegotiateAlgorithms ok s
  | .getDigests => Sys2Proof.Machine.execGetDigests s
  | .getCertificate offset length => Sys2Proof.Machine.execGetCertificate offset length s
  | .challenge nonce => Sys2Proof.Machine.execChallenge nonce s
  | .getMeasurements index nonce => Sys2Proof.Machine.execGetMeasurements index nonce s
  | .keyExchange session share => Sys2Proof.Machine.execKeyExchange session share s
  | .finish session verify => Sys2Proof.Machine.execFinish session verify s
  | .endSession session => Sys2Proof.Machine.execEndSession session s
  | .heartbeat session => Sys2Proof.Machine.execHeartbeat session s
  | .linkTrained port lanes => Sys2Proof.Machine.execLinkTrained port lanes s
  | .portm id => Sys2Proof.Machine.execPortm id s
  | .route id => Sys2Proof.Machine.execRoute id s
  | .withdrawAnswer n => Sys2Proof.Machine.execWithdrawAnswer n s
  | .testReply n => Sys2Proof.Machine.execTestReply n s
  | .instructionFetch ptn core seat => Sys2Proof.Machine.execInstructionFetch ptn core seat s
  | .taskReturned n => Sys2Proof.Machine.execTaskReturned n s

end Sys2Proof.Machine
end

