-- ==== Sys2Proof/Machine/Outside.lean ====
section
/-! DEFINITION. What arrives from outside the package's own rules: errors of its storage (R414 to R419, R423), the host (R194, R391), the
Postmasters (R392, R423), and other packages (R397, R400, R402). -/

namespace Sys2Proof.Machine

/-- A register's parity check fails from now on (R414, R419): the mark lasts until the register is written. -/
def State.parityError (s : State) (p : SeatId) (o : Operand) : State :=
  match s.seat p with
  | .run t => s.setSeat p (.run { t with bad := t.bad ++ [o] })
  | .idle | .save _ => s

/-- An error of a tile's storage makes a record (R422, R423), with a free LOC where no address is given. -/
def State.tileRas (s : State) (src ctx ltn : Nat) (loc : Option Nat) : State :=
  let ptn := s.homePtn ctx ltn
  match loc with
  | some a => s.ras src 1 ctx (ptnDie ptn) (BitVec.ofNat 64 a) ptn
  | none => s.rasOpen src 1 ctx (ptnDie ptn) ptn

/-- An uncorrectable error in a frame word poisons it (R415). -/
def State.frameWordError (s : State) (r : FrameRef) (word : Nat) : State :=
  match s.frame r with
  | none => s
  | some f => (s.setFrame r { f with poison := if f.poison.contains word then f.poison else f.poison ++ [word] }).tileRas 0x01 r.ctx r.ltn none

/-- An uncorrectable error in a scratchpad word poisons it (R415). -/
def State.spadError (s : State) (ctx ltn word : Nat) : State :=
  let p := s.part ctx ltn
  (s.setPart ctx ltn { p with spoison := if p.spoison.contains word then p.spoison else p.spoison ++ [word] }).tileRas 0x02 ctx ltn (some (8 * word))

/-- A block whose latch half has an uncorrectable error. -/
def Block.mark (b : Block) : Block := { b with poisoned := true }

/-- An uncorrectable error in the n-th block of the latch (R414): those received, those read ahead of their steps, the one that is being read,
and those held for a forward. -/
def Anvil.markBlock (e : Anvil) (n : Nat) : Anvil :=
  let nth {α : Type} (l : List α) (n : Nat) (f : α → α) : List α := l.zipIdx.map fun x => if x.2 = n then f x.1 else x.1
  if n < e.latch.length then { e with latch := nth e.latch n Block.mark }
  else
    let n := n - e.latch.length
    match e.queue with
    | .run r :: _ =>
      let t := if r.taking.isEmpty then 0 else 1
      if n < r.ahead.length then e.setRun { r with ahead := nth r.ahead n fun b => (b.1, b.2.mark) }
      else if n < r.ahead.length + t then e.setRun { r with ahead := r.ahead ++ [(.poison, ⟨[], none, false⟩)], taking := [] }
      else e.setRun { r with forward := nth r.forward (n - r.ahead.length - t) Block.mark }
    | _ => e

/-- Blocks in the halves of the latch, those of a posted forward apart (R285, R286). -/
def Anvil.blocksHeld (e : Anvil) : Nat :=
  e.latch.length + match e.queue with
    | .run r :: _ => r.ahead.length + (if r.taking.isEmpty then 0 else 1) + r.forward.length
    | _ => 0

/-- The block of a ring forward that is posted: it holds its half until it is accepted (R286). -/
def Port.markForward (q : Port) : Port :=
  { q with op := q.op.map fun o => match o.owner, o.form with
      | .ring, .sendBytes l _ => { o with form := .sendBytes l true }
      | _, _ => o }

/-- An uncorrectable error in a half of the latch: the n-th block, or the one whose forward is posted (R286, R414). -/
def Part.markBlock (p : Part) (n : Nat) : Part :=
  if n < p.anvil.blocksHeld then { p with anvil := p.anvil.markBlock n }
  else { p with ports := p.ports.map fun e => (e.1, e.2.markForward) }

/-- An uncorrectable error in a panel of the A buffer, or from 64 on in a block of the latch (R294, R414). -/
def State.panelError (s : State) (ctx ltn n : Nat) : State :=
  let p := s.part ctx ltn
  let e := p.anvil
  let p : Part :=
    if n < 64 then { p with anvil := { e with apoison := if e.apoison.contains n then e.apoison else e.apoison ++ [n] } }
    else p.markBlock (n - 64)
  (s.setPart ctx ltn p).tileRas 0x04 ctx ltn none

/-- A failed parity check of an accumulator (R418). -/
def State.accError (s : State) (ctx ltn acc : Nat) : State :=
  let p := s.part ctx ltn
  let e := p.anvil
  (s.setPart ctx ltn { p with anvil := { e with accBad := if e.accBad.contains acc then e.accBad else e.accBad ++ [acc] } }).tileRas 0x05 ctx ltn none

/-- A failed check of a status cell, a frame-map entry or a ready entry (R419). -/
def State.frameCheck (s : State) (r : FrameRef) (slot : Option Nat) : State :=
  match s.frame r with
  | none => s
  | some _ => s.frameMachineCheck r 0x08 (match slot with
    | some n => 0x100 + n
    | none => 0x1FF)

/-- A frame-map entry whose context cannot be read: every kernel resident on the core is killed (R419). -/
def State.coreCheck (s : State) (ptn : Nat) : State := (s.ctxsOn ptn).foldl (fun s e => s.machineCheckKernel e.1 ptn) s

/-- Another package's packet arrives (R400): it goes to its tile as one of this package does. -/
def State.arrive (s : State) (p : Packet) : State := s.send p

/-- The parity check of a seat's flags fails from now on (R414, R419). -/
def State.flagsParity (s : State) (p : SeatId) : State :=
  match s.seat p with
  | .run t => s.setSeat p (.run { t with badFlags := true })
  | .idle | .save _ => s

/-- A parity error in an instruction cache: the line is dropped, to be fetched again, and counts as corrected (R414). How long a line is the spec
leaves open. -/
def State.lineError (s : State) (ptn ctx va bytes : Nat) : State :=
  let t := s.tile ptn
  let s := s.setTile ptn { t with icache := t.icache.filter fun c => !(decide (c.ctx = ctx) && decide (va ≤ c.va) && decide (c.va < va + bytes)) }
  let (loc, s) := s.free 64
  s.rasCorrected 0x06 ctx (ptnDie ptn) loc ptn

/-- A parity error in a TLB: the entry is dropped, to be walked again, and counts as corrected (R414). -/
def State.tlbError (s : State) (entry die ptn : Nat) : State :=
  match s.tlb[entry]? with
  | none => s
  | some e =>
    let (loc, s) := ({ s with tlb := dropNth s.tlb entry } : State).free 64
    s.rasCorrected 0x07 e.ctx die loc ptn

/-- A corrected error is counted, and one of HBM4 toward its row (R423, R426). -/
def State.correctedError (s : State) (src ctx die : Nat) (loc : Word) (ptn : Nat) : State :=
  let s := s.rasCorrected src ctx die loc ptn
  if src = 0x11 then s.countRow (loc.toNat / 32) false else s

/-- What reaches the package only once it is up (R428). -/
def State.whenUp (s : State) (f : State → State) : State := if s.hallmark.booted then f s else s

/-- What arrives from outside. -/
def State.outside (s : State) (a : Outside) : State :=
  match a with
  | .parity p o => s.parityError p o
  | .frameError r w => s.frameWordError r w
  | .slotError r n => s.modFrame r fun f => { f with badSlots := if f.badSlots.contains n then f.badSlots else f.badSlots ++ [n] }
  | .spadError c l w => s.spadError c l w
  | .panelError c l n => s.panelError c l n
  | .accError c l n => s.accError c l n
  | .frameCheck r n => s.frameCheck r n
  | .kernelCheck c ptn => s.machineCheckKernel c ptn
  | .coreCheck ptn _ => s.coreCheck ptn
  | .corrected src ctx die loc ptn => s.whenUp fun s => s.correctedError src ctx die loc ptn
  | .flagsParity p => s.flagsParity p
  | .granuleError src g => s.whenUp fun s => s.granuleError src g
  | .lineError ptn c va n => s.lineError ptn c va n
  | .tlbError n die ptn => s.tlbError n die ptn
  | .control m => s.control m
  | .command n => s.unlisted n
  | .spdmPath p => { s with hallmark := { s.hallmark with path := p } }
  | .hostStore a d => s.hostStore a d
  | .hostPoison w => { s with hostBad := if s.hostBad.contains w then s.hostBad else s.hostBad ++ [w] }
  | .window o y => s.writeWindow o y
  | .postmaster d o y => s.writePostmaster d o y
  | .rasTaken => s.whenUp fun s => { s with rasWait := s.rasWait.drop 1 }
  | .node n => s.whenUp fun s => { s with podid := BitVec.ofNat 64 (n % 256) }
  | .arrive p => s.whenUp fun s => s.arrive p
  | .answered id st d => s.remoteAnswer id st d
  | .remote kind pa n is => s.whenUp fun s => s.serveRemote kind pa n is
  | .remoteSync name kind pa => s.whenUp fun s => s.serveSync name kind pa
  | .withdrawn name => s.whenUp fun s => s.withdrawForeign name
  | .delivered n => s.delivered n
  | .lent id a => s.lentAnswer id a
  | .asked name kind pa => s.whenUp fun s => s.serveFar name kind pa
  | .reported c n pkg ok => s.whenUp fun s => s.reportIn c n pkg ok

end Sys2Proof.Machine
end

