-- ==== Sys2Proof/Machine/Micro.lean ====
section
/-! DEFINITION. Finer steps (R30, R77, R91, R130): an instruction that has issued and not yet retired, its local accesses one by one, and
words that an instruction cache takes. -/

namespace Sys2Proof.Machine

/-- The cycle counter of the current seat's core goes on (R28). -/
def State.tick (s : State) (dt : Nat) : State :=
  let c := s.coreAt s.cur.ptn s.cur.core
  s.setCore s.cur.ptn s.cur.core { c with cyc := c.cyc + BitVec.ofNat 64 dt }

/-- Cycles since the core's latest issue: at least one, since a core issues one instruction a cycle (R18, R35); a seat that has issued
already may retire at once. -/
def State.issueGap (s : State) (p : SeatId) (dt : Nat) : Nat :=
  match s.seat p with
  | .run t => if t.mid.isSome then dt else Nat.max 1 dt
  | .idle | .save _ => Nat.max 1 dt

/-- Instructions whose issue and retirement are one turn: what they send takes its place in the frame's program order, or in its tile's count of
barriers, at issue (R185, R199), and nothing that the spec describes tells a later retirement apart (notes/assumptions/80.md). An Anvil command
enters its queue at retirement (R274). -/
def issuesWhole (i : Instr) : Bool :=
  (holdsEntry i && !entersAnvil i) || (match i with
    | .sig .. | .sigd .. | .chsend .. | .chsendm .. | .chrecv .. | .chsel .. | .chcan .. | .pref .. => true
    | _ => false)

/-- The current seat issues: it reads its frame words and the cycle counter now, and retires at a later turn (R28, R30, R91). -/
def State.beginIssue (s : State) : State :=
  match s.seat s.cur with
  | .run t =>
    if t.mid.isSome then s
    else
      match s.fetchNext s.cur t with
      | (.instr i, s) =>
        if issuesWhole i then s
        else
        let f := s.frame t.ref
        s.setSeat s.cur (.run { t with mid := some ⟨i, (f.map (·.words)).getD [], (f.map (·.poison)).getD [],
          (s.coreAt s.cur.ptn s.cur.core).cyc, 0, 0⟩ })
      | _ => s
  | .idle | .save _ => s

/-- The next local access of the instruction that a seat has issued (R130). -/
def State.oneAccess (s : State) (p : SeatId) : State :=
  match s.seat p with
  | .run t =>
    (match t.mid.bind fun m => m.instr.shape.map fun h => (m.instr, h) with
     | some (i, h) =>
       (match judge i h s ⟨p, t⟩ (nextAccess i) with
        | .next s t _ => s.setSeat p (.run t)
        | _ => s)
     | none => s)
  | .idle | .save _ => s

/-- A word of a resident context taken into a tile's instruction cache, whether or not a seat stands there (R77). -/
def State.prefetch (s : State) (ptn ctx va : Nat) : State :=
  if (s.ctxsOn ptn).any (fun e => e.1 = ctx) && decide (va % 8 = 0) then
    match s.fetchMem ⟨ctx, ptnDie ptn, .prefetch ptn⟩ va with
    | (.word w, u) => u.cacheWord ptn ctx va w
    | _ => s
  else s

/-- A finer step. -/
def State.micro (s : State) (m : Micro) : State :=
  match m with
  | .issue p dt => (({ s with cur := p } : State).tick (s.issueGap p dt)).beginIssue
  | .access p => s.oneAccess p
  | .prefetch ptn ctx va => s.prefetch ptn ctx va
  | .piece id => s.onePiece id
  | .gather id => s.gather id
  | .race id a d => s.race id a d
  | .raceInbound k va n a d => s.ualinkInbound k va n fun s => s.hostStore a d
  | .latch ctx ltn => s.readAhead ctx ltn
  | .engine ctx ltn => (s.engineUnit ctx ltn).engines ctx ltn
  | .land id => s.land id
  | .landUnit n => s.landUnit n
  | .carry ctx ltn port n => s.carry ctx ltn port n
  | .slotPiece q w => s.slotPiece q w
  | .reply => s.replyAgain
  | .announce ctx => s.announce ctx

end Sys2Proof.Machine
end

