-- ==== Sys2Proof/Machine/Step.lean ====
section
/-! DEFINITION. One step: a seat fetches and runs its next instruction, or another agent takes its step, or something arrives from outside,
as the agenda says (R13, R22, R28, R76). -/

namespace Sys2Proof.Machine

/-- What the current seat does with what stands at its PC. -/
def runNext (v : View) (n : Next) (s : State) : Host.Outcome State Fault Refusal :=
  match n with
  | .instr i => exec i s
  | .reject c w => .next (s.rejectTrap v c w)
  | .fault c a => .next (s.fetchTrap v c a)
  | .wait => .next s

/-- The current seat's next instruction, or the one that it has issued; a seat that runs nothing lets time pass. -/
def State.seatStep (s : State) : Host.Outcome State Fault Refusal :=
  match s.seat s.cur with
  | .run { mid := some m, .. } => exec m.instr s
  | .run t => runNext ⟨s.cur, t⟩ (s.fetchNext s.cur t).1 (s.fetchNext s.cur t).2
  | .idle | .save _ => .next s

/-- What one turn does. -/
def State.turn (s : State) : Host.Outcome State Fault Refusal :=
  match s.agenda with
  | [] => (s.tick (s.issueGap s.cur 1)).seatStep
  | .seat p dt :: l => (({ s with agenda := l, cur := p } : State).tick (s.issueGap p dt)).seatStep
  | .event i :: l => if i.shape.isSome then .refused .notAnEvent else exec i { s with agenda := l }
  | .outside a :: l => .next (({ s with agenda := l } : State).outside a)
  | .micro m :: l => .next (({ s with agenda := l } : State).micro m)

/-- What follows at once from what a turn has changed: parts whose last threadlet is gone finish (R184), what was held goes where what it waited for is
done (R201), freed places of ready queues are taken (R155), detections answer for tiles that have left quiescence (R262), the host is sent the packets
that are pending (R359), and packets leave by ports that have drained (R399). -/
def State.settleTurn (s : State) : State := s.finishParts.releaseHeld.drainAll.leaveAll.announceHost.pumpOut

/-- A turn's end. -/
def settled (o : Host.Outcome State Fault Refusal) : Host.Outcome State Fault Refusal :=
  match o with
  | .next s => .next s.settleTurn
  | .fault f => .fault f
  | .refused r => .refused r

/-- One step: the first turn of the agenda, or the current seat's, one cycle on, where none is listed. -/
def step (s : State) : Host.Outcome State Fault Refusal := settled s.turn

/-! ## A program's first instruction -/

/-- The kernel that a placed program runs in: one tile, every grant (notes/assumptions/26.md). -/
def placedKernel : Kernel where
  width := 1
  height := 1
  codeBase := 0
  entry := 0x1000
  large := true
  anvil := true
  steal := 0
  spUnits := 32
  phUnits := 16
  quota := 32
  npk := 0
  csig := 0
  spb := 0
  dqb := 0
  dqn := 0
  slots := []
  args := []
  binds := []
  killed := false
  started := true
  queue := 0
  ridx := 0
  span := 0
  released := false
  told := false

/-- The context of a placed program: privileged, with page tables at physical 0x10_0000 and a trap queue at 0x20_0000. -/
def placedCtx : Ctx :=
  { Ctx.empty with
    valid := true
    priv := true
    ptr := 0x10
    weight := 1
    cls := 1
    tqb := 0x200000
    tmes := [(0, ⟨.resident, 0⟩)]
    kernel := some placedKernel }

/-- The frame and the threadlet of a placed program. -/
def placedFrame : Frame := ⟨.live, .no, true, 0, 0, 1, true, 0, [], [], [], [], 0, false, false⟩
def placedThread : Threadlet := ⟨0, 0, 0, 0, [], [], [], 0, 0, 0x1000, 0, [], false, 2, none⟩

/-- The page tables of a placed program, and its bytes: one 1 GiB page at 0 that may be read, written and fetched, and the instruction with
a zero word after it. -/
def placedBytes (nbits w : Nat) : List (Nat × List Byte) :=
  [(0x1000, leBytes 16 (w % 2 ^ nbits)), (0x100000, leBytes 8 0x110001), (0x110000, leBytes 8 0x1B)]

/-- The machine with an instruction where its seat fetches next: a context, its page tables, its frame and a running threadlet are placed as
a launch would (notes/assumptions/26.md). -/
def State.withFetchWord (s : State) (nbits w : Nat) : State :=
  let core : PartCore := { PartCore.empty with frames := [(0, placedFrame)] }
  { s with
    agenda := []
    cur := ⟨0, 0, 0⟩
    mem := (placedBytes nbits w).foldl (fun m e => Memory.writeBytes m e.1 e.2) s.mem
    ctxs := [(0, placedCtx)]
    parts := [(0, { Part.empty with cores := [(0, core)] })]
    tiles := [(0, { Tile.reset with cores := [(0, { Core.reset with seats := [(0, .run placedThread)] })] })] }

end Sys2Proof.Machine
end

