-- ==== Sys2Proof/Safety.lean ====
section
/-! DEFINITION. What counts as a safe run: no step faults or is refused. And the words in which the claims speak of one instruction: when
it executes, and the states in which it leaves the machine when it retires, branches or traps. -/

namespace Sys2Proof

/-- A step that answers a next state. -/
def completes (s : Machine.State) : Bool :=
  match Machine.step s with
  | .next _ => true
  | .fault _ | .refused _ => false

/-- A run of n steps that neither faults nor is refused. -/
def safeRun : Nat → Machine.State → Bool
  | 0, _ => true
  | n + 1, s =>
    match Machine.step s with
    | .next t => safeRun n t
    | .fault _ | .refused _ => false

namespace Machine

/-- Checks 3 to 7 of R76 pass for the instruction (its fields, its privilege, its operands, its frame words), and the guard's register
passes its parity check (R419). -/
def passesChecks (s : State) (t : Threadlet) (i : Instr) : Bool :=
  match i.shape with
  | none => false
  | some h => (staticCheck s t i h).isNone && !t.bad.contains (.k h.guard.k)

/-- The guard is true: bit 0 of its mask for a scalar guard, any lane for a lane mask (R31, R114). -/
def guardHolds (t : Threadlet) (i : Instr) : Bool :=
  match i.shape with
  | none => false
  | some h => guardTrue (t.guardMask h.guard) h.gu

/-- The registers read pass their parity checks, the register continuation is good and no frame word read is poisoned (R419, R69, R415):
neither one that is judged before the body nor one that the body judges after its checks of bounds and alignment (R76 check 9). -/
def sourcesGood (s : State) (t : Threadlet) (i : Instr) : Bool :=
  match i.shape with
  | none => false
  | some h => (sourceCheck s ⟨s.cur, t⟩ i h).isNone && (s.poisonTrap t (plainSources i h)).isNone

/-- An instruction that the current seat, running t, executes: nothing turns it away before its own effect (R76). -/
structure Executes (s : State) (t : Threadlet) (i : Instr) : Prop where
  runs : s.seat s.cur = .run t
  ready : s.notReady ⟨s.cur, t⟩ i = false
  checks : passesChecks s t i = true
  guard : guardHolds t i = true
  sources : sourcesGood s t i = true

/-- The view of the current seat. -/
def State.view (s : State) (t : Threadlet) : View := ⟨s.cur, t⟩

/-- The state when instruction i retires: the seat's threadlet t merges the flags f, and its PC is past the instruction's words, from
the address pc at which it stood (R9, R33). -/
def State.retired (s : State) (p : SeatId) (pc : Word) (i : Instr) (t : Threadlet) (f : Fl) : State :=
  s.setSeat p (.run { t.past i f with pc := pc + BitVec.ofNat 64 i.size })

/-- The state when the current seat's instruction traps with a cause, its code, address and flags: trap entry on the threadlet as it
was before the instruction (R376). -/
def State.trapped (s : State) (t : Threadlet) (i : Instr) (cause code : Nat) (addr : Word) (f : Fl) : State :=
  (s.trap (s.view t) ⟨cause, code, addr, f, 0, 0, t.pc, firstWord i⟩).finishPart t.ctx t.ltn

/-- The flags raise no exception that the context enables (R33). -/
def State.quiet (s : State) (t : Threadlet) (f : Fl) : Prop := s.enabledFlags t.ctx f = 0

end Machine

end Sys2Proof
end

