-- ==== Sys2Proof/Results.lean ====
section
/-! DEFINITION. The results that the rules give the instructions whose whole effect is one register, as tables the claims are stated with:
the destination, its new value and the flags raised, from the values of the sources. -/

namespace Sys2Proof.Machine

/-- Src of R89 on a scalar source. -/
def State.src (s : State) (v : View) (ty : Ty) (o : Operand) : Int := intSrc ty (s.readOp v o).toNat

/-- An exact integer result put into D: Put, or PutSat with SAT (R89, R98). -/
def intoInt (sat : Bool) (ty : Ty) (d : Operand) (n : Int) : Option (Operand × Word × Fl) :=
  if sat then some (d, put ty (clamp ty n).1, (clamp ty n).2) else some (d, put ty n, 0)

/-- A 64-bit result without flags. -/
def intoWord (d : Operand) (x : Word) : Option (Operand × Word × Fl) := some (d, x, 0)

/-- A floating result: the low bits of D, zeros above (R90). -/
def intoFloat (d : Operand) (r : Nat × Fl) : Option (Operand × Word × Fl) := some (d, BitVec.ofNat 64 r.1, r.2)

/-- Scalar integer results (R92 to R105), but for LOOP: the destination, the value and the flags. -/
def integerResult (s : State) (v : View) (i : Instr) : Option (Operand × Word × Fl) :=
  let w (o : Operand) : Word := s.readOp v o
  let n (o : Operand) : Nat := (s.readOp v o).toNat
  match i with
  | .add _ sat ty d x y => intoInt sat ty d (s.src v ty x + s.src v ty y)
  | .sub _ sat ty d x y => intoInt sat ty d (s.src v ty x - s.src v ty y)
  | .mul _ sat ty d x y => intoInt sat ty d (s.src v ty x * s.src v ty y)
  | .mulh _ ty d x y => intoInt false ty d (s.src v ty x * s.src v ty y / 2 ^ ty.width)
  | .div _ ty d x y => if (s.ctx v.t.ctx).ien && divTraps ty (s.src v ty x) (s.src v ty y) then none
      else intoInt false ty d (divInt ty (s.src v ty x) (s.src v ty y))
  | .rem _ ty d x y => if (s.ctx v.t.ctx).ien && divTraps ty (s.src v ty x) (s.src v ty y) then none
      else intoInt false ty d (remInt ty (s.src v ty x) (s.src v ty y))
  | .and _ d x y => intoWord d (w x &&& w y)
  | .or _ d x y => intoWord d (w x ||| w y)
  | .xor _ d x y => intoWord d (w x ^^^ w y)
  | .andn _ d x y => intoWord d (w x &&& ~~~(w y))
  | .orn _ d x y => intoWord d (w x ||| ~~~(w y))
  | .shl _ ty d x y => intoInt false ty d (shiftBits .shl ty.width (n x) (n y))
  | .shr _ ty d x y => intoInt false ty d (shiftBits .shr ty.width (n x) (n y))
  | .sar _ ty d x y => intoInt false ty d (shiftBits .sar ty.width (n x) (n y))
  | .rol _ ty d x y => intoInt false ty d (shiftBits .rol ty.width (n x) (n y))
  | .ror _ ty d x y => intoInt false ty d (shiftBits .ror ty.width (n x) (n y))
  | .min _ ty d x y => intoInt false ty d (min (s.src v ty x) (s.src v ty y))
  | .max _ ty d x y => intoInt false ty d (max (s.src v ty x) (s.src v ty y))
  | .clz _ ty d x => intoWord d (BitVec.ofNat 64 (clzBits ty.width (n x)))
  | .ctz _ ty d x => intoWord d (BitVec.ofNat 64 (ctzBits ty.width (n x)))
  | .popc _ ty d x => intoWord d (BitVec.ofNat 64 (popBits ty.width (n x)))
  | .brev _ ty d x => intoInt false ty d (revBits ty.width (n x))
  | .bswap _ ty d x => intoInt false ty d (swapBytes ty.width (n x))
  | .ext _ ty d x => intoInt false ty d (s.src v ty x)
  | .bfx _ d x y => intoWord d (bfx (w x) (w y))
  | .bfi _ d x y z => intoWord d (bfi (w x) (w y) (w z))
  | .madd _ ty d x y z => intoInt false ty d (s.src v ty x * s.src v ty y + s.src v ty z)
  | .cmp _ c ty d x y => intoWord d (boolWord (condInt c (s.src v ty x) (s.src v ty y)))
  | .sel _ d x y z => intoWord d (if (w z).getLsbD 0 then w x else w y)
  | .mov _ d x => intoWord d (w x)
  | .abs _ sat ty d x => intoInt sat ty d ((s.src v ty x).natAbs : Int)
  | .neg _ sat ty d x => intoInt sat ty d (-s.src v ty x)
  | .addi _ d x imm => intoWord d (w x + imm.signExtend 64)
  | .muli _ d x imm => intoWord d (w x * imm.signExtend 64)
  | .andi _ d x imm => intoWord d (w x &&& imm.setWidth 64)
  | .ori _ d x imm => intoWord d (w x ||| imm.setWidth 64)
  | .xori _ d x imm => intoWord d (w x ^^^ imm.setWidth 64)
  | .shli _ d x imm => intoWord d (BitVec.ofNat 64 (shiftBits .shl 64 (n x) imm.toNat))
  | .shri _ d x imm => intoWord d (BitVec.ofNat 64 (shiftBits .shr 64 (n x) imm.toNat))
  | .sari _ d x imm => intoWord d (BitVec.ofNat 64 (shiftBits .sar 64 (n x) imm.toNat))
  | .cmpi _ c d x imm => intoWord d (boolWord (condImm c (w x) (imm.signExtend 64)))
  | .li _ d imm => intoWord d (imm.signExtend 64)
  | .lih _ d imm => intoWord d (imm ++ (w d).setWidth 32)
  | .li64 _ d imm => intoWord d imm
  | .lea _ d x imm => intoWord d (w x + imm.signExtend 64)
  | .leaPc _ d imm => intoWord d (v.t.pc + 8 * imm.signExtend 64)
  | _ => none

/-- Scalar floating results (R106 to R112). -/
def floatingResult (s : State) (v : View) (i : Instr) : Option (Operand × Word × Fl) :=
  let n (o : Operand) : Nat := (s.readOp v o).toNat
  match i with
  | .fadd _ ty rnd d x y => intoFloat d (floatOp .add ty (s.mode v rnd) (n x) (n y))
  | .fsub _ ty rnd d x y => intoFloat d (floatOp .sub ty (s.mode v rnd) (n x) (n y))
  | .fmul _ ty rnd d x y => intoFloat d (floatOp .mul ty (s.mode v rnd) (n x) (n y))
  | .ffma _ ty rm d x y z => intoFloat d (fmaOp ty (rmMode rm) (n x) (n y) (n z))
  | .fdiv _ ty rm d x y => intoFloat d (floatOp .div ty (rmMode rm) (n x) (n y))
  | .fsqrt _ ty rm d x => intoFloat d (floatFn .sqrt ty (rmMode rm) (n x))
  | .fmin _ ty d x y => intoFloat d (floatMinMax false ty (n x) (n y))
  | .fmax _ ty d x y => intoFloat d (floatMinMax true ty (n x) (n y))
  | .fcmp _ c ty d x y => some (d, boolWord (floatCmp c ty (n x) (n y)).1, (floatCmp c ty (n x) (n y)).2)
  | .fcvt _ sat dt ty rnd d x =>
    let r := convert dt ty sat (s.mode v rnd) (n x)
    some (d, if dt.isInt then put dt r.1 else BitVec.ofNat 64 r.1, r.2)
  | .fclass _ ty d x => intoWord d (BitVec.ofNat 64 (fclass ty (n x)))
  | .frnd _ ty rm d x => intoFloat d (frnd ty (n x) (rmMode rm))
  | _ => none

/-- One vector result lane by lane: the destination, the number of lanes, their width, and what an active lane takes. -/
structure LaneResult where
  d : Operand
  lanes : Nat
  width : Nat
  value : Nat → Nat × Fl

/-- The merged flags of the active lanes (R33). -/
def LaneResult.flags (r : LaneResult) (m : Word) : Fl :=
  orFlags (((List.range r.lanes).filter fun j => m.getLsbD j).map fun j => (r.value j).2)

/-- An integer lane: Put or PutSat at the lane's width (R115). -/
def intoLane (sat : Bool) (ty : Ty) (n : Int) : Nat × Fl :=
  if sat then (putLane ty (clamp ty n).1, (clamp ty n).2) else (putLane ty n, 0)

/-- One accumulator of VDOT after the pairs of its group (R121): an integer sum wraps at .s32, a floating sum is rounded once (R55, R59). A
NaN source sets NV only where it is signalling (notes/assumptions/5.md). -/
def dotLane (ty : Ty) (rm : RM) (acc : Nat) (pairs : List (Nat × Nat)) : Nat × Fl :=
  if ty.isInt then (putLane .s32 (intSrc .s32 acc + (pairs.map fun p => intSrc ty p.1 * intSrc ty p.2).sum), 0)
  else
    let ps := pairs.map fun p => mulNum (decodeNum ty p.1) (decodeNum ty p.2)
    let src := decodeNum .f32 acc :: (pairs.map fun p => decodeNum ty p.1) ++ pairs.map fun p => decodeNum ty p.2
    let r := accumulate (rmMode rm) acc (ps.map (·.1))
    (r.1, if src.any Num.isNaN then nvOf src else r.2 ||| orFlags (ps.map (·.2)))

/-- Lane-wise results (R115 to R117, R120, R122, R127): lanes the guard leaves inactive keep their old element. -/
def laneResult (s : State) (v : View) (i : Instr) : Option LaneResult :=
  let e (w : Nat) (o : Operand) (j : Nat) : Nat := lane (v.t.vec o) w j
  let n (ty : Ty) (o : Operand) (j : Nat) : Int := intSrc ty (lane (v.t.vec o) ty.width j)
  let ints (sat : Bool) (ty : Ty) (d : Operand) (f : Nat → Int) : Option LaneResult :=
    some ⟨d, 512 / ty.width, ty.width, fun j => intoLane sat ty (f j)⟩
  let bits (w : Nat) (d : Operand) (f : Nat → Nat) : Option LaneResult := some ⟨d, 512 / w, w, fun j => (f j, 0)⟩
  let floats (ty : Ty) (d : Operand) (f : Nat → Nat × Fl) : Option LaneResult := some ⟨d, 512 / ty.width, ty.width, f⟩
  match i with
  | .vadd _ sat ty d x y => ints sat ty d fun j => n ty x j + n ty y j
  | .vsub _ sat ty d x y => ints sat ty d fun j => n ty x j - n ty y j
  | .vmul _ sat ty d x y => ints sat ty d fun j => n ty x j * n ty y j
  | .vmulh _ ty d x y => ints false ty d fun j => n ty x j * n ty y j / 2 ^ ty.width
  | .vmad _ ty d x y z => ints false ty d fun j => n ty x j * n ty y j + n ty z j
  | .vmin _ ty d x y => ints false ty d fun j => min (n ty x j) (n ty y j)
  | .vmax _ ty d x y => ints false ty d fun j => max (n ty x j) (n ty y j)
  | .vabsd _ ty d x y => ints false ty d fun j => ((n ty x j - n ty y j).natAbs : Int)
  | .vand _ d x y => bits 8 d fun j => Nat.land (e 8 x j) (e 8 y j)
  | .vor _ d x y => bits 8 d fun j => Nat.lor (e 8 x j) (e 8 y j)
  | .vxor _ d x y => bits 8 d fun j => Nat.xor (e 8 x j) (e 8 y j)
  | .vshl _ ty d x y => bits ty.width d fun j => shiftBits .shl ty.width (e ty.width x j) (e ty.width y j)
  | .vshr _ ty d x y => bits ty.width d fun j => shiftBits .shr ty.width (e ty.width x j) (e ty.width y j)
  | .vsar _ ty d x y => bits ty.width d fun j => shiftBits .sar ty.width (e ty.width x j) (e ty.width y j)
  | .vsel _ ty d x y z => bits ty.width d fun j => if (s.readOp v z).getLsbD j then e ty.width x j else e ty.width y j
  | .vfadd _ ty rnd d x y => floats ty d fun j => floatOp .add ty (laneMode v.t ty.width j rnd) (e ty.width x j) (e ty.width y j)
  | .vfsub _ ty rnd d x y => floats ty d fun j => floatOp .sub ty (laneMode v.t ty.width j rnd) (e ty.width x j) (e ty.width y j)
  | .vfmul _ ty rnd d x y => floats ty d fun j => floatOp .mul ty (laneMode v.t ty.width j rnd) (e ty.width x j) (e ty.width y j)
  | .vffma _ ty rm d x y z => floats ty d fun j => fmaOp ty (rmMode rm) (e ty.width x j) (e ty.width y j) (e ty.width z j)
  | .vfmin _ ty d x y => floats ty d fun j => floatMinMax false ty (e ty.width x j) (e ty.width y j)
  | .vfmax _ ty d x y => floats ty d fun j => floatMinMax true ty (e ty.width x j) (e ty.width y j)
  | .vfdiv _ ty rm d x y => floats ty d fun j => floatOp .div ty (rmMode rm) (e ty.width x j) (e ty.width y j)
  | .vrcp _ ty rm d x => floats ty d fun j => floatFn .rcp ty (rmMode rm) (e ty.width x j)
  | .vrsq _ ty rm d x => floats ty d fun j => floatFn .rsq ty (rmMode rm) (e ty.width x j)
  | .vsqrt _ ty rm d x => floats ty d fun j => floatFn .sqrt ty (rmMode rm) (e ty.width x j)
  | .vexp2 _ ty rm d x => floats ty d fun j => floatFn .exp2 ty (rmMode rm) (e ty.width x j)
  | .vlog2 _ ty rm d x => floats ty d fun j => floatFn .log2 ty (rmMode rm) (e ty.width x j)
  | .vshuf _ ty d x y => bits ty.width d fun j => e ty.width x (e ty.width y j % (512 / ty.width))
  | .vbcast _ ty d x => bits ty.width d fun _ => (s.readOp v x).toNat % 2 ^ ty.width
  | .vpopc _ ty d x => bits ty.width d fun j => popBits ty.width (e ty.width x j)
  | .vclz _ ty d x => bits ty.width d fun j => clzBits ty.width (e ty.width x j)
  | .vmov _ d x => bits 8 d fun j => e 8 x j
  | .vcvt _ sat dt ty rnd d x =>
    let wd := max 8 dt.width
    let ws := max 8 ty.width
    some ⟨d, 512 / max wd ws, wd, fun j => convertVcvt dt ty sat (laneMode v.t ws j rnd) (e ws x j)⟩
  | .vdot _ ty rm d x y => some ⟨d, 16, 32, fun j => dotLane ty rm (e 32 d j) ((List.range (32 / ty.width)).map fun k =>
      (e ty.width x (j * (32 / ty.width) + k), e ty.width y (j * (32 / ty.width) + k)))⟩
  | .vrng _ d x y z => bits 32 d fun j =>
      ((kcg10 (s.readOp v x + BitVec.ofNat 64 (j / 4)) (s.readOp v y) (s.readOp v z)).getD (j % 4) 0).toNat
  | _ => none

/-- The guard of an instruction as a lane mask (R31). -/
def lanesOf (t : Threadlet) (i : Instr) : Word :=
  match i.shape with
  | some h => t.guardMask h.guard
  | none => 0

/-! ## Local memory -/

/-- The instruction's own checks pass: alignment, bounds, poison (R131, R135, R137, R415). -/
def localReady (s : State) (v : View) (i : Instr) : Bool :=
  let c := v.t.ctx
  let l := v.t.ltn
  let p := s.part c l
  match i with
  | .lds _ _ sz _ x off => let a := s.localAddr v x off sz.val; let n := 2 ^ sz.val
    decide (a % n = 0) && s.rangeOk c l a n && !p.poisonedIn a n
  | .sts _ sz d x off => let a := s.localAddr v x off sz.val; let n := 2 ^ sz.val
    decide (a % n = 0) && s.rangeOk c l a n && (s.poisonTrap v.t [d]).isNone && !p.poisonedPart a n
  | .vlds g _ x off => let a := s.localAddr v x off 6; let b := activeBytes (v.t.guardMask g) a
    decide (a % 16 = 0) && b.all (fun e => s.localOk c l e.2) && b.all fun e => !p.poisonedIn e.2 1
  | .vsts g _ x off => let a := s.localAddr v x off 6; let b := activeBytes (v.t.guardMask g) a
    decide (a % 16 = 0) && b.all (fun e => s.localOk c l e.2) && (partPoisonAt p b).isNone
  | .vgath g sz _ x off y => let a := s.localAddr v x off sz.val; let n := 2 ^ sz.val
    let b := activeElems (v.t.guardMask g) a n (v.t.vec y)
    decide (a % n = 0) && b.all (fun e => s.rangeOk c l e.2 n) && b.all fun e => !p.poisonedIn e.2 n
  | .vscat g sz _ x off y => let a := s.localAddr v x off sz.val; let n := 2 ^ sz.val
    let b := activeElems (v.t.guardMask g) a n (v.t.vec y)
    decide (a % n = 0) && b.all (fun e => s.rangeOk c l e.2 n) && (decide (8 ≤ n) || b.all fun e => !p.poisonedIn e.2 n)
  | .ldf g _ x off => let a := s.localAddr v x off 6
    decide (a % 64 = 0) && decide (a / 8 + 7 < frameWords ((s.frame v.t.ref).any (·.large))) &&
      (List.range 8).all fun j => !(active (v.t.guardMask g) j && (s.frame v.t.ref).any fun f => f.poison.contains (a / 8 + j))
  | .stf _ _ x off => let a := s.localAddr v x off 6
    decide (a % 64 = 0) && decide (a / 8 + 7 < frameWords ((s.frame v.t.ref).any (·.large)))
  | .satom _ _ sz d x off => let a := s.localAddr v x off sz.val; let n := 2 ^ sz.val
    decide (a % n = 0) && s.rangeOk c l a n && (s.poisonTrap v.t [d]).isNone &&
      !p.poisonedIn a n
  | .scpy _ sz d x off y => let u := 2 ^ sz.val; let n := (s.readOp v y).toNat * u
    let src := s.localAddr v x off sz.val; let dst := (s.readOp v d).toNat
    decide (0 < n) && decide (n ≤ 4096) && decide (src + n ≤ 2 ^ 64) && decide (dst + n ≤ 2 ^ 64) && decide (src % u = 0) && decide (dst % u = 0) && s.rangeOk c l src n && s.rangeOk c l dst n &&
      (decide (src + n ≤ dst) || decide (dst + n ≤ src)) && !p.poisonedIn src n && !(decide (u < 8) && p.poisonedIn dst n)
  | _ => false

/-- The bytes that a local store writes, in their order: local address and byte. -/
def storedBytes (s : State) (v : View) (i : Instr) : Option (List (Nat × Byte)) :=
  let byte (x k : Nat) : Byte := BitVec.ofNat 8 (x / 2 ^ (8 * k))
  match i with
  | .sts _ sz d x off =>
    some ((List.range (2 ^ sz.val)).map fun k => (s.localAddr v x off sz.val + k, byte (s.readOp v d).toNat k))
  | .vsts g d x off =>
    some (((List.range 64).filter fun j => (v.t.guardMask g).getLsbD j).map fun j =>
      ((s.localAddr v x off 6 + j) % 2 ^ 64, byte (v.t.vec d).toNat j))
  | .vscat g sz d x off y =>
    let n := 2 ^ sz.val
    some (((List.range (64 / n)).filter fun j => (v.t.guardMask g).getLsbD j).flatMap fun j => (List.range n).map fun k =>
      ((s.localAddr v x off sz.val + lane (v.t.vec y) (8 * n) j * n) % 2 ^ 64 + k, byte (lane (v.t.vec d) (8 * n) j) k))
  | .scpy _ sz d x off y =>
    some ((List.range ((s.readOp v y).toNat * 2 ^ sz.val)).map fun k =>
      ((s.readOp v d).toNat + k, (s.part v.t.ctx v.t.ltn).byte (s.localAddr v x off sz.val + k)))
  | _ => none

/-- The last byte that a list of stores gives an address, and another byte where it gives none. -/
def lastOf (l : List (Nat × Byte)) (a : Nat) (old : Byte) : Byte := ((l.reverse.find? fun e => e.1 = a).map (·.2)).getD old

/-! ## Requests -/

/-- What a global instruction asks (R216, R220 to R225): the kind with its operands as read at issue, the address, whether it is a write of
R203, the word that its datum goes to with a slot target, its ORDER, its SCOPE and its target. -/
structure AccessForm where
  kind : ReqKind
  va : Word
  write : Bool
  word : Nat
  ord : MemOrder
  scope : Scope
  target : Target

/-- The requests of GLD, GST, GLDV, GSTV, GATOM, GRED, ILD, IST, IRST and MWATCH. -/
def askedOf (s : State) (v : View) (i : Instr) : Option AccessForm :=
  let w (o : Operand) : Word := s.readOp v o
  let a (x : Operand) (off : BitVec 16) (sz : Nat) : Word := w x + off.signExtend 64 * BitVec.ofNat 64 (2 ^ sz)
  match i with
  | .gld _ sext sz d x off t sc o => some ⟨.load (2 ^ sz.val) sext, a x off sz.val, false, wordIndex d, o, sc, t⟩
  | .gst _ sz d x off t sc o => some ⟨.store (2 ^ sz.val) (w d), a x off sz.val, true, 0xFF, o, sc, t⟩
  | .gldv _ d x off t sc o => some ⟨.loadv, a x off 6, false, wordIndex d, o, sc, t⟩
  | .gstv _ d x off t sc o => some ⟨.storev (v.t.vec d), a x off 6, true, 0xFF, o, sc, t⟩
  | .gatom _ op sz d x off t sc o =>
    some ⟨.atom op (2 ^ sz.val) (if op = .cas then w (nextReg d) else w d) (w d), a x off sz.val, true, wordIndex d, o, sc, t⟩
  | .gred _ op sz d x off t sc o => some ⟨.red op (2 ^ sz.val) (w d), a x off sz.val, true, 0xFF, o, sc, t⟩
  | .ild _ d x off t sc o => some ⟨.ild, a x off 3, false, wordIndex d, o, sc, t⟩
  | .ist _ d x off t sc o => some ⟨.ist (w d), a x off 3, true, 0xFF, o, sc, t⟩
  | .irst _ d x off t sc o => some ⟨.irst (w d).toNat (w d).toNat, a x off 3, true, 0xFF, o, sc, t⟩
  | .mwatch _ sz d x off t sc o => some ⟨.watch (2 ^ sz.val) (w d), a x off sz.val, false, wordIndex d, o, sc, t⟩
  | _ => none

/-- The instruction's own checks pass: destination bound, alignment, the poison of a datum, the count of IRST (R216, R224). -/
def requestReady (s : State) (v : View) (i : Instr) : Bool :=
  let size := frameWords ((s.frame v.t.ref).any (·.large))
  let al (x : Operand) (off : BitVec 16) (sz : Nat) : Bool :=
    decide ((s.readOp v x + off.signExtend 64 * BitVec.ofNat 64 (2 ^ sz)).toNat % 2 ^ sz = 0)
  let clean (l : List Operand) : Bool := (s.poisonedSource v.t l).isNone
  match i with
  | .gld _ _ sz _ x off _ _ _ => al x off sz.val
  | .gst _ sz d x off _ _ _ => al x off sz.val && clean [d]
  | .gldv _ d x off t _ _ => al x off 6 && (match t with
      | .slot _ => decide (wordIndex d + 7 < size)
      | _ => true)
  | .gstv _ _ x off _ _ _ => al x off 6
  | .gatom _ op sz d x off _ _ _ => al x off sz.val && clean (if op = .cas then [d, nextReg d] else [d]) &&
      (match d with
       | .f n => decide (op ≠ .cas) || decide (n.val + 1 < size)
       | _ => true)
  | .gred _ _ sz d x off _ _ _ => al x off sz.val && clean [d]
  | .ild _ _ x off _ _ _ => al x off 3
  | .ist _ d x off _ _ _ => al x off 3 && clean [d]
  | .irst _ d x off _ _ _ => al x off 3 && clean [d] && decide ((s.readOp v d).toNat ≠ 0) && decide ((s.readOp v d).toNat ≤ 65536)
  | .mwatch _ sz d x off _ _ _ => al x off sz.val && clean [d]
  | _ => false

/-- Where a completion goes (R69, R171): with a slot target, to the current frame's continuation with that slot and word; with none, nowhere;
with a register, to the continuation that the register holds. -/
def State.target (s : State) (t : Threadlet) (g : Target) (word : Nat) : Dest :=
  match g with
  | .slot n => some (contWith (s.fpOf t.ref) n.val word)
  | .nothing => none
  | .reg n => some (Tab.get 0 t.w n.val)

/-- A request made by instruction i of the running threadlet, as it enters the tables: not translated, not sent, not performed. -/
def State.asked (s : State) (t : Threadlet) (i : Instr) (a : AccessForm) : Req :=
  { id := s.nextId, ref := t.ref, rtag := ((s.frame t.ref).map (·.rtag)).getD 0, pc := t.pc, iword := firstWord i,
    dest := s.target t a.target a.word, kind := a.kind, va := a.va, ord := a.ord, scope := a.scope, write := a.write,
    counted := a.write || decide (a.target = .nothing), entry := true, phys := none, faultHeld := false, die := 0, replayed := false, sent := false,
    performed := false, ackPkg := false, ackPod := false, status := .ok, cause := 0, code := 0, datum := [], part := 0, piece := 0,
    late := false, landed := 0 }

/-- A request of an instruction that makes no global access of its own: its kind, its target and its word. -/
def State.ask (s : State) (t : Threadlet) (i : Instr) (k : ReqKind) (g : Target) (word : Nat) : Req :=
  s.asked t i ⟨k, 0, false, word, .relaxed, .package, g⟩

/-! ## Engines -/

/-- What an Anvil instruction puts into the command queue (R279 to R292): whether it completes, its target and the word of a datum, and its
command, which holds the operands as they read at issue and the request's name. -/
def anvilAsk (s : State) (v : View) (i : Instr) : Option (Bool × Target × Nat × (Nat → Cmd)) :=
  let n (o : Operand) : Nat := (s.readOp v o).toNat
  match i with
  | .mcfg _ x => some (false, .nothing, 0xFF, fun _ => .cfg (s.readOp v x))
  | .mlda _ x y z t => some (true, t, 0xFF, fun id => .lda id (n x) (n y % 64) (n y / 2 ^ 8 % 128) (n z))
  | .mldb _ x y z => some (false, .nothing, 0xFF, fun _ => .ldb (n x) (n y) (n z))
  | .mrun _ chan ring x y z t => some (true, t, 0xFF, fun id => .run ⟨id, chan, ring, runAcc (n x), runPanel (n x), runSteps (n x), runSpa (n x),
      if runDrn (n x) then some (n z) else none, bIn (n y), bOut (n y), 0, none, [], 0, 0, 0, .ok, false, 0, [], []⟩)
  | .mzero _ x => some (false, .nothing, 0xFF, fun _ => .zero (n x))
  | .mdrn _ kind sat ty rm x y z t => some (true, t, 0xFF, fun id => .drn id ⟨n x, kind, n y, n z, ty, rm, sat⟩)
  | .msteer _ x y => some (false, .nothing, 0xFF, fun _ => .steer (n x) (s.readOp v y))
  | .mstat _ d x t => some (true, t, wordIndex d, fun id => .stat id (n x % 32) ((s.readOp v x).getLsbD 8))
  | _ => none

/-- The instruction's own checks pass (R277, in the order of R279 to R292). -/
def anvilReady (s : State) (v : View) (i : Instr) : Bool :=
  let n (o : Operand) : Nat := (s.readOp v o).toNat
  let reach (a k : Nat) : Bool := s.rangeOk v.t.ctx v.t.ltn a k
  match i with
  | .mcfg _ x => (anvilTypes (s.readOp v x)).isSome
  | .mlda _ x y z _ => !panelBad (n y) && decide (n x % 64 = 0) && decide (n z % 64 = 0) && reach (n x) (1024 * panelCount (n y)) &&
      reach (n z) (64 * panelCount (n y))
  | .mldb _ x y z => decide (n y % 64 = 0) && decide (n y < 2 ^ 19) && decide (n x % 64 = 0) && decide (n z % 64 = 0)
  | .mrun _ chan ring x y z _ => !runBad (n x) && !bBad (n y) chan ring && (!chan || s.roleOk v (bIn (n y)) false) &&
      (!ring || s.roleOk v (bOut (n y)) true) && (!runDrn (n x) || (!drainWordBad (n z) && !drainWordMisaligned (n z)))
  | .mzero _ x => decide (n x < 2 ^ 8)
  | .mdrn _ kind _ ty _ x y z _ => decide (n x ≤ 7) && decide (n z < 2 ^ 32) && (match kind with
      | .spad => decide (n y % 64 = 0) && reach (n y) (drainBytes ty)
      | .chan => decide (n y ≤ 63) && s.roleOk v (n y) true
      | .steer => decide (n y ≤ 15))
  | .msteer _ x y => decide (n x ≤ 15) && !steerBad (s.readOp v y)
  | .mstat _ _ x _ => !statBad (n x)
  | _ => false

/-- What a Pigeonhole instruction puts into the port (R306, R312 to R321): the table, whether it is the vector form, its operation, its target and
the word of its first result. -/
def pigeonAsk (s : State) (v : View) (i : Instr) : Option (Nat × Bool × PhBody × Target × Nat) :=
  let n (o : Operand) : Nat := (s.readOp v o).toNat
  let keys (g : Guard) (vec : Bool) (k : PhKind) (y : Operand) (val : Nat → Nat) : PhBody :=
    .lanes k (if vec then ((List.range 8).filter fun j => (v.t.guardMask g).getLsbD j).map fun j => ⟨j, lane (v.t.vec y) 64 j, val j, .waiting⟩
      else [⟨0, n y, val 0, .waiting⟩])
  let operand (vec : Bool) (z : Operand) (j : Nat) : Nat := if vec then lane (v.t.vec z) 64 j else n z
  match i with
  | .phclaim _ x y z t => let tb := tableOfWord (n y) (n z)
    some (n x, false, .claim tb (s.claimWaits v.t.ctx v.t.ltn tb) (s.anvil v.t.ctx v.t.ltn).allLeft none, t, 0xFF)
  | .phins g vec d x y z t => some (n x, vec, keys g vec .ins y (operand vec z), t, wordIndex d)
  | .phprb g vec d x y t => some (n x, vec, keys g vec .prb y (fun _ => 0), t, wordIndex d)
  | .phdel g vec d x y t => some (n x, vec, keys g vec .del y (fun _ => 0), t, wordIndex d)
  | .phacc g vec kind d x y z t => some (n x, vec, keys g vec (.acc kind) y (operand vec z), t, wordIndex d)
  | .phdrn _ vec chan d x y z t => some (n x, vec, .drain vec chan (n y) (n z % 2 ^ 32) ((s.readOp v z).getLsbD 32), t, wordIndex d)
  | .phrls _ x t => some (n x, false, .release, t, 0xFF)
  | .phstat g vec d x y t => if vec then some (n x, true, keys g true .stat y (fun _ => 0), t, wordIndex d)
    else some (n x, false, .read (decide (n y = 1)), t, wordIndex d)
  | _ => none

/-- The instruction's own checks pass (R315), and Z of a claim that asks for a spill area is not poisoned (R297, R415). -/
def pigeonReady (s : State) (v : View) (i : Instr) : Bool :=
  let n (o : Operand) : Nat := (s.readOp v o).toNat
  let room (d : Operand) (t : Target) (k : Nat) : Bool := s.resultFits v d t k
  let keys (g : Guard) (vec : Bool) (y : Operand) : Bool :=
    if vec then (List.range 8).all fun j => !(v.t.guardMask g).getLsbD j || decide (lane (v.t.vec y) 64 j ≠ emptyKey) else decide (n y ≠ emptyKey)
  match i with
  | .phclaim _ x y z _ => let tb := tableOfWord (n y) (n z); let u := tableUnits tb.logb
    decide (n x ≤ 3) && !claimBad (n y) && decide (tb.unit % u = 0) && (!tb.spe || (decide (n z % 512 = 0) && (s.poisonedSource v.t [z]).isNone)) &&
      decide ((tb.unit + u) * 16384 ≤ s.spGrant v.t.ctx)
  | .phins g vec d x y _ t | .phacc g vec _ d x y _ t | .phprb g vec d x y t | .phdel g vec d x y t =>
    decide (n x ≤ 3) && keys g vec y && room d t (if vec then 9 else 2)
  | .phdrn _ vec chan d x y z t =>
    decide (n x ≤ 3) && decide (n z < 2 ^ 33) && room d t 1 &&
      (if chan then decide (n y ≤ 63) && s.roleOk v (n y) true
       else decide (n z % 2 ^ 32 ≤ 32768) && decide (n y % 64 = 0) && s.rangeOk v.t.ctx v.t.ltn (n y) (drainSpan vec (n z % 2 ^ 32)))
  | .phrls _ x _ => decide (n x ≤ 3)
  | .phstat g vec d x y t => decide (n x ≤ 3) && (if vec then keys g true y && room d t 9 else decide (n y ≤ 1) && room d t 1)
  | _ => false

/-! ## Reductions -/

/-- The value of the tree of R56 over the 2^l lanes from lane j; absent where no lane of them is active. -/
def treeValue (op : RedOp) (ty : Ty) (leaf : Nat → Option Nat) : Nat → Nat → Option Nat
  | 0, j => leaf j
  | l + 1, j =>
    match treeValue op ty leaf l j, treeValue op ty leaf l (j + 2 ^ l) with
    | some a, some b => some (combine op ty a b).1
    | none, b => b
    | some a, none => some a

/-- The flags of every combination in that tree. -/
def treeFlags (op : RedOp) (ty : Ty) (leaf : Nat → Option Nat) : Nat → Nat → Fl
  | 0, _ => 0
  | l + 1, j =>
    let f := treeFlags op ty leaf l j ||| treeFlags op ty leaf l (j + 2 ^ l)
    match treeValue op ty leaf l j, treeValue op ty leaf l (j + 2 ^ l) with
    | some a, some b => f ||| (combine op ty a b).2
    | _, _ => f

end Sys2Proof.Machine
end

