-- ==== Sys2Proof/Events.lean ====
section
/-! DEFINITION. The words in which the claims speak of the steps of the agents outside the seats. -/

namespace Sys2Proof.Machine

/-- A request that its home may perform now: translated and on its way, next in the order of its activation (R200, R201), allowed by the
attributes of its page (R210, R225), to storage of this package (R191). -/
structure AtHome (s : State) (id : Nat) (r : Req) (p : Phys) : Prop where
  req : s.req id = some r
  phys : r.curPhys = some p
  waiting : r.performed = false ∧ r.faultHeld = false ∧ r.sent = false ∧ r.parked = false
  notDeferred : ∀ d ∈ s.deferred, d.id ≠ id
  order : s.orderOk r p = true
  allowed : r.kind.forbidden p = false
  near : ∀ pkg, p.home ≠ .remote pkg
  storage : hasStorage s.carve p.home p.pa r.size = true

/-- What HOME_READ and HOME_WRITE perform: loads, bursts from global memory and fills; stores, bursts to it and write-backs (R220, R221, R229,
R233). -/
def ReqKind.readsHome : ReqKind → Bool
  | .load .. | .loadv | .burst _ _ _ false | .fill .. => true
  | _ => false
def ReqKind.writesHome : ReqKind → Bool
  | .store .. | .storev _ | .burst _ _ _ true | .wback .. => true
  | _ => false

/-- The number that n bytes at a home hold, little-endian; an empty word of an I-structure page reads zero (R210, R217). -/
def State.homeNumber (s : State) (p : Phys) (n : Nat) : Nat := ofLeBytes (s.homeBytes p n)

/-- A port that takes a new packet: bound, on a tile that has not executed KEND (R245, R253). -/
def State.portOpen (s : State) (p : ChPacket) : Prop :=
  (s.part p.ctx p.dst.ltn).ended = false ∧ (s.port p.ctx p.dst.ltn p.dst.port).bound = true

end Sys2Proof.Machine
end

