-- ==== Sys2Proof/Certificates/Slice0/Obligations.lean ====
section
/-! DEFINITION. The statements for the provers: what the instructions and the events do, by the rules of spec/. -/

open Sys2Proof Sys2Proof.Machine

/-- For every state, every form and all operands of ADD, SUB, MUL, MULH, DIV, REM, AND, OR, XOR, ANDN, ORN, SHL, SHR, SAR, ROL, ROR, MIN, MAX,
CLZ, CTZ, POPC, BREV, BSWAP, EXT, BFX, BFI, MADD, CMP, SEL, MOV, ABS, NEG, ADDI, MULI, ANDI, ORI, XORI, SHLI, SHRI, SARI, CMPI, LI, LIH,
LI64, LEA and LEA.pc: an instruction that executes, and whose flags raise no enabled exception, answers the next state in which its
destination holds the value that the table integerResult computes from the sources by Src, Put and PutSat of R89, its flags are merged,
the PC is past its words, and nothing else has changed. DIV and REM are in the table but for the cases that trap under the integer-trap
enable. For every state, every form and all operands of FADD, FSUB, FMUL, FFMA, FDIV, FSQRT, FMIN, FMAX, FCMP, FCVT, FCLASS and FRND: an
instruction that executes, and whose flags raise no enabled exception, answers the next state in which its destination holds the value
that the table floatingResult computes from the sources, in its low bits with zeros above (an integer from FCVT extended by Put), its
flags are merged, the PC is past its word, and nothing else has changed. The model's own readings in it: whether FFMA of zero, infinity
and a quiet NaN sets NV (notes/assumptions/5.md), and the conversions of FCVT of integers into and out of .e8m0 and the clamp of .sat for
an integer target as wide or wider (notes/assumptions/53.md). -/
def Obligations.ScalarResults : Prop :=
  (∀ (s : State) (t : Threadlet) (i : Instr) (d : Operand) (x : Word) (f : Fl), Executes s t i → integerResult s (s.view t) i = some (d, x, f) →
    s.quiet t f →
    exec i s = .next ((writeOp s t d x).1.retired s.cur t.pc i (writeOp s t d x).2 f)) ∧
  (∀ (s : State) (t : Threadlet) (i : Instr) (d : Operand) (x : Word) (f : Fl), Executes s t i → floatingResult s (s.view t) i = some (d, x, f) →
    s.quiet t f →
    exec i s = .next ((writeOp s t d x).1.retired s.cur t.pc i (writeOp s t d x).2 f))

/-- For every scalar integer and floating instruction of the two tables that executes: if its flags raise an exception that the context
enables, the step answers trap entry with cause 0x08 and those flags in the record, on the state and the threadlet as they were before the
instruction; the destination is not written and no flag merges. For every lane-wise vector instruction of the table that executes: if the
merged flags of its active lanes raise an exception that the context enables, it traps with cause 0x08 and those flags, on the state as it
was; no lane of the destination is written. -/
def Obligations.EnabledExceptions : Prop :=
  (∀ (s : State) (t : Threadlet) (i : Instr) (d : Operand) (x : Word) (f : Fl), Executes s t i →
    (integerResult s (s.view t) i = some (d, x, f) ∨ floatingResult s (s.view t) i = some (d, x, f)) → ¬ s.quiet t f →
    exec i s = .next (s.trapped t i 0x08 0 0 f)) ∧
  (∀ (s : State) (t : Threadlet) (i : Instr) (r : LaneResult), Executes s t i → laneResult s (s.view t) i = some r →
    ¬ s.quiet t (r.flags (lanesOf t i)) → exec i s = .next (s.trapped t i 0x08 0 0 (r.flags (lanesOf t i))))

/-- For every type of set I and all operands, a DIV or REM that executes: where the divisor is 0, or the dividend is the minimum of a signed
type and the divisor is -1, and the context's integer-trap enable is set, it traps with cause 0x07 and writes nothing; otherwise it writes
Put(q) or Put(r), where for a divisor of 0 q is -1 (signed) or all ones (unsigned) and r is the dividend, and for any other divisor x = q
* y + r, r is smaller than the divisor in magnitude and has the sign of the dividend or is 0. -/
def Obligations.DivideAndRemainder : Prop :=
  ∀ (s : State) (t : Threadlet) (g : Guard) (ty : Ty) (d x y : Operand),
    let a := s.src (s.view t) ty x
    let b := s.src (s.view t) ty y
    let trapping : Prop := (s.ctx t.ctx).ien = true ∧ (b = 0 ∨ (ty.signed = true ∧ a = minInt ty ∧ b = -1))
    ∃ q r : Int,
      (b = 0 → r = a ∧ q = if ty.signed then -1 else 2 ^ ty.width - 1) ∧
      (b ≠ 0 → a = q * b + r ∧ r.natAbs < b.natAbs ∧ (r = 0 ∨ (0 < r ↔ 0 < a))) ∧
      (Executes s t (.div g ty d x y) →
        (trapping → exec (.div g ty d x y) s = .next (s.trapped t (.div g ty d x y) 0x07 0 0 0)) ∧
        (¬ trapping → exec (.div g ty d x y) s =
          .next ((writeOp s t d (put ty q)).1.retired s.cur t.pc (.div g ty d x y) (writeOp s t d (put ty q)).2 0))) ∧
      (Executes s t (.rem g ty d x y) →
        (trapping → exec (.rem g ty d x y) s = .next (s.trapped t (.rem g ty d x y) 0x07 0 0 0)) ∧
        (¬ trapping → exec (.rem g ty d x y) s =
          .next ((writeOp s t d (put ty r)).1.retired s.cur t.pc (.rem g ty d x y) (writeOp s t d (put ty r)).2 0)))

/-- For every type of set I, with W its width: Src reads the low W bits as a signed or unsigned number, so that it lies between the minimum
and the maximum of the type; Put gives the 64-bit word that agrees with its argument modulo 2^W and is sign-extended for a signed type and
zero-extended for an unsigned one; the clamp of PutSat gives the nearest value in the range, with SAT exactly where it differs. -/
def Obligations.SourceAndPut : Prop :=
  ∀ (ty : Ty) (v : Word) (n : Int), ty.inI = true →
    intSrc ty v.toNat = (if ty.signed then (v.setWidth ty.width).toInt else ((v.setWidth ty.width).toNat : Int)) ∧
    minInt ty ≤ intSrc ty v.toNat ∧ intSrc ty v.toNat ≤ maxInt ty ∧
    put ty n = (if ty.signed then (BitVec.ofInt ty.width n).signExtend 64 else (BitVec.ofInt ty.width n).setWidth 64) ∧
    (clamp ty n).1 = max (minInt ty) (min (maxInt ty) n) ∧
    (clamp ty n).2 = (if minInt ty ≤ n ∧ n ≤ maxInt ty then 0 else Fl.sat)

/-- For every width of set I and all operands, the five shift operations of R100 are the bit-vector operations on the low W bits of X with the
amount taken modulo W: SHL, SHR, SAR, ROL and ROR. For every width W of set I and every x: CLZ, CTZ and POPC count as R101 says (W for
zero); bit j of BREV is bit W-1-j of x and byte j of BSWAP is byte W/8-1-j; BFX and BFI extract and insert the field of R102, bit by bit,
where a field that runs past bit 63 is cut. -/
def Obligations.ShiftsAndBits : Prop :=
  (∀ (ty : Ty) (x y : Word), ty.inI = true →
    let b : BitVec ty.width := x.setWidth ty.width
    let n := y.toNat % ty.width
    shiftBits .shl ty.width x.toNat y.toNat = (b <<< n).toNat ∧
    shiftBits .shr ty.width x.toNat y.toNat = (b >>> n).toNat ∧
    shiftBits .sar ty.width x.toNat y.toNat = (b.sshiftRight n).toNat ∧
    shiftBits .rol ty.width x.toNat y.toNat = (b.rotateLeft n).toNat ∧
    shiftBits .ror ty.width x.toNat y.toNat = (b.rotateRight n).toNat) ∧
  (∀ (ty : Ty) (x y spec : Word), ty.inI = true →
    let w := ty.width
    clzBits w x.toNat = ((List.range w).findIdx fun j => x.getLsbD (w - 1 - j)) ∧
    ctzBits w x.toNat = ((List.range w).findIdx fun j => x.getLsbD j) ∧
    popBits w x.toNat = ((List.range w).filter fun j => x.getLsbD j).length ∧
    (∀ j < w, (BitVec.ofNat 64 (revBits w x.toNat)).getLsbD j = x.getLsbD (w - 1 - j)) ∧
    (∀ j < w, (BitVec.ofNat 64 (swapBytes w x.toNat)).getLsbD j = x.getLsbD (w - 8 - j / 8 * 8 + j % 8)) ∧
    (let pos := spec.toNat % 64
     let len := spec.toNat / 256 % 128
     (∀ j < 64, (bfx x spec).getLsbD j = (decide (j < len) && x.getLsbD (pos + j))) ∧
     (∀ j < 64, (bfi x y spec).getLsbD j =
        if pos ≤ j ∧ j < pos + len then y.getLsbD (j - pos) else x.getLsbD j)))

/-- For every type of set F, every rounding mode and all encodings: FADD, FSUB, FMUL, FDIV and FFMA with a NaN source give the canonical NaN
of the format and set NV exactly where a source is signalling; so do FSQRT and the vector functions. The minimum and maximum give the
other source where exactly one is NaN, and the canonical NaN where both are, with NV exactly where a source is signalling. Of the
comparisons of FCMP with a NaN source only .un and .ne hold, and NV is set exactly where a source is signalling. An fma of zero times
infinity with a quiet NaN addend is taken as a NaN source that sets no flag (the model's reading, notes/assumptions/5.md). -/
def Obligations.NaNResults : Prop :=
  ∀ (ty : Ty) (m : Mode) (op : FloatOp) (fn : FloatFn) (a b c : Nat) (big : Bool), ty.inF = true →
    let x := decodeNum ty a
    let y := decodeNum ty b
    let z := decodeNum ty c
    ((x.isNaN || y.isNaN) = true → floatOp op ty m a b = (canonNaN ty, Fl.when (x.signals || y.signals) Fl.nv)) ∧
    ((x.isNaN || y.isNaN || z.isNaN) = true →
      fmaOp ty m a b c = (canonNaN ty, Fl.when (x.signals || y.signals || z.signals) Fl.nv)) ∧
    (x.isNaN = true → floatFn fn ty m a = (canonNaN ty, Fl.when x.signals Fl.nv)) ∧
    ((x.isNaN && y.isNaN) = true → floatMinMax big ty a b = (canonNaN ty, Fl.when (x.signals || y.signals) Fl.nv)) ∧
    ((x.isNaN && !y.isNaN) = true → floatMinMax big ty a b = (b % 2 ^ ty.width, Fl.when x.signals Fl.nv)) ∧
    ((!x.isNaN && y.isNaN) = true → floatMinMax big ty a b = (a % 2 ^ ty.width, Fl.when y.signals Fl.nv)) ∧
    (∀ cnd : Cond, (x.isNaN || y.isNaN) = true →
      floatCmp cnd ty a b = (decide (cnd = .un ∨ cnd = .ne), Fl.when (x.signals || y.signals) Fl.nv))

/-- For every state, form and operands of VADD, VSUB, VMUL, VMULH, VMAD, VMIN, VMAX, VABSD, VAND, VOR, VXOR, VSHL, VSHR, VSAR, VSEL, VFADD,
VFSUB, VFMUL, VFFMA, VFMIN, VFMAX, VFDIV, VRCP, VRSQ, VSQRT, VEXP2, VLOG2, VSHUF, VBCAST, VPOPC, VCLZ, VMOV, VCVT, VRNG and VDOT: an
instruction that executes, and whose flags (those of its active lanes, merged) raise no enabled exception, answers a next state in which
only the destination register, the flags and the PC of the seat have changed: an active lane holds the value of the table laneResult
reduced to the lane, an inactive lane and every bit above the lanes keep their old value. The model's own readings in it: the number of
leading bits from which VEXP2 and VLOG2 round (notes/assumptions/4.md), which NaN lanes of VFFMA and VDOT set NV (notes/assumptions/5.md),
and the conversions of VCVT (notes/assumptions/53.md). -/
def Obligations.VectorLanes : Prop :=
  ∀ (s : State) (t : Threadlet) (i : Instr) (r : LaneResult), Executes s t i → laneResult s (s.view t) i = some r →
    s.quiet t (r.flags (lanesOf t i)) →
    ∃ x : BitVec 512,
      exec i s = .next (s.retired s.cur t.pc i (t.setVec r.d x) (r.flags (lanesOf t i))) ∧
      (∀ j < r.lanes, lane x r.width j =
        if (lanesOf t i).getLsbD j then (r.value j).1 % 2 ^ r.width else lane (t.vec r.d) r.width j) ∧
      x.toNat / 2 ^ (r.lanes * r.width) = (t.vec r.d).toNat / 2 ^ (r.lanes * r.width)

/-- A VCMP or VFCMP that executes, and whose flags raise no enabled exception, writes a mask whose bit j is the outcome of lane j where the
lane is active, the old bit where it is not, and 0 from bit L up; VCMP raises no flag and VFCMP merges those of its active lanes. With i =
Y mod L, a VINS that executes puts the low bits of X into lane i and leaves the other lanes, and a VEXTR writes lane i into D,
sign-extended for a signed type and zero-extended for every other, when lane i is active; otherwise they only move the PC. -/
def Obligations.CompareAndSelectLane : Prop :=
  (∀ (s : State) (t : Threadlet) (g : Guard) (c : Cond) (ty : Ty) (d x y : Operand),
    let e (o : Operand) (j : Nat) : Nat := lane (t.vec o) ty.width j
    let m := t.guardMask g
    let f := orFlags (((List.range (512 / ty.width)).filter fun j => m.getLsbD j).map fun j => (floatCmp c ty (e x j) (e y j)).2)
    (Executes s t (.vcmp g c ty d x y) → ∃ r : Word,
      exec (.vcmp g c ty d x y) s = .next ((writeOp s t d r).1.retired s.cur t.pc (.vcmp g c ty d x y) (writeOp s t d r).2 0) ∧
      ∀ j < 64, r.getLsbD j = (decide (j < 512 / ty.width) &&
        if m.getLsbD j then condInt c (intSrc ty (e x j)) (intSrc ty (e y j)) else (s.readOp (s.view t) d).getLsbD j)) ∧
    (Executes s t (.vfcmp g c ty d x y) → s.quiet t f → ∃ r : Word,
      exec (.vfcmp g c ty d x y) s = .next ((writeOp s t d r).1.retired s.cur t.pc (.vfcmp g c ty d x y) (writeOp s t d r).2 f) ∧
      ∀ j < 64, r.getLsbD j = (decide (j < 512 / ty.width) &&
        if m.getLsbD j then (floatCmp c ty (e x j) (e y j)).1 else (s.readOp (s.view t) d).getLsbD j))) ∧
  (∀ (s : State) (t : Threadlet) (g : Guard) (ty : Ty) (d x y : Operand),
    let w := ty.width
    let i := (s.readOp (s.view t) y).toNat % (512 / w)
    (Executes s t (.vins g ty d x y) →
      (active (t.guardMask g) i = true → ∃ r : BitVec 512,
        exec (.vins g ty d x y) s = .next (s.retired s.cur t.pc (.vins g ty d x y) (t.setVec d r) 0) ∧
        ∀ j < 512 / w, lane r w j = if j = i then (s.readOp (s.view t) x).toNat % 2 ^ w else lane (t.vec d) w j) ∧
      (active (t.guardMask g) i = false → exec (.vins g ty d x y) s = .next (s.retired s.cur t.pc (.vins g ty d x y) t 0))) ∧
    (Executes s t (.vextr g ty d x y) →
      (active (t.guardMask g) i = true →
        let r : Word := if ty.signed then (BitVec.ofNat w (lane (t.vec x) w i)).signExtend 64 else BitVec.ofNat 64 (lane (t.vec x) w i)
        exec (.vextr g ty d x y) s = .next ((writeOp s t d r).1.retired s.cur t.pc (.vextr g ty d x y) (writeOp s t d r).2 0)) ∧
      (active (t.guardMask g) i = false → exec (.vextr g ty d x y) s = .next (s.retired s.cur t.pc (.vextr g ty d x y) t 0))))

/-- A VRED that executes, and whose flags raise no enabled exception, writes the value of the fixed pairwise tree over the lane index, in
which an inactive lane is absent: the tree over 2^(l+1) lanes from lane j combines the trees over 2^l lanes from j and from j + 2^l, and
where one of them has no active lane it is the other. A result that is a NaN is the canonical NaN, and where it comes from one lane alone
that is signalling, NV is set. A floating result has zeros above, an integer one is extended by Put; with no active lane the instruction
does not execute. The model's own readings in it: that a NaN which passes through alone is made canonical, and that a signalling one sets
NV (notes/assumptions/54.md). -/
def Obligations.VectorReduce : Prop :=
  ∀ (s : State) (t : Threadlet) (g : Guard) (op : RedOp) (ty : Ty) (d o : Operand),
    let n := Nat.log2 (512 / ty.width)
    let leaf (j : Nat) : Option Nat := if active (t.guardMask g) j then some (lane (t.vec o) ty.width j) else none
    let x := (treeValue op ty leaf n 0).getD 0
    let nan : Prop := ty.isInt = false ∧ (decodeNum ty x).isNaN = true
    let f := treeFlags op ty leaf n 0 ||| (if nan ∧ (decodeNum ty x).signals = true then Fl.nv else 0)
    let r : Word := extendResult ty (if nan then canonNaN ty else x)
    Executes s t (.vred g op ty d o) → s.quiet t f →
      exec (.vred g op ty d o) s = .next ((writeOp s t d r).1.retired s.cur t.pc (.vred g op ty d o) (writeOp s t d r).2 f)

/-- A VSCAN that executes computes, over the active lanes in ascending order: for the first its source, a NaN made the canonical NaN, with NV
where it is signalling; for each later one the combination of the result of the active lane before it with its own source, where the
combination is that of the tree of VRED. Where the flags of all the active lanes, merged, raise no enabled exception, each active lane of
D holds its result, an inactive lane its old element, and the flags merge; where they raise one, the instruction traps with cause 0x08 and
those flags and writes no lane. The model's own readings in it: the same of the first active lane (notes/assumptions/54.md). -/
def Obligations.ScanPrefix : Prop :=
  ∀ (s : State) (t : Threadlet) (g : Guard) (op : RedOp) (ty : Ty) (d x : Operand),
    let i : Instr := .vscan g op ty d x
    let w := ty.width
    let m := t.guardMask g
    let src (j : Nat) : Nat := lane (t.vec x) w j
    let nan (j : Nat) : Bool := !ty.isInt && (decodeNum ty (src j)).isNaN
    Executes s t i → ∃ r : BitVec 512,
      let before (j : Nat) : Option Nat := ((List.range j).filter fun p => m.getLsbD p).getLast?
      let one (j : Nat) : Nat × Fl := match before j with
        | none => (if nan j then canonNaN ty else src j, if nan j && (decodeNum ty (src j)).signals then Fl.nv else 0)
        | some p => combine op ty (lane r w p) (src j)
      let f := orFlags (((List.range (512 / w)).filter fun j => m.getLsbD j).map fun j => (one j).2)
      (∀ j < 512 / w, lane r w j = if m.getLsbD j then (one j).1 % 2 ^ w else lane (t.vec d) w j) ∧
      (s.quiet t f → exec i s = .next (s.retired s.cur t.pc i (t.setVec d r) f)) ∧
      (¬ s.quiet t f → exec i s = .next (s.trapped t i 0x08 0 0 f))

/-- A VPACK that executes writes, in each active element j of the packed destination, the conversion of element j of X while j is below the
count Ls of source elements, and of element j - Ls of Y while it is below 2 Ls and the destination is not of 6 bits; other elements are
unchanged. A VUNPK that executes writes in each active element j the conversion, rounded to nearest even, of element p L + j of X, where p
is Y modulo the number of parts. The bits above the elements, 384 to 511 of a destination of 6 bits, keep their old value. Both merge the
flags of the elements they write; an enabled exception is excluded. The model's own readings in it: the conversions of FCVT
(notes/assumptions/53.md), and that VPACK to 6-bit elements leaves the elements from the count of one source on unchanged
(notes/assumptions/62.md). -/
def Obligations.PackAndUnpack : Prop :=
  ∀ (s : State) (t : Threadlet) (g : Guard) (sat : Bool) (dt ty : Ty) (rm : RM) (d x y : Operand),
    let m := t.guardMask g
    let nd := packedCount dt
    let ns := packedCount ty
    let part := (s.readOp (s.view t) y).toNat % max 1 (ns / nd)
    let packed (j : Nat) : Nat × Fl :=
      convert dt ty sat (rmMode rm) (if j < ns then lane (t.vec x) ty.width j else lane (t.vec y) ty.width (j - ns))
    let reach := if dt.width = 6 then ns else 2 * ns
    let above (r : BitVec 512) : Prop := ∀ b, nd * dt.width ≤ b → r.getLsbD b = (t.vec d).getLsbD b
    let wide (j : Nat) : Nat × Fl := convert dt ty false .rne (lane (t.vec x) ty.width (part * nd + j))
    let fp := orFlags (((List.range nd).filter fun j => packedActive m dt j && decide (j < reach)).map fun j => (packed j).2)
    let fu := orFlags (((List.range nd).filter fun j => packedActive m dt j).map fun j => (wide j).2)
    (Executes s t (.vpack g sat dt ty rm d x y) → s.quiet t fp → ∃ r : BitVec 512,
      exec (.vpack g sat dt ty rm d x y) s = .next (s.retired s.cur t.pc (.vpack g sat dt ty rm d x y) (t.setVec d r) fp) ∧
      (∀ j < nd, lane r dt.width j =
        if packedActive m dt j = true ∧ j < reach then (packed j).1 % 2 ^ dt.width else lane (t.vec d) dt.width j) ∧ above r) ∧
    (Executes s t (.vunpk g dt ty d x y) → s.quiet t fu → ∃ r : BitVec 512,
      exec (.vunpk g dt ty d x y) s = .next (s.retired s.cur t.pc (.vunpk g dt ty d x y) (t.setVec d r) fu) ∧
      (∀ j < nd, lane r dt.width j = if packedActive m dt j then (wide j).1 % 2 ^ dt.width else lane (t.vec d) dt.width j) ∧ above r)

/-- KOP, KPOPC and KFIRST act on all 64 bits of a mask, are guarded as scalars and are encoded with TY = 0: when they execute, KOP.and, .or,
.xor, .andn and .orn write X op Y, KOP.not the complement and KOP.mov the copy of X, KPOPC the number of 1 bits and KFIRST the index of
the lowest 1 bit, 64 for none; no flag is set and nothing but the destination and the PC changes. -/
def Obligations.MaskInstructions : Prop :=
  ∀ (s : State) (t : Threadlet) (g : Guard) (d x y : Operand),
    let v := s.view t
    let wrote (i : Instr) (r : Word) : Prop :=
      ((i.shape.map (·.gu)) = some .scalar ∧ (firstWord i).toNat / 2 ^ 11 % 32 = 0) ∧
      (Executes s t i → exec i s = .next ((writeOp s t d r).1.retired s.cur t.pc i (writeOp s t d r).2 0))
    wrote (.kop g .and d x y) (s.readOp v x &&& s.readOp v y) ∧
    wrote (.kop g .or d x y) (s.readOp v x ||| s.readOp v y) ∧
    wrote (.kop g .xor d x y) (s.readOp v x ^^^ s.readOp v y) ∧
    wrote (.kop g .andn d x y) (s.readOp v x &&& ~~~(s.readOp v y)) ∧
    wrote (.kop g .orn d x y) (s.readOp v x ||| ~~~(s.readOp v y)) ∧
    wrote (.kop g .not d x y) (~~~(s.readOp v x)) ∧
    wrote (.kop g .mov d x y) (s.readOp v x) ∧
    wrote (.kpopc g d x) (BitVec.ofNat 64 ((List.range 64).filter fun j => (s.readOp v x).getLsbD j).length) ∧
    wrote (.kfirst g d x) (BitVec.ofNat 64 ((List.range 64).findIdx fun j => (s.readOp v x).getLsbD j))

/-- For every state and all operands, when the instruction executes: NOP only moves the PC; BR, JMP, CALL, CALLR and RET set the PC to PC + 8
* DISP, with X added for JMP and CALLR, or to lr, and CALL and CALLR write PC + 8 to lr, where a computed target is 8-byte aligned; END
merges the seat's flags into the tile's sticky flags, makes the seat idle, counts the frame's running activations down and frees the frame
if its freeing was pending; TRAP and BRK trap with causes 0x09 and 0x0A and DISP as the code. -/
def Obligations.ControlFlow : Prop :=
  ∀ (s : State) (t : Threadlet) (g : Guard) (x : Operand) (disp : BitVec 32),
    let near : Word := t.pc + 8 * disp.signExtend 64
    let far : Word := near + s.readOp (s.view t) x
    let at' (t : Threadlet) (pc : Word) : State := s.setSeat s.cur (.run { t with pc := pc, mid := none })
    let linked : Threadlet := (writeOp s t .lr (t.pc + 8)).2
    (Executes s t (.nop g) → exec (.nop g) s = .next (s.retired s.cur t.pc (.nop g) t 0)) ∧
    (Executes s t (.br g disp) → exec (.br g disp) s = .next (at' t near)) ∧
    (Executes s t (.jmp g x disp) → far.toNat % 8 = 0 → exec (.jmp g x disp) s = .next (at' t far)) ∧
    (Executes s t (.call g disp) → exec (.call g disp) s = .next (at' linked near)) ∧
    (Executes s t (.callr g x disp) → far.toNat % 8 = 0 → exec (.callr g x disp) s = .next (at' linked far)) ∧
    (Executes s t (.ret g) → t.bad.contains .lr = false → t.lr.toNat % 8 = 0 → exec (.ret g) s = .next (at' t t.lr)) ∧
    (Executes s t (.endT g) → t.badFlags = false → exec (.endT g) s = .next ((s.endThreadlet (s.view t)).finishPart t.ctx t.ltn)) ∧
    (Executes s t (.trap g disp) → exec (.trap g disp) s = .next (s.trapped t (.trap g disp) 0x09 disp.toNat 0 0)) ∧
    (Executes s t (.brk g disp) → exec (.brk g disp) s = .next (s.trapped t (.brk g disp) 0x0A disp.toNat 0 0))

/-- When an END executes in a part of a kernel that has not ended, in a frame whose freeing is not pending, the next state has the seat idle,
the tile's sticky flags merged with the seat's, and the frame as it was but for one running activation less: its words, slots and tag are
unchanged, and so are all of memory, the requests in flight and every other frame of every part. -/
def Obligations.EndLeavesFrame : Prop :=
  ∀ (s : State) (t : Threadlet) (g : Guard) (f : Frame), Executes s t (.endT g) → t.badFlags = false → s.frame t.ref = some f → f.pendingFree = false →
    (s.part t.ctx t.ltn).ended = false →
    ∃ s' : State, exec (.endT g) s = .next s' ∧ s'.seat s.cur = .idle ∧
      (s'.part t.ctx t.ltn).sflag = (s.part t.ctx t.ltn).sflag ||| t.flags ∧
      s'.frame t.ref = some { f with runs := f.runs - 1 } ∧
      (∀ r : FrameRef, (partKey r.ctx r.ltn ≠ partKey t.ctx t.ltn ∨ r.core ≠ t.core ∨ r.frm ≠ t.frm) → s'.frame r = s.frame r) ∧
      s'.mem = s.mem ∧ s'.host = s.host ∧ s'.reqs = s.reqs ∧ s'.net = s.net ∧
      (∀ b, (s'.part t.ctx t.ltn).byte b = (s.part t.ctx t.ltn).byte b)

/-- A LOOP whose guard is false only moves the PC. One that executes computes n = D - 1 modulo 2^64, writes n to D (a write to zr is
discarded, so that LOOP zr branches every time) and sets the PC to PC + 8 * DISP where n is not zero and to PC + 8 where it is; D = 1
leaves 0 and falls through, and D = 0 leaves all ones and branches. D is of scalar class. -/
def Obligations.LoopCounts : Prop :=
  ∀ (s : State) (t : Threadlet) (g : Guard) (d : Operand) (disp : BitVec 32),
    let i : Instr := .loop g d disp
    let n : Word := s.readOp (s.view t) d - 1
    (passesChecks s t i = true → Cls.scalar.has d = true) ∧
    (s.seat s.cur = .run t → passesChecks s t i = true → guardHolds t i = false → exec i s = .next (s.retired s.cur t.pc i t 0)) ∧
    (Executes s t i →
      exec i s = .next ((writeOp s t d n).1.setSeat s.cur
        (.run { (writeOp s t d n).2 with mid := none, pc := if n ≠ 0 then t.pc + 8 * disp.signExtend 64 else t.pc + 8 }))) ∧
    (s.readOp (s.view t) d = 1 → n = 0) ∧ (s.readOp (s.view t) d = 0 → n = 0xFFFFFFFFFFFFFFFF) ∧
    (d = .zr → n ≠ 0 ∧ writeOp s t d n = (s, t))

/-- A FLAGS that executes writes the six flag bits, zero-extended, to D and leaves the seat flag register zero, as one step, so that later
instructions merge into the cleared register; with D = zr it only clears; the per-tile flags merged at an earlier END are unchanged, and
so is everything but D, the flags and the PC. -/
def Obligations.FlagsReadAndClear : Prop :=
  ∀ (s : State) (t : Threadlet) (g : Guard) (d : Operand), Executes s t (.flags g d) → t.badFlags = false →
    let u : Threadlet := { t with flags := 0 }
    let r : State × Threadlet := writeOp s u d (t.flags.setWidth 64)
    exec (.flags g d) s = .next (r.1.retired s.cur t.pc (.flags g d) r.2 0) ∧
    r.2.flags = 0 ∧
    (d = .zr → r = (s, u)) ∧
    (∀ ctx ltn, (r.1.part ctx ltn).sflag = (s.part ctx ltn).sflag)

/-- Writing a scalar or mask operand: a w register, a k register from k1 up and lr then read the value written, with good parity; a frame word
of a frame that exists reads it, but for an instruction that has issued already, which reads frame words as they were at its issue; zr, k0
and the read-only specials discard it and change nothing; every other operand that is no frame word reads as before, and a write to
anything but a frame word leaves the state outside the seat alone. -/
def Obligations.WriteDestination : Prop :=
  ∀ (s : State) (t : Threadlet) (d o : Operand) (x : Word),
    let r := writeOp s t d x
    ((∃ n, d = .w n) ∨ (∃ n : Fin 8, n ≠ 0 ∧ d = .k n) ∨ d = .lr → r.1.readOp ⟨s.cur, r.2⟩ d = x ∧ r.2.bad.contains d = false) ∧
    ((∃ n, d = .f n) → (s.frame t.ref).isSome = true → t.mid = none → r.1.readOp ⟨s.cur, r.2⟩ d = x) ∧
    ((d = .zr ∨ d = .k 0 ∨ d = .fp ∨ d = .ltn ∨ d = .core ∨ d = .seat ∨ d = .ctx ∨ d = .cyc ∨ d = .sig) → r = (s, t)) ∧
    (o ≠ d → r.1.readOp ⟨s.cur, r.2⟩ o = s.readOp ⟨s.cur, t⟩ o) ∧
    ((∀ n, d ≠ .f n) → r.1 = s) ∧
    (∀ n m, t.mid = some m → r.1.readOp ⟨s.cur, r.2⟩ (.f n) = Tab.get 0 m.words n.val)

/-- For every instruction that a seat issues and that is ready to issue: if it passes checks 3 to 7 and its guard is false (for a lane mask,
no lane is active), the next state differs from the state before only in the seat's PC, which is past the instruction's words: no
register, flag or byte of memory is written, no signal is sent and no request is made. -/
def Obligations.GuardFalse : Prop :=
  ∀ (s : State) (t : Threadlet) (i : Instr), s.seat s.cur = .run t → s.notReady (s.view t) i = false → passesChecks s t i = true →
    guardHolds t i = false →
    exec i s = .next (s.setSeat s.cur (.run { t with pc := t.pc + BitVec.ofNat 64 i.size, mid := none }))

/-- For every instruction that a seat issues, whatever its guard: one that is not ready to issue, because it needs an entry of the core's
table and all 48 are taken (R215), or a place of the Anvil's command queue and that holds 16 commands (R274), waits, and the state stays
as it is; else a coded field out of its set traps with cause 0x01; else a privileged instruction in a context that is not privileged with
cause 0x0B; else an illegal guard, operand or target with cause 0x03; else a frame-word specifier beyond the size class with cause 0x04.
Each is trap entry on the state as it was, with no other effect. -/
def Obligations.ChecksBeforeGuard : Prop :=
  ∀ (s : State) (t : Threadlet) (i : Instr) (h : Shape), s.seat s.cur = .run t → i.shape = some h →
    (s.notReady (s.view t) i = true ↔ holdsEntry i = true ∧ s.entryFree s.cur = false ∨
      entersAnvil i = true ∧ 16 ≤ (s.anvil t.ctx t.ltn).places) ∧
    (s.notReady (s.view t) i = true → t.mid = none → exec i s = .next s) ∧
    (s.notReady (s.view t) i = false →
    let privileged : Prop := i.privileged = true ∧ (s.ctx t.ctx).priv = false
    let beyond : Prop := ∃ n ∈ frameIndices h, frameWords ((s.frame t.ref).any (·.large)) ≤ n
    (h.coded = false → exec i s = .next (s.trapped t i 0x01 0 0 0)) ∧
    (h.coded = true → privileged → exec i s = .next (s.trapped t i 0x0B 0 0 0)) ∧
    (h.coded = true → ¬ privileged → h.operandsOk = false → exec i s = .next (s.trapped t i 0x03 0 0 0)) ∧
    (h.coded = true → ¬ privileged → h.operandsOk = true → beyond → exec i s = .next (s.trapped t i 0x04 0 0 0)) ∧
    (h.coded = true → ¬ privileged → h.operandsOk = true → ¬ beyond → t.bad.contains (.k h.guard.k) = false → passesChecks s t i = true))

/-- For every instruction that is ready to issue, whose guard is true and that passes checks 3 to 7: the first register it reads whose parity
check fails (of a .cas the register after D too, of a PHCLAIM Z only where its claim word asks for a spill area) stops it with a machine
check, cause 0x30, the operand's specifier as the code and a RAS record; else a register target whose V is 0 or whose MBZ bits are not
zero traps with cause 0x03; else a poisoned frame-word source traps with cause 0x12 and the word's byte offset 64 + 8 n in the record: at
once where no check of its own can fail whatever that word holds; where one can, after those checks, so that it traps with their cause or
with 0x12. But a SCPY whose count reads zero and a SIGD of a continuation with V = 0 do nothing whatever their other words hold. A FLAGS,
END, KEND or HALT (of a code in range) that executes while the seat flags fail their parity check is machine-checked too, with an open
code. The model's own readings in it: which offset the record holds (notes/assumptions/8.md), the place of the poison check of frame words
(notes/assumptions/9.md), parity before the register continuation (notes/assumptions/56.md), and the open code of a check of the flags
(notes/assumptions/57.md). -/
def Obligations.SourceChecks : Prop :=
  ∀ (s : State) (t : Threadlet) (i : Instr) (h : Shape), s.seat s.cur = .run t → s.notReady (s.view t) i = false → i.shape = some h → passesChecks s t i = true →
    guardHolds t i = true →
    let v := s.view t
    let bad := t.badSource (s.readRegisters v i h (targetOf i))
    let good : Prop := bad = none ∧ targetGood t (targetOf i) = true
    let zero (o : Operand) : Prop := (s.readOp v o).toNat = 0 ∧ s.poisonedSource t [o] = none
    let nothing : Prop := (∃ g z d x f y, i = .scpy g z d x f y ∧ zero y) ∨
      ∃ g st rel x y, i = .sigd g st rel x y ∧ contV (s.readOp v x) = false ∧ s.poisonedSource t [x] = none
    (∀ o, bad = some o → exec i s =
      .next (((s.rasOpen 0x03 2 t.ctx (ptnDie s.cur.ptn) s.cur.ptn).trap (s.view t) ⟨0x30, specifier o, 0, 0, 0, 0, t.pc, firstWord i⟩).finishPart
        t.ctx t.ltn)) ∧
    (bad = none → targetGood t (targetOf i) = false → exec i s = .next (s.trapped t i 0x03 0 0 0)) ∧
    (∀ n, good → s.poisonedSource t (plainSources i h) = some n →
      (judgesSources i = false → exec i s = .next (s.trapped t i 0x12 0 (BitVec.ofNat 64 (64 + 8 * n)) 0)) ∧
      (judgesSources i = true → ¬ nothing → t.doneSteps = 0 → ∃ cause : Nat, exec i s = .next (s.trapped t i cause 0 0 0) ∨
        exec i s = .next (s.trapped t i 0x12 0 (BitVec.ofNat 64 (64 + 8 * n)) 0))) ∧
    (good → nothing → exec i s = .next (s.retired s.cur t.pc i t 0)) ∧
    (good → s.poisonedSource t (plainSources i h) = none → Executes s t i) ∧
    (∀ g d x, (i = .flags g d ∨ i = .endT g ∨ i = .kend g ∨ i = .halt g x ∧ (s.readOp (s.view t) x).toNat < 0xFFFF0000) → bad = none → Executes s t i → t.badFlags = true → exec i s =
      .next (((s.rasOpen 0x03 2 t.ctx (ptnDie s.cur.ptn) s.cur.ptn).trap (s.view t)
        ⟨0x30, (Config.freeValue 32 s.fresh).toNat, 0, 0, 0, 0, t.pc, firstWord i⟩).finishPart t.ctx t.ltn))

/-- Taking a trap on a seat whose frame exists: the frame is PARKED with one more open trap and one activation fewer running, and the seat is
in SAVE with the threadlet as it was before the instruction, while every other frame, the scratchpad and memory are unchanged. Then, where
a record of the context already waits, this one (cause, context, the seat bit of RFL, status, code, the frame's continuation, PC,
instruction word, address and flags) waits behind it; else, where the queue has room and its pages are writable, entry WIDX of the trap
queue holds the record and the seat's registers, the device keeps what FRES takes from neither (R27, R379), the seat is idle and the
handler is notified. The model's own readings in it: that what an instruction in progress has done so far is not saved
(notes/assumptions/65.md), and that a record waits behind an earlier one of its context (notes/assumptions/72.md). -/
def Obligations.TrapEntry : Prop :=
  ∀ (s : State) (t : Threadlet) (f : Frame) (info : TrapInfo), s.frame t.ref = some f →
    let record : List Byte := trapRecord info.cause t.ctx (info.rfl ||| 1) info.status info.code (s.fpOf t.ref) info.pc info.iword info.addr
      (flagsWord info.flags)
    let parked : State := (s.setFrame t.ref { f with st := .parked, nt := f.nt + 1, runs := f.runs - 1, ovf := false }).settleCore t.ctx t.ltn t.core
    let kept : Threadlet := { t with mid := none }
    let saved : State := parked.setSeat s.cur (.save kept)
    (saved.frame t.ref = some { f with st := .parked, nt := f.nt + 1, runs := f.runs - 1, ovf := false } ∧
      saved.seat s.cur = .save kept ∧ saved.mem = s.mem ∧ saved.host = s.host ∧
      (∀ r : FrameRef, (partKey r.ctx r.ltn ≠ partKey t.ctx t.ltn ∨ r.core ≠ t.core ∨ r.frm ≠ t.frm) → saved.frame r = s.frame r) ∧
      (∀ b, (saved.part t.ctx t.ltn).byte b = (s.part t.ctx t.ltn).byte b)) ∧
    ((s.jobs.any fun x => decide (x.ctx = t.ctx) && !s.jobAway x) = true →
      s.trap (s.view t) info = { saved with jobs := s.jobs ++ [⟨t.ctx, record, some t.ref, f.rtag, some s.cur, some kept, none⟩] }) ∧
    (∀ (n : Nat) (s2 s3 : State), (∀ x ∈ s.jobs, x.ctx ≠ t.ctx) → (s.tme t.ctx t.ltn).st = .resident →
      let dev : Dev := ⟨t.ctx, ptnDie (saved.homePtn t.ctx t.ltn), .trap (some t.ref)⟩
      saved.allocate dev = .ok (some (n, s2)) →
      s2.devWrite dev (s.trapEntry t.ctx n) (padTo 512 record ++ seatImage t) = .ok s3 →
      let c := (s3.setSeat s.cur .idle).ctx t.ctx
      let s4 := (s3.setSeat s.cur .idle).setCtx t.ctx { c with saved := Tab.put c.saved (n % s3.trapSize t.ctx) ⟨t.ref, f.rtag, t.sig, t.cls, false⟩ }
      s.trap (s.view t) info = s4.notifyTrap t.ctx (s4.homePtn t.ctx t.ltn) n)

/-- A local load that executes and passes its own checks (alignment, bounds, poison) writes only its destination: LDS the 2^SZ bytes at X +
OFF * 2^SZ, little-endian, zero- or sign-extended; VLDS each active byte lane from the byte at its address; VGATH each active element from
the element at base + index * size, where no finer step has gathered one; LDF each active lane from its frame word. Inactive lanes keep
their old elements. The model's own readings in it: the place of the poison check among the others (notes/assumptions/9.md). -/
def Obligations.LocalLoads : Prop :=
  ∀ (s : State) (t : Threadlet) (g : Guard) (sext : Bool) (sz : Fin 7) (d x y : Operand) (off : BitVec 16),
    let v := s.view t
    let p := s.part t.ctx t.ltn
    let m := t.guardMask g
    (∀ i, i = Instr.lds g sext sz d x off → Executes s t i → localReady s v i = true → sz.val ≤ 3 →
      let n := ofLeBytes (p.bytes (s.localAddr v x off sz.val) (2 ^ sz.val))
      let r : Word := if sext then (BitVec.ofNat (8 * 2 ^ sz.val) n).signExtend 64 else BitVec.ofNat 64 n
      exec i s = .next ((writeOp s t d r).1.retired s.cur t.pc i (writeOp s t d r).2 0)) ∧
    (∀ i, i = Instr.vlds g d x off → Executes s t i → localReady s v i = true → ∃ r : BitVec 512,
      exec i s = .next (s.retired s.cur t.pc i (t.setVec d r) 0) ∧
      ∀ j < 64, lane r 8 j = if m.getLsbD j then (p.byte ((s.localAddr v x off 6 + j) % 2 ^ 64)).toNat else lane (t.vec d) 8 j) ∧
    (∀ i, i = Instr.vgath g sz d x off y → Executes s t i → t.doneSteps = 0 → localReady s v i = true → sz.val ≤ 3 → ∃ r : BitVec 512,
      let n := 2 ^ sz.val
      exec i s = .next (s.retired s.cur t.pc i (t.setVec d r) 0) ∧
      ∀ j < 64 / n, lane r (8 * n) j =
        if m.getLsbD j then ofLeBytes (p.bytes ((s.localAddr v x off sz.val + lane (t.vec y) (8 * n) j * n) % 2 ^ 64) n)
        else lane (t.vec d) (8 * n) j) ∧
    (∀ i f, i = Instr.ldf g d x off → s.frame t.ref = some f → Executes s t i → localReady s v i = true → ∃ r : BitVec 512,
      exec i s = .next (s.retired s.cur t.pc i (t.setVec d r) 0) ∧
      ∀ j < 8, lane r 64 j =
        if m.getLsbD j then (f.word (s.localAddr v x off 6 / 8 + j)).toNat else lane (t.vec d) 64 j)

/-- A local store that executes, none of whose accesses a finer step has made, and passes its own checks changes only the scratchpad of its
own part of the tile, and the seat's PC. After it, the byte at each local address is the last of the bytes that the table storedBytes
gives that address, and the byte at every other address is as before; every other part's scratchpad, all of memory and every register are
unchanged. A poisoned word is marked no more only where it is covered whole. The model's own readings in it: the place of the poison check
among the others, and the overlap test of SCPY (notes/assumptions/9.md, 10.md). -/
def Obligations.LocalStores : Prop :=
  ∀ (s : State) (t : Threadlet) (i : Instr) (l : List (Nat × Byte)), Executes s t i → t.doneSteps = 0 →
    localReady s (s.view t) i = true → storedBytes s (s.view t) i = some l →
    ∃ p : Part,
      exec i s = .next ((s.setPart t.ctx t.ltn p).retired s.cur t.pc i t 0) ∧
      p = { s.part t.ctx t.ltn with spad := p.spad, spoison := p.spoison } ∧
      (∀ a, p.byte a = lastOf l a ((s.part t.ctx t.ltn).byte a)) ∧
      (∀ w, w ∈ p.spoison → w ∈ (s.part t.ctx t.ltn).spoison) ∧
      (∀ w, w ∈ (s.part t.ctx t.ltn).spoison → w ∉ p.spoison → ∀ k < 8, w * 8 + k ∈ l.map (·.1))

/-- A SATOM that executes and passes its own checks, and whose flags raise no enabled exception, reads the old value of its 4 or 8 bytes,
stores the new one to exactly those bytes and writes the old one, zero-extended, to D: .swap stores D, .add, .and, .or, .xor, .min, .max,
.minu and .maxu combine at the width, .fadd rounds to nearest even, and .cas stores the register after D where the old value equals D and
leaves the bytes otherwise. With an enabled exception it traps with cause 0x08 and stores nothing. -/
def Obligations.LocalAtomic : Prop :=
  ∀ (s : State) (t : Threadlet) (g : Guard) (op : AtomOp) (sz : Fin 7) (d x : Operand) (off : BitVec 16),
    let i : Instr := .satom g op sz d x off
    let v := s.view t
    let n := 2 ^ sz.val
    let a := s.localAddr v x off sz.val
    let p := s.part t.ctx t.ltn
    let old := ofLeBytes (p.bytes a n)
    let arg (o : Operand) : Nat := (s.readOp v o).toNat % 2 ^ (8 * n)
    let sgn (k : Nat) : Int := (BitVec.ofNat (8 * n) k).toInt
    let new : Nat × Fl := match op with
      | .swap => (arg d, 0)
      | .cas => (if old = arg d then arg (nextReg d) else old, 0)
      | .add => ((old + arg d) % 2 ^ (8 * n), 0)
      | .and => (Nat.land old (arg d), 0)
      | .or => (Nat.lor old (arg d), 0)
      | .xor => (Nat.xor old (arg d), 0)
      | .min => (if sgn old ≤ sgn (arg d) then old else arg d, 0)
      | .max => (if sgn old ≤ sgn (arg d) then arg d else old, 0)
      | .minu => (min old (arg d), 0)
      | .maxu => (max old (arg d), 0)
      | .fadd => floatOp .add (if sz.val = 2 then .f32 else .f64) .rne old (arg d)
    let s' : State := s.setPart t.ctx t.ltn (p.store a (leBytes n new.1))
    Executes s t i → localReady s v i = true →
      (s.quiet t new.2 → exec i s =
        .next ((writeOp s' t d (BitVec.ofNat 64 old)).1.retired s.cur t.pc i (writeOp s' t d (BitVec.ofNat 64 old)).2 new.2)) ∧
      (¬ s.quiet t new.2 → exec i s = .next (s.trapped t i 0x08 0 0 new.2))

/-- An STF that executes and passes its own checks writes each active lane j of D to word w + j of the current frame, where w is the byte
offset X + OFF * 64 counted from f0, divided by 8; every other word and every slot of the frame, every other frame, and all of memory and
scratchpad are unchanged. -/
def Obligations.FrameStore : Prop :=
  ∀ (s : State) (t : Threadlet) (g : Guard) (d x : Operand) (off : BitVec 16) (f : Frame),
    let i : Instr := .stf g d x off
    let w := s.localAddr (s.view t) x off 6 / 8
    s.frame t.ref = some f → Executes s t i → localReady s (s.view t) i = true → ∃ f' : Frame,
      exec i s = .next ((s.setFrame t.ref f').retired s.cur t.pc i t 0) ∧
      f' = { f with words := f'.words, poison := f'.poison } ∧
      (∀ j < 8, f'.word (w + j) = if (t.guardMask g).getLsbD j then BitVec.ofNat 64 (lane (t.vec d) 64 j) else f.word (w + j)) ∧
      (∀ n, n < w ∨ w + 8 ≤ n → f'.word n = f.word n) ∧
      (∀ n, n ∈ f'.poison ↔ n ∈ f.poison ∧ ¬ (∃ j < 8, n = w + j ∧ (t.guardMask g).getLsbD j = true))

/-- For every scalar and lane-wise vector instruction of the tables, and for KOP, KPOPC, KFIRST, VCMP and VFCMP, whose destination is no frame
word, that executes and whose flags raise no enabled exception: every register but the destination, lr and sig where they are not the
destination, every other seat, the whole of memory, scratchpad, frames, contexts, requests, packets and queues are as before; the flags
are the old ones merged with the new (none for the mask instructions and VCMP, those of the active lanes for VFCMP), and the PC is past
the words. (All of the state outside the seat is one field-by-field equal state.) -/
def Obligations.RegisterFrame : Prop :=
  ∀ (s : State) (t : Threadlet) (i : Instr) (f : Fl), Executes s t i → s.quiet t f →
    let only (d : Operand) (f : Fl) : Prop :=
      ∃ t' : Threadlet, exec i s = .next (s.setSeat s.cur (.run t')) ∧ t'.ref = t.ref ∧ t'.sig = t.sig ∧ t'.v = t.v ∧
        t'.flags = t.flags ||| f ∧ t'.pc = t.pc + BitVec.ofNat 64 i.size ∧
        t'.mid = none ∧ (∀ o, o ≠ d → (∀ n, o ≠ .f n) → (o ≠ .cyc ∨ t.mid = none) → s.readOp ⟨s.cur, t'⟩ o = s.readOp ⟨s.cur, t⟩ o)
    (∀ d x, (integerResult s (s.view t) i = some (d, x, f) ∨ floatingResult s (s.view t) i = some (d, x, f)) → (∀ n, d ≠ .f n) → only d f) ∧
    (∀ (g : Guard) (op : MaskOp) (c : Cond) (ty : Ty) (d x y : Operand),
      (i = .kop g op d x y ∨ i = .kpopc g d x ∨ i = .kfirst g d x ∨ i = .vcmp g c ty d x y) → (∀ n, d ≠ .f n) → only d 0) ∧
    (∀ (g : Guard) (c : Cond) (ty : Ty) (d x y : Operand), i = .vfcmp g c ty d x y → (∀ n, d ≠ .f n) →
      f = orFlags (((List.range (512 / ty.width)).filter fun j => (t.guardMask g).getLsbD j).map fun j =>
        (floatCmp c ty (lane (t.vec x) ty.width j) (lane (t.vec y) ty.width j)).2) → only d f) ∧
    (∀ r, laneResult s (s.view t) i = some r → r.flags (lanesOf t i) = f →
      ∃ t' : Threadlet, exec i s = .next (s.setSeat s.cur (.run t')) ∧ t'.ref = t.ref ∧ t'.sig = t.sig ∧ t'.w = t.w ∧ t'.k = t.k ∧ t'.lr = t.lr ∧
        t'.flags = t.flags ||| f ∧ t'.pc = t.pc + BitVec.ofNat 64 i.size ∧
        (∀ o, o ≠ r.d → t'.vec o = t.vec o))

/-- For the local instructions that execute, none of whose accesses a finer step has made. LDS, STS and SATOM with address a and n = 2^SZ
bytes: a misaligned address traps with cause 0x06; else an access with a byte at or beyond the grant, or in a claimed 16 KiB unit, with
cause 0x05; else a poisoned frame word that STS or SATOM reads as its datum with cause 0x12 and the word's offset; else a poisoned
scratchpad word (read, or stored to in part) with cause 0x12 and the address. VLDS and VSTS: an address that is no multiple of 16, 0x06;
an active byte out of reach, 0x05; the first active byte whose word is poisoned (for VSTS, that is not covered whole), 0x12 and its
address. VGATH and VSCAT: a base that is no multiple of the element size, 0x06; an active element out of reach, 0x05; the first active
element with a poisoned word (for VSCAT, of less than 8 bytes), 0x12 and its address. LDF and STF: an offset that is no multiple of 64,
0x06; words beyond the frame's size class, 0x04; for LDF the first active word that is poisoned, 0x12 and its offset. Each leaves the
scratchpad, the frame's words and the destination as they were. A SCPY that executes with a count of 0 only moves the PC, and takes no
data-dependent trap; one of more than 4,096 bytes traps with cause 0x03, and so does one whose source and destination share a byte; else
an address that is no multiple of the unit traps with 0x06; else a byte of either range out of reach with 0x05; else a poisoned word of
the source with 0x12 and the source's address, and, for units below 8 bytes, of the destination with 0x12 and its address. The model's own
readings in it: which address the record of poison holds (notes/assumptions/8.md), the place of the poison check among the others, and the
overlap test of SCPY (notes/assumptions/9.md, 10.md). -/
def Obligations.LocalAccessTraps : Prop :=
  (∀ (s : State) (t : Threadlet) (g : Guard) (sext : Bool) (op : AtomOp) (sz : Fin 7) (d x y : Operand) (off : BitVec 16) (i : Instr),
    Executes s t i → t.doneSteps = 0 →
    let v := s.view t
    let n := 2 ^ sz.val
    let a := s.localAddr v x off sz.val
    let p := s.part t.ctx t.ltn
    let m := t.guardMask g
    let traps (cause addr : Nat) : Prop := exec i s = .next (s.trapped t i cause 0 (BitVec.ofNat 64 addr) 0)
    let barred (b : Nat) : Prop := s.spGrant t.ctx ≤ b ∨ p.unitClaimed (b / 16384) = true
    let outside : Prop := ∃ k < n, barred (a + k)
    let bad (b : Nat) : Prop := ∃ w ∈ p.spoison, ∃ k < n, (b + k) / 8 = w
    (i = .lds g sext sz d x off ∨ i = .sts g sz d x off ∨ i = .satom g op sz d x off →
      (a % n ≠ 0 → traps 0x06 0) ∧ (a % n = 0 → outside → traps 0x05 0)) ∧
    (i = .lds g sext sz d x off → a % n = 0 → ¬ outside → bad a → traps 0x12 a) ∧
    (i = .sts g sz d x off ∨ i = .satom g op sz d x off → a % n = 0 → ¬ outside →
      (∀ k, s.poisonedSource t [d] = some k → traps 0x12 (64 + 8 * k)) ∧
      (s.poisonedSource t [d] = none → (n < 8 ∨ i ≠ .sts g sz d x off) → bad a → traps 0x12 a)) ∧
    (let a := s.localAddr v x off 6
     let at' (j : Nat) : Nat := (a + j) % 2 ^ 64
     let whole (w : Nat) : Prop := ∀ k < 8, ∃ j < 64, m.getLsbD j = true ∧ at' j = 8 * w + k
     let hit (j : Nat) : Prop := m.getLsbD j = true ∧ at' j / 8 ∈ p.spoison ∧ (i = .vsts g d x off → ¬ whole (at' j / 8))
     let out : Prop := ∃ j < 64, m.getLsbD j = true ∧ barred (at' j)
     i = .vlds g d x off ∨ i = .vsts g d x off →
      (a % 16 ≠ 0 → traps 0x06 0) ∧ (a % 16 = 0 → out → traps 0x05 0) ∧
      (∀ j < 64, a % 16 = 0 → ¬ out → hit j → (∀ k < j, ¬ hit k) → traps 0x12 (at' j))) ∧
    (let at' (j : Nat) : Nat := (a + lane (t.vec y) (8 * n) j * n) % 2 ^ 64
     let out : Prop := ∃ j < 64 / n, m.getLsbD j = true ∧ ∃ k < n, barred (at' j + k)
     let hit (j : Nat) : Prop := m.getLsbD j = true ∧ bad (at' j)
     i = .vgath g sz d x off y ∨ i = .vscat g sz d x off y →
      (a % n ≠ 0 → traps 0x06 0) ∧ (a % n = 0 → out → traps 0x05 0) ∧
      (∀ j < 64 / n, a % n = 0 → ¬ out → (i = .vscat g sz d x off y → n < 8) → hit j → (∀ k < j, ¬ hit k) → traps 0x12 (at' j))) ∧
    (∀ f, s.frame t.ref = some f →
      let a := s.localAddr v x off 6
      let hit (j : Nat) : Prop := m.getLsbD j = true ∧ f.poison.contains (a / 8 + j) = true
      (i = .ldf g d x off ∨ i = .stf g d x off →
        (a % 64 ≠ 0 → traps 0x06 0) ∧ (a % 64 = 0 → frameWords f.large ≤ a / 8 + 7 → traps 0x04 0)) ∧
      (∀ j < 8, i = .ldf g d x off → a % 64 = 0 → a / 8 + 7 < frameWords f.large → hit j → (∀ k < j, ¬ hit k) →
        traps 0x12 (64 + 8 * (a / 8 + j))))) ∧
  (∀ (s : State) (t : Threadlet) (g : Guard) (sz : Fin 7) (d x y : Operand) (off : BitVec 16),
    let i : Instr := .scpy g sz d x off y
    let n := (s.readOp (s.view t) y).toNat * 2 ^ sz.val
    let src := s.localAddr (s.view t) x off sz.val
    let dst := (s.readOp (s.view t) d).toNat
    let u := 2 ^ sz.val
    let p := s.part t.ctx t.ltn
    let traps (cause addr : Nat) : Prop := exec i s = .next (s.trapped t i cause 0 (BitVec.ofNat 64 addr) 0)
    let meets : Prop := (dst + 2 ^ 64 - src) % 2 ^ 64 < n ∨ (src + 2 ^ 64 - dst) % 2 ^ 64 < n
    let barred (b : Nat) : Prop := s.spGrant t.ctx ≤ b ∨ p.unitClaimed (b / 16384) = true
    let out : Prop := ∃ k < n, barred (src + k) ∨ barred (dst + k)
    let bad (b : Nat) : Prop := ∃ w ∈ p.spoison, ∃ k < n, (b + k) / 8 = w
    Executes s t i →
      (n = 0 → exec i s = .next (s.retired s.cur t.pc i t 0)) ∧
      (t.doneSteps = 0 → 0 < n → (4096 < n → traps 0x03 0) ∧
        (n ≤ 4096 → (meets → traps 0x03 0) ∧
          (¬ meets → (src % u ≠ 0 ∨ dst % u ≠ 0 → traps 0x06 0) ∧
            (src % u = 0 → dst % u = 0 → (out → traps 0x05 0) ∧
              (¬ out → (bad src → traps 0x12 src) ∧ (¬ bad src → u < 8 → bad dst → traps 0x12 dst)))))))

/-- For every form of GLD, GST, GLDV, GSTV, GATOM, GRED, ILD, IST, IRST and MWATCH: an instruction that executes and passes its own checks
adds exactly one request, with the address X + OFF * 2^SZ modulo 2^64, its operands as they read at issue, its order, scope, PC and
target, neither translated nor performed; the frame's OWC counts a write and a request without a target; the seat goes on at the next
word, and no byte of memory and no register is written. An IRST of 0 words adds one that is performed already and answered OK. Of every
form of these, one that finds all 48 entries of the core's table taken is not ready to issue: the state stays as it is. One that executes:
a GLDV with a slot target, or a GATOM.cas from frame words, one of whose words lies beyond the frame's size class (of a .cas none does:
its first is even, R222) traps with cause 0x04; else an address that is not a multiple of the size with 0x06; else a poisoned frame word
that it reads as its datum with cause 0x12 and the word's offset; else an IRST of more than 65,536 words with cause 0x03. The model's own
readings in it: the offset 64 + 8 k that the record of poison holds (notes/assumptions/8.md), the place of that check
(notes/assumptions/9.md), and that the count of an IRST is judged after it (notes/assumptions/74.md). -/
def Obligations.GlobalAccesses : Prop :=
  ((∀ (s : State) (t : Threadlet) (i : Instr) (a : AccessForm), Executes s t i → askedOf s (s.view t) i = some a → requestReady s (s.view t) i = true →
    exec i s = .next ((s.addReq (s.asked t i a)).retired s.cur t.pc i t 0)) ∧
  (∀ (s : State) (t : Threadlet) (i : Instr) (a : AccessForm) (g : Guard) (d x : Operand) (o : BitVec 16) (q : Target) (c : Scope) (r : MemOrder),
    i = .irst g d x o q c r → Executes s t i → askedOf s (s.view t) i = some a → a.va.toNat % 8 = 0 → s.poisonedSource t [d] = none →
    s.readOp (s.view t) d = 0 → exec i s = .next ((s.addReq ((s.asked t i a).answer .ok [])).retired s.cur t.pc i t 0))) ∧
  ((∀ (s : State) (t : Threadlet) (i : Instr) (a : AccessForm), s.seat s.cur = .run t → t.mid = none → askedOf s (s.view t) i = some a →
    s.entryFree s.cur = false → exec i s = .next s) ∧
  (∀ (s : State) (t : Threadlet) (i : Instr) (a : AccessForm) (n : Nat) (data : List Operand), Executes s t i → askedOf s (s.view t) i = some a →
    ((∃ g e z d x o q c r, i = .gld g e z d x o q c r ∧ n = 2 ^ z.val ∧ data = []) ∨ (∃ g d x o q c r, i = .gstv g d x o q c r ∧ n = 64 ∧ data = []) ∨
      (∃ g d x o q c r, i = .ild g d x o q c r ∧ n = 8 ∧ data = []) ∨ (∃ g d x o q c r, i = .gldv g d x o q c r ∧ n = 64 ∧ data = []) ∨
      (∃ g z d x o q c r, i = .gst g z d x o q c r ∧ n = 2 ^ z.val ∧ data = [d]) ∨
      (∃ g op z d x o q c r, i = .gatom g op z d x o q c r ∧ n = 2 ^ z.val ∧ data = if op = .cas then [d, nextReg d] else [d]) ∨
      (∃ g op z d x o q c r, i = .gred g op z d x o q c r ∧ n = 2 ^ z.val ∧ data = [d]) ∨
      (∃ g d x o q c r, i = .ist g d x o q c r ∧ n = 8 ∧ data = [d]) ∨ (∃ g d x o q c r, i = .irst g d x o q c r ∧ n = 8 ∧ data = [d]) ∨
      (∃ g z d x o q c r, i = .mwatch g z d x o q c r ∧ n = 2 ^ z.val ∧ data = [d])) →
    let size := frameWords ((s.frame t.ref).any (·.large))
    let long : Prop := ∃ g d x o q c r, i = .irst g d x o q c r ∧ 65536 < (s.readOp (s.view t) d).toNat
    let beyond : Prop := (∃ g d x o m c r, i = .gldv g d x o (.slot m) c r ∧ size ≤ wordIndex d + 7) ∨
      ∃ g z k x o q c r, i = .gatom g .cas z (.f k) x o q c r ∧ size ≤ k.val + 1
    (beyond → exec i s = .next (s.trapped t i 0x04 0 0 0)) ∧
    (¬ beyond → a.va.toNat % n ≠ 0 → exec i s = .next (s.trapped t i 0x06 0 0 0)) ∧
    (¬ beyond → a.va.toNat % n = 0 → (∀ k, s.poisonedSource t data = some k →
      exec i s = .next (s.trapped t i 0x12 0 (BitVec.ofNat 64 (64 + 8 * k)) 0))) ∧
    (a.va.toNat % n = 0 → s.poisonedSource t data = none → long → exec i s = .next (s.trapped t i 0x03 0 0 0))))

/-- The destination captured for a slot target n and word w is a valid continuation that names this package, the frame's tile, core, number
and tag, slot n and word w, with its MBZ bits zero; for a register target it is the register's value, and for T = 0x10 there is none. For
every 64-bit continuation, slot up to 7 and word up to 255: the continuation that CONT, SIG and a completion form has that slot and word
and every other bit, tag and MBZ bits among them, as before, but that V is set. -/
def Obligations.Continuations : Prop :=
  (∀ (s : State) (t : Threadlet) (n : Fin 8) (q : Fin 64) (w : Nat) (f : Frame), w < 256 → t.ltn < 4096 → t.core < 4 → t.frm < 256 →
    f.rtag < 2 ^ 15 → s.frame t.ref = some f →
    (∃ c, s.target t (.slot n) w = some c ∧ contV c = true ∧ contMbz c = 0 ∧ contPkg c = s.pkgSelf t.ctx ∧ contLtn c = t.ltn ∧
      contCore c = t.core ∧ contFrm c = t.frm ∧ contRtag c = f.rtag ∧ contSlot c = n.val ∧ contWord c = w) ∧
    s.target t (.reg q) w = some (s.readOp (s.view t) (.w q)) ∧ s.target t .nothing w = none) ∧
  (∀ (c : Word) (slot word j : Nat), slot < 8 → word < 256 → j < 64 →
    (contWith c slot word).getLsbD j =
      if j = 7 then true
      else if 31 ≤ j ∧ j < 34 then slot.testBit (j - 31)
      else if 8 ≤ j ∧ j < 16 then word.testBit (j - 8)
      else c.getLsbD j)

/-- When they execute: a FENCE adds a request that is answered OK at once where the frame's earlier accesses are done at its scope, and is
held behind them otherwise (an acquire waits for reads only); a PREF with an aligned address does nothing but move the PC, needs no table
entry; a DMA whose 64-byte record can be read and obeys its rules adds one request with the record's shape, and one whose record breaks a
rule is answered REFUSED and moves nothing. A STRM.open, .adv, .notify or .close of a window number up to 15 that executes (for .open,
whose 32-byte descriptor can be read) adds one request and applies it to the window at once, or holds it behind the frame's earlier
acquires that have not performed and, where it is a release, behind all its earlier accesses; a .adv counts as a write of the frame where
the latest .open of its number that the port has yet to see opens a write window, or, with none, where the window is one; a window number
above 15 traps with cause 0x03. The model's own readings in it: what makes a .adv count as a write (notes/assumptions/16.md), and the
window number of a .open judged first (notes/assumptions/79.md). -/
def Obligations.GlobalEngineRequests : Prop :=
  (∀ (s : State) (t : Threadlet) (g : Guard) (x : Operand) (sz : Fin 7) (off : BitVec 16) (q : Target) (sc : Scope) (o : MemOrder),
    let v := s.view t
    (∀ i, i = Instr.fence g q sc o → Executes s t i →
      let r : Req := s.asked t i ⟨.fence, 0, false, 0xFF, .relaxed, sc, q⟩
      let h0 := s.hold t.ref (decide (sc = .pod)) true (.fence r.id)
      let h : Held := if o = .acquire then { h0 with acks := [] } else h0
      let s1 := s.addReq r
      exec i s = .next ((if s1.heldReady h then s1.answer r.id .ok [] else { s1 with held := s1.held ++ [h] }).retired s.cur t.pc i t 0)) ∧
    (∀ i, i = Instr.pref g sz x off sc → Executes s t i → (s.globalAddr v x off sz.val).toNat % 2 ^ sz.val = 0 →
      exec i s = .next (s.retired s.cur t.pc i t 0)) ∧
    (∀ i, i = Instr.dma g x q sc o → Executes s t i →
      s.loadCheck v [] (s.readOp v x).toNat 64 64 = none →
      let record := (s.part t.ctx t.ltn).bytes (s.readOp v x).toNat 64
      (∀ sh, shapeOf record = some sh → s.shapeInReach t.ctx t.ltn sh = true →
        exec i s = .next ((s.addReq (s.asked t i ⟨.dma sh 0 0, BitVec.ofNat 64 sh.gaddr, sh.toGlobal, 0xFF, o, sc, q⟩)).retired s.cur t.pc i t 0)) ∧
      ((∀ sh, shapeOf record = some sh → s.shapeInReach t.ctx t.ltn sh = false) →
        exec i s = .next ((s.addReq ((s.asked t i ⟨.answered, s.readOp v x, false, 0xFF, o, sc, q⟩).answer .refused [])).retired s.cur t.pc i t 0)))) ∧
  (∀ (s : State) (t : Threadlet) (i : Instr) (g : Guard) (d x : Operand) (q : Target) (sc : Scope) (o : MemOrder),
    let v := s.view t
    let n := (s.readOp v d).toNat
    let port (r : Req) : State :=
      let rel := decide (o = .release ∨ o = .acqRel)
      let h0 := s.hold t.ref (decide (sc = .pod)) rel (.stream r.id)
      let h : Held := { h0 with acks := if rel then h0.acks else [], perf := h0.perf ++ s.acquiresOf t.ref r.rtag }
      let s1 := s.addReq r
      if s1.heldReady h then s1.applyStrm r.id else { s1 with held := s1.held ++ [h] }
    let opens : List Bool := s.reqs.filterMap fun r => match r.kind with
      | .openWin m desc =>
        if r.ref.ctx = t.ctx ∧ r.ref.ltn = t.ltn ∧ m = n ∧ r.performed = false then some (decide (le desc 26 1 = 1)) else none
      | _ => none
    let made (k : ReqKind) (va : Word) (write : Bool) : Prop :=
      exec i s = .next ((port (s.asked t i ⟨k, va, write, 0xFF, o, sc, q⟩)).retired s.cur t.pc i t 0)
    Executes s t i →
    ((i = .strmOpen g d x q sc o ∨ i = .strmAdv g d x q sc o ∨ i = .strmNotify g d x q sc o ∨ i = .strmClose g d q sc o) → 15 < n →
      exec i s = .next (s.trapped t i 0x03 0 0 0)) ∧
    (n ≤ 15 →
      (i = .strmOpen g d x q sc o → s.loadCheck v [] (s.readOp v x).toNat 32 32 = none →
        made (.openWin n ((s.part t.ctx t.ltn).bytes (s.readOp v x).toNat 32)) (s.readOp v x) false) ∧
      (i = .strmAdv g d x q sc o → made (.advWin n (s.readOp v x).toNat) 0 (opens.getLast?.getD ((s.window t.ctx t.ltn n).any (·.write)))) ∧
      (i = .strmNotify g d x q sc o → made (.notifyWin n (s.readOp v x).toNat) 0 false) ∧
      (i = .strmClose g d q sc o → made (.closeWin n) 0 false)))

/-- When they execute: FNEW adds a request, and either creates a frame of its class at once and answers with the new frame's continuation, or
waits among the core's waiting creations; FFREE of a resident frame with no armed or held work marks it pending and frees it at once where
nothing of it runs; SLOTI writes the slot's fields from Y, keeps its held firings and makes it due where it is armed with COUNT 0; SLOTA
adds the signed Y to COUNT, arms the slot and makes it due at zero. For a frame that is away the operation is sent to its image. The
model's own readings in it: what an operation on a frame that is away does there (notes/assumptions/36.md). -/
def Obligations.FrameInstructions : Prop :=
  ∀ (s : State) (t : Threadlet) (g : Guard) (large : Bool) (d x y : Operand) (q : Target),
    let v := s.view t
    let c := s.readOp v x
    let w := s.readOp v y
    (∀ i, i = Instr.fnew g large d q → Executes s t i →
      let r := s.ask t i (.fnew large) q (wordIndex d)
      let s1 := s.addReq r
      (∀ n s2, s1.createFrame t.ctx t.ltn t.core large = some (n, s2) →
        exec i s = .next ((s2.answer r.id .ok [some (s2.fpOf n)]).retired s.cur t.pc i t 0)) ∧
      (s1.createFrame t.ctx t.ltn t.core large = none →
        let p := s1.partCore t.ctx t.ltn t.core
        exec i s = .next ((s1.setPartCore t.ctx t.ltn t.core { p with waits := p.waits ++ [r.id] }).retired s.cur t.pc i t 0))) ∧
    (∀ n f, s.namedFrame v c = some (n, f) →
      (∀ i, i = Instr.ffree g x → Executes s t i →
        (f.st = .away → exec i s = .next ((s.sendImageOp v (firstWord i) n f.rtag (contSlot c) .ffree).retired s.cur t.pc i t 0)) ∧
        (f.st ≠ .away → f.pendingFree = true → exec i s = .next (s.retired s.cur t.pc i t 0)) ∧
        (f.st ≠ .away → f.pendingFree = false → f.badSlots = [] → f.busy ((s.partCore n.ctx n.ltn n.core).qn n.frm) = false → s.postedIn n = false →
          exec i s = .next (((s.setFrame n { f.touch with pendingFree := true }).settleFree n).retired s.cur t.pc i t 0))) ∧
      (f.pendingFree = false → ∀ i, i = Instr.sloti g x y → Executes s t i → w.toNat / 2 ^ 24 % 16 = 0 →
        (f.st = .away → exec i s = .next ((s.sendImageOp v (firstWord i) n f.rtag (contSlot c) (.sloti w)).retired s.cur t.pc i t 0)) ∧
        (f.st ≠ .away →
          let slot : Slot := ⟨w.toNat / 2 ^ 32, w.getLsbD 31, w.getLsbD 30, w.getLsbD 29, false, w.toNat / 2 ^ 12 % 4096, w.toNat % 4096,
            (f.touch.slot (contSlot c)).pn, 0, 0⟩
          let s1 := s.setFrame n { f.touch.setSlot (contSlot c) slot with badSlots := f.badSlots.filter (· != contSlot c) }
          exec i s = .next ((if w.getLsbD 31 = true ∧ w.toNat % 4096 = 0 then s1.due n (contSlot c) else s1).retired s.cur t.pc i t 0))) ∧
      (f.pendingFree = false → ∀ i, i = Instr.slota g x y → Executes s t i →
        let sum : Int := ((f.slot (contSlot c)).count : Int) + w.toInt
        (f.st = .away → exec i s = .next ((s.sendImageOp v (firstWord i) n f.rtag (contSlot c) (.slota w.toInt)).retired s.cur t.pc i t 0)) ∧
        (f.st ≠ .away → f.badSlots.contains (contSlot c) = false → 0 ≤ sum → sum ≤ 4095 →
          let s1 := s.setFrame n (f.touch.setSlot (contSlot c) { f.slot (contSlot c) with count := sum.toNat, armed := true })
          exec i s = .next ((if sum = 0 then s1.due n (contSlot c) else s1).retired s.cur t.pc i t 0))))

/-- When they execute: a continuation that is not valid, or does not name a frame with that tag on the issuing core, traps with cause 0x03; a
frame whose freeing is pending traps SLOTI and SLOTA with 0x22; FFREE of a resident frame with a slot that awaits signals or holds
firings, or with entries queued, traps with 0x22; SLOTI with Y[27:24] not zero traps with 0x02; SLOTA that leaves 0 to 4,095 traps with
0x03. Nothing is changed. -/
def Obligations.FrameInstructionTraps : Prop :=
  ∀ (s : State) (t : Threadlet) (i : Instr) (g : Guard) (x y : Operand), Executes s t i →
    let v := s.view t
    let c := s.readOp v x
    let w := s.readOp v y
    ((i = .ffree g x ∨ i = .sloti g x y ∨ i = .slota g x y) →
      (contV c = false ∨ contMbz c ≠ 0 ∨ contPkg c ≠ s.pkgSelf t.ctx ∨ contLtn c ≠ t.ltn ∨ contCore c ≠ t.core ∨
        (∀ f, s.frame ⟨t.ctx, t.ltn, t.core, contFrm c⟩ = some f → f.rtag ≠ contRtag c)) →
      exec i s = .next (s.trapped t i 0x03 0 0 0)) ∧
    (∀ n f, s.namedFrame v c = some (n, f) →
      ((i = .sloti g x y ∨ i = .slota g x y) → f.pendingFree = true → exec i s = .next (s.trapped t i 0x22 0 0 0)) ∧
      (i = .ffree g x → f.st ≠ .away → f.pendingFree = false → f.badSlots = [] →
        ((∃ e ∈ f.slots, e.2.count ≠ 0 ∨ e.2.pn ≠ 0) ∨ (∃ e ∈ (s.partCore n.ctx n.ltn n.core).ready, e.frm = n.frm)) →
        exec i s = .next (s.trapped t i 0x22 0 0 0)) ∧
      (i = .sloti g x y → f.pendingFree = false → w.toNat / 2 ^ 24 % 16 ≠ 0 → exec i s = .next (s.trapped t i 0x02 0 0 0)) ∧
      (i = .slota g x y → f.pendingFree = false → f.st ≠ .away → f.badSlots.contains (contSlot c) = false →
        (((f.slot (contSlot c)).count : Int) + w.toInt < 0 ∨ 4095 < ((f.slot (contSlot c)).count : Int) + w.toInt) →
        exec i s = .next (s.trapped t i 0x03 0 0 0)))

/-- When they execute: SIG and SIGD of a continuation with V = 0 do nothing, and of a good one deliver a signal with the status of FLAGS (SIG
with no datum and WORD 0xFF, SIGD with Y), or hold it, with release, behind the frame's earlier accesses; CONT writes X with another slot
and word; SPAWN reads its eight frame words as they stood when it was issued, adds a request and sends the record to its target, or is
answered REFUSED where the target word or the record is bad; LAUNCH of a 64-byte aligned packet adds a request that leaves when the
frame's earlier writes are done. -/
def Obligations.SignalsAndTasks : Prop :=
  ∀ (s : State) (t : Threadlet) (g : Guard) (st : Status) (rel : Bool) (d x y z : Operand) (q : Target),
    let v := s.view t
    let c := s.readOp v x
    let send (c : Word) (datum : Datum) : State :=
      let h := s.hold t.ref (s.relPod t.ctx c) true (.signal c datum (statusCode st))
      if rel = true ∧ s.heldReady h = false then { s with held := s.held ++ [h] } else s.deliver s.cur.ptn t.ctx c datum (statusCode st)
    (∀ i, i = Instr.sig g st rel x → Executes s t i →
      (contV c = false → exec i s = .next (s.retired s.cur t.pc i t 0)) ∧
      (contV c = true → contMbz c = 0 → exec i s = .next ((send (contWith c (contSlot c) 0xFF) []).retired s.cur t.pc i t 0))) ∧
    (∀ i, i = Instr.sigd g st rel x y → Executes s t i →
      (contV c = false → exec i s = .next (s.retired s.cur t.pc i t 0)) ∧
      (contV c = true → contMbz c = 0 → exec i s = .next ((send c [some (s.readOp v y)]).retired s.cur t.pc i t 0))) ∧
    (∀ i, i = Instr.cont g d x y z → Executes s t i → contV c = true → contMbz c = 0 → (s.readOp v y).toNat ≤ 7 →
      ((s.readOp v z).toNat ≤ 119 ∨ (s.readOp v z).toNat = 0xFF) →
      let r := contWith c (s.readOp v y).toNat (s.readOp v z).toNat
      exec i s = .next ((writeOp s t d r).1.retired s.cur t.pc i (writeOp s t d r).2 0)) ∧
    (∀ i n f, i = Instr.spawn g x y q → x = .f n → Executes s t i → (s.frame t.ref).map t.asIssued = some f → n.val + 7 < frameWords f.large →
      (∀ k < 8, f.poison.contains (n.val + k) = false) → s.poisonedSource t [y] = none →
      let task : Task := (List.range 8).map fun k => f.word (n.val + k)
      let r := s.ask t i (.spawn task) q 0xFF
      let s1 := s.addReq r
      exec i s = .next ((match s1.spawnTarget v (s1.readOp v y), taskOk task with
        | some (ltn, core, any), true => s1.send (.spawn t.ctx ltn core any task r.id)
        | _, _ => s1.answer r.id .refused []).retired s.cur t.pc i t 0)) ∧
    (∀ i, i = Instr.launch g x y q → Executes s t i → c.toNat % 64 = 0 →
      let r : Req := s.asked t i ⟨.launch (s.readOp v y).toNat false, c, false, 0xFF, .relaxed, .package, q⟩
      let h := s.hold t.ref false false (.launch r.id)
      let s1 := s.addReq r
      exec i s = .next ((if s1.heldReady h then s1 else { s1 with held := s1.held ++ [h] }).retired s.cur t.pc i t 0))

/-- When they execute: BAR and ARED make the tile's arrival (ARED with X at its type), numbered by the tile's own count; KEND ends the
threadlet as END does and, the first time on the tile, ends the tile's part of the kernel; TIDX of 0 to 9 writes the logical fact of R187
and of any other value traps with cause 0x03. An arrival of a tile that has not executed KEND: with fewer than 16 outstanding of its kind
it takes the next number of its kind, and its request is added under that number; with 16 outstanding it is answered REFUSED at once, the
tile keeps its count and no arrival is sent. The model's own readings in it: which waits end with a tile (notes/assumptions/18.md). -/
def Obligations.BarrierInstructions : Prop :=
  (∀ (s : State) (t : Threadlet) (g : Guard) (op : RedOp) (ty : Ty) (d x : Operand) (q : Target),
    let v := s.view t
    (∀ i, i = Instr.bar g q → Executes s t i →
      exec i s = .next ((s.arriveBar v (s.ask t i (.bar 0) q 0xFF) false .bar).retired s.cur t.pc i t 0)) ∧
    (∀ i, i = Instr.ared g op ty d x q → Executes s t i →
      let value := (s.readOp v x).toNat % 2 ^ ty.width
      exec i s = .next ((s.arriveBar v (s.ask t i (.ared 0 op ty value) q (wordIndex d)) true fun n => .ared n op ty value).retired s.cur
        t.pc i t 0)) ∧
    (∀ i, i = Instr.kend g → Executes s t i → t.badFlags = false →
      let s1 := s.endThreadlet v
      exec i s = .next (if (s1.part t.ctx t.ltn).ended then s1.finishPart t.ctx t.ltn
        else ((s1.startEnd t.ctx t.ltn).pumpBars t.ctx).finishPart t.ctx t.ltn)) ∧
    (∀ i k, i = Instr.tidx g d x → Executes s t i → s.kernel t.ctx = some k →
      let facts : List Nat := [t.ltn, t.ltn % k.width, t.ltn / k.width, k.width, k.height, k.width * k.height, s.pkgSelf t.ctx, k.npk + 1, k.steal,
        if (s.frame t.ref).any (·.large) then 1 else 0]
      (∀ n, facts[(s.readOp v x).toNat]? = some n →
        exec i s = .next ((writeOp s t d (BitVec.ofNat 64 n)).1.retired s.cur t.pc i (writeOp s t d (BitVec.ofNat 64 n)).2 0)) ∧
      (facts[(s.readOp v x).toNat]? = none → exec i s = .next (s.trapped t i 0x03 0 0 0)))) ∧
  (∀ (s : State) (t : Threadlet) (q : Req) (ared : Bool) (kind : Nat → ReqKind), q.ref = t.ref → q.counted = false →
    (s.part t.ctx t.ltn).ended = false →
    let n := (s.part t.ctx t.ltn).issued ared
    let s' := s.arriveBar (s.view t) q ared kind
    (s.barsOut t.ctx t.ltn ared < 16 → (s'.part t.ctx t.ltn).issued ared = n + 1 ∧ s'.reqs = s.reqs ++ [{ q with kind := kind (n + 1) }]) ∧
    (16 ≤ s.barsOut t.ctx t.ltn ared → (s'.part t.ctx t.ltn).issued ared = n ∧ s'.net = s.net ∧ s'.out = s.out ∧ s'.held = s.held ∧
      (∀ r ∈ s'.reqs, r.id = q.id → r.status = .refused ∧ r.performed = true)))

/-- On a port up to 63 that is bound in the instruction's role, when the instruction executes: CHSEND and CHSENDM of 1 to 8 frame words, none
of them poisoned, or of an aligned block of 64 to 4,096 bytes in reach, read their words at issue and post the send (held, with release,
behind the frame's earlier writes); CHRECV of words, of a block or into the Anvil's latch posts the receive. Each adds one request that
takes no entry of the core's table; the seat goes on. -/
def Obligations.ChannelSendReceive : Prop :=
  ∀ (s : State) (t : Threadlet) (g : Guard) (rel : Bool) (x y z : Operand) (q : Target) (i : Instr), Executes s t i →
    let v := s.view t
    let n := (s.readOp v x).toNat
    let a := (s.readOp v y).toNat
    let k := (s.readOp v z).toNat
    let p := s.port t.ctx t.ltn n
    let inFrame : Prop := 1 ≤ k ∧ k ≤ 8 ∧ wordIndex y + k ≤ frameWords ((s.frame t.ref).any (·.large))
    let block : Prop := 64 ≤ k ∧ k ≤ 4096 ∧ k % 64 = 0 ∧ a % 64 = 0 ∧ s.rangeOk t.ctx t.ltn a k = true
    let dest := s.target t q 0xFF
    n ≤ 63 → p.bound = true →
    (p.send = true → ∀ multi : Bool,
      (∀ f, i = (if multi then .chsendm g .words rel x y z q else .chsend g .words rel x y z q) → (s.frame t.ref).map t.asIssued = some f → inFrame →
        (∀ j < k, f.poison.contains (wordIndex y + j) = false) →
        exec i s = .next ((s.issueSend v (firstWord i) dest n (.sendWords ((List.range k).map fun j => f.word (wordIndex y + j))) rel multi).retired
          s.cur t.pc i t 0)) ∧
      (i = (if multi then .chsendm g .spad rel x y z q else .chsend g .spad rel x y z q) → block →
        exec i s = .next ((s.issueSend v (firstWord i) dest n (.sendBlock a k) rel multi).retired s.cur t.pc i t 0))) ∧
    (p.send = false →
      (i = .chrecv g .words x y z q → inFrame →
        exec i s = .next ((s.issueRecv v (firstWord i) dest n (.recvWords (wordIndex y) k)).retired s.cur t.pc i t 0)) ∧
      (i = .chrecv g .spad x y z q → block →
        exec i s = .next ((s.issueRecv v (firstWord i) dest n (.recvBlock a k)).retired s.cur t.pc i t 0)) ∧
      (i = .chrecv g .latch x y z q →
        exec i s = .next ((s.issueRecv v (firstWord i) dest n (.recvLatch false)).retired s.cur t.pc i t 0)))

/-- When CHSEND, CHSENDM, CHRECV, CHCAN or CHTEST executes: a port number above 63 traps with cause 0x03, and a port that is not bound, or for
a send or receive not bound in that role, with cause 0x21. When CHSEL executes: a port of its set that is not bound as RECV traps with
cause 0x21; else a count outside 1 to 8 with cause 0x03, and words beyond the frame's size class with cause 0x04. A CHBIND that executes,
whose word has an MBZ bit, SLTN or SPKG not zero, or names OP 3 or a SPORT of the wrong state, or for OP 0 and 1 a tile outside the
rectangle or the issuing tile itself, completes REFUSED. On a port bound in the role: a count of .words outside 1 to 8, or a size of .spad
outside 64 to 4,096 or no multiple of 64, traps with cause 0x03; else an address of .spad that is no multiple of 64 with 0x06; else bytes
out of reach with 0x05, and words beyond the frame's size class with 0x04; else a poisoned word to be sent with 0x12 and its offset. No
operation is posted. Every instruction of opcodes 0xC0 to 0xC7 that executes in a context whose kernel has no Anvil grant traps with cause
0x03; its command does not enter the queue. When PHINS, PHPRB, PHDEL or PHACC executes: a table number above 3 traps with cause 0x03; else
the empty key in an active lane traps with cause 0x19; else, with a slot target, result words beyond the frame's size class trap with
cause 0x04. Nothing enters the port. The model's own readings in it: the offset that the record of poison holds (notes/assumptions/8.md),
the place of the poison check (notes/assumptions/9.md), and which binds are refused (notes/assumptions/73.md, 86.md, 87.md). -/
def Obligations.EngineChecks : Prop :=
  (∀ (s : State) (t : Threadlet) (g : Guard) (sk : SendKind) (rk : RecvKind) (rel : Bool) (d x y z : Operand) (q : Target) (i : Instr),
    Executes s t i →
    let n := (s.readOp (s.view t) x).toNat
    let p := s.port t.ctx t.ltn n
    (i = .chsend g sk rel x y z q ∨ i = .chsendm g sk rel x y z q ∨ i = .chrecv g rk x y z q ∨ i = .chcan g x ∨ i = .chtest g d x q →
      (63 < n → exec i s = .next (s.trapped t i 0x03 0 0 0)) ∧
      (n ≤ 63 → p.bound = false → exec i s = .next (s.trapped t i 0x21 0 0 0))) ∧
    (n ≤ 63 → (i = .chsend g sk rel x y z q ∨ i = .chsendm g sk rel x y z q) → p.send = false → exec i s = .next (s.trapped t i 0x21 0 0 0)) ∧
    (n ≤ 63 → i = .chrecv g rk x y z q → p.send = true → exec i s = .next (s.trapped t i 0x21 0 0 0)) ∧
    (∀ rot, i = .chsel g rot d x y z q →
      let inSet (j : Nat) : Prop := (s.readOp (s.view t) x).getLsbD j = true ∧ (s.readOp (s.view t) y).getLsbD j = true
      let receives (j : Nat) : Prop := (s.port t.ctx t.ltn j).bound = true ∧ (s.port t.ctx t.ltn j).send = false
      let k := (s.readOp (s.view t) z).toNat
      let allGood : Prop := ∀ j < 64, inSet j → receives j
      (∀ j < 64, inSet j → ¬ receives j → exec i s = .next (s.trapped t i 0x21 0 0 0)) ∧
      (allGood → (k < 1 ∨ 8 < k) → exec i s = .next (s.trapped t i 0x03 0 0 0)) ∧
      (allGood → 1 ≤ k → k ≤ 8 → frameWords ((s.frame t.ref).any (·.large)) < wordIndex d + k + 1 →
        exec i s = .next (s.trapped t i 0x04 0 0 0))) ∧
    (i = .chbind g x q →
      let w := s.readOp (s.view t) x
      let sp := s.port t.ctx t.ltn (bindSport w)
      let ltns := ((s.kernel t.ctx).map (·.area)).getD 0
      let fields : Prop := w &&& 0x00000000C0C000FC ≠ 0 ∨ bindSltn w ≠ 0 ∨ bindSpkg w ≠ 0 ∨ bindOp w = 3
      let sender : Prop := bindOp w = 0 ∧ sp.bound = true ∨ (bindOp w = 1 ∨ bindOp w = 2) ∧ (sp.bound = false ∨ sp.send = false ∨ sp.op ≠ none) ∨
        bindOp w = 1 ∧ 16 ≤ sp.members.length
      let tile : Prop := (bindOp w = 0 ∨ bindOp w = 1) ∧
        (ltns ≤ bindRltn w ∨ bindRltn w = t.ltn ∧ bindRpkg w = s.pkgSelf t.ctx)
      ((fields ∨ sender ∨ tile) → ∃ k,
        exec i s = .next (((s.addReq (s.ask t i (.chbind w k) q 0xFF)).answer s.nextId .refused []).retired s.cur t.pc i t 0))) ∧
    (let a := (s.readOp (s.view t) y).toNat
     let k := (s.readOp (s.view t) z).toNat
     let words : Prop := (i = .chsend g .words rel x y z q ∨ i = .chsendm g .words rel x y z q) ∧ p.send = true ∨
       i = .chrecv g .words x y z q ∧ p.send = false
     let spad : Prop := (i = .chsend g .spad rel x y z q ∨ i = .chsendm g .spad rel x y z q) ∧ p.send = true ∨
       i = .chrecv g .spad x y z q ∧ p.send = false
     let size := frameWords ((s.frame t.ref).any (·.large))
     let traps (cause : Nat) : Prop := exec i s = .next (s.trapped t i cause 0 0 0)
     n ≤ 63 → p.bound = true →
      (words → (k < 1 ∨ 8 < k → traps 0x03) ∧ (1 ≤ k → k ≤ 8 → size < wordIndex y + k → traps 0x04)) ∧
      (∀ f j, (i = .chsend g .words rel x y z q ∨ i = .chsendm g .words rel x y z q) → p.send = true → 1 ≤ k → k ≤ 8 → wordIndex y + k ≤ size →
        (s.frame t.ref).map t.asIssued = some f → j < k → f.poison.contains (wordIndex y + j) = true →
        (∀ m < j, f.poison.contains (wordIndex y + m) = false) →
        exec i s = .next (s.trapped t i 0x12 0 (BitVec.ofNat 64 (64 + 8 * (wordIndex y + j))) 0)) ∧
      (spad → (k < 64 ∨ 4096 < k ∨ k % 64 ≠ 0 → traps 0x03) ∧ (64 ≤ k → k ≤ 4096 → k % 64 = 0 → (a % 64 ≠ 0 → traps 0x06) ∧
        (a % 64 = 0 → (∃ b < k, s.spGrant t.ctx ≤ a + b ∨ (s.part t.ctx t.ltn).unitClaimed ((a + b) / 16384) = true) → traps 0x05))))) ∧
  (∀ (s : State) (t : Threadlet) (i : Instr), Executes s t i → (anvilAsk s (s.view t) i).isSome = true →
    s.anvilGrant t.ctx = false → exec i s = .next (s.trapped t i 0x03 0 0 0)) ∧
  (∀ (s : State) (t : Threadlet) (g : Guard) (vec : Bool) (ak : AccKind) (d x y z : Operand) (q : Target) (i : Instr), Executes s t i →
    (i = .phins g vec d x y z q ∨ i = .phprb g vec d x y q ∨ i = .phdel g vec d x y q ∨ i = .phacc g vec ak d x y z q) →
    let v := s.view t
    let n := (s.readOp v x).toNat
    let empty : Prop := if vec then ∃ j < 8, (t.guardMask g).getLsbD j = true ∧ lane (t.vec y) 64 j = emptyKey else (s.readOp v y).toNat = emptyKey
    let short : Prop := (∃ m, q = .slot m) ∧ frameWords ((s.frame t.ref).any (·.large)) < wordIndex d + (if vec then 9 else 2)
    (3 < n → exec i s = .next (s.trapped t i 0x03 0 0 0)) ∧
    (n ≤ 3 → empty → exec i s = .next (s.trapped t i 0x19 0 0 0)) ∧
    (n ≤ 3 → ¬ empty → short → exec i s = .next (s.trapped t i 0x04 0 0 0)))

/-- When they execute: CHSEL of the ports whose bits are set in X and in Y, all bound as RECV, with 1 to 8 words and one more in the frame
from D, posts one select over them, and of an empty set, or with a port that holds an operation, is answered REFUSED at once; CHTEST of a
bound port is answered with the snapshot by a SEND port and asks the sender from a RECV port; CHBIND asks every receiving tile of a
permitted bind, and is answered REFUSED otherwise; CHCAN of a bound port withdraws the operation posted on it. The model's own readings in
it: that a group which is being unbound takes no bind (notes/assumptions/73.md), a package to which no port is usable
(notes/assumptions/86.md), and a held send that counts as posted (notes/assumptions/87.md). -/
def Obligations.ChannelSelectBindTest : Prop :=
  ∀ (s : State) (t : Threadlet) (g : Guard) (rot : Bool) (d x y z : Operand) (q : Target),
    let v := s.view t
    let n := (s.readOp v x).toNat
    let p := s.port t.ctx t.ltn n
    (∀ i, i = Instr.chsel g rot d x y z q → Executes s t i →
      let ports := (List.range 64).filter fun j => (s.readOp v x).getLsbD j && (s.readOp v y).getLsbD j
      let k := (s.readOp v z).toNat
      (∀ j ∈ ports, (s.port t.ctx t.ltn j).bound = true ∧ (s.port t.ctx t.ltn j).send = false) → 1 ≤ k → k ≤ 8 →
      wordIndex d + k + 1 ≤ frameWords ((s.frame t.ref).any (·.large)) →
      let sel : Select := ⟨s.nextId, t.ref, s.rtagOf t.ref, wordIndex d, k, rot, ports, none, [], none⟩
      let s1 := s.addReq (s.chanReq v (firstWord i) (s.target t q 0xFF) (ports.headD 0))
      exec i s = .next (((s1.postSelect t.ctx t.ltn sel (s.chanOp v (.select s.nextId) false)).engines t.ctx t.ltn).retired s.cur t.pc i t 0) ∧
      ((ports = [] ∨ ∃ j ∈ ports, (s.port t.ctx t.ltn j).op ≠ none) → ∀ r, s1.req s.nextId = some r →
        exec i s = .next (((s1.finish (r.answer .refused [])).engines t.ctx t.ltn).retired s.cur t.pc i t 0))) ∧
    (∀ i, i = Instr.chtest g d x q → Executes s t i → n ≤ 63 → p.bound = true →
      let s1 := s.addReq (s.ask t i (.chtest n) q (wordIndex d))
      (p.send = true → exec i s = .next ((s1.answer s.nextId .ok [some (sendSnapshot p)]).retired s.cur t.pc i t 0)) ∧
      (∀ m l, p.send = false → p.members = m :: l →
        exec i s = .next ((s1.chSend ⟨t.ctx, s1.portRef t.ctx t.ltn n, m, .test s.nextId⟩).retired s.cur t.pc i t 0))) ∧
    (∀ i, i = Instr.chbind g x q → Executes s t i →
      let w := s.readOp v x
      let dests := if bindOp w = 2 then (s.port t.ctx t.ltn (bindSport w)).members else [⟨bindRpkg w, bindRltn w, bindRport w⟩]
      let s1 := s.addReq (s.ask t i (.chbind w dests.length) q 0xFF)
      (s.bindAllowed v w = false → exec i s = .next ((s1.answer s.nextId .refused []).retired s.cur t.pc i t 0)) ∧
      (s.bindAllowed v w = true → exec i s = .next ((dests.foldl (fun u m =>
        u.chSend ⟨t.ctx, u.portRef t.ctx t.ltn (bindSport w), m, .bind s.nextId (decide (bindOp w = 2))⟩) s1).retired s.cur t.pc i t 0))) ∧
    (∀ i, i = Instr.chcan g x → Executes s t i → n ≤ 63 → p.bound = true →
      exec i s = .next (((s.withdrawPort t.ctx t.ltn n .cancelled).engines t.ctx t.ltn).retired s.cur t.pc i t 0))

/-- For every form of MCFG, MLDA, MLDB, MRUN, MZERO, MDRN, MSTEER and MSTAT: with 16 commands in the queue it is not ready to issue and the
state stays. One that executes in a context with the Anvil's grant and passes its own checks: its command enters at the end of the queue
with its operands as read at issue, under the name of its request, which one that completes adds. -/
def Obligations.AnvilInstructions : Prop :=
  ∀ (s : State) (t : Threadlet) (i : Instr) (asks : Bool) (q : Target) (w : Nat) (c : Nat → Cmd),
    anvilAsk s (s.view t) i = some (asks, q, w, c) →
    (s.seat s.cur = .run t → t.mid = none → 16 ≤ (s.anvil t.ctx t.ltn).places → exec i s = .next s) ∧
    (Executes s t i → s.anvilGrant t.ctx = true → anvilReady s (s.view t) i = true →
      (asks = false → exec i s = .next ((s.command (s.view t) (c 0)).retired s.cur t.pc i t 0)) ∧
      (asks = true →
      exec i s = .next (((s.addReq (s.ask t i .anvil q w)).command (s.view t) (c s.nextId)).retired s.cur t.pc i t 0)))

/-- For every form of PHCLAIM, PHINS, PHPRB, PHDEL, PHACC, PHDRN, PHRLS and PHSTAT that executes and passes its own checks: it adds one
request and enters the table port at the end, with its keys and values lane by lane as read at issue (lane 0 in the scalar form, the
active lanes in the vector form); the frame's OWC counts it where it has no target or works on a table with TRP = 1. -/
def Obligations.PigeonholeInstructions : Prop :=
  ∀ (s : State) (t : Threadlet) (i : Instr) (n : Nat) (vec : Bool) (b : PhBody) (q : Target) (w : Nat), Executes s t i →
    pigeonAsk s (s.view t) i = some (n, vec, b, q, w) → pigeonReady s (s.view t) i = true →
    let r0 := s.ask t i (.pigeon b.span) q w
    let r : Req := { r0 with counted := r0.counted || s.trpOf t.ctx t.ltn n (s.part t.ctx t.ltn).phq }
    let s1 := s.addReq r
    exec i s = .next (((s1.setPhq t.ctx t.ltn ((s1.part t.ctx t.ltn).phq ++ [⟨r.id, n, vec, b⟩])).engines t.ctx t.ltn).retired s.cur t.pc i t 0)

/-- When they execute with their operands in range: SYSR of a selector that exists and may be read adds its request and reads the register;
SYSW of a selector and a value that pass their checks adds a request that takes effect at the register; FRES resumes, skips or kills from
its trap entry; TLBI drops the named translations; TMAP holds or releases the tile that TSEL names and answers with the state before, or
is REFUSED where TSEL names none; EVICT.save and .restore start moving the named tile, or are REFUSED; DLOCTL sets the context's mode and
is answered OK; HALT halts the package with its code and ends the threadlet. FRES reads its entry: one whose CAUSE is 0, 0x40 or above, or
a deadlock record's, or whose frame is not PARKED or has another RTAG, is REFUSED; else CAUSE becomes 0, and .kill disarms the frame's
slots, drops its ready entries and makes it pending free, while .retry and .skip enqueue the saved threadlet, at PC or past the
instruction, ahead of the frame's other entries in its class, and lower NT, at 0 the frame LIVE again. TLBI drops what it names and is
answered OK once every request that translated through it has performed, its writes acknowledged at pod scope. A save makes the tile
MOVING and its seats SAVE, waits until it is still, writes the 2 MiB image, and leaves it AWAY with its part's deque records. A restore
takes the tile that TSEL names, or the first that fits, once the image stands as written, replays the kept packets, and puts the stopped
threadlets first, the saved entries behind them. The model's own readings in it: how a tile image lies (notes/assumptions/19.md), a
lasting halt (notes/assumptions/23.md), when a SYSR reads, what a TLBI waits for, how a save or restore ends, which records FRES refuses
(notes/assumptions/29.md, 30.md, 35.md, 43.md), late entries (notes/assumptions/52.md), stops (notes/assumptions/64.md, 65.md), windows
(notes/assumptions/76.md). -/
def Obligations.SystemInstructions : Prop :=
  (∀ (s : State) (t : Threadlet) (g : Guard) (fk : FresKind) (tk : TlbiKind) (d x y : Operand) (q : Target),
    let v := s.view t
    let a := s.readOp v x
    let b := s.readOp v y
    let made (i : Instr) (k : ReqKind) (w : Nat) : Req := s.asked t i ⟨k, 0, false, w, .relaxed, .frame, q⟩
    (∀ i, i = Instr.halt g x → Executes s t i → t.badFlags = false → a.toNat < 0xFFFF0000 →
      exec i s = .next (((s.haltWith (a.setWidth 32)).endThreadlet v).finishPart t.ctx t.ltn)) ∧
    (∀ i, i = Instr.sysr g d x q → Executes s t i → s.readCause t.ctx a = none →
      exec i s = .next (((s.addReq (made i (.sysr a) (wordIndex d))).readSys s.nextId).retired s.cur t.pc i t 0)) ∧
    (∀ i, i = Instr.sysw g x y q → Executes s t i → s.writeCause a b = none →
      exec i s = .next ((s.addReq (made i (.sysw a b) 0xFF)).retired s.cur t.pc i t 0)) ∧
    (∀ i, i = Instr.fres g fk x y q → Executes s t i → a.toNat ≤ 63 → b.toNat < 2 ^ 32 →
      exec i s = .next (((s.addReq (made i (.fres fk a.toNat b.toNat) 0xFF)).fresStep s.nextId).retired s.cur t.pc i t 0)) ∧
    (∀ i, i = Instr.tlbi g tk x y q → Executes s t i → (tk = .all ∨ a.toNat ≤ 63) →
      exec i s = .next (((s.addReq (made i (.tlbi []) 0xFF)).tlbiStart (made i (.tlbi []) 0xFF) tk a.toNat b.toNat).retired s.cur t.pc i t 0)) ∧
    (∀ i, i = Instr.tmap g d x q → Executes s t i → a.toNat ≤ 1 →
      let tsel := (s.ctx t.ctx).tsel
      let n := tsel.toNat % 2 ^ 13
      let before : Word := BitVec.ofNat 64 ((if (s.tile n).hold then 1 else 0) + (s.ctxsOn n).length % 8 * 2 ^ 8)
      (tsel.getLsbD 63 = false →
        exec i s = .next ((s.addReq ((made i .answered (wordIndex d)).done .refused [])).retired s.cur t.pc i t 0)) ∧
      (tsel.getLsbD 63 = true →
        let s1 := s.addReq ((made i .answered (wordIndex d)).done .ok [some before])
        exec i s = .next ((s1.setTile n { s1.tile n with hold := decide (a = 0) }).retired s.cur t.pc i t 0))) ∧
    (∀ i, i = Instr.evictSave g x q → Executes s t i → a.toNat < 2 ^ 18 →
      let r := made i (.evict (tileCtx a) (tileLtn a)) 0xFF
      let no := s.evictRefused (tileCtx a) (tileLtn a) .resident || (decide (tileCtx a = t.ctx) && decide (tileLtn a = t.ltn))
      (no = true → exec i s = .next ((s.addReq (r.done .refused [])).retired s.cur t.pc i t 0)) ∧
      (no = false → let s1 := s.addReq r
        exec i s = .next (((s1.stopTile (tileCtx a) (tileLtn a) (s1.homePtn (tileCtx a) (tileLtn a))).evictStep s.nextId).retired s.cur t.pc i t 0))) ∧
    (∀ i, i = Instr.evictRestore g x q → Executes s t i → a.toNat < 2 ^ 18 →
      let r := made i (.restore (tileCtx a) (tileLtn a) (s.ctx t.ctx).tsel) 0xFF
      let no := s.evictRefused (tileCtx a) (tileLtn a) .away
      (no = true → exec i s = .next ((s.addReq (r.done .refused [])).retired s.cur t.pc i t 0)) ∧
      (no = false → exec i s = .next (((s.addReq r).restoreStep s.nextId).retired s.cur t.pc i t 0))) ∧
    (∀ i, i = Instr.dloctl g x y q → Executes s t i → a.toNat ≤ 63 → b.toNat ≤ 2 →
      let s1 := s.addReq ((made i .answered 0xFF).done .ok [])
      exec i s = .next ((s1.setCtx a.toNat { s1.ctx a.toNat with dlm := b.toNat }).retired s.cur t.pc i t 0))) ∧
  (∀ (s : State) (id : Nat) (q : Req), s.req id = some q →
    (∀ (fk : FresKind) (c n : Nat) (bs : List Byte), q.kind = .fres fk c n →
      let d := s.reqDev c q
      let a := s.trapEntry c n
      let num (o k : Nat) : Nat := ofLeBytes ((bs.drop o).take k)
      let cont : Word := BitVec.ofNat 64 (num 8 8)
      let r : FrameRef := ⟨c, contLtn cont, contCore cont, contFrm cont⟩
      let kept := (Tab.find (s.ctx c).saved (n % s.trapSize c)).filter fun k => decide (k.ref = r) && decide (k.rtag = contRtag cont)
      let good : Prop := num 0 1 ≠ 0 ∧ num 0 1 < 0x40 ∧ ¬ (num 0 1 = 0x20 ∧ num 4 4 ≠ 0) ∧
        (∃ f, s.frame r = some f ∧ f.st = .parked ∧ f.rtag = contRtag cont ∧ f.nt ≠ 0) ∧ (∀ k, kept = some k → k.dead = false) ∧ recordMbz bs = true
      s.devRead d a 4096 = .ok bs →
      (¬ good → s.fresStep id = (s.devDone d a 4096).answer id .refused []) ∧
      (∀ s1, good → s.devWrite d a [0] = .ok s1 →
        let s2 := s1.devDone d a 4096
        let shut (u : State) : State := ((u.closeTrap r).settleCore r.ctx r.ltn r.core).answer id .ok []
        let image := threadOfImage r (bs.drop 512)
        let pc : Word := if fk = .skip then BitVec.ofNat 64 (num 16 8 + (if num 24 8 / 2 ^ 56 = 0x3B then 16 else 8)) else image.pc
        let sig := (kept.map (·.sig)).getD image.sig
        let cls := (kept.map (·.cls)).getD (readyClass (s2.ctx c).cls false)
        (fk = .kill → s.fresStep id = (s2.killFrame r).answer id .ok []) ∧
        (fk ≠ .kill → num 2 1 % 2 = 0 → s.fresStep id = shut s2) ∧
        (fk ≠ .kill → num 2 1 % 2 = 1 → s.fresStep id =
          shut (s2.pushLate r ⟨r.frm, sig.toNat % 8, 0, sig, cls, some { image with pc := pc, sig := sig, cls := cls }, false⟩)))) ∧
    (∀ (r : FrameRef) (f : Frame), s.frame r = some f →
      let core := s.partCore r.ctx r.ltn r.core
      let dead : Frame := { f with slots := f.slots.map fun e => (e.1, { e.2 with armed := false, pn := 0 }), nt := 0, pendingFree := true, ovf := false }
      let shut : Frame := if f.nt ≤ 1 ∧ f.st = .parked then { f with nt := 0, st := .live, ovf := f.slots.any fun e => e.2.pn ≠ 0 } else { f with nt := f.nt - 1 }
      s.killFrame r = ((((s.setPartCore r.ctx r.ltn r.core { core with
        ready := core.ready.filter fun e => e.frm ≠ r.frm, late := core.late.filter fun e => e.frm ≠ r.frm }).deadRecords r).setFrame r dead).settleFree r) ∧
      s.closeTrap r = ((s.setFrame r shut).settleFree r).dloAgain r.ctx r.ltn) ∧
    (∀ (l : List Ready) (e : Ready), ∃ l1 l2, l = l1 ++ l2 ∧ insertResume l e = l1 ++ e :: l2 ∧ (∀ x ∈ l1, x.frm ≠ e.frm ∨ x.cls ≠ e.cls) ∧
      ∀ x, l2.head? = some x → x.frm = e.frm ∧ x.cls = e.cls) ∧
    (∀ (kind : TlbiKind) (c va : Nat),
      let drop (e : TlbEntry) : Prop := kind = .all ∨ (e.ctx = c ∧ (kind = .ctx ∨ (e.base ≤ va ∧ va < e.base + 2 ^ e.size)))
      let used (r : Req) : Prop := r ∈ s.reqs ∧ r.phys.isSome = true ∧
        ∃ e ∈ s.tlb, drop e ∧ e.ctx = r.ref.ctx ∧ e.base ≤ r.curVa ∧ r.curVa < e.base + 2 ^ e.size
      ∃ (t : State) (h : Held), s.tlbiStart q kind c va = t.releaseHeld ∧ (∀ e, e ∈ t.tlb ↔ e ∈ s.tlb ∧ ¬ drop e) ∧ t.held = s.held ++ [h] ∧
        h.body = .system q.id ∧ h.pod = true ∧ (∀ x, x ∈ h.perf ↔ ∃ r, used r ∧ r.id = x) ∧ (∀ x, x ∈ h.acks ↔ ∃ r, used r ∧ r.write = true ∧ r.id = x)) ∧
    (∀ (h : Held) (x : Nat), h.body = .system x → s.releaseOne h = s.answer x .ok [] ∧
      (s.heldReady h = true ↔ (s.tme h.ref.ctx h.ref.ltn).st ≠ .away ∧ (∀ y ∈ h.acks, s.acked h.pod y = true) ∧ ∀ y ∈ h.perf, s.hasPerformed y = true)) ∧
    (∀ (ctx ltn ptn : Nat), (s.stopTile ctx ltn ptn).tme ctx ltn = ⟨.moving, ptn⟩ ∧
      (∀ core k t, core < 4 → k < 4 → s.seat ⟨ptn, core, k⟩ = .run t → t.ctx = ctx → t.ltn = ltn → (∀ m, t.mid = some m → m.steps = 0) →
        let u := s.stopSeatsOf ctx ltn ptn
        u.seat ⟨ptn, core, k⟩ = .save { t with mid := none } ∧ (core, { t with mid := none }) ∈ (u.part ctx ltn).stopped)) ∧
    (∀ (ctx ltn : Nat), q.kind = .evict ctx ltn → q.performed = false →
      let s1 := s.stopSeatsOf ctx ltn (s.tme ctx ltn).ptn
      let s2 := s1.layImage ctx ltn
      ((s.tme ctx ltn).st ≠ .moving → s.evictStep id = s.answer id .refused []) ∧
      ((s.tme ctx ltn).st = .moving → s1.tileStill ctx ltn = false → s.evictStep id = s1) ∧
      ((s.tme ctx ltn).st = .moving → s1.tileStill ctx ltn = true →
        (∀ s3, s2.saveTile ctx ltn = .ok s3 → s.evictStep id = s3.answer id .ok []) ∧
        (∀ m, s2.saveTile ctx ltn = .error (.wait m) → s.evictStep id = s2.service m 1))) ∧
    (∀ (ctx ltn ptn : Nat) (h : BitVec 16777216), s.ptnOf ctx ltn = some ptn → (s.part ctx ltn).image = some h →
      let d : Dev := ⟨ctx, ptnDie ptn, .tile ltn⟩
      let a := (s.ctx ctx).evb.toNat + 2 ^ 21 * ltn
      (∀ u, (s.part ctx ltn).imageBad = [] → s.devPut d a 2097152 (tileBytes h) = .ok u → s.writeTile d ltn h = .ok u) ∧
      (∀ u, s.writeTile d ltn h = .ok u →
        let v := (u.leaveTile ctx ltn ptn).tileLeft ptn
        s.saveTile ctx ltn = .ok (v.residency 3 ctx (((v.kernel ctx).map (·.queue)).getD 0) (((v.kernel ctx).map (·.ridx)).getD 0) ltn)) ∧
      ((s.leaveTile ctx ltn ptn).tme ctx ltn = ⟨.away, 0⟩ ∧
        ∀ k < 4, ((s.leaveTile ctx ltn ptn).coreAt ptn k).deque = (s.coreAt ptn k).deque.filter (fun e => e.1 ≠ ctx) ∧
          ((s.leaveTile ctx ltn ptn).partCore ctx ltn k).deque =
            (s.partCore ctx ltn k).deque ++ ((s.coreAt ptn k).deque.filter fun e => e.1 = ctx).map (·.2))) ∧
    (∀ (ctx ltn : Nat) (tsel : Word) (k : Kernel) (h : BitVec 16777216), q.kind = .restore ctx ltn tsel → q.performed = false →
      (s.tme ctx ltn).st = .away → s.kernel ctx = some k → (s.part ctx ltn).image = some h →
      let fits (p : Nat) : Prop := s.canResume ctx ltn p k = true
      let at_ (o : Nat) : Nat := s.ptnAt (o % 64) (o / 64)
      let here (p : Nat) : Prop := (tsel.getLsbD 63 = true ∧ p = tsel.toNat % 2 ^ 13 ∧ fits p) ∨
        (tsel.getLsbD 63 = false ∧ ∃ o < 4096, p = at_ o ∧ fits p ∧ ∀ j < o, ¬ fits (at_ j))
      ((∀ p, ¬ here p) → s.restoreStep id = s.answer id .refused []) ∧
      (∀ p, here p →
        let d : Dev := ⟨ctx, ptnDie p, .tile ltn⟩
        let s1 := s.devDone d (s.tileImage ctx ltn) 2097152
        let stands := s.imageStands d ltn h (s.part ctx ltn).imageBad
        (∀ t, stands = .ok true → s1.resumeTile ctx ltn p k = some t → s.restoreStep id = t.answer id .ok []) ∧
        (stands = .ok false → s.restoreStep id = s1.answer id .fault []) ∧
        (∀ m, stands = .error (.wait m) → s.restoreStep id = s.service m 0))) ∧
    (∀ (ctx ltn ptn : Nat) (k : Kernel) (t : State), s.resumeTile ctx ltn ptn k = some t → ∃ placed : State,
      let old := (s.part ctx ltn).cores
      (old.foldl (init := some (s.setTme ctx ltn ⟨.resident, ptn⟩)) fun acc c => acc.bind fun u => u.placeFrames ctx ltn c.1 ptn c.2.frames) = some placed ∧
      t = (((((((placed.installPart ctx ltn ptn ((s.spadRun ptn k.spUnits).getD 0)).replayKept ctx ltn).restoreReady ctx ltn ptn old).pumpWindows
        ctx ltn).engines ctx ltn).releaseHeld).pumpBars ctx).residency 4 ctx k.queue k.ridx ltn) ∧
    (∀ (ctx ltn ptn core : Nat),
      let u := s.restoreSeats ctx ltn ptn
      let back := ((s.part ctx ltn).stopped.filter fun e => decide (e.1 = core)).map fun e =>
        (⟨e.2.frm, e.2.sig.toNat % 8, 0, e.2.sig, e.2.cls, some e.2, true⟩ : Ready)
      (u.tme ctx ltn) = ⟨.resident, ptn⟩ ∧ (u.part ctx ltn).stopped = [] ∧
      (u.partCore ctx ltn core).ready ++ (u.partCore ctx ltn core).late =
        back ++ (s.partCore ctx ltn core).ready ++ (s.partCore ctx ltn core).late))

/-- SYSW, FRES, TLBI, TMAP, EVICT.save, EVICT.restore, DLOCTL and HALT, with their coded fields in range, in a context that is not privileged
trap with cause 0x0B whatever the guard and the operands. SYSR of a register that exists, there, is accepted where the register is marked
readable by all contexts, CTX is the issuing context and, for SFLAG, LTN lies in the rectangle of its kernel: it adds its request and
reads the register; anywhere else it traps with 0x0B. The model's own readings in it: that a SYSR reads its register as it issues
(notes/assumptions/29.md). -/
def Obligations.PrivilegedInstructions : Prop :=
  ∀ (s : State) (t : Threadlet) (g : Guard) (fk : FresKind) (tk : TlbiKind) (d x y : Operand) (q : Target) (i : Instr) (h : Shape),
    s.seat s.cur = .run t → (s.ctx t.ctx).priv = false →
    ((i = .sysw g x y q ∨ i = .fres g fk x y q ∨ i = .tlbi g tk x y q ∨ i = .tmap g d x q ∨ i = .evictSave g x q ∨ i = .evictRestore g x q ∨
        i = .dloctl g x y q ∨ i = .halt g x) → i.shape = some h → h.coded = true →
      exec i s = .next (s.trapped t i 0x0B 0 0 0)) ∧
    (i = .sysr g d x q → Executes s t i →
      ∀ r, selRow (s.readOp (s.view t) x) = some r →
        let sel := s.readOp (s.view t) x
        let y := selOf sel
        let may : Prop := r.user = true ∧ y.ctx = t.ctx ∧ (y.space = 2 → y.reg = 0x210 → ∃ k, s.kernel t.ctx = some k ∧ y.ltn < k.area)
        (¬ may → exec i s = .next (s.trapped t i 0x0B 0 0 0)) ∧
        (may → exec i s = .next
          (((s.addReq (s.asked t i ⟨.sysr sel, 0, false, wordIndex d, .relaxed, .frame, q⟩)).readSys s.nextId).retired s.cur t.pc i t 0)))

/-- PICK gives a free seat the oldest eligible entry of the context at the head of the rotation of the class that the gaps choose: the gaps
and the rotation move on, the entry leaves the queue, and held firings take its place. TASK_PICKUP takes the newest record of the context
from the core's deque, or refills the deque from the spill area first. SPAWN_PUSH pushes a record and answers its request, or answers
REFUSED on a tile that has executed KEND. DEFERRED_CREATION makes a root frame that had to wait, else gives a frame to the first waiting
FNEW that can have one, else to the first held task. STEAL_REQUEST asks the victim that the LFSR names; STEAL_SERVE gives the oldest
record of the context, from the area, from those of a restored part that wait for room, or from the core, and keeps its place, or replies
with none; a record of the area that R156 does not allow leaves it and none is given; STEAL_REPLY takes the task up, or returns it from a
tile that has executed KEND; TASK_RETURNED puts it back at the oldest end. The model's own readings in it: when a context joins and leaves
a rotation, and the places kept for stolen tasks (notes/assumptions/13.md, 44.md), a root frame that waits (notes/assumptions/39.md),
tasks of a resumed part (notes/assumptions/52.md), and a record that is rejected (notes/assumptions/82.md). -/
def Obligations.PicksAndTasks : Prop :=
  ∀ (s : State) (ptn core ctx ltn n : Nat),
    let s0 := s.settleRot ptn core
    let c0 := s0.coreAt ptn core
    let cls := pickClass (s0.eligible ptn core) c0.nGap c0.bGap
    let has (k : Nat) : Bool := (s0.eligible ptn core).any fun x => decide (x.2.2.cls = k)
    let core' := s.coreAt ptn core
    let part := s.partCore ctx ltn core
    (∀ (seat : Nat) (h : Rot) (l : Nat) (e : Ready), s.seatFree ⟨ptn, core, seat⟩ = true → c0.rot.find? (fun x => x.cls = cls) = some h →
      (s0.eligible ptn core).find? (fun x => decide (x.1 = h.ctx) && decide (x.2.2.cls = cls)) = some (h.ctx, l, e) →
      let g := gapsAfter cls c0.nGap c0.bGap (has 2) (has 3)
      let more := decide (1 < ((s0.eligible ptn core).filter fun x => decide (x.1 = h.ctx) && decide (x.2.2.cls = cls)).length)
      let s1 := s0.setCore ptn core { c0 with nGap := g.1, bGap := g.2, rot := rotAfter c0.rot cls h.ctx (s0.ctx h.ctx).weight more }
      exec (.pick ptn core seat) s =
        .next (((s1.startSeat ⟨ptn, core, seat⟩ ⟨h.ctx, l, core, e.frm⟩ e).settleRot ptn core).drainOverflow ptn core)) ∧
    (s.ltnOn ptn ctx = some ltn → s.mayPickup ptn core = true → (s.part ctx ltn).ended = false →
      (∀ t l, popNewest core'.deque ctx = some (t, l) →
        exec (.taskPickup ptn core ctx) s = .next ((s.setCore ptn core { core' with deque := l }).takeUp ctx ltn core t)) ∧
      (∀ s1 t l, (∀ e ∈ core'.deque, e.1 ≠ ctx) → part.deque = [] → part.dqCount ≠ 0 →
        s.refillDeque ⟨ctx, ptnDie ptn, .deque ltn core⟩ ptn ltn core = .ok s1 → popNewest (s1.coreAt ptn core).deque ctx = some (t, l) →
        exec (.taskPickup ptn core ctx) s = .next ((s1.setCore ptn core { s1.coreAt ptn core with deque := l }).takeUp ctx ltn core t)) ∧
      (∀ self v x, s.stealOut ptn core = false → (∀ e ∈ core'.deque, e.1 ≠ ctx) → part.deque = [] → part.dqCount = 0 → 2 ≤ (s.stealDomain ctx ltn).length →
        (s.stealDomain ctx ltn).findIdx? (fun e => e = (ltn, core)) = some self →
        nextVictim (s.stealDomain ctx ltn).length self 65536 core'.lfsr = some (v, x) →
        let victim := (s.stealDomain ctx ltn).getD v (0, 0)
        exec (.stealRequest ptn core ctx) s =
          .next ((s.setCore ptn core { core' with lfsr := x }).send (.stealReq ctx ltn core victim.1 victim.2)))) ∧
    (∀ any t id, s.net[n]? = some (.spawn ctx ltn core any t id) →
      ((s.part ctx ltn).ended = true → exec (.spawnPush n) s = .next ((s.takePacket n).answer id .refused [])) ∧
      (∀ p st s1, (s.part ctx ltn).ended = false → s.ptnOf ctx ltn = some p → s.pushDeque p (s.spawnCore ctx ltn core any) ctx id t = .ok (st, s1) →
        exec (.spawnPush n) s = .next ((s1.takePacket n).answer id st [])) ∧
      (∀ st s1, (s.part ctx ltn).ended = false → s.ptnOf ctx ltn = none → s.pushImage ctx ltn (s.spawnCore ctx ltn core any) id t = .ok (st, s1) →
        exec (.spawnPush n) s = .next ((s1.takePacket n).answer id st []))) ∧
    ((s.ptnOf ctx ltn).isSome = true → core = 0 → (s.part ctx ltn).rootDue = true → ∀ k s1, s.kernel ctx = some k →
      s.lateRoot ctx ltn k = some s1 → exec (.deferredCreation ctx ltn core) s = .next s1) ∧
    ((s.ptnOf ctx ltn).isSome = true → ((s.part ctx ltn).rootDue = false ∨ core ≠ 0) →
      (∀ id r s1, s.readyWait ctx ltn core part.waits = some (id, r, s1) →
        let p := s1.partCore ctx ltn core
        exec (.deferredCreation ctx ltn core) s =
          .next ((s1.setPartCore ctx ltn core { p with waits := dropFirst p.waits id }).answer id .ok [some (s1.fpOf r)])) ∧
      (∀ t r s1, s.readyWait ctx ltn core part.waits = none → s.readyTask ctx ltn core part.tasks = some (t, r, s1) →
        let p := s1.partCore ctx ltn core
        exec (.deferredCreation ctx ltn core) s =
          .next ((s1.setPartCore ctx ltn core { p with tasks := dropTask p.tasks t }).startTask r t.task))) ∧
    (∀ tl tc vl vc p, s.net[n]? = some (.stealReq ctx tl tc vl vc) → s.ptnOf ctx vl = some p → (s.part ctx vl).ended = false →
      let victim := s.partCore ctx vl vc
      let reply (u : State) (t : Option Task) (area : Bool) : State := (u.takePacket n).send (.stealReply ctx tl tc vl vc t area)
      (∀ t l, victim.dqCount = 0 → victim.deque = t :: l →
        exec (.stealServe n) s = .next (reply (s.setPartCore ctx vl vc { victim with deque := l, kept := victim.kept + 1 }) (some t) false)) ∧
      (∀ t l, victim.dqCount = 0 → victim.deque = [] → popOldest (s.coreAt p vc).deque ctx = some (t, l) →
        exec (.stealServe n) s =
          .next (reply (s.setCore p vc { s.coreAt p vc with deque := l, reserved := (s.coreAt p vc).reserved ++ [ctx] }) (some t) false)) ∧
      (victim.dqCount = 0 → victim.deque = [] → popOldest (s.coreAt p vc).deque ctx = none → exec (.stealServe n) s = .next (reply s none false)) ∧
      (∀ bs s1, victim.dqCount ≠ 0 → s.devTake ⟨ctx, ptnDie p, .steal tl tc⟩ (s.areaAt ctx vl vc victim.dqHead) 64 = .ok (bs, s1) →
        let rest := { victim with dqHead := victim.dqHead + 1, dqCount := victim.dqCount - 1 }
        (taskOk (taskOfBytes bs) = true → exec (.stealServe n) s =
          .next (reply (s1.setPartCore ctx vl vc { rest with dqKept := victim.dqKept + 1 }) (some (taskOfBytes bs)) true)) ∧
        (taskOk (taskOfBytes bs) = false → exec (.stealServe n) s = .next (reply (s1.setPartCore ctx vl vc rest) none false)))) ∧
    (∀ tl tc vl vc t area p, s.net[n]? = some (.stealReply ctx tl tc vl vc (some t) area) → s.ptnOf ctx tl = some p →
      ((s.part ctx tl).ended = true → exec (.stealReply n) s = .next ((s.takePacket n).send (.taskReturn ctx vl vc t area))) ∧
      ((s.part ctx tl).ended = false → s.readyTaken p tc < 128 →
        exec (.stealReply n) s = .next (((s.takePacket n).unreserve ctx vl vc area).takeUp ctx tl tc t))) ∧
    (∀ vl vc t p, s.net[n]? = some (.taskReturn ctx vl vc t false) → s.ptnOf ctx vl = some p → (s.part ctx vl).ended = false →
      let s1 := (s.takePacket n).unreserve ctx vl vc false
      let c := s1.partCore ctx vl vc
      ((s.partCore ctx vl vc).kept = 0 →
        exec (.taskReturned n) s = .next (s1.setCore p vc { s1.coreAt p vc with deque := (ctx, t) :: (s1.coreAt p vc).deque })) ∧
      ((s.partCore ctx vl vc).kept ≠ 0 → exec (.taskReturned n) s = .next (s1.setPartCore ctx vl vc { c with deque := t :: c.deque })))

/-- ACCEPT of a signal whose tile is here: a continuation that names no frame, or a frame with another tag, counts Stale and writes nothing;
one whose frame is AWAY is forwarded to the image's home; otherwise the words of the datum are written to the frame from WORD on where
they lie in its size class (a word that is not given, and every other word, is unchanged), a datum that does not fit is dropped and turns
status 0 into FAULT, and then the signal is counted on SLOT with its status. Counting a slot whose COUNT is 0 counts Excess; one whose
COUNT is n + 1, not armed or with n not 0, leaves COUNT = n; and in both the slot notes the status. An armed slot whose COUNT goes from 1
to 0 is due: with RELOAD = 1 and RLD not 0 its COUNT is RLD again, and else it is disarmed; where its frame is LIVE and the ready queue
has room and nothing waits for a place, it is enqueued, and else PN goes up by one, and the frame's bit of the overflow bitmap is set
where the frame is LIVE. Enqueueing captures sig and clears ERR, ECNT and LAST, and the entry, with ENTRY and the class of URG, goes to
the end of the core's queue. A slot that becomes due with PN = 4,095 is left disarmed with COUNT 0, and its frame parks with cause 0x23.
On a tile that has executed KEND a firing is discarded. The model's own readings in it: what waits for a place of a ready queue
(notes/assumptions/52.md). -/
def Obligations.SignalAccepted : Prop :=
  (∀ (s : State) (n ctx ltn status ptn : Nat) (cont : Word) (datum : Datum), s.net[n]? = some (.signal ctx ltn cont datum status) →
    s.ptnOf ctx ltn = some ptn →
    let r : FrameRef := ⟨ctx, ltn, contCore cont, contFrm cont⟩
    let s0 := s.takePacket n
    let w := contWord cont
    ((∀ f, s.frame r = some f → f.rtag ≠ contRtag cont) → exec (.accept n) s = .next (s0.countStale ptn ctx cont)) ∧
    (∀ f, s.frame r = some f → f.rtag = contRtag cont → f.st = .away → exec (.accept n) s = .next (s0.send (.forward r cont datum status))) ∧
    (∀ f, s.frame r = some f → f.rtag = contRtag cont → f.st ≠ .away → ∃ (f1 : Frame) (st : Nat),
      exec (.accept n) s = .next ((s0.setFrame r f1).count r (contSlot cont) st) ∧
      f1 = { f with words := f1.words, poison := f1.poison, tch := f1.tch, moving := f1.moving } ∧
      ((w = 0xFF ∨ datum = []) → st = status ∧ f1.words = f.words) ∧
      (w ≠ 0xFF → datum ≠ [] → w + datum.length ≤ frameWords f.large →
        st = status ∧ (∀ j x, datum[j]? = some (some x) → f1.word (w + j) = x) ∧
        (∀ i, (∀ j x, datum[j]? = some (some x) → i ≠ w + j) → f1.word i = f.word i)) ∧
      (w ≠ 0xFF → datum ≠ [] → frameWords f.large < w + datum.length → st = (if status = 0 then 2 else status) ∧ f1.words = f.words)) ∧
    (∀ (f : Frame) (k st : Nat), s.frame r = some f → f.badSlots.contains k = false →
      let x := (f.slot k).note st
      (x.count = 0 → s.count r k st = (s.setFrame r (f.setSlot k x)).countExcess (s.homePtn ctx ltn)) ∧
      (x.count ≠ 0 → (x.armed = false ∨ x.count ≠ 1) → s.count r k st = s.setFrame r (f.setSlot k { x with count := x.count - 1 }))) ∧
    (∀ (f : Frame) (k st : Nat), s.frame r = some f → f.badSlots.contains k = false →
      let x := { (f.slot k).note st with count := (f.slot k).count - 1 }
      (f.slot k).count = 1 → (f.slot k).armed = true → s.count r k st = (s.setFrame r (f.setSlot k x)).due r k)) ∧
  (∀ (s : State) (r : FrameRef) (k : Nat) (f : Frame), s.frame r = some f →
    let x := f.slot k
    let again : Slot := if x.reload = true ∧ x.rld ≠ 0 then { x with count := x.rld } else { x with armed := false }
    let g : Frame := match f.moving with
      | .spill o => { f with moving := .spill { o with due := true } }
      | _ => f
    let roomFor : Prop := ∃ ptn, s.ptnOf r.ctx r.ltn = some ptn ∧ s.readyTaken ptn r.core < 128 ∧ s.waitsForPlace ptn r.core = false
    ((s.part r.ctx r.ltn).ended = true → s.due r k = s.setFrame r (g.setSlot k again)) ∧
    ((s.part r.ctx r.ltn).ended = false →
      (x.pn = 4095 → s.due r k = ((s.setFrame r g).modFrame r fun h => h.setSlot k { h.slot k with armed := false, count := 0 }).parkFrame r
        ⟨0x23, k, 0, 0, 0, 0, 0, 0⟩) ∧
      (x.pn ≠ 4095 → f.st = .live → roomFor → s.due r k = (s.setFrame r (g.setSlot k again)).enqueue r k) ∧
      (x.pn ≠ 4095 → (f.st ≠ .live ∨ ¬ roomFor) →
        s.due r k = s.setFrame r { g.setSlot k { again with pn := x.pn + 1 } with ovf := f.ovf || decide (f.st = .live) }))) ∧
  (∀ (s : State) (r : FrameRef) (k : Nat) (f : Frame), s.frame r = some f →
    let x := f.slot k
    let cls := if (s.ctx r.ctx).cls = 0 then 0 else (if (s.ctx r.ctx).cls = 1 then 2 else 3) - (if x.urg = true then 1 else 0)
    let s1 := s.setFrame r (f.setSlot k { x with err := false, ecnt := 0, last := 0 })
    let sig : Word := BitVec.ofNat 64 (k % 8 + (if x.err then 8 else 0) + x.ecnt % 16 * 16 + x.last % 8 * 256)
    let c := s1.partCore r.ctx r.ltn r.core
    (s.part r.ctx r.ltn).ended = false → s.enqueue r k = (s1.setPartCore r.ctx r.ltn r.core
      { c with ready := c.ready ++ [⟨r.frm, k, x.entry, sig, cls, none, false⟩] }).settleCore r.ctx r.ltn r.core)

/-- For a request that its home may perform now. HOME_READ of a load, a vector load, a burst from global memory or a fill: where its bytes are
good it is performed, and they are added to its datum, a load's as their little-endian number (zero-extended, or sign-extended where it
asks and the page is not on the host); where they meet poison it fails with POISON, and a part of a DMA or a window, and any access of a
HOST page, leaves a RAS record. HOME_WRITE of a store, a vector store, a burst to global memory or a write-back first reads what is left
of its local bytes: poison there fails it; where the bytes it writes meet no poison in part, or where pieces of it are written already, it
performs the write at the home and is performed, and else it fails with POISON and a RAS record; a granule that its pieces have covered
whole loses its poison with the last of them. HOME_ATOMIC of GATOM and GRED reads the old value, performs the write of the new one by the
operation, and is performed, with the old value as GATOM's datum; poison fails it with a RAS record. What performing a write does at the
home beside the bytes (presence, watches, poison covered whole) is the model's one operation perform, and it stores exactly its bytes:
every other byte of that memory reads as before. The model's own readings in it: that a burst, a fill or a write-back goes piece by piece,
that local poison fails it first, and the place that the record of poison names (notes/assumptions/66.md). -/
def Obligations.HomeAccesses : Prop :=
  (∀ (s : State) (id : Nat) (r : Req) (p : Phys), AtHome s id r p →
    (r.kind.readsHome = true →
      (s.poisoned p.home p.pa r.size = false →
        exec (.homeRead id) s =
          .next ((s.setReq { r with performed := true, datum := r.datum ++ loadDatum r.kind p (s.homeBytes p r.size) }).onward r)) ∧
      (s.poisoned p.home p.pa r.size = true →
        let s1 := if r.kind.isPart = true ∨ p.home = .host then s.poisonRas (s.badPlace p r.size false) r.ref.ctx else s
        exec (.homeRead id) s = .next ((s1.failReq r .poison 0x12).onward r))) ∧
    (r.kind.writesHome = true →
      let q := s.gatherRest r
      let d := q.writeBytes
      (q.performed = true → exec (.homeWrite id) s = .next ((s.setReq q).onward q)) ∧
      (q.performed = false → (s.writePoisoned p.home p.pa d.length = false ∨ q.part ≠ 0) →
        let u := s.perform p q.ref.ctx d
        exec (.homeWrite id) s =
          .next (((if q.part = 0 then u else u.coverPiece q p d.length).setReq { q with performed := true, datum := [] }).onward q)) ∧
      (q.performed = false → s.writePoisoned p.home p.pa d.length = true → q.part = 0 →
        exec (.homeWrite id) s = .next (((s.poisonRas (s.badPlace p d.length true) r.ref.ctx).failReq q .poison 0x12).onward q))) ∧
    (∀ op n v cmp, r.kind = .atom op n v cmp →
      let old := s.homeNumber p r.size
      let new := leBytes r.size (atomic op r.size old v.toNat cmp.toNat).1
      (s.poisoned p.home p.pa r.size = false → exec (.homeAtomic id) s =
        .next (((s.perform p r.ref.ctx new).setReq { r with performed := true, datum := [some (BitVec.ofNat 64 old)] }).onward r)) ∧
      (s.poisoned p.home p.pa r.size = true →
        exec (.homeAtomic id) s = .next (((s.poisonRas (s.badPlace p r.size false) r.ref.ctx).failReq r .poison 0x12).onward r))) ∧
    (∀ op n v, r.kind = .red op n v →
      let new := leBytes r.size (atomic op r.size (s.homeNumber p r.size) v.toNat v.toNat).1
      (s.poisoned p.home p.pa r.size = false → exec (.homeAtomic id) s =
        .next (((s.perform p r.ref.ctx new).setReq { r with performed := true, datum := [] }).onward r)) ∧
      (s.poisoned p.home p.pa r.size = true →
        exec (.homeAtomic id) s = .next (((s.poisonRas (s.badPlace p r.size false) r.ref.ctx).failReq r .poison 0x12).onward r)))) ∧
  (∀ (n : Nat) (sext : Bool) (p : Phys) (l : List Byte),
    let v := ofLeBytes l
    loadDatum (.load n sext) p l =
      [some (if sext = true ∧ p.home ≠ .host then (BitVec.ofNat (8 * n) v).signExtend 64 else BitVec.ofNat 64 v)]) ∧
  (∀ (s : State) (r : Req) (n : Nat) (d : Word), r.kind = .store n d → s.gatherRest r = r ∧ r.writeBytes = leBytes n d.toNat) ∧
  (∀ (s : State) (p : Phys) (ctx : Nat) (data : List Byte) (a : Nat), (∀ pkg, p.home ≠ .remote pkg) →
    Memory.read ((s.perform p ctx data).memOf p.home) a =
      if p.pa ≤ a ∧ a < p.pa + data.length then data.getD (a - p.pa) 0 else Memory.read (s.memOf p.home) a) ∧
  (∀ (s : State) (r : Req) (p : Phys) (n : Nat), (s.coverPiece r p n).mem = s.mem ∧ (s.coverPiece r p n).full = s.full ∧
    (∀ g ∈ (s.coverPiece r p n).granules, g ∈ s.granules))

/-- For a request that its home may perform now, on good bytes: ILD of a full word is performed with its value, and of an empty one is
deferred; IST of an empty word writes it, makes it full, answers every ILD deferred on it, those of other packages too, with the datum and
is performed, and of a full one fails with DOUBLE_WRITE and cause 0x13 and writes nothing; IRST of a full word empties it, so that it
reads zero, and goes on to the next word; MWATCH of a value that differs from its comparand is performed with the value, and of an equal
one is armed. A tile that has finished its part defers nothing. The model's own readings in it: what a full deferred-record region holds
(notes/assumptions/15.md), and that a deferral changes no byte (notes/assumptions/90.md). -/
def Obligations.IStructures : Prop :=
  ∀ (s : State) (id : Nat) (r : Req) (p : Phys), AtHome s id r p →
    let w := p.pa / 8
    let pool (ild : Bool) : State := { s with deferred := s.deferred ++ [⟨r.id, p.pa, ild⟩] }
    let mayWait : Prop := (s.part r.ref.ctx r.ref.ltn).finished = false ∧ s.deferredRoom r.ref.ctx = true
    (r.kind = .ild → s.poisoned p.home p.pa 8 = false →
      (w ∈ s.full → exec (.homeIld id) s =
        .next ((s.setReq { r with performed := true, datum := [some (BitVec.ofNat 64 (s.homeNumber p 8))] }).onward r)) ∧
      (w ∉ s.full → mayWait → exec (.homeIld id) s = .next ((pool true).onward r))) ∧
    (∀ d, r.kind = .ist d → s.poisoned p.home p.pa 8 = false →
      (w ∉ s.full →
        let chain := s.deferred.filter fun x => x.ild && decide (x.pa / 8 = w)
        let s1 : State := { s with
          mem := Memory.writeBytes s.mem p.pa (leBytes 8 d.toNat), full := s.full ++ [w],
          deferred := s.deferred.filter fun x => !(x.ild && decide (x.pa / 8 = w)) }
        exec (.homeIst id) s =
          .next (((((s1.answerAll (chain.map (·.id)) .ok [some d]).answerForeign (fun f => f.watch.isNone && decide (f.pa / 8 = w)) .ok
            (leBytes 8 d.toNat)).fireWatches p.pa 8).setReq { r with performed := true }).onward r)) ∧
      (w ∈ s.full → exec (.homeIst id) s =
        .next (((s.failReq r .doubleWrite 0x13).ras 0x31 5 r.ref.ctx (homeDie p.pa) (BitVec.ofNat 64 p.pa) 0).onward r))) ∧
    (∀ n left, r.kind = .irst n left → s.poisoned p.home p.pa 8 = false →
      (w ∈ s.full →
        let s1 : State := { s with mem := Memory.writeBytes s.mem p.pa (List.replicate 8 0), full := s.full.filter fun x => x ≠ w }
        exec (.homeIrst id) s = .next (((s1.fireWatches p.pa 8).setReq (r.nextWord p)).onward r)) ∧
      (w ∉ s.full → exec (.homeIrst id) s = .next ((s.setReq (r.nextWord p)).onward r))) ∧
    (∀ n cmp, r.kind = .watch n cmp → s.poisoned p.home p.pa n = false →
      let v := s.homeNumber p n
      (v ≠ cmp.toNat % 2 ^ (8 * n) →
        exec (.mwatchArm id) s = .next ((s.setReq { r with performed := true, datum := [some (BitVec.ofNat 64 v)] }).onward r)) ∧
      (v = cmp.toNat % 2 ^ (8 * n) → mayWait → exec (.mwatchArm id) s = .next ((pool false).onward r)))

/-- PAGE_WALK of a request that awaits translation gives it the address where the walk finds a leaf that allows the access, holds it for the
fault service on a recoverable miss, and fails it with cause 0x10 or 0x11 otherwise. FAULT_SERVICE_REPLY, in hardware mode, replays or
fails what was held for the page. INSTRUCTION_FETCH puts the next word of a running seat into the instruction cache. WRITE_ACK
acknowledges a performed write at its package, then at pod scope, which ends the OWC's count of a write that has a target and completes
one that has none. RESPONSE_ARRIVAL finishes a request that is performed, with its writes acknowledged, after what a drain of a table has
yet to write for it. Neither is so while the home of the evicted tile's image keeps what comes for it. The model's own readings in it: the
marks that an answered page leaves, and which leaf a walk may use (notes/assumptions/12.md, 47.md), and an instruction cache that keeps
words one by one (notes/assumptions/45.md). -/
def Obligations.RequestsGoOn : Prop :=
  ∀ s : State,
    (∀ id r acc cached, s.req id = some r → r.phys = none → r.performed = false → r.faultHeld = false → r.sent = false → r.parked = false →
        r.kind.access = some acc →
      let va := r.curVa
      let walked := s.translate r.ref.ctx va acc
      exec (.pageWalk id cached) s = .next ((s.walkReq r acc cached).onward r) ∧
      (2 ^ 52 ≤ va → s.walkReq r acc none = s.failReq r .fault 0x10) ∧
      (va < 2 ^ 52 →
        (∀ p, walked.1 = .ok p → s.walkReq r acc none = walked.2.setReq { r with phys := some p }) ∧
        (walked.1 = .miss → r.replayed = false → s.walkReq r acc none =
          let die := ptnDie (walked.2.homePtn r.ref.ctx r.ref.ltn)
          (walked.2.setReq { r with faultHeld := true, die := die }).serviceRecord r.ref.ctx va (if acc = .read then 0 else 1) die []) ∧
        (walked.1 = .miss → r.replayed = true → s.walkReq r acc none = walked.2.failReq r .fault 0x10) ∧
        (walked.1 = .fault → s.walkReq r acc none = walked.2.failReq r .fault 0x10) ∧
        (walked.1 = .prot → s.walkReq r acc none = walked.2.failReq r .fault 0x11))) ∧
    (∀ ctx va present f, s.services.find? (fun f => f.ctx = ctx ∧ f.va = va.toNat / 2 ^ 16 * 2 ^ 16) = some f → s.feature 1 = true →
      exec (.faultServiceReply ctx va present) s = .next (s.serviceReply f present)) ∧
    (∀ ptn core seat t w s1, s.seat ⟨ptn, core, seat⟩ = .run t → (s.cachedWord ptn t.ctx t.pc.toNat).any wantsSecond = false →
      s.fetchMem ((⟨ptn, core, seat⟩ : SeatId).fetches t.ctx) t.pc.toNat = (.word w, s1) →
      exec (.instructionFetch ptn core seat) s = .next (s1.cacheWord ptn t.ctx t.pc.toNat w)) ∧
    (∀ id r, s.req id = some r → r.write = true → r.kind.access.isSome = true → r.performed = true → r.parked = false →
        s.keepsFor r.ref.ctx r.ref.ltn = false →
      (r.ackPkg = false → exec (.writeAck id false) s = .next ((s.setReq { r with ackPkg := true }).onward r)) ∧
      (r.ackPod = false → r.ackPkg = true → r.kind.isPart = false →
        let q : Req := { r with ackPkg := true, ackPod := true }
        (r.dest = none → exec (.writeAck id true) s = .next ((s.finish q).onward r)) ∧
        (r.dest.isSome = true → r.counted = true →
          exec (.writeAck id true) s = .next (((s.setReq { q with counted := false }).owcDown r.ref r.rtag).onward r)))) ∧
    (∀ id r, s.req id = some r → r.performed = true → (r.write = true → r.ackPod = true) → r.kind.isPart = false → s.keepsFor r.ref.ctx r.ref.ltn = false →
      let p := s.part r.ref.ctx r.ref.ltn
      let s1 := if ∃ e ∈ p.pours, e.1 = id then s.setPart r.ref.ctx r.ref.ltn (p.pour id) else s
      exec (.responseArrival id) s = .next ((s1.finish r).onward r))

/-- SPILL_START writes out the dormant frame that a waiting creation needs and marks it MOVING. SPILL_CHECK of a written frame that is still
dormant and that nothing has touched makes it AWAY and gives up its storage; of one that was touched the header, the cells and the changed
words are written again, and one that is no longer dormant, or of which a slot became due meanwhile, stays LIVE. FORWARD_APPLY of a signal
keeps it in the deferred-record pool while the image is recalled, and else counts Stale where the tag does not match, writes it to the
image of an AWAY frame, and sends it on to a frame that is resident; an operation on an image is checked, applied there and answered, and
one whose slot, or for FFREE the first of whose slots, lies in a poisoned granule is answered POISON with the home's record; a signal for
an image that cannot be reached is recorded and counts Stale. WAKE starts the refill of an AWAY frame on a tile that is resident;
DEFERRED_WAKE_SEND sends a kept wake; RECALL returns the image; REFILL_INSTALL installs it under the quota, sends RECALL_DONE and drains
its held firings; an image with a reserved field of a slot that is not zero is rejected, and the frame stays AWAY; RECALL_DONE replays the
kept signals in their order. TRAP_QUEUE_RETRY writes the first record of its context that waits, once the queue has room.
EVICTED_TILE_PACKET keeps a packet for a tile that is away, a channel packet behind none of its plane between its ports, while the
deferred-record region has room. The model's own readings in it: the frame-map entry in an image, and what waits at one
(notes/assumptions/10.md, 36.md), that a write-out counts once in OWC (notes/assumptions/71.md), that TRAP_QUEUE_RETRY writes only the
first waiting record of its context (notes/assumptions/72.md), the one pool of deferred records (notes/assumptions/15.md), and what is
rejected (notes/assumptions/82.md). -/
def Obligations.SpillAndRefill : Prop :=
  ∀ (s : State) (ctx ltn core frm n : Nat),
    let r : FrameRef := ⟨ctx, ltn, core, frm⟩
    let s0 := s.takePacket n
    (∀ ptn f s1, s.ptnOf ctx ltn = some ptn → (s.tme ctx ltn).st = .resident → (s.partCore ctx ltn core).noSpill = false →
      (∀ e ∈ (s.partCore ctx ltn core).frames, e.2.moving = .no ∨ e.2.moving = .refill) →
      (s.waitingClasses ctx ltn core).findSome? (fun w => s.victimFor ctx ltn core ptn w.1 w.2) = some frm → s.frame r = some f →
      let out : Moving := .spill ⟨none, false, [], (f.poison.map (· / 4)).eraseDups⟩
      s.writeImage r { f with moving := out, tch := false } = .ok s1 →
      exec (.spillStart ctx ltn core) s = .next (s1.setFrame r { f with moving := out, tch := false, owc := f.owc + 1 })) ∧
    (∀ f o, s.frame r = some f → f.moving = .spill o → o.failed = none →
      (o.due = false → s.dormant r { f with moving := .no } = true → f.tch = false → exec (.spillCheck ctx ltn core frm) s =
        .next (s.setFrame r { f with st := .away, moving := .no, owc := f.owc - 1, slots := [], words := [] })) ∧
      (∀ s1, o.due = false → s.dormant r { f with moving := .no } = true → f.tch = true → s.rewriteImage r f o = .ok s1 →
        exec (.spillCheck ctx ltn core frm) s =
          .next (s1.setFrame r { f with tch := false, moving := .spill ⟨none, false, [], (f.poison.map (· / 4)).eraseDups⟩ })) ∧
      ((o.due = true ∨ s.dormant r { f with moving := .no } = false) →
        exec (.spillCheck ctx ltn core frm) s = .next ((s.setFrame r { f with moving := .no, owc := f.owc - 1 }).settleFree r))) ∧
    (∀ cont datum status, s.net[n]? = some (.forward r cont datum status) → s.recalled r = true → s.deferredRoom ctx = true →
      exec (.forwardApply n) s = .next (s0.send (.keptSignal r cont datum status))) ∧
    (∀ cont datum status f, s.net[n]? = some (.forward r cont datum status) → s.recalled r = false → s.frame r = some f →
      (f.rtag ≠ contRtag cont → exec (.forwardApply n) s = .next (s0.countStale (s.dropTile r) ctx cont)) ∧
      (f.rtag = contRtag cont → f.st ≠ .away →
        exec (.forwardApply n) s = .next (s0.send (.signal ctx ltn cont datum status))) ∧
      (f.rtag = contRtag cont → f.st = .away →
        let d : Dev := ⟨ctx, ptnDie (s.homePtn ctx ltn), .forward r cont datum status⟩
        (∀ p, s.imagePhys d r .write = .ok p →
          let x := (s0.devDone d (s.imageVa r) 2048).imageDatum r f p (contWord cont) datum status
          exec (.forwardApply n) s = .next (x.1.imageCount r p (contSlot cont) x.2)) ∧
        (∀ e, s.imagePhys d r .write = .error e → (∀ m, e ≠ .wait m) →
          exec (.forwardApply n) s = .next ((s0.devFail d e).countStale (s.dropTile r) ctx cont)))) ∧
    (∀ rtag slot op id f p, s.net[n]? = some (.imageOp r rtag slot op id) → s.frame r = some f → f.rtag = rtag → s.recalled r = false →
      let d : Dev := ⟨ctx, ptnDie (s.homePtn ctx ltn), .req id⟩
      f.st = .away → s.imagePhys d r .write = .ok p →
      let s1 := s0.devDone d (s.imageVa r) 2048
      let busy := (List.range 8).any fun k => decide ((s1.imageSlot p k).count ≠ 0 ∨ (s1.imageSlot p k).pn ≠ 0)
      let lost (k : Nat) : Prop := (op = .ffree ∧ k < 8 ∨ op ≠ .ffree ∧ k = slot) ∧ s1.imageSlotBad p k = true
      (∀ k, lost k → (∀ j < k, ¬ lost j) → exec (.forwardApply n) s = .next ((s1.imageSlotRas r p k).opReply id (some 0x12))) ∧
      (∀ c, (∀ k, ¬ lost k) → op.check (s1.imageSlot p slot) busy f.pendingFree = some c →
        exec (.forwardApply n) s = .next (s1.opReply id (some c))) ∧
      ((∀ k, ¬ lost k) → op.check (s1.imageSlot p slot) busy f.pendingFree = none →
        exec (.forwardApply n) s = .next ((s1.imageApply r f p slot op).opReply id none))) ∧
    (∀ f, s.net[n]? = some (.wake r) → (s.tme ctx ltn).st = .resident → s.frame r = some f →
      (f.st = .away → f.moving = .no → exec (.wake n) s = .next ((s0.setFrame r { f with moving := .refill }).send (.recall r))) ∧
      ((f.st ≠ .away ∨ f.moving ≠ .no) → exec (.wake n) s = .next s0)) ∧
    (s.net[n]? = some (.keptWake r) → exec (.deferredWakeSend n) s = .next (s0.send (.wake r))) ∧
    (s.net[n]? = some (.recall r) → exec (.recall n) s = .next (s0.send (.image r))) ∧
    (∀ f ptn g p, s.net[n]? = some (.image r) → s.ptnOf ctx ltn = some ptn → s.frame r = some f → f.moving = .refill →
      s.quotaRoom ctx ltn core f.large = true → s.freeGranule ptn core f.large = some g → s.imagePhys (s.spillDev r) r .read = .ok p →
      (s.imageBroken p = true → exec (.refillInstall n) s = .next ((s0.devDone (s.spillDev r) (s.imageVa r) 2048).refillFailed r f)) ∧
      (s.imageBroken p = false → exec (.refillInstall n) s =
        .next ((((((s0.setFrame r (s.frameOfImage f p g)).devDone (s.spillDev r) (s.imageVa r) 2048).send (.recallDone r)).settleFree r).drainOverflow ptn core).dloAgain ctx ltn))) ∧
    (s.net[n]? = some (.recallDone r) →
      let kept := s0.net.filterMap fun p => match p with
        | .keptSignal q c d st => if q = r then some (Packet.signal ctx ltn c d st) else none
        | _ => none
      ∃ others, exec (.recallDone n) s = .next { s0 with net := others ++ kept } ∧ others.Sublist s0.net ∧
        (∀ p ∈ s0.net, p ∈ others ↔ ∀ c d st, p ≠ .keptSignal r c d st)) ∧
    (∀ j s1, s.jobs[n]? = some j → s.jobAway j = false → (∀ x ∈ s.jobs.take n, x.ctx = j.ctx → s.jobAway x = true) →
      State.runJob { s with jobs := dropNth s.jobs n } j = .ok s1 → exec (.trapQueueRetry n) s = .next s1) ∧
    (∀ p, s.net[n]? = some p → (∀ c l k any t id, p ≠ .spawn c l k any t id) → s.boundAway p = true → s.behindOther n p = false →
      s.deferredRoom p.ctx = true →
      exec (.evictedTilePacket n) s = .next { s0 with kept := s.kept ++ [p] })

/-- BAR_ARRIVAL adds the arrival of a child to its parent's place, which sends on once its own arrival and whole subtree are in. BAR_RELEASE
drops the place, passes the release on to every child, and completes the tile's BAR or ARED: REFUSED where operations or types differed,
else OK with the combined value for ARED, a NaN in its canonical form; a tile that has executed KEND and has yet to issue it keeps the
number. DLO_DETECTION_START of a blocked tile with wait edges, that has not been examined as it stands, in a context whose mode is not 0,
takes the next serial and queries along every edge. DLO_QUERY of a tile that is not blocked is answered ACTIVE; of the initiator itself,
and of a tile already engaged in the first pass of that detection, BLOCKED; one that engages a blocked tile passes on along every edge. A
query of the second pass at an engaged tile whose ASN or edges differ from the recorded ones is answered ACTIVE; the first one else passes
on, and a further one is answered BLOCKED. DLO_REPLY of an awaited edge of the initiator is collected, and the last of them ends the pass.
The model's own readings in it: edges to other packages, and when a detection starts anew (notes/assumptions/24.md), that the value of an
ARED which is a NaN is made canonical (notes/assumptions/54.md), and older detections (notes/assumptions/73.md). -/
def Obligations.BarriersAndDetections : Prop :=
  ∀ (s : State) (ctx ltn n : Nat),
    let s0 := s.takePacket n
    let p := s.part ctx ltn
    (∀ index num ared src val, s.net[n]? = some (.barUp ctx index num ared src val) → s.partTile ctx index = some ltn →
      (s.ptnOf ctx ltn).isSome = true →
      let b : BarNode := { p.barNode ared num with got := (p.barNode ared num).got ++ [(src, val)] }
      exec (.barArrival n) s = .next ((s0.setPart ctx ltn (p.setBar b)).tryBar ctx ltn b)) ∧
    (∀ index num ared val, s.net[n]? = some (.barDown ctx index num ared val) → s.partTile ctx index = some ltn →
      (s.ptnOf ctx ltn).isSome = true →
      let kids := childrenOf index (((s.kernel ctx).map (·.participants)).getD 0)
      let s1 := kids.foldl (fun u c => u.barSend ctx c num ared false index val) (s0.setPart ctx ltn (p.dropBar ared num))
      let mine := s1.barRequests ctx ltn num ared
      (mine ≠ [] → exec (.barRelease n) s = .next (mine.foldl (fun u r => u.finish (barAnswer r val)) s1)) ∧
      (mine = [] → (s1.part ctx ltn).ended = true → exec (.barRelease n) s =
        .next (s1.setPart ctx ltn { s1.part ctx ltn with done := (s1.part ctx ltn).done ++ [(ared, num, val)] })) ∧
      (mine = [] → (s1.part ctx ltn).ended = false → exec (.barRelease n) s = .next s1)) ∧
    (∀ (r : Req) (m : Nat) (op : RedOp) (ty : Ty) (v : Nat) (c : Contrib),
      (r.kind = .bar m → ∀ val, barAnswer r val = r.answer .ok []) ∧
      (r.kind = .ared m op ty v → barAnswer r (some c) =
        if c.bad then r.answer .refused [] else r.answer .ok [some (if c.ty.isInt then put c.ty c.value else BitVec.ofNat 64 (passValue c.ty c.value).1)])) ∧
    ((s.ctx ctx).dlm ≠ 0 → s.blockedTile ctx ltn = true → p.edges ≠ [] → p.dloSeen ≠ some (p.asn, p.ports) →
      exec (.dloDetectionStart ctx ltn) s = .next (s.startDetection ctx ltn)) ∧
    (∀ det src e, s.net[n]? = some (.dloQuery ctx det src e) → e.dst.ltn = ltn → (s.ptnOf ctx ltn).isSome = true →
      (∀ v ∈ p.visits, v.det.init = det.init → v.det.serial = det.serial) →
      let closed := (p.port e.dst.port).faces ⟨src.pkg, src.ltn, e.port⟩
      let answer (u : State) (v : Verdict) : State := u.sendReply ctx det src e (bare v)
      ((s0.blockedTile ctx ltn = false ∨ closed = true) → exec (.dloQuery n) s = .next (answer s0 .active)) ∧
      (s0.blockedTile ctx ltn = true → closed = false → det.init = s.tileRef ctx ltn → exec (.dloQuery n) s = .next (answer s0 .blocked)) ∧
      (∀ v, s0.blockedTile ctx ltn = true → closed = false → det.init ≠ s.tileRef ctx ltn → p.visit det.init = some v → det.pass = 1 →
        exec (.dloQuery n) s = .next (answer (s0.putVisit ctx ltn { v with asked := v.asked + 1 }) .blocked)) ∧
      (∀ v, s0.blockedTile ctx ltn = true → closed = false → det.init ≠ s.tileRef ctx ltn → p.visit det.init = some v → det.pass = 2 →
        ((p.asn ≠ v.asn ∨ p.edges ≠ v.edges) → exec (.dloQuery n) s = .next (answer (s0.countDown ctx ltn v) .active)) ∧
        (p.asn = v.asn → p.edges = v.edges → v.det.pass = 2 → exec (.dloQuery n) s = .next (answer (s0.countDown ctx ltn v) .blocked)) ∧
        (p.asn = v.asn → p.edges = v.edges → v.det.pass ≠ 2 → v.edges ≠ [] →
          let t := s.tileRef ctx ltn
          let w : Visit := { v with det := det, engager := src, via := e, awaiting := v.edges, got := ownReport t v.edges }
          exec (.dloQuery n) s = .next (v.edges.foldl (fun u x => u.sendQuery ctx det t x) (s0.putVisit ctx ltn w)))) ∧
      (∀ ptn, s0.blockedTile ctx ltn = true → closed = false → det.init ≠ s.tileRef ctx ltn → p.visit det.init = none → det.pass = 1 →
        s.ptnOf ctx ltn = some ptn → (s0.visitsOn ptn).length < 32 → p.edges ≠ [] →
        let t := s.tileRef ctx ltn
        exec (.dloQuery n) s = .next (p.edges.foldl (fun u x => u.sendQuery ctx det t x)
          (s0.putVisit ctx ltn ⟨det, src, e, 1, p.asn, p.edges, p.edges, ownReport t p.edges⟩)))) ∧
    (∀ det dst e rep v, s.net[n]? = some (.dloReply ctx det dst e rep) → dst.ltn = ltn → (s.ptnOf ctx ltn).isSome = true → p.det = some v →
      v.det = det → e ∈ v.awaiting →
      let w : Visit := { v with awaiting := v.awaiting.erase e, got := v.got.and rep }
      let s1 := s0.setPart ctx ltn { p with det := some w }
      exec (.dloReply n) s = .next (if w.awaiting = [] then s1.passDone ctx ltn w else s1))

/-- For a packet that has arrived at its port, after which the engines of the tile go on; a tile whose port holds an operation may start a
detection again. READY and READY_SELECT are recorded at an open port, which acts on them; another refuses them, and so does a group port a
ready-select; a port that is not bound refuses go, release and withdraw, and one of an ended tile a withdraw unless its data move to that
receive. OFFER: of the offers of one cycle, each from another direction, all current for the tile's one select at open ports, the winner
is the lowest port, or with rotation the first after LAST; it is sent go, the others release. GO moves the data where the send offered
under its seq matches, and else completes both sides REFUSED. RELEASE takes back a recorded ready-select, or returns the offered send to
unoffered, or completes one that is withdrawn or unbound. DATA_LANDING writes words or units, completes the receive and sends the
acceptance, with POISON where a unit is poisoned. The last ACCEPTANCE completes the send; REFUSE completes the operation REFUSED. WITHDRAW
discards a ready and says whether; its answer completes the withdrawn receive where the ready is gone. CHANNEL_TEST tells whether a send
is there for the asker, and TEST_REPLY completes CHTEST; a port that is not open refuses. BIND_REQUEST binds a port that can be bound, or
refuses, and unbinds one whose member the sender is; BIND_REPLY binds the sending side and completes CHBIND, or REFUSED, the member
released, where the port cannot take it; the last reply of an unbind frees the port. The model's own readings in it: packet order, undone
binds and landing words (notes/assumptions/7.md, 16.md, 66.md), refused packets and grown groups (notes/assumptions/67.md), far offers
(notes/assumptions/68.md), unbinds (notes/assumptions/73.md), ended tiles (notes/assumptions/77.md), held sends in CHANNEL_TEST
(notes/assumptions/78.md), and membership (notes/assumptions/85.md). -/
def Obligations.ChannelPackets : Prop :=
  ∀ (s : State) (n : Nat) (p : ChPacket), s.chArrived n = some p →
    let s0 := (s.takePacket n).chHeard p
    let c := p.ctx
    let l := p.dst.ltn
    let k := p.dst.port
    let q := s.port c l k
    let comes (i : Instr) (u : State) : Prop := exec i s = .next (u.engines c l)
    (∀ a, p.body = .ready a →
      (s.portOpen p → comes (.ready n) ((s0.setPort c l k { q with rdy := q.rdy.filter (·.1 ≠ p.src) ++ [(p.src, a)] }).chTry c l k)) ∧
      (¬ s.portOpen p → comes (.ready n) (s0.chReply p .refuse))) ∧
    (∀ seq m, p.body = .readySelect seq m →
      (s.portOpen p → q.members.length < 2 → comes (.readySelect n) ((s0.setPort c l k { q with rsel := some (p.src, seq, m) }).chTry c l k)) ∧
      (s.portOpen p → 2 ≤ q.members.length → comes (.readySelect n) (s0.chReply p .refuse))) ∧
    (∀ (ns : List Nat) (x : Select), n ∈ ns → ns.Nodup → ns.length ≤ 4 → (s.part c l).sels = [x] →
      (∀ m ∈ ns, ∃ o, s.chArrived m = some o ∧ o.ctx = c ∧ o.dst.ltn = l ∧ (∃ seq, o.body = .offer seq) ∧ s.offerCurrent o = some x ∧
        s.portOpen o) →
      ((ns.filterMap s.chArrived).filterMap s.chDirection).Nodup →
      let ports := ns.filterMap fun m => (s.chArrived m).map (·.dst.port)
      let last := (s.part c l).chLast
      ∃ w ∈ ports, (x.rot = false → ∀ m ∈ ports, w ≤ m) ∧
        (x.rot = true → (∃ m ∈ ports, last < m) → last < w ∧ ∀ m ∈ ports, last < m → w ≤ m) ∧
        (x.rot = true → (∀ m ∈ ports, m ≤ last) → ∀ m ∈ ports, w ≤ m) ∧
        exec (.offer ns) s =
          .next (((ns.filterMap s.chArrived).foldl (fun u o => u.chHeard o)
            ({ s with net := (s.net.zipIdx.filter fun e => !ns.contains e.2).map (·.1) } : State)).chooseWinner c l x w)) ∧
    (∀ seq m op, p.body = .go seq → q.op = some op → op.offered = some (p.src, seq, m) →
      (op.form.matches (.words m) = true → comes (.go n) (s0.chMove c l k op [p.src])) ∧
      (op.form.matches (.words m) = false → comes (.go n) ((s0.chReply p .refuse).chEnd c l k .refused))) ∧
    (∀ seq m, p.body = .release seq → q.rsel = some (p.src, seq, m) → comes (.release n) (s0.setPort c l k { q with rsel := none })) ∧
    (∀ seq m op, p.body = .release seq → q.op = some op → op.offered = some (p.src, seq, m) → (∀ j, q.rsel ≠ some (p.src, seq, j)) →
      let s1 := s0.setPort c l k { q with op := some { op with offered := none } }
      (op.cancel = none → q.bound = true → comes (.release n) (s1.chTry c l k)) ∧
      (op.cancel = none → q.bound = false → comes (.release n) (s1.chEnd c l k .refused)) ∧
      (∀ st, op.cancel = some st → comes (.release n) (s1.chEnd c l k st))) ∧
    (q.rsel = none → q.bound = false → (∀ op, q.op = some op → op.offered = none) →
      (∀ seq, p.body = .go seq → comes (.go n) (s0.chReply p .refuse)) ∧ (∀ seq, p.body = .release seq → comes (.release n) (s0.chReply p .refuse))) ∧
    (∀ ws f m op, p.body = .dataWords ws → q.op = some op → op.form = .recvWords f m →
      comes (.dataLanding n) (((s0.landWords op.ref op.rtag f ws).chReply p (.acceptance .ok)).chEnd c l k .ok)) ∧
    (∀ us a m op, p.body = .dataUnits us → q.op = some op → op.form = .recvBlock a m →
      let st : Status := if us.any (·.isNone) then .poison else .ok
      comes (.dataLanding n) (((s0.setPart c l ((s0.part c l).landUnits a us (Tab.get 0 (s0.part c l).landed k))).chReply p (.acceptance st)).chEnd c l k st)) ∧
    (∀ ws id x op, p.body = .dataWords ws → q.op = some op → op.form = .select id → (s.part c l).sel id = some x →
      comes (.dataLanding n) (((s0.landWords x.ref x.rtag x.frm (BitVec.ofNat 64 k :: ws)).chReply p (.acceptance .ok)).endSelect c l x .ok)) ∧
    (∀ st op, p.body = .acceptance st → q.op = some op → (∀ m ∈ op.moving, m = p.src) → op.result = .ok →
      comes (.acceptance n) (((s0.setPort c l k { q with op := some { op with moving := [], result := st } }).chEnd c l k st).chTry c l k)) ∧
    (∀ op, p.body = .refuse → q.op = some op → (∀ id, op.form ≠ .select id) → comes (.refuse n) (s0.chEnd c l k .refused)) ∧
    (∀ id r, p.body = .testRefused id → s.req id = some r → comes (.refuse n) (s0.finish (r.answer .refused []))) ∧
    (∀ tag, p.body = .withdraw tag → q.bound = false ∨ ((s.part c l).ended = true ∧ ∀ op, q.op = some op → p.src ∉ op.moving) →
      comes (.withdraw n) (s0.chReply p .refuse)) ∧
    (∀ tag, p.body = .withdraw tag → q.bound = true →
      (s.part c l).ended = false ∨ (∃ op, q.op = some op ∧ p.src ∈ op.moving) → q.rsel = none →
      (q.rdy.any (·.1 = p.src) = true →
        comes (.withdraw n) ((s0.setPort c l k { q with rdy := q.rdy.filter (·.1 ≠ p.src) }).chReply p (.withdrawn tag true))) ∧
      (q.rdy.any (·.1 = p.src) = false → comes (.withdraw n) (s0.chReply p (.withdrawn tag false)))) ∧
    (∀ tag gone op st, p.body = .withdrawn tag gone → q.op = some op → (∀ id, op.form ≠ .select id) → op.cancel = some st → op.tag = tag →
      (gone = true → comes (.withdrawAnswer n) (s0.chEnd c l k st)) ∧ (gone = false → comes (.withdrawAnswer n) s0)) ∧
    (∀ id, p.body = .test id →
      let there := q.op.any fun o => !o.held && !(o.moving.isEmpty && o.offered.any fun x => decide (x.1 ≠ p.src))
      (s.portOpen p → comes (.channelTest n) (s0.chReply p (.tested id there))) ∧
      (¬ s.portOpen p → comes (.channelTest n) (s0.chReply p (.testRefused id)))) ∧
    (∀ id partner r, p.body = .tested id partner → s.req id = some r →
      let d : Word := BitVec.ofNat 64 (1 + (if partner then 2 else 0) + (if q.op.isSome then 4 else 0))
      comes (.testReply n) (s0.finish (r.answer .ok [some d]))) ∧
    (∀ id, p.body = .bind id false →
      (s.canBind c l k = true → comes (.bindRequest n)
        ((s0.setPort c l k { q with send := false, bound := true, members := [p.src] }).chReply p (.bound id true))) ∧
      (s.canBind c l k = false → comes (.bindRequest n) (s0.chReply p (.bound id false)))) ∧
    (∀ id, p.body = .bind id true →
      (q.bound = true → q.members = [p.src] →
        comes (.bindRequest n) (((s0.setPort c l k { q with bound := false }).settlePort c l k).chReply p (.bound id true))) ∧
      ((q.bound = false ∨ q.members ≠ [p.src]) → comes (.bindRequest n) (s0.chReply p (.bound id true)))) ∧
    (∀ id ok r w left, p.body = .bound id ok → s.req id = some r → r.kind = .chbind w left → bindOp w ≠ 2 →
      (ok = false → comes (.bindReply n) (s0.finish (r.answer .refused []))) ∧
      (∀ s1, ok = true → s0.bindSend c l (bindSport w) (decide (bindOp w = 1)) p.src = some s1 →
        comes (.bindReply n) (s1.finish (r.answer .ok []))) ∧
      (ok = true → s0.bindSend c l (bindSport w) (decide (bindOp w = 1)) p.src = none →
        comes (.bindReply n) ((s0.chSend ⟨c, p.dst, p.src, .bind id true⟩).finish (r.answer .refused [])))) ∧
    (∀ id ok r w left, p.body = .bound id ok → s.req id = some r → r.kind = .chbind w left → bindOp w = 2 →
      (left ≤ 1 → comes (.bindReply n) ((s0.unbindSend c l (bindSport w)).finish (r.answer .ok []))) ∧
      (1 < left → comes (.bindReply n) (s0.setReq { r with kind := .chbind w (left - 1) })))

/-- ANVIL_STEP takes the next step of the run at the head of the queue on a resident tile: its block comes from the latch, from what the
engine has read ahead, or from scratchpad, where finer steps may have read part of it; a block that cannot be read, and a configuration
whose types do not go together, stop the run; an MLDA at the head of the queue loads what is left of its panels. ANVIL_DRAIN takes the
drain that the run awaits, or the MDRN at the head of the queue, while a drain buffer is free and no earlier drain of the engine holds its
port: one to scratchpad writes its bytes, MDRN is answered where it ends at once, and a drain that is sent holds its buffer; one whose
bytes are being written goes on to its end. PH_SPILL_STEP performs a piece of spill work: the fill of a claim's group, a drain's snapshot
on a resident tile, or a lane's step. PH_SPILL_REPLY applies the reply of any lane of any operation of the port, which the home of an
evicted tile's image keeps. DMA_BURST issues the next burst of a DMA on a resident tile with fewer than 32 out; DMA_BURST_DONE of a burst
that is back stores the bytes that it loaded and that have not landed yet, gives the DMA the graver status, and ends it with the last
burst. STREAM_FILL of an element whose pieces are back, fills or write-backs, stores what it filled in the ring, moves the window on,
counts a write-back for its STRM.adv, and sees to the window's notifies and its closing. The model's own readings in it: the status of a
DMA with several failures (notes/assumptions/16.md), a drain that waits while an earlier one holds its port (notes/assumptions/67.md), the
ascending order of the 8-byte words that land or leave (notes/assumptions/66.md), and bursts of a resumed part that wait
(notes/assumptions/35.md). -/
def Obligations.EngineSteps : Prop :=
  ∀ (s : State) (ctx ltn : Nat),
    let e := s.anvil ctx ltn
    let p := s.part ctx ltn
    (∀ r rest, e.queue = .run r :: rest → r.stopped = false → r.next < r.steps → r.pend = none → (s.tme ctx ltn).st = .resident →
      let s1 := if r.next = 0 then s.setAnvil ctx ltn { e with stepc := 0 } else s
      let comes (u : State) : Prop := exec (.anvilStep ctx ltn) s = .next (u.engines ctx ltn)
      ((r.chan = true ∧ e.latch ≠ [] ∨ r.chan = false ∧ (r.ahead ≠ [] ∨ r.taking ≠ [] ∨ p.latchUsed < 2)) → anvilTypes e.cfg = none →
        comes (s1.stopRun ctx ltn r .refused)) ∧
      (∀ ta tb, anvilTypes e.cfg = some (ta, tb) →
        (∀ b more, r.chan = true → e.latch = b :: more →
          comes ((s1.setAnvil ctx ltn { s1.anvil ctx ltn with latch := more }).runStep ctx ltn r ta tb b)) ∧
        (∀ st b more, r.chan = false → r.ahead = (st, b) :: more →
          (st = .ok → comes (s1.runStep ctx ltn { r with ahead := more } ta tb b)) ∧ (st ≠ .ok → comes (s1.stopRun ctx ltn r st))) ∧
        (r.chan = false → r.ahead = [] → (r.taking ≠ [] ∨ p.latchUsed < 2) →
          (∀ b, s1.spadBlock ctx ltn r.next tb.blockScaled r.taking = .ok b → comes (s1.runStep ctx ltn { r with taking := [] } ta tb b)) ∧
          (∀ st, s1.spadBlock ctx ltn r.next tb.blockScaled r.taking = .error st → comes (s1.stopRun ctx ltn r st))))) ∧
    (∀ id x first count z rest, e.queue = .lda id x first count z :: rest → (s.tme ctx ltn).st = .resident →
      exec (.anvilStep ctx ltn) s = .next ((s.loadPanels ctx ltn id x first count z).engines ctx ltn)) ∧
    (∀ (d : Drain) (owner : ChOwner) (id : Nat) (q : Req),
      ((∃ r rest a m, e.queue = .run r :: rest ∧ r.pend = some (a, m) ∧ d = autoDrain (r.drn.getD 0) m a ∧ owner = .auto ∧ id = r.id) ∨
        (∃ rest, e.queue = .drn id d :: rest ∧ owner = .drain id)) →
      s.req id = some q → e.writing = none → e.buffersUsed < 2 → (s.tme ctx ltn).st = .resident → s.drainWaits ctx ltn d = false →
      let x := s.drainTo ctx ltn d owner q.ref q.rtag
      let u := x.2
      let g : Anvil := { u.anvil ctx ltn with writing := none }
      let ends (t : State) : Prop := exec (.anvilDrain ctx ltn) s = .next (t.engines ctx ltn)
      (∀ a bytes, x.1 = .write a bytes → ∃ t : State, ends t ∧
        (∀ b, (t.part ctx ltn).byte b = ((u.part ctx ltn).store a bytes).byte b) ∧ (t.anvil ctx ltn).writing = none) ∧
      (∀ rest, g.queue = .drn id d :: rest →
        (x.1 = .sent → ends (u.setAnvil ctx ltn { g.pop with draining := g.draining ++ [id] })) ∧
        (∀ st, x.1 = .done st → ends ((u.setAnvil ctx ltn g.pop).answerAll [id] st []))) ∧
      (∀ r rest a m, g.queue = .run r :: rest → r.pend = some (a, m) →
        (x.1 = .sent → ends (u.setAnvil ctx ltn ((g.zeroAcc a).setRun { r with pend := none, drains := r.drains + 1 }))) ∧
        (x.1 = .done .ok → ends (u.setAnvil ctx ltn ((g.zeroAcc a).setRun { r with pend := none }))) ∧
        (∀ st, st ≠ .ok → x.1 = .done st → ends (u.stopRun ctx ltn r st)))) ∧
    (∀ a bytes, e.writing = some (a, bytes) → exec (.anvilDrain ctx ltn) s = .next ((s.drainWrite ctx ltn bytes.length).engines ctx ltn)) ∧
    (∀ n o t g, p.spillWork[n]? = some (.fill o t g) → exec (.phSpillStep ctx ltn n) s = .next ((s.fillGroup ctx ltn o t g).engines ctx ltn)) ∧
    (∀ n o t, p.spillWork[n]? = some (.drain o t) → (s.tme ctx ltn).st = .resident →
      exec (.phSpillStep ctx ltn n) s = .next ((s.drainSpill ctx ltn o t).engines ctx ltn)) ∧
    (∀ n o t k i x y, p.spillWork[n]? = some (.lane o t k i x y) →
      (∀ rep s1, s.spillStep ctx ltn t o.id x.lane k y x.key x.val = .ok (rep, s1) →
        exec (.phSpillStep ctx ltn n) s = .next (s1.putPh ctx ltn (setPhLane o k i { x with st := .replied y rep }))) ∧
      (∀ s1, s.spillStep ctx ltn t o.id x.lane k y x.key x.val = .error s1 → exec (.phSpillStep ctx ltn n) s = .next s1)) ∧
    (∀ o k ls t i x, o ∈ p.phq → o.body = .lanes k ls → p.table o.tbl = some t → ls[i]? = some x →
      (∀ y, x.st = .step y → .lane o t k i x y ∈ p.spillWork) ∧ (∀ y rep, x.st = .replied y rep → (o, t, k, i, x) ∈ p.repliesBack)) ∧
    (∀ n o t k i x st rep, p.repliesBack[n]? = some (o, t, k, i, x) → x.st = .replied st rep →
      let y := t.applyReply k st x.key x.val rep
      (s.keepsFor ctx ltn = false → exec (.phSpillReply ctx ltn n) s =
        .next ((((s.setPart ctx ltn (p.fillWay t st rep)).setTable ctx ltn o.tbl y.2).putPh ctx ltn (setPhLane o k i { x with st := y.1 })).engines ctx ltn)) ∧
      (s.keepsFor ctx ltn = true → exec (.phSpillReply ctx ltn n) s = .next (s.keepReply ctx ltn o.id i))) ∧
    (∀ id r sh row off, s.req id = some r → r.ref.ctx = ctx → r.ref.ltn = ltn → r.kind = .dma sh row off → row < sh.rows → r.performed = false →
      s.burstsOut ctx ltn < 32 → (s.ptnOf ctx ltn).isSome = true →
      let s1 := s.setReq { r with kind := .dma sh (sh.nextBurst row off).1 (sh.nextBurst row off).2 }
      exec (.dmaBurst id) s = .next (s1.addPart (some id) (s1.partReq r.ref r.rtag (.burst id (sh.localAt row off) (sh.burstLen row off) sh.toGlobal)
        (BitVec.ofNat 64 (sh.globalAt row off)) sh.toGlobal r.scope []))) ∧
    (∀ id b r q la n out, s.req id = some r → s.req b = some q → r.ref.ctx = ctx → r.ref.ltn = ltn → q.kind = .burst id la n out →
      q.partBack = true → q.parked = false → (out = false → s.burstBlocked q id la n = false) → s.keepsFor ctx ltn = false →
      let s1 := s.dropReq b
      let s2 := if q.status = .ok ∧ out = false then s1.setPart ctx ltn (p.store (la + q.landed) (((datumBytes q.datum).take n).drop q.landed)) else s1
      let st := worseStatus r.status q.status
      let s3 := s2.setReq (if st = r.status then r else { r with status := st, cause := q.cause, va := q.va })
      exec (.dmaBurstDone id b) s = .next (((s3.settleDma id).pumpTile ctx ltn).onward r)) ∧
    (∀ q parent rest w win elem, s.elemParts ctx ltn win elem = (q, parent) :: rest → s.window ctx ltn win = some w →
      (∀ x ∈ (q, parent) :: rest, x.1.partBack = true ∧ x.1.parked = false) → s.keepsFor ctx ltn = false →
      let l := q :: rest.map (·.1)
      let st := l.foldl (fun a x => worseStatus a x.status) Status.ok
      let bad := (failedPiece l st).getD q
      let s1 := l.foldl (fun u x => u.dropReq x.id) s
      let s2 := if st = .ok then s1.landElem ctx ltn w elem l else s1
      let s3 := s2.setWindow ctx ltn win (w.elemDone elem st bad.cause bad.va)
      let s4 := match parent with
        | some a => s3.advDone ctx ltn win a st bad.cause bad.va
        | none => s3
      exec (.streamFill ctx ltn win elem) s = .next ((((s4.checkNotify ctx ltn win).pumpTile ctx ltn).settleWindow ctx ltn win).onward q)) ∧
    (∀ q w win elem off n, q ∈ s.reqs → q.ref.ctx = ctx → q.ref.ltn = ltn → q.kind = .fill win elem off n →
      (q, none) ∈ s.elemParts ctx ltn win elem ∧
      s.landElem ctx ltn w elem [q] = s.setPart ctx ltn (p.store (w.elemLa elem + off + q.landed) (((datumBytes q.datum).take n).drop q.landed)))

/-- While the Courier window takes writes, NOTIFY of an enabled host queue, once features are committed, sets WIDX to the value where it lies
at most the queue's size beyond RIDX, and stops the queue with its error record otherwise; any other notify is counted and dropped.
PACKET_TAKE reads the slot at RIDX: an invalid one leaves the queue idle until the next notify, and a valid one is taken: one that breaks
a rule, itself or in its argument block or channel list, is passed with status 5, and a good one waits on its dependences; a ring that may
not be used, or that cannot be read, stops the queue, and so does a read-index word that may not be used once a packet is found. A packet
that was taken is read on, whether or not its queue still runs. DEPENDENCE_MET holds where the word is at most its bound, and else arms
the watch of the word; a packet whose watch failed is passed with the status. ADMISSION starts the kernel that the ranking and the
placement choose. AREPLYQ starts it where the host says, if its tiles fit, and passes it with status 5 if they do not. KERNEL_COMPLETE of
a finished kernel releases its tiles, decrements its completion word, and removes its map entries with the report. LAUNCH_COPY puts the
packet into a device queue that has room, in its turn, with VALID set last, and answers OK. SPANNING_RELEASE binds what is left of the
channel list and readies the kernel once every package has admitted it, and kills the package's part of it on a refusal, one that is not
admitted yet as it is admitted; package 0 goes by the reports, the others by what it has decided. The model's own reading in it: a report
names a kernel by its count (notes/assumptions/88.md). The model's own readings in it: finished kernels, tiles that fit, spanning kernels
and their numbers, channel lists, bad replies (notes/assumptions/18.md, 39.md, 40.md, 41.md, 88.md, 89.md), die 8
(notes/assumptions/42.md), and a LAUNCH into a ring that may not be used (notes/assumptions/69.md). -/
def Obligations.SortingOffice : Prop :=
  ∀ s : State,
    (∀ (q : Nat) (value : Word), q < 256 → s.windowOpen = true →
      let x := s.queue q
      let beyond := (value.toNat + 2 ^ 32 - x.ridx % 2 ^ 32) % 2 ^ 32
      ((s.featDone = false ∨ x.en = false ∨ x.dev = true) → exec (.notify q value) s = .next { s with dnotc := s.dnotc + 1 }) ∧
      (s.featDone = true → x.en = true → x.dev = false → value.toNat < 2 ^ 32 → beyond ≤ x.size →
        exec (.notify q value) s = .next (s.setQueue q { x with widx := value.toNat, idle := false })) ∧
      (s.featDone = true → x.en = true → x.dev = false → (2 ^ 32 ≤ value.toNat ∨ x.size < beyond) →
        exec (.notify q value) s = .next (s.stopQueue q value.toNat 0))) ∧
    (∀ (q : Nat),
      let x := s.queue q
      let a := x.slotAt x.ridx
      let d : Dev := ⟨x.ctx, 8, .queue q⟩
      let comes (u : State) : Prop := exec (.packetTake q) s = .next u
      let stops (u : State) (st : Nat) : Prop := comes ((u.setQueue q x.forget).stopQueue q x.widx st)
      let reads (s0 : State) (t : Taken) : Prop := ∀ u s3, s0.readArguments t = (.all, u, s3) →
        let c := (s3.queue t.queue).ctx
        let good : Prop := blockOk u = true ∧ (s3.listPorts c u).isSome = true ∧ s3.classClash c u = false
        let v : Taken := { u with read := true }
        (good → comes (if v.unmet = [] then s3.becomePending v else s3.setTaken v)) ∧
        (∀ w, ¬ good → s3.passPacket u 5 = .ok w → comes w)
      (∀ t, s.taken.find? (fun t => t.queue = q && t.unread) = some t → t.queue = q ∧ (t.fail = none → reads s t) ∧
        (∀ st u, t.fail = some st → s.passPacket t st = .ok u → comes u)) ∧
      (s.mayTake q = true → (∀ t ∈ s.taken, t.queue ≠ q) ∧
        (s.hostRing x.ctx a = true → stops s 0) ∧
        (∀ e, s.hostRing x.ctx a = false → s.slotBytes q = .error e → (∀ m, e ≠ .wait m) → stops (s.devFail d e) e.status) ∧
        (∀ bytes, s.hostRing x.ctx a = false → s.slotBytes q = .ok bytes →
          let s1 := s.devDone d a 64
          let t : Taken := ⟨q, x.ridx, bytes, [], [], [], false, 0, [], none, 0, false, [], false⟩
          let taken (u : Taken) : State := { s1.setQueue q x.forget with taken := s1.taken ++ [u] }
          (le bytes 0 1 ≠ 1 → comes (s1.setQueue q { x.forget with idle := true })) ∧
          (le bytes 0 1 = 1 → s1.hostRing x.ctx x.ria.toNat = true → stops s1 0) ∧
          (le bytes 0 1 = 1 → s1.hostRing x.ctx x.ria.toNat = false →
            (packetOk t x.sys (s1.isRack q) = true → reads (taken t) t) ∧
            (∀ u, packetOk t x.sys (s1.isRack q) = false → (taken { t with fail := some 5 }).passPacket { t with fail := some 5 } 5 = .ok u →
              comes u))))) ∧
    (∀ (q dep : Nat) (t : Taken), s.taken.find? (fun t => t.queue = q) = some t → t.pending = false →
      let c := (s.queue q).ctx
      let d : Dev := ⟨c, 8, .depend q dep⟩
      let on (v : Taken) : State :=
        let u := s.devDone d (t.depa dep) 8
        if v.unmet = [] then u.becomePending v else u.setTaken v
      (∀ st u, t.fail = some st → s.passPacket t st = .ok u → exec (.dependenceMet q dep) s = .next u) ∧
      (t.fail = none → t.read = true → dep ∈ t.unmet → (∀ e ∈ t.armed, e.1 ≠ dep) →
        (∀ pa, s.checkDepend t dep = .ok (true, pa) → exec (.dependenceMet q dep) s = .next (on { t with met := t.met ++ [dep] })) ∧
        (∀ pa, s.checkDepend t dep = .ok (false, some pa) →
          exec (.dependenceMet q dep) s = .next (on { t with armed := t.armed ++ [(dep, pa)] })) ∧
        (∀ e u, s.checkDepend t dep = .error e → (∀ m, e ≠ .wait m) → (s.devFail d e).passPacket t e.status = .ok u →
          exec (.dependenceMet q dep) s = .next u)) ∧
      (∀ p, s.devXlat d (t.depa dep) .read = .ok p → p.home ≠ .host → (∀ pkg, p.home ≠ .remote pkg) → p.is = false →
        s.poisoned p.home p.pa 8 = false →
        let v := (BitVec.ofNat 64 (ofLeBytes (Memory.readBytes s.mem p.pa 8))).toInt
        s.checkDepend t dep = .ok (decide (v ≤ t.depv dep), some p.pa))) ∧
    (∀ t tiles above, s.hallmark.booted = true → s.featDone = true → s.feature 0 = true → s.choose s.ranked = some (t, tiles, above) →
      let s0 : State := { s with taken := s.taken.map fun y => if above.contains y.queue && !s.hostQueue t.queue then { y with bypass := y.bypass + 1 } else y }
      exec .admission s = .next (s0.startPacket t tiles)) ∧
    (∀ (t : Taken) (tiles : List Nat),
      let c := (s.queue t.queue).ctx
      let s1 := (s.startKernel c t.pri t.weight { t.kernel with span := s.spans } tiles).residency 0 c t.queue t.ridx 0
      let s2 := s1.report c t.npk true
      (s.hostQueue t.queue = true → s.startPacket t tiles = s.passTaken t 0) ∧
      (s.hostQueue t.queue = false → t.npk = 0 → s.startPacket t tiles = s1.passTaken t 0) ∧
      (s.hostQueue t.queue = false → t.npk ≠ 0 → (c, s.spans) ∉ s2.doomed → s.startPacket t tiles = s2.passTaken t 0) ∧
      (∀ st u, s.passPacket t st = .ok u → s.passTaken t st = u) ∧ (∀ st m u, s.passPacket t st = .error (m, u) → s.passTaken t st = u.service m 1)) ∧
    (∀ (value : Word) (t : Taken), s.windowOpen = true → value.toNat / 2 ^ 8 % 2 ^ 24 = 0 → s.feature 0 = false → s.featDone = true →
      s.taken.find? (fun t => t.queue = value.toNat % 256 ∧ t.ridx = value.toNat / 2 ^ 32 ∧ t.fail ≠ some 0) = some t →
      let c := (s.queue (value.toNat % 256)).ctx
      let a := s.areplya.toNat
      let n := t.width * t.height
      let block := Memory.readBytes s.host a (8 + 2 * n)
      let tiles := (List.range n).map fun i => le block (8 + 2 * i) 2
      let good : Prop := t.pending = true ∧ t.fail = none ∧ le block 0 8 = n ∧ tiles.Nodup ∧ s.kernel c = none ∧ (s.ctx c).valid = true ∧
        ∀ e ∈ tiles.zipIdx, s.tileFits e.1 (s.needOf t e.2) = true
      a + (8 + 2 * n) ≤ hostReach → s.poisoned .host a (8 + 2 * n) = false →
      (good → exec (.areplyq value) s = .next (s.startPacket t tiles)) ∧
      (∀ s1, ¬ good → s.passPacket t 5 = .ok s1 → exec (.areplyq value) s = .next s1)) ∧
    (∀ ctx k, s.kernel ctx = some k → (k.released = true ∨ s.kernelDone ctx = true) →
      let s1 := s.freeKernel ctx
      (k.killed = true → exec (.kernelComplete ctx) s = .next ((s1.notice ctx (noticeBytes 0x43 ctx [])).endKernel ctx)) ∧
      (k.killed = false → k.csig = 0 → exec (.kernelComplete ctx) s = .next (s1.endKernel ctx)) ∧
      (∀ s2, k.killed = false → k.csig ≠ 0 → s1.decrement ctx k.csig.toNat = .ok s2 →
        exec (.kernelComplete ctx) s = .next (s2.endKernel ctx)) ∧
      (∀ m, k.killed = false → k.csig ≠ 0 → s1.decrement ctx k.csig.toNat = .error (.wait m) →
        exec (.kernelComplete ctx) s = .next (s1.service m 1))) ∧
    (∀ id r q waiting bytes s1, s.req id = some r → r.kind = .launch q waiting → r.performed = false → r.faultHeld = false →
      s.isHeld id = false → q < 256 →
      let x := s.queue q
      let a := x.slotAt x.widx
      (if waiting then (s.launchWaits q).head? = some id else s.launchWaits q = []) →
      (∀ o e, x.copying = some o → o ≠ id → s.req o = some e → e.performed = true) →
      x.en = true → x.dev = true → x.lctx = r.ref.ctx → s.devRead ⟨r.ref.ctx, 8, .req id⟩ r.va.toNat 64 = .ok bytes → launchOk bytes = true →
      x.waiting < x.size → s.hostRing x.ctx a = false →
      s.devWrites ⟨x.ctx, 8, .req id⟩ [(a + 2, bytes.drop 2), (a + 1, [0]), (a, [1])] = .ok (none, s1) →
      exec (.launchCopy id) s = .next
        (State.answer { (s1.devDone ⟨r.ref.ctx, 8, .req id⟩ r.va.toNat 64).setQueue q { x with widx := (x.widx + 1) % 2 ^ 32, idle := false, copying := none } with
          launchq := s1.launchq.filter (· ≠ id) } id .ok [])) ∧
    (∀ ctx,
      let undecided (k : Kernel) : Prop := s.kernel ctx = some k ∧ k.npk ≠ 0 ∧ k.started = false ∧ k.killed = false
      let left (n : Nat) : State := { s with reports := s.reports.filter fun r => !(decide (r.1 = ctx) && decide (r.2.1 = n)) }
      (∀ k, undecided k →
        let s1 := left k.span
        let bound (u : State) : State :=
          let v := u.unkeepPorts ctx
          ((k.binds.dropWhile (v.nearBind ctx)).foldl (fun u w => u.bindEntry ctx w) v).readyKernel ctx
        (s.pkgSelf ctx = 0 → (∀ i < k.npk, (ctx, k.span, i + 1, true) ∈ s.reports) →
          exec (.spanningRelease ctx true) s = .next (bound (s1.tellAll ctx k.span k.npk true))) ∧
        (s.pkgSelf ctx = 0 → (∃ i, (ctx, k.span, i, false) ∈ s.reports) →
          exec (.spanningRelease ctx false) s = .next ((s1.tellAll ctx k.span k.npk false).killKernel ctx)) ∧
        (s.pkgSelf ctx ≠ 0 → (ctx, k.span, 0, true) ∈ s.reports → exec (.spanningRelease ctx true) s = .next (bound s1)) ∧
        (s.pkgSelf ctx ≠ 0 → (ctx, k.span, 0, false) ∈ s.reports → exec (.spanningRelease ctx false) s = .next (s1.killKernel ctx))) ∧
      ((∀ k, ¬ undecided k) →
        let s1 : State := { left s.spans with doomed := s.doomed ++ [(ctx, s.spans)] }
        exec (.spanningRelease ctx true) s = .next s ∧
        ((ctx, s.spans) ∉ s.doomed →
          (s.pkgSelf ctx ≠ 0 → (ctx, s.spans, 0, false) ∈ s.reports → exec (.spanningRelease ctx false) s = .next s1) ∧
          (∀ t i, s.pkgSelf ctx = 0 → s.nextSpan ctx = some t → (ctx, s.spans, i, false) ∈ s.reports →
            exec (.spanningRelease ctx false) s = .next (s1.tellAll ctx s.spans t.npk false)))))

/-- LINK_REPLAY changes nothing. LINK_RETRAIN of a port that is up keeps it, halves its lanes or takes it down, with a RAS record; one of a
torus link that fails halts the package. LINK_TRAINED brings a port that is on up on 2 or 4 lanes. UALINK_INBOUND in the context of UALCTX
is performed at the address that it translates to, and is answered REFUSED where UALCTX is not valid. PATROL that finds nothing changes
nothing, and one that finds an uncorrectable error poisons the granule and completes the watches armed in it. Links act once the package
is up. A write of HMR drains the messages that wait; RESUME ends a halt that is not a lasting one; FEATC's two bits commit the features,
and reset them while no context is resident; SRCMD reads or writes the register that SRSEL names; FREPLY answers a fault-service record in
host-assisted mode. A write of CKILL, CWGT, CTXD, QDESC, PORTM, ROUTE or any other register reaches it after the earlier writes of its
frame to it, and answers its SYSW with the outcome. The model's own readings in it: a second halt, writes of the window that are
discarded, numbers of torus links, requests of other packages, and a QDESC that is enabled meanwhile (notes/assumptions/23.md, 31.md,
32.md, 33.md, 38.md), that FEATC takes RESET before COMMIT (notes/assumptions/37.md), and that FREPLY matches the die modulo 8
(notes/assumptions/42.md). -/
def Obligations.LinksAndRegisters : Prop :=
  ∀ s : State,
    (∀ link, exec (.linkReplay link) s = .next s) ∧
    (∀ port how, let m := Tab.get PortMode.reset s.portm port
      port < 64 → m.up = true → m.mode < 2 →
      let half : PortMode := { m with lanes := 2 }
      let down : PortMode := { m with up := false, lanes := 0 }
      let m1 : PortMode := match how with
        | .recovered => m
        | .lane => if m.lanes = 4 then half else down
        | .failed => down
      exec (.linkRetrain (.port port) how) s =
        .next (State.linkRas { s with portm := Tab.put s.portm port m1 } 0x19 (if port < 32 then 8 else 9) port 0)) ∧
    (∀ n how, let s1 := s.rasOpen 0x18 3 0xFF (ptnDie (n / 4)) (n / 4)
      s.hallmark.booted = true → exec (.linkRetrain (.torus n) how) s = .next (if how = .failed then s1.haltWith 0xFFFF0018 else s1)) ∧
    (∀ how, s.hallmark.booted = true → exec (.linkRetrain .courier how) s =
      .next (State.rasOpen { s with courierDown := decide (how = .failed) } 0x1A 3 0xFF 8 0).drainMessages) ∧
    (∀ link how, s.hallmark.booted = false → (∀ p, link ≠ .port p) → exec (.linkRetrain link how) s = .next s) ∧
    (∀ port lanes, let m := Tab.get PortMode.reset s.portm port
      s.hallmark.booted = true → port < 64 → m.mode < 2 → m.up = false → (lanes = 2 ∨ lanes = 4) →
      exec (.linkTrained port lanes) s = .next { s with portm := Tab.put s.portm port { m with up := true, lanes := lanes } }) ∧
    (∀ kind va bytes, let c := s.ualctx.toNat % 64
      s.hallmark.booted = true →
      (s.ualctx.getLsbD 63 = false → exec (.ualinkInbound kind va bytes) s = .next (s.serve .refused [])) ∧
      (∀ p s1, s.ualctx.getLsbD 63 = true → ualCarries kind va.toNat bytes = true → (∀ pkg, p.home ≠ .remote pkg) →
        s.marked ⟨c, 8, .inbound va.toNat⟩ va.toNat true = false →
        s.translate c va.toNat (if kind = .read then .read else .write) = (.ok p, s1) →
        exec (.ualinkInbound kind va bytes) s = .next ((s1.serveAt kind p c bytes id).devDone ⟨c, 8, .inbound va.toNat⟩ va.toNat bytes))) ∧
    (∀ g, exec (.patrol g .clean) s = .next s ∧
      (s.hallmark.booted = true → g * 32 + 32 ≤ Config.hbmBytes → s.midWrite g = false →
        exec (.patrol g .uncorrectable) s =
          .next (((((s.markGranule g true).ras 0x11 1 0xFF (homeDie (g * 32)) (BitVec.ofNat 64 (g * 32)) 0).countRow g true).poisonWatches
            g).releaseHeld) ∧
        ∀ k, k ∈ (s.markGranule g true).granules ↔ k = g ∨ k ∈ s.granules)) ∧
    (s.hallmark.booted = true → s.courierDown = false →
      (∀ value, exec (.hmrWrite value) s = .next (State.drainMessages { s with hmr := value })) ∧
      (lastingHalt s.haltCode = false → (s.haltCode = 0xFFFF0031 → s.hallmark.cool = true) →
        exec (.resume 1) s = .next { s with halted := false, haltCode := 0 }) ∧
      exec .featcCommit s = .next { s with featDone := true } ∧
      exec .featcReset s = .next (if s.anyResident then s else { s with featDone := false }) ∧
      (∀ (value : Word) f, value &&& 0xFFF000000000E8C0 = 0 → s.feature 1 = false →
        s.services.find? (fun f => f.ctx = value.toNat % 64 ∧ f.die % 8 = value.toNat / 2 ^ 8 % 8 ∧
          f.va = value.toNat / 2 ^ 16 % 2 ^ 36 * 2 ^ 16) = some f →
        exec (.freply value) s = .next (s.serviceReply f (value.getLsbD 12))) ∧
      (∀ w, ((s.srPort 0).cmd = none ∨ (s.srPort 0).cmd = some 1) → (selRow (s.srPort 0).sel).isSome = true → s.sysGet (.port 0) (s.srPort 0).sel = some (.ok w) →
        exec (.srcmdRead 0) s = .next ((s.pastRead (.port 0) (s.srPort 0).sel).setSrPort 0 { s.srPort 0 with data := w, stat := 0, cmd := none })) ∧
      (((s.srPort 0).cmd = none ∨ (s.srPort 0).cmd = some 2) → s.writeCause (s.srPort 0).sel (s.srPort 0).data = none →
        let x := s.sysPut (s.srPort 0).sel (s.srPort 0).data
        exec (.srcmdWrite 0) s = .next (x.2.setSrPort 0 { s.srPort 0 with stat := BitVec.ofNat 64 (statusCode x.1), cmd := none }).readsOn)) ∧
    (∀ id q sel y, s.req id = some q → q.kind = .sysw sel y → q.performed = false → s.writeAhead q sel = false →
      let x := s.sysPut sel y
      let t : State := (x.2.answer id x.1 []).readsOn
      let reg := selReg sel
      (reg = (1, 0x10A) → exec (.ckill id) s = .next t) ∧ (reg = (1, 0x102) → exec (.cwgt id) s = .next t) ∧
      (reg = (1, 0x100) → exec (.ctxd id) s = .next t) ∧ (reg = (0, 0x001) → exec (.qdesc id) s = .next t) ∧
      (reg = (0, 0x042) → exec (.portm id) s = .next t) ∧ (reg = (0, 0x041) → exec (.route id) s = .next t) ∧
      (reg ∉ [(1, 0x10A), (1, 0x102), (1, 0x100), (0, 0x001), (0, 0x042), (0, 0x041)] → exec (.registerWrite id) s = .next t))

/-- PACKAGE_RESET leaves no context, no tile state, no packet and no request, the features not committed, no session and no alarm, the fused
minimum SVN and the repair store as they were, the sensors armed and as their reset leaves them, and BOOTED = 1 exactly where both targets
have a valid image to run. TAMPER_ALARM, once the sensors are armed, ends every session, halts the package with code 0xFFFF_0030 whatever
halted it before, and erases the identity where the fuse says so. SENSOR_SAMPLE keeps the sample and halts a package with a die at 110
degrees. READ_STATUS, READ_TELEMETRY and REPAIR_READ are answered to anyone. FW_WRITE, FW_ACTIVATE, SVN_COMMIT, REPAIR_SIGN and RESET are
refused outside a secured session, and after an alarm all but RESET are refused in one too; otherwise, in one, FW_WRITE writes the slot
that is not active, FW_ACTIVATE flips a target whose other slot verifies and leaves it with a RAS record where it does not, SVN_COMMIT
raises the fused minimum to the running SVN and never lowers it, REPAIR_SIGN signs and stores the record, and RESET resets the package.
The SPDM requests are answered over MCTP, and over Courier where its window is open, without a change of anything but the sessions and the
answers: KEY_EXCHANGE opens a session, FINISH that verifies secures it, END_SESSION ends it. The model's own readings in it: measurement
indices 0 and 255, what a package reset keeps, and which repair records apply (notes/assumptions/21.md, 25.md, 34.md). -/
def Obligations.HallmarkCommands : Prop :=
  ∀ s : State,
    let h := s.hallmark
    let say (r : Reply) : State := { s with hallmark := { h with replies := h.replies ++ [r] } }
    let with' (g : Hallmark) (r : Reply) : State := { s with hallmark := { g with replies := h.replies ++ [r] } }
    let sign (l : List Byte) : List Byte := sigBytes (Config.identitySign h.serial (Config.sha384 l))
    let secure : Prop := h.sessions.any (·.2) = true ∧ h.tamp = false
    let spdm (i : Instr) (t : State) : Prop := h.path = .mctp ∨ s.windowOpen = true → exec i s = .next t
    (∃ t, exec .packageReset s = .next t ∧ t.ctxs = [] ∧ t.tiles = [] ∧ t.net = [] ∧ t.reqs = [] ∧ t.featDone = false ∧
      t.hallmark.tamp = false ∧ t.hallmark.sessions = [] ∧ t.hallmark.minsvn = h.minsvn ∧ t.hallmark.store = h.store ∧
      t.hallmark.armed = true ∧ t.hallmark.sensors = Hallmark.reset.sensors ∧ t.hallmark.throttled = [] ∧
      t.hallmark.booted = ((h.runSlot 0).1.isSome && (h.runSlot 1).1.isSome)) ∧
    (h.armed = true → ∃ t, exec .tamperAlarm s = .next t ∧ t.halted = true ∧ t.haltCode = 0xFFFF0030 ∧ t.hallmark.sessions = [] ∧ t.hallmark.tamp = true ∧
      t.hallmark.idgone = (h.idgone || h.iderase) ∧ t.hallmark.replies = h.replies ++ [.alarm]) ∧
    (∀ x, ∃ t, exec (.sensorSample x) s = .next t ∧ t.hallmark.sensors = x ∧ t.hallmark.throttled = throttling x ∧
      h.throttles.toNat ≤ t.hallmark.throttles.toNat ∧ t.halted = (s.halted || x.dieTemp.any fun c => decide (1760 ≤ c))) ∧
    exec .readStatus s = .next (say (.words [h.status])) ∧
    exec .readTelemetry s = .next (say (.words h.telemetry)) ∧
    exec .repairRead s = .next (say (.records h.store)) ∧
    ((∀ i, (i = .svnCommit false ∨ i = .reset false ∨ (∃ t, i = .fwActivate false t) ∨ (∃ t o d, i = .fwWrite false t o d) ∨
        (∃ r, i = .repairSign false r)) → exec i s = .next (say .refused))) ∧
    (h.tamp = true → ∀ b i, (i = .svnCommit b ∨ (∃ t, i = .fwActivate b t) ∨ (∃ t o d, i = .fwWrite b t o d) ∨ (∃ r, i = .repairSign b r)) →
      exec i s = .next (say .refused)) ∧
    (h.sessions.any (·.2) = true → exec (.reset true) s = .next s.packageReset) ∧
    (secure →
      (∀ target off data, target ≤ 1 → off + data.length ≤ 256 + 2 ^ 23 →
        let slot := 1 - h.active target
        exec (.fwWrite true target off data) s =
          .next (with' { h with fw := Tab.put h.fw (2 * target + slot) (putBytes (h.image target slot) off data) } .done)) ∧
      (∀ target, target ≤ 1 →
        let flipped := if h.activeB.contains target then h.activeB.filter (· ≠ target) else h.activeB ++ [target]
        exec (.fwActivate true target) s = .next (if imageValid target h.minsvn (h.image target (1 - h.active target)) then
          with' { h with activeB := flipped } .done else (s.repairRas 0x22).reply .error)) ∧
      exec (.svnCommit true) s = .next (with' { h with minsvn := max h.minsvn h.svn } .done) ∧
      (∀ record, let body := padTo 64 record
        h.idgone = false → h.store.length < 64 → (recKind body = 2 → stackRows h.store (recStack body) < Config.spareRows (recStack body)) →
        exec (.repairSign true record) s = .next (with' { h with store := h.store ++ [body ++ sign body] } .done))) ∧
    spdm .getVersion (say (.bytes [0x13])) ∧
    spdm .getCapabilities (say (.bytes Config.spdmCapabilities)) ∧
    (∀ offer, spdm (.negotiateAlgorithms offer)
      (say (if Algorithm.supported.all fun a => offer.contains a then .done else .error))) ∧
    spdm .getDigests (say (.bytes (digestBytes (Config.sha384 h.certs)))) ∧
    (∀ o n, spdm (.getCertificate o n) (say (.bytes ((h.certs.drop o).take n)))) ∧
    (∀ nonce, let body := nonce ++ digestBytes (Config.sha384 h.certs) ++ digestBytes (Config.sha384 (h.measured.flatMap id))
      spdm (.challenge nonce) (say (if h.idgone then .error else .signed body (sign body)))) ∧
    (∀ index nonce m, h.measurement index = some m →
      spdm (.getMeasurements index nonce) (say (if h.idgone then .error else .signed (m ++ nonce) (sign (m ++ nonce))))) ∧
    (∀ session share, h.idgone = false → (∀ x ∈ h.sessions, x.1 ≠ session) →
      let body := share ++ Config.keyShare session share
      spdm (.keyExchange session share) (with' { h with sessions := h.sessions ++ [(session, false)] } (.session session body (sign body)))) ∧
    (∀ session verify, (session, false) ∈ h.sessions →
      spdm (.finish session verify) (if Config.finishGood session verify then
        with' { h with sessions := h.sessions.map fun x => if x.1 = session then (session, true) else x } .done else say .error)) ∧
    (∀ session, (session, true) ∈ h.sessions →
      spdm (.endSession session) (with' { h with sessions := h.sessions.filter fun x => x.1 ≠ session } .done) ∧
      spdm (.heartbeat session) (say .done))

/-- With nothing listed on the agenda, the current seat's core counts a cycle and the seat, running a threadlet that has no instruction in
progress, executes what stands at its PC: where the word fetched decodes to an instruction, the step is that instruction at the state
after the fetch; an LI64 takes the word after it too; a word that a check of R76 rejects, and a fetch that fails, make a trap; a fetch
that waits leaves the threadlet where it is. Where the seat has issued an instruction already and not yet retired it, the step is that
instruction. The word fetched, on a tile that is not being evicted, is the one that the tile's instruction cache holds for the address,
and otherwise the eight bytes at the physical address of a page that may be fetched, little-endian. A seat that is idle or in SAVE issues
nothing: the cycle counter alone goes on. A turn of the agenda names another seat and its cycles (at least one for a seat that issues now:
a core issues one instruction a cycle), another agent's step, which is exec of its row, something that arrives from outside, or a finer
step. After each turn come the package's own consequences of what it changed: parts whose last threadlet is gone finish, what was held for
other accesses goes, places of ready queues that are free take what waits for them, detections hear of tiles that are quiescent no longer,
the host hears of packets that are pending, and packets leave by ports that have drained. The agenda, the current seat and the finer steps
are the model's own (log 3). The model's own readings in it: how long the instruction cache keeps a word (notes/assumptions/45.md), a
fetch at a PC that is no multiple of 8 (notes/assumptions/59.md), and the second word of an LI64 (notes/assumptions/60.md). -/
def Obligations.StepRunsDecoded : Prop :=
  (∀ (s : State) (t : Threadlet), s.agenda = [] → s.seat s.cur = .run t → t.mid = none →
    let at_ := fun u : State => u.fetchWord s.cur t.ctx
    let priv := ((s.tick 1).ctx t.ctx).priv
    ((s.tme t.ctx t.ltn).st = .moving → step s = settled (.next (s.tick 1))) ∧
    ((s.tme t.ctx t.ltn).st ≠ .moving →
    (∀ w u i, at_ (s.tick 1) t.pc.toNat = (.word w, u) → wantsSecond w = false → decode w 0 = .ok i → step s = settled (exec i u)) ∧
    (∀ w w1 u u1 i, at_ (s.tick 1) t.pc.toNat = (.word w, u) → wantsSecond w = true → at_ u (t.pc + 8).toNat = (.word w1, u1) →
      decode w w1 = .ok i → step s = settled (exec i u1)) ∧
    (∀ w u r, at_ (s.tick 1) t.pc.toNat = (.word w, u) → wantsSecond w = false → decode w 0 = .error r →
      step s = settled (.next (u.rejectTrap ⟨s.cur, t⟩ (rejectCause priv w r) w))) ∧
    (∀ w w1 u u1 r, at_ (s.tick 1) t.pc.toNat = (.word w, u) → wantsSecond w = true → at_ u (t.pc + 8).toNat = (.word w1, u1) →
      decode w w1 = .error r → step s = settled (.next (u1.rejectTrap ⟨s.cur, t⟩ (rejectCause priv w r) w))) ∧
    (∀ c a u, at_ (s.tick 1) t.pc.toNat = (.trap c a, u) → step s = settled (.next (u.fetchTrap ⟨s.cur, t⟩ c a))) ∧
    (∀ u, at_ (s.tick 1) t.pc.toNat = (.wait, u) → step s = settled (.next u)))) ∧
  (∀ (s : State) (t : Threadlet) (m : Mid), s.agenda = [] → s.seat s.cur = .run t → t.mid = some m →
    step s = settled (exec m.instr (s.tick 1))) ∧
  (∀ s : State, settled (.next s) = .next s.finishParts.releaseHeld.drainAll.leaveAll.announceHost.pumpOut) ∧
  (∀ (s : State) (seat : SeatId) (ctx va : Nat) (w : Word), s.cachedWord seat.ptn ctx va = some w → s.fetchWord seat ctx va = (.word w, s)) ∧
  (∀ (s u : State) (seat : SeatId) (ctx va : Nat) (p : Phys), s.cachedWord seat.ptn ctx va = none →
    s.marked ⟨ctx, ptnDie seat.ptn, .seat seat⟩ va true = false →
    s.translate ctx va .fetch = (.ok p, u) → (∀ pkg, p.home ≠ .remote pkg) → hasStorage s.carve p.home p.pa 8 = true →
    s.poisoned p.home p.pa 8 = false →
    ∃ u1, s.fetchWord seat ctx va = (.word (BitVec.ofNat 64 (ofLeBytes (s.homeBytes p 8))), u1) ∧ u1.mem = s.mem ∧ u1.host = s.host ∧
      u1.tiles = s.tiles ∧ u1.parts = s.parts) ∧
  (∀ s : State, s.agenda = [] → (s.seat s.cur = .idle ∨ ∃ t, s.seat s.cur = .save t) → step s = settled (.next (s.tick 1))) ∧
  (∀ (s : State) (p : SeatId) (dt : Nat) (l : List Turn), s.agenda = .seat p dt :: l →
    (∀ t, s.seat p = .run t → t.mid = none) →
    step s = settled (({ s with agenda := l, cur := p } : State).tick (max 1 dt)).seatStep) ∧
  (∀ (s : State) (p : SeatId) (dt : Nat) (l : List Turn) (t : Threadlet), s.agenda = .seat p dt :: l → s.seat p = .run t → t.mid.isSome = true →
    step s = settled (({ s with agenda := l, cur := p } : State).tick dt).seatStep) ∧
  (∀ (s : State) (i : Instr) (l : List Turn), s.agenda = .event i :: l → i.isSeat = false → step s = settled (exec i { s with agenda := l })) ∧
  (∀ (s : State) (a : Outside) (l : List Turn), s.agenda = .outside a :: l →
    step s = settled (.next (({ s with agenda := l } : State).outside a))) ∧
  (∀ (s : State) (m : Micro) (l : List Turn), s.agenda = .micro m :: l →
    step s = settled (.next (({ s with agenda := l } : State).micro m))) ∧
  (∀ (s : State) (n : Nat), (s.tick n).coreAt s.cur.ptn s.cur.core =
    { s.coreAt s.cur.ptn s.cur.core with cyc := (s.coreAt s.cur.ptn s.cur.core).cyc + BitVec.ofNat 64 n })

/-- ADD of 64-bit integers, a saturating VADD, a CMP and a BFI (R format), LI and LI64 with its second word (I format), BR and LOOP backwards
(B format), LDF (M format), SPAWN, SIGD.rel and FLAGS (C format) have the words that the field tables give; a word with OPC 0x00, one with
a reserved FN, one with a bit set in an unused field and one that names a reserved specifier are rejected by their checks. -/
def Obligations.DecodeWords : Prop :=
  decode 0x1000020201000000 0 = .ok (.add ⟨false, 0⟩ false .s64 (.w 2) (.w 2) (.w 1)) ∧
  decode 0x5010414243000800 0 = .ok (.vadd ⟨false, 0⟩ true .s32 (.v 1) (.v 2) (.v 3)) ∧
  decode 0x2B20630102000800 0 = .ok (.cmp ⟨false, 0⟩ .lt .s32 (.k 3) (.w 1) (.w 2)) ∧
  decode 0x2900016902030000 0 = .ok (.bfi ⟨false, 0⟩ (.w 1) .fp (.w 2) (.w 3)) ∧
  decode 0x390001000000000A 0 = .ok (.li ⟨false, 0⟩ (.w 1) 10) ∧
  decode 0x3B00090089ABCDEF 0x01234567 = .ok (.li64 ⟨false, 0⟩ (.w 9) 0x0123456789ABCDEF) ∧
  decode 0x02020000FFFFFFFD 0 = .ok (.br ⟨false, 2⟩ (-3)) ∧
  decode 0x07000100FFFFFFFF 0 = .ok (.loop ⟨false, 0⟩ (.w 1) (-1)) ∧
  decode 0x8600436800020006 0 = .ok (.ldf ⟨false, 0⟩ (.v 3) .zr 2) ∧
  decode 0xA500000582000008 0 = .ok (.sigd ⟨false, 0⟩ .ok true (.w 5) (.f 2)) ∧
  decode 0xAD00070000000000 0 = .ok (.flags ⟨false, 0⟩ (.w 7)) ∧
  decode 0xA700009002000100 0 = .ok (.spawn ⟨false, 0⟩ (.f 16) (.w 2) (.slot 1)) ∧
  decode 0 0 = .error .illegal ∧
  decode 0x100001020304A000 0 = .error .illegal ∧
  decode 0x1020020201000000 0 = .error .illegal ∧
  decode 0x1000020201000001 0 = .error .mbz ∧
  decode 0x1000720201000000 0 = .error .operand

/-- For every well-formed instruction that a seat issues, with every operand at every value that its encoding admits: it has one word, or two
where it is LI64, and the decoder reads from them that instruction and no other. -/
def Obligations.EncodeDecode : Prop :=
  ∀ i : Instr, i.isSeat = true → i.wf = true →
    ∃ w rest, encode i = w :: rest ∧ 8 * (encode i).length = i.size ∧ decode w (rest.headD 0) = .ok i

/-- Where the decoder reads an instruction from a word, and from the one after it for LI64, a seat issues that instruction, it passes checks 1
to 3 and 6 of R76, and its encoding is those words: two words that decode to one instruction are one word. -/
def Obligations.DecodedWellFormed : Prop :=
  ∀ (w w1 : Word) (i : Instr), decode w w1 = .ok i →
    i.isSeat = true ∧ i.wf = true ∧ encode i = (if i.size = 16 then [w, w1] else [w])

/-- In every state, reachable or not, in which the list of bytes that stands for the package's memory and the one that stands for the host's
are in canonical form (addresses strictly rising, no byte listed that equals what an unlisted byte reads as), every step that answers a
next state leaves both in that form: equal memories stay equal data. The form is the model's own (log 1). -/
def Obligations.StepKeepsMemory : Prop :=
  ∀ s t : State, Memory.wf s.mem = true → Memory.wf s.host = true → step s = .next t → Memory.wf t.mem = true ∧ Memory.wf t.host = true

/-- At reset every seat is idle and every core's cycle counter and gap counters are zero (R22, R28), every frame number is FREE (R142), no
context is valid or privileged and no feature is accepted (R363, R358), every queue is disabled and its indices are zero (R336), the
package is not halted, the message ring's registers are zero, every scale-up port is down in mode 0 (R398), the counters of R424 and DNOTC
are zero, HMSTAT reads as before step 7 of the boot (R429), and no request, packet or trap record is under way. The zeros of registers
without a Reset column are the model's choice (log 2). -/
def Obligations.ResetState : Prop :=
  let r := State.reset
  (∀ p, r.seat p = .idle) ∧
  (∀ ptn core, (r.coreAt ptn core).cyc = 0 ∧ (r.coreAt ptn core).nGap = 0 ∧ (r.coreAt ptn core).bGap = 0) ∧
  (∀ ref, r.frame ref = none) ∧
  (∀ c, (r.ctx c).valid = false ∧ (r.ctx c).priv = false ∧ ∀ ltn, (r.tme c ltn).st = .unmapped) ∧
  (r.feat0a = 0 ∧ r.feat1a = 0 ∧ r.featDone = false) ∧
  (∀ q, r.queue q = ⟨0, 0, 0, 0, false, [], none⟩) ∧
  (r.halted = false ∧ r.hmb = 0 ∧ r.hmn = 0 ∧ r.hmw = 0 ∧ r.hmr = 0 ∧ r.msgIndex = 0) ∧
  (∀ p, (Tab.get PortMode.reset r.portm p).word.getLsbD 16 = false ∧ (Tab.get PortMode.reset r.portm p).mode = 0) ∧
  (r.rasSeq = 0 ∧ r.rasDrop = 0 ∧ r.cethr = 0 ∧ r.rasCnt = [] ∧ r.dnotc = 0) ∧
  r.hallmark.status = 0 ∧
  (r.reqs = [] ∧ r.net = [] ∧ r.jobs = [] ∧ r.agenda = [])

/-- At reset no byte of the package's memory and of the host's is listed, both are in the canonical form that every step keeps, and every byte
reads zero: the spec gives memory no contents after reset, so the zero is the model's choice (log 1). -/
def Obligations.ResetMemory : Prop :=
  let r := State.reset
  r.mem = [] ∧ r.host = [] ∧ Memory.wf r.mem = true ∧ Memory.wf r.host = true ∧ ∀ a, Memory.read r.mem a = 0 ∧ Memory.read r.host a = 0
end

