-- ==== Sys2Proof/Laws/Encoding.lean ====
section
/-! SUPPORT. What the fields of a word and the codes of operands, targets, types and modes give back when they are read again. -/

namespace Sys2Proof

/-- Fields that fit their places. -/
structure Fields.Fits (f : Fields) : Prop where
  opc : f.opc < 256
  fn : f.fn < 16
  g : f.g < 16
  d : f.d < 256
  x : f.x < 256
  y : f.y < 256
  z : f.z < 256
  t : f.t < 256
  lo : f.lo < 256

/-- The fields of a word made of fields that fit are those fields. -/
theorem fieldsOf_word (f : Fields) (h : f.Fits) : fieldsOf f.word = f := by
  obtain ⟨h1, h2, h3, h4, h5, h6, h7, h8, h9⟩ := h
  cases f
  simp only at h1 h2 h3 h4 h5 h6 h7 h8 h9
  simp only [fieldsOf, Fields.word, BitVec.toNat_ofNat, Fields.mk.injEq]
  refine ⟨?_, ?_, ?_, ?_, ?_, ?_, ?_, ?_, ?_⟩ <;> omega

/-- A word is the word of its fields. -/
theorem word_fieldsOf (w : Word) : (fieldsOf w).word = w := by
  apply BitVec.eq_of_toNat_eq
  have := w.isLt
  simp only [fieldsOf, Fields.word, BitVec.toNat_ofNat]
  omega

theorem fieldsOf_fits (w : Word) : (fieldsOf w).Fits := by
  constructor <;> simp only [fieldsOf] <;> omega

@[simp] theorem Operand.ofCode_code (o : Operand) : Operand.ofCode o.code = some o := by
  cases o with
  | w n => revert n; decide
  | v n => revert n; decide
  | k n => revert n; decide
  | f n => revert n; decide
  | _ => rfl

theorem Operand.code_ofCode {n : Nat} {o : Operand} (h : Operand.ofCode n = some o) : o.code = n := by
  by_cases hn : n < 256
  · have all : ∀ m : Fin 256, ((Operand.ofCode m.val).all fun o => decide (o.code = m.val)) = true := by decide +kernel
    have := all ⟨n, hn⟩
    simpa [h] using this
  · have : Operand.ofCode n = none := by
      unfold Operand.ofCode
      repeat rw [dif_neg (by omega)]
      repeat rw [if_neg (by omega)]
    rw [this] at h
    cases h

theorem Operand.code_lt (o : Operand) : o.code < 256 := by
  cases o with
  | w n => have := n.isLt; simp only [Operand.code]; omega
  | v n => have := n.isLt; simp only [Operand.code]; omega
  | k n => have := n.isLt; simp only [Operand.code]; omega
  | f n => have := n.isLt; simp only [Operand.code]; omega
  | _ => decide

@[simp] theorem Target.ofCode_code (t : Target) : Target.ofCode t.code = some t := by
  cases t with
  | slot n => revert n; decide
  | nothing => rfl
  | reg n => revert n; decide

theorem Target.code_ofCode {n : Nat} {o : Target} (h : Target.ofCode n = some o) : o.code = n := by
  by_cases hn : n < 256
  · have all : ∀ m : Fin 256, ((Target.ofCode m.val).all fun o => decide (o.code = m.val)) = true := by decide +kernel
    have := all ⟨n, hn⟩
    simpa [h] using this
  · have : Target.ofCode n = none := by
      unfold Target.ofCode
      repeat rw [dif_neg (by omega)]
      repeat rw [if_neg (by omega)]
    rw [this] at h
    cases h

theorem Target.code_lt (t : Target) : t.code < 256 := by
  cases t with
  | slot n => have := n.isLt; simp only [Target.code]; omega
  | nothing => decide
  | reg n => have := n.isLt; simp only [Target.code]; omega

@[simp] theorem Guard.ofCode_code (g : Guard) : Guard.ofCode g.code = g := by
  obtain ⟨neg, k⟩ := g
  have := k.isLt
  cases neg <;> simp [Guard.ofCode, Guard.code] <;> (try constructor) <;> (try apply Fin.ext) <;> (try simp only) <;> omega

theorem Guard.code_ofCode (n : Nat) (h : n < 16) : (Guard.ofCode n).code = n := by
  simp only [Guard.ofCode, Guard.code, decide_eq_true_eq]
  split <;> omega

theorem Guard.code_lt (g : Guard) : g.code < 16 := by
  obtain ⟨neg, k⟩ := g
  have := k.isLt
  cases neg <;> simp [Guard.code] <;> omega

@[simp] theorem Ty.ofCode_code (t : Ty) : Ty.ofCode t.code = some t := by cases t <;> rfl
theorem Ty.code_lt (t : Ty) : t.code < 20 := by cases t <;> decide
/-- A type that a set permits is read back from its code. -/
theorem tyIn_code {p : Ty → Bool} {t : Ty} (h : p t = true) : tyIn p t.code = some t := by simp [tyIn, h]
@[simp] theorem RM.ofCode_code (m : RM) : RM.ofCode m.code = some m := by cases m <;> rfl
theorem RM.code_lt (m : RM) : m.code < 4 := by cases m <;> decide
@[simp] theorem RM.ofCodeSr_code (r : Rounding) :
    (RM.ofCodeSr r.code).bind (fun m => Rounding.ofParts m r.field) = some r := by
  cases r with
  | rm m => cases m <;> rfl
  | sr o => simp [RM.ofCodeSr, Rounding.code, Rounding.ofParts, Rounding.field]
theorem Rounding.code_lt (r : Rounding) : r.code < 5 := by
  cases r with
  | rm m => cases m <;> decide
  | sr _ => exact Nat.lt_succ_self 4
theorem Rounding.field_lt (r : Rounding) : r.field < 256 := by
  cases r with
  | rm _ => exact Nat.zero_lt_succ 255
  | sr o => exact o.code_lt
@[simp] theorem CondI.ofCode_code (c : CondI) : CondI.ofCode c.code = some c := by cases c <;> rfl
theorem CondI.code_lt (c : CondI) : c.code < 16 := by cases c <;> decide
theorem Cond.ofCode_code (c : Cond) {b : Nat} (h : c.code < b) : Cond.ofCode b c.code = some c := by
  cases c <;> simp_all [Cond.ofCode, Cond.code, Nat.pos_iff_ne_zero]
theorem Cond.code_lt (c : Cond) : c.code < 7 := by cases c <;> decide
theorem AtomOp.ofCode_code (o : AtomOp) {first : Nat} (h : first ≤ o.code) : AtomOp.ofCode first o.code = some o := by
  cases o <;> simp_all [AtomOp.ofCode, AtomOp.code]
theorem AtomOp.code_lt (o : AtomOp) : o.code < 11 := by cases o <;> decide
@[simp] theorem RedOp.ofCode_code (o : RedOp) : RedOp.ofCode o.code = some o := by cases o <;> rfl
theorem RedOp.code_lt (o : RedOp) : o.code < 6 := by cases o <;> decide
@[simp] theorem MaskOp.ofCode_code (o : MaskOp) : MaskOp.ofCode o.code = some o := by cases o <;> rfl
theorem MaskOp.code_lt (o : MaskOp) : o.code < 7 := by cases o <;> decide
@[simp] theorem Scope.ofCode_code (x : Scope) : Scope.ofCode x.code = some x := by cases x <;> rfl
theorem Scope.code_lt (x : Scope) : x.code < 6 := by cases x <;> decide
theorem MemOrder.ofCode_code (o : MemOrder) {l : List MemOrder} (h : o ∈ l) : MemOrder.ofCode l o.code = some o := by
  cases o <;> simp [MemOrder.ofCode, MemOrder.code, h]
theorem MemOrder.code_lt (o : MemOrder) : o.code < 4 := by cases o <;> decide
@[simp] theorem Status.ofCode_code (x : Status) : Status.ofCode x.code = x := by cases x <;> rfl
theorem Status.code_lt (x : Status) : x.code < 8 := by cases x <;> decide
@[simp] theorem SendKind.ofCode_code (k : SendKind) : SendKind.ofCode k.code = some k := by cases k <;> rfl
@[simp] theorem RecvKind.ofCode_code (k : RecvKind) : RecvKind.ofCode k.code = some k := by cases k <;> rfl
@[simp] theorem AccKind.ofCode_code (k : AccKind) : AccKind.ofCode k.code = some k := by cases k <;> rfl
@[simp] theorem DrainKind.ofCode_code (k : DrainKind) : DrainKind.ofCode k.code = some k := by cases k <;> rfl
@[simp] theorem FresKind.ofCode_code (k : FresKind) : FresKind.ofCode k.code = some k := by cases k <;> rfl
@[simp] theorem TlbiKind.ofCode_code (k : TlbiKind) : TlbiKind.ofCode k.code = some k := by cases k <;> rfl
@[simp] theorem boolOf_bitOf (b : Bool) : boolOf (bitOf b) = some b := by cases b <;> rfl
theorem bitOf_lt (b : Bool) : bitOf b < 2 := by cases b <;> decide
theorem szIn_val (lo hi : Nat) (n : Fin 7) (h : lo ≤ n.val ∧ n.val ≤ hi) : szIn lo hi n.val = some n := by
  simp [szIn, h, n.isLt]

/-- An immediate laid out in its four bytes is read back. -/
@[simp] theorem imm_bytes (v : BitVec 32) :
    BitVec.ofNat 32 (v.toNat / 2 ^ 24 % 256 * 2 ^ 24 + v.toNat / 2 ^ 16 % 256 * 2 ^ 16 + v.toNat / 2 ^ 8 % 256 * 2 ^ 8 + v.toNat % 256) = v := by
  apply BitVec.eq_of_toNat_eq
  have := v.isLt
  simp only [BitVec.toNat_ofNat]
  omega

/-- The check of operands passes where the instruction's shape says so. -/
theorem checkOperands_ok {i : Instr} {h : Shape} (hs : i.shape = some h) (ho : h.operandsOk = true) : checkOperands i = .ok i := by
  simp [checkOperands, hs, ho]

end Sys2Proof
end

