-- ==== Sys2Proof/Laws/Issue.lean ====
section
/-! SUPPORT. What issuing one instruction can do: the lemma that cuts an instruction that executes down to its body, and the ways in
which it is turned away before that. -/

namespace Sys2Proof.Machine

/-- An instruction that executes comes to the outcome of its body. -/
theorem issue_executes {s : State} {t : Threadlet} {i : Instr} (h : Executes s t i) (body : State → View → Res) :
    issue i s body = .next (settle i s (s.view t) (body s (s.view t))) := by
  obtain ⟨hr, hn, hc, hg, hs⟩ := h
  unfold issue
  rw [hr]
  cases hh : i.shape with
  | none => simp [passesChecks, hh] at hc
  | some sh =>
    simp only [passesChecks, hh, Bool.and_eq_true, Option.isNone_iff_eq_none, Bool.not_eq_true'] at hc
    simp only [guardHolds, hh] at hg
    simp only [sourcesGood, hh, Bool.and_eq_true, Option.isNone_iff_eq_none] at hs
    simp only [judge, hn, hc.1, hc.2, hg, hs.1, Option.getD_none, Bool.not_true, Bool.false_eq_true, if_false, State.view]

/-- An instruction whose guard is false retires with no effect of its own. -/
theorem issue_guard_false {s : State} {t : Threadlet} {i : Instr} (hr : s.seat s.cur = .run t) (hn : s.notReady ⟨s.cur, t⟩ i = false) (hc : passesChecks s t i = true)
    (hg : guardHolds t i = false) (body : State → View → Res) :
    issue i s body = .next (settle i s (s.view t) (retire s t)) := by
  unfold issue
  rw [hr]
  cases hh : i.shape with
  | none => simp [passesChecks, hh] at hc
  | some sh =>
    simp only [passesChecks, hh, Bool.and_eq_true, Option.isNone_iff_eq_none, Bool.not_eq_true'] at hc
    simp only [guardHolds, hh] at hg
    simp only [judge, hn, hc.1, hc.2, hg, Bool.not_false, Bool.false_eq_true, if_false, if_true, State.view]

/-- An instruction that is not ready to issue leaves the state as it is while nothing of it is in progress (R35). -/
theorem issue_not_ready {s : State} {t : Threadlet} {i : Instr} {h : Shape} (hr : s.seat s.cur = .run t) (hh : i.shape = some h)
    (hn : s.notReady ⟨s.cur, t⟩ i = true) (hm : t.mid = none) (body : State → View → Res) : issue i s body = .next s := by
  simp [issue, hr, hh, judge, hn, settle, hm]

/-- A plain outcome whose flags raise no enabled exception retires. -/
theorem settle_next {s : State} {t : Threadlet} {i : Instr} {s' : State} {t' : Threadlet} {f : Fl} (hf : s.quiet t f) :
    settle i s (s.view t) (.next s' t' f) = s'.retired s.cur t.pc i t' f := by
  have h : s.enabledFlags t.ctx f = 0 := hf
  simp only [settle, State.view, h, ne_eq, not_true_eq_false, if_false, State.retired]

/-- Zero flags raise no exception. -/
@[simp] theorem quiet_zero (s : State) (t : Threadlet) : s.quiet t 0#6 := by
  simp [State.quiet, State.enabledFlags]

/-- An outcome whose flags raise an enabled exception traps with cause 0x08 and leaves nothing of the instruction (R33). -/
theorem settle_exception {s : State} {t : Threadlet} {i : Instr} {s' : State} {t' : Threadlet} {f : Fl} (hf : ¬ s.quiet t f) :
    settle i s (s.view t) (.next s' t' f) = s.trapped t i 0x08 0 0 f := by
  have h : s.enabledFlags t.ctx f ≠ 0 := hf
  simp only [settle, State.view, h, ne_eq, not_false_eq_true, if_true, State.trapped]

/-- An instruction that is not ready to issue, and of which nothing is in progress, leaves the state as it is. -/
theorem settle_wait {s : State} {t : Threadlet} {i : Instr} (hm : t.mid = none) : settle i s (s.view t) .wait = s := by
  simp [settle, State.view, hm]

/-- A trap other than a machine check. -/
theorem settle_trap {s : State} {t : Threadlet} {i : Instr} {c code : Nat} {a : Word} {f : Fl} (hc : c ≠ 0x30) :
    settle i s (s.view t) (.trap c code a f) = s.trapped t i c code a f := by
  simp only [settle, State.view, hc, if_false, State.trapped]

/-- The view's threadlet. -/
@[simp] theorem view_t (s : State) (t : Threadlet) : (s.view t).t = t := rfl
/-- The view's seat. -/
@[simp] theorem view_seat (s : State) (t : Threadlet) : (s.view t).seat = s.cur := rfl

/-- A scalar or mask result that retires. -/
theorem settle_retireOp {s : State} {t : Threadlet} {i : Instr} {d : Operand} {x : Word} {f : Fl} (hf : s.quiet t f) :
    settle i s (s.view t) (retireOp s (s.view t) d x f) = (writeOp s t d x).1.retired s.cur t.pc i (writeOp s t d x).2 f :=
  settle_next hf

/-- A branch. -/
theorem settle_jump {s : State} {t : Threadlet} {i : Instr} {s' : State} {t' : Threadlet} {pc : Word} :
    settle i s (s.view t) (.jump s' t' pc) = s'.setSeat s.cur (.run { t' with pc := pc, mid := none }) := rfl

/-- Whatever the outcome, issue answers a next state while the seat runs and the instruction is one that seats issue. -/
theorem issue_next {s : State} {t : Threadlet} {i : Instr} {h : Shape} (hr : s.seat s.cur = .run t) (hh : i.shape = some h)
    (body : State → View → Res) : issue i s body = .next (settle i s (s.view t) (judge i h s (s.view t) body)) := by
  simp only [issue, hr, hh, State.view]

end Sys2Proof.Machine
end

