-- ==== Sys2Proof/Laws/Exec.lean ====
section
/-! SUPPORT. Every instruction of a seat is issued: what that says about all of them at once. -/

namespace Sys2Proof.Machine

/-- Every instruction that has a shape is issued, with a body of its own. -/
theorem exec_issue (i : Instr) (h : i.shape.isSome = true) : ∃ body, ∀ s, exec i s = issue i s body := by
  cases i
  all_goals first
    | exact ⟨_, fun s => rfl⟩
    | exact absurd h (by simp [Instr.shape])

end Sys2Proof.Machine
end

