-- ==== Sys2Proof/Laws/Lanes.lean ====
section
/-! SUPPORT. Lanes of a vector register: what a lane reads after one lane is set, and what a lane by lane operation does. -/

namespace Sys2Proof.Machine

/-- A register with one lane replaced: the bits above, the lane, and the bits below. -/
theorem setLane_toNat (v : BitVec 512) (w j x : Nat) (h : w * j + w ≤ 512) :
    (setLane v w j x).toNat = (v.toNat / 2 ^ (w * j) / 2 ^ w * 2 ^ w + x % 2 ^ w) * 2 ^ (w * j) + v.toNat % 2 ^ (w * j) := by
  have hv := v.isLt
  have hA : 0 < 2 ^ (w * j) := Nat.two_pow_pos _
  have hW : 0 < 2 ^ w := Nat.two_pow_pos _
  have hK : (2 : Nat) ^ 512 = 2 ^ (512 - (w * j + w)) * 2 ^ w * 2 ^ (w * j) := by
    rw [← pow_add, ← pow_add]; congr 1; omega
  unfold setLane lane
  generalize v.toNat = n at *
  generalize 2 ^ (w * j) = A at *
  generalize 2 ^ w = W at *
  generalize 2 ^ (512 - (w * j + w)) = K at *
  have e1 := Nat.div_add_mod n A
  have e2 := Nat.div_add_mod (n / A) W
  have hx := Nat.mod_lt x hW
  have hr := Nat.mod_lt n hA
  have hh : n / A / W < K := by
    rw [Nat.div_div_eq_div_mul, Nat.div_lt_iff_lt_mul (Nat.mul_pos hA hW)]
    calc n < 2 ^ 512 := hv
      _ = K * (A * W) := by rw [hK]; ring
  have e3 : n - n / A % W * A + x % W * A = (n / A / W * W + x % W) * A + n % A := by
    have : n = (n / A / W * W) * A + n / A % W * A + n % A := by
      calc n = A * (n / A) + n % A := e1.symm
        _ = A * (W * (n / A / W) + n / A % W) + n % A := by rw [e2]
        _ = _ := by ring
    have e4 : (n / A / W * W + x % W) * A = (n / A / W * W) * A + x % W * A := by ring
    omega
  rw [e3, BitVec.toNat_ofNat, Nat.mod_eq_of_lt]
  rw [hK]
  calc (n / A / W * W + x % W) * A + n % A < (n / A / W * W + x % W) * A + A := by omega
    _ = (n / A / W * W + (x % W + 1)) * A := by ring
    _ ≤ (n / A / W * W + W) * A := by apply Nat.mul_le_mul_right; omega
    _ = (n / A / W + 1) * W * A := by ring
    _ ≤ K * W * A := by apply Nat.mul_le_mul_right; apply Nat.mul_le_mul_right; omega

/-- The lane that is set. -/
theorem lane_setLane_same (v : BitVec 512) (w j x : Nat) (h : w * j + w ≤ 512) : lane (setLane v w j x) w j = x % 2 ^ w := by
  have hA : 0 < 2 ^ (w * j) := Nat.two_pow_pos _
  have hW : 0 < 2 ^ w := Nat.two_pow_pos _
  rw [lane, setLane_toNat v w j x h]
  have hr := Nat.mod_lt v.toNat hA
  rw [Nat.mul_comm, Nat.mul_add_div hA, Nat.div_eq_of_lt hr, Nat.add_zero, Nat.mul_comm _ (2 ^ w), Nat.mul_add_mod, Nat.mod_mod]

/-- Another lane. -/
theorem lane_setLane_other (v : BitVec 512) (w j i x : Nat) (h : w * j + w ≤ 512) (hij : i ≠ j) :
    lane (setLane v w j x) w i = lane v w i := by
  have hA : 0 < 2 ^ (w * j) := Nat.two_pow_pos _
  have hW : 0 < 2 ^ w := Nat.two_pow_pos _
  have hr := Nat.mod_lt v.toNat hA
  rw [lane, lane, setLane_toNat v w j x h]
  rcases Nat.lt_or_gt_of_ne hij with hl | hg
  · have hp : (2 : Nat) ^ (w * j) = 2 ^ (w * i) * (2 ^ w * 2 ^ (w * (j - i - 1))) := by
      rw [← pow_add, ← pow_add]; congr 1
      obtain ⟨k, rfl⟩ := Nat.exists_eq_add_of_lt hl
      rw [show i + k + 1 - i - 1 = k by omega]; ring
    have hI : 0 < 2 ^ (w * i) := Nat.two_pow_pos _
    have key : ∀ q : Nat, (q * 2 ^ (w * j) + v.toNat % 2 ^ (w * j)) / 2 ^ (w * i) % 2 ^ w =
        v.toNat % 2 ^ (w * j) / 2 ^ (w * i) % 2 ^ w := by
      intro q
      generalize v.toNat % 2 ^ (w * j) = r
      rw [hp, show q * (2 ^ (w * i) * (2 ^ w * 2 ^ (w * (j - i - 1)))) = 2 ^ (w * i) * (2 ^ w * (q * 2 ^ (w * (j - i - 1)))) by ring,
        Nat.mul_add_div hI, Nat.mul_add_mod]
    rw [key, ← key (v.toNat / 2 ^ (w * j)), Nat.mul_comm (v.toNat / 2 ^ (w * j)), Nat.div_add_mod]
  · have hp : (2 : Nat) ^ (w * i) = 2 ^ (w * j) * 2 ^ w * 2 ^ (w * (i - j - 1)) := by
      rw [← pow_add, ← pow_add]; congr 1
      obtain ⟨k, rfl⟩ := Nat.exists_eq_add_of_lt hg
      rw [show j + k + 1 - j - 1 = k by omega]; ring
    rw [hp, ← Nat.div_div_eq_div_mul, ← Nat.div_div_eq_div_mul, ← Nat.div_div_eq_div_mul, ← Nat.div_div_eq_div_mul]
    rw [Nat.mul_comm _ (2 ^ (w * j)), Nat.mul_add_div hA, Nat.div_eq_of_lt hr, Nat.add_zero, Nat.mul_comm _ (2 ^ w), Nat.mul_add_div hW,
      Nat.div_eq_of_lt (Nat.mod_lt x hW), Nat.add_zero]

/-- Bits above a lane that is set. -/
theorem setLane_above (v : BitVec 512) (w j n x : Nat) (h : w * j + w ≤ 512) (hn : w * j + w ≤ n) :
    (setLane v w j x).toNat / 2 ^ n = v.toNat / 2 ^ n := by
  have hA : 0 < 2 ^ (w * j) := Nat.two_pow_pos _
  have hW : 0 < 2 ^ w := Nat.two_pow_pos _
  have hr := Nat.mod_lt v.toNat hA
  have hp : (2 : Nat) ^ n = 2 ^ (w * j) * 2 ^ w * 2 ^ (n - (w * j + w)) := by
    rw [← pow_add, ← pow_add]; congr 1; omega
  rw [setLane_toNat v w j x h, hp, ← Nat.div_div_eq_div_mul, ← Nat.div_div_eq_div_mul, ← Nat.div_div_eq_div_mul, ← Nat.div_div_eq_div_mul]
  rw [Nat.mul_comm _ (2 ^ (w * j)), Nat.mul_add_div hA, Nat.div_eq_of_lt hr, Nat.add_zero, Nat.mul_comm _ (2 ^ w), Nat.mul_add_div hW,
    Nat.div_eq_of_lt (Nat.mod_lt x hW), Nat.add_zero]

/-- One more lane of a lane by lane operation. -/
theorem mapLanes_succ (m : Word) (n w : Nat) (old : BitVec 512) (f : Nat → Nat × Fl) :
    mapLanes m (n + 1) w old f =
      if active m n then (setLane (mapLanes m n w old f).1 w n (f n).1, (mapLanes m n w old f).2 ||| (f n).2)
      else mapLanes m n w old f := by
  simp only [mapLanes, List.range_succ, List.foldl_append, List.foldl_cons, List.foldl_nil]

/-- Lane j after a lane by lane operation on n lanes. -/
theorem mapLanes_lane (m : Word) (n w : Nat) (old : BitVec 512) (f : Nat → Nat × Fl) (h : n * w ≤ 512) (j : Nat) :
    lane (mapLanes m n w old f).1 w j = if j < n ∧ active m j = true then (f j).1 % 2 ^ w else lane old w j := by
  induction n with
  | zero => simp [mapLanes]
  | succ n ih =>
    have hn : n * w ≤ 512 := by nlinarith
    have hb : w * n + w ≤ 512 := by nlinarith
    rw [mapLanes_succ]
    by_cases ha : active m n = true
    · rw [if_pos ha]
      by_cases hj : j = n
      · subst hj
        rw [lane_setLane_same _ _ _ _ hb, if_pos ⟨Nat.lt_succ_self _, ha⟩]
      · rw [lane_setLane_other _ _ _ _ _ hb hj, ih hn]
        simp only [show (j < n + 1) ↔ (j < n) from ⟨fun h => by omega, fun h => by omega⟩]
    · rw [if_neg ha, ih hn]
      by_cases hj : j = n
      · subst hj; simp [ha]
      · simp only [show (j < n + 1) ↔ (j < n) from ⟨fun h => by omega, fun h => by omega⟩]

/-- The flags of a lane by lane operation are those of its active lanes. -/
theorem mapLanes_flags (m : Word) (n w : Nat) (old : BitVec 512) (f : Nat → Nat × Fl) :
    (mapLanes m n w old f).2 = orFlags (((List.range n).filter fun j => m.getLsbD j).map fun j => (f j).2) := by
  induction n with
  | zero => rfl
  | succ n ih =>
    rw [mapLanes_succ, List.range_succ, List.filter_append, List.map_append, orFlags, List.foldl_append, ← orFlags, ← ih]
    by_cases ha : active m n = true
    · simp only [ha, if_true]
      simp only [active] at ha
      simp [ha]
    · simp only [ha]
      simp only [active] at ha
      simp [ha]

/-- Bits above the lanes of a lane by lane operation. -/
theorem mapLanes_above (m : Word) (n w : Nat) (old : BitVec 512) (f : Nat → Nat × Fl) (h : n * w ≤ 512) (k : Nat) (hk : n * w ≤ k) :
    (mapLanes m n w old f).1.toNat / 2 ^ k = old.toNat / 2 ^ k := by
  induction n with
  | zero => simp [mapLanes]
  | succ n ih =>
    have hn : n * w ≤ 512 := by nlinarith
    have hb : w * n + w ≤ 512 := by nlinarith
    have hk' : w * n + w ≤ k := by nlinarith
    rw [mapLanes_succ]
    split
    · rw [setLane_above _ _ _ _ _ hb hk', ih hn (by nlinarith)]
    · exact ih hn (by nlinarith)

end Sys2Proof.Machine
end

