-- ==== Sys2Proof/Laws/Tab.lean ====
section
/-! SUPPORT. Laws of sparse tables and of memory: reading back what was written, leaving everything else alone, and keeping the canonical
form. -/

namespace Sys2Proof.Machine

/-! ## Tables -/

theorem Tab.get_drop_same {α : Type} (d : α) (t : Table α) (n : Nat) : Tab.get d (Tab.drop t n) n = d := by
  induction t with
  | nil => rfl
  | cons e t ih =>
    obtain ⟨k, v⟩ := e
    by_cases h : k = n <;> simp [Tab.drop, Tab.get, h, ih]

theorem Tab.get_drop_other {α : Type} (d : α) (t : Table α) {n m : Nat} (h : m ≠ n) :
    Tab.get d (Tab.drop t n) m = Tab.get d t m := by
  induction t with
  | nil => rfl
  | cons e t ih =>
    obtain ⟨k, v⟩ := e
    by_cases hk : k = n
    · subst hk
      simp only [Tab.drop, if_true, Tab.get, ih]
      rw [if_neg fun c => h c.symm]
    · simp only [Tab.drop, hk, if_false, Tab.get, ih]

theorem Tab.get_ins_same {α : Type} (d : α) (t : Table α) (n : Nat) (x : α) (h : ∀ e ∈ t, e.1 ≠ n) :
    Tab.get d (Tab.ins t n x) n = x := by
  induction t with
  | nil => simp [Tab.ins, Tab.get]
  | cons e t ih =>
    obtain ⟨k, v⟩ := e
    have hk : k ≠ n := h (k, v) (by simp)
    by_cases hlt : n < k
    · simp [Tab.ins, Tab.get, hlt]
    · simp [Tab.ins, Tab.get, hlt, hk, ih fun e he => h e (by simp [he])]

theorem Tab.get_ins_other {α : Type} (d : α) (t : Table α) {n m : Nat} (x : α) (h : m ≠ n) :
    Tab.get d (Tab.ins t n x) m = Tab.get d t m := by
  induction t with
  | nil =>
    simp [Tab.ins, Tab.get]
    intro c
    exact absurd c.symm h
  | cons e t ih =>
    obtain ⟨k, v⟩ := e
    by_cases hlt : n < k
    · simp [Tab.ins, Tab.get, hlt]
      intro c
      exact absurd c.symm h
    · simp only [Tab.ins, hlt, if_false, Tab.get, ih]

theorem Tab.drop_not_mem {α : Type} (t : Table α) (n : Nat) : ∀ e ∈ Tab.drop t n, e.1 ≠ n := by
  induction t with
  | nil => simp [Tab.drop]
  | cons e t ih =>
    obtain ⟨k, v⟩ := e
    by_cases h : k = n
    · simpa [Tab.drop, h] using ih
    · intro e he
      simp only [Tab.drop, h, if_false, List.mem_cons] at he
      rcases he with rfl | he
      · exact h
      · exact ih e he

@[simp] theorem Tab.get_put_same {α : Type} (d : α) (t : Table α) (n : Nat) (x : α) : Tab.get d (Tab.put t n x) n = x :=
  Tab.get_ins_same d _ n x (Tab.drop_not_mem t n)

@[simp] theorem Tab.get_put_other {α : Type} (d : α) (t : Table α) {n m : Nat} (x : α) (h : m ≠ n) :
    Tab.get d (Tab.put t n x) m = Tab.get d t m := by
  simp only [Tab.put]
  rw [Tab.get_ins_other d _ x h, Tab.get_drop_other d t h]

@[simp] theorem Tab.get_set_same {α : Type} [DecidableEq α] (d : α) (t : Table α) (n : Nat) (x : α) :
    Tab.get d (Tab.set d t n x) n = x := by
  by_cases h : x = d
  · simp [Tab.set, h, Tab.get_drop_same]
  · simp [Tab.set, h]

@[simp] theorem Tab.get_set_other {α : Type} [DecidableEq α] (d : α) (t : Table α) {n m : Nat} (x : α) (h : m ≠ n) :
    Tab.get d (Tab.set d t n x) m = Tab.get d t m := by
  by_cases hx : x = d
  · simp [Tab.set, hx, Tab.get_drop_other d t h]
  · simp [Tab.set, hx, h]

theorem Tab.find_drop_other {α : Type} (t : Table α) {n m : Nat} (h : m ≠ n) : Tab.find (Tab.drop t n) m = Tab.find t m := by
  induction t with
  | nil => rfl
  | cons e t ih =>
    obtain ⟨k, v⟩ := e
    by_cases hk : k = n
    · subst hk
      simp only [Tab.drop, if_true, Tab.find, ih]
      rw [if_neg fun c => h c.symm]
    · simp only [Tab.drop, hk, if_false, Tab.find, ih]

theorem Tab.find_drop_same {α : Type} (t : Table α) (n : Nat) : Tab.find (Tab.drop t n) n = none := by
  induction t with
  | nil => rfl
  | cons e t ih =>
    obtain ⟨k, v⟩ := e
    by_cases h : k = n <;> simp [Tab.drop, Tab.find, h, ih]

@[simp] theorem Tab.find_put_same {α : Type} (t : Table α) (n : Nat) (x : α) : Tab.find (Tab.put t n x) n = some x := by
  have h := Tab.drop_not_mem t n
  simp only [Tab.put]
  generalize Tab.drop t n = u at h
  induction u with
  | nil => simp [Tab.ins, Tab.find]
  | cons e u ih =>
    obtain ⟨k, v⟩ := e
    have hk : k ≠ n := h (k, v) (by simp)
    by_cases hlt : n < k
    · simp [Tab.ins, Tab.find, hlt]
    · simp [Tab.ins, Tab.find, hlt, hk, ih fun e he => h e (by simp [he])]

@[simp] theorem Tab.find_put_other {α : Type} (t : Table α) {n m : Nat} (x : α) (h : m ≠ n) :
    Tab.find (Tab.put t n x) m = Tab.find t m := by
  simp only [Tab.put]
  rw [← Tab.find_drop_other t h]
  generalize Tab.drop t n = u
  induction u with
  | nil =>
    simp [Tab.ins, Tab.find]
    intro c
    exact absurd c.symm h
  | cons e u ih =>
    obtain ⟨k, v⟩ := e
    by_cases hlt : n < k
    · simp [Tab.ins, Tab.find, hlt]
      intro c
      exact absurd c.symm h
    · simp only [Tab.ins, hlt, if_false, Tab.find, ih]

/-! ## The canonical form -/

theorem Tab.wf_cons {α : Type} [DecidableEq α] (d : α) (k : Nat) (v : α) (t : Table α) :
    Tab.wf d ((k, v) :: t) = true ↔ v ≠ d ∧ (∀ e ∈ t, k < e.1) ∧ Tab.wf d t = true := by
  simp [Tab.wf, and_assoc]

theorem Tab.mem_of_mem_drop {α : Type} (t : Table α) (n : Nat) : ∀ e ∈ Tab.drop t n, e ∈ t := by
  induction t with
  | nil => simp [Tab.drop]
  | cons e t ih =>
    obtain ⟨k, v⟩ := e
    intro e he
    by_cases h : k = n
    · simp only [Tab.drop, h, if_true] at he
      exact List.mem_cons_of_mem _ (ih e he)
    · simp only [Tab.drop, h, if_false, List.mem_cons] at he
      rcases he with rfl | he
      · simp
      · exact List.mem_cons_of_mem _ (ih e he)

theorem Tab.wf_drop {α : Type} [DecidableEq α] (d : α) (t : Table α) (n : Nat) (h : Tab.wf d t = true) :
    Tab.wf d (Tab.drop t n) = true := by
  induction t with
  | nil => rfl
  | cons e t ih =>
    obtain ⟨k, v⟩ := e
    obtain ⟨hv, hk, ht⟩ := (Tab.wf_cons d k v t).1 h
    by_cases hn : k = n
    · simpa [Tab.drop, hn] using ih ht
    · simp only [Tab.drop, hn, if_false]
      exact (Tab.wf_cons d k v _).2 ⟨hv, fun e he => hk e (Tab.mem_of_mem_drop t n e he), ih ht⟩

theorem Tab.mem_ins {α : Type} (t : Table α) (n : Nat) (x : α) : ∀ e ∈ Tab.ins t n x, e = (n, x) ∨ e ∈ t := by
  induction t with
  | nil => simp [Tab.ins]
  | cons e t ih =>
    obtain ⟨k, v⟩ := e
    intro e he
    by_cases h : n < k
    · simpa [Tab.ins, h] using he
    · simp only [Tab.ins, h, if_false, List.mem_cons] at he
      rcases he with rfl | he
      · simp
      · rcases ih e he with h1 | h1
        · exact .inl h1
        · exact .inr (List.mem_cons_of_mem _ h1)

theorem Tab.wf_ins {α : Type} [DecidableEq α] (d : α) (t : Table α) (n : Nat) (x : α) (hx : x ≠ d) (hn : ∀ e ∈ t, e.1 ≠ n)
    (h : Tab.wf d t = true) : Tab.wf d (Tab.ins t n x) = true := by
  induction t with
  | nil => simp [Tab.ins, Tab.wf, hx]
  | cons e t ih =>
    obtain ⟨k, v⟩ := e
    obtain ⟨hv, hk, ht⟩ := (Tab.wf_cons d k v t).1 h
    have hkn : k ≠ n := hn (k, v) (by simp)
    by_cases hlt : n < k
    · simp only [Tab.ins, hlt, if_true]
      refine (Tab.wf_cons d n x _).2 ⟨hx, ?_, h⟩
      intro e he
      rcases List.mem_cons.1 he with rfl | he
      · exact hlt
      · exact Nat.lt_trans hlt (hk e he)
    · simp only [Tab.ins, hlt, if_false]
      refine (Tab.wf_cons d k v _).2 ⟨hv, ?_, ih (fun e he => hn e (by simp [he])) ht⟩
      intro e he
      rcases Tab.mem_ins t n x e he with rfl | he
      · show k < n
        omega
      · exact hk e he

theorem Tab.wf_set {α : Type} [DecidableEq α] (d : α) (t : Table α) (n : Nat) (x : α) (h : Tab.wf d t = true) :
    Tab.wf d (Tab.set d t n x) = true := by
  by_cases hx : x = d
  · simpa [Tab.set, hx] using Tab.wf_drop d t n h
  · simp only [Tab.set, hx, if_false, Tab.put]
    exact Tab.wf_ins d _ n x hx (Tab.drop_not_mem t n) (Tab.wf_drop d t n h)

/-! ## Memory -/

@[simp] theorem Memory.read_write_same (m : List Host.Cell) (a : Nat) (b : Byte) : Memory.read (Memory.write m a b) a = b :=
  Tab.get_set_same _ m a b

@[simp] theorem Memory.read_write_other (m : List Host.Cell) {a c : Nat} (b : Byte) (h : c ≠ a) :
    Memory.read (Memory.write m a b) c = Memory.read m c := Tab.get_set_other _ m b h

/-- Bytes outside a write are as before. -/
theorem Memory.read_writeBytes_other (l : List Byte) (m : List Host.Cell) (a c : Nat) (h : c < a ∨ a + l.length ≤ c) :
    Memory.read (Memory.writeBytes m a l) c = Memory.read m c := by
  induction l generalizing m a with
  | nil => rfl
  | cons b l ih =>
    simp only [List.length_cons] at h
    simp only [Memory.writeBytes]
    rw [ih (Memory.write m a b) (a + 1) (by omega), Memory.read_write_other m b (by omega)]

/-- A written byte reads back. -/
theorem Memory.read_writeBytes (l : List Byte) (m : List Host.Cell) (a i : Nat) (h : i < l.length) :
    Memory.read (Memory.writeBytes m a l) (a + i) = l[i] := by
  induction l generalizing m a i with
  | nil => simp at h
  | cons b l ih =>
    simp only [Memory.writeBytes]
    cases i with
    | zero =>
      show Memory.read _ a = b
      rw [Memory.read_writeBytes_other l _ (a + 1) a (by omega), Memory.read_write_same]
    | succ i =>
      have := ih (Memory.write m a b) (a + 1) i (by simpa using h)
      rw [show a + (i + 1) = a + 1 + i by omega, this]
      simp

theorem Memory.wf_write (m : List Host.Cell) (a : Nat) (b : Byte) (h : Memory.wf m = true) : Memory.wf (Memory.write m a b) = true :=
  Tab.wf_set _ m a b h

/-- Every write keeps the canonical form. -/
theorem Memory.wf_writeBytes (l : List Byte) (m : List Host.Cell) (a : Nat) (h : Memory.wf m = true) :
    Memory.wf (Memory.writeBytes m a l) = true := by
  induction l generalizing m a with
  | nil => exact h
  | cons b l ih => exact ih _ _ (Memory.wf_write m a b h)

end Sys2Proof.Machine
end

