-- ==== Sys2Proof/Laws/Memory.lean ====
section
/-! SUPPORT. Every operation that writes memory keeps both memories in the canonical form. -/

namespace Sys2Proof.Machine

/-- Both memories are in the canonical form. -/
def State.MemOk (s : State) : Prop := Memory.wf s.mem = true ∧ Memory.wf s.host = true

theorem State.MemOk.of_eq {s t : State} (h : s.MemOk) (hm : t.mem = s.mem) (hh : t.host = s.host) : t.MemOk := by
  simpa [State.MemOk, hm, hh] using h

theorem foldl_memOk {α : Type} (f : State → α → State) (hf : ∀ s a, s.MemOk → (f s a).MemOk) (l : List α) (s : State) (h : s.MemOk) :
    (l.foldl f s).MemOk := by
  induction l generalizing s with
  | nil => exact h
  | cons a l ih => exact ih _ (hf s a h)

theorem foldl_mem_eq {α : Type} (f : State → α → State) (hf : ∀ s a, (f s a).mem = s.mem ∧ (f s a).host = s.host) (l : List α) (s : State) :
    (l.foldl f s).mem = s.mem ∧ (l.foldl f s).host = s.host := by
  induction l generalizing s with
  | nil => exact ⟨rfl, rfl⟩
  | cons a l ih => exact ⟨(ih _).1.trans (hf s a).1, (ih _).2.trans (hf s a).2⟩

theorem State.drainGo_memOk (k : Nat) (s : State) (h : s.MemOk) : (State.drainMessages.go k s).MemOk := by
  induction k generalizing s with
  | zero => exact h
  | succ k ih =>
    simp only [State.drainMessages.go]
    split
    · exact h
    · split
      · exact h
      · exact ih _ ⟨h.1, Memory.wf_writeBytes _ _ _ (Memory.wf_writeBytes _ _ _ h.2)⟩

theorem State.drainMessages_memOk (s : State) (h : s.MemOk) : s.drainMessages.MemOk := by
  unfold State.drainMessages
  split
  · exact h
  · exact State.drainGo_memOk _ _ h

theorem State.hostMessage_memOk (s : State) (type ctx : Nat) (body : List Byte) (h : s.MemOk) : (s.hostMessage type ctx body).MemOk :=
  State.drainMessages_memOk _ h

theorem State.postRas_memOk (s : State) (rec : List Byte) (ctx : Nat) (h : s.MemOk) : (s.postRas rec ctx).MemOk := by
  unfold State.postRas
  simp only
  split
  · split <;> exact h
  · split
    · exact State.hostMessage_memOk _ _ _ _ h
    · exact h

theorem State.ras_memOk (s : State) (src sev ctx die : Nat) (loc : Word) (ptn : Nat) (h : s.MemOk) : (s.ras src sev ctx die loc ptn).MemOk :=
  State.postRas_memOk _ _ _ h

theorem State.countRow_memOk (s : State) (granule : Nat) (bad : Bool) (h : s.MemOk) : (s.countRow granule bad).MemOk := by
  unfold State.countRow
  dsimp only
  generalize (if bad = true then _ else _ : Nat × Nat) = c
  split
  · exact State.ras_memOk _ _ _ _ _ _ _ h
  · exact h

theorem State.lostRas_memOk (s : State) (ctx : Nat) (l : Nat × Nat) (h : s.MemOk) : (s.lostRas ctx l).MemOk := by
  unfold State.lostRas
  dsimp only
  split
  · exact State.countRow_memOk _ _ _ (State.ras_memOk _ _ _ _ _ _ _ h)
  · exact State.ras_memOk _ _ _ _ _ _ _ h

theorem State.poisonRas_memOk (s : State) (p : Phys) (ctx : Nat) (h : s.MemOk) : (s.poisonRas p ctx).MemOk := by
  unfold State.poisonRas
  split
  · exact State.ras_memOk _ _ _ _ _ _ _ h
  all_goals exact State.lostRas_memOk _ _ _ h

theorem State.rasOpen_memOk (s : State) (src sev ctx die ptn : Nat) (h : s.MemOk) : (s.rasOpen src sev ctx die ptn).MemOk :=
  State.ras_memOk { s with fresh := s.fresh + 1 } _ _ _ _ _ _ h

theorem State.rasCorrected_memOk (s : State) (src ctx die : Nat) (loc : Word) (ptn : Nat) (h : s.MemOk) :
    (s.rasCorrected src ctx die loc ptn).MemOk := by
  unfold State.rasCorrected
  simp only
  split
  · exact h
  · exact State.postRas_memOk _ _ _ h

theorem State.devRas_memOk (s : State) (ctx : Nat) (e : DevErr) (h : s.MemOk) : (s.devRas ctx e).MemOk := by
  unfold State.devRas
  split
  · exact State.lostRas_memOk _ _ _ h
  · exact State.poisonRas_memOk _ _ _ h
  all_goals exact h

theorem State.poisonAt_memOk (s : State) (ctx va : Nat) (e : DevErr) (h : s.MemOk) : (s.poisonAt ctx va e).MemOk := by
  unfold State.poisonAt
  split
  · exact State.poisonRas_memOk _ _ _ h
  · exact h

theorem State.serviceRecord_memOk (s : State) (ctx va kind die : Nat) (who : List Waiter) (h : s.MemOk) :
    (s.serviceRecord ctx va kind die who).MemOk := by
  unfold State.serviceRecord
  simp only
  split
  · exact h
  · split
    · exact h
    · exact State.hostMessage_memOk _ _ _ _ h

theorem State.emit_mem {s t : State} {ctx pkg index : Nat} {mem : Bool} {body : OutBody} (h : s.emit ctx pkg index mem body = some t) :
    t.mem = s.mem ∧ t.host = s.host := by
  unfold State.emit at h
  cases he : s.egress ctx pkg index mem with
  | none => simp [he] at h
  | some e =>
    simp only [he, Option.map_some, Option.some.injEq] at h
    subst h
    unfold State.inject
    split <;> exact ⟨rfl, rfl⟩

theorem State.lend_mem (s : State) (f : Far) : (s.lend f).mem = s.mem ∧ (s.lend f).host = s.host := by
  unfold State.lend
  dsimp only
  split
  · exact ⟨rfl, rfl⟩
  · split
    · rename_i t ht
      have he : t.mem = s.mem ∧ t.host = s.host := by
        simp only [ite_eq_iff, reduceCtorEq, and_false, false_or] at ht
        exact State.emit_mem ht.2
      exact he
    · exact ⟨rfl, rfl⟩

theorem State.service_memOk (s : State) (m : Miss) (kind : Nat) (h : s.MemOk) : (s.service m kind).MemOk := by
  unfold State.service
  split
  · exact State.MemOk.of_eq h (State.lend_mem _ _).1 (State.lend_mem _ _).2
  · exact State.serviceRecord_memOk _ _ _ _ _ _ h

theorem State.devFail_memOk (s : State) (d : Dev) (e : DevErr) (h : s.MemOk) : (s.devFail d e).MemOk :=
  State.devRas_memOk _ _ _ h

theorem State.translate_memOk (s : State) (ctx va : Nat) (acc : Access) (h : s.MemOk) : (s.translate ctx va acc).2.MemOk := by
  unfold State.translate
  split
  · exact h
  · split
    · dsimp only
      split <;> exact h
    · exact h
    · exact State.lostRas_memOk _ _ _ h
    · exact h

theorem State.coverPoison_memOk (s : State) (pa n ctx : Nat) (h : s.MemOk) : (s.coverPoison pa n ctx).MemOk :=
  foldl_memOk _ (fun s _ h => State.ras_memOk s _ _ _ _ _ _ h) _ _ h

theorem State.fireWatches_mem (s : State) (pa n : Nat) : (s.fireWatches pa n).mem = s.mem ∧ (s.fireWatches pa n).host = s.host :=
  foldl_mem_eq (fun s (e : Nat × Word) => s.answerAll [e.1] .ok [some e.2]) (fun _ _ => ⟨rfl, rfl⟩) _ _

theorem State.emptyWords_mem (s : State) (pa n : Nat) : (s.emptyWords pa n).mem = s.mem ∧ (s.emptyWords pa n).host = s.host :=
  ⟨rfl, rfl⟩

/-- A write performed at its home keeps the form. -/
theorem State.perform_memOk (s : State) (p : Phys) (ctx : Nat) (data : List Byte) (h : s.MemOk) : (s.perform p ctx data).MemOk := by
  have hw := State.coverPoison_memOk s p.pa data.length ctx h
  unfold State.perform
  split
  · exact ⟨h.1, Memory.wf_writeBytes _ _ _ h.2⟩
  all_goals
    exact State.MemOk.of_eq (s := { s.coverPoison p.pa data.length ctx with
        mem := Memory.writeBytes (s.coverPoison p.pa data.length ctx).mem p.pa data }) ⟨Memory.wf_writeBytes _ _ _ hw.1, hw.2⟩
      (State.fireWatches_mem _ _ _).1 (State.fireWatches_mem _ _ _).2

/-- Filling and emptying an I-structure word keep the form. -/
theorem State.fillWord_memOk (s : State) (pa : Nat) (d : Word) (h : s.MemOk) : (s.fillWord pa d).MemOk :=
  State.MemOk.of_eq (s := { s with mem := Memory.writeBytes s.mem pa (leBytes 8 d.toNat) }) ⟨Memory.wf_writeBytes _ _ _ h.1, h.2⟩
    (State.fireWatches_mem _ _ _).1 (State.fireWatches_mem _ _ _).2

theorem State.emptyWord_memOk (s : State) (pa : Nat) (h : s.MemOk) : (s.emptyWord pa).MemOk := by
  unfold State.emptyWord
  split
  · exact State.MemOk.of_eq (s := { s with mem := Memory.writeBytes s.mem pa (List.replicate 8 0) }) ⟨Memory.wf_writeBytes _ _ _ h.1, h.2⟩
      (State.fireWatches_mem _ _ _).1 (State.fireWatches_mem _ _ _).2
  · exact h

/-- The pieces of a range lie in it, and none is empty. -/
theorem mem_pieces {va n : Nat} {e : Nat × Nat} (h : e ∈ pieces va n) : va ≤ e.1 ∧ e.1 + e.2 ≤ va + n ∧ 0 < e.2 := by
  obtain ⟨i, -, hi⟩ := List.mem_filterMap.1 h
  simp only [Option.ite_none_right_eq_some, Option.some.injEq] at hi
  obtain ⟨lt, rfl⟩ := hi
  have : Nat.min n (64 * i + 64 - va % 64) ≤ n := Nat.min_le_left _ _
  simp only
  omega

/-- The first piece of a range that is not empty starts it. -/
theorem pieces_head {va n : Nat} (hn : 0 < n) : ∃ k l, pieces va n = (va, k) :: l := by
  have : va % 64 < 64 := Nat.mod_lt _ (by decide)
  have lt : 0 < Nat.min n (64 * 0 + 64 - va % 64) := Nat.lt_min.2 ⟨hn, by omega⟩
  rw [pieces, List.range_succ_eq_map, List.filterMap_cons]
  simp only [Nat.mul_zero, Nat.zero_sub, Nat.add_zero, Nat.sub_zero] at lt ⊢
  rw [if_pos lt]
  exact ⟨_, _, rfl⟩

/-- A write by the device, where it performs, keeps the form. -/
theorem State.devPut_memOk {s s' : State} {d : Dev} {va n : Nat} {data : List Byte} (h : s.MemOk) (hs : s.devPut d va n data = .ok s') :
    s'.MemOk := by
  unfold State.devPut at hs
  split at hs
  · cases hs
  · split at hs
    · cases hs
    · cases hs
      refine foldl_memOk (α := Nat × Nat) _ (fun s e h => ?_) _ _ h
      split
      · exact h
      · exact h
      · exact State.perform_memOk _ _ _ _ h

theorem State.devWrite_memOk {s s' : State} {d : Dev} {va : Nat} {data : List Byte} (h : s.MemOk) (hs : s.devWrite d va data = .ok s') :
    s'.MemOk := State.devPut_memOk h hs

end Sys2Proof.Machine
end

