-- ==== Sys2Proof/Laws/State.lean ====
section
/-! SUPPORT. What each named update of the state leaves alone, field by field, and what it writes reads back. -/

namespace Sys2Proof.Machine


/-! ## State.setPart -/

@[simp] theorem State.setPart_agenda (s : State) (c l : Nat) (p : Part) : (s.setPart c l p).agenda = s.agenda := rfl
@[simp] theorem State.setPart_cur (s : State) (c l : Nat) (p : Part) : (s.setPart c l p).cur = s.cur := rfl
@[simp] theorem State.setPart_nextId (s : State) (c l : Nat) (p : Part) : (s.setPart c l p).nextId = s.nextId := rfl
@[simp] theorem State.setPart_fresh (s : State) (c l : Nat) (p : Part) : (s.setPart c l p).fresh = s.fresh := rfl
@[simp] theorem State.setPart_mem (s : State) (c l : Nat) (p : Part) : (s.setPart c l p).mem = s.mem := rfl
@[simp] theorem State.setPart_host (s : State) (c l : Nat) (p : Part) : (s.setPart c l p).host = s.host := rfl
@[simp] theorem State.setPart_granules (s : State) (c l : Nat) (p : Part) : (s.setPart c l p).granules = s.granules := rfl
@[simp] theorem State.setPart_full (s : State) (c l : Nat) (p : Part) : (s.setPart c l p).full = s.full := rfl
@[simp] theorem State.setPart_llcBad (s : State) (c l : Nat) (p : Part) : (s.setPart c l p).llcBad = s.llcBad := rfl
@[simp] theorem State.setPart_hostBad (s : State) (c l : Nat) (p : Part) : (s.setPart c l p).hostBad = s.hostBad := rfl
@[simp] theorem State.setPart_tlb (s : State) (c l : Nat) (p : Part) : (s.setPart c l p).tlb = s.tlb := rfl
@[simp] theorem State.setPart_ctxs (s : State) (c l : Nat) (p : Part) : (s.setPart c l p).ctxs = s.ctxs := rfl
@[simp] theorem State.setPart_tiles (s : State) (c l : Nat) (p : Part) : (s.setPart c l p).tiles = s.tiles := rfl
@[simp] theorem State.setPart_net (s : State) (c l : Nat) (p : Part) : (s.setPart c l p).net = s.net := rfl
@[simp] theorem State.setPart_reqs (s : State) (c l : Nat) (p : Part) : (s.setPart c l p).reqs = s.reqs := rfl
@[simp] theorem State.setPart_held (s : State) (c l : Nat) (p : Part) : (s.setPart c l p).held = s.held := rfl
@[simp] theorem State.setPart_jobs (s : State) (c l : Nat) (p : Part) : (s.setPart c l p).jobs = s.jobs := rfl
@[simp] theorem State.setPart_deferred (s : State) (c l : Nat) (p : Part) : (s.setPart c l p).deferred = s.deferred := rfl
@[simp] theorem State.setPart_foreign (s : State) (c l : Nat) (p : Part) : (s.setPart c l p).foreign = s.foreign := rfl
@[simp] theorem State.setPart_services (s : State) (c l : Nat) (p : Part) : (s.setPart c l p).services = s.services := rfl
@[simp] theorem State.setPart_failedPages (s : State) (c l : Nat) (p : Part) : (s.setPart c l p).failedPages = s.failedPages := rfl
@[simp] theorem State.setPart_halted (s : State) (c l : Nat) (p : Part) : (s.setPart c l p).halted = s.halted := rfl
@[simp] theorem State.setPart_haltCode (s : State) (c l : Nat) (p : Part) : (s.setPart c l p).haltCode = s.haltCode := rfl
@[simp] theorem State.setPart_feat0a (s : State) (c l : Nat) (p : Part) : (s.setPart c l p).feat0a = s.feat0a := rfl
@[simp] theorem State.setPart_feat1a (s : State) (c l : Nat) (p : Part) : (s.setPart c l p).feat1a = s.feat1a := rfl
@[simp] theorem State.setPart_featDone (s : State) (c l : Nat) (p : Part) : (s.setPart c l p).featDone = s.featDone := rfl
@[simp] theorem State.setPart_hmb (s : State) (c l : Nat) (p : Part) : (s.setPart c l p).hmb = s.hmb := rfl
@[simp] theorem State.setPart_hmn (s : State) (c l : Nat) (p : Part) : (s.setPart c l p).hmn = s.hmn := rfl
@[simp] theorem State.setPart_hmw (s : State) (c l : Nat) (p : Part) : (s.setPart c l p).hmw = s.hmw := rfl
@[simp] theorem State.setPart_hmr (s : State) (c l : Nat) (p : Part) : (s.setPart c l p).hmr = s.hmr := rfl
@[simp] theorem State.setPart_msgIndex (s : State) (c l : Nat) (p : Part) : (s.setPart c l p).msgIndex = s.msgIndex := rfl
@[simp] theorem State.setPart_msgs (s : State) (c l : Nat) (p : Part) : (s.setPart c l p).msgs = s.msgs := rfl
@[simp] theorem State.setPart_areplya (s : State) (c l : Nat) (p : Part) : (s.setPart c l p).areplya = s.areplya := rfl
@[simp] theorem State.setPart_ports (s : State) (c l : Nat) (p : Part) : (s.setPart c l p).ports = s.ports := rfl
@[simp] theorem State.setPart_rasSeq (s : State) (c l : Nat) (p : Part) : (s.setPart c l p).rasSeq = s.rasSeq := rfl
@[simp] theorem State.setPart_rasDrop (s : State) (c l : Nat) (p : Part) : (s.setPart c l p).rasDrop = s.rasDrop := rfl
@[simp] theorem State.setPart_cethr (s : State) (c l : Nat) (p : Part) : (s.setPart c l p).cethr = s.cethr := rfl
@[simp] theorem State.setPart_rasCnt (s : State) (c l : Nat) (p : Part) : (s.setPart c l p).rasCnt = s.rasCnt := rfl
@[simp] theorem State.setPart_rows (s : State) (c l : Nat) (p : Part) : (s.setPart c l p).rows = s.rows := rfl
@[simp] theorem State.setPart_rasWait (s : State) (c l : Nat) (p : Part) : (s.setPart c l p).rasWait = s.rasWait := rfl
@[simp] theorem State.setPart_podid (s : State) (c l : Nat) (p : Part) : (s.setPart c l p).podid = s.podid := rfl
@[simp] theorem State.setPart_route (s : State) (c l : Nat) (p : Part) : (s.setPart c l p).route = s.route := rfl
@[simp] theorem State.setPart_portm (s : State) (c l : Nat) (p : Part) : (s.setPart c l p).portm = s.portm := rfl
@[simp] theorem State.setPart_ualctx (s : State) (c l : Nat) (p : Part) : (s.setPart c l p).ualctx = s.ualctx := rfl
@[simp] theorem State.setPart_carve (s : State) (c l : Nat) (p : Part) : (s.setPart c l p).carve = s.carve := rfl
@[simp] theorem State.setPart_out (s : State) (c l : Nat) (p : Part) : (s.setPart c l p).out = s.out := rfl
@[simp] theorem State.setPart_outHeld (s : State) (c l : Nat) (p : Part) : (s.setPart c l p).outHeld = s.outHeld := rfl
@[simp] theorem State.setPart_loans (s : State) (c l : Nat) (p : Part) : (s.setPart c l p).loans = s.loans := rfl
@[simp] theorem State.setPart_served (s : State) (c l : Nat) (p : Part) : (s.setPart c l p).served = s.served := rfl
@[simp] theorem State.setPart_told (s : State) (c l : Nat) (p : Part) : (s.setPart c l p).told = s.told := rfl
@[simp] theorem State.setPart_depends (s : State) (c l : Nat) (p : Part) : (s.setPart c l p).depends = s.depends := rfl
@[simp] theorem State.setPart_lentTo (s : State) (c l : Nat) (p : Part) : (s.setPart c l p).lentTo = s.lentTo := rfl
@[simp] theorem State.setPart_kept (s : State) (c l : Nat) (p : Part) : (s.setPart c l p).kept = s.kept := rfl
@[simp] theorem State.setPart_queues (s : State) (c l : Nat) (p : Part) : (s.setPart c l p).queues = s.queues := rfl
@[simp] theorem State.setPart_taken (s : State) (c l : Nat) (p : Part) : (s.setPart c l p).taken = s.taken := rfl
@[simp] theorem State.setPart_dnotc (s : State) (c l : Nat) (p : Part) : (s.setPart c l p).dnotc = s.dnotc := rfl
@[simp] theorem State.setPart_rackq (s : State) (c l : Nat) (p : Part) : (s.setPart c l p).rackq = s.rackq := rfl
@[simp] theorem State.setPart_spans (s : State) (c l : Nat) (p : Part) : (s.setPart c l p).spans = s.spans := rfl
@[simp] theorem State.setPart_reports (s : State) (c l : Nat) (p : Part) : (s.setPart c l p).reports = s.reports := rfl
@[simp] theorem State.setPart_doomed (s : State) (c l : Nat) (p : Part) : (s.setPart c l p).doomed = s.doomed := rfl
@[simp] theorem State.setPart_launchq (s : State) (c l : Nat) (p : Part) : (s.setPart c l p).launchq = s.launchq := rfl
@[simp] theorem State.setPart_replies (s : State) (c l : Nat) (p : Part) : (s.setPart c l p).replies = s.replies := rfl
@[simp] theorem State.setPart_courierDown (s : State) (c l : Nat) (p : Part) : (s.setPart c l p).courierDown = s.courierDown := rfl
@[simp] theorem State.setPart_hallmark (s : State) (c l : Nat) (p : Part) : (s.setPart c l p).hallmark = s.hallmark := rfl
@[simp] theorem State.setPart_at_ctx (s : State) (c l : Nat) (p : Part) (n' : Nat) : (s.setPart c l p).ctx n' = s.ctx n' := rfl
@[simp] theorem State.setPart_at_tme (s : State) (c l : Nat) (p : Part) (n' m' : Nat) : (s.setPart c l p).tme n' m' = s.tme n' m' := rfl
@[simp] theorem State.setPart_at_kernel (s : State) (c l : Nat) (p : Part) (n' : Nat) : (s.setPart c l p).kernel n' = s.kernel n' := rfl
@[simp] theorem State.setPart_at_ptnOf (s : State) (c l : Nat) (p : Part) (n' m' : Nat) : (s.setPart c l p).ptnOf n' m' = s.ptnOf n' m' := rfl
@[simp] theorem State.setPart_at_pkgSelf (s : State) (c l : Nat) (p : Part) (n' : Nat) : (s.setPart c l p).pkgSelf n' = s.pkgSelf n' := rfl
@[simp] theorem State.setPart_at_tile (s : State) (c l : Nat) (p : Part) (n' : Nat) : (s.setPart c l p).tile n' = s.tile n' := rfl
@[simp] theorem State.setPart_at_coreAt (s : State) (c l : Nat) (p : Part) (n' m' : Nat) : (s.setPart c l p).coreAt n' m' = s.coreAt n' m' := rfl
@[simp] theorem State.setPart_at_seat (s : State) (c l : Nat) (p : Part) (q' : SeatId) : (s.setPart c l p).seat q' = s.seat q' := rfl
@[simp] theorem State.setPart_at_req (s : State) (c l : Nat) (p : Part) (n' : Nat) : (s.setPart c l p).req n' = s.req n' := rfl

/-! ## State.setPartCore -/

@[simp] theorem State.setPartCore_agenda (s : State) (c l k : Nat) (p : PartCore) : (s.setPartCore c l k p).agenda = s.agenda := rfl
@[simp] theorem State.setPartCore_cur (s : State) (c l k : Nat) (p : PartCore) : (s.setPartCore c l k p).cur = s.cur := rfl
@[simp] theorem State.setPartCore_nextId (s : State) (c l k : Nat) (p : PartCore) : (s.setPartCore c l k p).nextId = s.nextId := rfl
@[simp] theorem State.setPartCore_fresh (s : State) (c l k : Nat) (p : PartCore) : (s.setPartCore c l k p).fresh = s.fresh := rfl
@[simp] theorem State.setPartCore_mem (s : State) (c l k : Nat) (p : PartCore) : (s.setPartCore c l k p).mem = s.mem := rfl
@[simp] theorem State.setPartCore_host (s : State) (c l k : Nat) (p : PartCore) : (s.setPartCore c l k p).host = s.host := rfl
@[simp] theorem State.setPartCore_granules (s : State) (c l k : Nat) (p : PartCore) : (s.setPartCore c l k p).granules = s.granules := rfl
@[simp] theorem State.setPartCore_full (s : State) (c l k : Nat) (p : PartCore) : (s.setPartCore c l k p).full = s.full := rfl
@[simp] theorem State.setPartCore_llcBad (s : State) (c l k : Nat) (p : PartCore) : (s.setPartCore c l k p).llcBad = s.llcBad := rfl
@[simp] theorem State.setPartCore_hostBad (s : State) (c l k : Nat) (p : PartCore) : (s.setPartCore c l k p).hostBad = s.hostBad := rfl
@[simp] theorem State.setPartCore_tlb (s : State) (c l k : Nat) (p : PartCore) : (s.setPartCore c l k p).tlb = s.tlb := rfl
@[simp] theorem State.setPartCore_ctxs (s : State) (c l k : Nat) (p : PartCore) : (s.setPartCore c l k p).ctxs = s.ctxs := rfl
@[simp] theorem State.setPartCore_tiles (s : State) (c l k : Nat) (p : PartCore) : (s.setPartCore c l k p).tiles = s.tiles := rfl
@[simp] theorem State.setPartCore_net (s : State) (c l k : Nat) (p : PartCore) : (s.setPartCore c l k p).net = s.net := rfl
@[simp] theorem State.setPartCore_reqs (s : State) (c l k : Nat) (p : PartCore) : (s.setPartCore c l k p).reqs = s.reqs := rfl
@[simp] theorem State.setPartCore_held (s : State) (c l k : Nat) (p : PartCore) : (s.setPartCore c l k p).held = s.held := rfl
@[simp] theorem State.setPartCore_jobs (s : State) (c l k : Nat) (p : PartCore) : (s.setPartCore c l k p).jobs = s.jobs := rfl
@[simp] theorem State.setPartCore_deferred (s : State) (c l k : Nat) (p : PartCore) : (s.setPartCore c l k p).deferred = s.deferred := rfl
@[simp] theorem State.setPartCore_foreign (s : State) (c l k : Nat) (p : PartCore) : (s.setPartCore c l k p).foreign = s.foreign := rfl
@[simp] theorem State.setPartCore_services (s : State) (c l k : Nat) (p : PartCore) : (s.setPartCore c l k p).services = s.services := rfl
@[simp] theorem State.setPartCore_failedPages (s : State) (c l k : Nat) (p : PartCore) : (s.setPartCore c l k p).failedPages = s.failedPages := rfl
@[simp] theorem State.setPartCore_halted (s : State) (c l k : Nat) (p : PartCore) : (s.setPartCore c l k p).halted = s.halted := rfl
@[simp] theorem State.setPartCore_haltCode (s : State) (c l k : Nat) (p : PartCore) : (s.setPartCore c l k p).haltCode = s.haltCode := rfl
@[simp] theorem State.setPartCore_feat0a (s : State) (c l k : Nat) (p : PartCore) : (s.setPartCore c l k p).feat0a = s.feat0a := rfl
@[simp] theorem State.setPartCore_feat1a (s : State) (c l k : Nat) (p : PartCore) : (s.setPartCore c l k p).feat1a = s.feat1a := rfl
@[simp] theorem State.setPartCore_featDone (s : State) (c l k : Nat) (p : PartCore) : (s.setPartCore c l k p).featDone = s.featDone := rfl
@[simp] theorem State.setPartCore_hmb (s : State) (c l k : Nat) (p : PartCore) : (s.setPartCore c l k p).hmb = s.hmb := rfl
@[simp] theorem State.setPartCore_hmn (s : State) (c l k : Nat) (p : PartCore) : (s.setPartCore c l k p).hmn = s.hmn := rfl
@[simp] theorem State.setPartCore_hmw (s : State) (c l k : Nat) (p : PartCore) : (s.setPartCore c l k p).hmw = s.hmw := rfl
@[simp] theorem State.setPartCore_hmr (s : State) (c l k : Nat) (p : PartCore) : (s.setPartCore c l k p).hmr = s.hmr := rfl
@[simp] theorem State.setPartCore_msgIndex (s : State) (c l k : Nat) (p : PartCore) : (s.setPartCore c l k p).msgIndex = s.msgIndex := rfl
@[simp] theorem State.setPartCore_msgs (s : State) (c l k : Nat) (p : PartCore) : (s.setPartCore c l k p).msgs = s.msgs := rfl
@[simp] theorem State.setPartCore_areplya (s : State) (c l k : Nat) (p : PartCore) : (s.setPartCore c l k p).areplya = s.areplya := rfl
@[simp] theorem State.setPartCore_ports (s : State) (c l k : Nat) (p : PartCore) : (s.setPartCore c l k p).ports = s.ports := rfl
@[simp] theorem State.setPartCore_rasSeq (s : State) (c l k : Nat) (p : PartCore) : (s.setPartCore c l k p).rasSeq = s.rasSeq := rfl
@[simp] theorem State.setPartCore_rasDrop (s : State) (c l k : Nat) (p : PartCore) : (s.setPartCore c l k p).rasDrop = s.rasDrop := rfl
@[simp] theorem State.setPartCore_cethr (s : State) (c l k : Nat) (p : PartCore) : (s.setPartCore c l k p).cethr = s.cethr := rfl
@[simp] theorem State.setPartCore_rasCnt (s : State) (c l k : Nat) (p : PartCore) : (s.setPartCore c l k p).rasCnt = s.rasCnt := rfl
@[simp] theorem State.setPartCore_rows (s : State) (c l k : Nat) (p : PartCore) : (s.setPartCore c l k p).rows = s.rows := rfl
@[simp] theorem State.setPartCore_rasWait (s : State) (c l k : Nat) (p : PartCore) : (s.setPartCore c l k p).rasWait = s.rasWait := rfl
@[simp] theorem State.setPartCore_podid (s : State) (c l k : Nat) (p : PartCore) : (s.setPartCore c l k p).podid = s.podid := rfl
@[simp] theorem State.setPartCore_route (s : State) (c l k : Nat) (p : PartCore) : (s.setPartCore c l k p).route = s.route := rfl
@[simp] theorem State.setPartCore_portm (s : State) (c l k : Nat) (p : PartCore) : (s.setPartCore c l k p).portm = s.portm := rfl
@[simp] theorem State.setPartCore_ualctx (s : State) (c l k : Nat) (p : PartCore) : (s.setPartCore c l k p).ualctx = s.ualctx := rfl
@[simp] theorem State.setPartCore_carve (s : State) (c l k : Nat) (p : PartCore) : (s.setPartCore c l k p).carve = s.carve := rfl
@[simp] theorem State.setPartCore_out (s : State) (c l k : Nat) (p : PartCore) : (s.setPartCore c l k p).out = s.out := rfl
@[simp] theorem State.setPartCore_outHeld (s : State) (c l k : Nat) (p : PartCore) : (s.setPartCore c l k p).outHeld = s.outHeld := rfl
@[simp] theorem State.setPartCore_loans (s : State) (c l k : Nat) (p : PartCore) : (s.setPartCore c l k p).loans = s.loans := rfl
@[simp] theorem State.setPartCore_served (s : State) (c l k : Nat) (p : PartCore) : (s.setPartCore c l k p).served = s.served := rfl
@[simp] theorem State.setPartCore_told (s : State) (c l k : Nat) (p : PartCore) : (s.setPartCore c l k p).told = s.told := rfl
@[simp] theorem State.setPartCore_depends (s : State) (c l k : Nat) (p : PartCore) : (s.setPartCore c l k p).depends = s.depends := rfl
@[simp] theorem State.setPartCore_lentTo (s : State) (c l k : Nat) (p : PartCore) : (s.setPartCore c l k p).lentTo = s.lentTo := rfl
@[simp] theorem State.setPartCore_kept (s : State) (c l k : Nat) (p : PartCore) : (s.setPartCore c l k p).kept = s.kept := rfl
@[simp] theorem State.setPartCore_queues (s : State) (c l k : Nat) (p : PartCore) : (s.setPartCore c l k p).queues = s.queues := rfl
@[simp] theorem State.setPartCore_taken (s : State) (c l k : Nat) (p : PartCore) : (s.setPartCore c l k p).taken = s.taken := rfl
@[simp] theorem State.setPartCore_dnotc (s : State) (c l k : Nat) (p : PartCore) : (s.setPartCore c l k p).dnotc = s.dnotc := rfl
@[simp] theorem State.setPartCore_rackq (s : State) (c l k : Nat) (p : PartCore) : (s.setPartCore c l k p).rackq = s.rackq := rfl
@[simp] theorem State.setPartCore_spans (s : State) (c l k : Nat) (p : PartCore) : (s.setPartCore c l k p).spans = s.spans := rfl
@[simp] theorem State.setPartCore_reports (s : State) (c l k : Nat) (p : PartCore) : (s.setPartCore c l k p).reports = s.reports := rfl
@[simp] theorem State.setPartCore_doomed (s : State) (c l k : Nat) (p : PartCore) : (s.setPartCore c l k p).doomed = s.doomed := rfl
@[simp] theorem State.setPartCore_launchq (s : State) (c l k : Nat) (p : PartCore) : (s.setPartCore c l k p).launchq = s.launchq := rfl
@[simp] theorem State.setPartCore_replies (s : State) (c l k : Nat) (p : PartCore) : (s.setPartCore c l k p).replies = s.replies := rfl
@[simp] theorem State.setPartCore_courierDown (s : State) (c l k : Nat) (p : PartCore) : (s.setPartCore c l k p).courierDown = s.courierDown := rfl
@[simp] theorem State.setPartCore_hallmark (s : State) (c l k : Nat) (p : PartCore) : (s.setPartCore c l k p).hallmark = s.hallmark := rfl
@[simp] theorem State.setPartCore_at_ctx (s : State) (c l k : Nat) (p : PartCore) (n' : Nat) : (s.setPartCore c l k p).ctx n' = s.ctx n' := rfl
@[simp] theorem State.setPartCore_at_tme (s : State) (c l k : Nat) (p : PartCore) (n' m' : Nat) : (s.setPartCore c l k p).tme n' m' = s.tme n' m' := rfl
@[simp] theorem State.setPartCore_at_kernel (s : State) (c l k : Nat) (p : PartCore) (n' : Nat) : (s.setPartCore c l k p).kernel n' = s.kernel n' := rfl
@[simp] theorem State.setPartCore_at_ptnOf (s : State) (c l k : Nat) (p : PartCore) (n' m' : Nat) : (s.setPartCore c l k p).ptnOf n' m' = s.ptnOf n' m' := rfl
@[simp] theorem State.setPartCore_at_pkgSelf (s : State) (c l k : Nat) (p : PartCore) (n' : Nat) : (s.setPartCore c l k p).pkgSelf n' = s.pkgSelf n' := rfl
@[simp] theorem State.setPartCore_at_tile (s : State) (c l k : Nat) (p : PartCore) (n' : Nat) : (s.setPartCore c l k p).tile n' = s.tile n' := rfl
@[simp] theorem State.setPartCore_at_coreAt (s : State) (c l k : Nat) (p : PartCore) (n' m' : Nat) : (s.setPartCore c l k p).coreAt n' m' = s.coreAt n' m' := rfl
@[simp] theorem State.setPartCore_at_seat (s : State) (c l k : Nat) (p : PartCore) (q' : SeatId) : (s.setPartCore c l k p).seat q' = s.seat q' := rfl
@[simp] theorem State.setPartCore_at_req (s : State) (c l k : Nat) (p : PartCore) (n' : Nat) : (s.setPartCore c l k p).req n' = s.req n' := rfl

/-! ## State.setFrame -/

@[simp] theorem State.setFrame_agenda (s : State) (r : FrameRef) (f : Frame) : (s.setFrame r f).agenda = s.agenda := rfl
@[simp] theorem State.setFrame_cur (s : State) (r : FrameRef) (f : Frame) : (s.setFrame r f).cur = s.cur := rfl
@[simp] theorem State.setFrame_nextId (s : State) (r : FrameRef) (f : Frame) : (s.setFrame r f).nextId = s.nextId := rfl
@[simp] theorem State.setFrame_fresh (s : State) (r : FrameRef) (f : Frame) : (s.setFrame r f).fresh = s.fresh := rfl
@[simp] theorem State.setFrame_mem (s : State) (r : FrameRef) (f : Frame) : (s.setFrame r f).mem = s.mem := rfl
@[simp] theorem State.setFrame_host (s : State) (r : FrameRef) (f : Frame) : (s.setFrame r f).host = s.host := rfl
@[simp] theorem State.setFrame_granules (s : State) (r : FrameRef) (f : Frame) : (s.setFrame r f).granules = s.granules := rfl
@[simp] theorem State.setFrame_full (s : State) (r : FrameRef) (f : Frame) : (s.setFrame r f).full = s.full := rfl
@[simp] theorem State.setFrame_llcBad (s : State) (r : FrameRef) (f : Frame) : (s.setFrame r f).llcBad = s.llcBad := rfl
@[simp] theorem State.setFrame_hostBad (s : State) (r : FrameRef) (f : Frame) : (s.setFrame r f).hostBad = s.hostBad := rfl
@[simp] theorem State.setFrame_tlb (s : State) (r : FrameRef) (f : Frame) : (s.setFrame r f).tlb = s.tlb := rfl
@[simp] theorem State.setFrame_ctxs (s : State) (r : FrameRef) (f : Frame) : (s.setFrame r f).ctxs = s.ctxs := rfl
@[simp] theorem State.setFrame_tiles (s : State) (r : FrameRef) (f : Frame) : (s.setFrame r f).tiles = s.tiles := rfl
@[simp] theorem State.setFrame_net (s : State) (r : FrameRef) (f : Frame) : (s.setFrame r f).net = s.net := rfl
@[simp] theorem State.setFrame_reqs (s : State) (r : FrameRef) (f : Frame) : (s.setFrame r f).reqs = s.reqs := rfl
@[simp] theorem State.setFrame_held (s : State) (r : FrameRef) (f : Frame) : (s.setFrame r f).held = s.held := rfl
@[simp] theorem State.setFrame_jobs (s : State) (r : FrameRef) (f : Frame) : (s.setFrame r f).jobs = s.jobs := rfl
@[simp] theorem State.setFrame_deferred (s : State) (r : FrameRef) (f : Frame) : (s.setFrame r f).deferred = s.deferred := rfl
@[simp] theorem State.setFrame_foreign (s : State) (r : FrameRef) (f : Frame) : (s.setFrame r f).foreign = s.foreign := rfl
@[simp] theorem State.setFrame_services (s : State) (r : FrameRef) (f : Frame) : (s.setFrame r f).services = s.services := rfl
@[simp] theorem State.setFrame_failedPages (s : State) (r : FrameRef) (f : Frame) : (s.setFrame r f).failedPages = s.failedPages := rfl
@[simp] theorem State.setFrame_halted (s : State) (r : FrameRef) (f : Frame) : (s.setFrame r f).halted = s.halted := rfl
@[simp] theorem State.setFrame_haltCode (s : State) (r : FrameRef) (f : Frame) : (s.setFrame r f).haltCode = s.haltCode := rfl
@[simp] theorem State.setFrame_feat0a (s : State) (r : FrameRef) (f : Frame) : (s.setFrame r f).feat0a = s.feat0a := rfl
@[simp] theorem State.setFrame_feat1a (s : State) (r : FrameRef) (f : Frame) : (s.setFrame r f).feat1a = s.feat1a := rfl
@[simp] theorem State.setFrame_featDone (s : State) (r : FrameRef) (f : Frame) : (s.setFrame r f).featDone = s.featDone := rfl
@[simp] theorem State.setFrame_hmb (s : State) (r : FrameRef) (f : Frame) : (s.setFrame r f).hmb = s.hmb := rfl
@[simp] theorem State.setFrame_hmn (s : State) (r : FrameRef) (f : Frame) : (s.setFrame r f).hmn = s.hmn := rfl
@[simp] theorem State.setFrame_hmw (s : State) (r : FrameRef) (f : Frame) : (s.setFrame r f).hmw = s.hmw := rfl
@[simp] theorem State.setFrame_hmr (s : State) (r : FrameRef) (f : Frame) : (s.setFrame r f).hmr = s.hmr := rfl
@[simp] theorem State.setFrame_msgIndex (s : State) (r : FrameRef) (f : Frame) : (s.setFrame r f).msgIndex = s.msgIndex := rfl
@[simp] theorem State.setFrame_msgs (s : State) (r : FrameRef) (f : Frame) : (s.setFrame r f).msgs = s.msgs := rfl
@[simp] theorem State.setFrame_areplya (s : State) (r : FrameRef) (f : Frame) : (s.setFrame r f).areplya = s.areplya := rfl
@[simp] theorem State.setFrame_ports (s : State) (r : FrameRef) (f : Frame) : (s.setFrame r f).ports = s.ports := rfl
@[simp] theorem State.setFrame_rasSeq (s : State) (r : FrameRef) (f : Frame) : (s.setFrame r f).rasSeq = s.rasSeq := rfl
@[simp] theorem State.setFrame_rasDrop (s : State) (r : FrameRef) (f : Frame) : (s.setFrame r f).rasDrop = s.rasDrop := rfl
@[simp] theorem State.setFrame_cethr (s : State) (r : FrameRef) (f : Frame) : (s.setFrame r f).cethr = s.cethr := rfl
@[simp] theorem State.setFrame_rasCnt (s : State) (r : FrameRef) (f : Frame) : (s.setFrame r f).rasCnt = s.rasCnt := rfl
@[simp] theorem State.setFrame_rows (s : State) (r : FrameRef) (f : Frame) : (s.setFrame r f).rows = s.rows := rfl
@[simp] theorem State.setFrame_rasWait (s : State) (r : FrameRef) (f : Frame) : (s.setFrame r f).rasWait = s.rasWait := rfl
@[simp] theorem State.setFrame_podid (s : State) (r : FrameRef) (f : Frame) : (s.setFrame r f).podid = s.podid := rfl
@[simp] theorem State.setFrame_route (s : State) (r : FrameRef) (f : Frame) : (s.setFrame r f).route = s.route := rfl
@[simp] theorem State.setFrame_portm (s : State) (r : FrameRef) (f : Frame) : (s.setFrame r f).portm = s.portm := rfl
@[simp] theorem State.setFrame_ualctx (s : State) (r : FrameRef) (f : Frame) : (s.setFrame r f).ualctx = s.ualctx := rfl
@[simp] theorem State.setFrame_carve (s : State) (r : FrameRef) (f : Frame) : (s.setFrame r f).carve = s.carve := rfl
@[simp] theorem State.setFrame_out (s : State) (r : FrameRef) (f : Frame) : (s.setFrame r f).out = s.out := rfl
@[simp] theorem State.setFrame_outHeld (s : State) (r : FrameRef) (f : Frame) : (s.setFrame r f).outHeld = s.outHeld := rfl
@[simp] theorem State.setFrame_loans (s : State) (r : FrameRef) (f : Frame) : (s.setFrame r f).loans = s.loans := rfl
@[simp] theorem State.setFrame_served (s : State) (r : FrameRef) (f : Frame) : (s.setFrame r f).served = s.served := rfl
@[simp] theorem State.setFrame_told (s : State) (r : FrameRef) (f : Frame) : (s.setFrame r f).told = s.told := rfl
@[simp] theorem State.setFrame_depends (s : State) (r : FrameRef) (f : Frame) : (s.setFrame r f).depends = s.depends := rfl
@[simp] theorem State.setFrame_lentTo (s : State) (r : FrameRef) (f : Frame) : (s.setFrame r f).lentTo = s.lentTo := rfl
@[simp] theorem State.setFrame_kept (s : State) (r : FrameRef) (f : Frame) : (s.setFrame r f).kept = s.kept := rfl
@[simp] theorem State.setFrame_queues (s : State) (r : FrameRef) (f : Frame) : (s.setFrame r f).queues = s.queues := rfl
@[simp] theorem State.setFrame_taken (s : State) (r : FrameRef) (f : Frame) : (s.setFrame r f).taken = s.taken := rfl
@[simp] theorem State.setFrame_dnotc (s : State) (r : FrameRef) (f : Frame) : (s.setFrame r f).dnotc = s.dnotc := rfl
@[simp] theorem State.setFrame_rackq (s : State) (r : FrameRef) (f : Frame) : (s.setFrame r f).rackq = s.rackq := rfl
@[simp] theorem State.setFrame_spans (s : State) (r : FrameRef) (f : Frame) : (s.setFrame r f).spans = s.spans := rfl
@[simp] theorem State.setFrame_reports (s : State) (r : FrameRef) (f : Frame) : (s.setFrame r f).reports = s.reports := rfl
@[simp] theorem State.setFrame_doomed (s : State) (r : FrameRef) (f : Frame) : (s.setFrame r f).doomed = s.doomed := rfl
@[simp] theorem State.setFrame_launchq (s : State) (r : FrameRef) (f : Frame) : (s.setFrame r f).launchq = s.launchq := rfl
@[simp] theorem State.setFrame_replies (s : State) (r : FrameRef) (f : Frame) : (s.setFrame r f).replies = s.replies := rfl
@[simp] theorem State.setFrame_courierDown (s : State) (r : FrameRef) (f : Frame) : (s.setFrame r f).courierDown = s.courierDown := rfl
@[simp] theorem State.setFrame_hallmark (s : State) (r : FrameRef) (f : Frame) : (s.setFrame r f).hallmark = s.hallmark := rfl
@[simp] theorem State.setFrame_at_ctx (s : State) (r : FrameRef) (f : Frame) (n' : Nat) : (s.setFrame r f).ctx n' = s.ctx n' := rfl
@[simp] theorem State.setFrame_at_tme (s : State) (r : FrameRef) (f : Frame) (n' m' : Nat) : (s.setFrame r f).tme n' m' = s.tme n' m' := rfl
@[simp] theorem State.setFrame_at_kernel (s : State) (r : FrameRef) (f : Frame) (n' : Nat) : (s.setFrame r f).kernel n' = s.kernel n' := rfl
@[simp] theorem State.setFrame_at_ptnOf (s : State) (r : FrameRef) (f : Frame) (n' m' : Nat) : (s.setFrame r f).ptnOf n' m' = s.ptnOf n' m' := rfl
@[simp] theorem State.setFrame_at_pkgSelf (s : State) (r : FrameRef) (f : Frame) (n' : Nat) : (s.setFrame r f).pkgSelf n' = s.pkgSelf n' := rfl
@[simp] theorem State.setFrame_at_tile (s : State) (r : FrameRef) (f : Frame) (n' : Nat) : (s.setFrame r f).tile n' = s.tile n' := rfl
@[simp] theorem State.setFrame_at_coreAt (s : State) (r : FrameRef) (f : Frame) (n' m' : Nat) : (s.setFrame r f).coreAt n' m' = s.coreAt n' m' := rfl
@[simp] theorem State.setFrame_at_seat (s : State) (r : FrameRef) (f : Frame) (q' : SeatId) : (s.setFrame r f).seat q' = s.seat q' := rfl
@[simp] theorem State.setFrame_at_req (s : State) (r : FrameRef) (f : Frame) (n' : Nat) : (s.setFrame r f).req n' = s.req n' := rfl

/-! ## State.dropFrame -/

@[simp] theorem State.dropFrame_agenda (s : State) (r : FrameRef) : (s.dropFrame r).agenda = s.agenda := rfl
@[simp] theorem State.dropFrame_cur (s : State) (r : FrameRef) : (s.dropFrame r).cur = s.cur := rfl
@[simp] theorem State.dropFrame_nextId (s : State) (r : FrameRef) : (s.dropFrame r).nextId = s.nextId := rfl
@[simp] theorem State.dropFrame_fresh (s : State) (r : FrameRef) : (s.dropFrame r).fresh = s.fresh := rfl
@[simp] theorem State.dropFrame_mem (s : State) (r : FrameRef) : (s.dropFrame r).mem = s.mem := rfl
@[simp] theorem State.dropFrame_host (s : State) (r : FrameRef) : (s.dropFrame r).host = s.host := rfl
@[simp] theorem State.dropFrame_granules (s : State) (r : FrameRef) : (s.dropFrame r).granules = s.granules := rfl
@[simp] theorem State.dropFrame_full (s : State) (r : FrameRef) : (s.dropFrame r).full = s.full := rfl
@[simp] theorem State.dropFrame_llcBad (s : State) (r : FrameRef) : (s.dropFrame r).llcBad = s.llcBad := rfl
@[simp] theorem State.dropFrame_hostBad (s : State) (r : FrameRef) : (s.dropFrame r).hostBad = s.hostBad := rfl
@[simp] theorem State.dropFrame_tlb (s : State) (r : FrameRef) : (s.dropFrame r).tlb = s.tlb := rfl
@[simp] theorem State.dropFrame_ctxs (s : State) (r : FrameRef) : (s.dropFrame r).ctxs = s.ctxs := rfl
@[simp] theorem State.dropFrame_tiles (s : State) (r : FrameRef) : (s.dropFrame r).tiles = s.tiles := rfl
@[simp] theorem State.dropFrame_net (s : State) (r : FrameRef) : (s.dropFrame r).net = s.net := rfl
@[simp] theorem State.dropFrame_reqs (s : State) (r : FrameRef) : (s.dropFrame r).reqs = s.reqs := rfl
@[simp] theorem State.dropFrame_held (s : State) (r : FrameRef) : (s.dropFrame r).held = s.held := rfl
@[simp] theorem State.dropFrame_jobs (s : State) (r : FrameRef) : (s.dropFrame r).jobs = s.jobs := rfl
@[simp] theorem State.dropFrame_deferred (s : State) (r : FrameRef) : (s.dropFrame r).deferred = s.deferred := rfl
@[simp] theorem State.dropFrame_foreign (s : State) (r : FrameRef) : (s.dropFrame r).foreign = s.foreign := rfl
@[simp] theorem State.dropFrame_services (s : State) (r : FrameRef) : (s.dropFrame r).services = s.services := rfl
@[simp] theorem State.dropFrame_failedPages (s : State) (r : FrameRef) : (s.dropFrame r).failedPages = s.failedPages := rfl
@[simp] theorem State.dropFrame_halted (s : State) (r : FrameRef) : (s.dropFrame r).halted = s.halted := rfl
@[simp] theorem State.dropFrame_haltCode (s : State) (r : FrameRef) : (s.dropFrame r).haltCode = s.haltCode := rfl
@[simp] theorem State.dropFrame_feat0a (s : State) (r : FrameRef) : (s.dropFrame r).feat0a = s.feat0a := rfl
@[simp] theorem State.dropFrame_feat1a (s : State) (r : FrameRef) : (s.dropFrame r).feat1a = s.feat1a := rfl
@[simp] theorem State.dropFrame_featDone (s : State) (r : FrameRef) : (s.dropFrame r).featDone = s.featDone := rfl
@[simp] theorem State.dropFrame_hmb (s : State) (r : FrameRef) : (s.dropFrame r).hmb = s.hmb := rfl
@[simp] theorem State.dropFrame_hmn (s : State) (r : FrameRef) : (s.dropFrame r).hmn = s.hmn := rfl
@[simp] theorem State.dropFrame_hmw (s : State) (r : FrameRef) : (s.dropFrame r).hmw = s.hmw := rfl
@[simp] theorem State.dropFrame_hmr (s : State) (r : FrameRef) : (s.dropFrame r).hmr = s.hmr := rfl
@[simp] theorem State.dropFrame_msgIndex (s : State) (r : FrameRef) : (s.dropFrame r).msgIndex = s.msgIndex := rfl
@[simp] theorem State.dropFrame_msgs (s : State) (r : FrameRef) : (s.dropFrame r).msgs = s.msgs := rfl
@[simp] theorem State.dropFrame_areplya (s : State) (r : FrameRef) : (s.dropFrame r).areplya = s.areplya := rfl
@[simp] theorem State.dropFrame_ports (s : State) (r : FrameRef) : (s.dropFrame r).ports = s.ports := rfl
@[simp] theorem State.dropFrame_rasSeq (s : State) (r : FrameRef) : (s.dropFrame r).rasSeq = s.rasSeq := rfl
@[simp] theorem State.dropFrame_rasDrop (s : State) (r : FrameRef) : (s.dropFrame r).rasDrop = s.rasDrop := rfl
@[simp] theorem State.dropFrame_cethr (s : State) (r : FrameRef) : (s.dropFrame r).cethr = s.cethr := rfl
@[simp] theorem State.dropFrame_rasCnt (s : State) (r : FrameRef) : (s.dropFrame r).rasCnt = s.rasCnt := rfl
@[simp] theorem State.dropFrame_rows (s : State) (r : FrameRef) : (s.dropFrame r).rows = s.rows := rfl
@[simp] theorem State.dropFrame_rasWait (s : State) (r : FrameRef) : (s.dropFrame r).rasWait = s.rasWait := rfl
@[simp] theorem State.dropFrame_podid (s : State) (r : FrameRef) : (s.dropFrame r).podid = s.podid := rfl
@[simp] theorem State.dropFrame_route (s : State) (r : FrameRef) : (s.dropFrame r).route = s.route := rfl
@[simp] theorem State.dropFrame_portm (s : State) (r : FrameRef) : (s.dropFrame r).portm = s.portm := rfl
@[simp] theorem State.dropFrame_ualctx (s : State) (r : FrameRef) : (s.dropFrame r).ualctx = s.ualctx := rfl
@[simp] theorem State.dropFrame_carve (s : State) (r : FrameRef) : (s.dropFrame r).carve = s.carve := rfl
@[simp] theorem State.dropFrame_out (s : State) (r : FrameRef) : (s.dropFrame r).out = s.out := rfl
@[simp] theorem State.dropFrame_outHeld (s : State) (r : FrameRef) : (s.dropFrame r).outHeld = s.outHeld := rfl
@[simp] theorem State.dropFrame_loans (s : State) (r : FrameRef) : (s.dropFrame r).loans = s.loans := rfl
@[simp] theorem State.dropFrame_served (s : State) (r : FrameRef) : (s.dropFrame r).served = s.served := rfl
@[simp] theorem State.dropFrame_told (s : State) (r : FrameRef) : (s.dropFrame r).told = s.told := rfl
@[simp] theorem State.dropFrame_depends (s : State) (r : FrameRef) : (s.dropFrame r).depends = s.depends := rfl
@[simp] theorem State.dropFrame_lentTo (s : State) (r : FrameRef) : (s.dropFrame r).lentTo = s.lentTo := rfl
@[simp] theorem State.dropFrame_kept (s : State) (r : FrameRef) : (s.dropFrame r).kept = s.kept := rfl
@[simp] theorem State.dropFrame_queues (s : State) (r : FrameRef) : (s.dropFrame r).queues = s.queues := rfl
@[simp] theorem State.dropFrame_taken (s : State) (r : FrameRef) : (s.dropFrame r).taken = s.taken := rfl
@[simp] theorem State.dropFrame_dnotc (s : State) (r : FrameRef) : (s.dropFrame r).dnotc = s.dnotc := rfl
@[simp] theorem State.dropFrame_rackq (s : State) (r : FrameRef) : (s.dropFrame r).rackq = s.rackq := rfl
@[simp] theorem State.dropFrame_spans (s : State) (r : FrameRef) : (s.dropFrame r).spans = s.spans := rfl
@[simp] theorem State.dropFrame_reports (s : State) (r : FrameRef) : (s.dropFrame r).reports = s.reports := rfl
@[simp] theorem State.dropFrame_doomed (s : State) (r : FrameRef) : (s.dropFrame r).doomed = s.doomed := rfl
@[simp] theorem State.dropFrame_launchq (s : State) (r : FrameRef) : (s.dropFrame r).launchq = s.launchq := rfl
@[simp] theorem State.dropFrame_replies (s : State) (r : FrameRef) : (s.dropFrame r).replies = s.replies := rfl
@[simp] theorem State.dropFrame_courierDown (s : State) (r : FrameRef) : (s.dropFrame r).courierDown = s.courierDown := rfl
@[simp] theorem State.dropFrame_hallmark (s : State) (r : FrameRef) : (s.dropFrame r).hallmark = s.hallmark := rfl
@[simp] theorem State.dropFrame_at_ctx (s : State) (r : FrameRef) (n' : Nat) : (s.dropFrame r).ctx n' = s.ctx n' := rfl
@[simp] theorem State.dropFrame_at_tme (s : State) (r : FrameRef) (n' m' : Nat) : (s.dropFrame r).tme n' m' = s.tme n' m' := rfl
@[simp] theorem State.dropFrame_at_kernel (s : State) (r : FrameRef) (n' : Nat) : (s.dropFrame r).kernel n' = s.kernel n' := rfl
@[simp] theorem State.dropFrame_at_ptnOf (s : State) (r : FrameRef) (n' m' : Nat) : (s.dropFrame r).ptnOf n' m' = s.ptnOf n' m' := rfl
@[simp] theorem State.dropFrame_at_pkgSelf (s : State) (r : FrameRef) (n' : Nat) : (s.dropFrame r).pkgSelf n' = s.pkgSelf n' := rfl
@[simp] theorem State.dropFrame_at_tile (s : State) (r : FrameRef) (n' : Nat) : (s.dropFrame r).tile n' = s.tile n' := rfl
@[simp] theorem State.dropFrame_at_coreAt (s : State) (r : FrameRef) (n' m' : Nat) : (s.dropFrame r).coreAt n' m' = s.coreAt n' m' := rfl
@[simp] theorem State.dropFrame_at_seat (s : State) (r : FrameRef) (q' : SeatId) : (s.dropFrame r).seat q' = s.seat q' := rfl
@[simp] theorem State.dropFrame_at_req (s : State) (r : FrameRef) (n' : Nat) : (s.dropFrame r).req n' = s.req n' := rfl

/-! ## State.dloAgain -/

@[simp] theorem State.dloAgain_agenda (s : State) (c l : Nat) : (s.dloAgain c l).agenda = s.agenda := rfl
@[simp] theorem State.dloAgain_cur (s : State) (c l : Nat) : (s.dloAgain c l).cur = s.cur := rfl
@[simp] theorem State.dloAgain_nextId (s : State) (c l : Nat) : (s.dloAgain c l).nextId = s.nextId := rfl
@[simp] theorem State.dloAgain_fresh (s : State) (c l : Nat) : (s.dloAgain c l).fresh = s.fresh := rfl
@[simp] theorem State.dloAgain_mem (s : State) (c l : Nat) : (s.dloAgain c l).mem = s.mem := rfl
@[simp] theorem State.dloAgain_host (s : State) (c l : Nat) : (s.dloAgain c l).host = s.host := rfl
@[simp] theorem State.dloAgain_granules (s : State) (c l : Nat) : (s.dloAgain c l).granules = s.granules := rfl
@[simp] theorem State.dloAgain_full (s : State) (c l : Nat) : (s.dloAgain c l).full = s.full := rfl
@[simp] theorem State.dloAgain_llcBad (s : State) (c l : Nat) : (s.dloAgain c l).llcBad = s.llcBad := rfl
@[simp] theorem State.dloAgain_hostBad (s : State) (c l : Nat) : (s.dloAgain c l).hostBad = s.hostBad := rfl
@[simp] theorem State.dloAgain_tlb (s : State) (c l : Nat) : (s.dloAgain c l).tlb = s.tlb := rfl
@[simp] theorem State.dloAgain_ctxs (s : State) (c l : Nat) : (s.dloAgain c l).ctxs = s.ctxs := rfl
@[simp] theorem State.dloAgain_tiles (s : State) (c l : Nat) : (s.dloAgain c l).tiles = s.tiles := rfl
@[simp] theorem State.dloAgain_net (s : State) (c l : Nat) : (s.dloAgain c l).net = s.net := rfl
@[simp] theorem State.dloAgain_reqs (s : State) (c l : Nat) : (s.dloAgain c l).reqs = s.reqs := rfl
@[simp] theorem State.dloAgain_held (s : State) (c l : Nat) : (s.dloAgain c l).held = s.held := rfl
@[simp] theorem State.dloAgain_jobs (s : State) (c l : Nat) : (s.dloAgain c l).jobs = s.jobs := rfl
@[simp] theorem State.dloAgain_deferred (s : State) (c l : Nat) : (s.dloAgain c l).deferred = s.deferred := rfl
@[simp] theorem State.dloAgain_foreign (s : State) (c l : Nat) : (s.dloAgain c l).foreign = s.foreign := rfl
@[simp] theorem State.dloAgain_services (s : State) (c l : Nat) : (s.dloAgain c l).services = s.services := rfl
@[simp] theorem State.dloAgain_failedPages (s : State) (c l : Nat) : (s.dloAgain c l).failedPages = s.failedPages := rfl
@[simp] theorem State.dloAgain_halted (s : State) (c l : Nat) : (s.dloAgain c l).halted = s.halted := rfl
@[simp] theorem State.dloAgain_haltCode (s : State) (c l : Nat) : (s.dloAgain c l).haltCode = s.haltCode := rfl
@[simp] theorem State.dloAgain_feat0a (s : State) (c l : Nat) : (s.dloAgain c l).feat0a = s.feat0a := rfl
@[simp] theorem State.dloAgain_feat1a (s : State) (c l : Nat) : (s.dloAgain c l).feat1a = s.feat1a := rfl
@[simp] theorem State.dloAgain_featDone (s : State) (c l : Nat) : (s.dloAgain c l).featDone = s.featDone := rfl
@[simp] theorem State.dloAgain_hmb (s : State) (c l : Nat) : (s.dloAgain c l).hmb = s.hmb := rfl
@[simp] theorem State.dloAgain_hmn (s : State) (c l : Nat) : (s.dloAgain c l).hmn = s.hmn := rfl
@[simp] theorem State.dloAgain_hmw (s : State) (c l : Nat) : (s.dloAgain c l).hmw = s.hmw := rfl
@[simp] theorem State.dloAgain_hmr (s : State) (c l : Nat) : (s.dloAgain c l).hmr = s.hmr := rfl
@[simp] theorem State.dloAgain_msgIndex (s : State) (c l : Nat) : (s.dloAgain c l).msgIndex = s.msgIndex := rfl
@[simp] theorem State.dloAgain_msgs (s : State) (c l : Nat) : (s.dloAgain c l).msgs = s.msgs := rfl
@[simp] theorem State.dloAgain_areplya (s : State) (c l : Nat) : (s.dloAgain c l).areplya = s.areplya := rfl
@[simp] theorem State.dloAgain_ports (s : State) (c l : Nat) : (s.dloAgain c l).ports = s.ports := rfl
@[simp] theorem State.dloAgain_rasSeq (s : State) (c l : Nat) : (s.dloAgain c l).rasSeq = s.rasSeq := rfl
@[simp] theorem State.dloAgain_rasDrop (s : State) (c l : Nat) : (s.dloAgain c l).rasDrop = s.rasDrop := rfl
@[simp] theorem State.dloAgain_cethr (s : State) (c l : Nat) : (s.dloAgain c l).cethr = s.cethr := rfl
@[simp] theorem State.dloAgain_rasCnt (s : State) (c l : Nat) : (s.dloAgain c l).rasCnt = s.rasCnt := rfl
@[simp] theorem State.dloAgain_rows (s : State) (c l : Nat) : (s.dloAgain c l).rows = s.rows := rfl
@[simp] theorem State.dloAgain_rasWait (s : State) (c l : Nat) : (s.dloAgain c l).rasWait = s.rasWait := rfl
@[simp] theorem State.dloAgain_podid (s : State) (c l : Nat) : (s.dloAgain c l).podid = s.podid := rfl
@[simp] theorem State.dloAgain_route (s : State) (c l : Nat) : (s.dloAgain c l).route = s.route := rfl
@[simp] theorem State.dloAgain_portm (s : State) (c l : Nat) : (s.dloAgain c l).portm = s.portm := rfl
@[simp] theorem State.dloAgain_ualctx (s : State) (c l : Nat) : (s.dloAgain c l).ualctx = s.ualctx := rfl
@[simp] theorem State.dloAgain_carve (s : State) (c l : Nat) : (s.dloAgain c l).carve = s.carve := rfl
@[simp] theorem State.dloAgain_out (s : State) (c l : Nat) : (s.dloAgain c l).out = s.out := rfl
@[simp] theorem State.dloAgain_outHeld (s : State) (c l : Nat) : (s.dloAgain c l).outHeld = s.outHeld := rfl
@[simp] theorem State.dloAgain_loans (s : State) (c l : Nat) : (s.dloAgain c l).loans = s.loans := rfl
@[simp] theorem State.dloAgain_served (s : State) (c l : Nat) : (s.dloAgain c l).served = s.served := rfl
@[simp] theorem State.dloAgain_told (s : State) (c l : Nat) : (s.dloAgain c l).told = s.told := rfl
@[simp] theorem State.dloAgain_depends (s : State) (c l : Nat) : (s.dloAgain c l).depends = s.depends := rfl
@[simp] theorem State.dloAgain_lentTo (s : State) (c l : Nat) : (s.dloAgain c l).lentTo = s.lentTo := rfl
@[simp] theorem State.dloAgain_kept (s : State) (c l : Nat) : (s.dloAgain c l).kept = s.kept := rfl
@[simp] theorem State.dloAgain_queues (s : State) (c l : Nat) : (s.dloAgain c l).queues = s.queues := rfl
@[simp] theorem State.dloAgain_taken (s : State) (c l : Nat) : (s.dloAgain c l).taken = s.taken := rfl
@[simp] theorem State.dloAgain_dnotc (s : State) (c l : Nat) : (s.dloAgain c l).dnotc = s.dnotc := rfl
@[simp] theorem State.dloAgain_rackq (s : State) (c l : Nat) : (s.dloAgain c l).rackq = s.rackq := rfl
@[simp] theorem State.dloAgain_spans (s : State) (c l : Nat) : (s.dloAgain c l).spans = s.spans := rfl
@[simp] theorem State.dloAgain_reports (s : State) (c l : Nat) : (s.dloAgain c l).reports = s.reports := rfl
@[simp] theorem State.dloAgain_doomed (s : State) (c l : Nat) : (s.dloAgain c l).doomed = s.doomed := rfl
@[simp] theorem State.dloAgain_launchq (s : State) (c l : Nat) : (s.dloAgain c l).launchq = s.launchq := rfl
@[simp] theorem State.dloAgain_replies (s : State) (c l : Nat) : (s.dloAgain c l).replies = s.replies := rfl
@[simp] theorem State.dloAgain_courierDown (s : State) (c l : Nat) : (s.dloAgain c l).courierDown = s.courierDown := rfl
@[simp] theorem State.dloAgain_hallmark (s : State) (c l : Nat) : (s.dloAgain c l).hallmark = s.hallmark := rfl
@[simp] theorem State.dloAgain_at_ctx (s : State) (c l : Nat) (n' : Nat) : (s.dloAgain c l).ctx n' = s.ctx n' := rfl
@[simp] theorem State.dloAgain_at_tme (s : State) (c l : Nat) (n' m' : Nat) : (s.dloAgain c l).tme n' m' = s.tme n' m' := rfl
@[simp] theorem State.dloAgain_at_kernel (s : State) (c l : Nat) (n' : Nat) : (s.dloAgain c l).kernel n' = s.kernel n' := rfl
@[simp] theorem State.dloAgain_at_ptnOf (s : State) (c l : Nat) (n' m' : Nat) : (s.dloAgain c l).ptnOf n' m' = s.ptnOf n' m' := rfl
@[simp] theorem State.dloAgain_at_pkgSelf (s : State) (c l : Nat) (n' : Nat) : (s.dloAgain c l).pkgSelf n' = s.pkgSelf n' := rfl
@[simp] theorem State.dloAgain_at_tile (s : State) (c l : Nat) (n' : Nat) : (s.dloAgain c l).tile n' = s.tile n' := rfl
@[simp] theorem State.dloAgain_at_coreAt (s : State) (c l : Nat) (n' m' : Nat) : (s.dloAgain c l).coreAt n' m' = s.coreAt n' m' := rfl
@[simp] theorem State.dloAgain_at_seat (s : State) (c l : Nat) (q' : SeatId) : (s.dloAgain c l).seat q' = s.seat q' := rfl
@[simp] theorem State.dloAgain_at_req (s : State) (c l : Nat) (n' : Nat) : (s.dloAgain c l).req n' = s.req n' := rfl

/-! ## State.setCtx -/

@[simp] theorem State.setCtx_agenda (s : State) (c : Nat) (x : Ctx) : (s.setCtx c x).agenda = s.agenda := rfl
@[simp] theorem State.setCtx_cur (s : State) (c : Nat) (x : Ctx) : (s.setCtx c x).cur = s.cur := rfl
@[simp] theorem State.setCtx_nextId (s : State) (c : Nat) (x : Ctx) : (s.setCtx c x).nextId = s.nextId := rfl
@[simp] theorem State.setCtx_fresh (s : State) (c : Nat) (x : Ctx) : (s.setCtx c x).fresh = s.fresh := rfl
@[simp] theorem State.setCtx_mem (s : State) (c : Nat) (x : Ctx) : (s.setCtx c x).mem = s.mem := rfl
@[simp] theorem State.setCtx_host (s : State) (c : Nat) (x : Ctx) : (s.setCtx c x).host = s.host := rfl
@[simp] theorem State.setCtx_granules (s : State) (c : Nat) (x : Ctx) : (s.setCtx c x).granules = s.granules := rfl
@[simp] theorem State.setCtx_full (s : State) (c : Nat) (x : Ctx) : (s.setCtx c x).full = s.full := rfl
@[simp] theorem State.setCtx_llcBad (s : State) (c : Nat) (x : Ctx) : (s.setCtx c x).llcBad = s.llcBad := rfl
@[simp] theorem State.setCtx_hostBad (s : State) (c : Nat) (x : Ctx) : (s.setCtx c x).hostBad = s.hostBad := rfl
@[simp] theorem State.setCtx_tlb (s : State) (c : Nat) (x : Ctx) : (s.setCtx c x).tlb = s.tlb := rfl
@[simp] theorem State.setCtx_parts (s : State) (c : Nat) (x : Ctx) : (s.setCtx c x).parts = s.parts := rfl
@[simp] theorem State.setCtx_tiles (s : State) (c : Nat) (x : Ctx) : (s.setCtx c x).tiles = s.tiles := rfl
@[simp] theorem State.setCtx_net (s : State) (c : Nat) (x : Ctx) : (s.setCtx c x).net = s.net := rfl
@[simp] theorem State.setCtx_reqs (s : State) (c : Nat) (x : Ctx) : (s.setCtx c x).reqs = s.reqs := rfl
@[simp] theorem State.setCtx_held (s : State) (c : Nat) (x : Ctx) : (s.setCtx c x).held = s.held := rfl
@[simp] theorem State.setCtx_jobs (s : State) (c : Nat) (x : Ctx) : (s.setCtx c x).jobs = s.jobs := rfl
@[simp] theorem State.setCtx_deferred (s : State) (c : Nat) (x : Ctx) : (s.setCtx c x).deferred = s.deferred := rfl
@[simp] theorem State.setCtx_foreign (s : State) (c : Nat) (x : Ctx) : (s.setCtx c x).foreign = s.foreign := rfl
@[simp] theorem State.setCtx_services (s : State) (c : Nat) (x : Ctx) : (s.setCtx c x).services = s.services := rfl
@[simp] theorem State.setCtx_failedPages (s : State) (c : Nat) (x : Ctx) : (s.setCtx c x).failedPages = s.failedPages := rfl
@[simp] theorem State.setCtx_halted (s : State) (c : Nat) (x : Ctx) : (s.setCtx c x).halted = s.halted := rfl
@[simp] theorem State.setCtx_haltCode (s : State) (c : Nat) (x : Ctx) : (s.setCtx c x).haltCode = s.haltCode := rfl
@[simp] theorem State.setCtx_feat0a (s : State) (c : Nat) (x : Ctx) : (s.setCtx c x).feat0a = s.feat0a := rfl
@[simp] theorem State.setCtx_feat1a (s : State) (c : Nat) (x : Ctx) : (s.setCtx c x).feat1a = s.feat1a := rfl
@[simp] theorem State.setCtx_featDone (s : State) (c : Nat) (x : Ctx) : (s.setCtx c x).featDone = s.featDone := rfl
@[simp] theorem State.setCtx_hmb (s : State) (c : Nat) (x : Ctx) : (s.setCtx c x).hmb = s.hmb := rfl
@[simp] theorem State.setCtx_hmn (s : State) (c : Nat) (x : Ctx) : (s.setCtx c x).hmn = s.hmn := rfl
@[simp] theorem State.setCtx_hmw (s : State) (c : Nat) (x : Ctx) : (s.setCtx c x).hmw = s.hmw := rfl
@[simp] theorem State.setCtx_hmr (s : State) (c : Nat) (x : Ctx) : (s.setCtx c x).hmr = s.hmr := rfl
@[simp] theorem State.setCtx_msgIndex (s : State) (c : Nat) (x : Ctx) : (s.setCtx c x).msgIndex = s.msgIndex := rfl
@[simp] theorem State.setCtx_msgs (s : State) (c : Nat) (x : Ctx) : (s.setCtx c x).msgs = s.msgs := rfl
@[simp] theorem State.setCtx_areplya (s : State) (c : Nat) (x : Ctx) : (s.setCtx c x).areplya = s.areplya := rfl
@[simp] theorem State.setCtx_ports (s : State) (c : Nat) (x : Ctx) : (s.setCtx c x).ports = s.ports := rfl
@[simp] theorem State.setCtx_rasSeq (s : State) (c : Nat) (x : Ctx) : (s.setCtx c x).rasSeq = s.rasSeq := rfl
@[simp] theorem State.setCtx_rasDrop (s : State) (c : Nat) (x : Ctx) : (s.setCtx c x).rasDrop = s.rasDrop := rfl
@[simp] theorem State.setCtx_cethr (s : State) (c : Nat) (x : Ctx) : (s.setCtx c x).cethr = s.cethr := rfl
@[simp] theorem State.setCtx_rasCnt (s : State) (c : Nat) (x : Ctx) : (s.setCtx c x).rasCnt = s.rasCnt := rfl
@[simp] theorem State.setCtx_rows (s : State) (c : Nat) (x : Ctx) : (s.setCtx c x).rows = s.rows := rfl
@[simp] theorem State.setCtx_rasWait (s : State) (c : Nat) (x : Ctx) : (s.setCtx c x).rasWait = s.rasWait := rfl
@[simp] theorem State.setCtx_podid (s : State) (c : Nat) (x : Ctx) : (s.setCtx c x).podid = s.podid := rfl
@[simp] theorem State.setCtx_route (s : State) (c : Nat) (x : Ctx) : (s.setCtx c x).route = s.route := rfl
@[simp] theorem State.setCtx_portm (s : State) (c : Nat) (x : Ctx) : (s.setCtx c x).portm = s.portm := rfl
@[simp] theorem State.setCtx_ualctx (s : State) (c : Nat) (x : Ctx) : (s.setCtx c x).ualctx = s.ualctx := rfl
@[simp] theorem State.setCtx_carve (s : State) (c : Nat) (x : Ctx) : (s.setCtx c x).carve = s.carve := rfl
@[simp] theorem State.setCtx_out (s : State) (c : Nat) (x : Ctx) : (s.setCtx c x).out = s.out := rfl
@[simp] theorem State.setCtx_outHeld (s : State) (c : Nat) (x : Ctx) : (s.setCtx c x).outHeld = s.outHeld := rfl
@[simp] theorem State.setCtx_loans (s : State) (c : Nat) (x : Ctx) : (s.setCtx c x).loans = s.loans := rfl
@[simp] theorem State.setCtx_served (s : State) (c : Nat) (x : Ctx) : (s.setCtx c x).served = s.served := rfl
@[simp] theorem State.setCtx_told (s : State) (c : Nat) (x : Ctx) : (s.setCtx c x).told = s.told := rfl
@[simp] theorem State.setCtx_depends (s : State) (c : Nat) (x : Ctx) : (s.setCtx c x).depends = s.depends := rfl
@[simp] theorem State.setCtx_lentTo (s : State) (c : Nat) (x : Ctx) : (s.setCtx c x).lentTo = s.lentTo := rfl
@[simp] theorem State.setCtx_kept (s : State) (c : Nat) (x : Ctx) : (s.setCtx c x).kept = s.kept := rfl
@[simp] theorem State.setCtx_queues (s : State) (c : Nat) (x : Ctx) : (s.setCtx c x).queues = s.queues := rfl
@[simp] theorem State.setCtx_taken (s : State) (c : Nat) (x : Ctx) : (s.setCtx c x).taken = s.taken := rfl
@[simp] theorem State.setCtx_dnotc (s : State) (c : Nat) (x : Ctx) : (s.setCtx c x).dnotc = s.dnotc := rfl
@[simp] theorem State.setCtx_rackq (s : State) (c : Nat) (x : Ctx) : (s.setCtx c x).rackq = s.rackq := rfl
@[simp] theorem State.setCtx_spans (s : State) (c : Nat) (x : Ctx) : (s.setCtx c x).spans = s.spans := rfl
@[simp] theorem State.setCtx_reports (s : State) (c : Nat) (x : Ctx) : (s.setCtx c x).reports = s.reports := rfl
@[simp] theorem State.setCtx_doomed (s : State) (c : Nat) (x : Ctx) : (s.setCtx c x).doomed = s.doomed := rfl
@[simp] theorem State.setCtx_launchq (s : State) (c : Nat) (x : Ctx) : (s.setCtx c x).launchq = s.launchq := rfl
@[simp] theorem State.setCtx_replies (s : State) (c : Nat) (x : Ctx) : (s.setCtx c x).replies = s.replies := rfl
@[simp] theorem State.setCtx_courierDown (s : State) (c : Nat) (x : Ctx) : (s.setCtx c x).courierDown = s.courierDown := rfl
@[simp] theorem State.setCtx_hallmark (s : State) (c : Nat) (x : Ctx) : (s.setCtx c x).hallmark = s.hallmark := rfl
@[simp] theorem State.setCtx_at_tile (s : State) (c : Nat) (x : Ctx) (n' : Nat) : (s.setCtx c x).tile n' = s.tile n' := rfl
@[simp] theorem State.setCtx_at_coreAt (s : State) (c : Nat) (x : Ctx) (n' m' : Nat) : (s.setCtx c x).coreAt n' m' = s.coreAt n' m' := rfl
@[simp] theorem State.setCtx_at_seat (s : State) (c : Nat) (x : Ctx) (q' : SeatId) : (s.setCtx c x).seat q' = s.seat q' := rfl
@[simp] theorem State.setCtx_at_part (s : State) (c : Nat) (x : Ctx) (n' m' : Nat) : (s.setCtx c x).part n' m' = s.part n' m' := rfl
@[simp] theorem State.setCtx_at_partCore (s : State) (c : Nat) (x : Ctx) (n' m' k' : Nat) : (s.setCtx c x).partCore n' m' k' = s.partCore n' m' k' := rfl
@[simp] theorem State.setCtx_at_frame (s : State) (c : Nat) (x : Ctx) (q' : FrameRef) : (s.setCtx c x).frame q' = s.frame q' := rfl
@[simp] theorem State.setCtx_at_req (s : State) (c : Nat) (x : Ctx) (n' : Nat) : (s.setCtx c x).req n' = s.req n' := rfl

/-! ## State.setTme -/

@[simp] theorem State.setTme_agenda (s : State) (c l : Nat) (t : Tme) : (s.setTme c l t).agenda = s.agenda := rfl
@[simp] theorem State.setTme_cur (s : State) (c l : Nat) (t : Tme) : (s.setTme c l t).cur = s.cur := rfl
@[simp] theorem State.setTme_nextId (s : State) (c l : Nat) (t : Tme) : (s.setTme c l t).nextId = s.nextId := rfl
@[simp] theorem State.setTme_fresh (s : State) (c l : Nat) (t : Tme) : (s.setTme c l t).fresh = s.fresh := rfl
@[simp] theorem State.setTme_mem (s : State) (c l : Nat) (t : Tme) : (s.setTme c l t).mem = s.mem := rfl
@[simp] theorem State.setTme_host (s : State) (c l : Nat) (t : Tme) : (s.setTme c l t).host = s.host := rfl
@[simp] theorem State.setTme_granules (s : State) (c l : Nat) (t : Tme) : (s.setTme c l t).granules = s.granules := rfl
@[simp] theorem State.setTme_full (s : State) (c l : Nat) (t : Tme) : (s.setTme c l t).full = s.full := rfl
@[simp] theorem State.setTme_llcBad (s : State) (c l : Nat) (t : Tme) : (s.setTme c l t).llcBad = s.llcBad := rfl
@[simp] theorem State.setTme_hostBad (s : State) (c l : Nat) (t : Tme) : (s.setTme c l t).hostBad = s.hostBad := rfl
@[simp] theorem State.setTme_tlb (s : State) (c l : Nat) (t : Tme) : (s.setTme c l t).tlb = s.tlb := rfl
@[simp] theorem State.setTme_parts (s : State) (c l : Nat) (t : Tme) : (s.setTme c l t).parts = s.parts := rfl
@[simp] theorem State.setTme_tiles (s : State) (c l : Nat) (t : Tme) : (s.setTme c l t).tiles = s.tiles := rfl
@[simp] theorem State.setTme_net (s : State) (c l : Nat) (t : Tme) : (s.setTme c l t).net = s.net := rfl
@[simp] theorem State.setTme_reqs (s : State) (c l : Nat) (t : Tme) : (s.setTme c l t).reqs = s.reqs := rfl
@[simp] theorem State.setTme_held (s : State) (c l : Nat) (t : Tme) : (s.setTme c l t).held = s.held := rfl
@[simp] theorem State.setTme_jobs (s : State) (c l : Nat) (t : Tme) : (s.setTme c l t).jobs = s.jobs := rfl
@[simp] theorem State.setTme_deferred (s : State) (c l : Nat) (t : Tme) : (s.setTme c l t).deferred = s.deferred := rfl
@[simp] theorem State.setTme_foreign (s : State) (c l : Nat) (t : Tme) : (s.setTme c l t).foreign = s.foreign := rfl
@[simp] theorem State.setTme_services (s : State) (c l : Nat) (t : Tme) : (s.setTme c l t).services = s.services := rfl
@[simp] theorem State.setTme_failedPages (s : State) (c l : Nat) (t : Tme) : (s.setTme c l t).failedPages = s.failedPages := rfl
@[simp] theorem State.setTme_halted (s : State) (c l : Nat) (t : Tme) : (s.setTme c l t).halted = s.halted := rfl
@[simp] theorem State.setTme_haltCode (s : State) (c l : Nat) (t : Tme) : (s.setTme c l t).haltCode = s.haltCode := rfl
@[simp] theorem State.setTme_feat0a (s : State) (c l : Nat) (t : Tme) : (s.setTme c l t).feat0a = s.feat0a := rfl
@[simp] theorem State.setTme_feat1a (s : State) (c l : Nat) (t : Tme) : (s.setTme c l t).feat1a = s.feat1a := rfl
@[simp] theorem State.setTme_featDone (s : State) (c l : Nat) (t : Tme) : (s.setTme c l t).featDone = s.featDone := rfl
@[simp] theorem State.setTme_hmb (s : State) (c l : Nat) (t : Tme) : (s.setTme c l t).hmb = s.hmb := rfl
@[simp] theorem State.setTme_hmn (s : State) (c l : Nat) (t : Tme) : (s.setTme c l t).hmn = s.hmn := rfl
@[simp] theorem State.setTme_hmw (s : State) (c l : Nat) (t : Tme) : (s.setTme c l t).hmw = s.hmw := rfl
@[simp] theorem State.setTme_hmr (s : State) (c l : Nat) (t : Tme) : (s.setTme c l t).hmr = s.hmr := rfl
@[simp] theorem State.setTme_msgIndex (s : State) (c l : Nat) (t : Tme) : (s.setTme c l t).msgIndex = s.msgIndex := rfl
@[simp] theorem State.setTme_msgs (s : State) (c l : Nat) (t : Tme) : (s.setTme c l t).msgs = s.msgs := rfl
@[simp] theorem State.setTme_areplya (s : State) (c l : Nat) (t : Tme) : (s.setTme c l t).areplya = s.areplya := rfl
@[simp] theorem State.setTme_ports (s : State) (c l : Nat) (t : Tme) : (s.setTme c l t).ports = s.ports := rfl
@[simp] theorem State.setTme_rasSeq (s : State) (c l : Nat) (t : Tme) : (s.setTme c l t).rasSeq = s.rasSeq := rfl
@[simp] theorem State.setTme_rasDrop (s : State) (c l : Nat) (t : Tme) : (s.setTme c l t).rasDrop = s.rasDrop := rfl
@[simp] theorem State.setTme_cethr (s : State) (c l : Nat) (t : Tme) : (s.setTme c l t).cethr = s.cethr := rfl
@[simp] theorem State.setTme_rasCnt (s : State) (c l : Nat) (t : Tme) : (s.setTme c l t).rasCnt = s.rasCnt := rfl
@[simp] theorem State.setTme_rows (s : State) (c l : Nat) (t : Tme) : (s.setTme c l t).rows = s.rows := rfl
@[simp] theorem State.setTme_rasWait (s : State) (c l : Nat) (t : Tme) : (s.setTme c l t).rasWait = s.rasWait := rfl
@[simp] theorem State.setTme_podid (s : State) (c l : Nat) (t : Tme) : (s.setTme c l t).podid = s.podid := rfl
@[simp] theorem State.setTme_route (s : State) (c l : Nat) (t : Tme) : (s.setTme c l t).route = s.route := rfl
@[simp] theorem State.setTme_portm (s : State) (c l : Nat) (t : Tme) : (s.setTme c l t).portm = s.portm := rfl
@[simp] theorem State.setTme_ualctx (s : State) (c l : Nat) (t : Tme) : (s.setTme c l t).ualctx = s.ualctx := rfl
@[simp] theorem State.setTme_carve (s : State) (c l : Nat) (t : Tme) : (s.setTme c l t).carve = s.carve := rfl
@[simp] theorem State.setTme_out (s : State) (c l : Nat) (t : Tme) : (s.setTme c l t).out = s.out := rfl
@[simp] theorem State.setTme_outHeld (s : State) (c l : Nat) (t : Tme) : (s.setTme c l t).outHeld = s.outHeld := rfl
@[simp] theorem State.setTme_loans (s : State) (c l : Nat) (t : Tme) : (s.setTme c l t).loans = s.loans := rfl
@[simp] theorem State.setTme_served (s : State) (c l : Nat) (t : Tme) : (s.setTme c l t).served = s.served := rfl
@[simp] theorem State.setTme_told (s : State) (c l : Nat) (t : Tme) : (s.setTme c l t).told = s.told := rfl
@[simp] theorem State.setTme_depends (s : State) (c l : Nat) (t : Tme) : (s.setTme c l t).depends = s.depends := rfl
@[simp] theorem State.setTme_lentTo (s : State) (c l : Nat) (t : Tme) : (s.setTme c l t).lentTo = s.lentTo := rfl
@[simp] theorem State.setTme_kept (s : State) (c l : Nat) (t : Tme) : (s.setTme c l t).kept = s.kept := rfl
@[simp] theorem State.setTme_queues (s : State) (c l : Nat) (t : Tme) : (s.setTme c l t).queues = s.queues := rfl
@[simp] theorem State.setTme_taken (s : State) (c l : Nat) (t : Tme) : (s.setTme c l t).taken = s.taken := rfl
@[simp] theorem State.setTme_dnotc (s : State) (c l : Nat) (t : Tme) : (s.setTme c l t).dnotc = s.dnotc := rfl
@[simp] theorem State.setTme_rackq (s : State) (c l : Nat) (t : Tme) : (s.setTme c l t).rackq = s.rackq := rfl
@[simp] theorem State.setTme_spans (s : State) (c l : Nat) (t : Tme) : (s.setTme c l t).spans = s.spans := rfl
@[simp] theorem State.setTme_reports (s : State) (c l : Nat) (t : Tme) : (s.setTme c l t).reports = s.reports := rfl
@[simp] theorem State.setTme_doomed (s : State) (c l : Nat) (t : Tme) : (s.setTme c l t).doomed = s.doomed := rfl
@[simp] theorem State.setTme_launchq (s : State) (c l : Nat) (t : Tme) : (s.setTme c l t).launchq = s.launchq := rfl
@[simp] theorem State.setTme_replies (s : State) (c l : Nat) (t : Tme) : (s.setTme c l t).replies = s.replies := rfl
@[simp] theorem State.setTme_courierDown (s : State) (c l : Nat) (t : Tme) : (s.setTme c l t).courierDown = s.courierDown := rfl
@[simp] theorem State.setTme_hallmark (s : State) (c l : Nat) (t : Tme) : (s.setTme c l t).hallmark = s.hallmark := rfl
@[simp] theorem State.setTme_at_tile (s : State) (c l : Nat) (t : Tme) (n' : Nat) : (s.setTme c l t).tile n' = s.tile n' := rfl
@[simp] theorem State.setTme_at_coreAt (s : State) (c l : Nat) (t : Tme) (n' m' : Nat) : (s.setTme c l t).coreAt n' m' = s.coreAt n' m' := rfl
@[simp] theorem State.setTme_at_seat (s : State) (c l : Nat) (t : Tme) (q' : SeatId) : (s.setTme c l t).seat q' = s.seat q' := rfl
@[simp] theorem State.setTme_at_part (s : State) (c l : Nat) (t : Tme) (n' m' : Nat) : (s.setTme c l t).part n' m' = s.part n' m' := rfl
@[simp] theorem State.setTme_at_partCore (s : State) (c l : Nat) (t : Tme) (n' m' k' : Nat) : (s.setTme c l t).partCore n' m' k' = s.partCore n' m' k' := rfl
@[simp] theorem State.setTme_at_frame (s : State) (c l : Nat) (t : Tme) (q' : FrameRef) : (s.setTme c l t).frame q' = s.frame q' := rfl
@[simp] theorem State.setTme_at_req (s : State) (c l : Nat) (t : Tme) (n' : Nat) : (s.setTme c l t).req n' = s.req n' := rfl

/-! ## State.setTile -/

@[simp] theorem State.setTile_agenda (s : State) (n : Nat) (t : Tile) : (s.setTile n t).agenda = s.agenda := rfl
@[simp] theorem State.setTile_cur (s : State) (n : Nat) (t : Tile) : (s.setTile n t).cur = s.cur := rfl
@[simp] theorem State.setTile_nextId (s : State) (n : Nat) (t : Tile) : (s.setTile n t).nextId = s.nextId := rfl
@[simp] theorem State.setTile_fresh (s : State) (n : Nat) (t : Tile) : (s.setTile n t).fresh = s.fresh := rfl
@[simp] theorem State.setTile_mem (s : State) (n : Nat) (t : Tile) : (s.setTile n t).mem = s.mem := rfl
@[simp] theorem State.setTile_host (s : State) (n : Nat) (t : Tile) : (s.setTile n t).host = s.host := rfl
@[simp] theorem State.setTile_granules (s : State) (n : Nat) (t : Tile) : (s.setTile n t).granules = s.granules := rfl
@[simp] theorem State.setTile_full (s : State) (n : Nat) (t : Tile) : (s.setTile n t).full = s.full := rfl
@[simp] theorem State.setTile_llcBad (s : State) (n : Nat) (t : Tile) : (s.setTile n t).llcBad = s.llcBad := rfl
@[simp] theorem State.setTile_hostBad (s : State) (n : Nat) (t : Tile) : (s.setTile n t).hostBad = s.hostBad := rfl
@[simp] theorem State.setTile_tlb (s : State) (n : Nat) (t : Tile) : (s.setTile n t).tlb = s.tlb := rfl
@[simp] theorem State.setTile_ctxs (s : State) (n : Nat) (t : Tile) : (s.setTile n t).ctxs = s.ctxs := rfl
@[simp] theorem State.setTile_parts (s : State) (n : Nat) (t : Tile) : (s.setTile n t).parts = s.parts := rfl
@[simp] theorem State.setTile_net (s : State) (n : Nat) (t : Tile) : (s.setTile n t).net = s.net := rfl
@[simp] theorem State.setTile_reqs (s : State) (n : Nat) (t : Tile) : (s.setTile n t).reqs = s.reqs := rfl
@[simp] theorem State.setTile_held (s : State) (n : Nat) (t : Tile) : (s.setTile n t).held = s.held := rfl
@[simp] theorem State.setTile_jobs (s : State) (n : Nat) (t : Tile) : (s.setTile n t).jobs = s.jobs := rfl
@[simp] theorem State.setTile_deferred (s : State) (n : Nat) (t : Tile) : (s.setTile n t).deferred = s.deferred := rfl
@[simp] theorem State.setTile_foreign (s : State) (n : Nat) (t : Tile) : (s.setTile n t).foreign = s.foreign := rfl
@[simp] theorem State.setTile_services (s : State) (n : Nat) (t : Tile) : (s.setTile n t).services = s.services := rfl
@[simp] theorem State.setTile_failedPages (s : State) (n : Nat) (t : Tile) : (s.setTile n t).failedPages = s.failedPages := rfl
@[simp] theorem State.setTile_halted (s : State) (n : Nat) (t : Tile) : (s.setTile n t).halted = s.halted := rfl
@[simp] theorem State.setTile_haltCode (s : State) (n : Nat) (t : Tile) : (s.setTile n t).haltCode = s.haltCode := rfl
@[simp] theorem State.setTile_feat0a (s : State) (n : Nat) (t : Tile) : (s.setTile n t).feat0a = s.feat0a := rfl
@[simp] theorem State.setTile_feat1a (s : State) (n : Nat) (t : Tile) : (s.setTile n t).feat1a = s.feat1a := rfl
@[simp] theorem State.setTile_featDone (s : State) (n : Nat) (t : Tile) : (s.setTile n t).featDone = s.featDone := rfl
@[simp] theorem State.setTile_hmb (s : State) (n : Nat) (t : Tile) : (s.setTile n t).hmb = s.hmb := rfl
@[simp] theorem State.setTile_hmn (s : State) (n : Nat) (t : Tile) : (s.setTile n t).hmn = s.hmn := rfl
@[simp] theorem State.setTile_hmw (s : State) (n : Nat) (t : Tile) : (s.setTile n t).hmw = s.hmw := rfl
@[simp] theorem State.setTile_hmr (s : State) (n : Nat) (t : Tile) : (s.setTile n t).hmr = s.hmr := rfl
@[simp] theorem State.setTile_msgIndex (s : State) (n : Nat) (t : Tile) : (s.setTile n t).msgIndex = s.msgIndex := rfl
@[simp] theorem State.setTile_msgs (s : State) (n : Nat) (t : Tile) : (s.setTile n t).msgs = s.msgs := rfl
@[simp] theorem State.setTile_areplya (s : State) (n : Nat) (t : Tile) : (s.setTile n t).areplya = s.areplya := rfl
@[simp] theorem State.setTile_ports (s : State) (n : Nat) (t : Tile) : (s.setTile n t).ports = s.ports := rfl
@[simp] theorem State.setTile_rasSeq (s : State) (n : Nat) (t : Tile) : (s.setTile n t).rasSeq = s.rasSeq := rfl
@[simp] theorem State.setTile_rasDrop (s : State) (n : Nat) (t : Tile) : (s.setTile n t).rasDrop = s.rasDrop := rfl
@[simp] theorem State.setTile_cethr (s : State) (n : Nat) (t : Tile) : (s.setTile n t).cethr = s.cethr := rfl
@[simp] theorem State.setTile_rasCnt (s : State) (n : Nat) (t : Tile) : (s.setTile n t).rasCnt = s.rasCnt := rfl
@[simp] theorem State.setTile_rows (s : State) (n : Nat) (t : Tile) : (s.setTile n t).rows = s.rows := rfl
@[simp] theorem State.setTile_rasWait (s : State) (n : Nat) (t : Tile) : (s.setTile n t).rasWait = s.rasWait := rfl
@[simp] theorem State.setTile_podid (s : State) (n : Nat) (t : Tile) : (s.setTile n t).podid = s.podid := rfl
@[simp] theorem State.setTile_route (s : State) (n : Nat) (t : Tile) : (s.setTile n t).route = s.route := rfl
@[simp] theorem State.setTile_portm (s : State) (n : Nat) (t : Tile) : (s.setTile n t).portm = s.portm := rfl
@[simp] theorem State.setTile_ualctx (s : State) (n : Nat) (t : Tile) : (s.setTile n t).ualctx = s.ualctx := rfl
@[simp] theorem State.setTile_carve (s : State) (n : Nat) (t : Tile) : (s.setTile n t).carve = s.carve := rfl
@[simp] theorem State.setTile_out (s : State) (n : Nat) (t : Tile) : (s.setTile n t).out = s.out := rfl
@[simp] theorem State.setTile_outHeld (s : State) (n : Nat) (t : Tile) : (s.setTile n t).outHeld = s.outHeld := rfl
@[simp] theorem State.setTile_loans (s : State) (n : Nat) (t : Tile) : (s.setTile n t).loans = s.loans := rfl
@[simp] theorem State.setTile_served (s : State) (n : Nat) (t : Tile) : (s.setTile n t).served = s.served := rfl
@[simp] theorem State.setTile_told (s : State) (n : Nat) (t : Tile) : (s.setTile n t).told = s.told := rfl
@[simp] theorem State.setTile_depends (s : State) (n : Nat) (t : Tile) : (s.setTile n t).depends = s.depends := rfl
@[simp] theorem State.setTile_lentTo (s : State) (n : Nat) (t : Tile) : (s.setTile n t).lentTo = s.lentTo := rfl
@[simp] theorem State.setTile_kept (s : State) (n : Nat) (t : Tile) : (s.setTile n t).kept = s.kept := rfl
@[simp] theorem State.setTile_queues (s : State) (n : Nat) (t : Tile) : (s.setTile n t).queues = s.queues := rfl
@[simp] theorem State.setTile_taken (s : State) (n : Nat) (t : Tile) : (s.setTile n t).taken = s.taken := rfl
@[simp] theorem State.setTile_dnotc (s : State) (n : Nat) (t : Tile) : (s.setTile n t).dnotc = s.dnotc := rfl
@[simp] theorem State.setTile_rackq (s : State) (n : Nat) (t : Tile) : (s.setTile n t).rackq = s.rackq := rfl
@[simp] theorem State.setTile_spans (s : State) (n : Nat) (t : Tile) : (s.setTile n t).spans = s.spans := rfl
@[simp] theorem State.setTile_reports (s : State) (n : Nat) (t : Tile) : (s.setTile n t).reports = s.reports := rfl
@[simp] theorem State.setTile_doomed (s : State) (n : Nat) (t : Tile) : (s.setTile n t).doomed = s.doomed := rfl
@[simp] theorem State.setTile_launchq (s : State) (n : Nat) (t : Tile) : (s.setTile n t).launchq = s.launchq := rfl
@[simp] theorem State.setTile_replies (s : State) (n : Nat) (t : Tile) : (s.setTile n t).replies = s.replies := rfl
@[simp] theorem State.setTile_courierDown (s : State) (n : Nat) (t : Tile) : (s.setTile n t).courierDown = s.courierDown := rfl
@[simp] theorem State.setTile_hallmark (s : State) (n : Nat) (t : Tile) : (s.setTile n t).hallmark = s.hallmark := rfl
@[simp] theorem State.setTile_at_ctx (s : State) (n : Nat) (t : Tile) (n' : Nat) : (s.setTile n t).ctx n' = s.ctx n' := rfl
@[simp] theorem State.setTile_at_tme (s : State) (n : Nat) (t : Tile) (n' m' : Nat) : (s.setTile n t).tme n' m' = s.tme n' m' := rfl
@[simp] theorem State.setTile_at_kernel (s : State) (n : Nat) (t : Tile) (n' : Nat) : (s.setTile n t).kernel n' = s.kernel n' := rfl
@[simp] theorem State.setTile_at_ptnOf (s : State) (n : Nat) (t : Tile) (n' m' : Nat) : (s.setTile n t).ptnOf n' m' = s.ptnOf n' m' := rfl
@[simp] theorem State.setTile_at_pkgSelf (s : State) (n : Nat) (t : Tile) (n' : Nat) : (s.setTile n t).pkgSelf n' = s.pkgSelf n' := rfl
@[simp] theorem State.setTile_at_part (s : State) (n : Nat) (t : Tile) (n' m' : Nat) : (s.setTile n t).part n' m' = s.part n' m' := rfl
@[simp] theorem State.setTile_at_partCore (s : State) (n : Nat) (t : Tile) (n' m' k' : Nat) : (s.setTile n t).partCore n' m' k' = s.partCore n' m' k' := rfl
@[simp] theorem State.setTile_at_frame (s : State) (n : Nat) (t : Tile) (q' : FrameRef) : (s.setTile n t).frame q' = s.frame q' := rfl
@[simp] theorem State.setTile_at_req (s : State) (n : Nat) (t : Tile) (n' : Nat) : (s.setTile n t).req n' = s.req n' := rfl

/-! ## State.setCore -/

@[simp] theorem State.setCore_agenda (s : State) (n k : Nat) (c : Core) : (s.setCore n k c).agenda = s.agenda := rfl
@[simp] theorem State.setCore_cur (s : State) (n k : Nat) (c : Core) : (s.setCore n k c).cur = s.cur := rfl
@[simp] theorem State.setCore_nextId (s : State) (n k : Nat) (c : Core) : (s.setCore n k c).nextId = s.nextId := rfl
@[simp] theorem State.setCore_fresh (s : State) (n k : Nat) (c : Core) : (s.setCore n k c).fresh = s.fresh := rfl
@[simp] theorem State.setCore_mem (s : State) (n k : Nat) (c : Core) : (s.setCore n k c).mem = s.mem := rfl
@[simp] theorem State.setCore_host (s : State) (n k : Nat) (c : Core) : (s.setCore n k c).host = s.host := rfl
@[simp] theorem State.setCore_granules (s : State) (n k : Nat) (c : Core) : (s.setCore n k c).granules = s.granules := rfl
@[simp] theorem State.setCore_full (s : State) (n k : Nat) (c : Core) : (s.setCore n k c).full = s.full := rfl
@[simp] theorem State.setCore_llcBad (s : State) (n k : Nat) (c : Core) : (s.setCore n k c).llcBad = s.llcBad := rfl
@[simp] theorem State.setCore_hostBad (s : State) (n k : Nat) (c : Core) : (s.setCore n k c).hostBad = s.hostBad := rfl
@[simp] theorem State.setCore_tlb (s : State) (n k : Nat) (c : Core) : (s.setCore n k c).tlb = s.tlb := rfl
@[simp] theorem State.setCore_ctxs (s : State) (n k : Nat) (c : Core) : (s.setCore n k c).ctxs = s.ctxs := rfl
@[simp] theorem State.setCore_parts (s : State) (n k : Nat) (c : Core) : (s.setCore n k c).parts = s.parts := rfl
@[simp] theorem State.setCore_net (s : State) (n k : Nat) (c : Core) : (s.setCore n k c).net = s.net := rfl
@[simp] theorem State.setCore_reqs (s : State) (n k : Nat) (c : Core) : (s.setCore n k c).reqs = s.reqs := rfl
@[simp] theorem State.setCore_held (s : State) (n k : Nat) (c : Core) : (s.setCore n k c).held = s.held := rfl
@[simp] theorem State.setCore_jobs (s : State) (n k : Nat) (c : Core) : (s.setCore n k c).jobs = s.jobs := rfl
@[simp] theorem State.setCore_deferred (s : State) (n k : Nat) (c : Core) : (s.setCore n k c).deferred = s.deferred := rfl
@[simp] theorem State.setCore_foreign (s : State) (n k : Nat) (c : Core) : (s.setCore n k c).foreign = s.foreign := rfl
@[simp] theorem State.setCore_services (s : State) (n k : Nat) (c : Core) : (s.setCore n k c).services = s.services := rfl
@[simp] theorem State.setCore_failedPages (s : State) (n k : Nat) (c : Core) : (s.setCore n k c).failedPages = s.failedPages := rfl
@[simp] theorem State.setCore_halted (s : State) (n k : Nat) (c : Core) : (s.setCore n k c).halted = s.halted := rfl
@[simp] theorem State.setCore_haltCode (s : State) (n k : Nat) (c : Core) : (s.setCore n k c).haltCode = s.haltCode := rfl
@[simp] theorem State.setCore_feat0a (s : State) (n k : Nat) (c : Core) : (s.setCore n k c).feat0a = s.feat0a := rfl
@[simp] theorem State.setCore_feat1a (s : State) (n k : Nat) (c : Core) : (s.setCore n k c).feat1a = s.feat1a := rfl
@[simp] theorem State.setCore_featDone (s : State) (n k : Nat) (c : Core) : (s.setCore n k c).featDone = s.featDone := rfl
@[simp] theorem State.setCore_hmb (s : State) (n k : Nat) (c : Core) : (s.setCore n k c).hmb = s.hmb := rfl
@[simp] theorem State.setCore_hmn (s : State) (n k : Nat) (c : Core) : (s.setCore n k c).hmn = s.hmn := rfl
@[simp] theorem State.setCore_hmw (s : State) (n k : Nat) (c : Core) : (s.setCore n k c).hmw = s.hmw := rfl
@[simp] theorem State.setCore_hmr (s : State) (n k : Nat) (c : Core) : (s.setCore n k c).hmr = s.hmr := rfl
@[simp] theorem State.setCore_msgIndex (s : State) (n k : Nat) (c : Core) : (s.setCore n k c).msgIndex = s.msgIndex := rfl
@[simp] theorem State.setCore_msgs (s : State) (n k : Nat) (c : Core) : (s.setCore n k c).msgs = s.msgs := rfl
@[simp] theorem State.setCore_areplya (s : State) (n k : Nat) (c : Core) : (s.setCore n k c).areplya = s.areplya := rfl
@[simp] theorem State.setCore_ports (s : State) (n k : Nat) (c : Core) : (s.setCore n k c).ports = s.ports := rfl
@[simp] theorem State.setCore_rasSeq (s : State) (n k : Nat) (c : Core) : (s.setCore n k c).rasSeq = s.rasSeq := rfl
@[simp] theorem State.setCore_rasDrop (s : State) (n k : Nat) (c : Core) : (s.setCore n k c).rasDrop = s.rasDrop := rfl
@[simp] theorem State.setCore_cethr (s : State) (n k : Nat) (c : Core) : (s.setCore n k c).cethr = s.cethr := rfl
@[simp] theorem State.setCore_rasCnt (s : State) (n k : Nat) (c : Core) : (s.setCore n k c).rasCnt = s.rasCnt := rfl
@[simp] theorem State.setCore_rows (s : State) (n k : Nat) (c : Core) : (s.setCore n k c).rows = s.rows := rfl
@[simp] theorem State.setCore_rasWait (s : State) (n k : Nat) (c : Core) : (s.setCore n k c).rasWait = s.rasWait := rfl
@[simp] theorem State.setCore_podid (s : State) (n k : Nat) (c : Core) : (s.setCore n k c).podid = s.podid := rfl
@[simp] theorem State.setCore_route (s : State) (n k : Nat) (c : Core) : (s.setCore n k c).route = s.route := rfl
@[simp] theorem State.setCore_portm (s : State) (n k : Nat) (c : Core) : (s.setCore n k c).portm = s.portm := rfl
@[simp] theorem State.setCore_ualctx (s : State) (n k : Nat) (c : Core) : (s.setCore n k c).ualctx = s.ualctx := rfl
@[simp] theorem State.setCore_carve (s : State) (n k : Nat) (c : Core) : (s.setCore n k c).carve = s.carve := rfl
@[simp] theorem State.setCore_out (s : State) (n k : Nat) (c : Core) : (s.setCore n k c).out = s.out := rfl
@[simp] theorem State.setCore_outHeld (s : State) (n k : Nat) (c : Core) : (s.setCore n k c).outHeld = s.outHeld := rfl
@[simp] theorem State.setCore_loans (s : State) (n k : Nat) (c : Core) : (s.setCore n k c).loans = s.loans := rfl
@[simp] theorem State.setCore_served (s : State) (n k : Nat) (c : Core) : (s.setCore n k c).served = s.served := rfl
@[simp] theorem State.setCore_told (s : State) (n k : Nat) (c : Core) : (s.setCore n k c).told = s.told := rfl
@[simp] theorem State.setCore_depends (s : State) (n k : Nat) (c : Core) : (s.setCore n k c).depends = s.depends := rfl
@[simp] theorem State.setCore_lentTo (s : State) (n k : Nat) (c : Core) : (s.setCore n k c).lentTo = s.lentTo := rfl
@[simp] theorem State.setCore_kept (s : State) (n k : Nat) (c : Core) : (s.setCore n k c).kept = s.kept := rfl
@[simp] theorem State.setCore_queues (s : State) (n k : Nat) (c : Core) : (s.setCore n k c).queues = s.queues := rfl
@[simp] theorem State.setCore_taken (s : State) (n k : Nat) (c : Core) : (s.setCore n k c).taken = s.taken := rfl
@[simp] theorem State.setCore_dnotc (s : State) (n k : Nat) (c : Core) : (s.setCore n k c).dnotc = s.dnotc := rfl
@[simp] theorem State.setCore_rackq (s : State) (n k : Nat) (c : Core) : (s.setCore n k c).rackq = s.rackq := rfl
@[simp] theorem State.setCore_spans (s : State) (n k : Nat) (c : Core) : (s.setCore n k c).spans = s.spans := rfl
@[simp] theorem State.setCore_reports (s : State) (n k : Nat) (c : Core) : (s.setCore n k c).reports = s.reports := rfl
@[simp] theorem State.setCore_doomed (s : State) (n k : Nat) (c : Core) : (s.setCore n k c).doomed = s.doomed := rfl
@[simp] theorem State.setCore_launchq (s : State) (n k : Nat) (c : Core) : (s.setCore n k c).launchq = s.launchq := rfl
@[simp] theorem State.setCore_replies (s : State) (n k : Nat) (c : Core) : (s.setCore n k c).replies = s.replies := rfl
@[simp] theorem State.setCore_courierDown (s : State) (n k : Nat) (c : Core) : (s.setCore n k c).courierDown = s.courierDown := rfl
@[simp] theorem State.setCore_hallmark (s : State) (n k : Nat) (c : Core) : (s.setCore n k c).hallmark = s.hallmark := rfl
@[simp] theorem State.setCore_at_ctx (s : State) (n k : Nat) (c : Core) (n' : Nat) : (s.setCore n k c).ctx n' = s.ctx n' := rfl
@[simp] theorem State.setCore_at_tme (s : State) (n k : Nat) (c : Core) (n' m' : Nat) : (s.setCore n k c).tme n' m' = s.tme n' m' := rfl
@[simp] theorem State.setCore_at_kernel (s : State) (n k : Nat) (c : Core) (n' : Nat) : (s.setCore n k c).kernel n' = s.kernel n' := rfl
@[simp] theorem State.setCore_at_ptnOf (s : State) (n k : Nat) (c : Core) (n' m' : Nat) : (s.setCore n k c).ptnOf n' m' = s.ptnOf n' m' := rfl
@[simp] theorem State.setCore_at_pkgSelf (s : State) (n k : Nat) (c : Core) (n' : Nat) : (s.setCore n k c).pkgSelf n' = s.pkgSelf n' := rfl
@[simp] theorem State.setCore_at_part (s : State) (n k : Nat) (c : Core) (n' m' : Nat) : (s.setCore n k c).part n' m' = s.part n' m' := rfl
@[simp] theorem State.setCore_at_partCore (s : State) (n k : Nat) (c : Core) (n' m' k' : Nat) : (s.setCore n k c).partCore n' m' k' = s.partCore n' m' k' := rfl
@[simp] theorem State.setCore_at_frame (s : State) (n k : Nat) (c : Core) (q' : FrameRef) : (s.setCore n k c).frame q' = s.frame q' := rfl
@[simp] theorem State.setCore_at_req (s : State) (n k : Nat) (c : Core) (n' : Nat) : (s.setCore n k c).req n' = s.req n' := rfl

/-! ## State.setSeat -/

@[simp] theorem State.setSeat_agenda (s : State) (p : SeatId) (x : SeatState) : (s.setSeat p x).agenda = s.agenda := rfl
@[simp] theorem State.setSeat_cur (s : State) (p : SeatId) (x : SeatState) : (s.setSeat p x).cur = s.cur := rfl
@[simp] theorem State.setSeat_nextId (s : State) (p : SeatId) (x : SeatState) : (s.setSeat p x).nextId = s.nextId := rfl
@[simp] theorem State.setSeat_fresh (s : State) (p : SeatId) (x : SeatState) : (s.setSeat p x).fresh = s.fresh := rfl
@[simp] theorem State.setSeat_mem (s : State) (p : SeatId) (x : SeatState) : (s.setSeat p x).mem = s.mem := rfl
@[simp] theorem State.setSeat_host (s : State) (p : SeatId) (x : SeatState) : (s.setSeat p x).host = s.host := rfl
@[simp] theorem State.setSeat_granules (s : State) (p : SeatId) (x : SeatState) : (s.setSeat p x).granules = s.granules := rfl
@[simp] theorem State.setSeat_full (s : State) (p : SeatId) (x : SeatState) : (s.setSeat p x).full = s.full := rfl
@[simp] theorem State.setSeat_llcBad (s : State) (p : SeatId) (x : SeatState) : (s.setSeat p x).llcBad = s.llcBad := rfl
@[simp] theorem State.setSeat_hostBad (s : State) (p : SeatId) (x : SeatState) : (s.setSeat p x).hostBad = s.hostBad := rfl
@[simp] theorem State.setSeat_tlb (s : State) (p : SeatId) (x : SeatState) : (s.setSeat p x).tlb = s.tlb := rfl
@[simp] theorem State.setSeat_ctxs (s : State) (p : SeatId) (x : SeatState) : (s.setSeat p x).ctxs = s.ctxs := rfl
@[simp] theorem State.setSeat_parts (s : State) (p : SeatId) (x : SeatState) : (s.setSeat p x).parts = s.parts := rfl
@[simp] theorem State.setSeat_net (s : State) (p : SeatId) (x : SeatState) : (s.setSeat p x).net = s.net := rfl
@[simp] theorem State.setSeat_reqs (s : State) (p : SeatId) (x : SeatState) : (s.setSeat p x).reqs = s.reqs := rfl
@[simp] theorem State.setSeat_held (s : State) (p : SeatId) (x : SeatState) : (s.setSeat p x).held = s.held := rfl
@[simp] theorem State.setSeat_jobs (s : State) (p : SeatId) (x : SeatState) : (s.setSeat p x).jobs = s.jobs := rfl
@[simp] theorem State.setSeat_deferred (s : State) (p : SeatId) (x : SeatState) : (s.setSeat p x).deferred = s.deferred := rfl
@[simp] theorem State.setSeat_foreign (s : State) (p : SeatId) (x : SeatState) : (s.setSeat p x).foreign = s.foreign := rfl
@[simp] theorem State.setSeat_services (s : State) (p : SeatId) (x : SeatState) : (s.setSeat p x).services = s.services := rfl
@[simp] theorem State.setSeat_failedPages (s : State) (p : SeatId) (x : SeatState) : (s.setSeat p x).failedPages = s.failedPages := rfl
@[simp] theorem State.setSeat_halted (s : State) (p : SeatId) (x : SeatState) : (s.setSeat p x).halted = s.halted := rfl
@[simp] theorem State.setSeat_haltCode (s : State) (p : SeatId) (x : SeatState) : (s.setSeat p x).haltCode = s.haltCode := rfl
@[simp] theorem State.setSeat_feat0a (s : State) (p : SeatId) (x : SeatState) : (s.setSeat p x).feat0a = s.feat0a := rfl
@[simp] theorem State.setSeat_feat1a (s : State) (p : SeatId) (x : SeatState) : (s.setSeat p x).feat1a = s.feat1a := rfl
@[simp] theorem State.setSeat_featDone (s : State) (p : SeatId) (x : SeatState) : (s.setSeat p x).featDone = s.featDone := rfl
@[simp] theorem State.setSeat_hmb (s : State) (p : SeatId) (x : SeatState) : (s.setSeat p x).hmb = s.hmb := rfl
@[simp] theorem State.setSeat_hmn (s : State) (p : SeatId) (x : SeatState) : (s.setSeat p x).hmn = s.hmn := rfl
@[simp] theorem State.setSeat_hmw (s : State) (p : SeatId) (x : SeatState) : (s.setSeat p x).hmw = s.hmw := rfl
@[simp] theorem State.setSeat_hmr (s : State) (p : SeatId) (x : SeatState) : (s.setSeat p x).hmr = s.hmr := rfl
@[simp] theorem State.setSeat_msgIndex (s : State) (p : SeatId) (x : SeatState) : (s.setSeat p x).msgIndex = s.msgIndex := rfl
@[simp] theorem State.setSeat_msgs (s : State) (p : SeatId) (x : SeatState) : (s.setSeat p x).msgs = s.msgs := rfl
@[simp] theorem State.setSeat_areplya (s : State) (p : SeatId) (x : SeatState) : (s.setSeat p x).areplya = s.areplya := rfl
@[simp] theorem State.setSeat_ports (s : State) (p : SeatId) (x : SeatState) : (s.setSeat p x).ports = s.ports := rfl
@[simp] theorem State.setSeat_rasSeq (s : State) (p : SeatId) (x : SeatState) : (s.setSeat p x).rasSeq = s.rasSeq := rfl
@[simp] theorem State.setSeat_rasDrop (s : State) (p : SeatId) (x : SeatState) : (s.setSeat p x).rasDrop = s.rasDrop := rfl
@[simp] theorem State.setSeat_cethr (s : State) (p : SeatId) (x : SeatState) : (s.setSeat p x).cethr = s.cethr := rfl
@[simp] theorem State.setSeat_rasCnt (s : State) (p : SeatId) (x : SeatState) : (s.setSeat p x).rasCnt = s.rasCnt := rfl
@[simp] theorem State.setSeat_rows (s : State) (p : SeatId) (x : SeatState) : (s.setSeat p x).rows = s.rows := rfl
@[simp] theorem State.setSeat_rasWait (s : State) (p : SeatId) (x : SeatState) : (s.setSeat p x).rasWait = s.rasWait := rfl
@[simp] theorem State.setSeat_podid (s : State) (p : SeatId) (x : SeatState) : (s.setSeat p x).podid = s.podid := rfl
@[simp] theorem State.setSeat_route (s : State) (p : SeatId) (x : SeatState) : (s.setSeat p x).route = s.route := rfl
@[simp] theorem State.setSeat_portm (s : State) (p : SeatId) (x : SeatState) : (s.setSeat p x).portm = s.portm := rfl
@[simp] theorem State.setSeat_ualctx (s : State) (p : SeatId) (x : SeatState) : (s.setSeat p x).ualctx = s.ualctx := rfl
@[simp] theorem State.setSeat_carve (s : State) (p : SeatId) (x : SeatState) : (s.setSeat p x).carve = s.carve := rfl
@[simp] theorem State.setSeat_out (s : State) (p : SeatId) (x : SeatState) : (s.setSeat p x).out = s.out := rfl
@[simp] theorem State.setSeat_outHeld (s : State) (p : SeatId) (x : SeatState) : (s.setSeat p x).outHeld = s.outHeld := rfl
@[simp] theorem State.setSeat_loans (s : State) (p : SeatId) (x : SeatState) : (s.setSeat p x).loans = s.loans := rfl
@[simp] theorem State.setSeat_served (s : State) (p : SeatId) (x : SeatState) : (s.setSeat p x).served = s.served := rfl
@[simp] theorem State.setSeat_told (s : State) (p : SeatId) (x : SeatState) : (s.setSeat p x).told = s.told := rfl
@[simp] theorem State.setSeat_depends (s : State) (p : SeatId) (x : SeatState) : (s.setSeat p x).depends = s.depends := rfl
@[simp] theorem State.setSeat_lentTo (s : State) (p : SeatId) (x : SeatState) : (s.setSeat p x).lentTo = s.lentTo := rfl
@[simp] theorem State.setSeat_kept (s : State) (p : SeatId) (x : SeatState) : (s.setSeat p x).kept = s.kept := rfl
@[simp] theorem State.setSeat_queues (s : State) (p : SeatId) (x : SeatState) : (s.setSeat p x).queues = s.queues := rfl
@[simp] theorem State.setSeat_taken (s : State) (p : SeatId) (x : SeatState) : (s.setSeat p x).taken = s.taken := rfl
@[simp] theorem State.setSeat_dnotc (s : State) (p : SeatId) (x : SeatState) : (s.setSeat p x).dnotc = s.dnotc := rfl
@[simp] theorem State.setSeat_rackq (s : State) (p : SeatId) (x : SeatState) : (s.setSeat p x).rackq = s.rackq := rfl
@[simp] theorem State.setSeat_spans (s : State) (p : SeatId) (x : SeatState) : (s.setSeat p x).spans = s.spans := rfl
@[simp] theorem State.setSeat_reports (s : State) (p : SeatId) (x : SeatState) : (s.setSeat p x).reports = s.reports := rfl
@[simp] theorem State.setSeat_doomed (s : State) (p : SeatId) (x : SeatState) : (s.setSeat p x).doomed = s.doomed := rfl
@[simp] theorem State.setSeat_launchq (s : State) (p : SeatId) (x : SeatState) : (s.setSeat p x).launchq = s.launchq := rfl
@[simp] theorem State.setSeat_replies (s : State) (p : SeatId) (x : SeatState) : (s.setSeat p x).replies = s.replies := rfl
@[simp] theorem State.setSeat_courierDown (s : State) (p : SeatId) (x : SeatState) : (s.setSeat p x).courierDown = s.courierDown := rfl
@[simp] theorem State.setSeat_hallmark (s : State) (p : SeatId) (x : SeatState) : (s.setSeat p x).hallmark = s.hallmark := rfl
@[simp] theorem State.setSeat_at_ctx (s : State) (p : SeatId) (x : SeatState) (n' : Nat) : (s.setSeat p x).ctx n' = s.ctx n' := rfl
@[simp] theorem State.setSeat_at_tme (s : State) (p : SeatId) (x : SeatState) (n' m' : Nat) : (s.setSeat p x).tme n' m' = s.tme n' m' := rfl
@[simp] theorem State.setSeat_at_kernel (s : State) (p : SeatId) (x : SeatState) (n' : Nat) : (s.setSeat p x).kernel n' = s.kernel n' := rfl
@[simp] theorem State.setSeat_at_ptnOf (s : State) (p : SeatId) (x : SeatState) (n' m' : Nat) : (s.setSeat p x).ptnOf n' m' = s.ptnOf n' m' := rfl
@[simp] theorem State.setSeat_at_pkgSelf (s : State) (p : SeatId) (x : SeatState) (n' : Nat) : (s.setSeat p x).pkgSelf n' = s.pkgSelf n' := rfl
@[simp] theorem State.setSeat_at_part (s : State) (p : SeatId) (x : SeatState) (n' m' : Nat) : (s.setSeat p x).part n' m' = s.part n' m' := rfl
@[simp] theorem State.setSeat_at_partCore (s : State) (p : SeatId) (x : SeatState) (n' m' k' : Nat) : (s.setSeat p x).partCore n' m' k' = s.partCore n' m' k' := rfl
@[simp] theorem State.setSeat_at_frame (s : State) (p : SeatId) (x : SeatState) (q' : FrameRef) : (s.setSeat p x).frame q' = s.frame q' := rfl
@[simp] theorem State.setSeat_at_req (s : State) (p : SeatId) (x : SeatState) (n' : Nat) : (s.setSeat p x).req n' = s.req n' := rfl

/-! ## State.send -/

@[simp] theorem State.send_agenda (s : State) (p : Packet) : (s.send p).agenda = s.agenda := rfl
@[simp] theorem State.send_cur (s : State) (p : Packet) : (s.send p).cur = s.cur := rfl
@[simp] theorem State.send_nextId (s : State) (p : Packet) : (s.send p).nextId = s.nextId := rfl
@[simp] theorem State.send_fresh (s : State) (p : Packet) : (s.send p).fresh = s.fresh := rfl
@[simp] theorem State.send_mem (s : State) (p : Packet) : (s.send p).mem = s.mem := rfl
@[simp] theorem State.send_host (s : State) (p : Packet) : (s.send p).host = s.host := rfl
@[simp] theorem State.send_granules (s : State) (p : Packet) : (s.send p).granules = s.granules := rfl
@[simp] theorem State.send_full (s : State) (p : Packet) : (s.send p).full = s.full := rfl
@[simp] theorem State.send_llcBad (s : State) (p : Packet) : (s.send p).llcBad = s.llcBad := rfl
@[simp] theorem State.send_hostBad (s : State) (p : Packet) : (s.send p).hostBad = s.hostBad := rfl
@[simp] theorem State.send_tlb (s : State) (p : Packet) : (s.send p).tlb = s.tlb := rfl
@[simp] theorem State.send_ctxs (s : State) (p : Packet) : (s.send p).ctxs = s.ctxs := rfl
@[simp] theorem State.send_parts (s : State) (p : Packet) : (s.send p).parts = s.parts := rfl
@[simp] theorem State.send_tiles (s : State) (p : Packet) : (s.send p).tiles = s.tiles := rfl
@[simp] theorem State.send_reqs (s : State) (p : Packet) : (s.send p).reqs = s.reqs := rfl
@[simp] theorem State.send_held (s : State) (p : Packet) : (s.send p).held = s.held := rfl
@[simp] theorem State.send_jobs (s : State) (p : Packet) : (s.send p).jobs = s.jobs := rfl
@[simp] theorem State.send_deferred (s : State) (p : Packet) : (s.send p).deferred = s.deferred := rfl
@[simp] theorem State.send_foreign (s : State) (p : Packet) : (s.send p).foreign = s.foreign := rfl
@[simp] theorem State.send_services (s : State) (p : Packet) : (s.send p).services = s.services := rfl
@[simp] theorem State.send_failedPages (s : State) (p : Packet) : (s.send p).failedPages = s.failedPages := rfl
@[simp] theorem State.send_halted (s : State) (p : Packet) : (s.send p).halted = s.halted := rfl
@[simp] theorem State.send_haltCode (s : State) (p : Packet) : (s.send p).haltCode = s.haltCode := rfl
@[simp] theorem State.send_feat0a (s : State) (p : Packet) : (s.send p).feat0a = s.feat0a := rfl
@[simp] theorem State.send_feat1a (s : State) (p : Packet) : (s.send p).feat1a = s.feat1a := rfl
@[simp] theorem State.send_featDone (s : State) (p : Packet) : (s.send p).featDone = s.featDone := rfl
@[simp] theorem State.send_hmb (s : State) (p : Packet) : (s.send p).hmb = s.hmb := rfl
@[simp] theorem State.send_hmn (s : State) (p : Packet) : (s.send p).hmn = s.hmn := rfl
@[simp] theorem State.send_hmw (s : State) (p : Packet) : (s.send p).hmw = s.hmw := rfl
@[simp] theorem State.send_hmr (s : State) (p : Packet) : (s.send p).hmr = s.hmr := rfl
@[simp] theorem State.send_msgIndex (s : State) (p : Packet) : (s.send p).msgIndex = s.msgIndex := rfl
@[simp] theorem State.send_msgs (s : State) (p : Packet) : (s.send p).msgs = s.msgs := rfl
@[simp] theorem State.send_areplya (s : State) (p : Packet) : (s.send p).areplya = s.areplya := rfl
@[simp] theorem State.send_ports (s : State) (p : Packet) : (s.send p).ports = s.ports := rfl
@[simp] theorem State.send_rasSeq (s : State) (p : Packet) : (s.send p).rasSeq = s.rasSeq := rfl
@[simp] theorem State.send_rasDrop (s : State) (p : Packet) : (s.send p).rasDrop = s.rasDrop := rfl
@[simp] theorem State.send_cethr (s : State) (p : Packet) : (s.send p).cethr = s.cethr := rfl
@[simp] theorem State.send_rasCnt (s : State) (p : Packet) : (s.send p).rasCnt = s.rasCnt := rfl
@[simp] theorem State.send_rows (s : State) (p : Packet) : (s.send p).rows = s.rows := rfl
@[simp] theorem State.send_rasWait (s : State) (p : Packet) : (s.send p).rasWait = s.rasWait := rfl
@[simp] theorem State.send_podid (s : State) (p : Packet) : (s.send p).podid = s.podid := rfl
@[simp] theorem State.send_route (s : State) (p : Packet) : (s.send p).route = s.route := rfl
@[simp] theorem State.send_portm (s : State) (p : Packet) : (s.send p).portm = s.portm := rfl
@[simp] theorem State.send_ualctx (s : State) (p : Packet) : (s.send p).ualctx = s.ualctx := rfl
@[simp] theorem State.send_carve (s : State) (p : Packet) : (s.send p).carve = s.carve := rfl
@[simp] theorem State.send_out (s : State) (p : Packet) : (s.send p).out = s.out := rfl
@[simp] theorem State.send_outHeld (s : State) (p : Packet) : (s.send p).outHeld = s.outHeld := rfl
@[simp] theorem State.send_loans (s : State) (p : Packet) : (s.send p).loans = s.loans := rfl
@[simp] theorem State.send_served (s : State) (p : Packet) : (s.send p).served = s.served := rfl
@[simp] theorem State.send_told (s : State) (p : Packet) : (s.send p).told = s.told := rfl
@[simp] theorem State.send_depends (s : State) (p : Packet) : (s.send p).depends = s.depends := rfl
@[simp] theorem State.send_lentTo (s : State) (p : Packet) : (s.send p).lentTo = s.lentTo := rfl
@[simp] theorem State.send_kept (s : State) (p : Packet) : (s.send p).kept = s.kept := rfl
@[simp] theorem State.send_queues (s : State) (p : Packet) : (s.send p).queues = s.queues := rfl
@[simp] theorem State.send_taken (s : State) (p : Packet) : (s.send p).taken = s.taken := rfl
@[simp] theorem State.send_dnotc (s : State) (p : Packet) : (s.send p).dnotc = s.dnotc := rfl
@[simp] theorem State.send_rackq (s : State) (p : Packet) : (s.send p).rackq = s.rackq := rfl
@[simp] theorem State.send_spans (s : State) (p : Packet) : (s.send p).spans = s.spans := rfl
@[simp] theorem State.send_reports (s : State) (p : Packet) : (s.send p).reports = s.reports := rfl
@[simp] theorem State.send_doomed (s : State) (p : Packet) : (s.send p).doomed = s.doomed := rfl
@[simp] theorem State.send_launchq (s : State) (p : Packet) : (s.send p).launchq = s.launchq := rfl
@[simp] theorem State.send_replies (s : State) (p : Packet) : (s.send p).replies = s.replies := rfl
@[simp] theorem State.send_courierDown (s : State) (p : Packet) : (s.send p).courierDown = s.courierDown := rfl
@[simp] theorem State.send_hallmark (s : State) (p : Packet) : (s.send p).hallmark = s.hallmark := rfl
@[simp] theorem State.send_at_ctx (s : State) (p : Packet) (n' : Nat) : (s.send p).ctx n' = s.ctx n' := rfl
@[simp] theorem State.send_at_tme (s : State) (p : Packet) (n' m' : Nat) : (s.send p).tme n' m' = s.tme n' m' := rfl
@[simp] theorem State.send_at_kernel (s : State) (p : Packet) (n' : Nat) : (s.send p).kernel n' = s.kernel n' := rfl
@[simp] theorem State.send_at_ptnOf (s : State) (p : Packet) (n' m' : Nat) : (s.send p).ptnOf n' m' = s.ptnOf n' m' := rfl
@[simp] theorem State.send_at_pkgSelf (s : State) (p : Packet) (n' : Nat) : (s.send p).pkgSelf n' = s.pkgSelf n' := rfl
@[simp] theorem State.send_at_tile (s : State) (p : Packet) (n' : Nat) : (s.send p).tile n' = s.tile n' := rfl
@[simp] theorem State.send_at_coreAt (s : State) (p : Packet) (n' m' : Nat) : (s.send p).coreAt n' m' = s.coreAt n' m' := rfl
@[simp] theorem State.send_at_seat (s : State) (p : Packet) (q' : SeatId) : (s.send p).seat q' = s.seat q' := rfl
@[simp] theorem State.send_at_part (s : State) (p : Packet) (n' m' : Nat) : (s.send p).part n' m' = s.part n' m' := rfl
@[simp] theorem State.send_at_partCore (s : State) (p : Packet) (n' m' k' : Nat) : (s.send p).partCore n' m' k' = s.partCore n' m' k' := rfl
@[simp] theorem State.send_at_frame (s : State) (p : Packet) (q' : FrameRef) : (s.send p).frame q' = s.frame q' := rfl
@[simp] theorem State.send_at_req (s : State) (p : Packet) (n' : Nat) : (s.send p).req n' = s.req n' := rfl

/-! ## State.takePacket -/

@[simp] theorem State.takePacket_agenda (s : State) (n : Nat) : (s.takePacket n).agenda = s.agenda := rfl
@[simp] theorem State.takePacket_cur (s : State) (n : Nat) : (s.takePacket n).cur = s.cur := rfl
@[simp] theorem State.takePacket_nextId (s : State) (n : Nat) : (s.takePacket n).nextId = s.nextId := rfl
@[simp] theorem State.takePacket_fresh (s : State) (n : Nat) : (s.takePacket n).fresh = s.fresh := rfl
@[simp] theorem State.takePacket_mem (s : State) (n : Nat) : (s.takePacket n).mem = s.mem := rfl
@[simp] theorem State.takePacket_host (s : State) (n : Nat) : (s.takePacket n).host = s.host := rfl
@[simp] theorem State.takePacket_granules (s : State) (n : Nat) : (s.takePacket n).granules = s.granules := rfl
@[simp] theorem State.takePacket_full (s : State) (n : Nat) : (s.takePacket n).full = s.full := rfl
@[simp] theorem State.takePacket_llcBad (s : State) (n : Nat) : (s.takePacket n).llcBad = s.llcBad := rfl
@[simp] theorem State.takePacket_hostBad (s : State) (n : Nat) : (s.takePacket n).hostBad = s.hostBad := rfl
@[simp] theorem State.takePacket_tlb (s : State) (n : Nat) : (s.takePacket n).tlb = s.tlb := rfl
@[simp] theorem State.takePacket_ctxs (s : State) (n : Nat) : (s.takePacket n).ctxs = s.ctxs := rfl
@[simp] theorem State.takePacket_parts (s : State) (n : Nat) : (s.takePacket n).parts = s.parts := rfl
@[simp] theorem State.takePacket_tiles (s : State) (n : Nat) : (s.takePacket n).tiles = s.tiles := rfl
@[simp] theorem State.takePacket_reqs (s : State) (n : Nat) : (s.takePacket n).reqs = s.reqs := rfl
@[simp] theorem State.takePacket_held (s : State) (n : Nat) : (s.takePacket n).held = s.held := rfl
@[simp] theorem State.takePacket_jobs (s : State) (n : Nat) : (s.takePacket n).jobs = s.jobs := rfl
@[simp] theorem State.takePacket_deferred (s : State) (n : Nat) : (s.takePacket n).deferred = s.deferred := rfl
@[simp] theorem State.takePacket_foreign (s : State) (n : Nat) : (s.takePacket n).foreign = s.foreign := rfl
@[simp] theorem State.takePacket_services (s : State) (n : Nat) : (s.takePacket n).services = s.services := rfl
@[simp] theorem State.takePacket_failedPages (s : State) (n : Nat) : (s.takePacket n).failedPages = s.failedPages := rfl
@[simp] theorem State.takePacket_halted (s : State) (n : Nat) : (s.takePacket n).halted = s.halted := rfl
@[simp] theorem State.takePacket_haltCode (s : State) (n : Nat) : (s.takePacket n).haltCode = s.haltCode := rfl
@[simp] theorem State.takePacket_feat0a (s : State) (n : Nat) : (s.takePacket n).feat0a = s.feat0a := rfl
@[simp] theorem State.takePacket_feat1a (s : State) (n : Nat) : (s.takePacket n).feat1a = s.feat1a := rfl
@[simp] theorem State.takePacket_featDone (s : State) (n : Nat) : (s.takePacket n).featDone = s.featDone := rfl
@[simp] theorem State.takePacket_hmb (s : State) (n : Nat) : (s.takePacket n).hmb = s.hmb := rfl
@[simp] theorem State.takePacket_hmn (s : State) (n : Nat) : (s.takePacket n).hmn = s.hmn := rfl
@[simp] theorem State.takePacket_hmw (s : State) (n : Nat) : (s.takePacket n).hmw = s.hmw := rfl
@[simp] theorem State.takePacket_hmr (s : State) (n : Nat) : (s.takePacket n).hmr = s.hmr := rfl
@[simp] theorem State.takePacket_msgIndex (s : State) (n : Nat) : (s.takePacket n).msgIndex = s.msgIndex := rfl
@[simp] theorem State.takePacket_msgs (s : State) (n : Nat) : (s.takePacket n).msgs = s.msgs := rfl
@[simp] theorem State.takePacket_areplya (s : State) (n : Nat) : (s.takePacket n).areplya = s.areplya := rfl
@[simp] theorem State.takePacket_ports (s : State) (n : Nat) : (s.takePacket n).ports = s.ports := rfl
@[simp] theorem State.takePacket_rasSeq (s : State) (n : Nat) : (s.takePacket n).rasSeq = s.rasSeq := rfl
@[simp] theorem State.takePacket_rasDrop (s : State) (n : Nat) : (s.takePacket n).rasDrop = s.rasDrop := rfl
@[simp] theorem State.takePacket_cethr (s : State) (n : Nat) : (s.takePacket n).cethr = s.cethr := rfl
@[simp] theorem State.takePacket_rasCnt (s : State) (n : Nat) : (s.takePacket n).rasCnt = s.rasCnt := rfl
@[simp] theorem State.takePacket_rows (s : State) (n : Nat) : (s.takePacket n).rows = s.rows := rfl
@[simp] theorem State.takePacket_rasWait (s : State) (n : Nat) : (s.takePacket n).rasWait = s.rasWait := rfl
@[simp] theorem State.takePacket_podid (s : State) (n : Nat) : (s.takePacket n).podid = s.podid := rfl
@[simp] theorem State.takePacket_route (s : State) (n : Nat) : (s.takePacket n).route = s.route := rfl
@[simp] theorem State.takePacket_portm (s : State) (n : Nat) : (s.takePacket n).portm = s.portm := rfl
@[simp] theorem State.takePacket_ualctx (s : State) (n : Nat) : (s.takePacket n).ualctx = s.ualctx := rfl
@[simp] theorem State.takePacket_carve (s : State) (n : Nat) : (s.takePacket n).carve = s.carve := rfl
@[simp] theorem State.takePacket_out (s : State) (n : Nat) : (s.takePacket n).out = s.out := rfl
@[simp] theorem State.takePacket_outHeld (s : State) (n : Nat) : (s.takePacket n).outHeld = s.outHeld := rfl
@[simp] theorem State.takePacket_loans (s : State) (n : Nat) : (s.takePacket n).loans = s.loans := rfl
@[simp] theorem State.takePacket_served (s : State) (n : Nat) : (s.takePacket n).served = s.served := rfl
@[simp] theorem State.takePacket_told (s : State) (n : Nat) : (s.takePacket n).told = s.told := rfl
@[simp] theorem State.takePacket_depends (s : State) (n : Nat) : (s.takePacket n).depends = s.depends := rfl
@[simp] theorem State.takePacket_lentTo (s : State) (n : Nat) : (s.takePacket n).lentTo = s.lentTo := rfl
@[simp] theorem State.takePacket_kept (s : State) (n : Nat) : (s.takePacket n).kept = s.kept := rfl
@[simp] theorem State.takePacket_queues (s : State) (n : Nat) : (s.takePacket n).queues = s.queues := rfl
@[simp] theorem State.takePacket_taken (s : State) (n : Nat) : (s.takePacket n).taken = s.taken := rfl
@[simp] theorem State.takePacket_dnotc (s : State) (n : Nat) : (s.takePacket n).dnotc = s.dnotc := rfl
@[simp] theorem State.takePacket_rackq (s : State) (n : Nat) : (s.takePacket n).rackq = s.rackq := rfl
@[simp] theorem State.takePacket_spans (s : State) (n : Nat) : (s.takePacket n).spans = s.spans := rfl
@[simp] theorem State.takePacket_reports (s : State) (n : Nat) : (s.takePacket n).reports = s.reports := rfl
@[simp] theorem State.takePacket_doomed (s : State) (n : Nat) : (s.takePacket n).doomed = s.doomed := rfl
@[simp] theorem State.takePacket_launchq (s : State) (n : Nat) : (s.takePacket n).launchq = s.launchq := rfl
@[simp] theorem State.takePacket_replies (s : State) (n : Nat) : (s.takePacket n).replies = s.replies := rfl
@[simp] theorem State.takePacket_courierDown (s : State) (n : Nat) : (s.takePacket n).courierDown = s.courierDown := rfl
@[simp] theorem State.takePacket_hallmark (s : State) (n : Nat) : (s.takePacket n).hallmark = s.hallmark := rfl
@[simp] theorem State.takePacket_at_ctx (s : State) (n : Nat) (n' : Nat) : (s.takePacket n).ctx n' = s.ctx n' := rfl
@[simp] theorem State.takePacket_at_tme (s : State) (n : Nat) (n' m' : Nat) : (s.takePacket n).tme n' m' = s.tme n' m' := rfl
@[simp] theorem State.takePacket_at_kernel (s : State) (n : Nat) (n' : Nat) : (s.takePacket n).kernel n' = s.kernel n' := rfl
@[simp] theorem State.takePacket_at_ptnOf (s : State) (n : Nat) (n' m' : Nat) : (s.takePacket n).ptnOf n' m' = s.ptnOf n' m' := rfl
@[simp] theorem State.takePacket_at_pkgSelf (s : State) (n : Nat) (n' : Nat) : (s.takePacket n).pkgSelf n' = s.pkgSelf n' := rfl
@[simp] theorem State.takePacket_at_tile (s : State) (n : Nat) (n' : Nat) : (s.takePacket n).tile n' = s.tile n' := rfl
@[simp] theorem State.takePacket_at_coreAt (s : State) (n : Nat) (n' m' : Nat) : (s.takePacket n).coreAt n' m' = s.coreAt n' m' := rfl
@[simp] theorem State.takePacket_at_seat (s : State) (n : Nat) (q' : SeatId) : (s.takePacket n).seat q' = s.seat q' := rfl
@[simp] theorem State.takePacket_at_part (s : State) (n : Nat) (n' m' : Nat) : (s.takePacket n).part n' m' = s.part n' m' := rfl
@[simp] theorem State.takePacket_at_partCore (s : State) (n : Nat) (n' m' k' : Nat) : (s.takePacket n).partCore n' m' k' = s.partCore n' m' k' := rfl
@[simp] theorem State.takePacket_at_frame (s : State) (n : Nat) (q' : FrameRef) : (s.takePacket n).frame q' = s.frame q' := rfl
@[simp] theorem State.takePacket_at_req (s : State) (n : Nat) (n' : Nat) : (s.takePacket n).req n' = s.req n' := rfl

/-! ## State.setReq -/

@[simp] theorem State.setReq_agenda (s : State) (r : Req) : (s.setReq r).agenda = s.agenda := rfl
@[simp] theorem State.setReq_cur (s : State) (r : Req) : (s.setReq r).cur = s.cur := rfl
@[simp] theorem State.setReq_nextId (s : State) (r : Req) : (s.setReq r).nextId = s.nextId := rfl
@[simp] theorem State.setReq_fresh (s : State) (r : Req) : (s.setReq r).fresh = s.fresh := rfl
@[simp] theorem State.setReq_mem (s : State) (r : Req) : (s.setReq r).mem = s.mem := rfl
@[simp] theorem State.setReq_host (s : State) (r : Req) : (s.setReq r).host = s.host := rfl
@[simp] theorem State.setReq_granules (s : State) (r : Req) : (s.setReq r).granules = s.granules := rfl
@[simp] theorem State.setReq_full (s : State) (r : Req) : (s.setReq r).full = s.full := rfl
@[simp] theorem State.setReq_llcBad (s : State) (r : Req) : (s.setReq r).llcBad = s.llcBad := rfl
@[simp] theorem State.setReq_hostBad (s : State) (r : Req) : (s.setReq r).hostBad = s.hostBad := rfl
@[simp] theorem State.setReq_tlb (s : State) (r : Req) : (s.setReq r).tlb = s.tlb := rfl
@[simp] theorem State.setReq_ctxs (s : State) (r : Req) : (s.setReq r).ctxs = s.ctxs := rfl
@[simp] theorem State.setReq_parts (s : State) (r : Req) : (s.setReq r).parts = s.parts := rfl
@[simp] theorem State.setReq_tiles (s : State) (r : Req) : (s.setReq r).tiles = s.tiles := rfl
@[simp] theorem State.setReq_net (s : State) (r : Req) : (s.setReq r).net = s.net := rfl
@[simp] theorem State.setReq_held (s : State) (r : Req) : (s.setReq r).held = s.held := rfl
@[simp] theorem State.setReq_jobs (s : State) (r : Req) : (s.setReq r).jobs = s.jobs := rfl
@[simp] theorem State.setReq_deferred (s : State) (r : Req) : (s.setReq r).deferred = s.deferred := rfl
@[simp] theorem State.setReq_foreign (s : State) (r : Req) : (s.setReq r).foreign = s.foreign := rfl
@[simp] theorem State.setReq_services (s : State) (r : Req) : (s.setReq r).services = s.services := rfl
@[simp] theorem State.setReq_failedPages (s : State) (r : Req) : (s.setReq r).failedPages = s.failedPages := rfl
@[simp] theorem State.setReq_halted (s : State) (r : Req) : (s.setReq r).halted = s.halted := rfl
@[simp] theorem State.setReq_haltCode (s : State) (r : Req) : (s.setReq r).haltCode = s.haltCode := rfl
@[simp] theorem State.setReq_feat0a (s : State) (r : Req) : (s.setReq r).feat0a = s.feat0a := rfl
@[simp] theorem State.setReq_feat1a (s : State) (r : Req) : (s.setReq r).feat1a = s.feat1a := rfl
@[simp] theorem State.setReq_featDone (s : State) (r : Req) : (s.setReq r).featDone = s.featDone := rfl
@[simp] theorem State.setReq_hmb (s : State) (r : Req) : (s.setReq r).hmb = s.hmb := rfl
@[simp] theorem State.setReq_hmn (s : State) (r : Req) : (s.setReq r).hmn = s.hmn := rfl
@[simp] theorem State.setReq_hmw (s : State) (r : Req) : (s.setReq r).hmw = s.hmw := rfl
@[simp] theorem State.setReq_hmr (s : State) (r : Req) : (s.setReq r).hmr = s.hmr := rfl
@[simp] theorem State.setReq_msgIndex (s : State) (r : Req) : (s.setReq r).msgIndex = s.msgIndex := rfl
@[simp] theorem State.setReq_msgs (s : State) (r : Req) : (s.setReq r).msgs = s.msgs := rfl
@[simp] theorem State.setReq_areplya (s : State) (r : Req) : (s.setReq r).areplya = s.areplya := rfl
@[simp] theorem State.setReq_ports (s : State) (r : Req) : (s.setReq r).ports = s.ports := rfl
@[simp] theorem State.setReq_rasSeq (s : State) (r : Req) : (s.setReq r).rasSeq = s.rasSeq := rfl
@[simp] theorem State.setReq_rasDrop (s : State) (r : Req) : (s.setReq r).rasDrop = s.rasDrop := rfl
@[simp] theorem State.setReq_cethr (s : State) (r : Req) : (s.setReq r).cethr = s.cethr := rfl
@[simp] theorem State.setReq_rasCnt (s : State) (r : Req) : (s.setReq r).rasCnt = s.rasCnt := rfl
@[simp] theorem State.setReq_rows (s : State) (r : Req) : (s.setReq r).rows = s.rows := rfl
@[simp] theorem State.setReq_rasWait (s : State) (r : Req) : (s.setReq r).rasWait = s.rasWait := rfl
@[simp] theorem State.setReq_podid (s : State) (r : Req) : (s.setReq r).podid = s.podid := rfl
@[simp] theorem State.setReq_route (s : State) (r : Req) : (s.setReq r).route = s.route := rfl
@[simp] theorem State.setReq_portm (s : State) (r : Req) : (s.setReq r).portm = s.portm := rfl
@[simp] theorem State.setReq_ualctx (s : State) (r : Req) : (s.setReq r).ualctx = s.ualctx := rfl
@[simp] theorem State.setReq_carve (s : State) (r : Req) : (s.setReq r).carve = s.carve := rfl
@[simp] theorem State.setReq_out (s : State) (r : Req) : (s.setReq r).out = s.out := rfl
@[simp] theorem State.setReq_outHeld (s : State) (r : Req) : (s.setReq r).outHeld = s.outHeld := rfl
@[simp] theorem State.setReq_loans (s : State) (r : Req) : (s.setReq r).loans = s.loans := rfl
@[simp] theorem State.setReq_served (s : State) (r : Req) : (s.setReq r).served = s.served := rfl
@[simp] theorem State.setReq_told (s : State) (r : Req) : (s.setReq r).told = s.told := rfl
@[simp] theorem State.setReq_depends (s : State) (r : Req) : (s.setReq r).depends = s.depends := rfl
@[simp] theorem State.setReq_lentTo (s : State) (r : Req) : (s.setReq r).lentTo = s.lentTo := rfl
@[simp] theorem State.setReq_kept (s : State) (r : Req) : (s.setReq r).kept = s.kept := rfl
@[simp] theorem State.setReq_queues (s : State) (r : Req) : (s.setReq r).queues = s.queues := rfl
@[simp] theorem State.setReq_taken (s : State) (r : Req) : (s.setReq r).taken = s.taken := rfl
@[simp] theorem State.setReq_dnotc (s : State) (r : Req) : (s.setReq r).dnotc = s.dnotc := rfl
@[simp] theorem State.setReq_rackq (s : State) (r : Req) : (s.setReq r).rackq = s.rackq := rfl
@[simp] theorem State.setReq_spans (s : State) (r : Req) : (s.setReq r).spans = s.spans := rfl
@[simp] theorem State.setReq_reports (s : State) (r : Req) : (s.setReq r).reports = s.reports := rfl
@[simp] theorem State.setReq_doomed (s : State) (r : Req) : (s.setReq r).doomed = s.doomed := rfl
@[simp] theorem State.setReq_launchq (s : State) (r : Req) : (s.setReq r).launchq = s.launchq := rfl
@[simp] theorem State.setReq_replies (s : State) (r : Req) : (s.setReq r).replies = s.replies := rfl
@[simp] theorem State.setReq_courierDown (s : State) (r : Req) : (s.setReq r).courierDown = s.courierDown := rfl
@[simp] theorem State.setReq_hallmark (s : State) (r : Req) : (s.setReq r).hallmark = s.hallmark := rfl
@[simp] theorem State.setReq_at_ctx (s : State) (r : Req) (n' : Nat) : (s.setReq r).ctx n' = s.ctx n' := rfl
@[simp] theorem State.setReq_at_tme (s : State) (r : Req) (n' m' : Nat) : (s.setReq r).tme n' m' = s.tme n' m' := rfl
@[simp] theorem State.setReq_at_kernel (s : State) (r : Req) (n' : Nat) : (s.setReq r).kernel n' = s.kernel n' := rfl
@[simp] theorem State.setReq_at_ptnOf (s : State) (r : Req) (n' m' : Nat) : (s.setReq r).ptnOf n' m' = s.ptnOf n' m' := rfl
@[simp] theorem State.setReq_at_pkgSelf (s : State) (r : Req) (n' : Nat) : (s.setReq r).pkgSelf n' = s.pkgSelf n' := rfl
@[simp] theorem State.setReq_at_tile (s : State) (r : Req) (n' : Nat) : (s.setReq r).tile n' = s.tile n' := rfl
@[simp] theorem State.setReq_at_coreAt (s : State) (r : Req) (n' m' : Nat) : (s.setReq r).coreAt n' m' = s.coreAt n' m' := rfl
@[simp] theorem State.setReq_at_seat (s : State) (r : Req) (q' : SeatId) : (s.setReq r).seat q' = s.seat q' := rfl
@[simp] theorem State.setReq_at_part (s : State) (r : Req) (n' m' : Nat) : (s.setReq r).part n' m' = s.part n' m' := rfl
@[simp] theorem State.setReq_at_partCore (s : State) (r : Req) (n' m' k' : Nat) : (s.setReq r).partCore n' m' k' = s.partCore n' m' k' := rfl
@[simp] theorem State.setReq_at_frame (s : State) (r : Req) (q' : FrameRef) : (s.setReq r).frame q' = s.frame q' := rfl

/-! ## State.dropReq -/

@[simp] theorem State.dropReq_agenda (s : State) (n : Nat) : (s.dropReq n).agenda = s.agenda := rfl
@[simp] theorem State.dropReq_cur (s : State) (n : Nat) : (s.dropReq n).cur = s.cur := rfl
@[simp] theorem State.dropReq_nextId (s : State) (n : Nat) : (s.dropReq n).nextId = s.nextId := rfl
@[simp] theorem State.dropReq_fresh (s : State) (n : Nat) : (s.dropReq n).fresh = s.fresh := rfl
@[simp] theorem State.dropReq_mem (s : State) (n : Nat) : (s.dropReq n).mem = s.mem := rfl
@[simp] theorem State.dropReq_host (s : State) (n : Nat) : (s.dropReq n).host = s.host := rfl
@[simp] theorem State.dropReq_granules (s : State) (n : Nat) : (s.dropReq n).granules = s.granules := rfl
@[simp] theorem State.dropReq_full (s : State) (n : Nat) : (s.dropReq n).full = s.full := rfl
@[simp] theorem State.dropReq_llcBad (s : State) (n : Nat) : (s.dropReq n).llcBad = s.llcBad := rfl
@[simp] theorem State.dropReq_hostBad (s : State) (n : Nat) : (s.dropReq n).hostBad = s.hostBad := rfl
@[simp] theorem State.dropReq_tlb (s : State) (n : Nat) : (s.dropReq n).tlb = s.tlb := rfl
@[simp] theorem State.dropReq_ctxs (s : State) (n : Nat) : (s.dropReq n).ctxs = s.ctxs := rfl
@[simp] theorem State.dropReq_parts (s : State) (n : Nat) : (s.dropReq n).parts = s.parts := rfl
@[simp] theorem State.dropReq_tiles (s : State) (n : Nat) : (s.dropReq n).tiles = s.tiles := rfl
@[simp] theorem State.dropReq_net (s : State) (n : Nat) : (s.dropReq n).net = s.net := rfl
@[simp] theorem State.dropReq_held (s : State) (n : Nat) : (s.dropReq n).held = s.held := rfl
@[simp] theorem State.dropReq_jobs (s : State) (n : Nat) : (s.dropReq n).jobs = s.jobs := rfl
@[simp] theorem State.dropReq_deferred (s : State) (n : Nat) : (s.dropReq n).deferred = s.deferred := rfl
@[simp] theorem State.dropReq_foreign (s : State) (n : Nat) : (s.dropReq n).foreign = s.foreign := rfl
@[simp] theorem State.dropReq_services (s : State) (n : Nat) : (s.dropReq n).services = s.services := rfl
@[simp] theorem State.dropReq_failedPages (s : State) (n : Nat) : (s.dropReq n).failedPages = s.failedPages := rfl
@[simp] theorem State.dropReq_halted (s : State) (n : Nat) : (s.dropReq n).halted = s.halted := rfl
@[simp] theorem State.dropReq_haltCode (s : State) (n : Nat) : (s.dropReq n).haltCode = s.haltCode := rfl
@[simp] theorem State.dropReq_feat0a (s : State) (n : Nat) : (s.dropReq n).feat0a = s.feat0a := rfl
@[simp] theorem State.dropReq_feat1a (s : State) (n : Nat) : (s.dropReq n).feat1a = s.feat1a := rfl
@[simp] theorem State.dropReq_featDone (s : State) (n : Nat) : (s.dropReq n).featDone = s.featDone := rfl
@[simp] theorem State.dropReq_hmb (s : State) (n : Nat) : (s.dropReq n).hmb = s.hmb := rfl
@[simp] theorem State.dropReq_hmn (s : State) (n : Nat) : (s.dropReq n).hmn = s.hmn := rfl
@[simp] theorem State.dropReq_hmw (s : State) (n : Nat) : (s.dropReq n).hmw = s.hmw := rfl
@[simp] theorem State.dropReq_hmr (s : State) (n : Nat) : (s.dropReq n).hmr = s.hmr := rfl
@[simp] theorem State.dropReq_msgIndex (s : State) (n : Nat) : (s.dropReq n).msgIndex = s.msgIndex := rfl
@[simp] theorem State.dropReq_msgs (s : State) (n : Nat) : (s.dropReq n).msgs = s.msgs := rfl
@[simp] theorem State.dropReq_areplya (s : State) (n : Nat) : (s.dropReq n).areplya = s.areplya := rfl
@[simp] theorem State.dropReq_ports (s : State) (n : Nat) : (s.dropReq n).ports = s.ports := rfl
@[simp] theorem State.dropReq_rasSeq (s : State) (n : Nat) : (s.dropReq n).rasSeq = s.rasSeq := rfl
@[simp] theorem State.dropReq_rasDrop (s : State) (n : Nat) : (s.dropReq n).rasDrop = s.rasDrop := rfl
@[simp] theorem State.dropReq_cethr (s : State) (n : Nat) : (s.dropReq n).cethr = s.cethr := rfl
@[simp] theorem State.dropReq_rasCnt (s : State) (n : Nat) : (s.dropReq n).rasCnt = s.rasCnt := rfl
@[simp] theorem State.dropReq_rows (s : State) (n : Nat) : (s.dropReq n).rows = s.rows := rfl
@[simp] theorem State.dropReq_rasWait (s : State) (n : Nat) : (s.dropReq n).rasWait = s.rasWait := rfl
@[simp] theorem State.dropReq_podid (s : State) (n : Nat) : (s.dropReq n).podid = s.podid := rfl
@[simp] theorem State.dropReq_route (s : State) (n : Nat) : (s.dropReq n).route = s.route := rfl
@[simp] theorem State.dropReq_portm (s : State) (n : Nat) : (s.dropReq n).portm = s.portm := rfl
@[simp] theorem State.dropReq_ualctx (s : State) (n : Nat) : (s.dropReq n).ualctx = s.ualctx := rfl
@[simp] theorem State.dropReq_carve (s : State) (n : Nat) : (s.dropReq n).carve = s.carve := rfl
@[simp] theorem State.dropReq_out (s : State) (n : Nat) : (s.dropReq n).out = s.out := rfl
@[simp] theorem State.dropReq_outHeld (s : State) (n : Nat) : (s.dropReq n).outHeld = s.outHeld := rfl
@[simp] theorem State.dropReq_loans (s : State) (n : Nat) : (s.dropReq n).loans = s.loans := rfl
@[simp] theorem State.dropReq_served (s : State) (n : Nat) : (s.dropReq n).served = s.served := rfl
@[simp] theorem State.dropReq_told (s : State) (n : Nat) : (s.dropReq n).told = s.told := rfl
@[simp] theorem State.dropReq_depends (s : State) (n : Nat) : (s.dropReq n).depends = s.depends := rfl
@[simp] theorem State.dropReq_lentTo (s : State) (n : Nat) : (s.dropReq n).lentTo = s.lentTo := rfl
@[simp] theorem State.dropReq_kept (s : State) (n : Nat) : (s.dropReq n).kept = s.kept := rfl
@[simp] theorem State.dropReq_queues (s : State) (n : Nat) : (s.dropReq n).queues = s.queues := rfl
@[simp] theorem State.dropReq_taken (s : State) (n : Nat) : (s.dropReq n).taken = s.taken := rfl
@[simp] theorem State.dropReq_dnotc (s : State) (n : Nat) : (s.dropReq n).dnotc = s.dnotc := rfl
@[simp] theorem State.dropReq_rackq (s : State) (n : Nat) : (s.dropReq n).rackq = s.rackq := rfl
@[simp] theorem State.dropReq_spans (s : State) (n : Nat) : (s.dropReq n).spans = s.spans := rfl
@[simp] theorem State.dropReq_reports (s : State) (n : Nat) : (s.dropReq n).reports = s.reports := rfl
@[simp] theorem State.dropReq_doomed (s : State) (n : Nat) : (s.dropReq n).doomed = s.doomed := rfl
@[simp] theorem State.dropReq_launchq (s : State) (n : Nat) : (s.dropReq n).launchq = s.launchq := rfl
@[simp] theorem State.dropReq_replies (s : State) (n : Nat) : (s.dropReq n).replies = s.replies := rfl
@[simp] theorem State.dropReq_courierDown (s : State) (n : Nat) : (s.dropReq n).courierDown = s.courierDown := rfl
@[simp] theorem State.dropReq_hallmark (s : State) (n : Nat) : (s.dropReq n).hallmark = s.hallmark := rfl
@[simp] theorem State.dropReq_at_ctx (s : State) (n : Nat) (n' : Nat) : (s.dropReq n).ctx n' = s.ctx n' := rfl
@[simp] theorem State.dropReq_at_tme (s : State) (n : Nat) (n' m' : Nat) : (s.dropReq n).tme n' m' = s.tme n' m' := rfl
@[simp] theorem State.dropReq_at_kernel (s : State) (n : Nat) (n' : Nat) : (s.dropReq n).kernel n' = s.kernel n' := rfl
@[simp] theorem State.dropReq_at_ptnOf (s : State) (n : Nat) (n' m' : Nat) : (s.dropReq n).ptnOf n' m' = s.ptnOf n' m' := rfl
@[simp] theorem State.dropReq_at_pkgSelf (s : State) (n : Nat) (n' : Nat) : (s.dropReq n).pkgSelf n' = s.pkgSelf n' := rfl
@[simp] theorem State.dropReq_at_tile (s : State) (n : Nat) (n' : Nat) : (s.dropReq n).tile n' = s.tile n' := rfl
@[simp] theorem State.dropReq_at_coreAt (s : State) (n : Nat) (n' m' : Nat) : (s.dropReq n).coreAt n' m' = s.coreAt n' m' := rfl
@[simp] theorem State.dropReq_at_seat (s : State) (n : Nat) (q' : SeatId) : (s.dropReq n).seat q' = s.seat q' := rfl
@[simp] theorem State.dropReq_at_part (s : State) (n : Nat) (n' m' : Nat) : (s.dropReq n).part n' m' = s.part n' m' := rfl
@[simp] theorem State.dropReq_at_partCore (s : State) (n : Nat) (n' m' k' : Nat) : (s.dropReq n).partCore n' m' k' = s.partCore n' m' k' := rfl
@[simp] theorem State.dropReq_at_frame (s : State) (n : Nat) (q' : FrameRef) : (s.dropReq n).frame q' = s.frame q' := rfl

/-! ## State.modFrame -/

@[simp] theorem State.modFrame_agenda (s : State) (r : FrameRef) (g : Frame → Frame) : (s.modFrame r g).agenda = s.agenda := by
  unfold State.modFrame; split <;> rfl
@[simp] theorem State.modFrame_cur (s : State) (r : FrameRef) (g : Frame → Frame) : (s.modFrame r g).cur = s.cur := by
  unfold State.modFrame; split <;> rfl
@[simp] theorem State.modFrame_nextId (s : State) (r : FrameRef) (g : Frame → Frame) : (s.modFrame r g).nextId = s.nextId := by
  unfold State.modFrame; split <;> rfl
@[simp] theorem State.modFrame_fresh (s : State) (r : FrameRef) (g : Frame → Frame) : (s.modFrame r g).fresh = s.fresh := by
  unfold State.modFrame; split <;> rfl
@[simp] theorem State.modFrame_mem (s : State) (r : FrameRef) (g : Frame → Frame) : (s.modFrame r g).mem = s.mem := by
  unfold State.modFrame; split <;> rfl
@[simp] theorem State.modFrame_host (s : State) (r : FrameRef) (g : Frame → Frame) : (s.modFrame r g).host = s.host := by
  unfold State.modFrame; split <;> rfl
@[simp] theorem State.modFrame_granules (s : State) (r : FrameRef) (g : Frame → Frame) : (s.modFrame r g).granules = s.granules := by
  unfold State.modFrame; split <;> rfl
@[simp] theorem State.modFrame_full (s : State) (r : FrameRef) (g : Frame → Frame) : (s.modFrame r g).full = s.full := by
  unfold State.modFrame; split <;> rfl
@[simp] theorem State.modFrame_llcBad (s : State) (r : FrameRef) (g : Frame → Frame) : (s.modFrame r g).llcBad = s.llcBad := by
  unfold State.modFrame; split <;> rfl
@[simp] theorem State.modFrame_hostBad (s : State) (r : FrameRef) (g : Frame → Frame) : (s.modFrame r g).hostBad = s.hostBad := by
  unfold State.modFrame; split <;> rfl
@[simp] theorem State.modFrame_tlb (s : State) (r : FrameRef) (g : Frame → Frame) : (s.modFrame r g).tlb = s.tlb := by
  unfold State.modFrame; split <;> rfl
@[simp] theorem State.modFrame_ctxs (s : State) (r : FrameRef) (g : Frame → Frame) : (s.modFrame r g).ctxs = s.ctxs := by
  unfold State.modFrame; split <;> rfl
@[simp] theorem State.modFrame_tiles (s : State) (r : FrameRef) (g : Frame → Frame) : (s.modFrame r g).tiles = s.tiles := by
  unfold State.modFrame; split <;> rfl
@[simp] theorem State.modFrame_net (s : State) (r : FrameRef) (g : Frame → Frame) : (s.modFrame r g).net = s.net := by
  unfold State.modFrame; split <;> rfl
@[simp] theorem State.modFrame_reqs (s : State) (r : FrameRef) (g : Frame → Frame) : (s.modFrame r g).reqs = s.reqs := by
  unfold State.modFrame; split <;> rfl
@[simp] theorem State.modFrame_held (s : State) (r : FrameRef) (g : Frame → Frame) : (s.modFrame r g).held = s.held := by
  unfold State.modFrame; split <;> rfl
@[simp] theorem State.modFrame_jobs (s : State) (r : FrameRef) (g : Frame → Frame) : (s.modFrame r g).jobs = s.jobs := by
  unfold State.modFrame; split <;> rfl
@[simp] theorem State.modFrame_deferred (s : State) (r : FrameRef) (g : Frame → Frame) : (s.modFrame r g).deferred = s.deferred := by
  unfold State.modFrame; split <;> rfl
@[simp] theorem State.modFrame_foreign (s : State) (r : FrameRef) (g : Frame → Frame) : (s.modFrame r g).foreign = s.foreign := by
  unfold State.modFrame; split <;> rfl
@[simp] theorem State.modFrame_services (s : State) (r : FrameRef) (g : Frame → Frame) : (s.modFrame r g).services = s.services := by
  unfold State.modFrame; split <;> rfl
@[simp] theorem State.modFrame_failedPages (s : State) (r : FrameRef) (g : Frame → Frame) : (s.modFrame r g).failedPages = s.failedPages := by
  unfold State.modFrame; split <;> rfl
@[simp] theorem State.modFrame_halted (s : State) (r : FrameRef) (g : Frame → Frame) : (s.modFrame r g).halted = s.halted := by
  unfold State.modFrame; split <;> rfl
@[simp] theorem State.modFrame_haltCode (s : State) (r : FrameRef) (g : Frame → Frame) : (s.modFrame r g).haltCode = s.haltCode := by
  unfold State.modFrame; split <;> rfl
@[simp] theorem State.modFrame_feat0a (s : State) (r : FrameRef) (g : Frame → Frame) : (s.modFrame r g).feat0a = s.feat0a := by
  unfold State.modFrame; split <;> rfl
@[simp] theorem State.modFrame_feat1a (s : State) (r : FrameRef) (g : Frame → Frame) : (s.modFrame r g).feat1a = s.feat1a := by
  unfold State.modFrame; split <;> rfl
@[simp] theorem State.modFrame_featDone (s : State) (r : FrameRef) (g : Frame → Frame) : (s.modFrame r g).featDone = s.featDone := by
  unfold State.modFrame; split <;> rfl
@[simp] theorem State.modFrame_hmb (s : State) (r : FrameRef) (g : Frame → Frame) : (s.modFrame r g).hmb = s.hmb := by
  unfold State.modFrame; split <;> rfl
@[simp] theorem State.modFrame_hmn (s : State) (r : FrameRef) (g : Frame → Frame) : (s.modFrame r g).hmn = s.hmn := by
  unfold State.modFrame; split <;> rfl
@[simp] theorem State.modFrame_hmw (s : State) (r : FrameRef) (g : Frame → Frame) : (s.modFrame r g).hmw = s.hmw := by
  unfold State.modFrame; split <;> rfl
@[simp] theorem State.modFrame_hmr (s : State) (r : FrameRef) (g : Frame → Frame) : (s.modFrame r g).hmr = s.hmr := by
  unfold State.modFrame; split <;> rfl
@[simp] theorem State.modFrame_msgIndex (s : State) (r : FrameRef) (g : Frame → Frame) : (s.modFrame r g).msgIndex = s.msgIndex := by
  unfold State.modFrame; split <;> rfl
@[simp] theorem State.modFrame_msgs (s : State) (r : FrameRef) (g : Frame → Frame) : (s.modFrame r g).msgs = s.msgs := by
  unfold State.modFrame; split <;> rfl
@[simp] theorem State.modFrame_areplya (s : State) (r : FrameRef) (g : Frame → Frame) : (s.modFrame r g).areplya = s.areplya := by
  unfold State.modFrame; split <;> rfl
@[simp] theorem State.modFrame_ports (s : State) (r : FrameRef) (g : Frame → Frame) : (s.modFrame r g).ports = s.ports := by
  unfold State.modFrame; split <;> rfl
@[simp] theorem State.modFrame_rasSeq (s : State) (r : FrameRef) (g : Frame → Frame) : (s.modFrame r g).rasSeq = s.rasSeq := by
  unfold State.modFrame; split <;> rfl
@[simp] theorem State.modFrame_rasDrop (s : State) (r : FrameRef) (g : Frame → Frame) : (s.modFrame r g).rasDrop = s.rasDrop := by
  unfold State.modFrame; split <;> rfl
@[simp] theorem State.modFrame_cethr (s : State) (r : FrameRef) (g : Frame → Frame) : (s.modFrame r g).cethr = s.cethr := by
  unfold State.modFrame; split <;> rfl
@[simp] theorem State.modFrame_rasCnt (s : State) (r : FrameRef) (g : Frame → Frame) : (s.modFrame r g).rasCnt = s.rasCnt := by
  unfold State.modFrame; split <;> rfl
@[simp] theorem State.modFrame_rows (s : State) (r : FrameRef) (g : Frame → Frame) : (s.modFrame r g).rows = s.rows := by
  unfold State.modFrame; split <;> rfl
@[simp] theorem State.modFrame_rasWait (s : State) (r : FrameRef) (g : Frame → Frame) : (s.modFrame r g).rasWait = s.rasWait := by
  unfold State.modFrame; split <;> rfl
@[simp] theorem State.modFrame_podid (s : State) (r : FrameRef) (g : Frame → Frame) : (s.modFrame r g).podid = s.podid := by
  unfold State.modFrame; split <;> rfl
@[simp] theorem State.modFrame_route (s : State) (r : FrameRef) (g : Frame → Frame) : (s.modFrame r g).route = s.route := by
  unfold State.modFrame; split <;> rfl
@[simp] theorem State.modFrame_portm (s : State) (r : FrameRef) (g : Frame → Frame) : (s.modFrame r g).portm = s.portm := by
  unfold State.modFrame; split <;> rfl
@[simp] theorem State.modFrame_ualctx (s : State) (r : FrameRef) (g : Frame → Frame) : (s.modFrame r g).ualctx = s.ualctx := by
  unfold State.modFrame; split <;> rfl
@[simp] theorem State.modFrame_carve (s : State) (r : FrameRef) (g : Frame → Frame) : (s.modFrame r g).carve = s.carve := by
  unfold State.modFrame; split <;> rfl
@[simp] theorem State.modFrame_out (s : State) (r : FrameRef) (g : Frame → Frame) : (s.modFrame r g).out = s.out := by
  unfold State.modFrame; split <;> rfl
@[simp] theorem State.modFrame_outHeld (s : State) (r : FrameRef) (g : Frame → Frame) : (s.modFrame r g).outHeld = s.outHeld := by
  unfold State.modFrame; split <;> rfl
@[simp] theorem State.modFrame_loans (s : State) (r : FrameRef) (g : Frame → Frame) : (s.modFrame r g).loans = s.loans := by
  unfold State.modFrame; split <;> rfl
@[simp] theorem State.modFrame_served (s : State) (r : FrameRef) (g : Frame → Frame) : (s.modFrame r g).served = s.served := by
  unfold State.modFrame; split <;> rfl
@[simp] theorem State.modFrame_told (s : State) (r : FrameRef) (g : Frame → Frame) : (s.modFrame r g).told = s.told := by
  unfold State.modFrame; split <;> rfl
@[simp] theorem State.modFrame_depends (s : State) (r : FrameRef) (g : Frame → Frame) : (s.modFrame r g).depends = s.depends := by
  unfold State.modFrame; split <;> rfl
@[simp] theorem State.modFrame_lentTo (s : State) (r : FrameRef) (g : Frame → Frame) : (s.modFrame r g).lentTo = s.lentTo := by
  unfold State.modFrame; split <;> rfl
@[simp] theorem State.modFrame_kept (s : State) (r : FrameRef) (g : Frame → Frame) : (s.modFrame r g).kept = s.kept := by
  unfold State.modFrame; split <;> rfl
@[simp] theorem State.modFrame_queues (s : State) (r : FrameRef) (g : Frame → Frame) : (s.modFrame r g).queues = s.queues := by
  unfold State.modFrame; split <;> rfl
@[simp] theorem State.modFrame_taken (s : State) (r : FrameRef) (g : Frame → Frame) : (s.modFrame r g).taken = s.taken := by
  unfold State.modFrame; split <;> rfl
@[simp] theorem State.modFrame_dnotc (s : State) (r : FrameRef) (g : Frame → Frame) : (s.modFrame r g).dnotc = s.dnotc := by
  unfold State.modFrame; split <;> rfl
@[simp] theorem State.modFrame_rackq (s : State) (r : FrameRef) (g : Frame → Frame) : (s.modFrame r g).rackq = s.rackq := by
  unfold State.modFrame; split <;> rfl
@[simp] theorem State.modFrame_spans (s : State) (r : FrameRef) (g : Frame → Frame) : (s.modFrame r g).spans = s.spans := by
  unfold State.modFrame; split <;> rfl
@[simp] theorem State.modFrame_reports (s : State) (r : FrameRef) (g : Frame → Frame) : (s.modFrame r g).reports = s.reports := by
  unfold State.modFrame; split <;> rfl
@[simp] theorem State.modFrame_doomed (s : State) (r : FrameRef) (g : Frame → Frame) : (s.modFrame r g).doomed = s.doomed := by
  unfold State.modFrame; split <;> rfl
@[simp] theorem State.modFrame_launchq (s : State) (r : FrameRef) (g : Frame → Frame) : (s.modFrame r g).launchq = s.launchq := by
  unfold State.modFrame; split <;> rfl
@[simp] theorem State.modFrame_replies (s : State) (r : FrameRef) (g : Frame → Frame) : (s.modFrame r g).replies = s.replies := by
  unfold State.modFrame; split <;> rfl
@[simp] theorem State.modFrame_courierDown (s : State) (r : FrameRef) (g : Frame → Frame) : (s.modFrame r g).courierDown = s.courierDown := by
  unfold State.modFrame; split <;> rfl
@[simp] theorem State.modFrame_hallmark (s : State) (r : FrameRef) (g : Frame → Frame) : (s.modFrame r g).hallmark = s.hallmark := by
  unfold State.modFrame; split <;> rfl
@[simp] theorem State.modFrame_at_ctx (s : State) (r : FrameRef) (g : Frame → Frame) (n' : Nat) : (s.modFrame r g).ctx n' = s.ctx n' := by
  unfold State.modFrame; split <;> rfl
@[simp] theorem State.modFrame_at_tme (s : State) (r : FrameRef) (g : Frame → Frame) (n' m' : Nat) : (s.modFrame r g).tme n' m' = s.tme n' m' := by
  unfold State.modFrame; split <;> rfl
@[simp] theorem State.modFrame_at_kernel (s : State) (r : FrameRef) (g : Frame → Frame) (n' : Nat) : (s.modFrame r g).kernel n' = s.kernel n' := by
  unfold State.modFrame; split <;> rfl
@[simp] theorem State.modFrame_at_ptnOf (s : State) (r : FrameRef) (g : Frame → Frame) (n' m' : Nat) : (s.modFrame r g).ptnOf n' m' = s.ptnOf n' m' := by
  unfold State.modFrame; split <;> rfl
@[simp] theorem State.modFrame_at_pkgSelf (s : State) (r : FrameRef) (g : Frame → Frame) (n' : Nat) : (s.modFrame r g).pkgSelf n' = s.pkgSelf n' := by
  unfold State.modFrame; split <;> rfl
@[simp] theorem State.modFrame_at_tile (s : State) (r : FrameRef) (g : Frame → Frame) (n' : Nat) : (s.modFrame r g).tile n' = s.tile n' := by
  unfold State.modFrame; split <;> rfl
@[simp] theorem State.modFrame_at_coreAt (s : State) (r : FrameRef) (g : Frame → Frame) (n' m' : Nat) : (s.modFrame r g).coreAt n' m' = s.coreAt n' m' := by
  unfold State.modFrame; split <;> rfl
@[simp] theorem State.modFrame_at_seat (s : State) (r : FrameRef) (g : Frame → Frame) (q' : SeatId) : (s.modFrame r g).seat q' = s.seat q' := by
  unfold State.modFrame; split <;> rfl
@[simp] theorem State.modFrame_at_req (s : State) (r : FrameRef) (g : Frame → Frame) (n' : Nat) : (s.modFrame r g).req n' = s.req n' := by
  unfold State.modFrame; split <;> rfl

/-! ## What is written reads back -/

@[simp] theorem State.part_setPart_same (s : State) (c l : Nat) (p : Part) : (s.setPart c l p).part c l = p :=
  Tab.get_put_same _ _ _ _

theorem State.part_setPart_other (s : State) {c l c' l' : Nat} (p : Part) (h : partKey c' l' ≠ partKey c l) :
    (s.setPart c l p).part c' l' = s.part c' l' := Tab.get_put_other _ _ _ h

@[simp] theorem Part.core_setCore_same (p : Part) (k : Nat) (x : PartCore) : (p.setCore k x).core k = x := Tab.get_put_same _ _ _ _

theorem Part.core_setCore_other (p : Part) {k k' : Nat} (x : PartCore) (h : k' ≠ k) : (p.setCore k x).core k' = p.core k' :=
  Tab.get_put_other _ _ _ h

@[simp] theorem State.partCore_setPartCore_same (s : State) (c l k : Nat) (x : PartCore) :
    (s.setPartCore c l k x).partCore c l k = x := by
  simp [State.setPartCore, State.partCore]

@[simp] theorem State.frame_setFrame_same (s : State) (r : FrameRef) (f : Frame) : (s.setFrame r f).frame r = some f := by
  simp [State.setFrame, State.frame]

@[simp] theorem State.frame_dropFrame_same (s : State) (r : FrameRef) : (s.dropFrame r).frame r = none := by
  simp [State.dropFrame, State.frame, Tab.find_drop_same]

@[simp] theorem State.ctx_setCtx_same (s : State) (c : Nat) (x : Ctx) : (s.setCtx c x).ctx c = x := Tab.get_put_same _ _ _ _

theorem State.ctx_setCtx_other (s : State) {c c' : Nat} (x : Ctx) (h : c' ≠ c) : (s.setCtx c x).ctx c' = s.ctx c' :=
  Tab.get_put_other _ _ _ h

@[simp] theorem State.tile_setTile_same (s : State) (n : Nat) (t : Tile) : (s.setTile n t).tile n = t := Tab.get_put_same _ _ _ _

theorem State.tile_setTile_other (s : State) {n n' : Nat} (t : Tile) (h : n' ≠ n) : (s.setTile n t).tile n' = s.tile n' :=
  Tab.get_put_other _ _ _ h

@[simp] theorem State.coreAt_setCore_same (s : State) (n k : Nat) (c : Core) : (s.setCore n k c).coreAt n k = c := by
  simp [State.setCore, State.coreAt, Tile.core]

theorem State.coreAt_setCore_other (s : State) {n k n' k' : Nat} (c : Core) (h : n' ≠ n ∨ k' ≠ k) :
    (s.setCore n k c).coreAt n' k' = s.coreAt n' k' := by
  by_cases hn : n' = n
  · subst hn
    simp [State.setCore, State.coreAt, Tile.core, Tab.get_put_other _ _ _ (h.resolve_left fun c => c rfl)]
  · simp [State.setCore, State.coreAt, State.tile_setTile_other s _ hn]

@[simp] theorem State.seat_setSeat_same (s : State) (p : SeatId) (x : SeatState) : (s.setSeat p x).seat p = x := by
  simp [State.setSeat, State.seat]

theorem State.seat_setSeat_other (s : State) {p q : SeatId} (x : SeatState) (h : q ≠ p) : (s.setSeat p x).seat q = s.seat q := by
  by_cases hc : q.ptn = p.ptn ∧ q.core = p.core
  · obtain ⟨h1, h2⟩ := hc
    have h3 : q.seat ≠ p.seat := fun e => h (by cases p; cases q; simp_all)
    simp [State.setSeat, State.seat, h1, h2, Tab.get_put_other _ _ _ h3]
  · have : q.ptn ≠ p.ptn ∨ q.core ≠ p.core := by
      by_cases h1 : q.ptn = p.ptn
      · exact .inr fun h2 => hc ⟨h1, h2⟩
      · exact .inl h1
    simp [State.setSeat, State.seat, State.coreAt_setCore_other s _ this]

end Sys2Proof.Machine
end

