-- ==== Sys2Proof/Tests/Slice0.lean ====
section
/-! SUPPORT. Small tests of the model on fixed values from the spec's own examples and tables, a smoke test of WellFormed, and for every statement a
state and operands that meet its hypotheses. -/

open Sys2Proof Sys2Proof.Machine

namespace Sys2Proof.Tests

set_option Elab.async false

/-! ## Small worlds -/

/-- A threadlet with a few registers: w1 = 5, w2 = -3 (mod 2^64), w3 = 0, w4 = 0x40, w5 = 2, a mask k1 = 0b11, k2 = 0, vectors v1 and v2. -/
def thread : Threadlet :=
  { placedThread with
    w := [(1, 5), (2, 0xFFFFFFFFFFFFFFFD), (4, 0x40), (5, 2)]
    v := [(1, 0x0807060504030201), (2, 0x3F800000)]
    k := [(1, 3)]
    lr := 0x2000 }

/-- One seat that runs a threadlet in a frame of a part of a context. -/
def world (c : Ctx) (p : Part) (f : Frame) (t : Threadlet) : State :=
  { State.reset with
    ctxs := [(0, c)]
    parts := [(0, { p with cores := [(0, { PartCore.empty with frames := [(0, f)] })] })]
    tiles := [(0, { Tile.reset with cores := [(0, { Core.reset with seats := [(0, .run t)] })] })] }

/-- The usual one, and one whose context is not privileged and enables every exception. -/
def base : State := world placedCtx Part.empty placedFrame thread
def strict : Ctx := { placedCtx with priv := false, fen := 31, ien := true }
def user : State := world strict Part.empty placedFrame thread

/-- The five conditions of Executes, as a test. -/
def runs (s : State) (t : Threadlet) (i : Instr) : Bool :=
  decide (s.seat s.cur = .run t) && !s.notReady ⟨s.cur, t⟩ i && passesChecks s t i && guardHolds t i && sourcesGood s t i

theorem runs_executes {s : State} {t : Threadlet} {i : Instr} (h : runs s t i = true) : Executes s t i := by
  simp only [runs, Bool.and_eq_true, decide_eq_true_eq, Bool.not_eq_true'] at h
  exact ⟨h.1.1.1.1, h.1.1.1.2, h.1.1.2, h.1.2, h.2⟩

/-- The flags raise nothing that the context enables. -/
def calm (s : State) (t : Threadlet) (f : Fl) : Bool := decide (s.enabledFlags t.ctx f = 0)

abbrev g0 : Guard := ⟨false, 0⟩


/-! ## Well-formedness (R25, R31, R67, R73) -/

/-- One ill-formed instruction for each check that WellFormed makes: a type outside the opcode's set, an all-reduce by an operation that takes no
floating type, a size code, a memory order, an atomic code, the guard 0b1000, a vector in a scalar place, a read-only destination, an odd register
of a pair, a frame word in a scalar place of a vector instruction, and a form that must have a target without one. -/
theorem smoke_wf :
    ([.add g0 false .f32 (.w 1) (.w 2) (.w 3), .ared g0 .and .f32 (.f 0) (.w 1) (.slot 0), .lds g0 true 4 (.w 1) (.w 2) 0,
      .gld g0 false 3 (.f 0) (.w 1) 0 (.slot 0) .tile .release, .gred g0 .cas 3 (.w 1) (.w 2) 0 .nothing .tile .relaxed,
      .add ⟨true, 0⟩ false .s64 (.w 1) (.w 2) (.w 3), .add g0 false .s64 (.v 1) (.w 2) (.w 3), .add g0 false .s64 .fp (.w 2) (.w 3),
      .satom g0 .cas 3 (.w 1) (.w 2) 0, .vbcast g0 .s64 (.v 1) (.f 0), .fnew g0 false (.f 0) .nothing] : List Instr).all (fun i => !i.wf) = true ∧
    ([.add g0 false .s32 (.w 1) (.w 2) (.w 3), .ared g0 .and .s32 (.f 0) (.w 1) (.slot 0), .lds g0 true 2 (.w 1) (.w 2) 0,
      .gld g0 false 3 (.f 0) (.w 1) 0 (.slot 0) .tile .acquire, .gred g0 .add 3 (.w 1) (.w 2) 0 .nothing .tile .relaxed,
      .add ⟨true, 1⟩ false .s64 (.w 1) (.w 2) (.w 3), .add g0 false .s64 .zr .fp (.w 3), .satom g0 .cas 3 (.w 2) (.w 2) 0,
      .vbcast g0 .s64 (.v 1) (.w 0), .fnew g0 false (.f 0) (.slot 0)] : List Instr).all (·.wf) = true := by decide +kernel

/-! ## Decoding: words of the spec's own examples, one or more for each family (R64 to R71) -/

/-- What the decoder says to a word, with the one after it. -/
abbrev is (w w1 : Word) (i : Instr) : Prop := decode w w1 = .ok i

theorem test_decode_branch : is 0x02000000FFFFFFFD 0 (.br g0 (-3)) ∧ is 0x02020000FFFFFFFD 0 (.br ⟨false, 2⟩ (-3)) ∧
    is 0x07000100FFFFFFFF 0 (.loop g0 (.w 1) (-1)) := by decide +kernel
theorem test_decode_scalar : is 0x1000020201000000 0 (.add g0 false .s64 (.w 2) (.w 2) (.w 1)) ∧
    is 0x2B20630102000800 0 (.cmp g0 .lt .s32 (.k 3) (.w 1) (.w 2)) ∧ is 0x2900016902030000 0 (.bfi g0 (.w 1) .fp (.w 2) (.w 3)) := by decide +kernel
theorem test_decode_immediate : is 0x390001000000000A 0 (.li g0 (.w 1) 10) ∧
    is 0x3B00090089ABCDEF 0x01234567 (.li64 g0 (.w 9) 0x0123456789ABCDEF) := by decide +kernel
theorem test_decode_vector : is 0x7400414243001800 0 (.vdot g0 .s8 .rne (.v 1) (.v 2) (.v 3)) ∧
    is 0x5010414243000800 0 (.vadd g0 true .s32 (.v 1) (.v 2) (.v 3)) ∧ is 0x6000444546475C00 0 (.vfadd g0 .f32 (.sr (.v 7)) (.v 4) (.v 5) (.v 6)) ∧
    is 0x7900410203040000 0 (.vrng g0 (.v 1) (.w 2) (.w 3) (.w 4)) := by decide +kernel
theorem test_decode_local : is 0x8600436800020006 0 (.ldf g0 (.v 3) .zr 2) := by decide +kernel
theorem test_decode_threads : is 0xA010840000000200 0 (.fnew g0 true (.f 4) (.slot 2)) ∧ is 0xA500000582000008 0 (.sigd g0 .ok true (.w 5) (.f 2)) ∧
    is 0xA700009002000100 0 (.spawn g0 (.f 16) (.w 2) (.slot 1)) ∧ is 0xAA00000000000300 0 (.bar g0 (.slot 3)) ∧
    is 0xA900000000000000 0 (.kend g0) ∧ is 0xAD00070000000000 0 (.flags g0 (.w 7)) := by decide +kernel
theorem test_decode_memory : is 0x9010870400080149 0 (.gld g0 true 1 (.f 7) (.w 4) 8 (.slot 1) .tile .acquire) ∧
    is 0x942083080000_8CBB 0 (.gatom g0 .add 3 (.f 3) (.w 8) 0 (.reg 12) .pod .acqRel) ∧
    is 0x9900860200_00028B 0 (.mwatch g0 3 (.f 6) (.w 2) 0 (.slot 2) .package .acquire) ∧
    is 0x9A00000600000190 0 (.dma g0 (.w 6) (.slot 1) .package .release) ∧ is 0x9B20010200000400 0 (.strmNotify g0 (.w 1) (.w 2) (.slot 4) .frame .relaxed) ∧
    is 0x9C00000000000290 0 (.fence g0 (.slot 2) .package .release) ∧ is 0x9D00000500001006 0 (.pref g0 6 (.w 5) 0 .frame) := by decide +kernel
theorem test_decode_channel : is 0xB000000188020301 0 (.chsend g0 .words true (.w 1) (.f 8) (.w 2) (.slot 3)) ∧
    is 0xB200840662070101 0 (.chsel g0 true (.f 4) (.w 6) (.k 2) (.w 7) (.slot 1)) ∧ is 0xB500000300000600 0 (.chbind g0 (.w 3) (.slot 6)) := by
  decide +kernel
theorem test_decode_anvil : is 0xC31000080A680201 0 (.mrun g0 true true (.w 8) (.w 10) .zr (.slot 2)) ∧
    is 0xC54000010405002F 0 (.mdrn g0 .spad true .e4m3 .rtz (.w 1) (.w 4) (.w 5) (.slot 0)) ∧ is 0xC600000102000000 0 (.msteer g0 (.w 1) (.w 2)) := by
  decide +kernel
theorem test_decode_pigeonhole : is 0xBC70800142430200 0 (.phacc g0 true .xacc (.f 0) (.w 1) (.v 2) (.v 3) (.slot 2)) ∧
    is 0xBD30820105060000 0 (.phdrn g0 true true (.f 2) (.w 1) (.w 5) (.w 6) (.slot 0)) ∧ is 0xBC20680102031000 0
      (.phacc g0 false .f32 .zr (.w 1) (.w 2) (.w 3) .nothing) := by decide +kernel
theorem test_decode_system : is 0xD000830100000200 0 (.sysr g0 (.f 3) (.w 1) (.slot 2)) ∧ is 0xD210000184000200 0 (.fres g0 .skip (.w 1) (.f 4) (.slot 2)) ∧
    is 0xD300000102000300 0 (.tlbi g0 .page (.w 1) (.w 2) (.slot 3)) ∧ is 0xD510000600000100 0 (.evictRestore g0 (.w 6) (.slot 1)) ∧
    is 0xD600000102001000 0 (.dloctl g0 (.w 1) (.w 2) .nothing) := by decide +kernel
theorem test_decode_rejects : decode 0 0 = .error .illegal ∧ decode 0x100001020304A000 0 = .error .illegal ∧
    decode 0x1020020201000000 0 = .error .illegal ∧ decode 0x1000020201000001 0 = .error .mbz ∧ decode 0x3B00090000000000 0x100000000 = .error .mbz ∧
    decode 0x1008020201000000 0 = .error .operand ∧ decode 0x1000720201000000 0 = .error .operand := by decide +kernel

/-! ## States that meet the statements' hypotheses -/

theorem wit_ScalarResults :
    ([.add g0 true .s8 (.w 1) (.w 2) (.w 1), .li64 g0 (.w 1) 0xFFFFFFFFFFFFFFFF, .bfi g0 (.f 119) (.w 1) (.w 2) (.w 3),
      .cmp g0 .lt .z16 (.k 7) (.w 1) (.w 2), .leaPc g0 .lr (-1), .div g0 .s64 (.w 1) (.w 1) (.w 3)] : List Instr).all (fun i =>
      runs base thread i && (integerResult base (base.view thread) i).any fun r => calm base thread r.2.2) = true ∧
    ([.fadd g0 .f32 (.sr (.w 5)) (.w 1) (.w 2) (.w 1), .fcvt g0 true .s8 .f64 (.rm .rtz) (.w 1) (.w 2)] : List Instr).all (fun i =>
      runs base thread i && (floatingResult base (base.view thread) i).any fun r => calm base thread r.2.2) = true := by decide +kernel

theorem wit_EnabledExceptions :
    (let i : Instr := .fdiv g0 .f64 .rne (.w 1) (.w 1) (.w 3)
     runs user thread i && (floatingResult user (user.view thread) i).any fun r => !calm user thread r.2.2) = true ∧
    (let i : Instr := .vfdiv g0 .f32 .rne (.v 3) (.v 2) (.v 4)
     runs user thread i && (laneResult user (user.view thread) i).any fun r => !calm user thread (r.flags (lanesOf thread i))) = true := by decide +kernel

theorem wit_DivideAndRemainder :
    ([.div g0 .s32 (.w 1) (.w 1) (.w 3), .rem g0 .z8 (.w 1) (.w 1) (.w 3)] : List Instr).all (fun i => runs user thread i && runs base thread i) = true ∧
    user.src (user.view thread) .s32 (.w 3) = 0 ∧ (user.ctx thread.ctx).ien = true ∧ (base.ctx thread.ctx).ien = false := by decide +kernel

theorem wit_SourceAndPut : Ty.s64.inI = true ∧ Ty.z8.inI = true := by decide +kernel
theorem wit_ShiftsAndBits : Ty.s64.inI = true ∧ Ty.z8.inI = true := by decide +kernel

theorem wit_NaNResults : Ty.f32.inF = true ∧ (decodeNum .f32 0x7FC00000).isNaN = true ∧ (decodeNum .f32 0x7F800001).isNaN = true ∧
    (decodeNum .f32 0x7F800001).signals = true ∧ (decodeNum .f32 0x7F800000).isNaN = false := by decide +kernel

/-- Lane instructions under the guard k1, whose mask is 0b11. -/
theorem wit_VectorLanes :
    ([.vadd ⟨false, 1⟩ true .s8 (.v 1) (.v 1) (.v 2), .vfadd g0 .f32 (.sr (.v 1)) (.v 3) (.v 1) (.v 2), .vshuf g0 .z8 (.v 31) (.v 1) (.v 2),
      .vmov ⟨false, 1⟩ (.v 0) (.v 1), .vdot g0 .s4 .rne (.v 1) (.v 1) (.v 1), .vrng g0 (.v 1) (.w 1) (.w 2) (.w 3)] : List Instr).all (fun i =>
      runs base thread i && (laneResult base (base.view thread) i).any fun r => calm base thread (r.flags (lanesOf thread i))) = true := by decide +kernel

theorem wit_CompareAndSelectLane :
    ([.vcmp ⟨false, 1⟩ .lt .s8 (.k 2) (.v 1) (.v 2), .vfcmp g0 .un .f16 (.k 2) (.v 1) (.v 2), .vins ⟨false, 1⟩ .s8 (.v 1) (.w 2) (.w 3),
      .vins ⟨false, 1⟩ .s8 (.v 1) (.w 2) (.w 1), .vextr ⟨false, 1⟩ .s8 (.w 9) (.v 1) (.w 3), .vextr ⟨false, 1⟩ .s8 (.w 9) (.v 1) (.w 1)] : List Instr).all
      (runs base thread) = true ∧
    active (thread.guardMask ⟨false, 1⟩) ((base.readOp (base.view thread) (.w 3)).toNat % 64) = true ∧
    active (thread.guardMask ⟨false, 1⟩) ((base.readOp (base.view thread) (.w 1)).toNat % 64) = false ∧ calm base thread 63 = true := by decide +kernel

theorem wit_VectorReduce : runs base thread (.vred ⟨false, 1⟩ .add .s8 (.w 1) (.v 1)) = true ∧ runs base thread (.vred g0 .min .f64 (.w 1) (.v 2)) = true ∧
    calm base thread 63 = true := by decide +kernel

/-- Under a mask of lanes 0 and 1: lane 0 is the first active, lane 1 comes next, lane 2 is inactive. A first lane that is a signalling NaN, in a
context that enables NV. -/
theorem wit_ScanPrefix : runs base thread (.vscan ⟨false, 1⟩ .add .s8 (.v 3) (.v 1)) = true ∧ calm base thread 63 = true ∧
    (thread.guardMask ⟨false, 1⟩).getLsbD 0 = true ∧ (thread.guardMask ⟨false, 1⟩).getLsbD 1 = true ∧ (thread.guardMask ⟨false, 1⟩).getLsbD 2 = false ∧
    (let t : Threadlet := { thread with v := [(2, 0x7F800001)] }
     let s := world strict Part.empty placedFrame t
     runs s t (.vscan ⟨false, 1⟩ .add .f32 (.v 3) (.v 2)) = true ∧ (decodeNum .f32 (lane (t.vec (.v 2)) 32 0)).signals = true ∧ calm s t Fl.nv = false) := by
  decide +kernel

theorem wit_PackAndUnpack :
    ([.vpack g0 true .e4m3 .f32 .rne (.v 3) (.v 1) (.v 2), .vunpk g0 .f32 .e4m3 (.v 3) (.v 1) (.w 1), .vpack g0 true .e2m3 .f32 .rne (.v 3) (.v 1) (.v 0),
      .vunpk g0 .e2m3 .e2m3 (.v 3) (.v 1) (.w 1)] : List Instr).all (runs base thread) = true ∧ calm base thread 63 = true ∧
    packedCount .e2m3 * Ty.e2m3.width = 384 := by decide +kernel

theorem wit_MaskInstructions :
    ([.kop g0 .and (.k 2) (.k 1) (.k 0), .kop g0 .not (.k 2) (.k 1) (.k 0), .kpopc g0 (.w 1) (.k 1), .kfirst g0 (.w 1) (.k 2)] : List Instr).all
      (runs base thread) = true := by decide +kernel

theorem wit_ControlFlow :
    ([.nop g0, .br g0 (-1), .jmp g0 (.w 4) 1, .call g0 1, .callr g0 (.w 4) (-1), .ret g0, .endT g0, .trap g0 7, .brk g0 7] : List Instr).all
      (runs base thread) = true ∧
    (thread.pc + 8 + base.readOp (base.view thread) (.w 4)).toNat % 8 = 0 ∧ thread.bad.contains .lr = false ∧ thread.lr.toNat % 8 = 0 := by decide +kernel

theorem wit_EndLeavesFrame : runs base thread (.endT g0) = true ∧ base.frame thread.ref = some placedFrame ∧ placedFrame.pendingFree = false ∧
    (base.part thread.ctx thread.ltn).ended = false := by decide +kernel

/-- D = 1, D = 0 and D = zr; the guard k2 is false. -/
theorem wit_LoopCounts :
    ([.loop g0 (.w 1) (-1), .loop g0 (.w 3) 1, .loop g0 .zr 0] : List Instr).all (runs base thread) = true ∧
    base.readOp (base.view { thread with w := [(1, 1)] }) (.w 1) = 1 ∧ base.readOp (base.view thread) (.w 3) = 0 ∧
    passesChecks base thread (.loop ⟨false, 2⟩ (.w 1) (-1)) = true ∧ guardHolds thread (.loop ⟨false, 2⟩ (.w 1) (-1)) = false := by decide +kernel

theorem wit_FlagsReadAndClear : runs base thread (.flags g0 (.w 7)) = true ∧ runs base thread (.flags g0 .zr) = true := by decide +kernel

theorem wit_WriteDestination : (base.frame thread.ref).isSome = true ∧ (7 : Fin 8) ≠ 0 ∧ Operand.w 1 ≠ .lr := by decide +kernel

theorem wit_GuardFalse : base.seat base.cur = .run thread ∧
    ([.nop ⟨false, 2⟩, .add ⟨true, 1⟩ false .s64 (.w 1) (.w 1) (.w 1), .vmov ⟨false, 2⟩ (.v 0) (.v 1), .halt ⟨false, 2⟩ (.w 1)] : List Instr).all
      (fun i => !base.notReady (base.view thread) i && passesChecks base thread i && !guardHolds thread i) = true := by decide +kernel

/-- A small frame, whose words are f0 to f23. -/
def small : State := world strict Part.empty { placedFrame with large := false } thread

/-- A core whose 48 entries are taken, and an Anvil whose queue holds 16 commands. -/
def crowded : State :=
  (List.range 48).foldl (fun s _ => s.addReq (s.ask thread (.spawn g0 (.f 0) (.w 1) (.slot 0)) (.spawn []) (.slot 0) 0xFF)) base
def filled : State := world placedCtx { Part.empty with anvil := { Anvil.reset with queue := List.replicate 16 (.zero 1) } } placedFrame thread

/-- One instruction for each check, in order, and two that pass: f23 is a word of a small frame and f24 is not. Two that are not ready. -/
theorem wit_ChecksBeforeGuard : small.seat small.cur = .run thread ∧
    (crowded.notReady (crowded.view thread) (.bar ⟨true, 0⟩ (.slot 0)) && crowded.seat crowded.cur = .run thread &&
      filled.notReady (filled.view thread) (.mzero ⟨true, 0⟩ (.v 1)) && filled.seat filled.cur = .run thread) = true ∧ thread.mid = none ∧
    ([.add g0 false .f64 (.v 1) (.w 1) (.w 1), .sysw ⟨true, 0⟩ (.v 1) (.w 1) .nothing, .add g0 false .s64 (.v 1) (.f 24) (.w 1), .add g0 false .s64 (.w 1) (.f 24) (.w 1),
      .add g0 false .s64 (.w 1) (.f 23) (.w 1)] : List Instr).all (fun i => !small.notReady (small.view thread) i) = true ∧
    ([.add g0 false .f64 (.v 1) (.w 1) (.w 1)] : List Instr).all (fun i => i.shape.any fun h => !h.coded) = true ∧
    ([.sysw ⟨true, 0⟩ (.v 1) (.w 1) .nothing] : List Instr).all (fun i => i.shape.any fun h => h.coded && i.privileged && !h.operandsOk) = true ∧
    (small.ctx thread.ctx).priv = false ∧
    ([.add g0 false .s64 (.v 1) (.f 24) (.w 1)] : List Instr).all (fun i => i.shape.any fun h => h.coded && !i.privileged && !h.operandsOk) = true ∧
    ([.add g0 false .s64 (.w 1) (.f 24) (.w 1)] : List Instr).all (fun i => i.shape.any fun h => h.coded && h.operandsOk &&
      (frameIndices h).any fun n => decide (frameWords ((small.frame thread.ref).any (·.large)) ≤ n)) = true ∧
    ([.add g0 false .s64 (.w 1) (.f 23) (.w 1)] : List Instr).all (fun i => i.shape.any fun h => h.coded && h.operandsOk &&
      (frameIndices h).all fun n => decide (n < frameWords ((small.frame thread.ref).any (·.large)))) = true ∧ thread.bad.contains (.k 0) = false := by
  decide +kernel

/-- A seat whose register w1 fails its parity check, one whose w5 and w9 do, and a frame whose words f3 and f8 are poisoned; w2 and w3 are no continuations.
The claim word f4 = 0 asks for no spill area, f5 does. -/
def badReg : Threadlet := { thread with bad := [.w 1] }
def badPair : Threadlet := { thread with bad := [.w 5, .w 9] }
def soiled : Frame := { placedFrame with words := [(5, 0x4000000000000)], poison := [3, 8] }
def poisoned : State := world placedCtx Part.empty soiled thread
theorem wit_SourceChecks :
    (let s := world placedCtx Part.empty placedFrame badReg
     let i : Instr := .add g0 false .s64 (.w 1) (.w 2) (.w 1)
     s.seat s.cur = .run badReg ∧ s.notReady (s.view badReg) i = false ∧ passesChecks s badReg i = true ∧ guardHolds badReg i = true ∧
       i.shape.bind (fun h => badReg.badSource (s.readRegisters (s.view badReg) i h (targetOf i))) = some (.w 1)) ∧
    (let i : Instr := .bar g0 (.reg 3)
     base.notReady (base.view thread) i = false ∧ passesChecks base thread i = true ∧ guardHolds thread i = true ∧
       i.shape.bind (fun h => thread.badSource (base.readRegisters (base.view thread) i h (targetOf i))) = none ∧ targetGood thread (targetOf i) = false) ∧
    (let i : Instr := .add g0 false .s64 (.w 1) (.f 3) (.w 1)
     poisoned.notReady (poisoned.view thread) i = false ∧ passesChecks poisoned thread i = true ∧ guardHolds thread i = true ∧
       i.shape.bind (fun h => thread.badSource (poisoned.readRegisters (poisoned.view thread) i h (targetOf i))) = none ∧
       targetGood thread (targetOf i) = true ∧ i.shape.bind (fun h => poisoned.poisonedSource thread (plainSources i h)) = some 3 ∧
       i.shape.bind (fun h => base.poisonedSource thread (plainSources i h)) = none ∧ judgesSources i = false) ∧
    (let i : Instr := .launch g0 (.w 4) (.f 3) (.slot 0)
     passesChecks poisoned thread i = true ∧ i.shape.bind (fun h => poisoned.poisonedSource thread (plainSources i h)) = some 3 ∧ judgesSources i = true ∧
       thread.doneSteps = 0) := by decide +kernel

/-- The second register of a .cas, Z of a PHCLAIM with and without a spill area, a SCPY of no bytes, and a FLAGS whose flags fail their check. -/
theorem wit_SourceChecks_more :
    (let s := world placedCtx Part.empty soiled badPair
     let bads (i : Instr) : Option Operand := i.shape.bind (fun h => badPair.badSource (s.readRegisters (s.view badPair) i h (targetOf i)))
     (([.gatom g0 .cas 3 (.w 8) (.w 4) 0 (.reg 1) .tile .acqRel, .satom g0 .cas 3 (.w 8) (.w 4) 0, .phclaim g0 (.w 1) (.f 5) (.w 5) (.slot 0)] : List Instr).all
       (fun i => passesChecks s badPair i && guardHolds badPair i && (bads i).isSome)) = true ∧
     bads (.phclaim g0 (.w 1) (.f 4) (.w 5) (.slot 0)) = none ∧ passesChecks s badPair (.phclaim g0 (.w 1) (.f 4) (.w 5) (.slot 0)) = true) ∧
    (let i : Instr := .scpy g0 3 (.f 3) (.w 4) 0 (.w 3)
     passesChecks poisoned thread i = true ∧ poisoned.readOp (poisoned.view thread) (.w 3) = 0 ∧ poisoned.poisonedSource thread [.w 3] = none) ∧
    (let t := { thread with badFlags := true }
     let s := world placedCtx Part.empty placedFrame t
     (runs s t (.flags g0 (.w 7)) && runs s t (.halt g0 (.w 1)) && runs s t (.kend g0) && runs s t (.endT g0)) = true) := by decide +kernel

/-! ### Traps, local memory and frames -/

/-- A placed program's machine, whose trap queue lies in a page that may be written. -/
def placed : State := State.reset.withFetchWord 64 0
def placedFor (t : Threadlet) (info : TrapInfo) : Bool :=
  let u := ((placed.setFrame t.ref { placedFrame with st := .parked, nt := 1, runs := placedFrame.runs - 1, ovf := false }).settleCore
    t.ctx t.ltn t.core).setSeat placed.cur (.save t)
  let record := trapRecord info.cause t.ctx (info.rfl ||| 1) info.status info.code (placed.fpOf t.ref) info.pc info.iword info.addr
    (flagsWord info.flags)
  let dev : Dev := ⟨t.ctx, ptnDie (u.homePtn t.ctx t.ltn), .trap (some t.ref)⟩
  match u.allocate dev with
  | .ok (some (n, s2)) => (match s2.devWrite dev (placed.trapEntry t.ctx n) (padTo 512 record ++ seatImage t) with
    | .ok _ => true
    | .error _ => false)
  | _ => false

/-- An empty trap queue with room, and a record that already waits. -/
theorem wit_TrapEntry : placed.frame placedThread.ref = some placedFrame ∧ (placed.tme placedThread.ctx placedThread.ltn).st = .resident ∧
    placed.jobs = [] ∧ placedFor placedThread ⟨0x09, 7, 0, 0, 0, 0, 0x1000, 0⟩ = true ∧
    (let s : State := { base with jobs := [⟨0, [], none, 0, none, none, none⟩] }
     s.frame thread.ref = some placedFrame ∧ (s.jobs.any fun x => decide (x.ctx = thread.ctx) && !s.jobAway x) = true) := by decide +kernel

theorem wit_LocalLoads : base.frame thread.ref = some placedFrame ∧
    ([.lds g0 true 0 (.w 1) (.w 4) 0xFFFF, .lds g0 false 3 (.w 1) (.w 4) 0xFFF8, .vlds ⟨false, 1⟩ (.v 1) (.w 4) 1, .vgath ⟨false, 1⟩ 0 (.v 1) (.w 4) 0 (.v 1),
      .ldf g0 (.v 1) .zr 1] : List Instr).all (fun i => runs base thread i && localReady base (base.view thread) i) = true := by decide +kernel

theorem wit_LocalStores :
    ([.sts g0 0 (.w 1) (.w 4) 0xFFFF, .sts g0 3 (.w 2) (.w 4) 0, .vsts ⟨false, 1⟩ (.v 1) (.w 4) 0, .vscat ⟨false, 1⟩ 0 (.v 1) (.w 4) 0 (.v 1),
      .scpy g0 3 (.w 3) (.w 4) 0 (.w 5)] : List Instr).all (fun i =>
      runs base thread i && localReady base (base.view thread) i && (storedBytes base (base.view thread) i).isSome) = true := by decide +kernel

/-- An atomic .fadd of 1.0 to the smallest subnormal number is not exact. -/
def inexact : State := world strict { Part.empty with spad := [(0x40, 1)] } placedFrame { thread with w := [(1, 0x3FF0000000000000), (4, 0x40)] }
theorem wit_LocalAtomic :
    ([.satom g0 .add 2 (.w 1) (.w 4) 0, .satom g0 .cas 3 (.w 6) (.w 4) 1] : List Instr).all (fun i =>
      runs base thread i && localReady base (base.view thread) i && calm base thread 63) = true ∧
    (let t : Threadlet := { thread with w := [(1, 0x3FF0000000000000), (4, 0x40)] }
     let i : Instr := .satom g0 .fadd 3 (.w 1) (.w 4) 0
     (runs inexact t i && localReady inexact (inexact.view t) i && !calm inexact t (floatOp .add .f64 .rne 1 0x3FF0000000000000).2) = true) := by
  decide +kernel

theorem wit_FrameStore : base.frame thread.ref = some placedFrame ∧
    ([.stf ⟨false, 1⟩ (.v 1) .zr 0, .stf g0 (.v 1) .zr 14] : List Instr).all (fun i => runs base thread i && localReady base (base.view thread) i) = true := by
  decide +kernel

theorem wit_RegisterFrame : calm base thread 63 = true ∧
    ([.add g0 false .s64 .zr (.w 1) (.f 0), .fadd g0 .f64 (.rm .rne) .lr (.w 1) (.w 2)] : List Instr).all (fun i => runs base thread i &&
      ((integerResult base (base.view thread) i).isSome || (floatingResult base (base.view thread) i).isSome)) = true ∧
    (runs base thread (.vmov g0 (.v 0) (.v 1)) && (laneResult base (base.view thread) (.vmov g0 (.v 0) (.v 1))).isSome) = true ∧
    ([.kop g0 .xor (.k 2) (.k 1) (.k 0), .kpopc g0 (.w 9) (.k 1), .kfirst g0 .lr (.k 1), .vcmp ⟨false, 1⟩ .lt .s8 (.k 2) (.v 1) (.v 2),
      .vfcmp ⟨false, 1⟩ .un .f16 (.k 2) (.v 1) (.v 2)] : List Instr).all (runs base thread) = true := by decide +kernel

/-- The grant is 512 KiB: its last byte and the one after it; a word that is poisoned; counts 0, 513 x 8 and 2 of SCPY, the last with bytes in common. -/
def edge : Threadlet := { thread with w := [(1, 0x7FFFF), (2, 0x80000), (4, 0x40), (5, 2), (6, 513)] }
def spoiled : State := world placedCtx { Part.empty with spoison := [8] } placedFrame edge
theorem wit_LocalAccessTraps :
    ([.lds g0 false 0 (.w 9) (.w 1) 0, .lds g0 false 0 (.w 9) (.w 2) 0, .lds g0 false 3 (.w 9) (.w 1) 0, .sts g0 3 (.w 9) (.w 1) 0, .sts g0 1 (.w 9) (.w 4) 1,
      .lds g0 false 3 (.w 9) (.w 4) 0, .scpy g0 3 (.w 4) (.w 4) 0 (.w 3), .scpy g0 3 (.w 4) (.w 4) 1 (.w 6), .scpy g0 3 (.w 4) (.w 4) 1 (.w 5)] :
      List Instr).all (runs spoiled edge) = true ∧
    spoiled.localAddr (spoiled.view edge) (.w 1) 0 0 = spoiled.spGrant 0 - 1 ∧ spoiled.localAddr (spoiled.view edge) (.w 2) 0 0 = spoiled.spGrant 0 ∧
    8 ∈ (spoiled.part 0 0).spoison ∧ (0x40 + 2) / 8 = 8 ∧ spoiled.poisonTrap edge [.w 9] = none ∧
    spoiled.localAddr (spoiled.view edge) (.w 4) 1 3 = 0x48 := by decide +kernel

/-- SCPY of two units: misaligned source or destination, ranges that leave the grant, a poisoned source, and a poisoned destination of units below 8 bytes. -/
theorem wit_LocalAccessTraps_copy :
    (let t : Threadlet := { edge with w := [(1, 0x7FFF8), (2, 0x1001), (3, 0x41), (4, 0x40), (5, 2), (6, 0x1000)] }
     let s := world placedCtx { Part.empty with spoison := [8] } placedFrame t
     let at' (o : Operand) : Nat := (s.readOp (s.view t) o).toNat
     ([.scpy g0 3 (.w 6) (.w 3) 0 (.w 5), .scpy g0 1 (.w 2) (.w 4) 0 (.w 5), .scpy g0 3 (.w 6) (.w 1) 0 (.w 5), .scpy g0 3 (.w 1) (.w 6) 0 (.w 5),
       .scpy g0 3 (.w 6) (.w 4) 0 (.w 5), .scpy g0 2 (.w 4) (.w 6) 0 (.w 5)] : List Instr).all (runs s t) = true ∧ t.doneSteps = 0 ∧
     at' (.w 3) % 8 ≠ 0 ∧ at' (.w 2) % 2 ≠ 0 ∧ s.spGrant 0 ≤ at' (.w 1) + 15 ∧ at' (.w 1) % 8 = 0 ∧ at' (.w 6) % 8 = 0 ∧ at' (.w 4) / 8 = 8 ∧
     at' (.w 5) * 8 = 16 ∧ s.localAddr (s.view t) (.w 4) 0 3 = 0x40) := by decide +kernel

/-- The other local forms: addresses misaligned by one, at the grant's last 64 bytes and past them; lanes 2 and 3 of a gather whose indices are 8,
with lane 0 at the poisoned word; frame words 6 to 13, of which f8 is poisoned, and words 112 to 119 and past them. -/
def corner : Threadlet := { thread with w := [(1, 1), (2, 0x7FFC0), (3, 0x80000), (4, 0x40), (5, 0x3C0), (6, 8), (7, 0x380)], v := [(1, 0), (2, 0xFFFFFFFF)] }
def stained : State := world placedCtx { Part.empty with spoison := [8] } { placedFrame with poison := [8] } corner
theorem wit_LocalAccessTraps_forms :
    ([.satom g0 .add 2 (.w 9) (.w 1) 0, .satom g0 .cas 3 (.w 8) (.w 3) 0, .satom g0 .add 3 (.w 9) (.w 4) 0, .sts g0 3 (.f 8) (.w 2) 0, .satom g0 .swap 3 (.f 8) (.w 2) 0,
      .vlds g0 (.v 3) (.w 1) 0, .vlds g0 (.v 3) (.w 2) 0, .vlds g0 (.v 3) (.w 3) 0, .vlds ⟨false, 1⟩ (.v 3) (.w 4) 0, .vsts g0 (.v 3) (.w 1) 0, .vsts g0 (.v 3) (.w 3) 0,
      .vsts ⟨false, 1⟩ (.v 3) (.w 4) 0, .vgath g0 3 (.v 3) (.w 1) 0 (.v 1), .vgath g0 2 (.v 3) (.w 4) 0 (.v 2), .vgath g0 2 (.v 3) (.w 4) 0 (.v 1),
      .vscat g0 3 (.v 3) (.w 1) 0 (.v 1), .vscat g0 2 (.v 3) (.w 4) 0 (.v 2), .vscat g0 2 (.v 3) (.w 4) 0 (.v 1), .ldf g0 (.v 3) (.w 6) 0, .stf g0 (.v 3) (.w 6) 0,
      .ldf g0 (.v 3) (.w 5) 0, .stf g0 (.v 3) (.w 5) 0, .ldf g0 (.v 3) (.w 7) 0, .ldf ⟨false, 1⟩ (.v 3) (.w 4) 0] : List Instr).all (runs stained corner) = true ∧
    stained.poisonedSource corner [.f 8] = some 8 ∧ stained.poisonedSource corner [.w 9] = none ∧ corner.bad.contains (nextReg (.w 8)) = false ∧
    stained.spGrant 0 = 0x80000 ∧ 1 % 16 ≠ 0 ∧ (0x7FFC0 + 63 : Nat) < 0x80000 ∧ (corner.guardMask ⟨false, 1⟩).getLsbD 0 = true ∧
    (corner.guardMask ⟨false, 1⟩).getLsbD 2 = false ∧ lane (corner.vec (.v 2)) 32 0 = 0xFFFFFFFF ∧ lane (corner.vec (.v 1)) 32 0 = 0 ∧
    stained.spGrant 0 ≤ (0x40 + 0xFFFFFFFF * 4) % 2 ^ 64 ∧ stained.frame corner.ref = some { placedFrame with poison := [8] } ∧ frameWords true ≤ 0x3C0 / 8 + 7 ∧
    0x380 / 8 + 7 < frameWords true ∧ (0x40 : Nat) / 8 = 8 := by decide +kernel

/-! ### Requests -/

theorem wit_GlobalAccesses :
    ([.gld g0 true 2 (.f 119) (.w 4) 0xFFFF (.slot 7) .pod .acquire, .gst g0 3 (.f 0) (.w 4) 0 .nothing .die .release, .gldv g0 (.f 112) (.w 4) 0 (.slot 0) .tile
      .relaxed, .gstv g0 (.v 1) (.w 4) 0 .nothing .tile .relaxed, .gatom g0 .cas 3 (.f 2) (.w 4) 0 (.slot 1) .tile .acqRel, .gred g0 .fadd 3 (.w 1) (.w 4) 0 .nothing
      .tile .relaxed, .ild g0 (.f 1) (.w 4) 0 (.slot 1) .tile .acquire, .ist g0 (.w 1) (.w 4) 0 .nothing .tile .release, .irst g0 (.w 5) (.w 4) 0 .nothing .tile
      .relaxed, .mwatch g0 3 (.f 0) (.w 4) 0 (.slot 0) .tile .relaxed] : List Instr).all (fun i =>
      runs base thread i && (askedOf base (base.view thread) i).isSome && requestReady base (base.view thread) i) = true ∧
    ([.gld g0 false 3 (.f 0) (.w 5) 0 (.slot 0) .tile .relaxed, .gstv g0 (.v 1) (.w 5) 0 .nothing .tile .relaxed, .ild g0 (.f 1) (.w 1) 0 (.slot 1) .tile .acquire,
      .gldv g0 (.f 112) (.w 5) 0 (.slot 0) .tile .relaxed] : List Instr).all (fun i =>
      runs base thread i && (askedOf base (base.view thread) i).any fun a => decide (a.va.toNat % 8 ≠ 0)) = true ∧
    ([.gld g0 false 3 (.f 0) (.w 4) 0 (.slot 0) .tile .relaxed] : List Instr).all (fun i =>
      crowded.notReady (crowded.view thread) i && (askedOf crowded (crowded.view thread) i).isSome) = true ∧
    crowded.seat crowded.cur = .run thread ∧ thread.mid = none ∧ crowded.entryFree crowded.cur = false := by decide +kernel

/-- The forms that write, at an address with a low bit set, with a poisoned datum in f8, and with the table full; 65,536 and 65,537 words of IRST; a
slot target at words 112 and 113 of a large frame. -/
def askers (x : Operand) : List Instr :=
  [.gst g0 3 (.f 8) x 0 .nothing .die .release, .gatom g0 .add 3 (.f 8) x 0 (.slot 1) .tile .acqRel, .gatom g0 .cas 3 (.f 8) x 0 (.slot 1) .tile .acqRel,
    .gred g0 .fadd 3 (.f 8) x 0 .nothing .tile .relaxed, .ist g0 (.f 8) x 0 .nothing .tile .release, .irst g0 (.f 8) x 0 .nothing .tile .relaxed,
    .mwatch g0 3 (.f 8) x 0 (.slot 0) .tile .relaxed]
theorem wit_GlobalAccesses_forms :
    (askers (.w 5)).all (fun i => runs stained corner i && (askedOf stained (stained.view corner) i).any fun a => decide (a.va.toNat % 8 = 0)) = true ∧
    (askers (.w 1)).all (fun i => runs stained corner i && (askedOf stained (stained.view corner) i).any fun a => decide (a.va.toNat % 8 ≠ 0)) = true ∧
    stained.poisonedSource corner [.f 8] = some 8 ∧ stained.poisonedSource corner [.f 8, .f 9] = some 8 ∧
    (askers (.w 4)).all (fun i => crowded.notReady (crowded.view thread) i && (askedOf crowded (crowded.view thread) i).isSome) = true ∧
    crowded.entryFree crowded.cur = false ∧ thread.mid = none ∧
    ([.gldv g0 (.f 112) (.w 5) 0 (.slot 0) .tile .relaxed, .gldv g0 (.f 113) (.w 1) 0 (.slot 0) .tile .relaxed,
      .gatom g0 .cas 3 (.f 118) (.w 1) 0 (.slot 1) .tile .acqRel] : List Instr).all (fun i => runs stained corner i && (askedOf stained (stained.view corner) i).isSome) = true ∧
    112 + 7 < frameWords true ∧ frameWords true ≤ 113 + 7 ∧ 118 + 1 < frameWords true ∧ 8 + 1 < frameWords ((stained.frame corner.ref).any (·.large)) ∧
    (let i : Instr := .irst g0 (.w 3) (.w 4) 0 .nothing .tile .relaxed
     runs base thread i = true ∧ (askedOf base (base.view thread) i).isSome = true ∧ base.readOp (base.view thread) (.w 3) = 0) ∧
    (let t : Threadlet := { thread with w := [(1, 65536), (2, 65537), (4, 0x40)] }
     let s := world placedCtx Part.empty placedFrame t
     (runs s t (.irst g0 (.w 2) (.w 4) 0 .nothing .tile .relaxed) && runs s t (.irst g0 (.w 1) (.w 4) 0 .nothing .tile .relaxed)) = true ∧
     65536 < (s.readOp (s.view t) (.w 2)).toNat ∧ ¬ 65536 < (s.readOp (s.view t) (.w 1)).toNat) := by decide +kernel

theorem wit_Continuations : base.frame thread.ref = some placedFrame ∧ thread.ltn < 4096 ∧ thread.core < 4 ∧ thread.frm < 256 ∧ placedFrame.rtag < 2 ^ 15 ∧
    (255 : Nat) < 256 ∧ (7 : Nat) < 8 ∧ (63 : Nat) < 64 := by decide +kernel

/-- A shape record at 0x40: one row of 8 bytes; and one of no bytes, which breaks a rule. -/
def shaped (rowb : Byte) : State := world placedCtx { Part.empty with spad := [(0x58, rowb), (0x5C, 1)].filter (·.2 ≠ 0) } placedFrame thread
theorem wit_GlobalEngineRequests :
    ([.fence g0 (.slot 0) .pod .acquire, .fence g0 (.slot 0) .tile .acqRel, .pref g0 6 (.w 4) 0xFFFF .tile, .dma g0 (.w 4) (.slot 0) .tile .relaxed,
      .strmOpen g0 (.w 1) (.w 4) (.slot 0) .tile .relaxed, .strmAdv g0 (.w 1) (.w 5) .nothing .tile .release, .strmNotify g0 (.w 1) (.w 5) (.slot 0) .tile .relaxed,
      .strmClose g0 (.w 1) (.slot 0) .tile .relaxed, .strmClose g0 (.w 4) (.slot 0) .tile .relaxed] : List Instr).all
      (fun i => runs (shaped 8) thread i && runs (shaped 0) thread i) = true ∧ base.entryFree base.cur = true ∧
    (base.globalAddr (base.view thread) (.w 4) 0xFFFF 6).toNat % 2 ^ 6 = 0 ∧ base.loadCheck (base.view thread) [] 0x40 64 64 = none ∧
    ((shapeOf (((shaped 8).part 0 0).bytes 0x40 64)).any fun sh => (shaped 8).shapeInReach 0 0 sh) = true ∧
    shapeOf (((shaped 0).part 0 0).bytes 0x40 64) = none := by decide +kernel

/-- A .open of a write window that the port has yet to see, before a .adv of its number; window number 15 is the last. -/
theorem wit_GlobalEngineRequests_open :
    (let t : Threadlet := { thread with w := [(1, 15), (2, 16), (5, 2)] }
     let r : Req := { base.ask t (.ffree g0 .fp) (.openWin 15 (List.replicate 26 0 ++ [1, 0, 0, 0, 0, 0])) (.slot 0) 0xFF with id := 0 }
     let s : State := { world placedCtx Part.empty placedFrame t with reqs := [r] }
     (runs s t (.strmAdv g0 (.w 1) (.w 5) .nothing .tile .release) && runs s t (.strmAdv g0 (.w 2) (.w 5) .nothing .tile .release)) = true ∧
     r.ref.ctx = t.ctx ∧ r.ref.ltn = t.ltn ∧ r.performed = false ∧ le (List.replicate 26 0 ++ [1, 0, 0, 0, 0, 0]) 26 1 = 1 ∧
     (s.readOp (s.view t) (.w 1)).toNat ≤ 15 ∧ 15 < (s.readOp (s.view t) (.w 2)).toNat ∧ s.entryFree s.cur = true) := by decide +kernel

/-! ### Frames, signals, tasks and barriers -/

/-- A slot word that arms slot 0 of the own frame at 0 and one at 4,095; the frame itself, away, pending its freeing, and with a slot that awaits signals. -/
def slotThread (w : Word) : Threadlet := { thread with w := [(1, w), (4, 0x40), (5, 2)] }
def framed (f : Frame) (w : Word) : State := world placedCtx Part.empty f (slotThread w)
def frameOps : List Instr := [.ffree g0 .fp, .sloti g0 .fp (.w 1), .slota g0 .fp (.w 1)]
theorem wit_FrameInstructions :
    (runs base thread (.fnew g0 true (.f 0) (.slot 0)) && (base.createFrame 0 0 0 true).isSome) = true ∧
    (let s := world { placedCtx with kernel := some { placedKernel with quota := 0 } } Part.empty placedFrame thread
     (runs s thread (.fnew g0 true (.f 0) (.slot 0)) && (s.createFrame 0 0 0 true).isNone) = true) ∧
    ([placedFrame, { placedFrame with pendingFree := true }] : List Frame).all (fun f =>
      ([0x80000000, 0x80000FFF] : List Word).all fun w =>
        frameOps.all (fun i => runs (framed f w) (slotThread w) i) &&
        ((framed f w).namedFrame ((framed f w).view (slotThread w)) ((framed f w).fpOf (slotThread w).ref)).any fun e => decide (e.2 = f)) = true ∧
    placedFrame.busy ((base.partCore 0 0 0).qn 0) = false ∧ base.postedIn thread.ref = false ∧ (0x80000FFF : Word).toNat / 2 ^ 24 % 16 = 0 ∧
    (let c : Word := contWith (base.fpOf thread.ref) 0 0xFF + 2 ^ 16
     let away : Frame := { placedFrame with st := .away, rtag := contRtag c }
     let t : Threadlet := { thread with w := [(1, c), (2, 0x80000000)] }
     let s : State := { base with
       parts := [(0, { Part.empty with cores := [(0, { PartCore.empty with frames := [(0, placedFrame), (contFrm c, away)] })] })]
       tiles := [(0, { Tile.reset with cores := [(0, { Core.reset with seats := [(0, .run t)] })] })] }
     ([.ffree g0 (.w 1), .sloti g0 (.w 1) (.w 2), .slota g0 (.w 1) (.w 2)] : List Instr).all (runs s t) = true ∧
       contFrm c ≠ 0 → (s.namedFrame (s.view t) c).any (fun e => decide (e.2.st = .away)) = true) := by decide +kernel

/-- A continuation that is not valid; a frame with an armed slot; a slot word with a bit of its zero field; a count below 0 and one above 4,095. -/
theorem wit_FrameInstructionTraps :
    ([.ffree g0 .zr, .sloti g0 (.w 1) (.w 1), .slota g0 .zr (.w 1)] : List Instr).all (runs base thread) = true ∧ contV 0 = false ∧
    (let f : Frame := { placedFrame with slots := [(0, { Slot.zero with armed := true, count := 1 })] }
     runs (framed f 0) (slotThread 0) (.ffree g0 .fp) = true ∧ f.pendingFree = false ∧ f.badSlots = [] ∧ (∃ e ∈ f.slots, e.2.count ≠ 0 ∨ e.2.pn ≠ 0)) ∧
    (runs (framed placedFrame 0x01000000) (slotThread 0x01000000) (.sloti g0 .fp (.w 1)) = true ∧ (0x01000000 : Word).toNat / 2 ^ 24 % 16 ≠ 0) ∧
    (runs (framed placedFrame 4096) (slotThread 4096) (.slota g0 .fp (.w 1)) = true ∧ runs (framed placedFrame (-1)) (slotThread (-1)) (.slota g0 .fp (.w 1)) = true ∧
      (4095 : Int) < (0 : Int) + (4096 : Word).toInt ∧ (0 : Int) + (-1 : Word).toInt < 0) := by decide +kernel

/-- Slot 7 and word 119 of CONT; a task record in f0 to f7; a launch packet at 0x40. -/
theorem wit_SignalsAndTasks :
    (let t : Threadlet := { thread with w := [(1, 7), (2, 119), (4, 0x40), (5, 2)] }
     let s := world placedCtx Part.empty placedFrame t
     ([.sig g0 .ok false .zr, .sig g0 .refused true .fp, .sigd g0 .ok false .zr (.w 1), .sigd g0 .ok true .fp (.f 119), .cont g0 (.w 9) .fp (.w 1) (.w 2),
       .spawn g0 (.f 112) (.w 1) .nothing, .launch g0 (.w 4) (.w 1) (.slot 0)] : List Instr).all (runs s t) = true ∧
     contV (s.readOp (s.view t) .fp) = true ∧ contMbz (s.readOp (s.view t) .fp) = 0 ∧ contV 0 = false ∧ s.entryFree s.cur = true ∧
     s.frame t.ref = some placedFrame ∧ 112 + 7 < frameWords true ∧ (∀ k < 8, placedFrame.poison.contains (112 + k) = false) ∧
     s.poisonedSource t [.w 1] = none ∧ (0x40 : Nat) % 64 = 0) ∧
    (let m : Mid := { instr := .spawn g0 (.f 112) (.w 1) .nothing, words := [(112, 9)], poison := [], cyc := 0, steps := 0, got := 0 }
     let t : Threadlet := { thread with mid := some m }
     let s := world placedCtx Part.empty placedFrame t
     runs s t m.instr = true ∧ ((s.frame t.ref).map t.asIssued).any (fun f => decide (f.word 112 = 9) && !f.poison.contains 112) = true) := by decide +kernel

theorem wit_BarrierInstructions :
    ([.bar g0 (.slot 0), .ared g0 .add .f16 (.f 0) (.w 1) (.slot 0), .kend g0, .tidx g0 (.w 1) (.w 3), .tidx g0 (.w 1) (.w 1), .tidx g0 (.w 1) (.w 4)] :
      List Instr).all (runs base thread) = true ∧ base.entryFree base.cur = true ∧ base.kernel thread.ctx = some placedKernel ∧
    (base.part 0 0).ended = false ∧ base.barsOut 0 0 false < 16 ∧
    (base.ask thread (.bar g0 (.slot 0)) (.bar 0) (.slot 0) 0xFF).counted = false ∧ (base.ask thread (.bar g0 (.slot 0)) (.bar 0) (.slot 0) 0xFF).ref = thread.ref ∧
    (let s := (List.range 16).foldl (fun s n => s.addReq (s.ask thread (.bar g0 (.slot 0)) (.bar (n + 1)) (.slot 0) 0xFF)) base
     16 ≤ s.barsOut 0 0 false) := by decide +kernel

/-! ### Channels and engines -/

/-- Port 5 sends to port 3 of tile 1, port 2 receives from it; w6 = 64 has no port, w7 = 9 is one that is not bound. -/
def portThread : Threadlet := { thread with w := [(1, 5), (2, 2), (4, 0x40), (5, 8), (6, 64), (7, 9), (8, 1), (10, 4)] }
def portPart : Part := { Part.empty with ports := [(2, ⟨false, true, [⟨0, 1, 3⟩], none, [], none, 0, none⟩), (5, ⟨true, true, [⟨0, 1, 3⟩], none, [], none, 0, none⟩)] }
def chan : State := world placedCtx portPart placedFrame portThread
theorem wit_ChannelSendReceive :
    ([.chsend g0 .words true (.w 1) (.f 112) (.w 5) (.slot 0), .chsend g0 .spad false (.w 1) (.w 4) (.w 4) .nothing, .chsendm g0 .words false (.w 1) (.f 0) (.w 8) .nothing,
      .chsendm g0 .spad true (.w 1) (.w 4) (.w 4) .nothing, .chrecv g0 .words (.w 2) (.f 0) (.w 8) (.slot 0), .chrecv g0 .spad (.w 2) (.w 4) (.w 4) (.slot 0),
      .chrecv g0 .latch (.w 2) (.w 0) (.w 0) (.slot 0)] : List Instr).all (runs chan portThread) = true ∧
    ((chan.port 0 0 5).bound && (chan.port 0 0 5).send && (chan.port 0 0 2).bound && !(chan.port 0 0 2).send) = true ∧ chan.rangeOk 0 0 0x40 0x40 = true ∧
    112 + 8 ≤ frameWords ((chan.frame portThread.ref).any (·.large)) ∧ chan.frame portThread.ref = some placedFrame := by decide +kernel

/-- No grant of the Anvil; the empty key in w3 and in the lanes of v3; a small frame without room for 9 result words from f16. -/
def poor : State := world { placedCtx with kernel := some { placedKernel with anvil := false } } portPart { placedFrame with large := false } portThread
theorem wit_EngineChecks :
    ([.chsend g0 .words true (.w 6) (.f 0) (.w 5) (.slot 0), .chsendm g0 .spad false (.w 7) (.w 4) (.w 4) .nothing, .chrecv g0 .words (.w 7) (.f 0) (.w 8) (.slot 0),
      .chcan g0 (.w 6), .chtest g0 (.f 0) (.w 7) (.slot 0), .chsend g0 .words true (.w 2) (.f 0) (.w 5) (.slot 0), .chrecv g0 .latch (.w 1) (.w 0) (.w 0) (.slot 0)] :
      List Instr).all (runs chan portThread) = true ∧ (chan.port 0 0 9).bound = false ∧
    ([.mcfg g0 (.w 1), .mlda g0 (.w 1) (.w 2) (.w 3) (.slot 0), .mldb g0 (.w 1) (.w 2) (.w 3), .mrun g0 false false (.w 1) (.w 2) (.w 3) (.slot 0), .mzero g0 (.w 1),
      .mdrn g0 .spad false .f32 .rne (.w 1) (.w 2) (.w 3) (.slot 0), .msteer g0 (.w 1) (.w 2), .mstat g0 (.f 0) (.w 1) (.slot 0)] : List Instr).all (fun i =>
      runs poor portThread i && (anvilAsk poor (poor.view portThread) i).isSome) = true ∧ poor.anvilGrant 0 = false ∧
    (let t : Threadlet := { portThread with w := [(1, 4), (2, 2), (3, BitVec.ofNat 64 emptyKey)], v := [(3, BitVec.ofNat 512 emptyKey)] }
     let s := world placedCtx Part.empty { placedFrame with large := false } t
     ([.phins g0 false (.f 0) (.w 1) (.w 2) (.w 2) (.slot 0), .phprb g0 false (.f 0) (.w 2) (.w 3) (.slot 0), .phdel g0 true (.f 0) (.w 2) (.v 3) (.slot 0),
       .phacc g0 true .f32 (.f 16) (.w 2) (.v 1) (.v 1) (.slot 0)] : List Instr).all (runs s t) = true ∧
     lane (t.vec (.v 3)) 64 0 = emptyKey ∧ (∀ j < 8, lane (t.vec (.v 1)) 64 j ≠ emptyKey) ∧ frameWords ((s.frame t.ref).any (·.large)) < 16 + 9) := by decide +kernel

/-- The checks of CHSEL (ports 2 and 4, 5 and none of them; 0, 1, 8 and 9 words; f111 and f112) and of CHBIND (an MBZ bit, another source tile, OP 3, a
bound port for OP 0, an unbound one for OP 2, the issuing tile, and a tile outside the rectangle), and with the core's table full. -/
def bindThread (w : Word) : Threadlet := { portThread with w := [(1, w), (2, 4), (3, 32), (4, 8), (5, 9)] }
theorem wit_EngineChecks_select :
    (let t := bindThread 0
     let s := world placedCtx portPart placedFrame t
     ([.chsel g0 true (.f 111) (.w 2) (.k 0) (.w 4) (.slot 0), .chsel g0 true (.f 112) (.w 2) (.k 0) (.w 4) (.slot 0), .chsel g0 true (.f 0) (.w 3) (.k 0) (.w 4) (.slot 0),
       .chsel g0 true (.f 0) (.w 2) (.k 0) (.w 5) (.slot 0), .chsel g0 true (.f 0) (.w 2) (.k 0) (.w 1) (.slot 0)] : List Instr).all (runs s t) = true ∧
     ([2, 5].filter fun j => (s.readOp (s.view t) (.w 2)).getLsbD j) = [2] ∧ ([2, 5].filter fun j => (s.readOp (s.view t) (.w 3)).getLsbD j) = [5] ∧
     (s.port 0 0 2).send = false ∧ (s.port 0 0 5).send = true ∧ frameWords ((s.frame t.ref).any (·.large)) < 112 + 8 + 1 ∧ 111 + 8 + 1 ≤ frameWords true) ∧
    ([0x00C00000, 0x0000100000000000, 0x3, 0x20000, 0x90002, 0x50001, 0xFFF00050001] : List Word).all (fun w =>
      runs (world placedCtx portPart placedFrame (bindThread w)) (bindThread w) (.chbind g0 (.w 1) (.slot 0))) = true ∧
    (0x00C00000 : Word) &&& 0x00000000C0C000FC ≠ 0 ∧ bindSltn 0x0000100000000000 ≠ 0 ∧ bindOp 0x3 = 3 ∧ bindOp 0x20000 = 0 ∧ bindSport 0x20000 = 2 ∧
    bindOp 0x90002 = 2 ∧ bindSport 0x90002 = 9 ∧ bindOp 0x50001 = 1 ∧ bindSport 0x50001 = 5 ∧ bindRltn 0x50001 = portThread.ltn ∧ bindRpkg 0x50001 = chan.pkgSelf 0 ∧
    ((chan.kernel 0).map (·.area)).getD 0 ≤ bindRltn 0xFFF00050001 ∧ (chan.port 0 0 2).bound = true ∧ (chan.port 0 0 9).bound = false ∧
    crowded.notReady (crowded.view thread) (.chbind g0 (.w 1) (.slot 0)) = true := by decide +kernel

/-- On port 5, which sends, and port 2, which receives: 0, 9 and 8 words from f112, f113 and a poisoned one; blocks of 63, 32 and 64 bytes at 0x41, at the last
64 bytes of the grant, and past it. -/
def sendThread : Threadlet := { portThread with w := [(1, 5), (2, 2), (4, 0x40), (5, 8), (6, 0x41), (7, 63), (8, 0x7FFC0), (9, 9), (10, 0x80000), (11, 4160)] }
def sending : State := world placedCtx portPart { placedFrame with poison := [114] } sendThread
theorem wit_EngineChecks_channel :
    ([.chsend g0 .words true (.w 1) (.f 112) (.w 3) (.slot 0), .chsendm g0 .words true (.w 1) (.f 112) (.w 9) (.slot 0), .chrecv g0 .words (.w 2) (.f 112) (.w 3) (.slot 0),
      .chsend g0 .words true (.w 1) (.f 113) (.w 5) (.slot 0), .chrecv g0 .words (.w 2) (.f 113) (.w 5) (.slot 0), .chsend g0 .words false (.w 1) (.f 112) (.w 5) (.slot 0),
      .chsend g0 .spad false (.w 1) (.w 4) (.w 7) .nothing, .chrecv g0 .spad (.w 2) (.w 4) (.w 11) (.slot 0), .chsendm g0 .spad false (.w 1) (.w 6) (.w 4) .nothing,
      .chrecv g0 .spad (.w 2) (.w 10) (.w 4) (.slot 0), .chsend g0 .spad false (.w 1) (.w 8) (.w 4) .nothing] : List Instr).all (runs sending sendThread) = true ∧
    ((sending.port 0 0 5).bound && (sending.port 0 0 5).send && (sending.port 0 0 2).bound && !(sending.port 0 0 2).send) = true ∧
    112 + 8 ≤ frameWords ((sending.frame sendThread.ref).any (·.large)) ∧ frameWords true < 113 + 8 ∧
    ((sending.frame sendThread.ref).map sendThread.asIssued).any (fun f => f.poison.contains (112 + 2) && !f.poison.contains 112 && !f.poison.contains 113) = true ∧
    63 < 64 ∧ 4096 < 4160 ∧ 4160 % 64 = 0 ∧ 0x41 % 64 ≠ 0 ∧ sending.spGrant 0 ≤ 0x80000 ∧ 0x80000 % 64 = 0 ∧ 0x7FFC0 + 63 < sending.spGrant 0 := by decide +kernel
theorem wit_EngineChecks_full :
    (let full : Part := { Part.empty with anvil := { Anvil.reset with queue := List.replicate 16 (.zero 1) } }
     let s := world { placedCtx with kernel := some { placedKernel with anvil := false } } full placedFrame thread
     16 ≤ (s.anvil 0 0).places ∧ s.anvilGrant 0 = false ∧
       ([.mzero g0 (.w 4), .mcfg g0 (.w 1), .mldb g0 (.w 1) (.w 2) (.w 3), .mstat g0 (.f 0) (.w 1) (.slot 0)] : List Instr).all (fun i =>
         s.notReady (s.view thread) i && (anvilAsk s (s.view thread) i).isSome) = true) ∧
    (poor.anvil 0 0).places < 16 := by decide +kernel

/-- CHSEL of port 2 alone, of no port, and of one that holds an operation; a bind that is refused, and one of port 9 here to port 7 of tile 1, which is
permitted. -/
theorem wit_ChannelSelectBindTest :
    ([.chsel g0 true (.f 0) (.w 10) (.k 0) (.w 8) (.slot 0), .chtest g0 (.f 0) (.w 1) (.slot 0), .chtest g0 (.f 0) (.w 2) (.slot 0), .chbind g0 (.w 3) (.slot 0),
      .chcan g0 (.w 2)] : List Instr).all (runs chan portThread) = true ∧
    ((List.range 64).filter fun j => (chan.readOp (chan.view portThread) (.w 10)).getLsbD j && (chan.readOp (chan.view portThread) (.k 0)).getLsbD j) = [2] ∧
    chan.entryFree chan.cur = true ∧ (chan.port 0 0 2).members = [⟨0, 1, 3⟩] ∧
    runs chan portThread (.chsel g0 true (.f 0) (.w 3) (.k 0) (.w 8) (.slot 0)) = true ∧ chan.readOp (chan.view portThread) (.w 3) = 0 ∧
    (let busy : Part := { portPart with ports := [(2, ⟨false, true, [⟨0, 1, 3⟩], some ⟨.req 0, thread.ref, 0, 0, .recvWords 0 1, false, none, [], .ok, none⟩, [], none, 0, none⟩)] }
     let s := world placedCtx busy placedFrame portThread
     runs s portThread (.chsel g0 true (.f 0) (.w 10) (.k 0) (.w 8) (.slot 0)) = true ∧ (s.port 0 0 2).op ≠ none) ∧
    (let w : Word := 0x0000000107090000
     let t : Threadlet := { portThread with w := [(1, w)] }
     let s := world { placedCtx with kernel := some { placedKernel with width := 2 } } portPart placedFrame t
     runs s t (.chbind g0 (.w 1) (.slot 0)) = true ∧ bindOp w = 0 ∧ bindSport w = 9 ∧ bindRltn w = 1 ∧ bindRport w = 7 ∧ s.bindAllowed (s.view t) w = true) := by
  decide +kernel

/-- A grant of the Anvil, and w1 = 0x2800: steps of E4M3 blocks. -/
theorem wit_AnvilInstructions :
    (let t : Threadlet := { portThread with w := [(1, 0), (2, 0x100), (4, 0x40), (6, 3)] }
     let s := world placedCtx portPart placedFrame t
     ([.mlda g0 (.w 4) (.w 2) (.w 4) (.slot 0), .mldb g0 (.w 4) (.w 4) (.w 4), .mzero g0 (.w 4), .mdrn g0 .spad false .f32 .rne (.w 1) (.w 4) (.w 1) (.slot 0),
       .mstat g0 (.f 0) (.w 1) (.slot 0), .mstat g0 (.f 0) (.w 6) (.slot 0)] : List Instr).all (fun i =>
       runs s t i && (anvilAsk s (s.view t) i).isSome && anvilReady s (s.view t) i) = true ∧ s.anvilGrant 0 = true ∧ (s.anvil 0 0).places < 16 ∧ s.entryFree s.cur = true) ∧
    (let full : Part := { Part.empty with anvil := { Anvil.reset with queue := List.replicate 16 (.zero 1) } }
     let s := world placedCtx full placedFrame thread
     16 ≤ (s.anvil 0 0).places ∧ s.notReady (s.view thread) (.mzero g0 (.w 4)) = true) := by decide +kernel

theorem wit_PigeonholeInstructions :
    ([.phins g0 false (.f 118) (.w 5) (.w 1) (.w 2) (.slot 0), .phprb ⟨false, 1⟩ true (.f 111) (.w 5) (.v 1) (.slot 0), .phdel g0 false .zr (.w 5) (.w 1) .nothing,
      .phacc ⟨false, 1⟩ true .xacc (.f 0) (.w 5) (.v 1) (.v 2) (.slot 0), .phdrn g0 false false (.f 0) (.w 5) (.w 4) (.w 5) (.slot 0), .phrls g0 (.w 3) (.slot 0),
      .phstat g0 false (.f 0) (.w 5) .zr (.slot 0)] : List Instr).all (fun i =>
      runs base thread i && (pigeonAsk base (base.view thread) i).isSome && pigeonReady base (base.view thread) i) = true := by decide +kernel

/-! ### The system -/

/-- w1: PKGST, w2: MSG 0 of the own context's registers is not used; the greatest code of HALT; TSEL with V = 1 and with V = 0; tiles of context 0. -/
def sysThread : Threadlet := { thread with w := [(1, 0x0030000000000000), (2, 0xFFFEFFFF), (3, 1), (4, 63), (5, 2), (6, 0x3FFFF), (7, 0xFFFFFFFF)] }
def ruled : State := world { placedCtx with tsel := 0x8000000000000000 } Part.empty placedFrame sysThread
theorem wit_SystemInstructions :
    ([.halt g0 (.w 2), .sysr g0 (.f 0) (.w 1) (.slot 0), .fres g0 .retry (.w 4) (.w 7) (.slot 0), .tlbi g0 .page (.w 4) (.w 1) (.slot 0), .tlbi g0 .all (.w 0) (.w 0) (.slot 0),
      .tmap g0 (.f 0) (.w 3) (.slot 0), .evictSave g0 (.w 6) (.slot 0), .evictRestore g0 (.w 3) (.slot 0), .dloctl g0 (.w 4) (.w 5) .nothing] : List Instr).all
      (fun i => runs ruled sysThread i && runs (world placedCtx Part.empty placedFrame sysThread) sysThread i) = true ∧
    ruled.entryFree ruled.cur = true ∧ ((ruled.ctx 0).tsel.getLsbD 63 && !(base.ctx 0).tsel.getLsbD 63) = true ∧
    (ruled.evictRefused 0 1 .resident && ruled.evictRefused 0 1 .away) = true := by decide +kernel

theorem wit_PrivilegedInstructions : user.seat user.cur = .run thread ∧ (user.ctx thread.ctx).priv = false ∧
    ([.sysw ⟨false, 2⟩ (.w 1) (.w 2) (.slot 0), .fres g0 .kill (.w 1) (.w 1) (.slot 0), .tlbi g0 .ctx (.w 1) (.w 0) (.slot 0), .tmap g0 (.f 0) (.w 1) (.slot 0),
      .evictSave g0 (.w 1) (.slot 0), .evictRestore g0 (.w 1) (.slot 0), .dloctl g0 (.v 1) (.w 1) .nothing, .halt g0 (.w 1)] : List Instr).all
      (fun i => i.shape.any (·.coded)) = true := by decide +kernel

/-- SYSR where the context is not privileged: the own THC and SFLAG of tile 0, which it may read, and the own CTXD, another context's THC, and SFLAG of
a tile outside the rectangle, which it may not. -/
def reader (w : Word) : Threadlet := { thread with w := [(1, w)] }
def thcOf (ctx : Nat) : Word := BitVec.ofNat 64 (2 ^ 62 + ctx * 2 ^ 40 + 0x101)
def sflagOf (ltn : Nat) : Word := BitVec.ofNat 64 (2 ^ 63 + ltn * 2 ^ 48 + 0x210)
theorem wit_PrivilegedInstructions_read :
    ([thcOf 0, thcOf 1, sflagOf 0, sflagOf 4095, BitVec.ofNat 64 (2 ^ 62 + 0x100)] : List Word).all (fun w =>
      runs (world strict Part.empty placedFrame (reader w)) (reader w) (.sysr g0 (.f 0) (.w 1) (.slot 0)) && (selRow w).isSome) = true ∧
    ((selRow (thcOf 0)).any (·.user) && (selRow (sflagOf 0)).any (·.user) && !(selRow (BitVec.ofNat 64 (2 ^ 62 + 0x100))).any (·.user)) = true ∧
    (selOf (thcOf 0)).ctx = 0 ∧ (selOf (thcOf 1)).ctx = 1 ∧ (selOf (sflagOf 4095)).ltn = 4095 ∧ (selOf (sflagOf 0)).space = 2 ∧ (selOf (sflagOf 0)).reg = 0x210 ∧
    user.kernel 0 = some placedKernel ∧ 0 < placedKernel.area ∧ placedKernel.area ≤ 4095 ∧ user.entryFree user.cur = true := by decide +kernel

/-! ### The steps of other agents -/

/-- The placed program's machine with another part of its context, other cores' entries, and packets on the network. -/
def lab (k : Kernel) (p : Part) (pc : PartCore) (c : Core) (net : List Packet) : State :=
  { placed with
    ctxs := [(0, { placedCtx with kernel := some k })]
    parts := [(0, { p with cores := [(0, { pc with frames := (0, placedFrame) :: pc.frames })] })]
    tiles := [(0, { Tile.reset with cores := [(0, { c with seats := [(0, .run placedThread)] })] })]
    net := net }
def task : Task := [0x0000010000000000, 0, 0, 0, 0, 0, 0, 0]
def ready : Ready := ⟨0, 0, 0, 0, 1, none, false⟩
/-- Entries and records that wait: a ready entry, records in the deque, and one in the spill area. -/
def withReady : State := lab placedKernel Part.empty { PartCore.empty with ready := [ready] } { Core.reset with rot := [⟨1, 0, 0⟩] } []
def withDeque : State := lab placedKernel Part.empty PartCore.empty { Core.reset with deque := [(0, task)] } [.stealReq 0 0 1 0 0, .stealReply 0 0 0 0 0 (some task) false,
  .taskReturn 0 0 0 task false, .spawn 0 0 0 false task 0, .spawn 0 5 0 false task 0]
def withArea : State := lab { placedKernel with dqb := 0x300000, dqn := 4, steal := 1 } Part.empty { PartCore.empty with dqCount := 1 } Core.reset
  [.stealReq 0 0 1 0 0]
def withEnded : State := lab placedKernel { Part.empty with ended := true } PartCore.empty Core.reset [.spawn 0 0 0 false task 0, .stealReply 0 0 0 0 0 (some task) false]

theorem wit_PicksAndTasks_pick :
    (let s0 := withReady.settleRot 0 0
     let c0 := s0.coreAt 0 0
     let cls := pickClass (s0.eligible 0 0) c0.nGap c0.bGap
     withReady.seatFree ⟨0, 0, 3⟩ = true ∧ c0.rot.find? (fun x => x.cls = cls) = some ⟨1, 0, 0⟩ ∧
       (s0.eligible 0 0).find? (fun x => decide (x.1 = 0) && decide (x.2.2.cls = cls)) = some (0, 0, ready)) ∧
    (withDeque.ltnOn 0 0 = some 0 ∧ withDeque.mayPickup 0 0 = true ∧ (withDeque.part 0 0).ended = false ∧
      popNewest (withDeque.coreAt 0 0).deque 0 = some (task, [])) ∧
    (withArea.ltnOn 0 0 = some 0 ∧ withArea.mayPickup 0 0 = true ∧ (withArea.coreAt 0 0).deque = [] ∧ (withArea.partCore 0 0 0).dqCount = 1 ∧
      ((withArea.refillDeque ⟨0, 0, .deque 0 0⟩ 0 0 0).toOption.any fun s1 => (popNewest (s1.coreAt 0 0).deque 0).isSome) = true) := by decide +kernel
theorem wit_PicksAndTasks_steal :
    (let s := lab { placedKernel with steal := 1 } Part.empty PartCore.empty { Core.reset with lfsr := 1 } []
     (s.mayPickup 0 0 && !s.stealOut 0 0 && decide (2 ≤ (s.stealDomain 0 0).length) &&
       ((s.stealDomain 0 0).findIdx? (fun e => e = (0, 0))).any (fun i =>
         (nextVictim (s.stealDomain 0 0).length i 65536 (s.coreAt 0 0).lfsr).isSome)) = true) ∧
    withDeque.net[0]? = some (.stealReq 0 0 1 0 0) ∧ popOldest (withDeque.coreAt 0 0).deque 0 = some (task, []) ∧ popOldest (withArea.coreAt 0 0).deque 0 = none ∧
    (withDeque.partCore 0 0 0).dqCount = 0 ∧ withArea.net[0]? = some (.stealReq 0 0 1 0 0) ∧
    (let m (b : Byte) : State := { withArea with mem := Memory.write withArea.mem 0x300005 b }
     ([(0, true), (0xFF, false)] : List (Byte × Bool)).all (fun e =>
       ((m e.1).devTake ⟨0, 0, .steal 0 0⟩ ((m e.1).areaAt 0 0 0 ((m e.1).partCore 0 0 0).dqHead) 64).toOption.any fun x => taskOk (taskOfBytes x.1) == e.2) = true) ∧
    withDeque.readyTaken 0 0 < 128 := by decide +kernel
theorem wit_PicksAndTasks_spawn :
    ((withEnded.part 0 0).ended = true ∧ withDeque.ptnOf 0 0 = some 0 ∧ withDeque.ptnOf 0 5 = none ∧ (withDeque.part 0 5).ended = false ∧
      (withDeque.pushDeque 0 (withDeque.spawnCore 0 0 0 false) 0 0 task).toOption.isSome = true ∧
      (withDeque.pushImage 0 5 (withDeque.spawnCore 0 5 0 false) 0 task).toOption.isSome = true) ∧
    (let r := base.ask thread (.fnew g0 true (.f 0) (.slot 0)) (.fnew true) (.slot 0) 0
     let s : State := { lab placedKernel Part.empty { PartCore.empty with waits := [r.id], tasks := [⟨task⟩] } Core.reset [] with reqs := [r] }
     ((s.readyWait 0 0 0 [r.id]).isSome && (s.readyWait 0 0 0 []).isNone && (s.readyTask 0 0 0 [⟨task⟩]).isSome) = true) := by decide +kernel

/-- A part with a root frame that waits; one that brought a task with it and keeps a place for another. -/
theorem wit_PicksAndTasks_late :
    (let s : State := lab placedKernel { Part.empty with rootDue := true } PartCore.empty Core.reset []
     (s.ptnOf 0 0).isSome = true ∧ (s.part 0 0).rootDue = true ∧ s.kernel 0 = some placedKernel ∧ (s.lateRoot 0 0 placedKernel).isSome = true) ∧
    (let s : State := lab placedKernel Part.empty { PartCore.empty with deque := [task], kept := 1 } Core.reset [.stealReq 0 0 1 0 0, .taskReturn 0 0 0 task false]
     (s.partCore 0 0 0).dqCount = 0 ∧ (s.partCore 0 0 0).deque = [task] ∧ (s.partCore 0 0 0).kept ≠ 0 ∧ s.ptnOf 0 0 = some 0 ∧ (s.part 0 0).ended = false ∧
       (withDeque.partCore 0 0 0).kept = 0) := by decide +kernel

/-- Slot 0 armed with COUNT 1: in a frame that is live, that is being written out, and that is away; with a reload value and with none; with PN = 4,095;
on a tile that has executed KEND, and with 128 entries in the ready queue. -/
def armed (f : Frame) (x : Slot) : Frame := { f with slots := [(0, x)] }
def one : Slot := { Slot.zero with armed := true, count := 1, rld := 3, reload := true }
def due (p : Part) (pc : PartCore) (f : Frame) : State := (lab placedKernel p pc { Core.reset with rot := [⟨1, 0, 0⟩] } []).setFrame ⟨0, 0, 0, 0⟩ f
theorem wit_SignalAccepted_due :
    ([armed placedFrame one, armed placedFrame { one with rld := 0 }, armed placedFrame { one with reload := false, pn := 4095 },
      armed { placedFrame with st := .parked } { one with pn := 4094 }, armed { placedFrame with moving := .spill ⟨none, false, [], []⟩ } one] : List Frame).all (fun f =>
      decide ((due Part.empty PartCore.empty f).frame ⟨0, 0, 0, 0⟩ = some f) && decide ((f.slot 0).count = 1) && (f.slot 0).armed) = true ∧
    ((due Part.empty PartCore.empty placedFrame).part 0 0).ended = false ∧ ((due { Part.empty with ended := true } PartCore.empty placedFrame).part 0 0).ended = true ∧
    (due Part.empty PartCore.empty placedFrame).ptnOf 0 0 = some 0 ∧ (due Part.empty PartCore.empty placedFrame).readyTaken 0 0 < 128 ∧
    (due Part.empty PartCore.empty placedFrame).waitsForPlace 0 0 = false ∧
    128 ≤ (due Part.empty { PartCore.empty with ready := List.replicate 128 ready } placedFrame).readyTaken 0 0 ∧ placedFrame.st = .live := by decide +kernel

/-- A signal to the frame with a matching tag, one with another, one to a frame that is away; words 0, 119 and 120 of a large frame. -/
def signalled (f : Frame) : State := lab placedKernel Part.empty PartCore.empty Core.reset [] |> fun s =>
  let s1 := s.setFrame ⟨0, 0, 0, 0⟩ f
  { s1 with net := [.signal 0 0 (contWith (s.fpOf ⟨0, 0, 0, 0⟩) 0 119) [some 7] 0] }
theorem wit_SignalAccepted :
    ([placedFrame, { placedFrame with rtag := 1 }, { placedFrame with st := .away }] : List Frame).all (fun f =>
      (signalled f).net.length == 1 && decide ((signalled f).ptnOf 0 0 = some 0) && decide ((signalled f).frame ⟨0, 0, 0, 0⟩ = some f)) = true ∧
    (let c := contWith (placed.fpOf ⟨0, 0, 0, 0⟩) 0 119
     contRtag c = 0 ∧ contFrm c = 0 ∧ contWord c = 119 ∧ 119 + [some (7 : Word)].length ≤ frameWords true ∧ frameWords true < 119 + [some (7 : Word), none].length) ∧
    placedFrame.badSlots.contains 0 = false ∧ (placedFrame.slot 0).count = 0 ∧
    (let f : Frame := { placedFrame with slots := [(0, { Slot.zero with count := 1 }), (1, { Slot.zero with armed := true, count := 2 })] }
     ((f.slot 0).note 0).count = 1 ∧ (f.slot 0).armed = false ∧ ((f.slot 1).note 0).count = 2 ∧ (f.slot 1).armed = true) := by decide +kernel

/-- A request that its home may perform: an access at physical 0x40. -/
def atHome (i : Instr) (k : ReqKind) (write : Bool) (full : List Nat) (bad : List Nat) : State × Req :=
  let r : Req := { base.ask thread i k (.slot 0) 0 with va := 0x40, write := write, phys := some ⟨.hbm, 0x40, true⟩ }
  ({ placed with reqs := [r], nextId := 1, full := full, granules := bad }, r)
def r0 : FrameRef := ⟨0, 0, 0, 0⟩
def near : Phys := ⟨.hbm, 0x40, true⟩
def fits (x : State × Req) (p : Phys) : Bool :=
  decide (x.1.req x.2.id = some x.2) && decide (x.2.curPhys = some p) && !x.2.performed && !x.2.faultHeld && !x.2.sent && x.1.orderOk x.2 p &&
    !x.2.kind.forbidden p && hasStorage x.1.carve p.home p.pa x.2.size && decide (x.1.deferred = []) && !x.2.parked
theorem fits_atHome {x : State × Req} {p : Phys} (h : fits x p = true) (hn : ∀ pkg, p.home ≠ .remote pkg) : AtHome x.1 x.2.id x.2 p := by
  simp only [fits, Bool.and_eq_true, decide_eq_true_eq, Bool.not_eq_true'] at h
  obtain ⟨⟨⟨⟨⟨⟨⟨⟨⟨h1, h2⟩, h3⟩, h4⟩, h5⟩, h6⟩, h7⟩, h8⟩, h9⟩, h10⟩ := h
  exact ⟨h1, h2, ⟨h3, h4, h5, h10⟩, by simp [h9], h6, h7, hn, h8⟩

/-- A plain page, and a request on it whose home holds poisoned granules. -/
def plain : Phys := ⟨.hbm, 0x40, false⟩
def onPage (k : ReqKind) (write : Bool) (bad : List Nat) : State × Req :=
  let x := atHome (.ffree g0 .fp) k write [] bad
  ({ x.1 with reqs := [{ x.2 with phys := some plain }] }, { x.2 with phys := some plain })
def window3 : Window := ⟨r0, 0, 0, 8, 4, 0, 2, 3, false, 0, 0, 1, [], [], none, 0, 0, false, none, none⟩
/-- A burst that writes, of a part whose scratchpad is good or poisoned. -/
def writing (spoison : List Nat) : State × Req :=
  let x := onPage (.burst 9 0 8 true) true []
  ({ x.1 with parts := [(0, { x.1.part 0 0 with spoison := spoison })] }, x.2)

theorem wit_HomeAccesses_read :
    ([(.load 4 true, []), (.load 8 false, [2]), (.burst 9 0 8 false, []), (.burst 9 0 8 false, [2]), (.loadv, [])] : List (ReqKind × List Nat)).all
      (fun e => fits (onPage e.1 false e.2) plain && e.1.readsHome) = true ∧
    (onPage (.load 4 true) false []).1.poisoned .hbm 0x40 4 = false ∧ (onPage (.load 8 false) false [2]).1.poisoned .hbm 0x40 8 = true ∧
    (let x := onPage (.fill 3 0 0 8) false []
     let s : State := { x.1 with parts := [(0, { Part.empty with windows := [(3, window3)] })] }
     fits (s, x.2) plain = true ∧ s.poisoned .hbm 0x40 8 = false) := by decide +kernel
theorem wit_HomeAccesses_write :
    (let x := onPage (.store 8 7) true []
     fits x plain = true ∧ (x.1.gatherRest x.2).performed = false ∧ x.1.writePoisoned .hbm 0x40 8 = false) ∧
    (let x := onPage (.store 4 7) true [2]
     fits x plain = true ∧ (x.1.gatherRest x.2).performed = false ∧ x.1.writePoisoned .hbm 0x40 4 = true) ∧
    (fits (writing []) plain = true ∧ ((writing []).1.gatherRest (writing []).2).performed = false ∧
      ((writing []).1.gatherRest (writing []).2).writeBytes.length = 8) ∧
    (fits (writing [0]) plain = true ∧ ((writing [0]).1.gatherRest (writing [0]).2).performed = true) ∧
    (let x := onPage (.burst 9 0 16 true) true [2]
     let r : Req := { x.2 with part := 8 }
     let s : State := { x.1 with reqs := [r] }
     fits (s, r) ⟨.hbm, 0x48, false⟩ = true ∧ (s.gatherRest r).performed = false ∧ (s.gatherRest r).part ≠ 0 ∧
       s.writePoisoned .hbm 0x48 (s.gatherRest r).writeBytes.length = true) := by decide +kernel
theorem wit_HomeAccesses_atomic :
    ([.atom .add 4 1 0, .red .or 8 1] : List ReqKind).all (fun k => fits (onPage k true []) plain && fits (onPage k true [2]) plain) = true ∧
    (onPage (.red .or 8 1) true []).1.poisoned .hbm 0x40 4 = false ∧ (onPage (.red .or 8 1) true [2]).1.poisoned .hbm 0x40 8 = true := by decide +kernel

theorem wit_IStructures :
    (fits (atHome (.ffree g0 .fp) .ild false [8] []) near && fits (atHome (.ffree g0 .fp) .ild false [] []) near && fits (atHome (.ffree g0 .fp) (.ist 7) true [] []) near &&
      fits (atHome (.ffree g0 .fp) (.ist 7) true [8] []) near && fits (atHome (.ffree g0 .fp) (.irst 2 2) true [8] []) near &&
      fits (atHome (.ffree g0 .fp) (.irst 2 1) true [] []) near) = true ∧
    (let s := (atHome (.ffree g0 .fp) .ild false [] []).1
     s.poisoned near.home near.pa 8 = false ∧ (s.part 0 0).finished = false ∧ near.pa / 8 = 8) ∧
    (let s : State := { (atHome (.ffree g0 .fp) .ild false [] []).1 with ctxs := [(0, { placedCtx with drb := 0x300000, drs := 1 })] }
     s.deferredRoom 0 = true) ∧
    (let p : Phys := ⟨.hbm, 0x40, false⟩
     let x := atHome (.ffree g0 .fp) (.watch 4 0) false [] []
     let y : State × Req := ({ x.1 with reqs := [{ x.2 with phys := some p }] }, { x.2 with phys := some p })
     fits y p = true ∧ y.1.homeNumber p 4 = 0) := by decide +kernel

/-- Pages of the placed program's tables: 0 to 1 GiB readable, writable and executable; 1 GiB and up absent but recoverable; 2 GiB and up absent;
3 GiB and up read-only. -/
def paged : State :=
  { placed with mem := Memory.writeBytes (Memory.writeBytes placed.mem 0x110008 (leBytes 8 4)) 0x110018 (leBytes 8 3) }
def asking (va : Word) (k : ReqKind) : Req := { base.ask thread (.ffree g0 .fp) k (.slot 0) 0 with va := va }

theorem wit_RequestsGoOn :
    (let r := asking 0x40 (.load 8 false)
     r.parked = false ∧ r.phys = none ∧ r.performed = false ∧ r.faultHeld = false ∧ r.sent = false ∧ r.kind.access = some .read ∧ (asking 0x40 (.store 8 0)).kind.access = some .write) ∧
    (((paged.translate 0 0x3FFFFFFF .read).1 matches .ok _) && ((paged.translate 0 0x40000000 .read).1 matches .miss) &&
      ((paged.translate 0 0x80000000 .read).1 matches .fault) && ((paged.translate 0 0xC0000000 .write).1 matches .prot)) = true ∧
    (let s : State := { placed with services := [⟨0, 0x10000, 0, 0, []⟩], feat1a := BitVec.allOnes 64, feat0a := BitVec.allOnes 64, featDone := true }
     s.services.find? (fun f => f.ctx = 0 ∧ f.va = (0x1FFFF : Word).toNat / 2 ^ 16 * 2 ^ 16) = some ⟨0, 0x10000, 0, 0, []⟩ ∧ s.feature 1 = true) ∧
    (placed.seat ⟨0, 0, 0⟩ = .run placedThread ∧ placed.cachedWord 0 0 0x1000 = none ∧ ((placed.fetchMem ⟨0, 0, .seat ⟨0, 0, 0⟩⟩ 0x1000).1 matches .word _) = true) ∧
    (let r : Req := { asking 0x40 (.store 8 0) with write := true, performed := true }
     r.parked = false ∧ r.kind.access.isSome = true ∧ r.ackPkg = false ∧ r.ackPod = false ∧ r.kind.isPart = false ∧ r.dest.isSome = true ∧ placed.keepsFor 0 0 = false) := by decide +kernel

/-- A dormant frame, and one that is being written out; a creation that waits for its place; packets for the frame's image. -/
def idleFrame : Frame := { placedFrame with runs := 0 }
def imaged (f : Frame) (net : List Packet) : State :=
  { (lab { placedKernel with quota := 4, spb := 0x400000 } Part.empty { PartCore.empty with waits := [0] } Core.reset net).setFrame r0 f with
    reqs := [{ base.ask thread (.fnew g0 true (.f 0) (.slot 0)) (.fnew true) (.slot 0) 0 with id := 0 }] }
def awayFrame : Frame := { idleFrame with st := .away }

theorem wit_SpillAndRefill :
    (let s := imaged idleFrame []
     s.ptnOf 0 0 = some 0 ∧ (s.tme 0 0).st = .resident ∧ (s.partCore 0 0 0).noSpill = false ∧
       (s.waitingClasses 0 0 0).findSome? (fun w => s.victimFor 0 0 0 0 w.1 w.2) = some 0 ∧ s.frame r0 = some idleFrame ∧ idleFrame.moving = .no ∧
       (s.writeImage r0 { idleFrame with moving := .spill ⟨none, false, [], []⟩, tch := false }).toOption.isSome = true) ∧
    (let f : Frame := { idleFrame with moving := .spill ⟨none, false, [], []⟩ }
     let g : Frame := { placedFrame with moving := .spill ⟨none, false, [], []⟩ }
     (imaged f []).dormant r0 { f with moving := .no } = true ∧ (imaged g []).dormant r0 { g with moving := .no } = false ∧ f.tch = true ∧
       ((imaged f []).rewriteImage r0 f ⟨none, false, [3], []⟩).toOption.isSome = true) ∧
    (let c := contWith (placed.fpOf r0) 3 0
     let s := imaged awayFrame [.forward r0 c [some 7] 0, .imageOp r0 0 3 (.sloti 0x80000001) 0]
     contRtag c = 0 ∧ s.frame r0 = some awayFrame ∧ s.recalled r0 = false ∧ (s.imagePhys ⟨0, 0, .forward r0 c [some 7] 0⟩ r0 .write).toOption.isSome = true ∧ s.net.length = 2 ∧
       ((({ s with mem := [] } : State).imagePhys ⟨0, 0, .forward r0 c [some 7] 0⟩ r0 .write) matches .error (.fault _)) = true ∧
       (imaged awayFrame [.forward r0 c [] 0, .recallDone r0]).recalled r0 = true ∧ (imaged awayFrame []).imageSlotBad ⟨.hbm, 0x40, false⟩ 0 = false ∧
       ({ imaged awayFrame [] with granules := [2] } : State).imageSlotBad ⟨.hbm, 0x40, false⟩ 0 = true) ∧
    (let s : State := { placed with ctxs := [(0, { placedCtx with drb := 0x300000, drs := 1 })] }
     s.deferredRoom 0 = true) ∧
    ((ImageOp.slota (-1)).check Slot.zero false false = some 0x03 ∧ (ImageOp.slota 4095).check Slot.zero false false = none ∧
      ImageOp.ffree.check Slot.zero true false = some 0x22) ∧
    (let s := imaged { awayFrame with moving := .refill } [.image r0]
     s.quotaRoom 0 0 0 true = true ∧ (s.freeGranule 0 0 true).isSome = true ∧
       (s.imagePhys (s.spillDev r0) r0 .read).toOption = some ⟨.hbm, 0x400000, false⟩ ∧ s.imageBroken ⟨.hbm, 0x400000, false⟩ = false ∧
       ({ s with mem := Memory.write s.mem 0x400003 0x01 } : State).imageBroken ⟨.hbm, 0x400000, false⟩ = true) ∧
    (let j : TrapJob := ⟨0, [1], none, 0, none, none, none⟩
     placed.jobAway j = false ∧ (State.runJob placed j).toOption.isSome = true) ∧
    (let s : State := { placed with ctxs := [(0, { placedCtx with tmes := [(0, ⟨.resident, 0⟩), (1, ⟨.away, 0⟩)] })] }
     s.boundAway (.signal 0 1 0 [] 0) = true ∧ s.boundAway (.chan ⟨0, ⟨0, 0, 3⟩, ⟨0, 1, 2⟩, .refuse⟩) = true ∧
       ({ s with net := [.chan ⟨0, ⟨0, 0, 3⟩, ⟨0, 1, 2⟩, .refuse⟩] } : State).behindOther 0 (.chan ⟨0, ⟨0, 0, 3⟩, ⟨0, 1, 2⟩, .refuse⟩) = false) := by decide +kernel

/-- A kernel of two by one tiles: tile 0's own arrival stands, tile 1 is its child. -/
def pair : Kernel := { placedKernel with width := 2 }
def twoTiles (p : Part) (net : List Packet) : State :=
  let s := lab pair p PartCore.empty Core.reset net
  { s with ctxs := [(0, { placedCtx with kernel := some pair, dlm := 1, tmes := [(0, ⟨.resident, 0⟩), (1, ⟨.resident, 1⟩)] })] }
/-- A tile whose only frame waits on port 2, which receives from port 3 of tile 1. -/
def blocked : Part := { Part.empty with
  ports := [(2, ⟨false, true, [⟨0, 1, 3⟩], some ⟨.req 0, r0, 0, 0, .recvWords 0 1, false, none, [], .ok, none⟩, [], none, 0, none⟩)] }
def blockedTiles (net : List Packet) : State :=
  { (twoTiles blocked net).setFrame r0 idleFrame with
    tiles := []
    reqs := [{ base.ask thread (.chrecv g0 .words (.w 1) (.f 0) (.w 1) (.slot 0)) (.chan 2) (.slot 0) 0 with id := 0 }] }
def e10 : Edge := ⟨3, ⟨0, 0, 2⟩⟩

theorem wit_BarriersAndDetections :
    (let s := twoTiles { Part.empty with bars := [⟨false, 1, some none, [], false⟩] } [.barUp 0 0 1 false 1 none, .barDown 0 0 1 false none]
     s.partTile 0 0 = some 0 ∧ (s.ptnOf 0 0).isSome = true ∧ s.net.length = 2) ∧
    (let s := blockedTiles []
     (s.ctx 0).dlm ≠ 0 ∧ s.blockedTile 0 0 = true ∧ (s.part 0 0).edges ≠ [] ∧ (s.part 0 0).dloSeen = none) ∧
    (let q : Packet := .dloQuery 0 ⟨⟨0, 1⟩, 1, 1⟩ ⟨0, 1⟩ ⟨7, ⟨0, 0, 2⟩⟩
     let s := blockedTiles [q]
     s.tileRef 0 0 = ⟨0, 0⟩ ∧ (s.part 0 0).visits = [] ∧ ((s.part 0 0).port 2).faces ⟨0, 1, 7⟩ = false ∧ (s.takePacket 0).blockedTile 0 0 = true ∧
       ((s.takePacket 0).visitsOn 0).length < 32 ∧ ((s.part 0 0).port 2).faces ⟨0, 1, 3⟩ = true ∧ ((twoTiles Part.empty [q]).takePacket 0).blockedTile 0 0 = false) ∧
    (let d : Detection := ⟨⟨0, 0⟩, 1, 1⟩
     let e : Edge := ⟨2, ⟨0, 1, 3⟩⟩
     let v : Visit := ⟨d, ⟨0, 0⟩, e, 1, 0, [e], [e], ⟨.blocked, none, 0, []⟩⟩
     let s := twoTiles { blocked with det := some v } [.dloReply 0 d ⟨0, 0⟩ e ⟨.active, none, 0, []⟩]
     (s.part 0 0).det = some v ∧ e ∈ v.awaiting ∧ v.det = d) := by decide +kernel
/-- The second pass at a tile that the first has engaged: as it was, with another ASN, and asked again; the releases of a tile whose BAR is
outstanding, of one that has executed KEND, and of one that has neither. -/
theorem wit_BarriersAndDetections_again :
    (let d (pass : Nat) : Detection := ⟨⟨0, 1⟩, 1, pass⟩
     let v (pass : Nat) (asn : Word) : Visit := ⟨d pass, ⟨0, 1⟩, ⟨7, ⟨0, 0, 2⟩⟩, 1, asn, blocked.edges, [], ⟨.blocked, none, 0, []⟩⟩
     let s (pass : Nat) (asn : Word) : State :=
       let u := blockedTiles [.dloQuery 0 (d 2) ⟨0, 1⟩ ⟨7, ⟨0, 0, 2⟩⟩]
       u.setPart 0 0 { u.part 0 0 with visits := [v pass asn] }
     blocked.edges ≠ [] ∧ blocked.asn = 0 ∧
       ([(1, 0), (1, 5), (2, 0)] : List (Nat × Word)).all (fun e => ((s e.1 e.2).takePacket 0).blockedTile 0 0 &&
         decide (((s e.1 e.2).part 0 0).visit ⟨0, 1⟩ = some (v e.1 e.2)) && decide (((s e.1 e.2).part 0 0).edges = blocked.edges)) = true) ∧
    (let s := twoTiles { Part.empty with ended := true } [.barDown 0 0 1 false none]
     s.barRequests 0 0 1 false = [] ∧ (s.part 0 0).ended = true ∧ ((twoTiles Part.empty []).barRequests 0 0 1 false = []) ∧
       ({ s with reqs := [asking 0 (.bar 1)] } : State).barRequests 0 0 1 false ≠ []) := by decide +kernel

/-- One channel packet that has arrived at a port of tile 0. -/
def chWorld (p : Part) (dst : Nat) (b : ChBody) : State := lab placedKernel p PartCore.empty Core.reset [.chan ⟨0, ⟨0, 1, 3⟩, ⟨0, 0, dst⟩, b⟩]
def sendOp (form : ChForm) (moving : List PortRef) (cancel : Option Status) : ChOp := ⟨.req 0, r0, 0, 5, form, false, none, moving, .ok, cancel⟩
/-- A send that is offered under seq 0, for a select of 1 word. -/
def offeredOp (cancel : Option Status) : ChOp := { sendOp (.sendWords [7]) [] cancel with offered := some (⟨0, 1, 3⟩, 0, 1) }
def onPort (send : Bool) (op : Option ChOp) (rsel : Option (PortRef × Nat × Nat)) : Part :=
  { Part.empty with ports := [(2, ⟨send, true, [⟨0, 1, 3⟩], op, [], rsel, 0, none⟩)] }
def sel2 : Select := ⟨0, r0, 0, 0, 1, false, [2, 4], none, [], none⟩
def selPart : Part := { Part.empty with
  ports := [(2, ⟨false, true, [⟨0, 1, 3⟩], some (sendOp (.select 0) [] none), [], none, 0, none⟩),
    (4, ⟨false, true, [⟨0, 1, 4⟩], some (sendOp (.select 0) [] none), [], none, 0, none⟩)]
  sels := [sel2] }

theorem wit_ChannelPackets :
    ([.ready (.words 1), .readySelect 0 1, .refuse, .withdraw 5, .test 0, .bind 0 false, .dataWords [7]] : List ChBody).all (fun b =>
      ((chWorld (onPort true none none) 2 b).chArrived 0).any fun p => decide (p.body = b)) = true ∧
    ((chWorld (onPort true none none) 2 .refuse).port 0 0 2).bound = true ∧ (chWorld (onPort true none none) 2 .refuse).port 0 0 9 = Port.unbound ∧
    (chWorld (onPort true none none) 9 (.test 0)).port 0 0 9 = Port.unbound ∧ ((chWorld (onPort true none none) 2 .refuse).part 0 0).ended = false ∧
    ((chWorld (onPort true none none) 2 (.testRefused 0)).chArrived 0).isSome = true ∧
    (let s := { chWorld selPart 2 (.offer 0) with net := [.chan ⟨0, ⟨0, 1, 3⟩, ⟨0, 0, 2⟩, .offer 0⟩, .chan ⟨0, ⟨0, 1, 4⟩, ⟨0, 0, 4⟩, .offer 0⟩] }
     (s.part 0 0).sels = [sel2] ∧ ([0, 1] : List Nat).all (fun n => (s.chArrived n).any fun o => decide (s.offerCurrent o = some sel2)) = true ∧
       (([0] : List Nat).filterMap s.chArrived).length = 1) ∧
    (let s (b : ChBody) (op : ChOp) (rsel : Option (PortRef × Nat × Nat)) : State := chWorld (onPort true (some op) rsel) 2 b
     let lost (b : ChBody) : State := chWorld { onPort true none none with ports := [(2, ⟨true, false, [], some (offeredOp none), [], none, 0, none⟩)] } 2 b
     ([none, some .cancelled] : List (Option Status)).all (fun c => ((s (.go 0) (offeredOp c) none).chArrived 0).isSome && ((s (.release 0) (offeredOp c) none).chArrived 0).isSome &&
       decide (((s (.go 0) (offeredOp c) none).port 0 0 2).op = some (offeredOp c)) && decide ((offeredOp c).cancel = c)) = true ∧
     (offeredOp none).offered = some (⟨0, 1, 3⟩, 0, 1) ∧ (offeredOp none).form.matches (.words 1) = true ∧ (offeredOp none).form.matches (.words 2) = false ∧
     ((s (.release 0) (offeredOp none) (some (⟨0, 1, 3⟩, 0, 1))).port 0 0 2).rsel = some (⟨0, 1, 3⟩, 0, 1) ∧
     ((lost (.release 0)).chArrived 0).isSome = true ∧ ((lost (.release 0)).port 0 0 2).op = some (offeredOp none) ∧ ((lost (.release 0)).port 0 0 2).bound = false ∧
     (let op := sendOp (.sendWords [7]) [⟨0, 1, 3⟩] (some .cancelled)
      (∀ x ∈ [.acceptance .ok, .withdrawn 5 true, .withdrawn 5 false], ((s x op none).chArrived 0).isSome = true) ∧
        op.cancel = some .cancelled ∧ op.tag = 5 ∧ op.result = .ok ∧ (∀ m ∈ op.moving, m = ⟨0, 1, 3⟩) ∧ op.offered = none)) ∧
    ((chWorld (onPort true none none) 2 .refuse).canBind 0 0 9 = true ∧ (chWorld (onPort true none none) 2 .refuse).canBind 0 0 2 = false) ∧
    (bindOp 0 ≠ 2 ∧ ((chWorld Part.empty 2 (.bound 0 true)).bindSend 0 0 (bindSport 0) (decide (bindOp 0 = 1)) ⟨0, 1, 3⟩).isSome = true ∧
       (chWorld (onPort true none none) 2 (.bound 0 true)).bindSend 0 0 (bindSport 0x20000) false ⟨0, 1, 3⟩ = none) ∧
    (let s := chWorld { onPort true (some (sendOp (.sendWords [7]) [⟨0, 1, 3⟩] none)) none with ended := true } 2 (.withdraw 5)
     (s.chArrived 0).isSome = true ∧ (s.part 0 0).ended = true ∧ (s.port 0 0 2).bound = true ∧ (s.port 0 0 2).rsel = none ∧
       ((s.port 0 0 2).op.any fun o => o.moving.contains ⟨0, 1, 3⟩) = true ∧ (s.port 0 0 9).op = none) ∧
    (bindOp 0x2 = 2 ∧ ({ chWorld Part.empty 2 .refuse with reqs := [asking 0 (.chbind 0x2 2)] } : State).req 0 = some (asking 0 (.chbind 0x2 2))) := by decide +kernel

def aRun (chan : Bool) : Run := ⟨0, chan, false, 0, 0, 2, 0, none, 0, 0, 1, none, [], 0, 0, 0, .ok, false, 0, [], []⟩
/-- The engine with a command at the head of its queue and a block in its latch. -/
def engine (q : List Cmd) : State :=
  lab placedKernel { Part.empty with anvil := { Anvil.reset with cfg := 0xC0C, queue := q, latch := [⟨List.replicate 1024 0, none, false⟩] } } PartCore.empty Core.reset []
def aTable : PhTable := tableOfWord 0 0
def aLane (st : PhLaneState) : PhLane := ⟨0, 7, 1, st⟩
def pigeons (b : PhBody) : Part := { Part.empty with tables := [(1, { aTable with ovf := true })], phq := [⟨0, 1, false, b⟩] }

/-- The kind of a piece of spill work. -/
def workKind : SpillWork → Nat
  | .fill .. => 0
  | .drain .. => 1
  | .lane .. => 2

theorem wit_EngineSteps_anvil :
    (let s := engine [.run (aRun true)]
     (s.anvil 0 0).queue = [.run (aRun true)] ∧ (aRun true).next < (aRun true).steps ∧ (s.tme 0 0).st = .resident ∧ (anvilTypes (s.anvil 0 0).cfg).isSome = true ∧
       (s.anvil 0 0).latch.length = 1 ∧ (s.part 0 0).latchUsed < 2 ∧ (s.drainWaits 0 0 (autoDrain 0 0 0) = false) ∧ s.keepsFor 0 0 = false ∧ ((s.spadBlock 0 0 1 false []).toOption).isSome = true ∧ (s.anvil 0 0).buffersUsed < 2) ∧
    (let s : State := { engine [.drn 0 ⟨0, .spad, 0x40, 0, .f32, .rne, false⟩] with reqs := [{ asking 0 .anvil with id := 0 }] }
     (s.req 0).isSome = true ∧ (s.anvil 0 0).writing = none ∧ ((s.drainTo 0 0 ⟨0, .spad, 0x40, 0, .f32, .rne, false⟩ (.drain 0) r0 0).1 matches .write ..) = true ∧
       ((s.drainTo 0 0 ⟨0, .spad, 0x80000, 0, .f32, .rne, false⟩ (.drain 0) r0 0).1 matches .done _) = true) ∧
    (let pend : Run := { aRun true with pend := some (0, 0), drn := some 0 }
     let s : State := { engine [.run pend] with reqs := [{ asking 0 .anvil with id := 0 }] }
     (s.anvil 0 0).queue = [.run pend] ∧ s.drainWaits 0 0 (autoDrain (pend.drn.getD 0) 0 0) = false ∧ (s.req pend.id).isSome = true) ∧
    (let s : State := engine [.lda 0 0x40 0 1 0]
     (s.anvil 0 0).queue = [.lda 0 0x40 0 1 0] ∧ (s.tme 0 0).st = .resident) ∧
    (let s : State := lab placedKernel { Part.empty with anvil := { Anvil.reset with cfg := 0xC0C, writing := some (0x40, [1, 2]) } } PartCore.empty Core.reset []
     (s.anvil 0 0).writing = some (0x40, [1, 2]) ∧ anvilTypes 0x1F = none) := by decide +kernel

/-- Packets to a port that is not bound, to a group port, and to a receive whose data are words, units, or a select's; offers from two directions. -/
theorem wit_ChannelPackets_more :
    ([.go 0, .release 0, .bind 0 true, .withdraw 5, .test 0] : List ChBody).all (fun b =>
      ((chWorld (onPort true none none) 9 b).chArrived 0).isSome && !((chWorld (onPort true none none) 9 b).port 0 0 9).bound) = true ∧
    (let g : Part := { Part.empty with ports := [(2, ⟨true, true, [⟨0, 1, 3⟩, ⟨0, 1, 4⟩], none, [], none, 0, none⟩)] }
     ((chWorld g 2 (.readySelect 0 1)).chArrived 0).isSome = true ∧ 2 ≤ ((chWorld g 2 (.readySelect 0 1)).port 0 0 2).members.length) ∧
    ([sendOp (.recvWords 0 1) [] none, sendOp (.recvBlock 0x40 64) [] none, sendOp (.recvWords 0 1) [⟨0, 1, 3⟩] (some .cancelled)] : List ChOp).all (fun op =>
      ([.dataWords [7], .dataUnits [some [7]], .dataUnits [none], .withdrawn 5 true, .acceptance .ok] : List ChBody).all fun b =>
        ((chWorld (onPort false (some op) none) 2 b).chArrived 0).isSome && decide (((chWorld (onPort false (some op) none) 2 b).port 0 0 2).op = some op)) = true ∧
    (let s := chWorld selPart 2 (.dataWords [7])
     (s.chArrived 0).isSome = true ∧ (s.port 0 0 2).op = some (sendOp (.select 0) [] none) ∧ (s.part 0 0).sel 0 = some sel2) ∧
    (let s := chWorld (onPort true none none) 2 (.tested 0 true)
     (s.chArrived 0).isSome = true ∧ (({ s with reqs := [{ asking 0 (.chtest 2) with id := 0 }] } : State).req 0).isSome = true) := by decide +kernel

theorem wit_EngineSteps_table :
    ((pigeons (.claim aTable [] 0 (some 0))).spillWork.map workKind, (pigeons (.drain false false 0 1 false)).spillWork.map workKind,
      (pigeons (.lanes .ins [aLane (.step .insertNew)])).spillWork.map workKind) = ([0], [1], [2]) ∧
    ((lab placedKernel (pigeons (.lanes .ins [aLane (.step .insertNew)])) PartCore.empty Core.reset []).spillStep 0 0 { aTable with spill := 0x500000 } 0 0 .ins .insertNew 7
      1).toOption.isSome = true ∧
    ((pigeons (.lanes .ins [aLane (.replied .insertNew ⟨true, 0, 0, 0, ⟨false, false, false⟩⟩)])).table 1).isSome = true := by decide +kernel

theorem wit_EngineSteps_dma :
    (let sh : Shape2d := ⟨0x40, 0, 0, 0, 8, 1, false⟩
     let d : Req := { asking 0x40 (.dma sh 0 0) with id := 0 }
     let b : Req := { asking 0x40 (.burst 0 0 8 false) with id := 1, performed := true, ackPkg := true, ackPod := true, datum := [some 7] }
     let f : Req := { asking 0x40 (.fill 3 0 0 8) with id := 2, performed := true, ackPkg := true, ackPod := true, datum := [some 7] }
     let s : State := { placed with reqs := [d, b] }
     s.burstsOut 0 0 < 32 ∧ (s.ptnOf 0 0).isSome = true ∧ 0 < sh.rows ∧ b.partBack = true ∧ s.burstBlocked b 0 0 8 = false ∧ b.status = .ok ∧ b.parked = false ∧ f.partBack = true ∧
       ((s.part 0 0).wordsAt 0 8).isSome = true ∧ ((({ s.part 0 0 with spoison := [0] } : Part).wordsAt 0 8)).isNone = true ∧
       (({ placed with parts := [(0, { Part.empty with windows := [(3, ⟨r0, 0, 0, 8, 4, 0, 2, 3, false, 0, 0, 1, [], [], none, 0, 0, false, none, none⟩)] })] } : State).window
         0 0 3).isSome = true) := by decide +kernel

/-- A run of scratchpad blocks, with one read ahead and with none; an element of a window, and its pieces. -/
theorem wit_EngineSteps_more :
    (let r : Run := aRun false
     let s : State := lab placedKernel { Part.empty with anvil := { Anvil.reset with cfg := 0xC0C, queue := [.run r] } } PartCore.empty Core.reset []
     (s.anvil 0 0).queue = [.run r] ∧ r.chan = false ∧ r.ahead = [] ∧ r.taking = [] ∧ (s.part 0 0).latchUsed < 2 ∧ s.keepsFor 0 0 = false) ∧
    (let q : Req := { asking 0x40 (.fill 3 0 0 8) with id := 0, performed := true, ackPkg := true, ackPod := true, datum := [some 7] }
     let b : Req := { q with kind := .wback 3 1 0 8 9, id := 1 }
     let s : State := { placed with reqs := [q, b], parts := [(0, { Part.empty with windows := [(3, window3)] })] }
     s.elemParts 0 0 3 0 = [(q, none)] ∧ s.elemParts 0 0 3 1 = [(b, some 9)] ∧ q.partBack = true ∧ b.partBack = true ∧ q.parked = false ∧ b.parked = false ∧ s.window 0 0 3 = some window3) := by
  decide +kernel

/-- A queue of 16 slots of context 0 at 0x30_0000, enabled: a user queue, and a device queue that context 0 may write. -/
def userQueue : Queue := ⟨0x8000000000300000, 0x600000, 0, 1, false, [], none⟩
def deviceQueue : Queue := { userQueue with desc := 0xC000000000300000, widx := 0 }
def office (x : Queue) (slot : List Byte) : State :=
  { placed with
    featDone := true, feat0a := BitVec.allOnes 64, feat1a := BitVec.allOnes 64, queues := [(0, x)]
    hallmark := { Hallmark.reset with booted := true }
    mem := Memory.writeBytes placed.mem 0x300000 slot }
/-- A packet of a one-tile kernel without an argument block or a channel list: VALID, PRI 1, width and height 1, FQ 4. -/
def goodPacket : List Byte := (List.range 64).map fun i => if i = 0 ∨ i = 2 ∨ i = 4 ∨ i = 5 then 1 else if i = 21 then 4 else 0
def aTaken (q : Nat) : Taken := ⟨q, 0, goodPacket, List.replicate 256 0, [], [], true, 0, [], none, 0, false, [], true⟩

theorem wit_SortingOffice_queues :
    (let s := office userQueue []
     s.featDone = true ∧ userQueue.en = true ∧ userQueue.dev = false ∧ deviceQueue.dev = true ∧ userQueue.ctx = 0 ∧ userQueue.size = 16 ∧
       (0x10 : Word).toNat < 2 ^ 32 ∧ ((16 : Nat) + 2 ^ 32 - userQueue.ridx % 2 ^ 32) % 2 ^ 32 ≤ userQueue.size ∧
       userQueue.size < ((17 : Nat) + 2 ^ 32 - userQueue.ridx % 2 ^ 32) % 2 ^ 32) ∧
    (let s := office userQueue goodPacket
     let bytes := (s.devRead ⟨0, 8, .queue 0⟩ (userQueue.slotAt 0) 64).toOption.getD []
     let t : Taken := ⟨0, 0, bytes, [], [], [], false, 0, [], none, 0, false, [], false⟩
     s.hallmark.booted = true ∧ userQueue.waiting ≠ 0 ∧ s.hostRing 0 (userQueue.slotAt 0) = false ∧ le bytes 0 1 = 1 ∧ packetOk t false (s.isRack 0) = true ∧
       packetOk { t with bytes := List.replicate 64 0 } false false = false ∧ (s.passPacket t 5).toOption.isSome = true ∧
       (match s.readArguments t with
         | (.all, u, v) => blockOk u && (v.listPorts 0 u).isSome && !v.classClash 0 u
         | _ => false) = true ∧ s.mayTake 0 = true ∧ s.hostQueue 0 = false ∧ (s.slotBytes 0).toOption = some bytes) ∧
    (let s := office deviceQueue []
     let bytes := (s.devRead ⟨0, 8, .req 0⟩ 0x40 64).toOption.getD []
     deviceQueue.lctx = 0 ∧ launchOk bytes = true ∧ bytes.length = 64 ∧ deviceQueue.waiting < deviceQueue.size ∧ s.launchWaits 0 = [] ∧
       s.hostRing 0 (deviceQueue.slotAt 0) = false ∧ (match s.devWrites ⟨0, 8, .req 0⟩ [(deviceQueue.slotAt 0 + 2, bytes.drop 2), (deviceQueue.slotAt 0 + 1, [0]), (deviceQueue.slotAt 0, [1])] with
         | .ok (none, _) => true
         | _ => false) = true) := by decide +kernel

theorem wit_SortingOffice_admission :
    (let s : State := { office userQueue [] with taken := [aTaken 0], ctxs := [(0, { placedCtx with kernel := none, tmes := [] })], tiles := [], parts := [] }
     s.feature 0 = true ∧ (s.choose s.ranked).isSome = true ∧
       s.tileFits 0 (s.needOf (aTaken 0) 0) = true ∧ s.kernel 0 = none ∧ (s.ctx 0).valid = true ∧ s.hostQueue 0 = false ∧ (aTaken 0).npk = 0 ∧
       (s.passPacket (aTaken 0) 5).toOption.isSome = true ∧ (s.passPacket (aTaken 0) 0).toOption.isSome = true ∧
       (let far : State := { s with queues := [(0, { userQueue with ria := 0x40000000 })], mem := paged.mem }
        (far.passPacket (aTaken 0) 0).toOption.isNone = true)) ∧
    (let s : State := { office userQueue [] with feat0a := 0, areplya := 0x100, host := Memory.writeBytes [] 0x100 (leBytes 8 1) }
     s.feature 0 = false ∧ ofLeBytes (Memory.readBytes s.host 0x100 8) = 1 ∧ s.poisoned .host 0x100 10 = false ∧
       s.poisoned .host 0x100 8 = false ∧ ({ s with hostBad := [0x20] } : State).poisoned .host 0x100 10 = true) ∧
    (let s : State := { lab placedKernel { Part.empty with ended := true, finished := true } PartCore.empty Core.reset [] with parts := [], tiles := [] }
     (s.kernel 0).isSome = true ∧ ({ s with parts := [(0, { Part.empty with ended := true, finished := true })] } : State).kernelDone 0 = true ∧
       (s.decrement 0 0x800000).toOption.isSome = true) := by decide +kernel

/-- A spanning kernel that is admitted and not decided, on a package, with the reports and the decisions. -/
def spanKernel : Kernel := { placedKernel with npk := 1, started := false }
def spanning (pkg : Word) : State :=
  let s := lab spanKernel Part.empty PartCore.empty Core.reset []
  { s with reports := [(0, 0, 1, true), (0, 0, 0, false), (0, 0, 0, true)], ctxs := [(0, { placedCtx with kernel := some spanKernel, pkgself := pkg })] }
theorem wit_SortingOffice_spanning :
    (spanning 0).kernel 0 = some spanKernel ∧ spanKernel.npk = 1 ∧ spanKernel.started = false ∧ spanKernel.span = 0 ∧ spanKernel.killed = false ∧
      (spanning 0).pkgSelf 0 = 0 ∧ (∀ i < spanKernel.npk, (0, 0, i + 1, true) ∈ (spanning 0).reports) ∧ (0, 0, 0, false) ∈ (spanning 0).reports := by
  decide +kernel
theorem wit_SortingOffice_spanningFar : (spanning 1).kernel 0 = some spanKernel ∧ (spanning 1).pkgSelf 0 = 1 ∧ (0, 0, 0, true) ∈ (spanning 1).reports ∧
    (0, 0, 0, false) ∈ (spanning 1).reports := by decide +kernel

/-- One that is yet to be admitted: refused on package 1, and on package 0 with its packet taken. -/
theorem wit_SortingOffice_refused :
    (let rack : Taken := { aTaken 0 with bytes := goodPacket.take 22 ++ [1] ++ goodPacket.drop 23 }
     let s : State := { office userQueue [] with rackq := 0x8000000000000000, taken := [rack], reports := [(0, 0, 0, false)]
                                                 ctxs := [(0, { placedCtx with kernel := none })] }
     let far : State := { s with ctxs := [(0, { placedCtx with kernel := none, pkgself := 1 })] }
     s.kernel 0 = none ∧ s.pkgSelf 0 = 0 ∧ (s.nextSpan 0).isSome = true ∧ s.spans = 0 ∧ (0, 0) ∉ s.doomed ∧ (0, 0, 0, false) ∈ s.reports ∧
       far.kernel 0 = none ∧ far.pkgSelf 0 = 1) := by decide +kernel

theorem wit_SortingOffice_replies :
    (let t : Taken := { aTaken 0 with pending := true }
     let s : State := { office userQueue [] with taken := [t], feat0a := 0, areplya := 0x100, host := Memory.writeBytes [] 0x100 (leBytes 8 1)
                                                 ctxs := [(0, { placedCtx with kernel := none, tmes := [] })], tiles := [], parts := [] }
     s.windowOpen = true ∧ s.feature 0 = false ∧ t.width * t.height = 1 ∧ le (Memory.readBytes s.host 0x100 10) 0 8 = 1 ∧
       le (Memory.readBytes s.host 0x100 10) 8 2 = 0 ∧ s.tileFits 0 (s.needOf t 0) = true ∧ t.fail ≠ some 0) ∧
    (let t : Taken := { aTaken 0 with bytes := goodPacket.take 40 ++ leBytes 8 0x700000 ++ goodPacket.drop 48 }
     let s : State := { office userQueue [] with taken := [t] }
     let v (n : Nat) : State := { s with mem := Memory.writeBytes s.mem 0x700000 (leBytes 8 n) }
     t.unmet = [0] ∧ t.armed = [] ∧ (s.devXlat ⟨0, 8, .depend 0 0⟩ 0x700000 .read).toOption.any (fun p => decide (p.home = .hbm) && !p.is) = true ∧
       ((v 0).checkDepend t 0).toOption = some (true, some 0x700000) ∧ ((v 9).checkDepend t 0).toOption = some (false, some 0x700000)) := by decide +kernel

theorem wit_LinksAndRegisters :
    ((Tab.get PortMode.reset [(63, ⟨true, 4, 0⟩)] 63).up = true ∧ (Tab.get PortMode.reset [] 0).up = false ∧ (Tab.get PortMode.reset [] 0).mode < 2) ∧
    (let s : State := { placed with ualctx := 0x8000000000000000 }
     s.ualctx.getLsbD 63 = true ∧ ualCarries .read 0x40 64 = true ∧ ((s.translate 0 0x40 .read).1 matches .ok ⟨.hbm, 0x40, false⟩) = true ∧
       State.reset.ualctx.getLsbD 63 = false) ∧
    ((2 ^ 35 - 1) * 32 + 32 ≤ Config.hbmBytes) ∧
    (let s : State := { office userQueue [] with halted := true, haltCode := 7, services := [⟨5, 0x30000, 0, 2, []⟩], feat0a := 0, ports := [(0, ⟨0x052, 5, 0, none⟩)] }
     s.courierDown = false ∧ lastingHalt s.haltCode = false ∧ s.haltCode ≠ 0xFFFF0031 ∧ s.feature 1 = false ∧
       s.services.find? (fun f => f.ctx = 5 ∧ f.die % 8 = 2 ∧ f.va = 3 * 2 ^ 16) = some ⟨5, 0x30000, 0, 2, []⟩ ∧ s.hallmark.booted = true ∧ (s.srPort 0).cmd = none ∧ (selRow (s.srPort 0).sel).isSome = true ∧
       (s.sysGet (.port 0) (s.srPort 0).sel).any (fun x => x.toOption == some 0) = true ∧ s.writeCause (s.srPort 0).sel (s.srPort 0).data = none) ∧
    (let q : Req := { asking 0 (.sysw 0 0) with id := 0 }
     let s : State := { placed with reqs := [q] }
     s.req 0 = some q ∧ s.writeAhead q 0 = false) := by decide +kernel

/-- A packet whose argument block is yet to be read, one that is to be passed, and one that waits at a word that does not hold; a taken packet bars
the next; a RIA on a host page that the context may not use. -/
theorem wit_SortingOffice_taken :
    (let t : Taken := { aTaken 0 with pending := false, read := false }
     let s : State := { office userQueue goodPacket with taken := [t] }
     s.taken.find? (fun t => t.queue = 0 && t.unread) = some t ∧ t.fail = none ∧ s.mayTake 0 = false ∧ (match s.readArguments t with
       | (.all, u, v) => blockOk u && (v.listPorts 0 u).isSome && !v.classClash 0 u
       | _ => false) = true ∧ (s.passPacket { t with fail := some 5 } 5).toOption.isSome = true) ∧
    ((office userQueue goodPacket).devRead ⟨0, 8, .queue 0⟩ (userQueue.slotAt 0) 64).toOption.isSome = true ∧
    (let s : State := { office { userQueue with ria := 0x40000000 } goodPacket with mem := Memory.writeBytes (office userQueue goodPacket).mem 0x110008 (leBytes 8 0) }
     s.mayTake 0 = true ∧ s.hostRing 0 (userQueue.slotAt 0) = false) := by decide +kernel

/-- A package that is up and one that is not; a granule that no home is writing; the context of UALCTX. -/
theorem wit_LinksAndRegisters_up :
    (let s := office userQueue []
     s.hallmark.booted = true ∧ State.reset.hallmark.booted = false ∧ s.midWrite 5 = false ∧ s.marked ⟨0, 8, .inbound 0x40⟩ 0x40 true = false ∧
       lastingHalt 0xFFFF0018 = true ∧ s.courierDown = false) := by decide +kernel

theorem wit_HallmarkCommands :
    (let h : Hallmark := { Hallmark.reset with sessions := [(1, true), (2, false)] }
     h.sessions.any (·.2) = true ∧ (2, false) ∈ h.sessions ∧ (1, true) ∈ h.sessions ∧ (∀ x ∈ h.sessions, x.1 ≠ 3) ∧ h.path = .mctp ∧ ({ h with armed := true } : Hallmark).armed = true ∧ h.tamp = false ∧ h.idgone = false ∧ h.store.length < 64 ∧
       recKind (padTo 64 ([] : List Byte)) ≠ 2) ∧ 256 + 2 ^ 23 + ([] : List Byte).length ≤ 256 + 2 ^ 23 ∧ (({ Hallmark.reset with measured := [[1]] } : Hallmark).measurement 1).isSome = true := by decide +kernel

/-- A word that decodes, LI64 and its second word, a word that is rejected, one in the cache, and a page that may be fetched. -/
theorem wit_StepRunsDecoded :
    (let s := State.reset.withFetchWord 64 0x1000020201000000
     s.agenda = [] ∧ s.seat s.cur = .run placedThread ∧ (((s.tick 1).fetchWord ⟨0, 0, 0⟩ 0 0x1000).1 matches .word 0x1000020201000000) = true) ∧
    wantsSecond 0x1000020201000000 = false ∧ wantsSecond 0x3B00090089ABCDEF = true ∧ (decode 0x1000020201000000 0).toOption.isSome = true ∧
    (decode 0x3B00090089ABCDEF 0x01234567).toOption.isSome = true ∧ (decode 0 0).toOption = none ∧ wantsSecond 0 = false ∧
    (decode 0x3B00090089ABCDEF 0x100000000).toOption = none ∧
    (placed.cachedWord 0 0 0x1000 = none ∧ placed.marked ⟨0, 0, .seat ⟨0, 0, 0⟩⟩ 0x1000 true = false ∧ ((placed.translate 0 0x1000 .fetch).1 matches .ok ⟨.hbm, 0x1000, false⟩) = true ∧
      hasStorage placed.carve .hbm 0x1000 8 = true ∧ placed.poisoned .hbm 0x1000 8 = false) ∧
    ((placed.cacheWord 0 0 0x1000 7).cachedWord 0 0 0x1000 = some 7) ∧ placedThread.mid = none ∧
    ({ placedThread with mid := some ⟨.nop g0, [], [], 0, 0, 0⟩ } : Threadlet).mid.isSome = true ∧ State.reset.seat State.reset.cur = .idle := by decide +kernel

/-- A tile that is being moved, an idle seat and one in SAVE. -/
theorem wit_StepRunsDecoded_moving :
    (let s : State := { placed with ctxs := [(0, { placedCtx with tmes := [(0, ⟨.moving, 0⟩)] })] }
     s.agenda = [] ∧ s.seat s.cur = .run placedThread ∧ (s.tme placedThread.ctx placedThread.ltn).st = .moving) ∧
    (placed.setSeat placed.cur (.save placedThread)).seat placed.cur = .save placedThread ∧ (placed.setSeat placed.cur (.save placedThread)).agenda = [] := by
  decide +kernel

theorem wit_EncodeDecode : (Instr.add g0 false .s64 (.w 63) (.f 119) (.w 0)).isSeat = true ∧ (Instr.add g0 false .s64 (.w 63) (.f 119) (.w 0)).wf = true := by
  decide +kernel
theorem wit_DecodedWellFormed : (decode 0x1000020201000000 5).toOption.isSome = true := by decide +kernel
theorem wit_StepKeepsMemory : Memory.wf placed.mem = true ∧ Memory.wf placed.host = true ∧ completes placed = true := by decide +kernel

/-! ## Results of the spec's worked examples, one step each -/

/-- The threadlet of the current seat after an instruction, from w, v and k registers. -/
def run1 (w : Table Word) (v : Table (BitVec 512)) (k : Table Word) (i : Instr) : Option (State × Threadlet) :=
  match exec i (world placedCtx Part.empty placedFrame { thread with w := w, v := v, k := k }) with
  | .next s => (match s.seat s.cur with
    | .run t => some (s, t)
    | _ => none)
  | _ => none
def getW (n : Fin 64) (o : Option (State × Threadlet)) : Option (Word × Fl) := o.map fun e => (e.1.readOp (e.1.view e.2) (.w n), e.2.flags)
def getLane (n : Fin 32) (w j : Nat) (o : Option (State × Threadlet)) : Option (Nat × Fl) := o.map fun e => (lane (e.2.vec (.v n)) w j, e.2.flags)

/-- 05: 100 + 100 in s8 saturates to 127 with SAT, or wraps to -56; 200 + 100 in z8 is 44. -/
theorem test_add : getW 3 (run1 [(1, 100), (2, 100)] [] [] (.add g0 true .s8 (.w 3) (.w 1) (.w 2))) = some (127, Fl.sat) ∧
    getW 3 (run1 [(1, 100), (2, 100)] [] [] (.add g0 false .s8 (.w 3) (.w 1) (.w 2))) = some (0xFFFFFFFFFFFFFFC8, 0) ∧
    getW 3 (run1 [(1, 200), (2, 100)] [] [] (.add g0 false .z8 (.w 3) (.w 1) (.w 2))) = some (44, 0) := by decide +kernel
/-- 05: the products of 0x8000_0000 and 2. -/
theorem test_mul : getW 3 (run1 [(1, 0x80000000), (2, 2)] [] [] (.mulh g0 .s32 (.w 3) (.w 1) (.w 2))) = some (0xFFFFFFFFFFFFFFFF, 0) ∧
    getW 3 (run1 [(1, 0x80000000), (2, 2)] [] [] (.mul g0 false .s32 (.w 3) (.w 1) (.w 2))) = some (0, 0) ∧
    getW 3 (run1 [(1, 0x80000000), (2, 2)] [] [] (.mulh g0 .z32 (.w 3) (.w 1) (.w 2))) = some (1, 0) := by decide +kernel
/-- 05: slot 5 put into a continuation by BFI with the specification 0x31F; the rest stays. -/
theorem test_bfi : getW 3 (run1 [(1, 0x0002582481230580), (2, 5), (4, 0x31F)] [] [] (.bfi g0 (.w 3) (.w 1) (.w 2) (.w 4))) =
    some (0x0002582681230580, 0) := by decide +kernel
/-- 05: one rounding against two. -/
theorem test_ffma : getW 3 (run1 [(1, 0x3F800800)] [] [] (.fmul g0 .f32 (.rm .rne) (.w 3) (.w 1) (.w 1))) = some (0x3F801000, Fl.nx) ∧
    getW 4 (run1 [(3, 0x3F801000), (2, 0xBF801000)] [] [] (.fadd g0 .f32 (.rm .rne) (.w 4) (.w 3) (.w 2))) = some (0, 0) ∧
    getW 5 (run1 [(1, 0x3F800800), (2, 0xBF801000)] [] [] (.ffma g0 .f32 .rne (.w 5) (.w 1) (.w 1) (.w 2))) = some (0x33800000, 0) := by decide +kernel
/-- 03 and 05: stochastic rounding of 1 + 2^-10 to bf16 rounds up from 0xE000_0000 on. -/
theorem test_fcvt_sr : getW 3 (run1 [(5, 0x3F802000), (6, 0xE0000000)] [] [] (.fcvt g0 false .bf16 .f32 (.sr (.w 6)) (.w 3) (.w 5))) = some (0x3F81, Fl.nx) ∧
    getW 3 (run1 [(5, 0x3F802000), (6, 0xDFFFFFFF)] [] [] (.fcvt g0 false .bf16 .f32 (.sr (.w 6)) (.w 3) (.w 5))) = some (0x3F80, Fl.nx) := by decide +kernel
/-- 03: 470.0 to e4m3 overflows, and saturates with SAT; 464.0 is a tie that goes to 448. -/
theorem test_fcvt_e4m3 : getW 3 (run1 [(5, 0x43EB0000)] [] [] (.fcvt g0 false .e4m3 .f32 (.rm .rne) (.w 3) (.w 5))) = some (0x7F, Fl.of ||| Fl.nx) ∧
    getW 3 (run1 [(5, 0x43EB0000)] [] [] (.fcvt g0 true .e4m3 .f32 (.rm .rne) (.w 3) (.w 5))) = some (0x7E, Fl.sat ||| Fl.nx) ∧
    getW 3 (run1 [(5, 0x43E80000)] [] [] (.fcvt g0 false .e4m3 .f32 (.rm .rne) (.w 3) (.w 5))) = some (0x7E, Fl.nx) := by decide +kernel
/-- 02: under the guard !k3 with k3 = 1 nothing is executed; with k3 = 2 it is, since only bit 0 counts. -/
theorem test_guard : getW 1 (run1 [(2, 3), (3, 4)] [] [(3, 1)] (.add ⟨true, 3⟩ false .s64 (.w 1) (.w 2) (.w 3))) = some (0, 0) ∧
    getW 1 (run1 [(2, 3), (3, 4)] [] [(3, 2)] (.add ⟨true, 3⟩ false .s64 (.w 1) (.w 2) (.w 3))) = some (7, 0) := by decide +kernel
/-- 06: a saturating lane. -/
theorem test_vadd : getLane 1 32 0 (run1 [] [(2, 0x7FFFFFF0), (3, 0x20)] [] (.vadd g0 true .s32 (.v 1) (.v 2) (.v 3))) = some (0x7FFFFFFF, Fl.sat) := by
  decide +kernel
/-- 06: 100 + (5 - 12 + 21 - 32) = 82. -/
theorem test_vdot : getLane 1 32 0 (run1 [] [(1, 100), (2, 0xFC03FE01), (3, 0x08070605)] [] (.vdot g0 .s8 .rne (.v 1) (.v 2) (.v 3))) = some (0x52, 0) := by
  decide +kernel
/-- 06: 1.0 and 3.0 of e4m3 packed into one byte of e2m1. -/
theorem test_vpack : getLane 1 8 0 (run1 [] [(2, 0x4438)] [] (.vpack g0 false .e2m1 .e4m3 .rne (.v 1) (.v 2) (.v 3))) = some (0x52, 0) := by decide +kernel
/-- 06 and 03: the first block of the counter generator, and lane 4 untouched under a mask of lanes 0 to 3. -/
theorem test_vrng : (List.range 5).map (fun j => getLane 1 32 j (run1 [(2, 0x0000000200000001), (3, 0x0000000400000003), (4, 0x0000000600000005)] [] [(5, 15)]
    (.vrng ⟨false, 5⟩ (.v 1) (.w 2) (.w 3) (.w 4)))) =
    [0x2AC2B5E9, 0x3868A289, 0xA4B15766, 0xDFE3CD3D, 0].map fun n => some (n, 0) := by decide +kernel
/-- 03: sixteen lanes, 2^24 and fifteen of 1.0: the tree gives 16,777,230 and the scan's last lane 16,777,216. -/
def sixteen : BitVec 512 := BitVec.ofNat 512 (0x4B800000 + ((List.range 15).map fun j => 0x3F800000 * 2 ^ (32 * (j + 1))).sum)
theorem test_vred : getW 1 (run1 [] [(2, sixteen)] [] (.vred g0 .add .f32 (.w 1) (.v 2))) = some (0x4B800007, Fl.nx) := by decide +kernel
theorem test_vscan : getLane 1 32 15 (run1 [] [(2, sixteen)] [] (.vscan g0 .add .f32 (.v 1) (.v 2))) = some (0x4B800000, Fl.nx) := by decide +kernel
/-- 05: LOOP with D = 1 falls through, and with 2 goes back one word. -/
theorem test_loop : ((run1 [(1, 1)] [] [] (.loop g0 (.w 1) (-1))).map fun e => (e.2.pc, e.1.readOp (e.1.view e.2) (.w 1))) = some (0x1008, 0) ∧
    ((run1 [(1, 2)] [] [] (.loop g0 (.w 1) (-1))).map fun e => (e.2.pc, e.1.readOp (e.1.view e.2) (.w 1))) = some (0xFF8, 1) := by decide +kernel
/-- 06: zr + 192 is beyond a small frame: the seat traps. -/
theorem test_ldf_small : (match exec (.ldf g0 (.v 3) .zr 3) small, exec (.ldf g0 (.v 3) .zr 2) small with
    | .next s, .next u => (s.seat s.cur matches .run _, u.seat u.cur matches .run _)
    | _, _ => (true, false)) = (false, true) := by decide +kernel
/-- 07: the image of frame 3 of core 1 of tile 9 lies at SPB + (37 x 256 + 3) x 2,048. -/
theorem test_image_address : ({ State.reset with ctxs := [(0, { placedCtx with kernel := some { placedKernel with spb := 0x0000400000000000 } })] } : State).imageVa
    ⟨0, 9, 1, 3⟩ = 0x0000400001281800 := by decide +kernel
/-- 07: the fields of the continuation 0x0002_5824_8123_0580. -/
theorem test_continuation : (let c : Word := 0x0002582481230580
    contPkg c = 0 ∧ contLtn c = 37 ∧ contCore c = 2 ∧ contFrm c = 9 ∧ contSlot c = 1 ∧ contRtag c = 0x0123 ∧ contWord c = 5 ∧ contV c = true) := by decide +kernel
/-- 09: PA 0x1_2345_6E00 belongs to slice 66, on die 1. -/
theorem test_home : homeSlice 0x123456E00 = 66 ∧ homeDie 0x123456E00 = 1 := by decide +kernel
/-- R33: the flag register is read and cleared. -/
theorem test_flags : ((run1 [(1, 1)] [] [] (.flags g0 (.w 7))).map fun e => (e.1.readOp (e.1.view e.2) (.w 7), e.2.flags)) = some (0, 0) := by decide +kernel
/-- R383: HALT of a privileged context halts the package with its code. -/
theorem test_halt : (match exec (.halt g0 (.w 1)) base with
    | .next s => (s.halted, s.haltCode)
    | _ => (false, 0)) = (true, 5) := by decide +kernel
/-- R77: a placed instruction is fetched and run by a step: w2 + w1 with the operands of reset. -/
theorem test_step : (match step (State.reset.withFetchWord 64 0x390001000000000A) with
    | .next s => (match s.seat s.cur with
      | .run t => some (s.readOp (s.view t) (.w 1), t.pc)
      | _ => none)
    | _ => none) = some (10, 0x1008) := by decide +kernel
/-- 13: the hash values of R302. -/
theorem test_hash : hash64 1 7 = 107 ∧ hash64 1 11 = 1719 ∧ hash64 2 7 = 86 ∧ hash64 2 11 = 1390 ∧ phHash 1 = 0xD6E8FEB8B0B1032B := by decide +kernel
/-- R211, R400: another package's ILD of an empty word waits, its IST answers it with the datum, and a second IST is DOUBLE_WRITE. -/
theorem test_foreign : (let up : State := { placed with hallmark := { Hallmark.reset with booted := true } }
    let s := (((up.outside (.remoteSync 3 .ild 0x40)).outside (.remoteSync 4 (.ist 0x1122) 0x40)).outside
      (.remoteSync 5 (.ist 9) 0x40))
    (s.foreign, s.told, s.full)) = ([], [(3, .ok, [0x22, 0x11, 0, 0, 0, 0, 0, 0]), (4, .ok, []), (5, .doubleWrite, [])], [8]) := by decide +kernel
/-- 03 (R42, R43): a quiet NaN with one number gives the number and no flag, a signalling one sets NV; a lone NaN lane of a VRED is canonical. -/
theorem test_nan : floatMinMax false .f32 0x7FC00001 0x3F800000 = (0x3F800000, 0) ∧ floatMinMax true .f32 0x3F800000 0x7F800001 = (0x3F800000, Fl.nv) ∧
    getW 1 (run1 [] [(2, 0xFFA00000)] [(5, 1)] (.vred ⟨false, 5⟩ .add .f32 (.w 1) (.v 2))) = some (0x7FC00000, Fl.nv) := by decide +kernel
/-- R91: two seats each issue an ADD of 1 to the same frame word before either retires; f5 ends at 1. -/
theorem test_race : (let i : Instr := .add g0 false .s64 (.f 5) (.f 5) (.w 1)
    let t : Threadlet := { placedThread with w := [(1, 1)], mid := some ⟨i, [], [], 0, 0, 0⟩ }
    let two : State := { placed with tiles := [(0, { Tile.reset with cores := [(0, { Core.reset with seats := [(0, .run t), (1, .run t)] })] })]
                                     agenda := [.seat ⟨0, 0, 0⟩ 1, .seat ⟨0, 0, 1⟩ 1] }
    match step two with
    | .next a => (match step a with
      | .next b => (b.frame r0).map fun f => f.word 5
      | _ => none)
    | _ => none) = some 1 := by decide +kernel
/-- R435, R437: the alarm's code stands over the torus failure's; a reset clears the sample. -/
theorem test_alarm : (match exec .tamperAlarm { State.reset with halted := true, haltCode := 0xFFFF0018, hallmark := { Hallmark.reset with armed := true } } with
    | .next s => s.haltCode
    | _ => 0) = 0xFFFF0030 := by decide +kernel

/-! ## System requests: traps to resume, translations to drop, tiles to move -/

/-- SYSW of CWGT of the own context with the weight 5, and of THC with 0. -/
def writerThread : Threadlet := { thread with w := [(1, BitVec.ofNat 64 (2 ^ 62 + 0x102)), (2, 5), (3, 0x1001), (4, 1)] }
theorem wit_SystemInstructions_write :
    (let s := world placedCtx Part.empty placedFrame writerThread
     runs s writerThread (.sysw g0 (.w 1) (.w 2) (.slot 0)) = true ∧ (selRow (BitVec.ofNat 64 (2 ^ 62 + 0x102))).isSome = true ∧
       s.writeCause (s.readOp (s.view writerThread) (.w 1)) (s.readOp (s.view writerThread) (.w 2)) = none) := by decide +kernel

/-- Entry 0 of the trap queue, which describes a seat of the parked frame r0 at PC 0x1000, or one whose CAUSE is 0; and the FRES of it. -/
def entryOf (cause : Byte) : List Host.Cell :=
  ([(0, cause), (2, 1), (8, 0x80), (9, 0xFF), (17, 0x10), (3153, 0x10)] : List (Nat × Byte)).filterMap fun e => if e.2 = 0 then none else some (0x201000 + e.1, e.2)
def resuming (cause : Byte) (k : FresKind) : State :=
  { placed.setFrame r0 { placedFrame with st := .parked, nt := 1, runs := 0 } with
    mem := placed.mem ++ entryOf cause
    reqs := [{ base.ask thread (.fres g0 k (.w 1) (.w 2) (.slot 0)) (.fres k 0 0) (.slot 0) 0xFF with id := 0 }] }
def readEntry (cause : Byte) (k : FresKind) : List Byte :=
  ((resuming cause k).devRead ⟨0, 0, .req 0⟩ 0x201000 4096).toOption.getD []
theorem wit_SystemInstructions_fres :
    ([.retry, .skip, .kill] : List FresKind).all (fun k =>
      let s := resuming 9 k
      (s.req 0).any (fun q => decide (q.kind = .fres k 0 0) && decide (s.reqDev 0 q = ⟨0, 0, .req 0⟩)) && decide (s.trapEntry 0 0 = 0x201000) &&
        (Tab.find (s.ctx 0).saved (0 % s.trapSize 0)).isNone) = true ∧ ((resuming 9 .skip).devWrite ⟨0, 0, .req 0⟩ 0x201000 [0]).toOption.isSome = true ∧
    (let num (o n : Nat) : Nat := ofLeBytes (((readEntry 9 .skip).drop o).take n)
     let cont : Word := BitVec.ofNat 64 (num 8 8)
     num 0 1 = 9 ∧ num 2 1 = 1 ∧ (⟨0, contLtn cont, contCore cont, contFrm cont⟩ : FrameRef) = r0 ∧ contRtag cont = 0) ∧
    recordMbz (readEntry 9 .skip) = true ∧ ofLeBytes ((readEntry 0 .retry).take 1) = 0 ∧
    (resuming 9 .kill).frame r0 = some { placedFrame with st := .parked, nt := 1, runs := 0 } ∧ placedFrame.rtag = 0 := by decide +kernel

/-- What a TLBI drops and keeps, a request that used what it drops, and the wait that it leaves. -/
theorem wit_SystemInstructions_tlbi :
    (let e : TlbEntry := ⟨0, 0, 30, 0x1B⟩
     let r : Req := { asking 0x40 (.load 8 false) with phys := some ⟨.hbm, 0x40, false⟩, id := 3 }
     let s : State := { placed with tlb := [e, ⟨1, 0, 30, 0x1B⟩], reqs := [r] }
     r ∈ s.reqs ∧ r.phys.isSome = true ∧ e ∈ s.tlb ∧ e.ctx = r.ref.ctx ∧ e.base ≤ r.curVa ∧ r.curVa < e.base + 2 ^ e.size ∧
       (let h : Held := ⟨r0, true, [], [3], .system 7⟩
        h.body = .system 7)) := by decide +kernel

/-! ### A tile that is saved and restored -/

/-- A fold that each element leaves where it is. -/
theorem foldl_stuck {α β : Type} {f : β → α → β} {b : β} (l : List α) (h : ∀ a ∈ l, f b a = b) : l.foldl f b = b := by
  induction l with
  | nil => rfl
  | cons a l ih =>
    rw [List.foldl_cons, h a (by simp)]
    exact ih fun x hx => h x (by simp [hx])

/-- A kernel of two tiles, whose tile images lie at EVB. -/
def movable (l : List (Nat × Tme)) (evb : Word) : Ctx := { placedCtx with kernel := some pair, evb := evb, tmes := l }
def moveReq (k : ReqKind) : Req := { base.ask thread (.evictSave g0 (.w 1) (.slot 0)) k (.slot 0) 0xFF with id := 0 }
/-- Tile 1 is MOVING. -/
def leaving (evb : Word) (p : Part) : State :=
  { placed with ctxs := [(0, movable [(0, ⟨.resident, 0⟩), (1, ⟨.moving, 1⟩)] evb)], parts := placed.parts ++ [(1, p)], reqs := [moveReq (.evict 0 1)] }

/-- Below 1 GiB the placed tables give every address itself, and let it be read and written. -/
theorem walk_low (s : State) (va : Nat) (h : va < 2 ^ 30) (h3 : s.walkLevel 0 0x100000 3 = .leaf 0x110001 0) (h2 : s.walkLevel 0 0x110000 2 = .leaf 0x1B 30)
    (hp : (s.ctx 0).ptr = 0x10) (hv : (s.ctx 0).valid = true) : s.walk 0 va = .leaf 0x1B 30 := by
  have e3 : s.walkLevel va 0x100000 3 = s.walkLevel 0 0x100000 3 := by
    have q : va / 549755813888 = 0 := Nat.div_eq_of_lt (by omega)
    simp [State.walkLevel, q]
  have e2 : s.walkLevel va 0x110000 2 = s.walkLevel 0 0x110000 2 := by
    have q : va / 1073741824 = 0 := Nat.div_eq_of_lt (by omega)
    simp [State.walkLevel, q]
  have a : 2 ^ 16 * (s.ctx 0).ptr.toNat = 0x100000 := by rw [hp]; rfl
  have b : ptePa 0x110001 = 0x110000 := by decide
  simp only [State.walk, hv, a, State.walk.go, e3, h3, b, e2, h2]
  rfl

theorem xlat_low (s : State) (d : Dev) (va : Nat) (acc : Access) (ha : acc ≠ .fetch) (h : va < 2 ^ 30) (hd : d.ctx = 0)
    (h3 : s.walkLevel 0 0x100000 3 = .leaf 0x110001 0) (h2 : s.walkLevel 0 0x110000 2 = .leaf 0x1B 30)
    (hp : (s.ctx 0).ptr = 0x10) (hv : (s.ctx 0).valid = true) (hf : s.failedPages = []) : s.devXlat d va acc = .ok ⟨.hbm, va, false⟩ := by
  have hw := walk_low s va h h3 h2 hp hv
  have hm : va % 2 ^ 30 = va := Nat.mod_eq_of_lt h
  have hl : s.leafPhys 0 va 0x1B 30 = ⟨.hbm, va, false⟩ := by
    have : va < Config.ldBase := by simp only [Config.ldBase]; omega
    have e : ptePa 27#64 = 0 := by decide
    simp [State.leafPhys, pteHost, ptePkg, pteLd, pteIs]
    rw [e]
    omega
  have hs : hasStorage s.carve .hbm va 1 = true := by
    have : va + 1 ≤ Config.hbmBytes := by simp only [Config.hbmBytes]; omega
    simp [hasStorage, this]
  have hn : ¬ 2 ^ 52 ≤ va := by omega
  have ht : (s.translate 0 va acc).1 = .ok ⟨.hbm, va, false⟩ := by
    simp only [State.translate, hn, if_false, hw, State.checkLeaf, hl]
    cases acc <;> simp_all [pteW]
  simp [State.devXlat, State.marked, hf, hd, ht, hs]

/-- A device's write below 1 GiB to plain memory that holds no poison. -/
theorem write_low (s : State) (d : Dev) (a n : Nat) (data : List Byte) (h : a + n < 2 ^ 30) (hd : d.ctx = 0)
    (h3 : s.walkLevel 0 0x100000 3 = .leaf 0x110001 0) (h2 : s.walkLevel 0 0x110000 2 = .leaf 0x1B 30)
    (hp : (s.ctx 0).ptr = 0x10) (hv : (s.ctx 0).valid = true) (hf : s.failedPages = []) (hg : s.granules = []) : ∃ u, s.devPut d a n data = .ok u := by
  have low (e : Nat × Nat) (he : e ∈ pieces a n) : s.devXlat d e.1 .write = .ok ⟨.hbm, e.1, false⟩ := by
    have := mem_pieces he
    exact xlat_low s d _ .write (by decide) (by omega) hd h3 h2 hp hv hf
  have check : s.devCheck d a n = .ok () := by
    refine foldl_stuck _ fun e he => ?_
    simp [low e he, State.writePoisoned, hg]
  have far : s.farWrites d a n data = .ok () := by
    refine foldl_stuck _ fun e he => ?_
    simp [low e he]
  simp [State.devPut, check, far]

/-- A restore whose image is marked throughout stands; one that differs in its first 32 bytes does not. -/
theorem stands_marked (s : State) (d : Dev) (ltn : Nat) (h : BitVec 16777216) : s.imageStands d ltn h (List.range 65536) = .ok true := by
  refine foldl_stuck _ fun g hg => ?_
  simp [List.mem_range.1 hg]

theorem stands_first (s : State) (d : Dev) (ltn : Nat) (h : BitVec 16777216) :
    s.imageStands d ltn h ((List.range 65535).map (· + 1)) =
      (s.devRead d (s.tileImage d.ctx ltn) 32).map fun l => decide (ofLeBytes l = h.toNat % 2 ^ 256) := by
  have split' : List.range 65536 = 0 :: (List.range 65535).map (· + 1) := List.range_succ_eq_map
  rw [State.imageStands, split', List.foldl_cons]
  have no : ((List.range 65535).map (· + 1)).contains 0 = false := by simp
  simp only [no]
  generalize hx : (s.devRead d (s.tileImage d.ctx ltn) 32).map (fun l => decide (ofLeBytes l = h.toNat % 2 ^ 256)) = x
  have start : (s.devRead d (s.tileImage d.ctx ltn + 32 * 0) 32).map (fun l => true && decide (ofLeBytes l = h.toNat / 2 ^ (256 * 0) % 2 ^ 256)) = x := by
    simpa using hx
  simp only [Bool.false_eq_true, if_false, start]
  refine foldl_stuck _ fun g hg => ?_
  cases x with
  | error e => rfl
  | ok b =>
    have : ((List.range 65535).map (· + 1)).contains g = true := List.contains_iff_mem.2 hg
    simp only [this, if_true]

/-- A device's write waits where its first page is yet to be brought. -/
theorem write_wait (s : State) (d : Dev) (a n : Nat) (m : Miss) (data : List Byte) (hn : 0 < n)
    (hx : s.devXlat d a .write = .error (.wait m)) : s.devPut d a n data = .error (.wait m) := by
  obtain ⟨k, l, hk⟩ := pieces_head (va := a) hn
  have check : s.devCheck d a n = .error (.wait m) := by
    rw [State.devCheck, hk, List.foldl_cons]
    simp only [hx]
    exact foldl_stuck _ fun e _ => rfl
  simp [State.devPut, check]

/-- Without poison, the image is written as its 2 MiB are. -/
theorem save_is (s : State) (ctx ltn ptn : Nat) (h : BitVec 16777216) (hp : s.ptnOf ctx ltn = some ptn)
    (hi : (s.part ctx ltn).image = some h) (hb : (s.part ctx ltn).imageBad = []) (x : Except DevErr State)
    (hx : s.devPut ⟨ctx, ptnDie ptn, .tile ltn⟩ (s.tileImage ctx ltn) 2097152 (tileBytes h) = x) :
    (∀ u, x = .ok u → ∃ t, s.saveTile ctx ltn = .ok t) ∧ ∀ e, x = .error e → s.saveTile ctx ltn = .error e := by
  have hm : s.imageMarks ⟨ctx, ptnDie ptn, .tile ltn⟩ ltn = [] := by simp [State.imageMarks, hb]
  have hw : s.writeTile ⟨ctx, ptnDie ptn, .tile ltn⟩ ltn h = x := by
    simp [State.writeTile, hm, hx, State.farMarks]
    cases x <;> simp [Except.map, Except.bind]
  constructor
  · rintro u rfl
    simp [State.saveTile, hp, hi, hw, Except.map]
  · rintro e rfl
    simp [State.saveTile, hp, hi, hw, Except.map]

/-- Tile 1 as its image is laid out. -/
def laid (evb : Word) (m : List Host.Cell) : State := State.layImage { (leaving evb Part.empty).stopSeatsOf 0 1 1 with mem := m } 0 1

theorem wit_SystemInstructions_save :
    (∃ s3, (laid 0x400000 placed.mem).saveTile 0 1 = .ok s3) ∧ (∃ m, (laid 0x40000000 paged.mem).saveTile 0 1 = .error (.wait m)) ∧
    ([0x400000, 0x40000000] : List Word).all (fun a => decide (((leaving a Part.empty).req 0).map (·.kind) = some (.evict 0 1)) &&
      decide (((leaving a Part.empty).tme 0 1).st = .moving) && ((leaving a Part.empty).stopSeatsOf 0 1 1).tileStill 0 1 &&
      !((leaving a { Part.empty with anvil := { Anvil.reset with writing := some (0, []) } }).stopSeatsOf 0 1 1).tileStill 0 1) = true := by
  refine ⟨?_, ?_, by decide +kernel⟩
  · obtain ⟨h, hh⟩ := Option.isSome_iff_exists.1 (show ((laid 0x400000 placed.mem).part 0 1).image.isSome = true by decide +kernel)
    obtain ⟨u, hu⟩ := write_low (laid 0x400000 placed.mem) ⟨0, ptnDie 1, .tile 1⟩ ((laid 0x400000 placed.mem).tileImage 0 1) 2097152 (tileBytes h)
      (by decide +kernel) rfl (by decide +kernel) (by decide +kernel) (by decide +kernel) (by decide +kernel) (by decide +kernel)
      (by decide +kernel)
    exact (save_is _ 0 1 1 h (by decide +kernel) hh (by decide +kernel) _ hu).1 u rfl
  · obtain ⟨h, hh⟩ := Option.isSome_iff_exists.1 (show ((laid 0x40000000 paged.mem).part 0 1).image.isSome = true by decide +kernel)
    have hw := write_wait (laid 0x40000000 paged.mem) ⟨0, ptnDie 1, .tile 1⟩ ((laid 0x40000000 paged.mem).tileImage 0 1) 2097152
      ⟨⟨0, ptnDie 1, .tile 1⟩, 0x40200000, none⟩ (tileBytes h) (by decide) (by decide +kernel)
    exact ⟨_, (save_is _ 0 1 1 h (by decide +kernel) hh (by decide +kernel) _ hw).2 _ rfl⟩

/-- Tile 1 is AWAY, with its image; tile 1 of the package is free. -/
def gone (image : BitVec 16777216) (bad : List Nat) : State :=
  { placed with
    ctxs := [(0, movable [(0, ⟨.resident, 0⟩), (1, ⟨.away, 0⟩)] 0x400000)]
    parts := placed.parts ++ [(1, { Part.empty with image := some image, imageBad := bad })], reqs := [moveReq (.restore 0 1 0)] }
theorem gone_bad (h : BitVec 16777216) (l : List Nat) : ((gone h l).part 0 1).imageBad = l := rfl
theorem wit_SystemInstructions_restore :
    (∀ h, (gone h (List.range 65536)).imageStands ⟨0, 0, .tile 1⟩ 1 h ((gone h (List.range 65536)).part 0 1).imageBad = .ok true) ∧
    (gone 1 ((List.range 65535).map (· + 1))).imageStands ⟨0, 0, .tile 1⟩ 1 1 ((gone 1 ((List.range 65535).map (· + 1))).part 0 1).imageBad = .ok false ∧
    (let s : State := { gone 1 ((List.range 65535).map (· + 1)) with
       mem := paged.mem, ctxs := [(0, movable [(0, ⟨.resident, 0⟩), (1, ⟨.away, 0⟩)] 0x40000000)] }
     s.imageStands ⟨0, 0, .tile 1⟩ 1 1 ((List.range 65535).map (· + 1)) = .error (.wait ⟨⟨0, 0, .tile 1⟩, 0x40200000, none⟩)) ∧
    (let s := gone 0 []
     (s.req 0).map (·.kind) = some (.restore 0 1 0) ∧ (s.tme 0 1).st = .away ∧ s.kernel 0 = some pair ∧ s.canResume 0 1 (s.ptnAt 0 0) pair = false ∧
       s.canResume 0 1 (s.ptnAt 1 0) pair = true ∧ s.ptnAt 1 0 = 16 ∧ s.canResume 0 1 1 pair = true ∧
       ((s.devDone ⟨0, 0, .tile 1⟩ (s.tileImage 0 1) 2097152).resumeTile 0 1 16 pair).isSome = true) := by
  refine ⟨fun h => by rw [gone_bad]; exact stands_marked _ _ _ _, by rw [gone_bad]; exact (stands_first _ _ _ _).trans (by decide +kernel), (stands_first _ _ _ _).trans (by decide +kernel), by decide +kernel⟩

/-- A save of tile 1 by tile 0 and a restore of it, which nothing refuses: the named tile is RESIDENT, and AWAY. -/
theorem wit_SystemInstructions_move :
    (let c (st : TileState) : Ctx := movable [(0, ⟨.resident, 0⟩), (1, ⟨st, 1⟩)] 0x400000
     let s (st : TileState) : State := world (c st) Part.empty placedFrame { thread with w := [(1, 1)] }
     (runs (s .resident) { thread with w := [(1, 1)] } (.evictSave g0 (.w 1) (.slot 0)) && runs (s .away) { thread with w := [(1, 1)] } (.evictRestore g0 (.w 1) (.slot 0)) &&
       !(s .resident).evictRefused 0 1 .resident && !(s .away).evictRefused 0 1 .away) = true ∧ tileCtx 1 = 0 ∧ tileLtn 1 = 1 ∧ thread.ltn ≠ 1) := by decide +kernel

end Sys2Proof.Tests
end

section
/-! PROOFS. Encoding then decoding (O56). The decoder dispatches on the opcode and then reads one row of the encoding tables; the same row
is reached here from the instruction (`rowDecoder`), so that each row is a statement about one short decoder. -/

namespace Sys2Proof

/-! What the decoder's checks answer where they pass. -/

theorem ok_bind {α β : Type} (a : α) (f : α → Except Reject β) : ((Except.ok a : Except Reject α) >>= f) = f a := rfl
@[simp] theorem orIllegal_some {α : Type} (a : α) : orIllegal (some a) = .ok a := rfl
@[simp] theorem orOperand_some {α : Type} (a : α) : orOperand (some a) = .ok a := rfl
@[simp] theorem permit_true : permit true = .ok () := rfl
@[simp] theorem zeros_true : zeros true = .ok () := rfl
theorem permit_of {b : Bool} (h : b = true) : permit b = .ok () := by rw [h, permit_true]
theorem zeros_of {b : Bool} (h : b = true) : zeros b = .ok () := by rw [h, zeros_true]

/-! What is read back from a byte that holds two fields (R64 to R67, R73). -/

@[simp] theorem modField_ty (t : Ty) {m : Nat} (h : m < 8) : (t.code * 8 + m) / 8 = t.code := by omega
@[simp] theorem modField_rm (t : Ty) {m : Nat} (h : m < 8) : (t.code * 8 + m) % 8 = m := by omega
theorem RM.code_lt_eight (m : RM) : m.code < 8 := by have := m.code_lt; omega
theorem Rounding.code_lt_eight (r : Rounding) : r.code < 8 := by have := r.code_lt; omega
@[simp] theorem RM.code_mod (m : RM) : m.code % 8 = m.code := Nat.mod_eq_of_lt m.code_lt_eight
@[simp] theorem Rounding.code_mod (r : Rounding) : r.code % 8 = r.code := Nat.mod_eq_of_lt r.code_lt_eight
@[simp] theorem Ty.code_mod (t : Ty) : t.code % 32 = t.code := by cases t <;> rfl
@[simp] theorem Ty.code_div (t : Ty) : t.code / 32 = 0 := by cases t <;> rfl
theorem size_lt_eight (n : Fin 7) : n.val < 8 := by omega
@[simp] theorem size_div_eight (n : Fin 7) : n.val / 8 = 0 := by omega
@[simp] theorem size_div (n : Fin 7) : n.val / 32 = 0 := by omega
@[simp] theorem size_mod (n : Fin 7) : n.val % 8 = n.val := by omega
@[simp] theorem memLow_scope (sc : Scope) (o : MemOrder) {n : Nat} (h : n < 8) : (n + sc.code * 32 + o.code * 8) / 32 = sc.code := by
  have := o.code_lt
  omega
@[simp] theorem memLow_order (sc : Scope) (o : MemOrder) {n : Nat} (h : n < 8) : (n + sc.code * 32 + o.code * 8) / 8 % 4 = o.code := by
  have := o.code_lt
  omega
@[simp] theorem memLow_sz (sc : Scope) (o : MemOrder) {n : Nat} (h : n < 8) : (n + sc.code * 32 + o.code * 8) % 8 = n := by
  omega
@[simp] theorem prefLow_scope (n : Fin 7) (s : Scope) : (n.val + s.code * 32) / 32 = s.code := by omega
@[simp] theorem prefLow_order (n : Fin 7) (s : Scope) : (n.val + s.code * 32) / 8 % 4 = 0 := by omega
@[simp] theorem prefLow_sz (n : Fin 7) (s : Scope) : (n.val + s.code * 32) % 8 = n.val := by omega
@[simp] theorem drainLow_ty (m : RM) (t : Ty) : (m.code * 32 + t.code) % 32 = t.code := by have := t.code_lt; omega
@[simp] theorem drainLow_rm (m : RM) (t : Ty) : (m.code * 32 + t.code) / 32 = m.code := by have := t.code_lt; omega
theorem signalLow_status (st : Status) (r : Bool) : Status.ofCode (st.code + bitOf r * 8) = st := by cases st <;> cases r <;> rfl
theorem signalLow_mbz (st : Status) (r : Bool) : (st.code + bitOf r * 8) / 16 = 0 := by cases st <;> cases r <;> rfl
theorem signalLow_rel (st : Status) (r : Bool) : (st.code + bitOf r * 8) / 8 % 2 = bitOf r := by cases st <;> cases r <;> rfl
@[simp] theorem accFn_kind (k : AccKind) (b : Bool) : (k.code * 2 + bitOf b) / 2 = k.code := by have := bitOf_lt b; omega
theorem drnFn_mbz (b c : Bool) : (bitOf c * 2 + bitOf b) / 4 = 0 := by cases b <;> cases c <;> rfl
theorem drnFn_chan (b c : Bool) : (bitOf c * 2 + bitOf b) / 2 % 2 = bitOf c := by cases b <;> cases c <;> rfl
theorem drainFn_mbz (k : DrainKind) (c : Bool) : (bitOf c * 4 + k.code) / 8 = 0 := by cases k <;> cases c <;> rfl
theorem drainFn_sat (k : DrainKind) (c : Bool) : (bitOf c * 4 + k.code) / 4 % 2 = bitOf c := by cases k <;> cases c <;> rfl
theorem drainFn_kind (k : DrainKind) (c : Bool) : (bitOf c * 4 + k.code) % 4 = k.code := by cases k <;> cases c <;> rfl
@[simp] theorem bitOf_eq_one (b : Bool) : bitOf b = 1 ↔ b = true := by cases b <;> decide
@[simp] theorem bitOf_div_two (b : Bool) : bitOf b / 2 = 0 := by cases b <;> rfl
@[simp] theorem bitOf_mod_two (b : Bool) : bitOf b % 2 = bitOf b := by cases b <;> rfl

/-! Immediates and offsets, laid out in bytes. -/

theorem Fields.imm_bytes {n : Nat} (opc fn g d x : Nat) (h : n < 2 ^ 32) :
    Fields.imm ⟨opc, fn, g, d, x, n / 2 ^ 24 % 256, n / 2 ^ 16 % 256, n / 2 ^ 8 % 256, n % 256⟩ = n := by
  simp only [Fields.imm]
  omega
theorem Fields.imm_bytes32 (opc fn g d x : Nat) (v : BitVec 32) :
    Fields.imm ⟨opc, fn, g, d, x, v.toNat / 2 ^ 24 % 256, v.toNat / 2 ^ 16 % 256, v.toNat / 2 ^ 8 % 256, v.toNat % 256⟩ = v.toNat :=
  Fields.imm_bytes opc fn g d x v.isLt
theorem Fields.imm_bytes6 (opc fn g d x : Nat) (v : BitVec 6) :
    Fields.imm ⟨opc, fn, g, d, x, v.toNat / 2 ^ 24 % 256, v.toNat / 2 ^ 16 % 256, v.toNat / 2 ^ 8 % 256, v.toNat % 256⟩ = v.toNat :=
  Fields.imm_bytes opc fn g d x (by have := v.isLt; omega)
/-- The first word of LI64 holds the low half of the immediate (R71). -/
theorem Fields.imm_bytes64 (opc fn g d x : Nat) (v : Word) :
    Fields.imm ⟨opc, fn, g, d, x, v.toNat / 2 ^ 24 % 256, v.toNat / 2 ^ 16 % 256, v.toNat / 2 ^ 8 % 256, v.toNat % 256⟩ =
      v.toNat % 2 ^ 32 := by
  simp only [Fields.imm]
  omega
theorem Fields.imm_zero (opc fn g d x : Nat) : Fields.imm ⟨opc, fn, g, d, x, 0, 0, 0, 0⟩ = 0 := by simp [Fields.imm]
@[simp] theorem Fields.off_bytes (opc fn g d x t lo : Nat) (v : BitVec 16) :
    Fields.off ⟨opc, fn, g, d, x, v.toNat / 256, v.toNat % 256, t, lo⟩ = v.toNat := by
  simp only [Fields.off]
  omega
theorem imm6_div (v : BitVec 6) : v.toNat / 64 = 0 := by have := v.isLt; omega

/-- The second word of LI64 (R71), and zero for every other instruction. -/
def Instr.secondWord : Instr → Word
  | .li64 _ _ imm => BitVec.ofNat 64 (imm.toNat / 2 ^ 32)
  | _ => 0
theorem secondWord_mbz (imm : Word) : (BitVec.ofNat 64 (imm.toNat / 2 ^ 32)).toNat / 2 ^ 32 = 0 := by
  have := imm.isLt
  simp only [BitVec.toNat_ofNat]
  omega
theorem joinHalves (imm : Word) :
    BitVec.ofNat 64 ((BitVec.ofNat 64 (imm.toNat / 2 ^ 32)).toNat % 2 ^ 32 * 2 ^ 32 + imm.toNat % 2 ^ 32) = imm := by
  apply BitVec.eq_of_toNat_eq
  have := imm.isLt
  simp only [BitVec.toNat_ofNat]
  omega

/-! Codes that only some instructions permit. -/

@[simp] theorem Cond.ofCode_six {c : Cond} (h : c ≠ .un) : Cond.ofCode 6 c.code = some c :=
  Cond.ofCode_code c (by cases c <;> simp_all [Cond.code])
@[simp] theorem Cond.ofCode_seven {c : Cond} : Cond.ofCode 7 c.code = some c := Cond.ofCode_code c c.code_lt
@[simp] theorem AtomOp.ofCode_zero_code {c : AtomOp} : AtomOp.ofCode 0 c.code = some c := AtomOp.ofCode_code c (Nat.zero_le _)
@[simp] theorem AtomOp.ofCode_two_code {c : AtomOp} (h : c ≠ .swap) (h2 : c ≠ .cas) : AtomOp.ofCode 2 c.code = some c := by
  cases c <;> simp at * <;> rfl
@[simp] theorem redTy_code {op : RedOp} {t : Ty} (h : t.inIF = true) (h2 : (op.arith || t.isInt) = true) : redTy op t.code = some t :=
  tyIn_code (by simp [h, h2])
@[simp] theorem MemOrder.ofCode_all (o : MemOrder) : MemOrder.ofCode [.relaxed, .acquire, .release, .acqRel] o.code = some o := by
  cases o <;> rfl

/-- The fixed mode of a rounding, and none where it is stochastic. -/
def Rounding.fixed : Rounding → Option RM
  | .rm m => some m
  | .sr _ => none
@[simp] theorem RM.ofCodeSr_fixed (r : Rounding) : RM.ofCodeSr r.code = some r.fixed := by rcases r with ⟨_ | _⟩ | _ <;> rfl
@[simp] theorem Rounding.fixed_field (r : Rounding) : (r.fixed.isNone || r.field == 0) = true := by cases r <;> rfl
@[simp] theorem Rounding.ofParts_fixed (r : Rounding) : Rounding.ofParts r.fixed r.field = some r := by
  cases r <;> simp [Rounding.fixed, Rounding.field, Rounding.ofParts]

/-! The second source of VPACK and of a mask operation has no field where it is the first one. -/

@[simp] theorem Operand.code_eq_zero (o : Operand) : o.code = 0 ↔ o = .w 0 := by
  refine ⟨fun h => ?_, fun h => by rw [h]; rfl⟩
  have := Operand.ofCode_code o
  rw [h] at this
  exact (Option.some.inj this).symm
@[simp] theorem optional_mbz (p : Prop) [Decidable p] (n : Nat) : (!decide p || (if p then 0 else n) == 0) = true := by
  by_cases h : p <;> simp [h]
@[simp] theorem unary_mbz (b : Bool) (n : Nat) : (!b || (if b = true then 0 else n) == 0) = true := by cases b <;> simp
theorem optional_operand (p : Prop) [Decidable p] {a y : Operand} (h : ¬p ∨ y = a) : (if p then some a else some y) = some y := by
  by_cases hp : p <;> simp_all

/-! The fields of an instruction fit their places. -/

theorem Fields.fits_iff (opc fn g d x y z t lo : Nat) : Fields.Fits ⟨opc, fn, g, d, x, y, z, t, lo⟩ ↔
    opc < 256 ∧ fn < 16 ∧ g < 16 ∧ d < 256 ∧ x < 256 ∧ y < 256 ∧ z < 256 ∧ t < 256 ∧ lo < 256 :=
  ⟨fun ⟨h1, h2, h3, h4, h5, h6, h7, h8, h9⟩ => ⟨h1, h2, h3, h4, h5, h6, h7, h8, h9⟩,
    fun ⟨h1, h2, h3, h4, h5, h6, h7, h8, h9⟩ => ⟨h1, h2, h3, h4, h5, h6, h7, h8, h9⟩⟩

theorem byte_lt (n : Nat) : n % 256 < 256 := Nat.mod_lt n (by decide)
theorem offByte_lt (v : BitVec 16) : v.toNat / 256 < 256 := by omega
theorem tyByte_lt (t : Ty) : t.code * 8 < 256 := by have := t.code_lt; omega
theorem bitOf_lt_sixteen (b : Bool) : bitOf b < 16 := by cases b <;> decide
theorem bitOf_byte_lt (b : Bool) : bitOf b < 256 := by cases b <;> decide
theorem RedOp.fn_lt (o : RedOp) : o.code < 16 := by cases o <;> decide
theorem MaskOp.fn_lt (o : MaskOp) : o.code < 16 := by cases o <;> decide
theorem AtomOp.fn_lt (o : AtomOp) : o.code < 16 := by cases o <;> decide
theorem Cond.fn_lt (o : Cond) : o.code < 16 := by cases o <;> decide
theorem FresKind.code_lt (k : FresKind) : k.code < 16 := by cases k <;> decide
theorem TlbiKind.code_lt (k : TlbiKind) : k.code < 16 := by cases k <;> decide
theorem SendKind.code_lt (k : SendKind) : k.code < 16 := by cases k <;> decide
theorem RecvKind.code_lt (k : RecvKind) : k.code < 16 := by cases k <;> decide
theorem accFn_lt (k : AccKind) (b : Bool) : k.code * 2 + bitOf b < 16 := by cases k <;> cases b <;> decide
theorem drnFn_lt (b c : Bool) : bitOf c * 2 + bitOf b < 16 := by cases b <;> cases c <;> decide
theorem drainFn_lt (k : DrainKind) (c : Bool) : bitOf c * 4 + k.code < 16 := by cases k <;> cases c <;> decide
theorem signalLow_lt (st : Status) (r : Bool) : st.code + bitOf r * 8 < 256 := by cases st <;> cases r <;> decide
theorem drainLow_lt (m : RM) (t : Ty) : m.code * 32 + t.code < 256 := by
  have := t.code_lt
  have := m.code_lt
  omega
theorem memLow_lt (sc : Scope) (o : MemOrder) {n : Nat} (h : n < 8) : n + sc.code * 32 + o.code * 8 < 256 := by
  have := sc.code_lt
  have := o.code_lt
  omega
theorem prefLow_lt (n : Fin 7) (sc : Scope) : n.val + sc.code * 32 < 256 := by
  have := sc.code_lt
  omega
theorem sizeByte_lt (n : Fin 7) : n.val < 256 := by omega
theorem Ty.byte_lt (t : Ty) : t.code < 256 := by cases t <;> decide
theorem modField_lt (t : Ty) {m : Nat} (h : m < 8) : t.code * 8 + m < 256 := by
  have := t.code_lt
  omega
theorem optional_lt (p : Prop) [Decidable p] {n : Nat} (h : n < 256) : (if p then 0 else n) < 256 := by split <;> omega

/-- The fields that the encoding tables give an instruction fit their places. -/
theorem encodeFields_fits {f : Fields} {i : Instr} (h : encodeFields i = some f) : f.Fits := by
  cases i <;> cases h <;>
    simp only [Fields.fits_iff, Operand.code_lt, Guard.code_lt, Target.code_lt, Rounding.field_lt, byte_lt, offByte_lt, tyByte_lt,
      bitOf_lt_sixteen, bitOf_byte_lt, RedOp.fn_lt, MaskOp.fn_lt, AtomOp.fn_lt, Cond.fn_lt, CondI.code_lt, FresKind.code_lt,
      TlbiKind.code_lt, SendKind.code_lt, RecvKind.code_lt, accFn_lt, drnFn_lt, drainFn_lt, signalLow_lt, drainLow_lt, memLow_lt,
      prefLow_lt, sizeByte_lt, Ty.byte_lt, optional_lt, modField_lt, RM.code_lt_eight, Rounding.code_lt_eight, size_lt_eight,
      Nat.reduceLT, and_self]

/-! The row of the encoding tables that reads an instruction's word. -/

/-- The decoder of the row of an instruction. -/
def rowDecoder : Instr → Fields → Word → Except Reject Instr
  | .nop .. => fun f _ => decodeNop f
  | .br .. => fun f _ => decodeBr f
  | .jmp .. => fun f _ => decodeJmp f
  | .call .. => fun f _ => decodeCall f
  | .callr .. => fun f _ => decodeCallr f
  | .ret .. => fun f _ => decodeRet f
  | .loop .. => fun f _ => decodeLoop f
  | .endT .. => fun f _ => decodeEndT f
  | .trap .. => fun f _ => decodeTrap f
  | .brk .. => fun f _ => decodeBrk f
  | .add .. => fun f _ => decodeAdd f
  | .sub .. => fun f _ => decodeSub f
  | .mul .. => fun f _ => decodeMul f
  | .mulh .. => fun f _ => decodeMulh f
  | .div .. => fun f _ => decodeDiv f
  | .rem .. => fun f _ => decodeRem f
  | .and .. => fun f _ => decodeAnd f
  | .or .. => fun f _ => decodeOr f
  | .xor .. => fun f _ => decodeXor f
  | .andn .. => fun f _ => decodeAndn f
  | .orn .. => fun f _ => decodeOrn f
  | .shl .. => fun f _ => decodeShl f
  | .shr .. => fun f _ => decodeShr f
  | .sar .. => fun f _ => decodeSar f
  | .rol .. => fun f _ => decodeRol f
  | .ror .. => fun f _ => decodeRor f
  | .min .. => fun f _ => decodeMin f
  | .max .. => fun f _ => decodeMax f
  | .clz .. => fun f _ => decodeClz f
  | .ctz .. => fun f _ => decodeCtz f
  | .popc .. => fun f _ => decodePopc f
  | .brev .. => fun f _ => decodeBrev f
  | .bswap .. => fun f _ => decodeBswap f
  | .ext .. => fun f _ => decodeExt f
  | .bfx .. => fun f _ => decodeBfx f
  | .bfi .. => fun f _ => decodeBfi f
  | .madd .. => fun f _ => decodeMadd f
  | .cmp .. => fun f _ => decodeCmp f
  | .sel .. => fun f _ => decodeSel f
  | .mov .. => fun f _ => decodeMov f
  | .abs .. => fun f _ => decodeAbs f
  | .neg .. => fun f _ => decodeNeg f
  | .addi .. => fun f _ => decodeAddi f
  | .muli .. => fun f _ => decodeMuli f
  | .andi .. => fun f _ => decodeAndi f
  | .ori .. => fun f _ => decodeOri f
  | .xori .. => fun f _ => decodeXori f
  | .shli .. => fun f _ => decodeShli f
  | .shri .. => fun f _ => decodeShri f
  | .sari .. => fun f _ => decodeSari f
  | .cmpi .. => fun f _ => decodeCmpi f
  | .li .. => fun f _ => decodeLi f
  | .lih .. => fun f _ => decodeLih f
  | .li64 .. => decodeLi64
  | .lea .. => fun f _ => decodeLea f
  | .leaPc .. => fun f _ => decodeLeaPc f
  | .fadd .. => fun f _ => decodeFadd f
  | .fsub .. => fun f _ => decodeFsub f
  | .fmul .. => fun f _ => decodeFmul f
  | .ffma .. => fun f _ => decodeFfma f
  | .fdiv .. => fun f _ => decodeFdiv f
  | .fsqrt .. => fun f _ => decodeFsqrt f
  | .fmin .. => fun f _ => decodeFmin f
  | .fmax .. => fun f _ => decodeFmax f
  | .fcmp .. => fun f _ => decodeFcmp f
  | .fcvt .. => fun f _ => decodeFcvt f
  | .fclass .. => fun f _ => decodeFclass f
  | .frnd .. => fun f _ => decodeFrnd f
  | .vadd .. => fun f _ => decodeVadd f
  | .vsub .. => fun f _ => decodeVsub f
  | .vmul .. => fun f _ => decodeVmul f
  | .vmulh .. => fun f _ => decodeVmulh f
  | .vmad .. => fun f _ => decodeVmad f
  | .vmin .. => fun f _ => decodeVmin f
  | .vmax .. => fun f _ => decodeVmax f
  | .vabsd .. => fun f _ => decodeVabsd f
  | .vand .. => fun f _ => decodeVand f
  | .vor .. => fun f _ => decodeVor f
  | .vxor .. => fun f _ => decodeVxor f
  | .vshl .. => fun f _ => decodeVshl f
  | .vshr .. => fun f _ => decodeVshr f
  | .vsar .. => fun f _ => decodeVsar f
  | .vcmp .. => fun f _ => decodeVcmp f
  | .vsel .. => fun f _ => decodeVsel f
  | .vfadd .. => fun f _ => decodeVfadd f
  | .vfsub .. => fun f _ => decodeVfsub f
  | .vfmul .. => fun f _ => decodeVfmul f
  | .vffma .. => fun f _ => decodeVffma f
  | .vfmin .. => fun f _ => decodeVfmin f
  | .vfmax .. => fun f _ => decodeVfmax f
  | .vfcmp .. => fun f _ => decodeVfcmp f
  | .vrcp .. => fun f _ => decodeVrcp f
  | .vrsq .. => fun f _ => decodeVrsq f
  | .vsqrt .. => fun f _ => decodeVsqrt f
  | .vfdiv .. => fun f _ => decodeVfdiv f
  | .vexp2 .. => fun f _ => decodeVexp2 f
  | .vlog2 .. => fun f _ => decodeVlog2 f
  | .vcvt .. => fun f _ => decodeVcvt f
  | .vshuf .. => fun f _ => decodeVshuf f
  | .vbcast .. => fun f _ => decodeVbcast f
  | .vins .. => fun f _ => decodeVins f
  | .vextr .. => fun f _ => decodeVextr f
  | .vred .. => fun f _ => decodeVred f
  | .vscan .. => fun f _ => decodeVscan f
  | .vdot .. => fun f _ => decodeVdot f
  | .vpack .. => fun f _ => decodeVpack f
  | .vunpk .. => fun f _ => decodeVunpk f
  | .vpopc .. => fun f _ => decodeVpopc f
  | .vclz .. => fun f _ => decodeVclz f
  | .vrng .. => fun f _ => decodeVrng f
  | .kop .. => fun f _ => decodeKop f
  | .kpopc .. => fun f _ => decodeKpopc f
  | .kfirst .. => fun f _ => decodeKfirst f
  | .vmov .. => fun f _ => decodeVmov f
  | .lds .. => fun f _ => decodeLds f
  | .sts .. => fun f _ => decodeSts f
  | .vlds .. => fun f _ => decodeVlds f
  | .vsts .. => fun f _ => decodeVsts f
  | .vgath .. => fun f _ => decodeVgath f
  | .vscat .. => fun f _ => decodeVscat f
  | .ldf .. => fun f _ => decodeLdf f
  | .stf .. => fun f _ => decodeStf f
  | .satom .. => fun f _ => decodeSatom f
  | .scpy .. => fun f _ => decodeScpy f
  | .gld .. => fun f _ => decodeGld f
  | .gst .. => fun f _ => decodeGst f
  | .gldv .. => fun f _ => decodeGldv f
  | .gstv .. => fun f _ => decodeGstv f
  | .gatom .. => fun f _ => decodeGatom f
  | .gred .. => fun f _ => decodeGred f
  | .ild .. => fun f _ => decodeIld f
  | .ist .. => fun f _ => decodeIst f
  | .irst .. => fun f _ => decodeIrst f
  | .mwatch .. => fun f _ => decodeMwatch f
  | .dma .. => fun f _ => decodeDma f
  | .strmOpen .. => fun f _ => decodeStrmOpen f
  | .strmAdv .. => fun f _ => decodeStrmAdv f
  | .strmNotify .. => fun f _ => decodeStrmNotify f
  | .strmClose .. => fun f _ => decodeStrmClose f
  | .fence .. => fun f _ => decodeFence f
  | .pref .. => fun f _ => decodePref f
  | .fnew .. => fun f _ => decodeFnew f
  | .ffree .. => fun f _ => decodeFfree f
  | .sloti .. => fun f _ => decodeSloti f
  | .slota .. => fun f _ => decodeSlota f
  | .sig .. => fun f _ => decodeSig f
  | .sigd .. => fun f _ => decodeSigd f
  | .cont .. => fun f _ => decodeCont f
  | .spawn .. => fun f _ => decodeSpawn f
  | .launch .. => fun f _ => decodeLaunch f
  | .kend .. => fun f _ => decodeKend f
  | .bar .. => fun f _ => decodeBar f
  | .ared .. => fun f _ => decodeAred f
  | .tidx .. => fun f _ => decodeTidx f
  | .flags .. => fun f _ => decodeFlags f
  | .chsend .. => fun f _ => decodeChsend f
  | .chrecv .. => fun f _ => decodeChrecv f
  | .chsel .. => fun f _ => decodeChsel f
  | .chsendm .. => fun f _ => decodeChsendm f
  | .chtest .. => fun f _ => decodeChtest f
  | .chbind .. => fun f _ => decodeChbind f
  | .chcan .. => fun f _ => decodeChcan f
  | .phclaim .. => fun f _ => decodePhclaim f
  | .phins .. => fun f _ => decodePhins f
  | .phprb .. => fun f _ => decodePhprb f
  | .phdel .. => fun f _ => decodePhdel f
  | .phacc .. => fun f _ => decodePhacc f
  | .phdrn .. => fun f _ => decodePhdrn f
  | .phrls .. => fun f _ => decodePhrls f
  | .phstat .. => fun f _ => decodePhstat f
  | .mcfg .. => fun f _ => decodeMcfg f
  | .mlda .. => fun f _ => decodeMlda f
  | .mldb .. => fun f _ => decodeMldb f
  | .mrun .. => fun f _ => decodeMrun f
  | .mzero .. => fun f _ => decodeMzero f
  | .mdrn .. => fun f _ => decodeMdrn f
  | .msteer .. => fun f _ => decodeMsteer f
  | .mstat .. => fun f _ => decodeMstat f
  | .sysr .. => fun f _ => decodeSysr f
  | .sysw .. => fun f _ => decodeSysw f
  | .fres .. => fun f _ => decodeFres f
  | .tlbi .. => fun f _ => decodeTlbi f
  | .tmap .. => fun f _ => decodeTmap f
  | .evictSave .. => fun f _ => decodeEvictSave f
  | .evictRestore .. => fun f _ => decodeEvictRestore f
  | .dloctl .. => fun f _ => decodeDloctl f
  | .halt .. => fun f _ => decodeHalt f
  | _ => fun _ _ => .error .illegal

/-- The opcode and FN of an instruction's word lead the decoder to that instruction's row. -/
theorem decode_of_fields {w : Word} {f : Fields} {i : Instr} (hf : fieldsOf w = f) (h : encodeFields i = some f) (w1 : Word) :
    decode w w1 = rowDecoder i f w1 := by
  subst hf
  delta decode
  generalize fieldsOf w = f at *
  cases i <;> cases h <;> rfl

/-- A well-formed instruction that a seat issues passes checks 1 to 3 and check 6 of R76. -/
theorem Instr.checks_of_wf {i : Instr} (hs : i.isSeat = true) (hw : i.wf = true) :
    i.shape.map Shape.coded = some true ∧ checkOperands i = .ok i := by
  obtain ⟨h, hh⟩ := Option.isSome_iff_exists.mp hs
  have hw' : h.coded = true ∧ h.operandsOk = true := by simpa [Instr.wf, hh] using hw
  exact ⟨by rw [hh, Option.map_some, hw'.1], checkOperands_ok hh hw'.2⟩

/-- Every row reads its own instruction back from the fields that the instruction encodes to. -/
theorem rowDecoder_encode {f : Fields} {i : Instr} (h : encodeFields i = some f) (hd : i.shape.map Shape.coded = some true)
    (hc : checkOperands i = .ok i) : rowDecoder i f i.secondWord = .ok i := by
  cases i <;> cases h <;> simp [Instr.shape] at hd <;> delta rowDecoder <;>
  simp only [decodeNop, decodeBr, decodeJmp, decodeCall, decodeCallr, decodeRet, decodeLoop, decodeEndT, decodeTrap, decodeBrk, decodeAdd,
      decodeSub, decodeMul, decodeMulh, decodeDiv, decodeRem, decodeAnd, decodeOr, decodeXor, decodeAndn, decodeOrn, decodeShl,
      decodeShr, decodeSar, decodeRol, decodeRor, decodeMin, decodeMax, decodeClz, decodeCtz, decodePopc, decodeBrev, decodeBswap,
      decodeExt, decodeBfx, decodeBfi, decodeMadd, decodeCmp, decodeSel, decodeMov, decodeAbs, decodeNeg, decodeAddi, decodeMuli,
      decodeAndi, decodeOri, decodeXori, decodeShli, decodeShri, decodeSari, decodeCmpi, decodeLi, decodeLih, decodeLi64, decodeLea,
      decodeLeaPc, decodeFadd, decodeFsub, decodeFmul, decodeFfma, decodeFdiv, decodeFsqrt, decodeFmin, decodeFmax, decodeFcmp,
      decodeFcvt, decodeFclass, decodeFrnd, decodeVadd, decodeVsub, decodeVmul, decodeVmulh, decodeVmad, decodeVmin, decodeVmax,
      decodeVabsd, decodeVand, decodeVor, decodeVxor, decodeVshl, decodeVshr, decodeVsar, decodeVcmp, decodeVsel, decodeVfadd,
      decodeVfsub, decodeVfmul, decodeVffma, decodeVfmin, decodeVfmax, decodeVfcmp, decodeVrcp, decodeVrsq, decodeVsqrt,
      decodeVfdiv, decodeVexp2, decodeVlog2, decodeVcvt, decodeVshuf, decodeVbcast, decodeVins, decodeVextr, decodeVred,
      decodeVscan, decodeVdot, decodeVpack, decodeVunpk, decodeVpopc, decodeVclz, decodeVrng, decodeKop, decodeKpopc, decodeKfirst,
      decodeVmov, decodeLds, decodeSts, decodeVlds, decodeVsts, decodeVgath, decodeVscat, decodeLdf, decodeStf, decodeSatom,
      decodeScpy, decodeGld, decodeGst, decodeGldv, decodeGstv, decodeGatom, decodeGred, decodeIld, decodeIst, decodeIrst,
      decodeMwatch, decodeDma, decodeStrmOpen, decodeStrmAdv, decodeStrmNotify, decodeStrmClose, decodeFence, decodePref,
      decodeFnew, decodeFfree, decodeSloti, decodeSlota, decodeSig, decodeSigd, decodeCont, decodeSpawn, decodeLaunch, decodeKend,
      decodeBar, decodeAred, decodeTidx, decodeFlags, decodeChsend, decodeChrecv, decodeChsel, decodeChsendm, decodeChtest,
      decodeChbind, decodeChcan, decodePhclaim, decodePhins, decodePhprb, decodePhdel, decodePhacc, decodePhdrn, decodePhrls,
      decodePhstat, decodeMcfg, decodeMlda, decodeMldb, decodeMrun, decodeMzero, decodeMdrn, decodeMsteer, decodeMstat, decodeSysr,
      decodeSysw, decodeFres, decodeTlbi, decodeTmap, decodeEvictSave, decodeEvictRestore, decodeDloctl, decodeHalt,
      Fields.ty, Fields.rm, Fields.scope, Fields.order, Fields.sz, Fields.imm_bytes32, Fields.imm_bytes6, imm6_div, Fields.imm_bytes64,
      Fields.off_bytes, Fields.imm_zero, drnFn_mbz, drnFn_chan, drainFn_mbz, drainFn_sat, drainFn_kind, memLow_sz,
      memLow_order, memLow_scope, size_lt_eight, Nat.reduceLT, prefLow_scope, prefLow_order, prefLow_sz, Instr.secondWord,
      secondWord_mbz, joinHalves, signalLow_status, signalLow_mbz, signalLow_rel] <;>
  simp_all [permit_of, zeros_of, optional_operand, ok_bind, tyIn_code, RM.code_lt_eight, Rounding.code_lt_eight,
    szIn_val, MemOrder.ofCode_code]

theorem encodeFields_isSome (i : Instr) : (encodeFields i).isSome = i.isSeat := by cases i <;> rfl

/-- The words of an instruction are its fields' word and, for LI64, the second word. -/
theorem encode_of_fields {f : Fields} {i : Instr} (h : encodeFields i = some f) :
    encode i = f.word :: if i.size = 16 then [i.secondWord] else [] := by
  unfold encode
  rw [h]
  cases i <;> rfl

theorem Instr.size_eq (i : Instr) : i.size = if i.size = 16 then 16 else 8 := by cases i <;> rfl

theorem Instr.secondWord_of_size {i : Instr} (h : i.size ≠ 16) : i.secondWord = 0 := by
  unfold Instr.secondWord
  split
  · exact absurd rfl h
  · rfl

/-- Settles O56: the fields of an instruction fit their word, the word leads the decoder to the instruction's row, and that row reads
every field back. -/
theorem encodeDecode : Obligations.EncodeDecode := by
  unfold Obligations.EncodeDecode
  intro i hs hw
  obtain ⟨f, hf⟩ := Option.isSome_iff_exists.mp ((encodeFields_isSome i).trans hs)
  obtain ⟨hd, hc⟩ := Instr.checks_of_wf hs hw
  have hrow := rowDecoder_encode hf hd hc
  refine ⟨f.word, _, encode_of_fields hf, ?_, ?_⟩
  · rw [encode_of_fields hf, i.size_eq]
    by_cases h16 : i.size = 16 <;> simp [h16]
  · have hrest : (if i.size = 16 then [i.secondWord] else []).headD 0 = i.secondWord := by
      by_cases h16 : i.size = 16
      · rw [if_pos h16]
        rfl
      · rw [if_neg h16, Instr.secondWord_of_size h16]
        rfl
    rw [hrest, decode_of_fields (fieldsOf_word f (encodeFields_fits hf)) hf, hrow]

end Sys2Proof
end

section
/-! PROOFS. What the decoder accepts is well formed and is read from its own encoding (O57). Each check of a row that passes says what its
field holds; the checks of the row together give every field of the word, and so the encoding. -/

namespace Sys2Proof

/-! What each check and each reader of a field says where it passes. -/

theorem bind_eq_ok {α β : Type} {x : Except Reject α} {f : α → Except Reject β} {b : β} :
    (x >>= f) = .ok b ↔ ∃ a, x = .ok a ∧ f a = .ok b := by
  cases x with
  | error e =>
    constructor
    · intro h
      cases h
    · rintro ⟨_, h, _⟩
      cases h
  | ok a =>
    constructor
    · exact fun h => ⟨a, rfl, h⟩
    · rintro ⟨_, h, k⟩
      cases h
      exact k

theorem orIllegal_eq_ok {α : Type} {o : Option α} {a : α} : orIllegal o = .ok a ↔ o = some a := by
  cases o <;> simp [orIllegal]
theorem orOperand_eq_ok {α : Type} {o : Option α} {a : α} : orOperand o = .ok a ↔ o = some a := by
  cases o <;> simp [orOperand]
theorem permit_eq_ok {b : Bool} {u : Unit} : permit b = .ok u ↔ b = true := by cases b <;> simp [permit]
theorem zeros_eq_ok {b : Bool} {u : Unit} : zeros b = .ok u ↔ b = true := by cases b <;> simp [zeros]
theorem checkOperands_eq_ok {i j : Instr} : checkOperands i = .ok j ↔ i.shape.any Shape.operandsOk = true ∧ i = j := by
  unfold checkOperands
  cases hs : i.shape with
  | none => simp
  | some h => by_cases ho : h.operandsOk = true <;> simp [ho]

theorem Operand.ofCode_eq_some {n : Nat} {o : Operand} : Operand.ofCode n = some o ↔ n = o.code :=
  ⟨fun h => (Operand.code_ofCode h).symm, fun h => h ▸ Operand.ofCode_code o⟩
theorem Target.ofCode_eq_some {n : Nat} {o : Target} : Target.ofCode n = some o ↔ n = o.code :=
  ⟨fun h => (Target.code_ofCode h).symm, fun h => h ▸ Target.ofCode_code o⟩
theorem boolOf_eq_some {n : Nat} {b : Bool} : boolOf n = some b ↔ n = bitOf b :=
  ⟨fun h => by unfold boolOf at h; split at h <;> cases h <;> rfl, fun h => h ▸ boolOf_bitOf _⟩
theorem Ty.ofCode_eq_some {n : Nat} {t : Ty} : Ty.ofCode n = some t ↔ n = t.code :=
  ⟨fun h => by unfold Ty.ofCode at h; split at h <;> cases h <;> rfl, fun h => h ▸ Ty.ofCode_code _⟩
theorem tyIn_eq_some {p : Ty → Bool} {n : Nat} {t : Ty} : tyIn p n = some t ↔ n = t.code ∧ p t = true := by
  simp [tyIn, Option.filter_eq_some_iff, Ty.ofCode_eq_some]
theorem RM.ofCode_eq_some {n : Nat} {m : RM} : RM.ofCode n = some m ↔ n = m.code :=
  ⟨fun h => by unfold RM.ofCode at h; split at h <;> cases h <;> rfl, fun h => h ▸ RM.ofCode_code _⟩
theorem RM.ofCodeSr_eq_some {n : Nat} {m : Option RM} : RM.ofCodeSr n = some m ↔ n = m.elim 4 RM.code := by
  constructor
  · intro h
    unfold RM.ofCodeSr at h
    split at h
    · next h4 =>
      cases h
      exact h4
    · obtain ⟨a, ha, rfl⟩ := Option.map_eq_some_iff.mp h
      exact RM.ofCode_eq_some.mp ha
  · rintro rfl
    cases m with
    | none => rfl
    | some m => cases m <;> rfl
theorem Cond.ofCode_eq_some {b n : Nat} {c : Cond} : Cond.ofCode b n = some c ↔ n = c.code ∧ c.code < b := by
  constructor
  · intro h
    unfold Cond.ofCode at h
    split at h
    · cases h
    · split at h <;> cases h <;> exact ⟨rfl, by simp only [Cond.code]; omega⟩
  · rintro ⟨rfl, h⟩
    exact Cond.ofCode_code c h
theorem CondI.ofCode_eq_some {n : Nat} {c : CondI} : CondI.ofCode n = some c ↔ n = c.code :=
  ⟨fun h => by unfold CondI.ofCode at h; split at h <;> cases h <;> rfl, fun h => h ▸ CondI.ofCode_code _⟩
theorem AtomOp.ofCode_eq_some {b n : Nat} {c : AtomOp} : AtomOp.ofCode b n = some c ↔ n = c.code ∧ b ≤ c.code := by
  constructor
  · intro h
    unfold AtomOp.ofCode at h
    split at h
    · cases h
    · split at h <;> cases h <;> exact ⟨rfl, by simp only [AtomOp.code]; omega⟩
  · rintro ⟨rfl, h⟩
    exact AtomOp.ofCode_code c h
theorem RedOp.ofCode_eq_some {n : Nat} {c : RedOp} : RedOp.ofCode n = some c ↔ n = c.code :=
  ⟨fun h => by unfold RedOp.ofCode at h; split at h <;> cases h <;> rfl, fun h => h ▸ RedOp.ofCode_code _⟩
theorem MaskOp.ofCode_eq_some {n : Nat} {c : MaskOp} : MaskOp.ofCode n = some c ↔ n = c.code :=
  ⟨fun h => by unfold MaskOp.ofCode at h; split at h <;> cases h <;> rfl, fun h => h ▸ MaskOp.ofCode_code _⟩
theorem Scope.ofCode_eq_some {n : Nat} {c : Scope} : Scope.ofCode n = some c ↔ n = c.code :=
  ⟨fun h => by unfold Scope.ofCode at h; split at h <;> cases h <;> rfl, fun h => h ▸ Scope.ofCode_code _⟩
theorem SendKind.ofCode_eq_some {n : Nat} {c : SendKind} : SendKind.ofCode n = some c ↔ n = c.code :=
  ⟨fun h => by unfold SendKind.ofCode at h; split at h <;> cases h <;> rfl, fun h => h ▸ SendKind.ofCode_code _⟩
theorem RecvKind.ofCode_eq_some {n : Nat} {c : RecvKind} : RecvKind.ofCode n = some c ↔ n = c.code :=
  ⟨fun h => by unfold RecvKind.ofCode at h; split at h <;> cases h <;> rfl, fun h => h ▸ RecvKind.ofCode_code _⟩
theorem AccKind.ofCode_eq_some {n : Nat} {c : AccKind} : AccKind.ofCode n = some c ↔ n = c.code :=
  ⟨fun h => by unfold AccKind.ofCode at h; split at h <;> cases h <;> rfl, fun h => h ▸ AccKind.ofCode_code _⟩
theorem DrainKind.ofCode_eq_some {n : Nat} {c : DrainKind} : DrainKind.ofCode n = some c ↔ n = c.code :=
  ⟨fun h => by unfold DrainKind.ofCode at h; split at h <;> cases h <;> rfl, fun h => h ▸ DrainKind.ofCode_code _⟩
theorem FresKind.ofCode_eq_some {n : Nat} {c : FresKind} : FresKind.ofCode n = some c ↔ n = c.code :=
  ⟨fun h => by unfold FresKind.ofCode at h; split at h <;> cases h <;> rfl, fun h => h ▸ FresKind.ofCode_code _⟩
theorem TlbiKind.ofCode_eq_some {n : Nat} {c : TlbiKind} : TlbiKind.ofCode n = some c ↔ n = c.code :=
  ⟨fun h => by unfold TlbiKind.ofCode at h; split at h <;> cases h <;> rfl, fun h => h ▸ TlbiKind.ofCode_code _⟩
theorem MemOrder.ofCode_eq_some {l : List MemOrder} {n : Nat} {c : MemOrder} : MemOrder.ofCode l n = some c ↔ n = c.code ∧ c ∈ l := by
  unfold MemOrder.ofCode
  rw [Option.filter_eq_some_iff, decide_eq_true_eq]
  refine and_congr_left fun _ => ⟨fun h => ?_, ?_⟩
  · split at h <;> cases h <;> rfl
  · rintro rfl
    cases c <;> rfl
theorem redTy_eq_some {op : RedOp} {n : Nat} {t : Ty} : redTy op n = some t ↔ n = t.code ∧ t.inIF = true ∧
    (op.arith || t.isInt) = true := by
  rw [redTy, tyIn_eq_some, Bool.and_eq_true]
theorem szIn_eq_some {lo hi n : Nat} {m : Fin 7} : szIn lo hi n = some m ↔ n = m.val ∧ lo ≤ m.val ∧ m.val ≤ hi := by
  unfold szIn
  split
  · next h =>
    rw [Option.some.injEq, Fin.ext_iff]
    exact ⟨fun hn => ⟨hn.symm ▸ rfl, hn ▸ h.1, hn ▸ h.2.1⟩, fun hn => hn.1⟩
  · next h =>
    exact ⟨nofun, fun hn => absurd ⟨by omega, by omega, by omega⟩ h⟩
theorem Rounding.ofParts_eq_some {m : Option RM} {n : Nat} {r : Rounding} :
    Rounding.ofParts m n = some r ↔ m = r.fixed ∧ (!r.fixed.isNone || n == r.field) = true := by
  cases m <;> cases r <;> simp [Rounding.ofParts, Rounding.fixed, Rounding.field, Operand.ofCode_eq_some]
/-- The operand field of a rounding is zero without SR (R66). -/
theorem Rounding.field_of_fixed {r : Rounding} {n : Nat} (h0 : (r.fixed.isNone || n == 0) = true)
    (h : (!r.fixed.isNone || n == r.field) = true) : (r.field = n) = True := by
  cases r with
  | rm m => exact eq_true (beq_iff_eq.mp h0).symm
  | sr o => exact eq_true (beq_iff_eq.mp h).symm
theorem Rounding.code_fixed (r : Rounding) : r.fixed.elim 4 RM.code = r.code := by cases r <;> rfl
theorem bitOf_decide (n : Nat) : bitOf (decide (n % 2 = 1)) = n % 2 := by
  unfold bitOf
  rcases Nat.mod_two_eq_zero_or_one n with h | h <;> simp [h]
theorem required_eq_some {p : Prop} [Decidable p] {u : Unit} : (if p then some () else none) = some u ↔ p := by
  by_cases h : p <;> simp [h]
theorem Status.code_ofCode (n : Nat) : (Status.ofCode n).code = n % 8 := by
  have := Nat.mod_lt n (show 0 < 8 by decide)
  unfold Status.ofCode
  generalize n % 8 = m at this
  interval_cases m <;> rfl
theorem Cond.ne_un_of_lt {c : Cond} (h : c.code < 6) : decide (c ≠ .un) = true := by
  refine decide_eq_true ?_
  rintro rfl
  exact absurd h (by decide)
theorem AtomOp.ne_of_two_le {c : AtomOp} (h : 2 ≤ c.code) : decide (c ≠ .swap ∧ c ≠ .cas) = true := by
  refine decide_eq_true ⟨?_, ?_⟩ <;> rintro rfl <;> exact absurd h (by decide)
/-- The second source of VPACK is read only where the destination's lanes are not of 6 bits. -/
theorem optional_eq_some {m k n : Nat} {a o : Operand} : (if m = k then some a else Operand.ofCode n) = some o ↔
    (decide (m ≠ k) || decide (o = a)) = true ∧ (decide (m = k) || n == o.code) = true := by
  by_cases h : m = k <;> simp [h, Operand.ofCode_eq_some, @eq_comm _ a o]
theorem optional_field {m k n y : Nat} (h0 : (decide (m ≠ k) || y == 0) = true) (h1 : (decide (m = k) || y == n) = true) :
    ((if m = k then 0 else n) = y) = True := by
  by_cases h : m = k <;> simp_all
/-- The second source of a mask operation is read only where it takes two. -/
theorem unary_eq_some {b : Bool} {n : Nat} {a o : Operand} : (if b = true then some a else Operand.ofCode n) = some o ↔
    (!b || decide (o = a)) = true ∧ (b || n == o.code) = true := by
  cases b <;> simp [Operand.ofCode_eq_some, @eq_comm _ a o]
theorem unary_field {b : Bool} {n y : Nat} (h0 : (!b || y == 0) = true) (h1 : (b || y == n) = true) :
    ((if b = true then 0 else n) = y) = True := by
  cases b <;> simp_all
theorem Operand.decide_eq_first (o : Operand) : decide (o = .w 0) = (o.code == 0) := by
  rw [Bool.eq_iff_iff, decide_eq_true_eq, beq_iff_eq, Operand.code_eq_zero]
theorem Operand.decide_both_first (o p : Operand) : decide (o = .w 0 ∧ p = .w 0) = (o.code == 0 && p.code == 0) := by
  rw [Bool.decide_and, o.decide_eq_first, p.decide_eq_first]
theorem secondWord_of_halves (g : Guard) (d : Operand) {w1 : Word} {n : Nat} (h : w1.toNat / 2 ^ 32 = 0) (hn : n < 2 ^ 32) :
    (Instr.li64 g d (BitVec.ofNat 64 (w1.toNat % 2 ^ 32 * 2 ^ 32 + n))).secondWord = w1 := by
  apply BitVec.eq_of_toNat_eq
  simp only [Instr.secondWord, BitVec.toNat_ofNat]
  omega

/-- An instruction read from fields and a second word: it is well formed, the fields are those that it encodes to, and the second word is
its own where it has one. -/
def Reads (f : Fields) (w1 : Word) (i : Instr) : Prop :=
  i.wf = true ∧ encodeFields i = some f ∧ (i.size = 8 ∨ i.secondWord = w1)

theorem Instr.wf_of_coded {i : Instr} (ho : i.shape.any Shape.operandsOk = true)
    (hc : i.shape.map Shape.coded = some true) : i.wf = true := by
  obtain ⟨h, hs, hh⟩ := Option.map_eq_some_iff.mp hc
  rw [hs, Option.any_some] at ho
  simp [Instr.wf, hs, hh, ho]

set_option maxRecDepth 2000 in
/-- The rows of control and of the scalar integer instructions on registers. -/
theorem reads_of_opc_lt_0x30 {w w1 : Word} {i : Instr} {opc fn g d x y z t lo : Nat}
    (hw : fieldsOf w = ⟨opc, fn, g, d, x, y, z, t, lo⟩) (ho : opc < 0x30) (h : decode w w1 = .ok i) :
    Reads ⟨opc, fn, g, d, x, y, z, t, lo⟩ w1 i := by
  obtain ⟨-, -, hg, -, -, hy, hz, ht, hl⟩ := (Fields.fits_iff ..).mp (hw ▸ fieldsOf_fits w)
  delta decode at h
  rw [hw] at h
  clear hw
  dsimp only at h
  split at h
  all_goals
    revert h ho
    simp only [decodeNop, decodeBr, decodeJmp, decodeCall, decodeCallr, decodeRet, decodeLoop, decodeEndT, decodeTrap, decodeBrk, decodeAdd,
      decodeSub, decodeMul, decodeMulh, decodeDiv, decodeRem, decodeAnd, decodeOr, decodeXor, decodeAndn, decodeOrn, decodeShl, decodeShr,
      decodeSar, decodeRol, decodeRor, decodeMin, decodeMax, decodeClz, decodeCtz, decodePopc, decodeBrev, decodeBswap, decodeExt,
      decodeBfx, decodeBfi, decodeMadd, decodeCmp, decodeSel, decodeMov, decodeAbs, decodeNeg, bind_eq_ok, orIllegal_eq_ok,
      orOperand_eq_ok, permit_eq_ok, zeros_eq_ok, checkOperands_eq_ok, Operand.ofCode_eq_some, boolOf_eq_some, tyIn_eq_some,
      Cond.ofCode_eq_some, Fields.ty, Fields.rm, Fields.imm, and_imp, forall_exists_index, Bool.and_eq_true, beq_iff_eq, reduceCtorEq,
      false_implies, implies_true, Nat.reduceLT]
  all_goals
    intros
    subst_vars
    refine ⟨Instr.wf_of_coded (by assumption) ?_, ?_, ?_⟩
    all_goals
      simp only [encodeFields, Instr.shape, Option.map_some, Option.some.injEq, Fields.mk.injEq, true_and, and_true, Bool.and_true, Instr.size,
        true_or, Guard.code_ofCode, Cond.ne_un_of_lt, BitVec.toNat_ofNat, *]
  any_goals omega

set_option maxRecDepth 2000 in
/-- The rows of the scalar instructions with an immediate and of the floating ones. -/
theorem reads_of_opc_0x30_to_0x4F {w w1 : Word} {i : Instr} {opc fn g d x y z t lo : Nat}
    (hw : fieldsOf w = ⟨opc, fn, g, d, x, y, z, t, lo⟩) (ho : 0x30 ≤ opc ∧ opc < 0x50) (h : decode w w1 = .ok i) :
    Reads ⟨opc, fn, g, d, x, y, z, t, lo⟩ w1 i := by
  obtain ⟨-, -, hg, -, -, hy, hz, ht, hl⟩ := (Fields.fits_iff ..).mp (hw ▸ fieldsOf_fits w)
  delta decode at h
  rw [hw] at h
  clear hw
  dsimp only at h
  split at h
  any_goals split at h
  all_goals
    revert h ho
    simp only [decodeAddi, decodeMuli, decodeAndi, decodeOri, decodeXori, decodeShli, decodeShri, decodeSari, decodeCmpi, decodeLi, decodeLih,
      decodeLi64, decodeLea, decodeLeaPc, decodeFadd, decodeFsub, decodeFmul, decodeFfma, decodeFdiv, decodeFsqrt, decodeFmin, decodeFmax,
      decodeFcmp, decodeFcvt, decodeFclass, decodeFrnd, bind_eq_ok, orIllegal_eq_ok, orOperand_eq_ok, permit_eq_ok, zeros_eq_ok,
      checkOperands_eq_ok, Operand.ofCode_eq_some, boolOf_eq_some, tyIn_eq_some, Ty.ofCode_eq_some, RM.ofCode_eq_some,
      RM.ofCodeSr_eq_some, Cond.ofCode_eq_some, CondI.ofCode_eq_some, Rounding.ofParts_eq_some, Fields.ty, Fields.rm, Fields.imm, and_imp,
      forall_exists_index, Bool.and_eq_true, beq_iff_eq, reduceCtorEq, false_implies, implies_true, false_and, and_false, true_and,
      Nat.reduceLT, Nat.reduceLeDiff]
  all_goals
    intros
    subst_vars
    refine ⟨Instr.wf_of_coded (by assumption) ?_, ?_, ?_⟩
    all_goals
      simp only [encodeFields, Instr.shape, Option.map_some, Option.some.injEq, Fields.mk.injEq, true_and, and_true, Instr.size, true_or,
        Guard.code_ofCode, ← Rounding.code_fixed, Rounding.field_of_fixed, BitVec.toNat_ofNat, *]
  any_goals omega
  exact .inr (secondWord_of_halves _ _ (by assumption) (by omega))

set_option maxRecDepth 2000 in
/-- The rows of the vector and mask instructions. -/
theorem reads_of_opc_0x50_to_0x7F {w w1 : Word} {i : Instr} {opc fn g d x y z t lo : Nat}
    (hw : fieldsOf w = ⟨opc, fn, g, d, x, y, z, t, lo⟩) (ho : 0x50 ≤ opc ∧ opc < 0x80) (h : decode w w1 = .ok i) :
    Reads ⟨opc, fn, g, d, x, y, z, t, lo⟩ w1 i := by
  obtain ⟨-, -, hg, -, -, hy, hz, ht, hl⟩ := (Fields.fits_iff ..).mp (hw ▸ fieldsOf_fits w)
  delta decode at h
  rw [hw] at h
  clear hw
  dsimp only at h
  split at h
  all_goals
    revert h ho
    simp only [decodeVadd, decodeVsub, decodeVmul, decodeVmulh, decodeVmad, decodeVmin, decodeVmax, decodeVabsd, decodeVand, decodeVor, decodeVxor,
      decodeVshl, decodeVshr, decodeVsar, decodeVcmp, decodeVsel, decodeVfadd, decodeVfsub, decodeVfmul, decodeVffma, decodeVfmin,
      decodeVfmax, decodeVfcmp, decodeVrcp, decodeVrsq, decodeVsqrt, decodeVfdiv, decodeVexp2, decodeVlog2, decodeVcvt, decodeVshuf,
      decodeVbcast, decodeVins, decodeVextr, decodeVred, decodeVscan, decodeVdot, decodeVpack, decodeVunpk, decodeVpopc, decodeVclz,
      decodeVrng, decodeKop, decodeKpopc, decodeKfirst, decodeVmov, bind_eq_ok, orIllegal_eq_ok, orOperand_eq_ok, permit_eq_ok,
      zeros_eq_ok, checkOperands_eq_ok, Operand.ofCode_eq_some, boolOf_eq_some, tyIn_eq_some, Ty.ofCode_eq_some, RM.ofCode_eq_some,
      RM.ofCodeSr_eq_some, Cond.ofCode_eq_some, RedOp.ofCode_eq_some, MaskOp.ofCode_eq_some, redTy_eq_some, Rounding.ofParts_eq_some,
      optional_eq_some, unary_eq_some, Fields.ty, Fields.rm, and_imp, forall_exists_index, Bool.and_eq_true, decide_eq_true_eq,
      beq_iff_eq, reduceCtorEq, false_implies, implies_true, false_and, and_false, true_and, Nat.reduceLT, Nat.reduceLeDiff]
  all_goals
    intros
    subst_vars
    refine ⟨Instr.wf_of_coded (by assumption) ?_, ?_, ?_⟩
    all_goals
      simp only [encodeFields, Instr.shape, Option.map_some, Option.some.injEq, Fields.mk.injEq, true_and, and_true, Bool.and_true, Instr.size,
        true_or, Guard.code_ofCode, ← Rounding.code_fixed, Rounding.field_of_fixed, Cond.ne_un_of_lt, optional_field, unary_field,
        decide_true, *]
  any_goals omega

set_option maxRecDepth 2000 in
/-- The rows of the memory instructions. -/
theorem reads_of_opc_0x80_to_0x9F {w w1 : Word} {i : Instr} {opc fn g d x y z t lo : Nat}
    (hw : fieldsOf w = ⟨opc, fn, g, d, x, y, z, t, lo⟩) (ho : 0x80 ≤ opc ∧ opc < 0xA0) (h : decode w w1 = .ok i) :
    Reads ⟨opc, fn, g, d, x, y, z, t, lo⟩ w1 i := by
  obtain ⟨-, -, hg, -, -, hy, hz, ht, hl⟩ := (Fields.fits_iff ..).mp (hw ▸ fieldsOf_fits w)
  delta decode at h
  rw [hw] at h
  clear hw
  dsimp only at h
  split at h
  any_goals split at h
  all_goals
    revert h ho
    simp only [decodeLds, decodeSts, decodeVlds, decodeVsts, decodeVgath, decodeVscat, decodeLdf, decodeStf, decodeSatom, decodeScpy, decodeGld,
      decodeGst, decodeGldv, decodeGstv, decodeGatom, decodeGred, decodeIld, decodeIst, decodeIrst, decodeMwatch, decodeDma,
      decodeStrmOpen, decodeStrmAdv, decodeStrmNotify, decodeStrmClose, decodeFence, decodePref, bind_eq_ok, orIllegal_eq_ok,
      orOperand_eq_ok, permit_eq_ok, zeros_eq_ok, checkOperands_eq_ok, Operand.ofCode_eq_some, boolOf_eq_some, Target.ofCode_eq_some,
      AtomOp.ofCode_eq_some, Scope.ofCode_eq_some, MemOrder.ofCode_eq_some, szIn_eq_some, required_eq_some, Fields.off, Fields.scope,
      Fields.order, Fields.sz, and_imp, forall_exists_index, Bool.and_eq_true, beq_iff_eq, reduceCtorEq, false_implies, implies_true,
      false_and, and_false, true_and, Nat.reduceLT, Nat.reduceLeDiff]
  all_goals
    intros
    subst_vars
    refine ⟨Instr.wf_of_coded (by assumption) ?_, ?_, ?_⟩
    all_goals
      simp only [encodeFields, Instr.shape, Option.map_some, Option.some.injEq, Fields.mk.injEq, true_and, and_true, Bool.and_true, Instr.size,
        true_or, Guard.code_ofCode, AtomOp.ne_of_two_le, BitVec.toNat_ofNat, decide_true, *]
  any_goals omega

set_option maxRecDepth 2000 in
/-- The rows of the threadlet, channel, Pigeonhole, Anvil and system instructions. -/
theorem reads_of_opc_ge_0xA0 {w w1 : Word} {i : Instr} {opc fn g d x y z t lo : Nat}
    (hw : fieldsOf w = ⟨opc, fn, g, d, x, y, z, t, lo⟩) (ho : 0xA0 ≤ opc) (h : decode w w1 = .ok i) :
    Reads ⟨opc, fn, g, d, x, y, z, t, lo⟩ w1 i := by
  obtain ⟨-, -, hg, -, -, hy, hz, ht, hl⟩ := (Fields.fits_iff ..).mp (hw ▸ fieldsOf_fits w)
  delta decode at h
  rw [hw] at h
  clear hw
  dsimp only at h
  split at h
  any_goals split at h
  all_goals
    revert h ho
    simp only [decodeFnew, decodeFfree, decodeSloti, decodeSlota, decodeSig, decodeSigd, decodeCont, decodeSpawn, decodeLaunch, decodeKend,
      decodeBar, decodeAred, decodeTidx, decodeFlags, decodeChsend, decodeChrecv, decodeChsel, decodeChsendm, decodeChtest, decodeChbind,
      decodeChcan, decodePhclaim, decodePhins, decodePhprb, decodePhdel, decodePhacc, decodePhdrn, decodePhrls, decodePhstat, decodeMcfg,
      decodeMlda, decodeMldb, decodeMrun, decodeMzero, decodeMdrn, decodeMsteer, decodeMstat, decodeSysr, decodeSysw, decodeFres,
      decodeTlbi, decodeTmap, decodeEvictSave, decodeEvictRestore, decodeDloctl, decodeHalt, bind_eq_ok, orIllegal_eq_ok, orOperand_eq_ok,
      permit_eq_ok, zeros_eq_ok, checkOperands_eq_ok, Operand.ofCode_eq_some, boolOf_eq_some, tyIn_eq_some, RM.ofCode_eq_some,
      Target.ofCode_eq_some, RedOp.ofCode_eq_some, SendKind.ofCode_eq_some, RecvKind.ofCode_eq_some, AccKind.ofCode_eq_some,
      DrainKind.ofCode_eq_some, FresKind.ofCode_eq_some, TlbiKind.ofCode_eq_some, redTy_eq_some, and_imp, forall_exists_index,
      Bool.and_eq_true, beq_iff_eq, reduceCtorEq, false_implies, implies_true, Nat.reduceLeDiff]
  all_goals
    intros
    subst_vars
    refine ⟨Instr.wf_of_coded (by assumption) ?_, ?_, ?_⟩
    all_goals
      simp only [encodeFields, Instr.shape, Option.map_some, Option.some.injEq, Fields.mk.injEq, true_and, and_true, Bool.and_true, Instr.size,
        true_or, Guard.code_ofCode, bitOf_decide, Status.code_ofCode, Operand.decide_eq_first, Operand.decide_both_first, *]
  any_goals omega

/-- Whatever the opcode, the decoder reads an instruction from that instruction's own encoding. -/
theorem decode_reads {w w1 : Word} {i : Instr} (h : decode w w1 = .ok i) : Reads (fieldsOf w) w1 i := by
  rcases hw : fieldsOf w with ⟨opc, fn, g, d, x, y, z, t, lo⟩
  rcases Nat.lt_or_ge opc 0x30 with h30 | h30
  · exact reads_of_opc_lt_0x30 hw h30 h
  rcases Nat.lt_or_ge opc 0x50 with h50 | h50
  · exact reads_of_opc_0x30_to_0x4F hw ⟨h30, h50⟩ h
  rcases Nat.lt_or_ge opc 0x80 with h80 | h80
  · exact reads_of_opc_0x50_to_0x7F hw ⟨h50, h80⟩ h
  rcases Nat.lt_or_ge opc 0xA0 with hA0 | hA0
  · exact reads_of_opc_0x80_to_0x9F hw ⟨h80, hA0⟩ h
  · exact reads_of_opc_ge_0xA0 hw hA0 h

/-- Settles O57: the word is the word of its fields, and its fields are those of the instruction read. -/
theorem decodedWellFormed : Obligations.DecodedWellFormed := by
  unfold Obligations.DecodedWellFormed
  intro w w1 i h
  obtain ⟨hwf, hf, hsecond⟩ := decode_reads h
  refine ⟨by rw [← encodeFields_isSome, hf]; rfl, hwf, ?_⟩
  rw [encode_of_fields hf, word_fieldsOf]
  by_cases h16 : i.size = 16
  · have h1 : i.secondWord = w1 := hsecond.resolve_left (by omega)
    rw [if_pos h16, if_pos h16, h1]
  · rw [if_neg h16, if_neg h16]

end Sys2Proof
end

section
/-! PROOFS. Reading an operand after a write to it or to another (O17). -/

namespace Sys2Proof.Machine

theorem writeOp_w (s : State) (t : Threadlet) (n : Fin 64) (x : Word) :
    writeOp s t (.w n) x = (s, { t with w := Tab.set 0 t.w n.val x, bad := t.bad.filter (· ≠ .w n) }) := rfl
theorem writeOp_lr (s : State) (t : Threadlet) (x : Word) :
    writeOp s t .lr x = (s, { t with lr := x, bad := t.bad.filter (· ≠ .lr) }) := rfl
theorem writeOp_k0 (s : State) (t : Threadlet) (x : Word) : writeOp s t (.k 0) x = (s, t) := rfl
theorem writeOp_k (s : State) (t : Threadlet) {n : Fin 8} (hn : n ≠ 0) (x : Word) :
    writeOp s t (.k n) x = (s, { t with k := Tab.set 0 t.k n.val x, bad := t.bad.filter (· ≠ .k n) }) := if_neg hn
theorem writeOp_f (s : State) (t : Threadlet) (n : Fin 120) (x : Word) :
    writeOp s t (.f n) x = (s.modFrame t.ref fun f => f.setWord n.val x, t) := rfl

/-- A write to anything but a frame word leaves the state outside the seat alone. -/
theorem writeOp_state (s : State) (t : Threadlet) {d : Operand} (hd : ∀ n, d ≠ .f n) (x : Word) : (writeOp s t d x).1 = s := by
  cases d with
  | k n =>
    by_cases hn : n = 0
    · rw [hn, writeOp_k0]
    · rw [writeOp_k s t hn]
  | f n => exact absurd rfl (hd n)
  | _ => rfl

theorem frame_modFrame (s : State) (r : FrameRef) (g : Frame → Frame) : (s.modFrame r g).frame r = (s.frame r).map g := by
  unfold State.modFrame
  cases h : s.frame r with
  | none => simp [h]
  | some f => simp

theorem mask_set_same (t : Threadlet) {n : Fin 8} (hn : n ≠ 0) (x : Word) (b : List Operand) :
    Threadlet.mask { t with k := Tab.set 0 t.k n.val x, bad := b } n = x := by
  rw [Threadlet.mask, if_neg hn, Tab.get_set_same]
theorem mask_set_other (t : Threadlet) {n m : Fin 8} (h : m ≠ n) (x : Word) (b : List Operand) :
    Threadlet.mask { t with k := Tab.set 0 t.k n.val x, bad := b } m = t.mask m := by
  simp only [Threadlet.mask, Tab.get_set_other 0 t.k x (Fin.val_ne_of_ne h)]

/-- A frame's continuation does not name its words. -/
theorem fpOf_modFrame_setWord (s : State) (r : FrameRef) (n : Nat) (x : Word) :
    (s.modFrame r fun f => f.setWord n x).fpOf r = s.fpOf r := by
  have htag : (((s.modFrame r fun f => f.setWord n x).frame r).map (·.rtag)) = (s.frame r).map (·.rtag) := by
    rw [frame_modFrame, Option.map_map]
    rfl
  rw [State.fpOf, State.fpOf, State.modFrame_at_pkgSelf, htag]

/-- What an operand reads when a frame word has been written. -/
theorem readOp_modFrame_setWord (s : State) (p : SeatId) (t : Threadlet) (n : Nat) (x : Word) {o : Operand}
    (ho : ∀ m : Fin 120, o = .f m → m.val ≠ n ∨ t.mid.isSome = true) :
    (s.modFrame t.ref fun f => f.setWord n x).readOp ⟨p, t⟩ o = s.readOp ⟨p, t⟩ o := by
  cases o with
  | fp => exact fpOf_modFrame_setWord s t.ref n x
  | cyc => simp only [State.readOp, State.modFrame_at_coreAt]
  | f m =>
    cases hm : t.mid with
    | some mid => simp only [State.readOp, hm]
    | none =>
      have hne : m.val ≠ n := (ho m rfl).resolve_right (by simp [hm])
      simp only [State.readOp, hm, frame_modFrame, Option.map_map, Function.comp_def, Frame.word, Frame.setWord,
        Tab.get_set_other 0 _ x hne]
  | _ => rfl

/-- Every operand but the one written reads as before (R24). -/
theorem readOp_writeOp_other (s : State) (p : SeatId) (t : Threadlet) {d o : Operand} (h : o ≠ d) (x : Word) :
    (writeOp s t d x).1.readOp ⟨p, (writeOp s t d x).2⟩ o = s.readOp ⟨p, t⟩ o := by
  cases d with
  | w n =>
    cases o with
    | w m =>
      have hne : m.val ≠ n.val := fun he => h (congrArg _ (Fin.ext he))
      exact Tab.get_set_other 0 t.w x hne
    | _ => rfl
  | k n =>
    by_cases hn : n = 0
    · rw [hn, writeOp_k0]
    · rw [writeOp_k s t hn]
      cases o with
      | k m => exact mask_set_other t (fun he => h (congrArg _ he)) x _
      | _ => rfl
  | lr =>
    cases o with
    | lr => exact absurd rfl h
    | _ => rfl
  | f n => exact readOp_modFrame_setWord s p t n.val x fun m hm => .inl fun he => h (hm.trans (congrArg _ (Fin.ext he)))
  | _ => rfl

/-- A write to an operand changes nothing of the threadlet but its scalar and mask registers, lr, and their parity marks. -/
theorem writeOp_threadlet (s : State) (t : Threadlet) (d : Operand) (x : Word) :
    ∃ w k lr bad, (writeOp s t d x).2 = { t with w := w, k := k, lr := lr, bad := bad } := by
  cases d with
  | k n =>
    by_cases hn : n = 0
    · exact ⟨t.w, t.k, t.lr, t.bad, by rw [hn, writeOp_k0]⟩
    · exact ⟨_, _, _, _, by rw [writeOp_k s t hn]⟩
  | _ => exact ⟨_, _, _, _, rfl⟩

@[simp] theorem writeOp_mid (s : State) (t : Threadlet) (d : Operand) (x : Word) : (writeOp s t d x).2.mid = t.mid := by
  obtain ⟨w, k, lr, bad, h⟩ := writeOp_threadlet s t d x
  rw [h]

theorem bad_filter_contains (l : List Operand) (o : Operand) : (l.filter (· ≠ o)).contains o = false := by simp

/-- A register that is written reads the value, with good parity (R24, R419). -/
theorem readOp_writeOp_register (s : State) (p : SeatId) (t : Threadlet) {d : Operand} (x : Word)
    (hd : (∃ n, d = .w n) ∨ (∃ n : Fin 8, n ≠ 0 ∧ d = .k n) ∨ d = .lr) :
    (writeOp s t d x).1.readOp ⟨p, (writeOp s t d x).2⟩ d = x ∧ (writeOp s t d x).2.bad.contains d = false := by
  rcases hd with ⟨n, rfl⟩ | ⟨n, hn, rfl⟩ | rfl
  · exact ⟨Tab.get_set_same 0 t.w n.val x, bad_filter_contains t.bad _⟩
  · rw [writeOp_k s t hn]
    exact ⟨mask_set_same t hn x _, bad_filter_contains t.bad _⟩
  · exact ⟨rfl, bad_filter_contains t.bad _⟩

/-- A frame word that is written reads the value, while nothing of the threadlet's instruction is in progress (R30). -/
theorem readOp_writeOp_frameWord (s : State) (p : SeatId) (t : Threadlet) (n : Fin 120) (x : Word) (hf : (s.frame t.ref).isSome = true)
    (hm : t.mid = none) : (writeOp s t (.f n) x).1.readOp ⟨p, (writeOp s t (.f n) x).2⟩ (.f n) = x := by
  obtain ⟨f, hf⟩ := Option.isSome_iff_exists.mp hf
  simp only [writeOp_f, State.readOp, hm, frame_modFrame, hf, Option.map_some, Option.getD_some, Frame.word, Frame.setWord,
    Tab.get_set_same]

/-- Settles O17: one lemma for each kind of operand that is written, and one for every other operand. -/
theorem writeDestination : Obligations.WriteDestination := by
  unfold Obligations.WriteDestination
  intro s t d o x
  refine ⟨readOp_writeOp_register s s.cur t x, ?_, ?_, fun ho => readOp_writeOp_other s s.cur t ho x, fun hd => writeOp_state s t hd x, ?_⟩
  · rintro ⟨n, rfl⟩ hf hm
    exact readOp_writeOp_frameWord s s.cur t n x hf hm
  · rintro (rfl | rfl | rfl | rfl | rfl | rfl | rfl | rfl | rfl) <;> rfl
  · intro n m hm
    have hm' : (writeOp s t d x).2.mid = some m := (writeOp_mid s t d x).trans hm
    simp only [State.readOp, hm']

end Sys2Proof.Machine
end

section
/-! PROOFS. What an instruction whose result is one register comes to: the outcome of its body is the one that the tables of results give
(scalar, floating, lane by lane), and from there what it writes (O7), when it traps (O2) and what it leaves alone (O26). -/

namespace Sys2Proof.Machine
/-! The bodies and the tables of results. -/

theorem intoInt_eq (sat : Bool) (ty : Ty) (d : Operand) (n : Int) :
    intoInt sat ty d n = some (d, put ty (finishInt ty sat n).1, (finishInt ty sat n).2) := by
  cases sat <;> rfl

/-- LIH puts the immediate above the low half of the destination (R105). -/
theorem append_low (imm : BitVec 32) (x : Word) : imm ++ x.setWidth 32 = BitVec.ofNat 64 (imm.toNat * 2 ^ 32 + x.toNat % 2 ^ 32) := by
  apply BitVec.eq_of_toNat_eq
  have := imm.isLt
  rw [BitVec.toNat_append, BitVec.toNat_setWidth, BitVec.toNat_ofNat, Nat.shiftLeft_eq, Nat.mul_comm imm.toNat,
    ← Nat.two_pow_add_eq_or_of_lt (Nat.mod_lt _ (by decide))]
  omega

theorem divBinary_quiet {s : State} {v : View} {ty : Ty} {d x y : Operand} {f : Ty → Int → Int → Int}
    (h : ¬ ((s.ctx v.t.ctx).ien && divTraps ty (s.src v ty x) (s.src v ty y)) = true) :
    divBinary s v ty d x y f = retireOp s v d (put ty (f ty (s.src v ty x) (s.src v ty y))) 0 := if_neg h

/-- An instruction of the integer table that executes comes to the result that the table gives. -/
theorem exec_integer {s : State} {t : Threadlet} {i : Instr} {d : Operand} {x : Word} {f : Fl} (h : Executes s t i)
    (hi : integerResult s (s.view t) i = some (d, x, f)) :
    exec i s = .next (settle i s (s.view t) (retireOp s (s.view t) d x f)) := by
  cases i
  case div g ty d x y | rem g ty d x y =>
    obtain ⟨hq, hi⟩ := Option.ite_none_left_eq_some.mp hi
    cases hi
    rw [← divBinary_quiet hq]
    exact issue_executes h _
  all_goals
    delta integerResult at hi
    dsimp only at hi
    simp only [intoInt_eq, intoWord, append_low, Option.some.injEq, Prod.mk.injEq, reduceCtorEq] at hi
  all_goals
    obtain ⟨rfl, rfl, rfl⟩ := hi
    exact issue_executes h _

/-- An instruction of the floating table that executes comes to the result that the table gives. -/
theorem exec_floating {s : State} {t : Threadlet} {i : Instr} {d : Operand} {x : Word} {f : Fl} (h : Executes s t i)
    (hi : floatingResult s (s.view t) i = some (d, x, f)) :
    exec i s = .next (settle i s (s.view t) (retireOp s (s.view t) d x f)) := by
  cases i <;> cases hi <;> exact issue_executes h _

theorem intoLane_eq (sat : Bool) (ty : Ty) (n : Int) :
    intoLane sat ty n = (putLane ty (finishInt ty sat n).1, (finishInt ty sat n).2) := by
  cases sat <;> rfl

theorem vecInt_eq (s : State) (v : View) (g : Guard) (sat : Bool) (ty : Ty) (d x y : Operand) (f : Int → Int → Int) :
    vecInt s v g sat ty d x y f = retireVec s v d (mapLanes (v.t.guardMask g) (512 / ty.width) ty.width (v.t.vec d) fun j =>
      intoLane sat ty (f (intSrc ty (lane (v.t.vec x) ty.width j)) (intSrc ty (lane (v.t.vec y) ty.width j)))) := by
  simp only [intoLane_eq]
  rfl

theorem foldl_add_eq_sum (n : Nat) (f : Nat → Int) : (List.range n).foldl (fun a k => a + f k) 0 = ((List.range n).map f).sum := by
  rw [List.sum_eq_foldl, List.foldl_map]

theorem dotLane_range (ty : Ty) (rm : RM) (acc n : Nat) (a b : Nat → Nat) :
    dotLane ty rm acc ((List.range n).map fun k => (a k, b k)) =
      if ty.isInt then (accumulateInt acc ((List.range n).foldl (fun x k => x + intSrc ty (a k) * intSrc ty (b k)) 0), 0)
      else
        let src := decodeNum .f32 acc :: (List.range n).map (fun k => decodeNum ty (a k)) ++ (List.range n).map fun k => decodeNum ty (b k)
        let ps := (List.range n).map fun k => mulNum (decodeNum ty (a k)) (decodeNum ty (b k))
        let (r, f) := accumulate (rmMode rm) acc (ps.map (·.1))
        (r, if src.any Num.isNaN then nvOf src else f ||| orFlags (ps.map (·.2))) := by
  rw [foldl_add_eq_sum]
  simp only [dotLane, List.map_map]
  rfl

/-- A lane-wise instruction that executes comes to its lanes' results where they are active. -/
theorem exec_lanes {s : State} {t : Threadlet} {i : Instr} {r : LaneResult} (h : Executes s t i)
    (hi : laneResult s (s.view t) i = some r) :
    exec i s = .next (settle i s (s.view t) (retireVec s (s.view t) r.d (mapLanes (lanesOf t i) r.lanes r.width (t.vec r.d) r.value))) := by
  cases i <;> cases hi
  case vadd | vsub | vmul | vmulh | vabsd =>
    refine (issue_executes h _).trans ?_
    rw [vecInt_eq]
    rfl
  case vmin | vmax =>
    refine (issue_executes h _).trans ?_
    rw [vecInt_eq]
    rfl
  case vand | vor | vxor | vshl | vshr | vsar | vsel | vshuf | vbcast | vpopc | vclz | vmov =>
    exact issue_executes h _
  case vfadd | vfsub | vfmul | vffma | vfmin | vfmax | vfdiv | vrcp | vrsq | vsqrt | vexp2 | vlog2 =>
    exact issue_executes h _
  case vcvt => 
    exact issue_executes h _
  case vrng => 
    exact issue_executes h _
  case vmad => exact issue_executes h _
  case vdot =>
    refine (issue_executes h _).trans ?_
    simp only [dotLane_range]
    rfl

/-- The lanes of a result lie in the register. -/
theorem laneResult_fits {s : State} {v : View} {i : Instr} {r : LaneResult} (hi : laneResult s v i = some r) :
    r.lanes * r.width ≤ 512 := by
  cases i <;> cases hi
  case vcvt g sat dt ty rnd d x =>
    exact (Nat.mul_le_mul_left _ (Nat.le_max_left _ _)).trans (Nat.div_mul_le_self 512 _)
  case vdot => exact Nat.le_refl 512
  all_goals exact Nat.div_mul_le_self 512 _

/-- The outcome of a lane-wise instruction raises the flags of its active lanes. -/
theorem laneResult_flags (r : LaneResult) (m : Word) (old : BitVec 512) : (mapLanes m r.lanes r.width old r.value).2 = r.flags m :=
  mapLanes_flags m r.lanes r.width old r.value

theorem settle_retireVec {s : State} {t : Threadlet} {i : Instr} {d : Operand} {r : BitVec 512 × Fl} (hf : s.quiet t r.2) :
    settle i s (s.view t) (retireVec s (s.view t) d r) = s.retired s.cur t.pc i (t.setVec d r.1) r.2 :=
  settle_next hf

/-- A lane-wise instruction whose flags raise no enabled exception retires with its lanes written. -/
theorem exec_lanes_retires {s : State} {t : Threadlet} {i : Instr} {r : LaneResult} (h : Executes s t i)
    (hi : laneResult s (s.view t) i = some r) (hf : s.quiet t (r.flags (lanesOf t i))) :
    exec i s = .next (s.retired s.cur t.pc i
      (t.setVec r.d (mapLanes (lanesOf t i) r.lanes r.width (t.vec r.d) r.value).1) (r.flags (lanesOf t i))) := by
  rw [exec_lanes h hi, ← laneResult_flags r (lanesOf t i) (t.vec r.d)]
  exact congrArg _ (settle_retireVec (by rwa [laneResult_flags]))

/-- Settles O7: the register is the lane by lane operation on the table's values. -/
theorem vectorLanes : Obligations.VectorLanes := by
  unfold Obligations.VectorLanes
  intro s t i r h hi hf
  have hfit := laneResult_fits hi
  refine ⟨_, exec_lanes_retires h hi hf, fun j hj => ?_, mapLanes_above _ _ _ _ _ hfit _ (Nat.le_refl _)⟩
  simp only [mapLanes_lane _ _ _ _ _ hfit, hj, true_and, active]

/-- An enabled exception turns an outcome that would write an operand into a trap. -/
theorem settle_retireOp_exception {s : State} {t : Threadlet} {i : Instr} {d : Operand} {x : Word} {f : Fl} (hf : ¬ s.quiet t f) :
    settle i s (s.view t) (retireOp s (s.view t) d x f) = s.trapped t i 0x08 0 0 f :=
  settle_exception hf

/-- Settles O2: the outcome that the tables give raises their flags, and an enabled one of them makes it a trap. -/
theorem enabledExceptions : Obligations.EnabledExceptions := by
  unfold Obligations.EnabledExceptions
  refine ⟨?_, ?_⟩
  · rintro s t i d x f h (hi | hi) hf
    · rw [exec_integer h hi, settle_retireOp_exception hf]
    · rw [exec_floating h hi, settle_retireOp_exception hf]
  · intro s t i r h hi hf
    rw [exec_lanes h hi, retireVec, laneResult_flags, settle_exception hf]

/-! What stays as it was. -/

/-- Retiring moves the flags, the PC and what is in progress, which no operand but the cycle counter and the frame words reads. -/
theorem readOp_past (s : State) (p : SeatId) (t : Threadlet) (i : Instr) (f : Fl) (pc : Word) {o : Operand} (hw : ∀ n, o ≠ .f n)
    (hc : o ≠ .cyc ∨ t.mid = none) : s.readOp ⟨p, { t.past i f with pc := pc }⟩ o = s.readOp ⟨p, t⟩ o := by
  cases o with
  | cyc => simp only [State.readOp, Threadlet.past, hc.resolve_left (fun hn => hn rfl)]
  | f n => exact absurd rfl (hw n)
  | _ => rfl

/-- The threadlet after an instruction that writes one operand and retires. -/
def Threadlet.afterWrite (s : State) (t : Threadlet) (i : Instr) (d : Operand) (x : Word) (f : Fl) : Threadlet :=
  { (writeOp s t d x).2.past i f with pc := t.pc + BitVec.ofNat 64 i.size }

/-- The seat and every operand but d are as before instruction i, whose flags are f (R23, R33, R91). -/
def ChangesOnly (s : State) (t : Threadlet) (i : Instr) (d : Operand) (f : Fl) : Prop :=
  ∃ t' : Threadlet, exec i s = .next (s.setSeat s.cur (.run t')) ∧ t'.ref = t.ref ∧ t'.sig = t.sig ∧ t'.v = t.v ∧
    t'.flags = t.flags ||| f ∧ t'.pc = t.pc + BitVec.ofNat 64 i.size ∧
    t'.mid = none ∧ (∀ o, o ≠ d → (∀ n, o ≠ .f n) → (o ≠ .cyc ∨ t.mid = none) → s.readOp ⟨s.cur, t'⟩ o = s.readOp ⟨s.cur, t⟩ o)

/-- An instruction that comes to one operand's new value, no frame word, changes that operand only. -/
theorem changesOnly_of_retireOp {s : State} {t : Threadlet} {i : Instr} {d : Operand} {x : Word} {f : Fl}
    (he : exec i s = .next (settle i s (s.view t) (retireOp s (s.view t) d x f))) (hf : s.quiet t f) (hd : ∀ n, d ≠ .f n) :
    ChangesOnly s t i d f := by
  obtain ⟨w, k, lr, bad, ht⟩ := writeOp_threadlet s t d x
  refine ⟨t.afterWrite s i d x f, ?_, ?_, ?_, ?_, ?_, rfl, rfl, fun o ho hw hc => ?_⟩
  · rw [he, settle_retireOp hf, writeOp_state s t hd]
    rfl
  iterate 4
    rw [Threadlet.afterWrite, ht]
    rfl
  have hread := readOp_writeOp_other s s.cur t ho x
  rw [writeOp_state s t hd] at hread
  rw [Threadlet.afterWrite, readOp_past s s.cur _ i f _ hw (hc.imp id fun hm => (writeOp_mid s t d x).trans hm), hread]

/-- The flags of a mask with one bit per lane are those of its active lanes. -/
theorem mapMask_flags (m : Word) (n : Nat) (old : Word) (f : Nat → Bool × Fl) :
    (mapMask m n old f).2 = orFlags (((List.range n).filter fun j => m.getLsbD j).map fun j => (f j).2) := by
  unfold mapMask
  dsimp only
  induction n with
  | zero => rfl
  | succ n ih =>
    rw [List.range_succ, List.filter_append, List.map_append, List.foldl_append, orFlags, List.foldl_append, ← orFlags, ← ih]
    cases ha : m.getLsbD n <;> simp [active, ha]

theorem orFlags_zero (l : List Nat) : orFlags (l.map fun _ => 0) = 0 := by
  unfold orFlags
  induction l with
  | nil => rfl
  | cons a l ih => simpa using ih

theorem vec_setVec_other (t : Threadlet) {d o : Operand} (h : o ≠ d) (x : BitVec 512) : (t.setVec d x).vec o = t.vec o := by
  cases d with
  | v n =>
    cases o with
    | v m =>
      have hne : m.val ≠ n.val := fun he => h (congrArg _ (Fin.ext he))
      exact Tab.get_set_other 0 t.v x hne
    | _ => rfl
  | _ => rfl

theorem setVec_threadlet (t : Threadlet) (d : Operand) (x : BitVec 512) : ∃ v, t.setVec d x = { t with v := v } := by
  cases d <;> exact ⟨_, rfl⟩

/-- The outcome of a comparison lane by lane: a mask, and the flags of the active lanes (R118). -/
theorem vecMask_eq (s : State) (v : View) (g : Guard) (n : Nat) (d : Operand) (f : Nat → Bool × Fl) :
    vecMask s v g n d f = retireOp s v d (mapMask (v.t.guardMask g) n (s.readOp v d) f).1
      (orFlags (((List.range n).filter fun j => (v.t.guardMask g).getLsbD j).map fun j => (f j).2)) := by
  rw [← mapMask_flags _ _ (s.readOp v d)]
  rfl

/-- A lane-wise instruction that retires changes its destination only. -/
theorem lanes_changesOnly {s : State} {t : Threadlet} {i : Instr} {r : LaneResult} (h : Executes s t i)
    (hi : laneResult s (s.view t) i = some r) (hf : s.quiet t (r.flags (lanesOf t i))) :
    ∃ t' : Threadlet, exec i s = .next (s.setSeat s.cur (.run t')) ∧ t'.ref = t.ref ∧ t'.sig = t.sig ∧ t'.w = t.w ∧ t'.k = t.k ∧
      t'.lr = t.lr ∧ t'.flags = t.flags ||| r.flags (lanesOf t i) ∧ t'.pc = t.pc + BitVec.ofNat 64 i.size ∧
      (∀ o, o ≠ r.d → t'.vec o = t.vec o) := by
  refine ⟨_, exec_lanes_retires h hi hf, ?_⟩
  obtain ⟨v, ht⟩ := setVec_threadlet t r.d (mapLanes (lanesOf t i) r.lanes r.width (t.vec r.d) r.value).1
  refine ⟨?_, ?_, ?_, ?_, ?_, ?_, rfl, fun o ho => ?_⟩
  iterate 6
    rw [ht]
    rfl
  exact vec_setVec_other t ho _

/-- Settles O26: each of the instructions comes to one operand's new value, or to one vector register's. -/
theorem registerFrame : Obligations.RegisterFrame := by
  unfold Obligations.RegisterFrame
  intro s t i f h hf only
  refine ⟨?_, ?_, ?_, ?_⟩
  · rintro d x (hi | hi) hd
    · exact changesOnly_of_retireOp (exec_integer h hi) hf hd
    · exact changesOnly_of_retireOp (exec_floating h hi) hf hd
  · rintro g op c ty d x y (rfl | rfl | rfl | rfl) hd
    · exact changesOnly_of_retireOp (issue_executes h _) (quiet_zero s t) hd
    · exact changesOnly_of_retireOp (issue_executes h _) (quiet_zero s t) hd
    · exact changesOnly_of_retireOp (issue_executes h _) (quiet_zero s t) hd
    · have he := issue_executes h (fun s v => vecMask s v g (512 / ty.width) d fun j =>
        (condInt c (intSrc ty (lane (v.t.vec x) ty.width j)) (intSrc ty (lane (v.t.vec y) ty.width j)), 0))
      rw [vecMask_eq, orFlags_zero] at he
      exact changesOnly_of_retireOp he (quiet_zero s t) hd
  · rintro g c ty d x y rfl hd rfl
    have he := issue_executes h (fun s v => vecMask s v g (512 / ty.width) d fun j =>
      floatCmp c ty (lane (v.t.vec x) ty.width j) (lane (v.t.vec y) ty.width j))
    rw [vecMask_eq] at he
    exact changesOnly_of_retireOp he hf hd
  · rintro r hi rfl
    exact lanes_changesOnly h hi hf

end Sys2Proof.Machine
end

section
/-! PROOFS. The checks before the guard (O19): readiness to issue, then checks 3, 4, 6 and 7 of R76 in their order. -/

namespace Sys2Proof.Machine

/-- What makes an instruction not ready to issue (R215, R274). -/
theorem notReady_iff (s : State) (v : View) (i : Instr) : s.notReady v i = true ↔
    holdsEntry i = true ∧ s.entryFree v.seat = false ∨ entersAnvil i = true ∧ 16 ≤ (s.anvil v.t.ctx v.t.ltn).places := by
  simp [State.notReady]

/-- A seat's instruction that is not ready to issue, and of which nothing is in progress, leaves the state as it is (R35). -/
theorem exec_not_ready {s : State} {t : Threadlet} {i : Instr} {h : Shape} (hr : s.seat s.cur = .run t) (hh : i.shape = some h)
    (hn : s.notReady (s.view t) i = true) (hm : t.mid = none) : exec i s = .next s := by
  obtain ⟨body, hbody⟩ := exec_issue i (by rw [hh]; rfl)
  rw [hbody, issue_not_ready hr hh hn hm]

/-- A failed check of checks 3 to 7 traps, whatever the guard and the body. -/
theorem exec_staticCheck {s : State} {t : Threadlet} {i : Instr} {h : Shape} {c : Nat} (hr : s.seat s.cur = .run t) (hh : i.shape = some h)
    (hn : s.notReady (s.view t) i = false) (hc : staticCheck s t i h = some c) (h30 : c ≠ 0x30) :
    exec i s = .next (s.trapped t i c 0 0 0) := by
  obtain ⟨body, hbody⟩ := exec_issue i (by rw [hh]; rfl)
  have hj : judge i h s (s.view t) body = .trap c 0 0 0 := by simp [judge, hn, hc, trapWith]
  rw [hbody, issue_next hr hh, hj, settle_trap h30]

/-! Checks 3, 4, 6 and 7, each where those before it pass. -/

section
variable {s : State} {t : Threadlet} {i : Instr} {h : Shape}

theorem staticCheck_coded (hc : h.coded = false) : staticCheck s t i h = some 0x01 := by simp [staticCheck, hc]

theorem staticCheck_privilege (hc : h.coded = true) (hp : i.privileged = true ∧ (s.ctx t.ctx).priv = false) :
    staticCheck s t i h = some 0x0B := by simp [staticCheck, hc, hp]

/-- Past the check of privilege, what remains is the operands and the frame words. -/
theorem staticCheck_privileged (hc : h.coded = true) (hp : ¬ (i.privileged = true ∧ (s.ctx t.ctx).priv = false)) :
    staticCheck s t i h = if !h.operandsOk then some 0x03
      else if (frameIndices h).any fun n => frameWords ((s.frame t.ref).any (·.large)) ≤ n then some 0x04 else none := by
  have hp' : (i.privileged && !(s.ctx t.ctx).priv) = false := by simpa using hp
  simp only [staticCheck, hc, hp', Bool.not_true, Bool.false_eq_true, if_false]

theorem staticCheck_operands (hc : h.coded = true) (hp : ¬ (i.privileged = true ∧ (s.ctx t.ctx).priv = false))
    (ho : h.operandsOk = false) : staticCheck s t i h = some 0x03 := by simp [staticCheck_privileged hc hp, ho]

theorem staticCheck_frameWord (hc : h.coded = true) (hp : ¬ (i.privileged = true ∧ (s.ctx t.ctx).priv = false))
    (ho : h.operandsOk = true) (hb : ∃ n ∈ frameIndices h, frameWords ((s.frame t.ref).any (·.large)) ≤ n) : staticCheck s t i h = some 0x04 := by
  simpa [staticCheck_privileged hc hp, ho] using hb

theorem staticCheck_passes (hc : h.coded = true) (hp : ¬ (i.privileged = true ∧ (s.ctx t.ctx).priv = false))
    (ho : h.operandsOk = true) (hb : ¬ ∃ n ∈ frameIndices h, frameWords ((s.frame t.ref).any (·.large)) ≤ n) : staticCheck s t i h = none := by
  simpa [staticCheck_privileged hc hp, ho] using hb

end

/-- Settles O19: each check traps where those before it pass. -/
theorem checksBeforeGuard : Obligations.ChecksBeforeGuard := by
  unfold Obligations.ChecksBeforeGuard
  intro s t i h hr hh
  refine ⟨notReady_iff s (s.view t) i, fun hn hm => exec_not_ready hr hh hn hm, fun hn => ⟨?_, ?_, ?_, ?_, ?_⟩⟩
  · exact fun hc => exec_staticCheck hr hh hn (staticCheck_coded hc) (by decide)
  · exact fun hc hp => exec_staticCheck hr hh hn (staticCheck_privilege hc hp) (by decide)
  · exact fun hc hp ho => exec_staticCheck hr hh hn (staticCheck_operands hc hp ho) (by decide)
  · exact fun hc hp ho hb => exec_staticCheck hr hh hn (staticCheck_frameWord hc hp ho hb) (by decide)
  · exact fun hc hp ho hb hbad => by simp only [passesChecks, hh, staticCheck_passes hc hp ho hb, hbad, Option.isNone_none, Bool.not_false, Bool.and_self]

end Sys2Proof.Machine
end

section
/-! PROOFS. Continuations: the fields of one that is captured, and the bits of one with another slot and word (O29). -/

namespace Sys2Proof.Machine

/-- The fields of a continuation lie one above the other (R145). -/
theorem contOf_toNat (pkg ltn core frm slot rtag word : Nat) : (contOf pkg ltn core frm slot rtag word).toNat =
    pkg % 256 * 2 ^ 56 + ltn % 4096 * 2 ^ 44 + core % 4 * 2 ^ 42 + frm % 256 * 2 ^ 34 + slot % 8 * 2 ^ 31 + rtag % 2 ^ 15 * 2 ^ 16 +
      word % 256 * 2 ^ 8 + 2 ^ 7 := by
  rw [contOf, BitVec.toNat_ofNat]
  omega

/-- The continuation with another slot and word, from the bits above the slot, those between slot and word, and the MBZ bits. -/
theorem contWith_toNat (c : Word) {slot word : Nat} (hs : slot < 8) (hw : word < 256) : (contWith c slot word).toNat =
    2 ^ 34 * (c.toNat / 2 ^ 34) + (2 ^ 31 * slot + (2 ^ 16 * (c.toNat / 2 ^ 16 % 2 ^ 15) + (2 ^ 8 * word + (2 ^ 7 * 1 + c.toNat % 2 ^ 7)))) := by
  have hc := c.isLt
  have hm : c.toNat % 2 ^ 7 < 2 ^ 7 := Nat.mod_lt _ (by decide)
  have hk : (contOf (contPkg c) (contLtn c) (contCore c) (contFrm c) slot (contRtag c) word).toNat =
      2 ^ 7 * (2 ^ 27 * (c.toNat / 2 ^ 34) + 2 ^ 24 * slot + 2 ^ 9 * (c.toNat / 2 ^ 16 % 2 ^ 15) + 2 * word + 1) := by
    rw [contOf_toNat, contPkg, contLtn, contCore, contFrm, contRtag]
    omega
  rw [contWith, BitVec.toNat_or, hk, BitVec.toNat_ofNat, contMbz, Nat.mod_eq_of_lt (a := c.toNat % 2 ^ 7) (by omega),
    ← Nat.two_pow_add_eq_or_of_lt hm]
  omega

theorem contWith_bit (c : Word) {slot word j : Nat} (hs : slot < 8) (hw : word < 256) (hj : j < 64) :
    (contWith c slot word).getLsbD j =
      if j = 7 then true
      else if 31 ≤ j ∧ j < 34 then slot.testBit (j - 31)
      else if 8 ≤ j ∧ j < 16 then word.testBit (j - 8)
      else c.getLsbD j := by
  have hm : c.toNat % 2 ^ 7 < 2 ^ 7 := Nat.mod_lt _ (by decide)
  have hr : c.toNat / 2 ^ 16 % 2 ^ 15 < 2 ^ 15 := Nat.mod_lt _ (by decide)
  rw [BitVec.getLsbD, BitVec.getLsbD, contWith_toNat c hs hw, Nat.testBit_two_pow_mul_add _ (by omega), Nat.testBit_two_pow_mul_add _ (by omega),
    Nat.testBit_two_pow_mul_add _ (by omega), Nat.testBit_two_pow_mul_add _ (by omega), Nat.testBit_two_pow_mul_add _ (by omega)]
  simp only [Nat.testBit_div_two_pow, Nat.testBit_mod_two_pow]
  rcases Nat.lt_or_ge j 7 with h | h
  · simp [show j < 34 by omega, show j < 31 by omega, show j < 16 by omega, show j < 8 by omega, h, show j ≠ 7 by omega,
      show ¬ 31 ≤ j by omega, show ¬ 8 ≤ j by omega]
  rcases Nat.lt_or_ge j 8 with h' | h'
  · obtain rfl : j = 7 := by omega
    simp
  rcases Nat.lt_or_ge j 16 with h'' | h''
  · simp [show j < 34 by omega, show j < 31 by omega, h'', show ¬ j < 8 by omega, h', show j ≠ 7 by omega, show ¬ 31 ≤ j by omega]
  rcases Nat.lt_or_ge j 31 with h3 | h3
  · simp [show j < 34 by omega, h3, show ¬ j < 16 by omega, show j ≠ 7 by omega, show ¬ 31 ≤ j by omega, show j - 16 < 15 by omega,
      Nat.sub_add_cancel h'']
  rcases Nat.lt_or_ge j 34 with h4 | h4
  · simp [h4, show ¬ j < 31 by omega, show j ≠ 7 by omega, h3]
  · simp [show ¬ j < 34 by omega, show ¬ j < 16 by omega, show j ≠ 7 by omega, Nat.sub_add_cancel h4]

/-- The destination of a slot target, by its fields (R26, R145). -/
theorem fields_of_contWith {s : State} {t : Threadlet} {n w : Nat} {f : Frame} (hn : n < 8) (hw : w < 256) (hltn : t.ltn < 4096)
    (hcore : t.core < 4) (hfrm : t.frm < 256) (htag : f.rtag < 2 ^ 15) (hf : s.frame t.ref = some f) :
    let c := contWith (s.fpOf t.ref) n w
    contV c = true ∧ contMbz c = 0 ∧ contPkg c = s.pkgSelf t.ctx ∧ contLtn c = t.ltn ∧ contCore c = t.core ∧ contFrm c = t.frm ∧
      contRtag c = f.rtag ∧ contSlot c = n ∧ contWord c = w := by
  intro c
  have hpkg : s.pkgSelf t.ctx < 256 := Nat.mod_lt _ (by decide)
  have hc : c.toNat = s.pkgSelf t.ctx * 2 ^ 56 + t.ltn * 2 ^ 44 + t.core * 2 ^ 42 + t.frm * 2 ^ 34 + n * 2 ^ 31 + f.rtag * 2 ^ 16 +
      w * 2 ^ 8 + 2 ^ 7 := by
    have hfp : (s.fpOf t.ref).toNat = _ := contOf_toNat _ _ _ _ _ _ _
    rw [contWith_toNat _ hn hw, hfp, hf]
    simp only [Threadlet.ref, Option.map_some, Option.getD_some]
    omega
  simp only [contV, contMbz, contPkg, contLtn, contCore, contFrm, contRtag, contSlot, contWord, hc, decide_eq_true_eq]
  omega

/-- Settles O29: the fields and the bits of a continuation lie one above the other, and CONT rewrites the slot and the word. -/
theorem continuations : Obligations.Continuations := by
  refine ⟨fun s t n q w f hw hltn hcore hfrm htag hf => ⟨⟨_, rfl, ?_⟩, rfl, rfl⟩, fun c slot word j hs hw hj => contWith_bit c hs hw hj⟩
  exact fields_of_contWith n.isLt hw hltn hcore hfrm htag hf

end Sys2Proof.Machine
end

section
/-! PROOFS. Trap entry: the parked frame, the seat in SAVE, and the record in the queue (O21). -/

namespace Sys2Proof.Machine

/-- A frame as the trap of one of its threadlets leaves it (R376). -/
def Frame.parkedByTrap (f : Frame) : Frame := { f with st := .parked, nt := f.nt + 1, runs := f.runs - 1, ovf := false }

/-- The state after the frame has parked, its seat in SAVE (R22, R376). -/
def State.inSave (s : State) (t : Threadlet) (f : Frame) : State :=
  ((s.setFrame t.ref f.parkedByTrap).settleCore t.ctx t.ltn t.core).setSeat s.cur (.save { t with mid := none })

/-- The trap's record on its way to the queue. -/
def State.trapJob (s : State) (t : Threadlet) (f : Frame) (info : TrapInfo) : TrapJob :=
  ⟨t.ctx, s.frameRecord t.ref { info with rfl := info.rfl ||| 1 }, some t.ref, f.rtag, some s.cur, some { t with mid := none }, none⟩

/-- The rotations stand in the tiles, and a core that settles changes nothing else. -/
theorem settleCore_tiles (s : State) (ctx ltn core : Nat) : ∃ tiles, s.settleCore ctx ltn core = { s with tiles := tiles } := by
  unfold State.settleCore
  split
  · exact ⟨_, rfl⟩
  · exact ⟨s.tiles, rfl⟩

/-- Parking and SAVE change the frame and the tiles. -/
theorem inSave_tiles (s : State) (t : Threadlet) (f : Frame) :
    ∃ tiles, s.inSave t f = { s.setFrame t.ref f.parkedByTrap with tiles := tiles } := by
  obtain ⟨tiles, h⟩ := settleCore_tiles (s.setFrame t.ref f.parkedByTrap) t.ctx t.ltn t.core
  rw [State.inSave, h]
  exact ⟨_, rfl⟩

theorem frame_setFrame_other (s : State) {q r : FrameRef} (f : Frame)
    (h : partKey r.ctx r.ltn ≠ partKey q.ctx q.ltn ∨ r.core ≠ q.core ∨ r.frm ≠ q.frm) : (s.setFrame q f).frame r = s.frame r := by
  by_cases hp : partKey r.ctx r.ltn = partKey q.ctx q.ltn
  · have hpart : ∀ x : State, x.part r.ctx r.ltn = x.part q.ctx q.ltn := fun x => by rw [State.part, State.part, hp]
    by_cases hc : r.core = q.core
    · have hf : r.frm ≠ q.frm := (h.resolve_left (· hp)).resolve_left (· hc)
      simp [State.frame, State.setFrame, State.setPartCore, State.partCore, hpart, hc, Tab.find_put_other _ _ hf]
    · simp [State.frame, State.setFrame, State.setPartCore, State.partCore, hpart, Part.core_setCore_other _ _ hc]
  · simp [State.frame, State.setFrame, State.setPartCore, State.partCore, State.part_setPart_other s _ hp]

theorem frame_inSave_same (s : State) (t : Threadlet) (f : Frame) : (s.inSave t f).frame t.ref = some f.parkedByTrap := by
  obtain ⟨tiles, h⟩ := inSave_tiles s t f
  rw [h]
  exact s.frame_setFrame_same t.ref f.parkedByTrap

theorem frame_inSave_other (s : State) {t : Threadlet} {r : FrameRef} (f : Frame)
    (h : partKey r.ctx r.ltn ≠ partKey t.ctx t.ltn ∨ r.core ≠ t.core ∨ r.frm ≠ t.frm) : (s.inSave t f).frame r = s.frame r := by
  obtain ⟨tiles, hs⟩ := inSave_tiles s t f
  rw [hs]
  exact frame_setFrame_other s (q := t.ref) f.parkedByTrap h

theorem byte_setFrame (s : State) (r : FrameRef) (f : Frame) (b : Nat) :
    ((s.setFrame r f).part r.ctx r.ltn).byte b = (s.part r.ctx r.ltn).byte b := by
  simp [State.setFrame, State.setPartCore, Part.setCore, Part.byte]

theorem byte_inSave (s : State) (t : Threadlet) (f : Frame) (b : Nat) :
    ((s.inSave t f).part t.ctx t.ltn).byte b = (s.part t.ctx t.ltn).byte b := by
  obtain ⟨tiles, h⟩ := inSave_tiles s t f
  rw [h]
  exact byte_setFrame s t.ref f.parkedByTrap b

theorem inSave_mem (s : State) (t : Threadlet) (f : Frame) : (s.inSave t f).mem = s.mem := by
  obtain ⟨tiles, h⟩ := inSave_tiles s t f
  rw [h]; rfl

theorem inSave_host (s : State) (t : Threadlet) (f : Frame) : (s.inSave t f).host = s.host := by
  obtain ⟨tiles, h⟩ := inSave_tiles s t f
  rw [h]; rfl

theorem inSave_jobs (s : State) (t : Threadlet) (f : Frame) : (s.inSave t f).jobs = s.jobs := by
  obtain ⟨tiles, h⟩ := inSave_tiles s t f
  rw [h]; rfl

theorem inSave_at_ctx (s : State) (t : Threadlet) (f : Frame) (n : Nat) : (s.inSave t f).ctx n = s.ctx n := by
  obtain ⟨tiles, h⟩ := inSave_tiles s t f
  rw [h]; rfl

theorem inSave_at_tme (s : State) (t : Threadlet) (f : Frame) (n m : Nat) : (s.inSave t f).tme n m = s.tme n m := by
  rw [State.tme, State.tme, inSave_at_ctx]

theorem inSave_jobAway (s : State) (t : Threadlet) (f : Frame) (j : TrapJob) : (s.inSave t f).jobAway j = s.jobAway j := by
  simp only [State.jobAway, inSave_at_tme]

theorem inSave_trapEntry (s : State) (t : Threadlet) (f : Frame) (ctx n : Nat) : (s.inSave t f).trapEntry ctx n = s.trapEntry ctx n := by
  simp only [State.trapEntry, State.trapBase, State.trapSize, inSave_at_ctx]

/-- Trap entry parks the frame, saves the seat and posts the record. -/
theorem trap_of_frame {s : State} {t : Threadlet} {f : Frame} (hf : s.frame t.ref = some f) (info : TrapInfo) :
    s.trap (s.view t) info = (s.inSave t f).postJob (s.trapJob t f info) := by
  simp only [State.trap, State.view, hf]
  rfl

/-- A frame's record waits as the last of the jobs. -/
theorem waitJob_of_frame (s : State) {j : TrapJob} (h : j.frame.isSome = true) : s.waitJob j = { s with jobs := s.jobs ++ [j] } := by
  simp [State.waitJob, h]

theorem postJob_behind {s : State} {j : TrapJob} (hj : j.frame.isSome = true)
    (h : (s.jobs.any fun x => decide (x.ctx = j.ctx) && !s.jobAway x) = true) : s.postJob j = { s with jobs := s.jobs ++ [j] } := by
  rw [State.postJob, if_pos (.inr h), waitJob_of_frame s hj]

theorem postJob_run {s s' : State} {j : TrapJob} (ha : s.jobAway j = false) (hj : ∀ x ∈ s.jobs, x.ctx ≠ j.ctx)
    (h : s.runJob j = .ok s') : s.postJob j = s' := by
  have hn : (s.jobs.any fun x => decide (x.ctx = j.ctx) && !s.jobAway x) = false := by
    simpa using fun x hx he => absurd he (hj x hx)
  rw [State.postJob, if_neg (by simp [ha, hn]), h]

/-- A record that finds room and whose pages are writable: it is written, its seat leaves SAVE and the handler is notified. -/
theorem runJob_written {s s2 s3 : State} {j : TrapJob} {t : Threadlet} {n : Nat} (ht : j.thread = some t) (hl : j.bytes.length ≠ 288)
    (ha : s.allocate (s.jobDev j) = .ok (some (n, s2)))
    (hw : s2.devWrite (s.jobDev j) (s.trapEntry j.ctx n) (padTo 512 j.bytes ++ seatImage t) = .ok s3) :
    s.runJob j = .ok (((s3.endSave j).noteSaved j.ctx n j).notifyTrap j.ctx (((s3.endSave j).noteSaved j.ctx n j).jobPtn j) n) := by
  simp [State.runJob, ha, ht, hw, hl]

theorem length_leBytes (n x : Nat) : (leBytes n x).length = n := by
  induction n generalizing x with
  | zero => rfl
  | succ n ih => simp [leBytes, ih]

/-- A frame's record has 48 bytes (R375), a deadlock's 288 (R265). -/
theorem length_frameRecord (s : State) (r : FrameRef) (info : TrapInfo) : (s.frameRecord r info).length = 48 := by
  simp [State.frameRecord, trapRecord, length_leBytes]

/-- A trap behind an earlier record of its context waits (R374; notes/assumptions/72.md). -/
theorem trap_behind {s : State} {t : Threadlet} {f : Frame} (hf : s.frame t.ref = some f) (info : TrapInfo)
    (h : (s.jobs.any fun x => decide (x.ctx = t.ctx) && !s.jobAway x) = true) :
    s.trap (s.view t) info = { s.inSave t f with jobs := s.jobs ++ [s.trapJob t f info] } := by
  rw [trap_of_frame hf, postJob_behind rfl, inSave_jobs]
  simp only [inSave_jobs, inSave_jobAway]
  exact h

/-- A trap of a resident tile with no earlier record of its context, for which the queue has room. -/
theorem trap_written {s s2 s3 : State} {t : Threadlet} {f : Frame} {n : Nat} (hf : s.frame t.ref = some f) (info : TrapInfo)
    (hj : ∀ x ∈ s.jobs, x.ctx ≠ t.ctx) (hr : (s.tme t.ctx t.ltn).st = .resident)
    (ha : (s.inSave t f).allocate ((s.inSave t f).jobDev (s.trapJob t f info)) = .ok (some (n, s2)))
    (hw : s2.devWrite ((s.inSave t f).jobDev (s.trapJob t f info)) (s.trapEntry t.ctx n)
      (padTo 512 (s.frameRecord t.ref { info with rfl := info.rfl ||| 1 }) ++ seatImage t) = .ok s3) :
    let j := s.trapJob t f info
    s.trap (s.view t) info =
      ((s3.endSave j).noteSaved t.ctx n j).notifyTrap t.ctx (((s3.endSave j).noteSaved t.ctx n j).jobPtn j) n := by
  intro j
  have haway : (s.inSave t f).jobAway j = false := by
    rw [inSave_jobAway]
    simp [State.jobAway, j, State.trapJob, Threadlet.ref, hr]
  have hlen : j.bytes.length ≠ 288 := by simp [j, State.trapJob, length_frameRecord]
  rw [trap_of_frame hf]
  refine postJob_run haway (by rw [inSave_jobs]; exact hj) (runJob_written rfl hlen ha ?_)
  rw [inSave_trapEntry]
  exact hw

/-- Settles O21: the record is a job, which waits behind an earlier one or runs at once. -/
theorem trapEntry : Obligations.TrapEntry := by
  intro s t f info hf record parked kept saved
  refine ⟨⟨frame_inSave_same s t f, State.seat_setSeat_same _ _ _, inSave_mem s t f, inSave_host s t f,
    fun r hr => frame_inSave_other s f hr, byte_inSave s t f⟩, trap_behind hf info, ?_⟩
  intro n s2 s3 hj hr dev ha hw
  exact trap_written hf info hj hr ha hw

end Sys2Proof.Machine
end

section
/-! PROOFS. Fixed words of the encoding tables (O55) and the state that package reset leaves (O59). -/

namespace Sys2Proof

/-- Settles O55, by running the decoder on each of the words. -/
theorem decodeWords : Obligations.DecodeWords := by
  unfold Obligations.DecodeWords
  decide

end Sys2Proof

namespace Sys2Proof.Machine

theorem reset_seat (p : SeatId) : State.reset.seat p = .idle := rfl
theorem reset_counters (ptn core : Nat) :
    (State.reset.coreAt ptn core).cyc = 0 ∧ (State.reset.coreAt ptn core).nGap = 0 ∧ (State.reset.coreAt ptn core).bGap = 0 :=
  ⟨rfl, rfl, rfl⟩
theorem reset_frame (ref : FrameRef) : State.reset.frame ref = none := rfl

/-- Bit 16 of PORTM, which brings a scale-up port up (R398), is zero at reset. -/
theorem reset_port_down : PortMode.reset.word.getLsbD 16 = false := by decide

/-- Settles O59: the reset state lists nothing, so each register reads its reset value. -/
theorem resetState : Obligations.ResetState := by
  unfold Obligations.ResetState
  exact ⟨reset_seat, reset_counters, reset_frame, fun _ => ⟨rfl, rfl, fun _ => rfl⟩, ⟨rfl, rfl, rfl⟩, fun _ => rfl,
    ⟨rfl, rfl, rfl, rfl, rfl, rfl⟩, fun _ => ⟨reset_port_down, rfl⟩, ⟨rfl, rfl, rfl, rfl, rfl⟩, rfl, ⟨rfl, rfl, rfl, rfl⟩⟩

end Sys2Proof.Machine
end

section
/-! PROOFS. Division: the equation of the quotient and the remainder, and the cases that trap (R54, R99; O3). -/

namespace Sys2Proof.Machine

theorem divInt_zero (ty : Ty) (a : Int) : divInt ty a 0 = if ty.signed then -1 else 2 ^ ty.width - 1 := if_pos rfl
theorem remInt_zero (ty : Ty) (a : Int) : remInt ty a 0 = a := if_pos rfl
theorem divInt_of_ne (ty : Ty) (a : Int) {b : Int} (h : b ≠ 0) : divInt ty a b = a.tdiv b := if_neg h
theorem remInt_of_ne (ty : Ty) (a : Int) {b : Int} (h : b ≠ 0) : remInt ty a b = a.tmod b := if_neg h

theorem divTraps_iff (ty : Ty) (a b : Int) :
    divTraps ty a b = true ↔ b = 0 ∨ (ty.signed = true ∧ a = minInt ty ∧ b = -1) := by
  simp only [divTraps, Bool.or_eq_true, Bool.and_eq_true, decide_eq_true_eq, and_assoc]

/-- A remainder has the sign of the dividend or is 0. -/
theorem tmod_sign (a b : Int) : a.tmod b = 0 ∨ (0 < a.tmod b ↔ 0 < a) := by
  rcases Int.le_total 0 a with h | h
  · have hr := Int.tmod_nonneg b h
    rcases h.eq_or_lt with rfl | ha
    · exact .inl (Int.zero_tmod b)
    · exact (eq_or_ne (a.tmod b) 0).imp id fun hn => ⟨fun _ => ha, fun _ => hr.lt_of_ne hn.symm⟩
  · have hr : a.tmod b ≤ 0 := by
      have := Int.tmod_nonneg b (Int.neg_nonneg_of_nonpos h)
      rw [Int.neg_tmod] at this
      omega
    exact .inr ⟨fun hp => absurd hr hp.not_ge, fun hp => absurd h hp.not_ge⟩

/-- For a divisor that is not 0, quotient and remainder satisfy the equation of division. -/
theorem divInt_remInt (ty : Ty) (a : Int) {b : Int} (h : b ≠ 0) :
    a = divInt ty a b * b + remInt ty a b ∧ (remInt ty a b).natAbs < b.natAbs ∧
      (remInt ty a b = 0 ∨ (0 < remInt ty a b ↔ 0 < a)) := by
  rw [divInt_of_ne ty a h, remInt_of_ne ty a h]
  refine ⟨(Int.tdiv_mul_add_tmod a b).symm, ?_, tmod_sign a b⟩
  rw [Int.natAbs_tmod]
  exact Nat.mod_lt _ (Int.natAbs_pos.mpr h)

/-- A division that executes traps with cause 0x07 in the cases of R54 under the integer-trap enable, and writes its result in all others. -/
theorem exec_division {s : State} {t : Threadlet} {i : Instr} {ty : Ty} {d x y : Operand} {f : Ty → Int → Int → Int} (h : Executes s t i)
    (hi : exec i s = issue i s fun s v => divBinary s v ty d x y f) :
    let a := s.src (s.view t) ty x
    let b := s.src (s.view t) ty y
    let trapping : Prop := (s.ctx t.ctx).ien = true ∧ (b = 0 ∨ (ty.signed = true ∧ a = minInt ty ∧ b = -1))
    (trapping → exec i s = .next (s.trapped t i 0x07 0 0 0)) ∧
    (¬ trapping → exec i s = .next ((writeOp s t d (put ty (f ty a b))).1.retired s.cur t.pc i (writeOp s t d (put ty (f ty a b))).2 0)) := by
  intro a b trapping
  have hiff : ((s.ctx t.ctx).ien && divTraps ty a b) = true ↔ trapping := by rw [Bool.and_eq_true, divTraps_iff]
  rw [hi, issue_executes h]
  refine ⟨fun ht => ?_, fun ht => ?_⟩
  · have hb : divBinary s (s.view t) ty d x y f = trapWith 0x07 := if_pos (hiff.mpr ht)
    rw [hb]
    exact congrArg _ (settle_trap (by decide))
  · rw [divBinary_quiet (hiff.not.mpr ht)]
    exact congrArg _ (settle_retireOp (quiet_zero s t))

/-- Settles O3: the quotient and the remainder are those of R54. -/
theorem divideAndRemainder : Obligations.DivideAndRemainder := by
  unfold Obligations.DivideAndRemainder
  intro s t g ty d x y a b trapping
  refine ⟨divInt ty a b, remInt ty a b, fun hb => ?_, divInt_remInt ty a, fun h => exec_division h rfl, fun h => exec_division h rfl⟩
  rw [hb]
  exact ⟨remInt_zero ty a, divInt_zero ty a⟩

end Sys2Proof.Machine
end

section
/-! PROOFS. Sources and results as numbers of a type's width: Src, Put and the clamp of PutSat (R38, R89; O4). -/

namespace Sys2Proof

theorem Ty.width_pos (ty : Ty) : 0 < ty.width := by cases ty <;> decide
theorem Ty.width_le (ty : Ty) : ty.width ≤ 64 := by cases ty <;> decide
theorem Ty.width_bytes {ty : Ty} (h : ty.inI = true) : ty.width % 8 = 0 := by revert h; cases ty <;> decide

/-- The halves of the range of a type. -/
theorem Ty.two_pow_width (ty : Ty) : 2 ^ ty.width = 2 * 2 ^ (ty.width - 1) := by
  rw [← Nat.pow_succ', Nat.succ_eq_add_one, Nat.sub_add_cancel ty.width_pos]

end Sys2Proof

namespace Sys2Proof.Machine

/-- Src reads a number from a bit vector of the type's width. -/
theorem intSrc_toNat (ty : Ty) (b : BitVec ty.width) :
    intSrc ty b.toNat = if ty.signed then b.toInt else (b.toNat : Int) := by
  have hw := ty.two_pow_width
  rw [intSrc, Nat.mod_eq_of_lt b.isLt]
  cases ty.signed with
  | false => rfl
  | true =>
    have hc : ((2 : Int) ^ ty.width) = ((2 ^ ty.width : Nat) : Int) := by norm_cast
    simp only [Bool.true_and, decide_eq_true_eq, if_true, BitVec.toInt, hc]
    by_cases h : 2 ^ (ty.width - 1) ≤ b.toNat
    · rw [if_pos h, if_neg (by omega)]
    · rw [if_neg h, if_pos (by omega)]

theorem intSrc_mod (ty : Ty) (n : Nat) : intSrc ty (n % 2 ^ ty.width) = intSrc ty n := by
  rw [intSrc, intSrc, Nat.mod_mod]

/-- Src reads the low bits of a register. -/
theorem intSrc_setWidth (ty : Ty) (v : Word) :
    intSrc ty v.toNat = if ty.signed then (v.setWidth ty.width).toInt else ((v.setWidth ty.width).toNat : Int) := by
  rw [← intSrc_toNat, BitVec.toNat_setWidth, intSrc_mod]

theorem minInt_le_intSrc (ty : Ty) (n : Nat) : minInt ty ≤ intSrc ty n ∧ intSrc ty n ≤ maxInt ty := by
  have hw := ty.two_pow_width
  have hn := Nat.mod_lt n (Nat.two_pow_pos ty.width)
  have hc : ((2 : Int) ^ ty.width) = ((2 ^ ty.width : Nat) : Int) := by norm_cast
  have hc' : ((2 : Int) ^ (ty.width - 1)) = ((2 ^ (ty.width - 1) : Nat) : Int) := by norm_cast
  rw [minInt, maxInt, intSrc, hc, hc']
  cases ty.signed <;> simp only [Bool.true_and, Bool.false_and, decide_eq_true_eq, if_true, Bool.false_eq_true, if_false]
  · omega
  · split <;> omega

theorem putLane_ofInt (ty : Ty) (n : Int) : putLane ty n = (BitVec.ofInt ty.width n).toNat := by
  rw [putLane, BitVec.toNat_ofInt]
  norm_cast

/-- Put reduces to the width and extends to 64 bits. -/
theorem put_eq_extend (ty : Ty) (n : Int) :
    put ty n = if ty.signed then (BitVec.ofInt ty.width n).signExtend 64 else (BitVec.ofInt ty.width n).setWidth 64 := by
  rw [put, putLane_ofInt, intSrc_toNat]
  cases ty.signed with
  | true => rfl
  | false => exact (BitVec.ofInt_natCast ..).trans (BitVec.ofNat_toNat ..)

theorem minInt_le_maxInt (ty : Ty) : minInt ty ≤ maxInt ty :=
  (minInt_le_intSrc ty 0).1.trans (minInt_le_intSrc ty 0).2

/-- The clamp of PutSat gives the nearest value of the range, and SAT where it differs. -/
theorem clamp_eq (ty : Ty) (n : Int) :
    clamp ty n = (max (minInt ty) (min (maxInt ty) n), if minInt ty ≤ n ∧ n ≤ maxInt ty then 0 else Fl.sat) := by
  have := minInt_le_maxInt ty
  unfold clamp
  rcases lt_or_ge n (minInt ty) with hl | hl
  · rw [if_pos hl, if_neg (by omega)]
    congr 1
    omega
  rcases lt_or_ge (maxInt ty) n with hg | hg
  · rw [if_neg hl.not_gt, if_pos hg, if_neg (by omega)]
    congr 1
    omega
  · rw [if_neg hl.not_gt, if_neg hg.not_gt, if_pos ⟨hl, hg⟩]
    congr 1
    omega

/-- Settles O4, at every width. -/
theorem sourceAndPut : Obligations.SourceAndPut := by
  unfold Obligations.SourceAndPut
  intro ty v n _
  obtain ⟨hmin, hmax⟩ := minInt_le_intSrc ty v.toNat
  exact ⟨intSrc_setWidth ty v, hmin, hmax, put_eq_extend ty n, congrArg Prod.fst (clamp_eq ty n), congrArg Prod.snd (clamp_eq ty n)⟩

end Sys2Proof.Machine
end

section
/-! PROOFS. Shifts and rotates, counts, reversals and bit fields, bit by bit (O5). -/

namespace Sys2Proof.Machine

/-! Shifts and rotates (R100). -/

/-- Two fields of a number, one above the other. -/
theorem rotate_fields {w n x : Nat} (hn : n ≤ w) (hx : x < 2 ^ w) :
    x * 2 ^ n % 2 ^ w ||| x / 2 ^ (w - n) = x * 2 ^ n % 2 ^ w + x / 2 ^ (w - n) := by
  have hp : 2 ^ w = 2 ^ n * 2 ^ (w - n) := by rw [← pow_add, Nat.add_sub_cancel' hn]
  have hlow : x / 2 ^ (w - n) < 2 ^ n := Nat.div_lt_of_lt_mul (by rwa [Nat.mul_comm, ← hp])
  rw [Nat.mul_comm x, hp, Nat.mul_mod_mul_left, ← Nat.two_pow_add_eq_or_of_lt hlow]

/-- A negative number shifted right takes ones from above. -/
theorem sar_negative {w n x : Nat} (hn : n ≤ w) (hx : x < 2 ^ w) :
    2 ^ w - 1 - (2 ^ w - 1 - x) / 2 ^ n = 2 ^ w - 2 ^ (w - n) + x / 2 ^ n := by
  have hp : 2 ^ w = 2 ^ n * 2 ^ (w - n) := by rw [← pow_add, Nat.add_sub_cancel' hn]
  have hq : x / 2 ^ n < 2 ^ (w - n) := Nat.div_lt_of_lt_mul (by rwa [← hp])
  have hle : 2 ^ (w - n) ≤ 2 ^ w := Nat.pow_le_pow_right (by decide) (Nat.sub_le ..)
  have hd : (2 ^ w - 1 - x) / 2 ^ n = 2 ^ (w - n) - (x / 2 ^ n + 1) := by
    rw [Nat.sub_sub, Nat.add_comm 1 x, hp, Nat.mul_sub_div _ _ _ (hp ▸ hx)]
  rw [hd]
  generalize x / 2 ^ n = q at hq
  omega

section
variable (w : Nat) (x y : Word)

theorem shiftBits_shl : shiftBits .shl w x.toNat y.toNat = (x.setWidth w <<< (y.toNat % w)).toNat := by
  rw [BitVec.toNat_shiftLeft, BitVec.toNat_setWidth, Nat.shiftLeft_eq]
  rfl

theorem shiftBits_shr : shiftBits .shr w x.toNat y.toNat = (x.setWidth w >>> (y.toNat % w)).toNat := by
  rw [BitVec.toNat_ushiftRight, BitVec.toNat_setWidth, Nat.shiftRight_eq_div_pow]
  rfl

variable {w} (hw : 0 < w)
include hw

theorem shiftBits_sar : shiftBits .sar w x.toNat y.toNat = ((x.setWidth w).sshiftRight (y.toNat % w)).toNat := by
  have hn := (Nat.mod_lt y.toNat hw).le
  rw [BitVec.toNat_sshiftRight, BitVec.msb_eq_decide, Nat.shiftRight_eq_div_pow, Nat.shiftRight_eq_div_pow,
    sar_negative hn (BitVec.isLt _), BitVec.toNat_setWidth]
  rfl

theorem shiftBits_rol : shiftBits .rol w x.toNat y.toNat = ((x.setWidth w).rotateLeft (y.toNat % w)).toNat := by
  have hn := (Nat.mod_lt y.toNat hw).le
  rw [BitVec.toNat_rotateLeft, Nat.mod_mod, Nat.shiftLeft_eq, Nat.shiftRight_eq_div_pow, rotate_fields hn (BitVec.isLt _), BitVec.toNat_setWidth]
  rfl

theorem shiftBits_ror : shiftBits .ror w x.toNat y.toNat = ((x.setWidth w).rotateRight (y.toNat % w)).toNat := by
  have hn := (Nat.mod_lt y.toNat hw).le
  have hr := rotate_fields (Nat.sub_le w (y.toNat % w)) (x.setWidth w).isLt
  rw [Nat.sub_sub_self hn, Nat.or_comm, Nat.add_comm] at hr
  rw [BitVec.toNat_rotateRight, Nat.mod_mod, Nat.shiftLeft_eq, Nat.shiftRight_eq_div_pow, hr, BitVec.toNat_setWidth]
  rfl

end

/-! Counts (R101). -/

theorem findIdx_congr {α : Type} {p q : α → Bool} {l : List α} (h : ∀ a ∈ l, p a = q a) : l.findIdx p = l.findIdx q := by
  induction l with
  | nil => rfl
  | cons a l ih =>
    rw [List.findIdx_cons, List.findIdx_cons, h a (List.mem_cons_self ..), ih fun b hb => h b (List.mem_cons_of_mem _ hb)]

theorem testBit_mod_of_lt {x w j : Nat} (h : j < w) : (x % 2 ^ w).testBit j = x.testBit j := by
  rw [Nat.testBit_mod_two_pow, decide_eq_true h, Bool.true_and]

theorem ctzBits_go (k x n : Nat) : ctzBits.go k x n = n + (List.range k).findIdx fun j => x.testBit j := by
  induction k generalizing x n with
  | zero => rfl
  | succ k ih =>
    have hstep : ctzBits.go (k + 1) x n = if x % 2 = 1 then n else ctzBits.go k (x / 2) (n + 1) := rfl
    rw [hstep, List.range_succ_eq_map, List.findIdx_cons, List.findIdx_map, Nat.testBit_zero, ih]
    by_cases h : x % 2 = 1
    · simp [h]
    · simp [h, Function.comp_def, Nat.testBit_succ]
      omega

theorem ctzBits_eq (w : Nat) (x : Word) : ctzBits w x.toNat = (List.range w).findIdx fun j => x.getLsbD j := by
  rw [ctzBits, ctzBits_go, Nat.zero_add]
  exact findIdx_congr fun j hj => testBit_mod_of_lt (List.mem_range.mp hj)

theorem popBits_go (k x n : Nat) : popBits.go k x n = n + ((List.range k).filter fun j => x.testBit j).length := by
  induction k generalizing x n with
  | zero => rfl
  | succ k ih =>
    have hstep : popBits.go (k + 1) x n = popBits.go k (x / 2) (n + x % 2) := rfl
    rw [hstep, List.range_succ_eq_map, List.filter_cons, List.filter_map, Nat.testBit_zero, ih]
    by_cases h : x % 2 = 1
    · simp [h, Function.comp_def, Nat.testBit_succ]
      omega
    · simp [h, Function.comp_def, Nat.testBit_succ]
      omega

theorem popBits_eq (w : Nat) (x : Word) : popBits w x.toNat = ((List.range w).filter fun j => x.getLsbD j).length := by
  rw [popBits, popBits_go, Nat.zero_add]
  exact congrArg _ (List.filter_congr fun j hj => testBit_mod_of_lt (List.mem_range.mp hj))

/-- The leading zeros end at the highest bit that is set. -/
theorem clzBits_eq (w : Nat) (x : Word) : clzBits w x.toNat = (List.range w).findIdx fun j => x.getLsbD (w - 1 - j) := by
  have hbit : ∀ j < w, x.getLsbD (w - 1 - j) = (x.toNat % 2 ^ w).testBit (w - 1 - j) :=
    fun j hj => (testBit_mod_of_lt (by omega)).symm
  rw [clzBits, findIdx_congr fun j hj => hbit j (List.mem_range.mp hj)]
  have hlt := Nat.mod_lt x.toNat (Nat.two_pow_pos w)
  generalize x.toNat % 2 ^ w = n at hlt
  by_cases h : n = 0
  · rw [if_pos h, h, List.findIdx_eq_length_of_false fun j _ => Nat.zero_testBit _, List.length_range]
  · have hlog : n.log2 < w := (Nat.log2_lt h).mpr hlt
    have hk : w - 1 - n.log2 < (List.range w).length := by
      rw [List.length_range]
      omega
    rw [if_neg h, eq_comm, List.findIdx_eq hk]
    refine ⟨?_, fun j hj => ?_⟩
    · rw [List.getElem_range, show w - 1 - (w - 1 - n.log2) = n.log2 by omega, Nat.testBit_log2 h]
    · rw [List.getElem_range]
      exact Nat.testBit_lt_two_pow (Nat.lt_log2_self.trans_le (Nat.pow_le_pow_right (by decide) (by omega)))

/-! Reversals (R97): digits of c bits, read from below and put below the digits read before. -/

/-- The low k digits of c bits of x in reverse order, below r. -/
def revDigits (c : Nat) : Nat → Nat → Nat → Nat
  | 0, _, r => r
  | k + 1, x, r => revDigits c k (x / 2 ^ c) (2 ^ c * r + x % 2 ^ c)

theorem revBits_go (k x r : Nat) : revBits.go k x r = revDigits 1 k x r := by
  induction k generalizing x r with
  | zero => rfl
  | succ k ih =>
    rw [revDigits, ← ih, Nat.mul_comm]
    rfl

theorem swapBytes_go (k x r : Nat) : swapBytes.go k x r = revDigits 8 k x r := by
  induction k generalizing x r with
  | zero => rfl
  | succ k ih =>
    rw [revDigits, ← ih, Nat.mul_comm]
    rfl

/-- Bit j of the reverse is in the digit as far from the top. -/
theorem testBit_revDigits {c : Nat} (hc : 0 < c) (k x r j : Nat) :
    (revDigits c k x r).testBit j = if j < c * k then x.testBit (c * (k - 1 - j / c) + j % c) else r.testBit (j - c * k) := by
  induction k generalizing x r with
  | zero => simp [revDigits]
  | succ k ih =>
    have hlow : x % 2 ^ c < 2 ^ c := Nat.mod_lt _ (Nat.two_pow_pos c)
    have hmul : c * (k + 1) = c * k + c := Nat.mul_succ c k
    rw [revDigits, ih, Nat.testBit_div_two_pow, Nat.testBit_two_pow_mul_add _ hlow]
    rcases Nat.lt_or_ge j (c * k) with hj | hj
    · have hd : j / c < k := Nat.div_lt_of_lt_mul hj
      have hs : c * (k + 1 - 1 - j / c) = c * (k - 1 - j / c) + c := by
        rw [← Nat.mul_succ]
        congr 1
        omega
      rw [if_pos hj, if_pos (by omega), hs]
      congr 1
      omega
    rw [if_neg hj.not_gt]
    rcases Nat.lt_or_ge j (c * k + c) with hj' | hj'
    · have hdm : j / c = k ∧ j % c = j - c * k := by
        have hd : j / c = k := Nat.div_eq_of_lt_le (by rwa [Nat.mul_comm]) (by rwa [Nat.mul_comm, hmul])
        have := Nat.div_add_mod j c
        rw [hd] at this
        omega
      rw [if_pos (by omega), if_pos (by omega), testBit_mod_of_lt (by omega), hdm.1, hdm.2, Nat.add_sub_cancel, Nat.sub_self, Nat.mul_zero,
        Nat.zero_add]
    · rw [if_neg (by omega), if_neg (by omega), hmul, Nat.sub_sub]

theorem revBits_bit {w j : Nat} (x : Word) (hj : j < w) (hw : w ≤ 64) :
    (BitVec.ofNat 64 (revBits w x.toNat)).getLsbD j = x.getLsbD (w - 1 - j) := by
  rw [BitVec.getLsbD_ofNat, decide_eq_true (by omega : j < 64), Bool.true_and, revBits, revBits_go, testBit_revDigits Nat.one_pos, if_pos (by omega),
    Nat.one_mul, Nat.div_one, Nat.mod_one, Nat.add_zero, testBit_mod_of_lt (by omega)]
  rfl

theorem swapBytes_bit {w j : Nat} (x : Word) (hj : j < w) (hw : w ≤ 64) (h8 : w % 8 = 0) :
    (BitVec.ofNat 64 (swapBytes w x.toNat)).getLsbD j = x.getLsbD (w - 8 - j / 8 * 8 + j % 8) := by
  rw [BitVec.getLsbD_ofNat, decide_eq_true (by omega : j < 64), Bool.true_and, swapBytes, swapBytes_go, testBit_revDigits (by decide),
    if_pos (by omega), testBit_mod_of_lt (by omega), show 8 * (w / 8 - 1 - j / 8) + j % 8 = w - 8 - j / 8 * 8 + j % 8 by omega]
  rfl

/-! Bit fields (R102). -/

/-- A bit of a word beyond its 64 is zero. -/
theorem testBit_of_ge_width (x : Word) {j : Nat} (h : 64 ≤ j) : x.toNat.testBit j = false :=
  Nat.testBit_lt_two_pow (x.isLt.trans_le (Nat.pow_le_pow_right (by decide) h))

theorem bfx_bit (x spec : Word) {j : Nat} (hj : j < 64) :
    (bfx x spec).getLsbD j = (decide (j < spec.toNat / 256 % 128) && x.getLsbD (spec.toNat % 64 + j)) := by
  have hbfx : bfx x spec = BitVec.ofNat 64 (x.toNat / 2 ^ (spec.toNat % 64) % 2 ^ min (spec.toNat / 256 % 128) (64 - spec.toNat % 64)) := rfl
  rw [hbfx, BitVec.getLsbD_ofNat, decide_eq_true hj, Bool.true_and, Nat.testBit_mod_two_pow, Nat.testBit_div_two_pow, Nat.add_comm j, BitVec.getLsbD]
  by_cases h : spec.toNat % 64 + j < 64
  · congr 2
    rw [eq_iff_iff]
    omega
  · rw [testBit_of_ge_width x (by omega), Bool.and_false, Bool.and_false]

/-- The mask of a field: its bits, cut at bit 63. -/
theorem fieldMask_bit {pos len j : Nat} (hj : j < 64) :
    (BitVec.ofNat 64 ((2 ^ min len (64 - pos) - 1) * 2 ^ pos)).getLsbD j = decide (pos ≤ j ∧ j < pos + len) := by
  rw [BitVec.getLsbD_ofNat, Nat.testBit_mul_two_pow, Nat.testBit_two_pow_sub_one, decide_eq_true hj, Bool.true_and, ← Bool.decide_and]
  congr 1
  rw [eq_iff_iff]
  omega

theorem bfi_bit (x y spec : Word) {j : Nat} (hj : j < 64) :
    let pos := spec.toNat % 64
    let len := spec.toNat / 256 % 128
    (bfi x y spec).getLsbD j = if pos ≤ j ∧ j < pos + len then y.getLsbD (j - pos) else x.getLsbD j := by
  intro pos len
  have hm : (BitVec.ofNat 64 ((2 ^ min len (64 - pos) - 1) * 2 ^ pos)).getLsbD j = decide (pos ≤ j ∧ j < pos + len) := fieldMask_bit hj
  have hbfi : bfi x y spec = (x &&& ~~~BitVec.ofNat 64 ((2 ^ min len (64 - pos) - 1) * 2 ^ pos)) |||
      ((y <<< pos) &&& BitVec.ofNat 64 ((2 ^ min len (64 - pos) - 1) * 2 ^ pos)) := rfl
  rw [hbfi, BitVec.getLsbD_or, BitVec.getLsbD_and, BitVec.getLsbD_and, BitVec.getLsbD_not, BitVec.getLsbD_shiftLeft, hm, decide_eq_true hj]
  by_cases h : pos ≤ j ∧ j < pos + len
  · simp [h]
  · simp [h]

/-- Settles O5. -/
theorem shiftsAndBits : Obligations.ShiftsAndBits := by
  unfold Obligations.ShiftsAndBits
  refine ⟨fun ty x y _ => ?_, fun ty x y spec h => ?_⟩
  · exact ⟨shiftBits_shl _ x y, shiftBits_shr _ x y, shiftBits_sar x y ty.width_pos,
      shiftBits_rol x y ty.width_pos, shiftBits_ror x y ty.width_pos⟩
  · exact ⟨clzBits_eq _ x, ctzBits_eq _ x, popBits_eq _ x, fun j hj => revBits_bit x hj ty.width_le,
      fun j hj => swapBytes_bit x hj ty.width_le (Ty.width_bytes h), fun j hj => bfx_bit x spec hj, fun j hj => bfi_bit x y spec hj⟩

end Sys2Proof.Machine
end

section
/-! PROOFS. NaN sources (R42, R43; O6), and that a value which is a result of its own format keeps its encoding. -/

namespace Sys2Proof

/-- The formats of set F are those of IEEE 754: their largest finite value, and the fields that fill the width (R40). -/
theorem Ty.inF_format {ty : Ty} (h : ty.inF = true) :
    (Machine.fmt ty).hasInf = true ∧ ty.width = (Machine.fmt ty).frac + (Machine.fmt ty).expBits + 1 ∧
      (Machine.fmt ty).maxM = 2 ^ ((Machine.fmt ty).frac + 1) - 1 ∧
      (Machine.fmt ty).maxE = (Machine.fmt ty).emin + (2 ^ (Machine.fmt ty).expBits - 2 : Nat) - 1 - (Machine.fmt ty).frac ∧
      2 < 2 ^ (Machine.fmt ty).expBits := by
  revert h
  cases ty <;> decide

theorem Ty.inF_ne {ty : Ty} (h : ty.inF = true) : ty ≠ .e8m0 ∧ ty ≠ .e4m3 ∧ ¬(ty = .e3m2 ∨ ty = .e2m3 ∨ ty = .e2m1) := by
  revert h
  cases ty <;> decide

end Sys2Proof

namespace Sys2Proof.Machine

/-! What the operations on values give for a NaN (R42). -/

theorem nvOf_pair (x y : Num) : nvOf [x, y] = Fl.when (x.signals || y.signals) Fl.nv := by simp [nvOf]
theorem nvOf_triple (x y z : Num) : nvOf [x, y, z] = Fl.when (x.signals || y.signals || z.signals) Fl.nv := by
  simp [nvOf, Bool.or_assoc]

/-- Only a NaN signals. -/
theorem Num.signals_of_not_nan {x : Num} (h : x.isNaN = false) : x.signals = false := by
  cases x with
  | nan s => cases h
  | _ => rfl

@[simp] theorem Num.isNaN_negate (x : Num) : x.negate.isNaN = x.isNaN := by cases x <;> rfl
@[simp] theorem Num.signals_negate (x : Num) : x.negate.signals = x.signals := by cases x <;> rfl

/-- One of two values is a NaN. -/
theorem eq_nan_of_isNaN {x y : Num} (h : (x.isNaN || y.isNaN) = true) : (∃ s, x = .nan s) ∨ ∃ s, y = .nan s := by
  cases x with
  | nan s => exact .inl ⟨s, rfl⟩
  | _ => cases y with
    | nan s => exact .inr ⟨s, rfl⟩
    | _ => cases h

theorem addNum_nan (rdn : Bool) {x y : Num} (h : (x.isNaN || y.isNaN) = true) :
    addNum rdn x y = (.nan false, Fl.when (x.signals || y.signals) Fl.nv) := by
  rw [← nvOf_pair]
  obtain ⟨s, rfl⟩ | ⟨s, rfl⟩ := eq_nan_of_isNaN h
  · rfl
  · cases x <;> rfl

theorem mulNum_nan {x y : Num} (h : (x.isNaN || y.isNaN) = true) :
    mulNum x y = (.nan false, Fl.when (x.signals || y.signals) Fl.nv) := by
  rw [← nvOf_pair]
  obtain ⟨s, rfl⟩ | ⟨s, rfl⟩ := eq_nan_of_isNaN h
  · rfl
  · cases x <;> rfl

theorem divNum_nan {x y : Num} (h : (x.isNaN || y.isNaN) = true) :
    divNum x y = (.nan false, Fl.when (x.signals || y.signals) Fl.nv) := by
  rw [← nvOf_pair]
  obtain ⟨s, rfl⟩ | ⟨s, rfl⟩ := eq_nan_of_isNaN h
  · rfl
  · cases x <;> rfl

/-- Ordering has no outcome with a NaN, and so of the conditions only .un and .ne hold (R74). -/
theorem cmpNum_nan {x y : Num} (h : (x.isNaN || y.isNaN) = true) : cmpNum x y = none := by
  obtain ⟨s, rfl⟩ | ⟨s, rfl⟩ := eq_nan_of_isNaN h
  · rfl
  · cases x <;> rfl

theorem condNum_nan (c : Cond) {x y : Num} (h : (x.isNaN || y.isNaN) = true) : condNum c x y = decide (c = .un ∨ c = .ne) := by
  unfold condNum
  rw [cmpNum_nan h]
  cases c <;> rfl

theorem minMaxNum_nan (big : Bool) {x y : Num} (h : (x.isNaN || y.isNaN) = true) :
    minMaxNum big x y = if x.isNaN && y.isNaN then .nan false else if x.isNaN then y else x := by
  rw [minMaxNum, cmpNum_nan h]

/-- Rounding a NaN gives the canonical one. -/
theorem roundTo_nan {ty : Ty} (hF : ty.inF = true) (s : Bool) (m : Mode) (sat : Bool) :
    roundTo ty (.nan s) m sat = (canonNaN ty, Fl.when s Fl.nv) :=
  if_neg (Ty.inF_ne hF).2.2

/-- An exact result with its flags, rounded once (R106, R107). -/
def roundExact (ty : Ty) (m : Mode) (r : Num × Fl) : Nat × Fl :=
  ((roundTo ty r.1 m false).1, r.2 ||| (roundTo ty r.1 m false).2)

theorem roundExact_nan {ty : Ty} (hF : ty.inF = true) (m : Mode) {r : Num × Fl} {f : Fl} (h : r = (.nan false, f)) :
    roundExact ty m r = (canonNaN ty, f) := by
  rw [h, roundExact, roundTo_nan hF]
  exact Prod.ext rfl (BitVec.or_zero ..)

/-- The exact result of a two-source operation. -/
def exactOp (op : FloatOp) (m : Mode) (x y : Num) : Num × Fl :=
  match op with
  | .add => addNum (decide (m = .rdn)) x y
  | .sub => addNum (decide (m = .rdn)) x y.negate
  | .mul => mulNum x y
  | .div => divNum x y

theorem floatOp_eq (op : FloatOp) (ty : Ty) (m : Mode) (a b : Nat) :
    floatOp op ty m a b = roundExact ty m (exactOp op m (decodeNum ty a) (decodeNum ty b)) := rfl

theorem exactOp_nan (op : FloatOp) (m : Mode) {x y : Num} (h : (x.isNaN || y.isNaN) = true) :
    exactOp op m x y = (.nan false, Fl.when (x.signals || y.signals) Fl.nv) := by
  cases op with
  | add => exact addNum_nan _ h
  | sub =>
    rw [← y.isNaN_negate] at h
    rw [← y.signals_negate]
    exact addNum_nan _ h
  | mul => exact mulNum_nan h
  | div => exact divNum_nan h

theorem floatOp_nan {ty : Ty} (hF : ty.inF = true) (op : FloatOp) (m : Mode) {a b : Nat}
    (h : ((decodeNum ty a).isNaN || (decodeNum ty b).isNaN) = true) :
    floatOp op ty m a b = (canonNaN ty, Fl.when ((decodeNum ty a).signals || (decodeNum ty b).signals) Fl.nv) :=
  roundExact_nan hF m (exactOp_nan op m h)

theorem fmaOp_nan (ty : Ty) (m : Mode) {a b c : Nat}
    (h : ((decodeNum ty a).isNaN || (decodeNum ty b).isNaN || (decodeNum ty c).isNaN) = true) :
    fmaOp ty m a b c =
      (canonNaN ty, Fl.when ((decodeNum ty a).signals || (decodeNum ty b).signals || (decodeNum ty c).signals) Fl.nv) := by
  rw [← nvOf_triple]
  exact if_pos h

/-- The exact value of a one-source function, or enough bits of it. -/
def exactFn (fn : FloatFn) (x : Num) : Num × Fl :=
  match fn with
  | .sqrt => sqrtNum x
  | .rcp => divNum (.fin false 1 0) x
  | .rsq => rsqrtNum x
  | .exp2 => exp2Num x
  | .log2 => log2Num x

theorem floatFn_eq (fn : FloatFn) (ty : Ty) (m : Mode) (a : Nat) :
    floatFn fn ty m a = roundExact ty m (exactFn fn (decodeNum ty a)) := rfl

theorem exactFn_nan (fn : FloatFn) {x : Num} (h : x.isNaN = true) : exactFn fn x = (.nan false, Fl.when x.signals Fl.nv) := by
  cases x with
  | nan s => cases fn with
    | rcp => exact divNum_nan (x := .fin false 1 0) (y := .nan s) rfl
    | _ => rfl
  | _ => cases h

theorem floatFn_nan {ty : Ty} (hF : ty.inF = true) (fn : FloatFn) (m : Mode) {a : Nat} (h : (decodeNum ty a).isNaN = true) :
    floatFn fn ty m a = (canonNaN ty, Fl.when (decodeNum ty a).signals Fl.nv) :=
  roundExact_nan hF m (exactFn_nan fn h)

/-! A value of a format keeps its encoding when it is rounded to that format. -/

/-- The encoding of a value of set F, from its fields (R40, R41). -/
theorem decodeNum_inF {ty : Ty} (hF : ty.inF = true) (bits : Nat) :
    decodeNum ty bits =
      let f := fmt ty
      let neg := decide (bits / 2 ^ (f.expBits + f.frac) % 2 = 1)
      let e := bits / 2 ^ f.frac % 2 ^ f.expBits
      let m := bits % 2 ^ f.frac
      if e = 0 then .fin neg m (f.emin - f.frac)
      else if e = 2 ^ f.expBits - 1 then (if m = 0 then .inf neg else .nan (decide (m < 2 ^ (f.frac - 1))))
      else .fin neg (2 ^ f.frac + m) (f.emin + (e : Int) - 1 - f.frac) := by
  obtain ⟨h8, h4, -⟩ := Ty.inF_ne hF
  have hI := (Ty.inF_format hF).1
  unfold decodeNum
  simp only [h4, hI, and_true, false_and, if_false]

/-- The fields of an encoding, and the bits that they hold. -/
theorem encoding_fields {ty : Ty} (hF : ty.inF = true) (bits : Nat) :
    signBit ty (decide (bits / 2 ^ ((fmt ty).expBits + (fmt ty).frac) % 2 = 1)) +
      bits / 2 ^ (fmt ty).frac % 2 ^ (fmt ty).expBits * 2 ^ (fmt ty).frac + bits % 2 ^ (fmt ty).frac = bits % 2 ^ ty.width := by
  obtain ⟨-, hw, -⟩ := Ty.inF_format hF
  have hsign : signBit ty (decide (bits / 2 ^ ((fmt ty).expBits + (fmt ty).frac) % 2 = 1)) =
      2 ^ ((fmt ty).frac + (fmt ty).expBits) * (bits / 2 ^ ((fmt ty).frac + (fmt ty).expBits) % 2) := by
    rw [signBit, Nat.add_comm (fmt ty).expBits]
    rcases Nat.mod_two_eq_zero_or_one (bits / 2 ^ ((fmt ty).frac + (fmt ty).expBits)) with h | h <;> simp [h]
  rw [hsign, hw, Nat.pow_succ, Nat.mod_mul, Nat.pow_add, Nat.mod_mul, Nat.mul_comm (2 ^ (fmt ty).frac) (_ % _)]
  omega

theorem scaledGt_eq_false {r r' : Nat} {k k' : Int} (hr : r ≤ r') (hk : k ≤ k') : scaledGt r k r' k' = false := by
  unfold scaledGt
  split
  · next h =>
    obtain rfl : k' = k := le_antisymm h hk
    simpa using hr
  · next h =>
    rw [decide_eq_false_iff_not, Nat.not_lt]
    exact hr.trans (Nat.le_mul_of_pos_right _ (Nat.two_pow_pos _))

/-- A value on the grid of its binade, in the range of the format, is its own rounding. -/
theorem roundTo_of_grid {t : Ty} {m : Nat} {e : Int} (neg : Bool) (mode : Mode) (sat : Bool) (hm : m ≠ 0)
    (hk : max (binade m e) (fmt t).emin - (fmt t).frac = e) (hM : m ≤ (fmt t).maxM) (hE : e ≤ (fmt t).maxE) :
    (roundTo t (.fin neg m e) mode sat).1 = encodeFin t neg m e := by
  have hg : grid neg m e e mode = (m, false) := by simp [grid]
  simp only [roundTo, if_neg hm, hk, hg, scaledGt_eq_false hM hE, Bool.false_eq_true, if_false]

theorem encodeFin_subnormal (t : Ty) (neg : Bool) {r : Nat} (k : Int) (h : r < 2 ^ (fmt t).frac) : encodeFin t neg r k = signBit t neg + r := by
  have hne : r ≠ 2 ^ ((fmt t).frac + 1) := by
    rw [Nat.pow_succ]
    omega
  simp only [encodeFin, if_neg hne, if_pos h]

theorem encodeFin_normal (t : Ty) (neg : Bool) {m : Nat} (k : Int) (h : m < 2 ^ (fmt t).frac) :
    encodeFin t neg (2 ^ (fmt t).frac + m) k = signBit t neg + (k + (fmt t).frac - (fmt t).emin + 1).toNat * 2 ^ (fmt t).frac + m := by
  have hne : 2 ^ (fmt t).frac + m ≠ 2 ^ ((fmt t).frac + 1) := by
    rw [Nat.pow_succ]
    omega
  simp only [encodeFin, if_neg hne, if_neg (Nat.not_lt.mpr (Nat.le_add_right _ m)), Nat.add_sub_cancel_left]

/-- A value that is no NaN keeps its encoding. -/
theorem encodeSame_decodeNum {ty : Ty} (hF : ty.inF = true) {bits : Nat} (h : (decodeNum ty bits).isNaN = false) :
    encodeSame ty (decodeNum ty bits) = bits % 2 ^ ty.width := by
  obtain ⟨hI, -, hM, hE, hbig⟩ := Ty.inF_format hF
  rw [← encoding_fields hF bits]
  rw [decodeNum_inF hF] at h ⊢
  dsimp only at h ⊢
  have he : bits / 2 ^ (fmt ty).frac % 2 ^ (fmt ty).expBits < 2 ^ (fmt ty).expBits := Nat.mod_lt _ (Nat.two_pow_pos _)
  have hm : bits % 2 ^ (fmt ty).frac < 2 ^ (fmt ty).frac := Nat.mod_lt _ (Nat.two_pow_pos _)
  have hM' : (fmt ty).maxM = 2 * 2 ^ (fmt ty).frac - 1 := by rw [hM, Nat.pow_succ']
  generalize decide (bits / 2 ^ ((fmt ty).expBits + (fmt ty).frac) % 2 = 1) = neg at *
  generalize bits / 2 ^ (fmt ty).frac % 2 ^ (fmt ty).expBits = e at *
  generalize bits % 2 ^ (fmt ty).frac = m at *
  by_cases h0 : e = 0
  · rw [if_pos h0, h0]
    by_cases hm0 : m = 0
    · simp [encodeSame, roundTo, hm0]
    · have hlog : m.log2 < (fmt ty).frac := (Nat.log2_lt hm0).mpr hm
      have hk : max (binade m ((fmt ty).emin - (fmt ty).frac)) (fmt ty).emin - (fmt ty).frac = (fmt ty).emin - (fmt ty).frac := by
        rw [max_eq_right]
        rw [binade]
        omega
      rw [encodeSame, roundTo_of_grid neg .rne false hm0 hk (by omega) (by omega), encodeFin_subnormal _ _ _ hm, Nat.zero_mul, Nat.add_zero]
  rw [if_neg h0] at h ⊢
  by_cases hmax : e = 2 ^ (fmt ty).expBits - 1
  · rw [if_pos hmax] at h ⊢
    by_cases hm0 : m = 0
    · simp [hm0, encodeSame, roundTo, special, hI, encodeInf, hmax]
    · rw [if_neg hm0] at h
      cases h
  · have hlog : (2 ^ (fmt ty).frac + m).log2 = (fmt ty).frac := by
      rw [Nat.log2_eq_iff (by omega), Nat.pow_succ']
      omega
    have hk : max (binade (2 ^ (fmt ty).frac + m) ((fmt ty).emin + (e : Int) - 1 - (fmt ty).frac)) (fmt ty).emin - (fmt ty).frac =
        (fmt ty).emin + (e : Int) - 1 - (fmt ty).frac := by
      rw [binade, hlog]
      omega
    rw [if_neg hmax, encodeSame, roundTo_of_grid neg .rne false (by omega) hk (by omega) (by omega), encodeFin_normal _ _ _ hm]
    congr 3
    omega

/-! Minimum and maximum (R43). -/

theorem floatMinMax_eq (big : Bool) (ty : Ty) (a b : Nat) {x : Num} (h : minMaxNum big (decodeNum ty a) (decodeNum ty b) = x) :
    floatMinMax big ty a b = (encodeSame ty x, Fl.when ((decodeNum ty a).signals || (decodeNum ty b).signals) Fl.nv) := by
  rw [← h, ← nvOf_pair]
  rfl

theorem floatMinMax_both_nan {ty : Ty} (hF : ty.inF = true) (big : Bool) {a b : Nat} (ha : (decodeNum ty a).isNaN = true)
    (hb : (decodeNum ty b).isNaN = true) :
    floatMinMax big ty a b = (canonNaN ty, Fl.when ((decodeNum ty a).signals || (decodeNum ty b).signals) Fl.nv) := by
  have h : minMaxNum big (decodeNum ty a) (decodeNum ty b) = .nan false := by simp [minMaxNum_nan, ha, hb]
  rw [floatMinMax_eq big ty a b h, encodeSame, roundTo_nan hF]

/-- With one NaN the result is the other source (R43). -/
theorem floatMinMax_left_nan {ty : Ty} (hF : ty.inF = true) (big : Bool) {a b : Nat} (ha : (decodeNum ty a).isNaN = true)
    (hb : (decodeNum ty b).isNaN = false) :
    floatMinMax big ty a b = (b % 2 ^ ty.width, Fl.when (decodeNum ty a).signals Fl.nv) := by
  have h : minMaxNum big (decodeNum ty a) (decodeNum ty b) = decodeNum ty b := by simp [minMaxNum_nan, ha, hb]
  rw [floatMinMax_eq big ty a b h, encodeSame_decodeNum hF hb, Num.signals_of_not_nan hb, Bool.or_false]

theorem floatMinMax_right_nan {ty : Ty} (hF : ty.inF = true) (big : Bool) {a b : Nat} (ha : (decodeNum ty a).isNaN = false)
    (hb : (decodeNum ty b).isNaN = true) :
    floatMinMax big ty a b = (a % 2 ^ ty.width, Fl.when (decodeNum ty b).signals Fl.nv) := by
  have h : minMaxNum big (decodeNum ty a) (decodeNum ty b) = decodeNum ty a := by simp [minMaxNum_nan, ha, hb]
  rw [floatMinMax_eq big ty a b h, encodeSame_decodeNum hF ha, Num.signals_of_not_nan ha, Bool.false_or]

theorem floatCmp_nan (c : Cond) (ty : Ty) {a b : Nat} (h : ((decodeNum ty a).isNaN || (decodeNum ty b).isNaN) = true) :
    floatCmp c ty a b = (decide (c = .un ∨ c = .ne), Fl.when ((decodeNum ty a).signals || (decodeNum ty b).signals) Fl.nv) := by
  rw [← nvOf_pair, ← condNum_nan c h]
  rfl

/-- Settles O6. -/
theorem nanResults : Obligations.NaNResults := by
  unfold Obligations.NaNResults
  intro ty m op fn a b c big hF x y z
  simp only [Bool.and_eq_true, Bool.not_eq_true']
  exact ⟨floatOp_nan hF op m, fmaOp_nan ty m, floatFn_nan hF fn m, fun ⟨hx, hy⟩ => floatMinMax_both_nan hF big hx hy,
    fun ⟨hx, hy⟩ => floatMinMax_left_nan hF big hx hy, fun ⟨hx, hy⟩ => floatMinMax_right_nan hF big hx hy, fun cnd => floatCmp_nan cnd ty⟩

end Sys2Proof.Machine
end

section
/-! PROOFS. The fixed tree of VRED (R56; O9). The levels of the tree are combined in place, each over the whole list; what an entry holds
after a level is the recursive tree's value, and the flags are those of the combinations made so far. -/

namespace Sys2Proof

/-- The lanes of a type of sets I and F are a power of two. -/
theorem Ty.lanes_inIF {ty : Ty} (h : ty.inIF = true) : 512 / ty.width = 2 ^ Nat.log2 (512 / ty.width) := by
  revert h
  cases ty <;> decide

end Sys2Proof

namespace Sys2Proof.Machine

/-- An instruction that executes has passed check 3. -/
theorem coded_of_executes {s : State} {t : Threadlet} {i : Instr} {h : Shape} (he : Executes s t i) (hh : i.shape = some h) :
    h.coded = true := by
  by_contra hc
  have hn := he.checks
  simp [passesChecks, hh, staticCheck_coded (s := s) (t := t) (i := i) (Bool.eq_false_of_not_eq_true hc)] at hn

/-- A value that passes through: a NaN becomes the canonical one, with NV where it signals. -/
theorem passValue_eq (ty : Ty) (x : Nat) : passValue ty x =
    (if (!ty.isInt && (decodeNum ty x).isNaN) = true then canonNaN ty else x,
      if (!ty.isInt && (decodeNum ty x).isNaN && (decodeNum ty x).signals) = true then Fl.nv else 0) := by
  unfold passValue
  cases ty.isInt with
  | true => rfl
  | false => cases decodeNum ty x <;> rfl

/-- Zero is no NaN in any format. -/
theorem passValue_zero (ty : Ty) : passValue ty 0 = (0, 0) := by cases ty <;> rfl

/-! One combination of the tree. -/

/-- Two entries combined, where an absent one passes the other. -/
def pairValue (op : RedOp) (ty : Ty) : Option Nat → Option Nat → Option Nat
  | some a, some b => some (combine op ty a b).1
  | none, b => b
  | some a, none => some a

/-- The flags of that combination. -/
def pairFlags (op : RedOp) (ty : Ty) : Option Nat → Option Nat → Fl
  | some a, some b => (combine op ty a b).2
  | _, _ => 0

theorem pairValue_none (op : RedOp) (ty : Ty) (a : Option Nat) : pairValue op ty a none = a := by cases a <;> rfl
theorem pairFlags_none (op : RedOp) (ty : Ty) (a : Option Nat) : pairFlags op ty a none = 0#6 := by cases a <;> rfl

theorem treeValue_succ (op : RedOp) (ty : Ty) (leaf : Nat → Option Nat) (l j : Nat) :
    treeValue op ty leaf (l + 1) j = pairValue op ty (treeValue op ty leaf l j) (treeValue op ty leaf l (j + 2 ^ l)) := by
  rw [treeValue]
  cases treeValue op ty leaf l j <;> cases treeValue op ty leaf l (j + 2 ^ l) <;> rfl

theorem treeFlags_succ (op : RedOp) (ty : Ty) (leaf : Nat → Option Nat) (l j : Nat) :
    treeFlags op ty leaf (l + 1) j = treeFlags op ty leaf l j ||| treeFlags op ty leaf l (j + 2 ^ l) |||
      pairFlags op ty (treeValue op ty leaf l j) (treeValue op ty leaf l (j + 2 ^ l)) := by
  rw [treeFlags]
  cases treeValue op ty leaf l j <;> cases treeValue op ty leaf l (j + 2 ^ l) <;> simp [pairFlags]

/-- What an entry of the list holds. -/
def treeEntry (vals : List (Option Nat)) (i : Nat) : Option Nat := (vals[i]?).join

theorem treeEntry_set {vals : List (Option Nat)} {j : Nat} (hj : j < vals.length) (x : Option Nat) (i : Nat) :
    treeEntry (vals.set j x) i = if i = j then x else treeEntry vals i := by
  rw [treeEntry, List.getElem?_set]
  by_cases h : j = i
  · simp [h, h ▸ hj]
  · simp [h, Ne.symm h, treeEntry]

/-- The step of a level at entry j. -/
def treeStep (op : RedOp) (ty : Ty) (l : Nat) (acc : List (Option Nat) × Fl) (j : Nat) : List (Option Nat) × Fl :=
  if j % 2 ^ (l + 1) = 0 then
    match treeEntry acc.1 j, treeEntry acc.1 (j + 2 ^ l) with
    | some a, some b => (acc.1.set j (some (combine op ty a b).1), acc.2 ||| (combine op ty a b).2)
    | none, some b => (acc.1.set j (some b), acc.2)
    | _, none => acc
  else acc

theorem treeLevel_eq (op : RedOp) (ty : Ty) (l : Nat) (vals : List (Option Nat)) (f : Fl) :
    treeLevel op ty l vals f = (List.range vals.length).foldl (treeStep op ty l) (vals, f) := rfl

theorem treeStep_skips (op : RedOp) (ty : Ty) (l : Nat) (acc : List (Option Nat) × Fl) {j : Nat} (h : ¬ 2 ^ (l + 1) ∣ j) :
    treeStep op ty l acc j = acc := if_neg fun h0 => h (Nat.dvd_of_mod_eq_zero h0)

theorem treeStep_absent (op : RedOp) (ty : Ty) (l : Nat) {acc : List (Option Nat) × Fl} {j : Nat} (hb : treeEntry acc.1 (j + 2 ^ l) = none) :
    treeStep op ty l acc j = acc := by
  rw [treeStep, hb]
  cases treeEntry acc.1 j <;> exact ite_self acc

/-- Where a level combines, entry j takes the pair's value. -/
theorem treeStep_combines (op : RedOp) (ty : Ty) (l : Nat) {acc : List (Option Nat) × Fl} {j : Nat} (h : 2 ^ (l + 1) ∣ j)
    (hj : j < acc.1.length) :
    (treeStep op ty l acc j).1.length = acc.1.length ∧
      (∀ i, treeEntry (treeStep op ty l acc j).1 i =
        if i = j then pairValue op ty (treeEntry acc.1 j) (treeEntry acc.1 (j + 2 ^ l)) else treeEntry acc.1 i) ∧
      (treeStep op ty l acc j).2 = acc.2 ||| pairFlags op ty (treeEntry acc.1 j) (treeEntry acc.1 (j + 2 ^ l)) := by
  cases hb : treeEntry acc.1 (j + 2 ^ l) with
  | none =>
    rw [treeStep_absent op ty l hb, pairValue_none, pairFlags_none, BitVec.or_zero]
    refine ⟨rfl, fun i => ?_, rfl⟩
    by_cases hi : i = j <;> simp [hi]
  | some b =>
    rw [treeStep, if_pos (Nat.mod_eq_zero_of_dvd h), hb]
    cases treeEntry acc.1 j with
    | none => exact ⟨List.length_set, treeEntry_set hj _, (BitVec.or_zero).symm⟩
    | some a => exact ⟨List.length_set, treeEntry_set hj _, rfl⟩

section
variable (op : RedOp) (ty : Ty) (leaf : Nat → Option Nat)

/-- The list and the flags where l levels are done, over N entries: the entries at distance 2^l hold the values of their trees. -/
structure LevelsDone (l N : Nat) (acc : List (Option Nat) × Fl) : Prop where
  length : acc.1.length = N
  values : ∀ i < N, 2 ^ l ∣ i → treeEntry acc.1 i = treeValue op ty leaf l i
  flags : ∀ k, acc.2.getLsbD k = true ↔ ∃ i < N, 2 ^ l ∣ i ∧ (treeFlags op ty leaf l i).getLsbD k = true

/-- The same in the course of level l, past its first c entries. -/
structure LevelUnderWay (l N c : Nat) (acc : List (Option Nat) × Fl) : Prop where
  length : acc.1.length = N
  values : ∀ i < N, 2 ^ l ∣ i → treeEntry acc.1 i = treeValue op ty leaf (if 2 ^ (l + 1) ∣ i ∧ i < c then l + 1 else l) i
  flags : ∀ k, acc.2.getLsbD k = true ↔ (∃ i < N, 2 ^ l ∣ i ∧ (treeFlags op ty leaf l i).getLsbD k = true) ∨
    ∃ i < c, 2 ^ (l + 1) ∣ i ∧ (pairFlags op ty (treeValue op ty leaf l i) (treeValue op ty leaf l (i + 2 ^ l))).getLsbD k = true

variable {op ty leaf} {l N c : Nat} {acc : List (Option Nat) × Fl}

theorem LevelsDone.begin (h : LevelsDone op ty leaf l N acc) : LevelUnderWay op ty leaf l N 0 acc := by
  obtain ⟨hlen, hval, hfl⟩ := h
  refine ⟨hlen, fun i hi hd => ?_, fun k => ?_⟩
  · simp [hval i hi hd]
  · simp [hfl k]

/-- The entry at distance 2^l above one that a level combines is one that the level does not write. -/
theorem not_dvd_partner {j : Nat} (h : 2 ^ (l + 1) ∣ j) : ¬ 2 ^ (l + 1) ∣ j + 2 ^ l := fun hd => by
  have := Nat.le_of_dvd (Nat.two_pow_pos l) ((Nat.dvd_add_right h).mp hd)
  rw [Nat.pow_succ] at this
  have := Nat.two_pow_pos l
  omega

/-- Such an entry is in the list. -/
theorem partner_lt {j : Nat} (hN : 2 ^ (l + 1) ∣ N) (h : 2 ^ (l + 1) ∣ j) (hj : j < N) : j + 2 ^ l < N := by
  obtain ⟨a, rfl⟩ := hN
  obtain ⟨b, rfl⟩ := h
  have hab : b + 1 ≤ a := Nat.lt_of_mul_lt_mul_left hj
  calc 2 ^ (l + 1) * b + 2 ^ l < 2 ^ (l + 1) * b + 2 ^ (l + 1) := Nat.add_lt_add_left (Nat.pow_lt_pow_right (by decide) (Nat.lt_succ_self l)) _
    _ = 2 ^ (l + 1) * (b + 1) := rfl
    _ ≤ 2 ^ (l + 1) * a := Nat.mul_le_mul_left _ hab

theorem LevelUnderWay.next (h : LevelUnderWay op ty leaf l N c acc) (hN : 2 ^ (l + 1) ∣ N) (hc : c < N) :
    LevelUnderWay op ty leaf l N (c + 1) (treeStep op ty l acc c) := by
  obtain ⟨hlen, hval, hfl⟩ := h
  have hpow : 2 ^ l ∣ 2 ^ (l + 1) := Nat.pow_dvd_pow 2 (Nat.le_succ l)
  by_cases hd : 2 ^ (l + 1) ∣ c
  · have hlow : treeEntry acc.1 c = treeValue op ty leaf l c := by simp [hval c hc (hpow.trans hd)]
    have hhigh : treeEntry acc.1 (c + 2 ^ l) = treeValue op ty leaf l (c + 2 ^ l) := by
      simp [hval _ (partner_lt hN hd hc) ((Nat.dvd_add_left (Nat.dvd_refl _)).mpr (hpow.trans hd)), not_dvd_partner hd]
    obtain ⟨hlen', hval', hfl'⟩ := treeStep_combines op ty l hd (hlen ▸ hc)
    rw [hlow, hhigh] at hval' hfl'
    refine ⟨hlen'.trans hlen, fun i hi hdi => ?_, fun k => ?_⟩
    · rw [hval']
      by_cases hic : i = c
      · rw [if_pos hic, hic, if_pos ⟨hd, Nat.lt_succ_self c⟩, treeValue_succ]
      · rw [if_neg hic, hval i hi hdi]
        simp only [show i < c + 1 ↔ i < c by omega]
    · rw [hfl', BitVec.getLsbD_or, Bool.or_eq_true, hfl k, or_assoc]
      refine or_congr_right ⟨?_, ?_⟩
      · rintro (⟨i, hi, hdi, hb⟩ | hb)
        · exact ⟨i, Nat.lt_succ_of_lt hi, hdi, hb⟩
        · exact ⟨c, Nat.lt_succ_self c, hd, hb⟩
      · rintro ⟨i, hi, hdi, hb⟩
        rcases Nat.lt_succ_iff_lt_or_eq.mp hi with hi | rfl
        · exact .inl ⟨i, hi, hdi, hb⟩
        · exact .inr hb
  · rw [treeStep_skips op ty l acc hd]
    have hsame : ∀ i, 2 ^ (l + 1) ∣ i → (i < c + 1 ↔ i < c) := fun i hdi => by
      have : i ≠ c := fun he => hd (he ▸ hdi)
      omega
    refine ⟨hlen, fun i hi hdi => ?_, fun k => (hfl k).trans (or_congr_right (exists_congr fun i => ?_))⟩
    · rw [hval i hi hdi]
      simp only [and_congr_right (hsame i)]
    · exact ⟨fun ⟨hi, hdi, hb⟩ => ⟨(hsame i hdi).mpr hi, hdi, hb⟩, fun ⟨hi, hdi, hb⟩ => ⟨(hsame i hdi).mp hi, hdi, hb⟩⟩

/-- A level that has gone through all entries is done: its flags are those of the trees below and of its own combinations. -/
theorem LevelUnderWay.finish (h : LevelUnderWay op ty leaf l N N acc) (hN : 2 ^ (l + 1) ∣ N) : LevelsDone op ty leaf (l + 1) N acc := by
  obtain ⟨hlen, hval, hfl⟩ := h
  have hpow : 2 ^ l ∣ 2 ^ (l + 1) := Nat.pow_dvd_pow 2 (Nat.le_succ l)
  refine ⟨hlen, fun i hi hd => ?_, fun k => (hfl k).trans ⟨?_, ?_⟩⟩
  · rw [hval i hi (hpow.trans hd), if_pos ⟨hd, hi⟩]
  · rintro (⟨i, hi, ⟨q, rfl⟩, hb⟩ | ⟨i, hi, hd, hb⟩)
    · rcases Nat.even_or_odd' q with ⟨r, rfl | rfl⟩
      · refine ⟨_, hi, ⟨r, by ring⟩, ?_⟩
        rw [treeFlags_succ, BitVec.getLsbD_or, BitVec.getLsbD_or, hb, Bool.true_or, Bool.true_or]
      · have hi' : 2 ^ l * (2 * r + 1) = 2 ^ (l + 1) * r + 2 ^ l := by ring
        rw [hi'] at hi hb
        refine ⟨_, (Nat.le_add_right _ _).trans_lt hi, ⟨r, rfl⟩, ?_⟩
        rw [treeFlags_succ, BitVec.getLsbD_or, BitVec.getLsbD_or, hb, Bool.or_true, Bool.true_or]
    · refine ⟨i, hi, hd, ?_⟩
      rw [treeFlags_succ, BitVec.getLsbD_or, hb, Bool.or_true]
  · rintro ⟨i, hi, hd, hb⟩
    rw [treeFlags_succ, BitVec.getLsbD_or, BitVec.getLsbD_or, Bool.or_eq_true, Bool.or_eq_true] at hb
    rcases hb with (hb | hb) | hb
    · exact .inl ⟨i, hi, hpow.trans hd, hb⟩
    · exact .inl ⟨_, partner_lt hN hd hi, (Nat.dvd_add_left (Nat.dvd_refl _)).mpr (hpow.trans hd), hb⟩
    · exact .inr ⟨i, hi, hd, hb⟩

/-- One level over the whole list. -/
theorem LevelsDone.level (h : LevelsDone op ty leaf l N acc) (hN : 2 ^ (l + 1) ∣ N) :
    LevelsDone op ty leaf (l + 1) N (treeLevel op ty l acc.1 acc.2) := by
  have hway : ∀ c ≤ N, LevelUnderWay op ty leaf l N c ((List.range c).foldl (treeStep op ty l) acc) := by
    intro c hc
    induction c with
    | zero => exact h.begin
    | succ c ih =>
      rw [List.range_succ, List.foldl_append]
      exact (ih (Nat.le_of_succ_le hc)).next hN hc
  rw [treeLevel_eq, h.length]
  exact (hway N (Nat.le_refl N)).finish hN

/-- All levels over a list of 2^n entries. -/
theorem levelsDone_all {n : Nat} {vals : List (Option Nat)} (hlen : vals.length = 2 ^ n) (hval : ∀ i < 2 ^ n, treeEntry vals i = leaf i) :
    ∀ l ≤ n, LevelsDone op ty leaf l (2 ^ n) ((List.range l).foldl (fun acc l => treeLevel op ty l acc.1 acc.2) (vals, 0)) := by
  intro l hl
  induction l with
  | zero => exact ⟨hlen, fun i hi _ => hval i hi, fun k => by simp [treeFlags]⟩
  | succ l ih =>
    rw [List.range_succ, List.foldl_append]
    exact (ih (Nat.le_of_succ_le hl)).level (Nat.pow_dvd_pow 2 hl)

end

/-- The tree over a list of 2^n entries: the recursive tree's value, as a result, and its flags. -/
theorem reduceTree_eq (op : RedOp) (ty : Ty) {leaf : Nat → Option Nat} {n : Nat} {vals : List (Option Nat)} (hlen : vals.length = 2 ^ n)
    (hval : ∀ i < 2 ^ n, treeEntry vals i = leaf i) :
    (reduceTree op ty vals).1.getD 0 = (passValue ty ((treeValue op ty leaf n 0).getD 0)).1 ∧
      (reduceTree op ty vals).2 = treeFlags op ty leaf n 0 ||| (passValue ty ((treeValue op ty leaf n 0).getD 0)).2 := by
  obtain ⟨-, hv, hf⟩ := levelsDone_all (op := op) (ty := ty) hlen hval n (Nat.le_refl n)
  have hroot := hv 0 (Nat.two_pow_pos n) (Nat.dvd_zero _)
  have hone : ∀ i < 2 ^ n, 2 ^ n ∣ i → i = 0 := fun i hi hd => Nat.eq_zero_of_dvd_of_lt hd hi
  unfold reduceTree
  rw [hlen, Nat.log2_two_pow]
  generalize (List.range n).foldl (fun acc l => treeLevel op ty l acc.1 acc.2) (vals, (0 : Fl)) = r at *
  have hflags : r.2 = treeFlags op ty leaf n 0 := by
    refine BitVec.eq_of_getLsbD_eq fun k _ => Bool.eq_iff_iff.mpr ((hf k).trans ⟨?_, fun hb => ⟨0, Nat.two_pow_pos n, Nat.dvd_zero _, hb⟩⟩)
    rintro ⟨i, hi, hd, hb⟩
    rwa [hone i hi hd] at hb
  rw [← hflags, ← hroot, treeEntry]
  obtain ⟨vals', f⟩ := r
  dsimp only
  cases (vals'[0]?).join with
  | none =>
    rw [Option.getD_none, passValue_zero]
    exact ⟨rfl, (BitVec.or_zero).symm⟩
  | some x => exact ⟨rfl, rfl⟩

/-- Settles O9: the list that VRED reduces holds the leaves of the tree. -/
theorem vectorReduce : Obligations.VectorReduce := by
  unfold Obligations.VectorReduce
  intro s t g op ty d o n leaf x nan f r he hf
  have hN : 512 / ty.width = 2 ^ n := Ty.lanes_inIF (Bool.and_eq_true_iff.mp (coded_of_executes he rfl)).1
  obtain ⟨hvalue, hflags⟩ := reduceTree_eq op ty (leaf := leaf) (n := n) (vals := (List.range (512 / ty.width)).map leaf) (by simpa using hN)
    fun i hi => by simp [treeEntry, hN, hi]
  have hpass : passValue ty x = (if nan then canonNaN ty else x, if nan ∧ (decodeNum ty x).signals = true then Fl.nv else 0) := by
    simp [passValue_eq, nan]
  have hbody : exec (.vred g op ty d o) s = .next (settle (.vred g op ty d o) s (s.view t) (retireOp s (s.view t) d
      (extendResult ty ((reduceTree op ty ((List.range (512 / ty.width)).map leaf)).1.getD 0))
      (reduceTree op ty ((List.range (512 / ty.width)).map leaf)).2)) := issue_executes he _
  have hr : extendResult ty (passValue ty x).1 = r := by rw [hpass]
  have hfl : treeFlags op ty leaf n 0 ||| (passValue ty x).2 = f := by rw [hpass]
  rw [hbody, hvalue, hflags, hr, hfl, settle_retireOp hf]

end Sys2Proof.Machine
end

section
/-! PROOFS. The prefix of VSCAN (R57, R126; O10), lane by lane from the first: what a lane takes depends only on the lanes below it. -/

namespace Sys2Proof.Machine

/-- The last active lane below j. -/
def lastActive (m : Word) (j : Nat) : Option Nat := ((List.range j).filter fun p => m.getLsbD p).getLast?

theorem lastActive_succ (m : Word) (j : Nat) : lastActive m (j + 1) = if m.getLsbD j then some j else lastActive m j := by
  rw [lastActive, List.range_succ, List.filter_append]
  cases h : m.getLsbD j <;> simp [h, lastActive]

theorem lastActive_lt {m : Word} {j p : Nat} (h : lastActive m j = some p) : p < j :=
  List.mem_range.mp (List.mem_filter.mp (List.mem_of_getLast? h)).1

section
variable (op : RedOp) (ty : Ty) (m : Word) (src : BitVec 512)

/-- What lane j takes where the lanes below it hold those of r: its source as a result for the first active lane, and else the combination
with the active lane before it (R57). -/
def scanResult (r : BitVec 512) (j : Nat) : Nat × Fl :=
  match lastActive m j with
  | none => passValue ty (lane src ty.width j)
  | some p => combine op ty (lane r ty.width p) (lane src ty.width j)

variable {op ty m src} in
theorem scanResult_congr {r r' : BitVec 512} {j : Nat} (h : ∀ p < j, lane r ty.width p = lane r' ty.width p) :
    scanResult op ty m src r j = scanResult op ty m src r' j := by
  unfold scanResult
  cases hp : lastActive m j with
  | none => rfl
  | some p =>
    dsimp only
    rw [h p (lastActive_lt hp)]

/-- One lane of the scan: the register so far, what the last active lane took, and the flags. -/
def scanStep (acc : BitVec 512 × Option Nat × Fl) (j : Nat) : BitVec 512 × Option Nat × Fl :=
  if active m j then
    match acc.2.1 with
    | none =>
      let (y, fl) := passValue ty (lane src ty.width j)
      (setLane acc.1 ty.width j y, some (y % 2 ^ ty.width), acc.2.2 ||| fl)
    | some p =>
      let (y, fl) := combine op ty p (lane src ty.width j)
      (setLane acc.1 ty.width j y, some (y % 2 ^ ty.width), acc.2.2 ||| fl)
  else acc

variable {op ty m src} in
theorem scanStep_inactive {acc : BitVec 512 × Option Nat × Fl} {j : Nat} (h : m.getLsbD j = false) : scanStep op ty m src acc j = acc :=
  if_neg (Bool.eq_false_iff.mp h)

variable {op ty m src} in
theorem scanStep_active {acc : BitVec 512 × Option Nat × Fl} {j : Nat} (h : m.getLsbD j = true)
    (hlast : acc.2.1 = (lastActive m j).map (lane acc.1 ty.width)) :
    scanStep op ty m src acc j = (setLane acc.1 ty.width j (scanResult op ty m src acc.1 j).1,
      some ((scanResult op ty m src acc.1 j).1 % 2 ^ ty.width), acc.2.2 ||| (scanResult op ty m src acc.1 j).2) := by
  rw [scanStep, if_pos (show active m j = true from h), hlast, scanResult]
  cases lastActive m j <;> rfl

/-- The scan of the first n lanes. -/
def scanTo (old : BitVec 512) (n : Nat) : BitVec 512 × Option Nat × Fl :=
  (List.range n).foldl (scanStep op ty m src) (old, none, 0)

theorem scanTo_succ (old : BitVec 512) (n : Nat) :
    scanTo op ty m src old (n + 1) = scanStep op ty m src (scanTo op ty m src old n) n := by
  rw [scanTo, List.range_succ, List.foldl_append]
  rfl

theorem scanLanes_eq (old : BitVec 512) :
    scanLanes op ty m src old = ((scanTo op ty m src old (512 / ty.width)).1, (scanTo op ty m src old (512 / ty.width)).2.2) := rfl

/-- After n lanes: what the last active lane took, the lanes, and the flags. -/
structure Scanned (old : BitVec 512) (n : Nat) (acc : BitVec 512 × Option Nat × Fl) : Prop where
  last : acc.2.1 = (lastActive m n).map (lane acc.1 ty.width)
  lanes : ∀ j, lane acc.1 ty.width j =
    if j < n ∧ m.getLsbD j = true then (scanResult op ty m src acc.1 j).1 % 2 ^ ty.width else lane old ty.width j
  flags : acc.2.2 = orFlags (((List.range n).filter fun j => m.getLsbD j).map fun j => (scanResult op ty m src acc.1 j).2)

variable {op ty m src} {old : BitVec 512}

theorem scanned_inactive {n : Nat} {acc : BitVec 512 × Option Nat × Fl} (h : Scanned op ty m src old n acc) (ha : m.getLsbD n = false) :
    Scanned op ty m src old (n + 1) (scanStep op ty m src acc n) := by
  obtain ⟨hlast, hlanes, hflags⟩ := h
  rw [scanStep_inactive ha]
  refine ⟨by rw [hlast, lastActive_succ, ha]; rfl, fun j => ?_, ?_⟩
  · rw [hlanes j]
    by_cases hj : j = n
    · simp [hj, ha]
    · simp only [show j < n + 1 ↔ j < n by omega]
  · rw [hflags, List.range_succ, List.filter_append]
    simp [ha]

/-- An active lane takes its result; the lanes below it, and so their results, stay. -/
theorem scanned_active {n : Nat} {acc : BitVec 512 × Option Nat × Fl} (h : Scanned op ty m src old n acc)
    (hn : ty.width * n + ty.width ≤ 512) (ha : m.getLsbD n = true) : Scanned op ty m src old (n + 1) (scanStep op ty m src acc n) := by
  obtain ⟨hlast, hlanes, hflags⟩ := h
  rw [scanStep_active ha hlast]
  have hsame := lane_setLane_same acc.1 ty.width n (scanResult op ty m src acc.1 n).1 hn
  have hother := fun j => lane_setLane_other acc.1 ty.width n j (scanResult op ty m src acc.1 n).1 hn
  generalize setLane acc.1 ty.width n (scanResult op ty m src acc.1 n).1 = v at hsame hother ⊢
  have hres : ∀ j ≤ n, scanResult op ty m src v j = scanResult op ty m src acc.1 j :=
    fun j hj => scanResult_congr fun p hp => hother p (by omega)
  refine ⟨?_, fun j => ?_, ?_⟩
  · rw [lastActive_succ, ha, if_pos rfl, Option.map_some, hsame]
  · dsimp only
    by_cases hj : j = n
    · rw [hj, hsame, if_pos ⟨Nat.lt_succ_self n, ha⟩, hres n (Nat.le_refl n)]
    · rw [hother j hj, hlanes j]
      by_cases hlt : j < n
      · simp only [hlt, Nat.lt_succ_of_lt hlt, hres j hlt.le]
      · simp only [hlt, show ¬ j < n + 1 by omega, false_and, if_false]
  · have hold : ((List.range n).filter fun j => m.getLsbD j).map (fun j => (scanResult op ty m src v j).2) =
        ((List.range n).filter fun j => m.getLsbD j).map fun j => (scanResult op ty m src acc.1 j).2 :=
      List.map_congr_left fun j hj => by rw [hres j (List.mem_range.mp (List.mem_filter.mp hj).1).le]
    rw [List.range_succ, List.filter_append, List.map_append, hold, orFlags, List.foldl_append, ← orFlags, ← hflags]
    simp [ha, hres n (Nat.le_refl n)]

/-- All lanes of the register. -/
theorem scanned_all (n : Nat) (hn : n ≤ 512 / ty.width) : Scanned op ty m src old n (scanTo op ty m src old n) := by
  induction n with
  | zero => exact ⟨rfl, fun j => by simp [scanTo], rfl⟩
  | succ n ih =>
    have hfit : ty.width * n + ty.width ≤ 512 := calc
      ty.width * n + ty.width = (n + 1) * ty.width := by ring
      _ ≤ 512 := (Nat.mul_le_mul_right _ hn).trans (Nat.div_mul_le_self 512 _)
    rw [scanTo_succ]
    cases ha : m.getLsbD n with
    | false => exact scanned_inactive (ih (Nat.le_of_succ_le hn)) ha
    | true => exact scanned_active (ih (Nat.le_of_succ_le hn)) hfit ha

end

/-- Settles O10: the register is the one that the scan leaves. -/
theorem scanPrefix : Obligations.ScanPrefix := by
  unfold Obligations.ScanPrefix
  intro s t g op ty d x i w m src nan he
  have hbody : exec i s = .next (settle i s (s.view t) (retireVec s (s.view t) d (scanLanes op ty m (t.vec x) (t.vec d)))) := issue_executes he _
  obtain ⟨-, hlanes, hflags⟩ := scanned_all (op := op) (ty := ty) (m := m) (src := t.vec x) (old := t.vec d) (512 / w) (Nat.le_refl _)
  rw [scanLanes_eq] at hbody
  refine ⟨(scanTo op ty m (t.vec x) (t.vec d) (512 / w)).1, ?_⟩
  intro before one f
  have hone : one = scanResult op ty m (t.vec x) (scanTo op ty m (t.vec x) (t.vec d) (512 / w)).1 := by
    funext j
    simp only [one, scanResult, passValue_eq]
    change (match lastActive m j with | none => _ | some p => _) = _
    cases lastActive m j <;> rfl
  have hf : (scanTo op ty m (t.vec x) (t.vec d) (512 / w)).2.2 = f := by rw [hflags, ← hone]
  refine ⟨fun j hj => ?_, fun hq => ?_, fun hq => ?_⟩
  · rw [hlanes j, ← hone]
    simp only [hj, true_and]
    rfl
  · rw [hbody, ← hf]
    exact congrArg _ (settle_retireVec (hf ▸ hq))
  · rw [hbody, ← hf]
    exact congrArg _ (settle_exception (hf ▸ hq))

end Sys2Proof.Machine
end

section
/-! PROOFS. The barrier unit and the Dead Letter Office (R58, R185, R186, R260 to R265; O48): each packet that has arrived, case by case. -/

namespace Sys2Proof.Machine

section
variable {s : State} {ctx ltn n : Nat}

/-! The barrier unit. -/

theorem exec_barArrival {index num src : Nat} {ared : Bool} {val : Option Contrib} (hn : s.net[n]? = some (.barUp ctx index num ared src val))
    (hl : s.partTile ctx index = some ltn) (ht : (s.ptnOf ctx ltn).isSome = true) :
    let p := s.part ctx ltn
    let b : BarNode := { p.barNode ared num with got := (p.barNode ared num).got ++ [(src, val)] }
    exec (.barArrival n) s = .next (((s.takePacket n).setPart ctx ltn (p.setBar b)).tryBar ctx ltn b) := by
  have hsome : (s.ptnOf ctx ltn).isNone = false := by rwa [Option.isNone_eq_false_iff]
  change execBarArrival n s = _
  simp only [execBarArrival, hn, hl, hsome, Bool.false_eq_true, if_false]
  rfl

/-- A release that has arrived: the tile's place goes, its children are told, and its own barrier ends. -/
theorem exec_barRelease {index num : Nat} {ared : Bool} {val : Option Contrib} (hn : s.net[n]? = some (.barDown ctx index num ared val))
    (hl : s.partTile ctx index = some ltn) (ht : (s.ptnOf ctx ltn).isSome = true) :
    let kids := childrenOf index (((s.kernel ctx).map (·.participants)).getD 0)
    exec (.barRelease n) s = .next ((kids.foldl (fun u c => u.barSend ctx c num ared false index val)
      ((s.takePacket n).setPart ctx ltn ((s.part ctx ltn).dropBar ared num))).released ctx ltn num ared val) := by
  have hsome : (s.ptnOf ctx ltn).isNone = false := by rwa [Option.isNone_eq_false_iff]
  change execBarRelease n s = _
  simp only [execBarRelease, hn, hl, hsome, Bool.false_eq_true, if_false]
  rfl

/-- Requests that wait for the release complete. -/
theorem released_of_waiting {num : Nat} {ared : Bool} (val : Option Contrib) (h : s.barRequests ctx ltn num ared ≠ []) :
    s.released ctx ltn num ared val = (s.barRequests ctx ltn num ared).foldl (fun u r => u.finish (barAnswer r val)) s := by
  simp [State.released, h]

/-- With none, a tile that has executed KEND keeps the number, and another keeps nothing. -/
theorem released_of_none {num : Nat} {ared : Bool} (val : Option Contrib) (h : s.barRequests ctx ltn num ared = []) :
    s.released ctx ltn num ared val = if (s.part ctx ltn).ended then
      s.setPart ctx ltn { s.part ctx ltn with done := (s.part ctx ltn).done ++ [(ared, num, val)] } else s := by
  simp [State.released, h]

theorem barAnswer_bar {r : Req} {m : Nat} (h : r.kind = .bar m) (val : Option Contrib) : barAnswer r val = r.answer .ok [] := by
  simp [barAnswer, h]

theorem barAnswer_ared {r : Req} {m v : Nat} {op : RedOp} {ty : Ty} (h : r.kind = .ared m op ty v) (c : Contrib) :
    barAnswer r (some c) = if c.bad then r.answer .refused [] else r.answer .ok [some (contribResult c)] := by
  simp [barAnswer, h]

/-! The Dead Letter Office. -/

theorem exec_dloDetectionStart (hm : (s.ctx ctx).dlm ≠ 0) (hb : s.blockedTile ctx ltn = true) (he : (s.part ctx ltn).edges ≠ [])
    (hs : (s.part ctx ltn).dloSeen ≠ some ((s.part ctx ltn).asn, (s.part ctx ltn).ports)) :
    exec (.dloDetectionStart ctx ltn) s = .next (s.startDetection ctx ltn) :=
  if_neg (by simp [hm, hb, he, hs])

@[simp] theorem State.takePacket_at_tileRef (s : State) (n c l : Nat) : (s.takePacket n).tileRef c l = s.tileRef c l := rfl

theorem makeRoom_of_room {s : State} {ptn : Nat} (ctx : Nat) (init : TileRef) (h : (s.visitsOn ptn).length < 32) :
    s.makeRoom ptn ctx init = (true, s) := if_pos h

/-- A serial is not older than itself. -/
theorem olderSerial_self (a : Nat) : olderSerial a a = false := by simp [olderSerial]

/-- An entry of the query's own detection stays when the query comes. -/
theorem visit_serial {det : Detection} {v : Visit} {p : Part} (hv : p.visit det.init = some v)
    (h : ∀ v ∈ p.visits, v.det.init = det.init → v.det.serial = det.serial) : v.det.serial = det.serial :=
  h v (List.mem_of_find?_eq_some hv) (by simpa using List.find?_some hv)

section
variable {det : Detection} {src : TileRef} {e : Edge} (hn : s.net[n]? = some (.dloQuery ctx det src e))
  (ht : (s.ptnOf ctx e.dst.ltn).isSome = true)
  (hv : ∀ v ∈ (s.part ctx e.dst.ltn).visits, v.det.init = det.init → v.det.serial = det.serial)
include hn ht hv

/-- A tile that is not blocked, or whose port faces the sender, answers ACTIVE (R262). -/
theorem exec_dloQuery_active (h : (s.takePacket n).blockedTile ctx e.dst.ltn = false ∨
      ((s.part ctx e.dst.ltn).port e.dst.port).faces ⟨src.pkg, src.ltn, e.port⟩ = true) :
    exec (.dloQuery n) s = .next ((s.takePacket n).sendReply ctx det src e (bare .active)) := by
  obtain ⟨ptn, ht⟩ := Option.isSome_iff_exists.mp ht
  change execDloQuery n s = _
  cases hp : (s.part ctx e.dst.ltn).visit det.init with
  | none => simp [execDloQuery, hn, ht, hp, h]
  | some v => simp [execDloQuery, hn, ht, hp, h, visit_serial hp hv, olderSerial_self]

section
variable (hb : (s.takePacket n).blockedTile ctx e.dst.ltn = true)
  (hc : ((s.part ctx e.dst.ltn).port e.dst.port).faces ⟨src.pkg, src.ltn, e.port⟩ = false)
include hb hc

/-- The initiator itself answers BLOCKED. -/
theorem exec_dloQuery_initiator (hi : det.init = s.tileRef ctx e.dst.ltn) :
    exec (.dloQuery n) s = .next ((s.takePacket n).sendReply ctx det src e (bare .blocked)) := by
  obtain ⟨ptn, ht⟩ := Option.isSome_iff_exists.mp ht
  change execDloQuery n s = _
  cases hp : (s.part ctx e.dst.ltn).visit det.init with
  | none => simp [execDloQuery, hn, ht, hp, hb, hc, eq_true hi]
  | some v => simp [execDloQuery, hn, ht, hp, hb, hc, eq_true hi, visit_serial hp hv, olderSerial_self]

variable (hi : det.init ≠ s.tileRef ctx e.dst.ltn)
include hi

omit ht hv in
/-- A blocked tile that no entry of the initiator knows, with room for one, engages and passes the query on along its edges (R262, R264). -/
theorem exec_dloQuery_engages {ptn : Nat} (hp : (s.part ctx e.dst.ltn).visit det.init = none) (h1 : det.pass = 1)
    (hptn : s.ptnOf ctx e.dst.ltn = some ptn) (hroom : ((s.takePacket n).visitsOn ptn).length < 32) (he : (s.part ctx e.dst.ltn).edges ≠ []) :
    let p := s.part ctx e.dst.ltn
    let t := s.tileRef ctx e.dst.ltn
    exec (.dloQuery n) s = .next (p.edges.foldl (fun u x => u.sendQuery ctx det t x)
      ((s.takePacket n).putVisit ctx e.dst.ltn ⟨det, src, e, 1, p.asn, p.edges, p.edges, ownReport t p.edges⟩)) := by
  change execDloQuery n s = _
  simp [execDloQuery, hn, hptn, hp, hb, hc, hi, h1, makeRoom_of_room _ _ hroom, he]

variable {v : Visit} (hp : (s.part ctx e.dst.ltn).visit det.init = some v)
include hp

/-- A tile already engaged answers BLOCKED in the first pass, and counts the query. -/
theorem exec_dloQuery_again (h1 : det.pass = 1) :
    exec (.dloQuery n) s =
      .next (((s.takePacket n).putVisit ctx e.dst.ltn { v with asked := v.asked + 1 }).sendReply ctx det src e (bare .blocked)) := by
  obtain ⟨ptn, ht⟩ := Option.isSome_iff_exists.mp ht
  change execDloQuery n s = _
  simp [execDloQuery, hn, ht, hp, hb, hc, hi, h1, visit_serial hp hv, olderSerial_self]

/-- In the second pass a tile that is not as the first pass found it answers ACTIVE (R263). -/
theorem exec_dloQuery_changed (h2 : det.pass = 2) (h : (s.part ctx e.dst.ltn).asn ≠ v.asn ∨ (s.part ctx e.dst.ltn).edges ≠ v.edges) :
    exec (.dloQuery n) s = .next (((s.takePacket n).countDown ctx e.dst.ltn v).sendReply ctx det src e (bare .active)) := by
  obtain ⟨ptn, ht⟩ := Option.isSome_iff_exists.mp ht
  change execDloQuery n s = _
  simp [execDloQuery, hn, ht, hp, hb, hc, hi, h2, h, visit_serial hp hv, olderSerial_self]

section
variable (h2 : det.pass = 2) (hasn : (s.part ctx e.dst.ltn).asn = v.asn) (hedges : (s.part ctx e.dst.ltn).edges = v.edges)
include h2 hasn hedges

/-- A further query of the second pass is answered BLOCKED. -/
theorem exec_dloQuery_further (h : v.det.pass = 2) :
    exec (.dloQuery n) s = .next (((s.takePacket n).countDown ctx e.dst.ltn v).sendReply ctx det src e (bare .blocked)) := by
  obtain ⟨ptn, ht⟩ := Option.isSome_iff_exists.mp ht
  change execDloQuery n s = _
  simp [execDloQuery, hn, ht, hp, hb, hc, hi, h2, hasn, hedges, h, visit_serial hp hv, olderSerial_self]

/-- The first query of the second pass goes on along the entry's edges. -/
theorem exec_dloQuery_secondPass (h : v.det.pass ≠ 2) (he : v.edges ≠ []) :
    let t := s.tileRef ctx e.dst.ltn
    let w : Visit := { v with det := det, engager := src, via := e, awaiting := v.edges, got := ownReport t v.edges }
    exec (.dloQuery n) s = .next (v.edges.foldl (fun u x => u.sendQuery ctx det t x) ((s.takePacket n).putVisit ctx e.dst.ltn w)) := by
  obtain ⟨ptn, ht⟩ := Option.isSome_iff_exists.mp ht
  change execDloQuery n s = _
  simp [execDloQuery, hn, ht, hp, hb, hc, hi, h2, hasn, hedges, h, he, visit_serial hp hv, olderSerial_self]

end
end
end

/-- An answer that the initiator awaits is collected, and the last of them ends the pass (R262, R263). -/
theorem exec_dloReply {det : Detection} {dst : TileRef} {e : Edge} {rep : Report} {v : Visit}
    (hn : s.net[n]? = some (.dloReply ctx det dst e rep)) (ht : (s.ptnOf ctx dst.ltn).isSome = true)
    (hp : (s.part ctx dst.ltn).det = some v) (hd : v.det = det) (he : e ∈ v.awaiting) :
    let w : Visit := { v with awaiting := v.awaiting.erase e, got := v.got.and rep }
    let s1 := (s.takePacket n).setPart ctx dst.ltn { s.part ctx dst.ltn with det := some w }
    exec (.dloReply n) s = .next (if w.awaiting = [] then s1.passDone ctx dst.ltn w else s1) := by
  obtain ⟨ptn, ht⟩ := Option.isSome_iff_exists.mp ht
  change execDloReply n s = _
  simp [execDloReply, hn, ht, hp, hd, he]

end

/-- Settles O48, packet by packet. -/
theorem barriersAndDetections : Obligations.BarriersAndDetections := by
  unfold Obligations.BarriersAndDetections
  intro s ctx ltn n s0 p
  refine ⟨fun index num ared src val hn hl ht => exec_barArrival hn hl ht, fun index num ared val hn hl ht => ?_,
    fun r m op ty v c => ⟨fun h => barAnswer_bar h, fun h => barAnswer_ared h c⟩, exec_dloDetectionStart, ?_, ?_⟩
  · intro kids s1 mine
    rw [exec_barRelease hn hl ht]
    exact ⟨fun h => congrArg _ (released_of_waiting val h), fun h he => congrArg _ ((released_of_none val h).trans (if_pos he)),
      fun h he => congrArg _ ((released_of_none val h).trans (if_neg (Bool.eq_false_iff.mp he)))⟩
  · rintro det src e hn rfl ht hv closed answer
    refine ⟨exec_dloQuery_active hn ht hv, exec_dloQuery_initiator hn ht hv, fun v hb hc hi hp => exec_dloQuery_again hn ht hv hb hc hi hp,
      fun v hb hc hi hp h2 => ⟨exec_dloQuery_changed hn ht hv hb hc hi hp h2,
        fun hasn hedges => exec_dloQuery_further hn ht hv hb hc hi hp h2 hasn hedges,
        fun hasn hedges => exec_dloQuery_secondPass hn ht hv hb hc hi hp h2 hasn hedges⟩,
      fun ptn hb hc hi hp h1 => exec_dloQuery_engages hn hb hc hi hp h1⟩
  · rintro det dst e rep v hn rfl ht hp hd he
    exact exec_dloReply hn ht hp hd he

end Sys2Proof.Machine
end

section
/-! PROOFS. How a request goes on (R77, R171, R202 to R204, R217, R368 to R372; O46): its walk, the fault service's answer, a fetch, its
acknowledgements and its arrival. -/

namespace Sys2Proof.Machine

/-- A request that is found by its name has that name. -/
theorem State.req_id {s : State} {id : Nat} {r : Req} (h : s.req id = some r) : r.id = id := by
  unfold State.req at h
  simpa using List.find?_some h

/-! ## Translation -/

section
variable {s : State} {r : Req} {acc : Access}

/-- PAGE_WALK of a request that awaits translation is its walk, and what goes on after it. -/
theorem exec_pageWalk {id : Nat} (cached : Option Nat) (hr : s.req id = some r) (hphys : r.phys = none) (hperf : r.performed = false)
    (hheld : r.faultHeld = false) (hsent : r.sent = false) (hparked : r.parked = false) (hacc : r.kind.access = some acc) :
    exec (.pageWalk id cached) s = .next ((s.walkReq r acc cached).onward r) := by
  change execPageWalk id cached s = _
  simp [execPageWalk, hr, hphys, hperf, hheld, hsent, hparked, hacc]

/-- An address beyond 52 bits has no translation (R368). -/
theorem walkReq_of_beyond (cached : Option Nat) (h : 2 ^ 52 ≤ r.curVa) : s.walkReq r acc cached = s.failReq r .fault 0x10 := by
  simp only [State.walkReq, if_pos h]

@[simp] theorem State.cachedLeaf_none (s : State) (ctx va : Nat) : s.cachedLeaf ctx va none = none := rfl

/-! Below that, and with no cached leaf offered, the walk of the tables decides. -/

variable {u : State} (hva : r.curVa < 2 ^ 52)
include hva

theorem walkReq_of_leaf {p : Phys} (hw : s.translate r.ref.ctx r.curVa acc = (.ok p, u)) :
    s.walkReq r acc none = u.setReq { r with phys := some p } := by
  simp only [State.walkReq, State.cachedLeaf_none, ite_self, if_neg (Nat.not_le.mpr hva), hw]

theorem walkReq_of_miss (hw : s.translate r.ref.ctx r.curVa acc = (.miss, u)) (hfirst : r.replayed = false) :
    s.walkReq r acc none = u.holdFault r r.curVa (if acc = .read then 0 else 1) := by
  simp only [State.walkReq, State.cachedLeaf_none, ite_self, if_neg (Nat.not_le.mpr hva), hw, hfirst, Bool.false_eq_true, if_false]

/-- A request is replayed once (R372). -/
theorem walkReq_of_missAgain (hw : s.translate r.ref.ctx r.curVa acc = (.miss, u)) (hagain : r.replayed = true) :
    s.walkReq r acc none = u.failReq r .fault 0x10 := by
  simp only [State.walkReq, State.cachedLeaf_none, ite_self, if_neg (Nat.not_le.mpr hva), hw, hagain, if_true]

theorem walkReq_of_fault (hw : s.translate r.ref.ctx r.curVa acc = (.fault, u)) :
    s.walkReq r acc none = u.failReq r .fault 0x10 := by
  simp only [State.walkReq, State.cachedLeaf_none, ite_self, if_neg (Nat.not_le.mpr hva), hw]

theorem walkReq_of_prot (hw : s.translate r.ref.ctx r.curVa acc = (.prot, u)) :
    s.walkReq r acc none = u.failReq r .fault 0x11 := by
  simp only [State.walkReq, State.cachedLeaf_none, ite_self, if_neg (Nat.not_le.mpr hva), hw]

end

section
variable {s : State}

theorem exec_faultServiceReply {ctx : Nat} {va : Word} {f : Service} (present : Bool)
    (hf : s.services.find? (fun f => f.ctx = ctx ∧ f.va = va.toNat / 2 ^ 16 * 2 ^ 16) = some f) (hhw : s.feature 1 = true) :
    exec (.faultServiceReply ctx va present) s = .next (s.serviceReply f present) := by
  change execFaultServiceReply ctx va present s = _
  simp only [execFaultServiceReply, hf, hhw, if_true]

/-! ## Fetches -/

/-- A seat whose next word is not the first of an LI64 that the cache holds fetches the word at its PC (R77). -/
theorem exec_instructionFetch {ptn core seat : Nat} {t : Threadlet} {w : Word} {u : State} (hrun : s.seat ⟨ptn, core, seat⟩ = .run t)
    (hone : (s.cachedWord ptn t.ctx t.pc.toNat).any wantsSecond = false)
    (hmem : s.fetchMem ((⟨ptn, core, seat⟩ : SeatId).fetches t.ctx) t.pc.toNat = (.word w, u)) :
    exec (.instructionFetch ptn core seat) s = .next (u.cacheWord ptn t.ctx t.pc.toNat w) := by
  change execInstructionFetch ptn core seat s = _
  simp [execInstructionFetch, hrun, hone, hmem]

/-! ## Acknowledgements and arrival -/

variable {id : Nat} {r : Req} (hr : s.req id = some r) (hperf : r.performed = true) (hhere : s.keepsFor r.ref.ctx r.ref.ltn = false)
include hr hperf hhere

section
variable (hwrite : r.write = true) (hacc : r.kind.access.isSome = true) (hparked : r.parked = false)
include hwrite hacc hparked

/-- A performed write is acknowledged at its package (R202). -/
theorem exec_writeAck_package (hnot : r.ackPkg = false) :
    exec (.writeAck id false) s = .next ((s.setReq { r with ackPkg := true }).onward r) := by
  change execWriteAck id false s = _
  simp [execWriteAck, hr, hwrite, Option.isNone_eq_false_iff.mpr hacc, hparked, hhere, hnot, hperf]

variable (hnot : r.ackPod = false) (hpkg : r.ackPkg = true) (hwhole : r.kind.isPart = false)
include hnot hpkg hwhole

/-- The acknowledgement at pod scope completes a write that has no target (R203). -/
theorem exec_writeAck_pod_completes (hdest : r.dest = none) :
    exec (.writeAck id true) s = .next ((s.finish { r with ackPkg := true, ackPod := true }).onward r) := by
  change execWriteAck id true s = _
  simp [execWriteAck, hr, hwrite, Option.isNone_eq_false_iff.mpr hacc, hparked, hhere, hnot, hpkg, hwhole, hdest, hperf]

/-- It ends the OWC's count of one that has a target, whose completion comes with its arrival (R203). -/
theorem exec_writeAck_pod_counts (hdest : r.dest.isSome = true) (hcounted : r.counted = true) :
    exec (.writeAck id true) s =
      .next (((s.setReq { r with ackPkg := true, ackPod := true, counted := false }).owcDown r.ref r.rtag).onward r) := by
  change execWriteAck id true s = _
  simp [execWriteAck, hr, hwrite, Option.isNone_eq_false_iff.mpr hacc, hparked, hhere, hnot, hpkg, hwhole, Option.isNone_eq_false_iff.mpr hdest, hperf, hcounted]

end

theorem exec_responseArrival (hacked : r.write = true → r.ackPod = true) (hwhole : r.kind.isPart = false) :
    exec (.responseArrival id) s = .next (s.respond r) := by
  have hdone : ¬ (r.write = true ∧ r.ackPod = false) := fun ⟨hwrite, hnot⟩ => by simp [hacked hwrite] at hnot
  change execResponseArrival id s = _
  simp [execResponseArrival, hr, hperf, hhere, hwhole, hdone]

end

/-- Settles O46: each step's guard passes, and what it does then is one of the model's operations. -/
theorem requestsGoOn : Obligations.RequestsGoOn := by
  unfold Obligations.RequestsGoOn
  intro s
  refine ⟨fun id r acc cached hr hphys hperf hheld hsent hparked hacc => ?walk, fun ctx va present f => exec_faultServiceReply present,
    fun ptn core seat t w s1 => exec_instructionFetch, fun id r hr hwrite hacc hperf hparked hhere => ?ack,
    fun id r hr hperf hacked hwhole hhere => ?arrival⟩
  case walk =>
    intro va walked
    have walks {x : Xlat} (h : walked.1 = x) : s.translate r.ref.ctx r.curVa acc = (x, walked.2) := Prod.ext h rfl
    exact ⟨exec_pageWalk cached hr hphys hperf hheld hsent hparked hacc, walkReq_of_beyond none, fun hva =>
      ⟨fun p h => walkReq_of_leaf hva (walks h), fun h => walkReq_of_miss hva (walks h), fun h => walkReq_of_missAgain hva (walks h),
        fun h => walkReq_of_fault hva (walks h), fun h => walkReq_of_prot hva (walks h)⟩⟩
  case ack =>
    exact ⟨exec_writeAck_package hr hperf hhere hwrite hacc hparked, fun hnot hpkg hwhole =>
      ⟨exec_writeAck_pod_completes hr hperf hhere hwrite hacc hparked hnot hpkg hwhole,
        exec_writeAck_pod_counts hr hperf hhere hwrite hacc hparked hnot hpkg hwhole⟩⟩
  case arrival =>
    obtain rfl := State.req_id hr
    simp only [exec_responseArrival hr hperf hhere hacked hwhole, State.respond, List.any_eq_true, decide_eq_true_eq]

end Sys2Proof.Machine
end

section
/-! PROOFS. Scalar results (O1), and what control instructions come to: branches and LOOP (O13, O15), and END (O14). -/

namespace Sys2Proof.Machine

/-! Scalar results. -/

/-- Settles O1: the outcome that the tables give is the destination's new value, which retires where its flags are quiet. -/
theorem scalarResults : Obligations.ScalarResults := by
  unfold Obligations.ScalarResults
  refine ⟨fun s t i d x f h hi hf => ?_, fun s t i d x f h hi hf => ?_⟩
  · rw [exec_integer h hi, settle_retireOp hf]
  · rw [exec_floating h hi, settle_retireOp hf]

/-! Branches and traps. -/

section
variable {s : State} {t : Threadlet} {i : Instr} {body : State → View → Res}

/-- An instruction that executes and whose body jumps moves the PC to the body's target. -/
theorem exec_of_jump {s' : State} {t' : Threadlet} {pc : Word} (h : Executes s t i) (hi : exec i s = issue i s body)
    (hb : body s (s.view t) = .jump s' t' pc) : exec i s = .next (s'.setSeat s.cur (.run { t' with pc := pc, mid := none })) := by
  rw [hi, issue_executes h, hb, settle_jump]

/-- An instruction that executes and whose body traps, with no machine check, enters the trap. -/
theorem exec_of_trap {c code : Nat} {a : Word} {f : Fl} (h : Executes s t i) (hi : exec i s = issue i s body)
    (hb : body s (s.view t) = .trap c code a f) (hc : c ≠ 0x30) : exec i s = .next (s.trapped t i c code a f) := by
  rw [hi, issue_executes h, hb, settle_trap hc]

/-- An instruction that executes and whose body ends the threadlet answers the body's state. -/
theorem exec_of_ended {s' : State} (h : Executes s t i) (hi : exec i s = issue i s body) (hb : body s (s.view t) = .ended s') :
    exec i s = .next s' := by
  rw [hi, issue_executes h, hb]
  rfl

end

theorem jumpTo_aligned (s : State) (t : Threadlet) {target : Word} (h : target.toNat % 8 = 0) : jumpTo s t target = .jump s t target :=
  if_pos h

theorem exec_endT {s : State} {t : Threadlet} {g : Guard} (h : Executes s t (.endT g)) (hb : t.badFlags = false) :
    exec (.endT g) s = .next ((s.endThreadlet (s.view t)).finishPart t.ctx t.ltn) :=
  exec_of_ended h rfl (if_neg (Bool.eq_false_iff.mp hb))

/-- RET with a good lr reads it as a jump's target. -/
theorem exec_ret {s : State} {t : Threadlet} {g : Guard} (h : Executes s t (.ret g)) (hb : t.bad.contains .lr = false)
    (ha : t.lr.toNat % 8 = 0) : exec (.ret g) s = .next (s.setSeat s.cur (.run { t with pc := t.lr, mid := none })) :=
  exec_of_jump h rfl ((if_neg (Bool.eq_false_iff.mp hb)).trans (jumpTo_aligned s t ha))

/-- Settles O13: each body is a jump, a trap or the end of the threadlet. -/
theorem controlFlow : Obligations.ControlFlow := by
  unfold Obligations.ControlFlow
  intro s t g x disp near far at' linked
  refine ⟨fun h => ?nop, fun h => ?br, fun h ha => ?jmp, fun h => ?call, fun h ha => ?callr, exec_ret, exec_endT,
    fun h => ?trap, fun h => ?brk⟩
  case nop => exact (issue_executes h _).trans (congrArg _ (settle_next (quiet_zero s t)))
  case br => exact exec_of_jump h rfl rfl
  case jmp => exact exec_of_jump h rfl (jumpTo_aligned s t ha)
  case call => exact exec_of_jump h rfl rfl
  case callr => exact exec_of_jump h rfl (jumpTo_aligned s linked ha)
  case trap => exact exec_of_trap h rfl rfl (by decide)
  case brk => exact exec_of_trap h rfl rfl (by decide)

/-! LOOP. -/

/-- Check 6 of R76: the operands of an instruction that passes the checks are of their classes. -/
theorem operandsOk_of_passesChecks {s : State} {t : Threadlet} {i : Instr} {h : Shape} (hh : i.shape = some h)
    (hc : passesChecks s t i = true) : h.operandsOk = true := by
  simp only [passesChecks, hh, Bool.and_eq_true, Option.isNone_iff_eq_none] at hc
  obtain ⟨hstatic, -⟩ := hc
  contrapose! hstatic
  simp only [staticCheck, Bool.eq_false_iff.mpr hstatic, Bool.not_false, if_true]
  split_ifs <;> exact Option.some_ne_none _

/-- The counter of LOOP is of scalar class. -/
theorem loop_counter_scalar {s : State} {t : Threadlet} {g : Guard} {d : Operand} {disp : BitVec 32}
    (hc : passesChecks s t (.loop g d disp) = true) : Cls.scalar.has d = true := by
  have ho := operandsOk_of_passesChecks rfl hc
  simp only [Shape.operandsOk, List.all_cons, List.all_nil, Use.ok, Bool.and_eq_true] at ho
  obtain ⟨⟨-, ⟨hd, -⟩, -⟩, -⟩ := ho
  exact hd

/-- An instruction that needs no entry and no place of a queue, and whose guard is false, only moves the PC. -/
theorem exec_guard_false {s : State} {t : Threadlet} {i : Instr} {body : State → View → Res} (hi : exec i s = issue i s body)
    (hr : s.seat s.cur = .run t) (hn : s.notReady (s.view t) i = false) (hc : passesChecks s t i = true) (hg : guardHolds t i = false) :
    exec i s = .next (s.retired s.cur t.pc i t 0) := by
  rw [hi, issue_guard_false hr hn hc hg]
  exact congrArg _ (settle_next (quiet_zero s t))

/-- The counter zr reads 0, so that LOOP zr never falls through (R24, R94). -/
theorem loop_zr_nonzero (s : State) (t : Threadlet) : s.readOp (s.view t) .zr - 1 ≠ 0 := by
  change (0 : Word) - 1 ≠ 0
  decide

/-- Settles O15: the body of LOOP is a jump whose target depends on the decremented counter. -/
theorem loopCounts : Obligations.LoopCounts := by
  unfold Obligations.LoopCounts
  intro s t g d disp i n
  refine ⟨loop_counter_scalar, fun hr hc hg => exec_guard_false rfl hr rfl hc hg, fun h => exec_of_jump h rfl rfl, fun h1 => ?_, fun h0 => ?_, ?_⟩
  · exact (congrArg (· - 1) h1).trans (BitVec.sub_self 1)
  · exact (congrArg (· - 1) h0).trans (by decide)
  · rintro rfl
    exact ⟨loop_zr_nonzero s t, rfl⟩

/-! END (R95). -/

/-- The tile's sticky flags with those of a threadlet that ends (R33). -/
def Part.mergeFlags (p : Part) (t : Threadlet) : Part := { p with sflag := p.sflag ||| t.flags }

/-- A frame with one running activation less. -/
def Frame.runEnded (f : Frame) : Frame := { f with runs := f.runs - 1 }

/-- The state after the flags have merged and the seat is idle. -/
def State.leftSeat (s : State) (t : Threadlet) : State :=
  (s.setPart t.ctx t.ltn ((s.part t.ctx t.ltn).mergeFlags t)).setSeat s.cur .idle

/-- The state after the end of a threadlet of frame f whose freeing is not pending. -/
def State.afterEnd (s : State) (t : Threadlet) (f : Frame) : State := (s.leftSeat t).setFrame t.ref f.runEnded

/-- A frame whose freeing is not pending is not freed (R176). -/
theorem settleFree_not_pending {s : State} {r : FrameRef} {f : Frame} (hf : s.frame r = some f) (hp : f.pendingFree = false) :
    s.settleFree r = s := by
  simp [State.settleFree, hf, hp]

/-- A part that has not ended goes on (R184). -/
theorem finishPart_not_ended {s : State} {ctx ltn : Nat} (h : (s.part ctx ltn).ended = false) : s.finishPart ctx ltn = s := by
  simp [State.finishPart, h]

/-- A part replaced by one with the same cores holds the same frames. -/
theorem frame_setPart_cores (s : State) {ctx ltn : Nat} {p : Part} (h : p.cores = (s.part ctx ltn).cores) (r : FrameRef) :
    (s.setPart ctx ltn p).frame r = s.frame r := by
  have hcores : ((s.setPart ctx ltn p).part r.ctx r.ltn).cores = (s.part r.ctx r.ltn).cores := by
    by_cases hk : partKey r.ctx r.ltn = partKey ctx ltn
    · have hpart : ∀ x : State, x.part r.ctx r.ltn = x.part ctx ltn := fun x => by rw [State.part, State.part, hk]
      rw [hpart, hpart, State.part_setPart_same, h]
    · rw [State.part_setPart_other s p hk]
  simp only [State.frame, State.partCore, Part.core, hcores]

theorem modFrame_of_frame {s : State} {r : FrameRef} {f : Frame} (h : s.frame r = some f) (g : Frame → Frame) :
    s.modFrame r g = s.setFrame r (g f) := by
  simp [State.modFrame, h]

theorem leftSeat_part (s : State) (t : Threadlet) : (s.leftSeat t).part t.ctx t.ltn = (s.part t.ctx t.ltn).mergeFlags t :=
  State.part_setPart_same _ _ _ _

theorem leftSeat_frame (s : State) (t : Threadlet) (r : FrameRef) : (s.leftSeat t).frame r = s.frame r :=
  frame_setPart_cores s (p := (s.part t.ctx t.ltn).mergeFlags t) rfl r

/-- The end of a threadlet, by its three writes. -/
theorem endThreadlet_eq {s : State} {t : Threadlet} {f : Frame} (hf : s.frame t.ref = some f) (hp : f.pendingFree = false) :
    s.endThreadlet (s.view t) = s.afterEnd t f := by
  have hframe : (s.leftSeat t).frame t.ref = some f := (leftSeat_frame s t t.ref).trans hf
  have hstays : (s.afterEnd t f).frame t.ref = some f.runEnded := State.frame_setFrame_same _ _ _
  calc s.endThreadlet (s.view t)
      = (s.afterEnd t f).settleFree t.ref := congrArg (State.settleFree · t.ref) (modFrame_of_frame hframe Frame.runEnded)
    _ = s.afterEnd t f := settleFree_not_pending hstays hp

/-- The part of a threadlet that has ended: its flags have merged, and one core's frames have changed. -/
theorem afterEnd_part (s : State) (t : Threadlet) (f : Frame) :
    ∃ c, (s.afterEnd t f).part t.ctx t.ltn = ((s.part t.ctx t.ltn).mergeFlags t).setCore t.core c := by
  rw [← leftSeat_part]
  exact ⟨_, State.part_setPart_same _ _ _ _⟩

theorem afterEnd_seat (s : State) (t : Threadlet) (f : Frame) : (s.afterEnd t f).seat s.cur = .idle :=
  State.seat_setSeat_same _ _ _

theorem afterEnd_frame_other (s : State) {t : Threadlet} {r : FrameRef} (f : Frame)
    (h : partKey r.ctx r.ltn ≠ partKey t.ctx t.ltn ∨ r.core ≠ t.core ∨ r.frm ≠ t.frm) : (s.afterEnd t f).frame r = s.frame r :=
  (frame_setFrame_other (s.leftSeat t) (q := t.ref) f.runEnded h).trans (leftSeat_frame s t r)

/-- Settles O14: the part goes on and the frame stays, so END is the three writes of its threadlet's end. -/
theorem endLeavesFrame : Obligations.EndLeavesFrame := by
  unfold Obligations.EndLeavesFrame
  intro s t g f h hb hf hp he
  obtain ⟨c, hpart⟩ := afterEnd_part s t f
  have hgoes : ((s.afterEnd t f).part t.ctx t.ltn).ended = false := by rw [hpart]; exact he
  refine ⟨s.afterEnd t f, ?_, afterEnd_seat s t f, by rw [hpart]; rfl, State.frame_setFrame_same _ _ _,
    fun r hr => afterEnd_frame_other s f hr, rfl, rfl, rfl, rfl, fun b => by rw [hpart]; rfl⟩
  rw [exec_endT h hb, endThreadlet_eq hf hp, finishPart_not_ended hgoes]

end Sys2Proof.Machine
end

section
/-! PROOFS. Mask instructions (O12), comparisons and single lanes (O8), and packed elements (O11). -/

namespace Sys2Proof.Machine

/-! An instruction that executes retires with what its body leaves. -/

section
variable {s : State} {t : Threadlet} {i : Instr} {body : State → View → Res}

/-- An instruction that executes, whose body goes on and whose flags raise no enabled exception, retires. -/
theorem exec_of_next {s' : State} {t' : Threadlet} {f : Fl} (h : Executes s t i) (hi : exec i s = issue i s body)
    (hb : body s (s.view t) = .next s' t' f) (hf : s.quiet t f) : exec i s = .next (s'.retired s.cur t.pc i t' f) := by
  rw [hi, issue_executes h, hb, settle_next hf]

/-- The same without flags. -/
theorem exec_of_retire {s' : State} {t' : Threadlet} (h : Executes s t i) (hi : exec i s = issue i s body)
    (hb : body s (s.view t) = retire s' t') : exec i s = .next (s'.retired s.cur t.pc i t' 0) :=
  exec_of_next h hi hb (quiet_zero s t)

/-- An instruction that executes and whose body writes one operand without flags. -/
theorem exec_of_retireOp {d : Operand} {x : Word} (h : Executes s t i) (hi : exec i s = issue i s body)
    (hb : body s (s.view t) = retireOp s (s.view t) d x 0) :
    exec i s = .next ((writeOp s t d x).1.retired s.cur t.pc i (writeOp s t d x).2 0) :=
  exec_of_next h hi hb (quiet_zero s t)

end

/-! Mask instructions (R119). -/

/-- The TY bits of an instruction whose byte T is 0. -/
theorem firstWord_untyped {i : Instr} {f : Fields} (h : encodeFields i = some f) (h0 : f.t = 0) :
    (firstWord i).toNat / 2 ^ 11 % 32 = 0 := by
  have hw : firstWord i = f.word := by
    unfold firstWord encode
    rw [h]
    cases i <;> rfl
  have ht : f.word.toNat / 2 ^ 8 % 256 = f.t := congrArg Fields.t (fieldsOf_word f (encodeFields_fits h))
  rw [hw]
  omega

/-- Settles O12: a mask instruction writes one operand, and no field of TY is set. -/
theorem maskInstructions : Obligations.MaskInstructions := by
  unfold Obligations.MaskInstructions
  intro s t g d x y v wrote
  have hkop : ∀ op, wrote (.kop g op d x y) (maskOp op (s.readOp v x) (s.readOp v y)) :=
    fun op => ⟨⟨rfl, firstWord_untyped rfl rfl⟩, fun h => exec_of_retireOp h rfl rfl⟩
  refine ⟨hkop .and, hkop .or, hkop .xor, hkop .andn, hkop .orn, hkop .not, hkop .mov, ?_, ?_⟩
  · rw [← popBits_eq]
    exact ⟨⟨rfl, firstWord_untyped rfl rfl⟩, fun h => exec_of_retireOp h rfl rfl⟩
  · rw [← ctzBits_eq]
    exact ⟨⟨rfl, firstWord_untyped rfl rfl⟩, fun h => exec_of_retireOp h rfl rfl⟩

/-! Masks with one bit per lane (R118). -/

/-- The number whose bit j is b j below n. -/
def bitSum (b : Nat → Bool) : Nat → Nat
  | 0 => 0
  | n + 1 => bitSum b n + if b n then 2 ^ n else 0

theorem bitSum_lt (b : Nat → Bool) (n : Nat) : bitSum b n < 2 ^ n := by
  induction n with
  | zero => exact Nat.one_pos
  | succ n ih =>
    rw [bitSum, Nat.pow_succ]
    split <;> omega

theorem testBit_bitSum (b : Nat → Bool) (n j : Nat) : (bitSum b n).testBit j = (decide (j < n) && b j) := by
  induction n with
  | zero => simp [bitSum]
  | succ n ih =>
    have hsum : bitSum b (n + 1) = 2 ^ n * (b n).toNat + bitSum b n := by
      rw [bitSum, Nat.add_comm]
      cases b n <;> simp
    rw [hsum, Nat.testBit_two_pow_mul_add _ (bitSum_lt b n), ih]
    rcases Nat.lt_trichotomy j n with hj | rfl | hj
    · simp [hj, Nat.lt_succ_of_lt hj]
    · cases b j <;> simp
    · have hb : (b n).toNat.testBit (j - n) = false := by
        apply Nat.testBit_lt_two_pow
        calc (b n).toNat < 2 := (b n).toNat_lt
          _ ≤ 2 ^ (j - n) := Nat.le_self_pow (by omega) 2
      rw [if_neg hj.not_gt, hb, decide_eq_false (by omega), Bool.false_and]

theorem mapMask_mask (m : Word) (n : Nat) (old : Word) (f : Nat → Bool × Fl) :
    (mapMask m n old f).1 = BitVec.ofNat 64 (bitSum (fun j => if m.getLsbD j then (f j).1 else old.getLsbD j) n) := by
  unfold mapMask
  dsimp only
  congr 1
  induction n with
  | zero => rfl
  | succ n ih =>
    rw [List.range_succ, List.foldl_append, bitSum, ← ih]
    cases ha : m.getLsbD n <;> simp [active, ha]

/-- Bit j of such a mask: the outcome of an active lane, the old bit of another, and 0 above the lanes. -/
theorem mapMask_bit (m : Word) (n : Nat) (old : Word) (f : Nat → Bool × Fl) {j : Nat} (hj : j < 64) :
    (mapMask m n old f).1.getLsbD j = (decide (j < n) && if m.getLsbD j then (f j).1 else old.getLsbD j) := by
  rw [mapMask_mask, BitVec.getLsbD_ofNat, decide_eq_true hj, Bool.true_and, testBit_bitSum]

/-- A comparison lane by lane that executes writes that mask and merges the flags of the active lanes. -/
theorem exec_of_vecMask {s : State} {t : Threadlet} {i : Instr} {body : State → View → Res} {g : Guard} {n : Nat} {d : Operand}
    {f : Nat → Bool × Fl} {fl : Fl} (h : Executes s t i) (hi : exec i s = issue i s body) (hb : body s (s.view t) = vecMask s (s.view t) g n d f)
    (hfl : orFlags (((List.range n).filter fun j => (t.guardMask g).getLsbD j).map fun j => (f j).2) = fl) (hf : s.quiet t fl) :
    ∃ r : Word, exec i s = .next ((writeOp s t d r).1.retired s.cur t.pc i (writeOp s t d r).2 fl) ∧
      ∀ j < 64, r.getLsbD j =
        (decide (j < n) && if (t.guardMask g).getLsbD j then (f j).1 else (s.readOp (s.view t) d).getLsbD j) := by
  refine ⟨_, exec_of_next h hi ?_ hf, fun j hj => mapMask_bit _ n _ f hj⟩
  rw [hb, vecMask_eq, view_t, hfl]
  rfl

/-! Single lanes (R117). -/

theorem lane_lt (v : BitVec 512) (w j : Nat) : lane v w j < 2 ^ w := Nat.mod_lt _ (Nat.two_pow_pos w)

theorem lane_fits {w j : Nat} (hj : j < 512 / w) : w * j + w ≤ 512 :=
  calc w * j + w = (j + 1) * w := by ring
    _ ≤ 512 / w * w := Nat.mul_le_mul_right _ hj
    _ ≤ 512 := Nat.div_mul_le_self 512 w

theorem lanes_pos (ty : Ty) : 0 < 512 / ty.width := Nat.div_pos (ty.width_le.trans (by decide)) ty.width_pos

/-- Every lane of a register of which lane i is set. -/
theorem lane_setLane (v : BitVec 512) {w i : Nat} (x : Nat) (hi : i < 512 / w) (j : Nat) :
    lane (setLane v w i x) w j = if j = i then x % 2 ^ w else lane v w j := by
  split
  case isTrue h => rw [h, lane_setLane_same v w i x (lane_fits hi)]
  case isFalse h => rw [lane_setLane_other v w i j x (lane_fits hi) h]

/-- A lane extended by Put: by its sign for a signed type, and else by zeros. -/
theorem put_lane (ty : Ty) (v : BitVec 512) (j : Nat) : (if ty.signed then put ty (lane v ty.width j) else BitVec.ofNat 64 (lane v ty.width j)) =
    if ty.signed then (BitVec.ofNat ty.width (lane v ty.width j)).signExtend 64 else BitVec.ofNat 64 (lane v ty.width j) := by
  cases hs : ty.signed with
  | false => rfl
  | true => rw [if_pos rfl, if_pos rfl, put_eq_extend, if_pos hs, BitVec.ofInt_natCast]

/-- Settles O8: a comparison writes a mask bit by bit, and VINS and VEXTR act where their lane is active. -/
theorem compareAndSelectLane : Obligations.CompareAndSelectLane := by
  unfold Obligations.CompareAndSelectLane
  refine ⟨fun s t g c ty d x y => ?compare, fun s t g ty d x y => ?single⟩
  case compare =>
    exact ⟨fun h => exec_of_vecMask h rfl rfl (orFlags_zero _) (quiet_zero s t), fun h hf => exec_of_vecMask h rfl rfl rfl hf⟩
  case single =>
    intro w i
    have hi : i < 512 / w := Nat.mod_lt _ (lanes_pos ty)
    refine ⟨fun h => ⟨fun ha => ⟨_, exec_of_retire h rfl (if_pos ha), fun j _ => lane_setLane _ _ hi j⟩,
      fun ha => exec_of_retire h rfl (if_neg (Bool.eq_false_iff.mp ha))⟩,
      fun h => ⟨fun ha => ?_, fun ha => exec_of_retire h rfl (if_neg (Bool.eq_false_iff.mp ha))⟩⟩
    intro r
    have hr : r = _ := (put_lane ty (t.vec x) i).symm
    rw [hr]
    exact exec_of_retireOp h rfl (if_pos ha)

end Sys2Proof.Machine
end

section
/-! PROOFS. Packed elements: VPACK and VUNPK (R113, R114, R123, R124; O11). -/

namespace Sys2Proof

/-- The elements of a type lie in the register. -/
theorem Ty.packed_fits (ty : Ty) : Machine.packedCount ty * ty.width ≤ 512 := by cases ty <;> decide

end Sys2Proof

namespace Sys2Proof.Machine

/-- An element that is converted where p holds. -/
def convertedIf (p : Nat → Bool) (f : Nat → Nat × Fl) (j : Nat) : Option (Nat × Fl) := if p j then some (f j) else none

section
variable (m : Word) (ty : Ty) (n : Nat) (old : BitVec 512) (p : Nat → Bool) (f : Nat → Nat × Fl)

/-- One more element. -/
theorem mapPacked_succ : mapPacked m ty (n + 1) old (convertedIf p f) =
    if (packedActive m ty n && p n) = true then
      (setLane (mapPacked m ty n old (convertedIf p f)).1 ty.width n (f n).1, (mapPacked m ty n old (convertedIf p f)).2 ||| (f n).2)
    else mapPacked m ty n old (convertedIf p f) := by
  simp only [mapPacked, convertedIf, List.range_succ, List.foldl_append, List.foldl_cons, List.foldl_nil]
  cases packedActive m ty n <;> cases p n <;> rfl

/-- The flags are those of the elements that are converted. -/
theorem mapPacked_flags : (mapPacked m ty n old (convertedIf p f)).2 =
    orFlags (((List.range n).filter fun j => packedActive m ty j && p j).map fun j => (f j).2) := by
  induction n with
  | zero => rfl
  | succ n ih =>
    rw [mapPacked_succ, List.range_succ, List.filter_append, List.map_append, orFlags, List.foldl_append, ← orFlags, ← ih]
    cases h : packedActive m ty n && p n <;> simp [h]

variable {n} (hn : n * ty.width ≤ 512)
include hn

/-- Element j: the conversion where it is made, and else the old element. -/
theorem mapPacked_lane {j : Nat} : lane (mapPacked m ty n old (convertedIf p f)).1 ty.width j =
    if j < n ∧ (packedActive m ty j && p j) = true then (f j).1 % 2 ^ ty.width else lane old ty.width j := by
  induction n with
  | zero => simp [mapPacked]
  | succ n ih =>
    have hfit : ty.width * n + ty.width ≤ 512 := by rwa [← Nat.mul_succ, Nat.mul_comm]
    have ih := ih ((Nat.mul_le_mul_right _ n.le_succ).trans hn)
    rw [mapPacked_succ]
    rcases eq_or_ne j n with rfl | hj
    · split
      · rw [lane_setLane_same _ _ _ _ hfit, if_pos ⟨Nat.lt_succ_self _, ‹_›⟩]
      · rw [ih, if_neg (fun h => absurd h.1 (Nat.lt_irrefl _)), if_neg (fun h => absurd h.2 ‹_›)]
    · have hlt : j < n + 1 ↔ j < n := by omega
      simp only [hlt, ← ih]
      split
      · rw [lane_setLane_other _ _ _ _ _ hfit hj]
      · rfl

/-- The bits above the elements stay as they were. -/
theorem mapPacked_above {b : Nat} (hb : n * ty.width ≤ b) : (mapPacked m ty n old (convertedIf p f)).1.getLsbD b = old.getLsbD b := by
  have hdiv : (mapPacked m ty n old (convertedIf p f)).1.toNat / 2 ^ b = old.toNat / 2 ^ b := by
    induction n with
    | zero => rfl
    | succ n ih =>
      have hfit : ty.width * n + ty.width ≤ 512 := by rwa [← Nat.mul_succ, Nat.mul_comm]
      have hle : n * ty.width ≤ (n + 1) * ty.width := Nat.mul_le_mul_right _ n.le_succ
      have ih := ih (hle.trans hn) (hle.trans hb)
      rw [mapPacked_succ]
      split
      · rw [setLane_above _ _ _ _ _ hfit (by rwa [← Nat.mul_succ, Nat.mul_comm]), ih]
      · exact ih
  have hbit : ∀ v : BitVec 512, v.getLsbD b = (v.toNat / 2 ^ b).testBit 0 := fun v => by
    rw [Nat.testBit_div_two_pow, Nat.zero_add]
    rfl
  rw [hbit, hbit, hdiv]

end

/-- A conversion of packed elements that executes writes the elements that it converts and merges their flags. -/
theorem exec_of_mapPacked {s : State} {t : Threadlet} {i : Instr} {body : State → View → Res} {m : Word} {ty : Ty} {d : Operand}
    {p : Nat → Bool} {f : Nat → Nat × Fl} {fl : Fl} (h : Executes s t i) (hi : exec i s = issue i s body)
    (hb : body s (s.view t) = retireVec s (s.view t) d (mapPacked m ty (packedCount ty) (t.vec d) (convertedIf p f)))
    (hfl : orFlags (((List.range (packedCount ty)).filter fun j => packedActive m ty j && p j).map fun j => (f j).2) = fl)
    (hf : s.quiet t fl) : ∃ r : BitVec 512,
      exec i s = .next (s.retired s.cur t.pc i (t.setVec d r) fl) ∧
      (∀ j < packedCount ty, lane r ty.width j =
        if (packedActive m ty j && p j) = true then (f j).1 % 2 ^ ty.width else lane (t.vec d) ty.width j) ∧
      ∀ b, packedCount ty * ty.width ≤ b → r.getLsbD b = (t.vec d).getLsbD b := by
  refine ⟨_, exec_of_next h hi ?_ hf, fun j hj => ?_, fun b => mapPacked_above m ty _ p f ty.packed_fits⟩
  · rw [hb, retireVec, mapPacked_flags, hfl]
    rfl
  · rw [mapPacked_lane m ty _ p f ty.packed_fits]
    simp only [hj, true_and]

/-- Settles O11: VPACK converts the elements of X and then of Y, and VUNPK those of one part of X. -/
theorem packAndUnpack : Obligations.PackAndUnpack := by
  unfold Obligations.PackAndUnpack
  intro s t g sat dt ty rm d x y m nd ns part packed reach above wide fp fu
  refine ⟨fun h hf => ?_, fun h hf => ?_⟩
  · have hpack : (fun j => if j < ns then some (convert dt ty sat (rmMode rm) (lane (t.vec x) ty.width j))
        else if j < 2 * ns ∧ dt.width ≠ 6 then some (convert dt ty sat (rmMode rm) (lane (t.vec y) ty.width (j - ns)))
        else none) = convertedIf (fun j => decide (j < reach)) packed := by
      funext j
      have hreach : j < reach ↔ j < ns ∨ j < 2 * ns ∧ dt.width ≠ 6 := by
        simp only [reach]
        split <;> omega
      simp only [convertedIf, packed, hreach, decide_eq_true_eq]
      by_cases hj : j < ns <;> simp [hj]
    obtain ⟨r, hr, hl, ha⟩ := exec_of_mapPacked h rfl (congrArg (fun f => retireVec s (s.view t) d (mapPacked m dt nd (t.vec d) f)) hpack) rfl hf
    refine ⟨r, hr, fun j hj => ?_, ha⟩
    rw [hl j hj]
    simp only [Bool.and_eq_true, decide_eq_true_eq]
  · obtain ⟨r, hr, hl, ha⟩ := exec_of_mapPacked (p := fun _ => true) (f := wide) h rfl rfl (by simp only [Bool.and_true]; rfl) hf
    refine ⟨r, hr, fun j hj => ?_, ha⟩
    rw [hl j hj, Bool.and_true]
    rfl

end Sys2Proof.Machine
end

section
/-! PROOFS. Bytes of the scratchpad: ranges and their units (R128, R415), little-endian values (R3), lists of stores (R130), and the active
lanes of a vector access (R133, R134). -/

namespace Sys2Proof.Machine

/-! Ranges of bytes and the units of u bytes that they meet. -/

/-- The units that a range meets are those from its first byte's to its last one's. -/
theorem exists_div_eq_iff {u a n w : Nat} (hu : 0 < u) (hn : 0 < n) : (∃ k < n, (a + k) / u = w) ↔ a / u ≤ w ∧ w ≤ (a + n - 1) / u := by
  constructor
  · rintro ⟨k, hk, rfl⟩
    exact ⟨Nat.div_le_div_right (Nat.le_add_right a k), Nat.div_le_div_right (by omega)⟩
  · rintro ⟨hlo, hhi⟩
    rcases Nat.eq_or_lt_of_le hlo with rfl | hlt
    · exact ⟨0, hn, rfl⟩
    · have hstart : a < w * u := (Nat.div_lt_iff_lt_mul hu).mp hlt
      have hend : w * u ≤ a + n - 1 := (Nat.le_div_iff_mul_le hu).mp hhi
      refine ⟨w * u - a, by omega, ?_⟩
      rw [Nat.add_sub_cancel' hstart.le, Nat.mul_div_cancel w hu]

theorem mem_wordsOf (a n w : Nat) : w ∈ wordsOf a n ↔ ∃ k < n, (a + k) / 8 = w := by
  unfold wordsOf
  rcases Nat.eq_zero_or_pos n with rfl | hn
  · simp
  · rw [if_neg hn.ne', exists_div_eq_iff (by decide) hn, List.mem_map]
    simp only [List.mem_range]
    constructor
    · rintro ⟨q, hq, rfl⟩
      omega
    · rintro ⟨hlo, hhi⟩
      exact ⟨w - a / 8, by omega, by omega⟩

/-- A range meets a poisoned word. -/
theorem poisonedIn_iff (p : Part) (a n : Nat) : p.poisonedIn a n = true ↔ ∃ w ∈ p.spoison, ∃ k < n, (a + k) / 8 = w := by
  simp only [Part.poisonedIn, List.any_eq_true, mem_wordsOf, List.contains_iff_mem]
  exact ⟨fun ⟨w, hk, hw⟩ => ⟨w, hw, hk⟩, fun ⟨w, hw, hk⟩ => ⟨w, hk, hw⟩⟩

/-- A range of fewer than 8 bytes covers no word. -/
theorem poisonedPart_small (p : Part) {a n : Nat} (hn : n < 8) : p.poisonedPart a n = p.poisonedIn a n := by
  unfold Part.poisonedPart Part.poisonedIn
  congr 1
  funext w
  have hpart : ¬ (a ≤ w * 8 ∧ w * 8 + 8 ≤ a + n) := by omega
  simp only [← Bool.decide_and, decide_eq_false hpart, Bool.not_false, Bool.and_true]

/-- A local byte out of reach: at or beyond the grant, or in a claimed unit (R128). -/
def State.barred (s : State) (ctx ltn b : Nat) : Prop := s.spGrant ctx ≤ b ∨ (s.part ctx ltn).unitClaimed (b / 16384) = true

theorem localOk_iff (s : State) (ctx ltn b : Nat) : s.localOk ctx ltn b = true ↔ ¬ s.barred ctx ltn b := by
  simp [State.localOk, State.barred]

theorem rangeOk_iff (s : State) (ctx ltn a n : Nat) : s.rangeOk ctx ltn a n = true ↔ ∀ k < n, ¬ s.barred ctx ltn (a + k) := by
  rcases Nat.eq_zero_or_pos n with rfl | hn
  · simp [State.rangeOk]
  have hunits : ∀ k, (a + k) / 16384 = a / 16384 + ((a + k) / 16384 - a / 16384) := fun k => by omega
  simp only [State.rangeOk, State.barred, hn.ne', decide_false, Bool.false_or, Bool.and_eq_true, decide_eq_true_eq, List.all_eq_true,
    List.mem_range, Bool.not_eq_true', not_or, Bool.not_eq_true, Nat.not_le]
  constructor
  · rintro ⟨hgrant, hall⟩ k hk
    refine ⟨by omega, ?_⟩
    rw [hunits k]
    exact hall _ (by omega)
  · intro h
    refine ⟨by have := (h (n - 1) (by omega)).1; omega, fun q hq => ?_⟩
    obtain ⟨k, hk, hw⟩ := (exists_div_eq_iff (u := 16384) (a := a) (w := a / 16384 + q) (by decide) hn).mpr (by omega)
    rw [← hw]
    exact (h k hk).2

theorem rangeOk_false_iff (s : State) (ctx ltn a n : Nat) : s.rangeOk ctx ltn a n = false ↔ ∃ k < n, s.barred ctx ltn (a + k) := by
  rw [← Bool.not_eq_true, rangeOk_iff]
  simp

/-! Little-endian bytes (R3). -/

theorem leBytes_eq (n v : Nat) : leBytes n v = (List.range n).map fun k => BitVec.ofNat 8 (v / 2 ^ (8 * k)) := by
  induction n generalizing v with
  | zero => rfl
  | succ n ih =>
    rw [leBytes, ih, List.range_succ_eq_map, List.map_cons, List.map_map]
    congr 1
    · apply BitVec.eq_of_toNat_eq
      simp
    · apply List.map_congr_left
      intro k _
      have hpow : 2 ^ (8 * (k + 1)) = 256 * 2 ^ (8 * k) := by rw [Nat.mul_succ, pow_add, Nat.mul_comm, show 2 ^ 8 = 256 from rfl]
      rw [Function.comp_apply, Nat.div_div_eq_div_mul, hpow]

theorem Part.bytes_eq (p : Part) (a n : Nat) : p.bytes a n = (List.range n).map fun k => p.byte (a + k) := by
  induction n generalizing a with
  | zero => rfl
  | succ n ih =>
    rw [Part.bytes, ih, List.range_succ_eq_map, List.map_cons, List.map_map]
    congr 1
    apply List.map_congr_left
    intro k _
    simp only [Function.comp_apply, Nat.succ_eq_add_one, Nat.add_assoc, Nat.add_comm 1 k]

theorem ofLeBytes_lt (l : List Byte) : ofLeBytes l < 2 ^ (8 * l.length) := by
  induction l with
  | nil => exact Nat.one_pos
  | cons b l ih =>
    have hb := b.isLt
    rw [ofLeBytes, List.length_cons, Nat.mul_succ, pow_add]
    omega

theorem ofLeBytes_bytes_lt (p : Part) (a n : Nat) : ofLeBytes (p.bytes a n) < 2 ^ (8 * n) := by
  have h := ofLeBytes_lt (p.bytes a n)
  rwa [Part.bytes_eq, List.length_map, List.length_range, ← Part.bytes_eq] at h

/-! Lists of stores, each an address and a byte, in their order. -/

/-- The scratchpad after a list of stores. -/
def writeAll (m : Table Byte) (l : List (Nat × Byte)) : Table Byte := l.foldl (fun m e => Tab.set 0 m e.1 e.2) m

theorem writeAll_append (m : Table Byte) (l l' : List (Nat × Byte)) : writeAll m (l ++ l') = writeAll (writeAll m l) l' :=
  List.foldl_append

theorem lastOf_append_singleton (l : List (Nat × Byte)) (e : Nat × Byte) (a : Nat) (old : Byte) :
    lastOf (l ++ [e]) a old = if e.1 = a then e.2 else lastOf l a old := by
  by_cases h : e.1 = a <;> simp [lastOf, h]

/-- An address holds the last byte that the stores give it. -/
theorem get_writeAll (m : Table Byte) (l : List (Nat × Byte)) (a : Nat) : Tab.get 0 (writeAll m l) a = lastOf l a (Tab.get 0 m a) := by
  induction l using List.reverseRecOn with
  | nil => rfl
  | append_singleton l e ih =>
    rw [writeAll_append, lastOf_append_singleton]
    by_cases h : e.1 = a
    · subst h
      rw [if_pos rfl]
      exact Tab.get_set_same _ _ _ _
    · rw [if_neg h, ← ih]
      exact Tab.get_set_other _ _ _ (Ne.symm h)

/-- Bytes stored from an address up. -/
def bytesFrom (a n : Nat) (f : Nat → Byte) : List (Nat × Byte) := (List.range n).map fun k => (a + k, f k)

theorem spadWrite_eq (m : Table Byte) (a n : Nat) (f : Nat → Byte) : spadWrite m a ((List.range n).map f) = writeAll m (bytesFrom a n f) := by
  induction n generalizing m a f with
  | zero => rfl
  | succ n ih =>
    have hrest : bytesFrom a (n + 1) f = (a, f 0) :: bytesFrom (a + 1) n (f ∘ Nat.succ) := by
      simp only [bytesFrom, List.range_succ_eq_map, List.map_cons, List.map_map, Nat.add_zero]
      congr 1
      apply List.map_congr_left
      intro k _
      simp only [Function.comp_apply, Nat.succ_eq_add_one, Nat.add_assoc, Nat.add_comm 1 k]
    rw [List.range_succ_eq_map, List.map_cons, List.map_map, spadWrite, ih, hrest]
    rfl

/-- Part q is part p after the stores of l: its scratchpad takes them, and a poisoned word loses its mark only where they cover it
(R415). -/
structure Stored (p q : Part) (l : List (Nat × Byte)) : Prop where
  rest : q = { p with spad := q.spad, spoison := q.spoison }
  spad : q.spad = writeAll p.spad l
  marked : ∀ w ∈ q.spoison, w ∈ p.spoison
  cleared : ∀ w ∈ p.spoison, w ∉ q.spoison → ∀ k < 8, w * 8 + k ∈ l.map (·.1)

theorem Stored.nil (p : Part) : Stored p p [] := ⟨rfl, rfl, fun _ h => h, fun _ h hn => absurd h hn⟩

theorem Stored.append {p q r : Part} {l l' : List (Nat × Byte)} (h : Stored p q l) (h' : Stored q r l') : Stored p r (l ++ l') where
  rest := by rw [h'.rest, h.rest]
  spad := by rw [writeAll_append, ← h.spad, h'.spad]
  marked w hw := h.marked w (h'.marked w hw)
  cleared w hw hn k hk := by
    rw [List.map_append, List.mem_append]
    by_cases hq : w ∈ q.spoison
    · exact .inr (h'.cleared w hq hn k hk)
    · exact .inl (h.cleared w hw hq k hk)

theorem Stored.byte {p q : Part} {l : List (Nat × Byte)} (h : Stored p q l) (a : Nat) : q.byte a = lastOf l a (p.byte a) := by
  rw [Part.byte, h.spad, get_writeAll]
  rfl

/-- A store of consecutive bytes. -/
theorem stored_store (p : Part) (a n : Nat) (f : Nat → Byte) : Stored p (p.store a ((List.range n).map f)) (bytesFrom a n f) where
  rest := rfl
  spad := spadWrite_eq p.spad a n f
  marked w hw := (List.mem_filter.mp hw).1
  cleared w hw hn k hk := by
    have hcover : a ≤ w * 8 ∧ w * 8 + 8 ≤ a + n := by
      by_contra hc
      refine hn (List.mem_filter.mpr ⟨hw, ?_⟩)
      rw [List.length_map, List.length_range, ← Bool.decide_and, decide_eq_false hc]
      rfl
    obtain ⟨hlo, hhi⟩ := hcover
    rw [bytesFrom, List.map_map]
    refine List.mem_map.mpr ⟨w * 8 + k - a, List.mem_range.mpr (by omega), ?_⟩
    simp only [Function.comp_apply]
    omega

/-- Stores of consecutive bytes one after the other. -/
theorem stored_foldl {α : Type} (l : List α) (n : Nat) (addr : α → Nat) (f : α → Nat → Byte) (p : Part) :
    Stored p (l.foldl (fun p e => p.store (addr e) ((List.range n).map (f e))) p) (l.flatMap fun e => bytesFrom (addr e) n (f e)) := by
  induction l generalizing p with
  | nil => exact .nil p
  | cons e l ih => exact (stored_store p (addr e) n (f e)).append (ih _)

/-! The active lanes of a vector access with their addresses (R133, R134). -/

/-- The active lanes below n, each with its address. -/
def activeAt (m : Word) (n : Nat) (addr : Nat → Nat) : List (Nat × Nat) :=
  ((List.range n).filter fun j => m.getLsbD j).map fun j => (j, addr j)

theorem filterMap_if {α β : Type} (p : α → Bool) (f : α → β) (l : List α) :
    (l.filterMap fun a => if p a then some (f a) else none) = (l.filter p).map f := by
  induction l with
  | nil => rfl
  | cons a l ih => cases h : p a <;> simp [h, ih]

theorem activeBytes_eq (m : Word) (a : Nat) : activeBytes m a = activeAt m 64 fun j => (a + j) % 2 ^ 64 :=
  filterMap_if (fun j => m.getLsbD j) _ _

theorem activeElems_eq (m : Word) (a n : Nat) (y : BitVec 512) :
    activeElems m a n y = activeAt m (64 / n) fun j => (a + lane y (8 * n) j * n) % 2 ^ 64 :=
  filterMap_if (fun j => m.getLsbD j) _ _

section
variable {m : Word} {n : Nat} {addr : Nat → Nat}

theorem mem_activeAt {e : Nat × Nat} : e ∈ activeAt m n addr ↔ ∃ j < n, m.getLsbD j = true ∧ (j, addr j) = e := by
  simp [activeAt, and_assoc]

theorem activeAt_all (q : Nat → Bool) : (activeAt m n addr).all (fun e => q e.2) = true ↔ ∀ j < n, m.getLsbD j = true → q (addr j) = true := by
  simp only [List.all_eq_true, mem_activeAt]
  exact ⟨fun h j hj ha => h _ ⟨j, hj, ha, rfl⟩, fun h e ⟨j, hj, ha, he⟩ => he ▸ h j hj ha⟩

theorem activeAt_any (q : Nat → Bool) : (activeAt m n addr).any (fun e => q e.2) = true ↔ ∃ j < n, m.getLsbD j = true ∧ q (addr j) = true := by
  simp only [List.any_eq_true, mem_activeAt]
  exact ⟨fun ⟨e, ⟨j, hj, ha, he⟩, hq⟩ => ⟨j, hj, ha, by rwa [← he] at hq⟩, fun ⟨j, hj, ha, hq⟩ => ⟨_, ⟨j, hj, ha, rfl⟩, hq⟩⟩

/-- The first active lane whose address meets a condition. -/
theorem activeAt_find {q : Nat → Bool} {j : Nat} (hj : j < n) (hact : m.getLsbD j = true) (hq : q (addr j) = true)
    (hfirst : ∀ k < j, ¬ (m.getLsbD k = true ∧ q (addr k) = true)) : (activeAt m n addr).find? (fun e => q e.2) = some (j, addr j) := by
  have hrange : (List.range n).find? (fun k => decide (m.getLsbD k = true ∧ q (addr k) = true)) = some j := by
    rw [List.find?_range_eq_some]
    exact ⟨decide_eq_true ⟨hact, hq⟩, List.mem_range.mpr hj, fun k hk => by rw [decide_eq_false (hfirst k hk)]; rfl⟩
  rw [activeAt, List.find?_map, List.find?_filter]
  exact congrArg (Option.map _) hrange

/-- An accumulation over the active lanes is one over all lanes that passes over the inactive ones. -/
theorem foldl_activeAt {α : Type} (f : α → Nat × Nat → α) (x : α) :
    (activeAt m n addr).foldl f x = (List.range n).foldl (fun acc j => if m.getLsbD j then f acc (j, addr j) else acc) x := by
  rw [activeAt, List.foldl_map, List.foldl_filter]

end

end Sys2Proof.Machine
end

section
/-! PROOFS. Local memory instructions that pass their own checks: loads (R132 to R135; O22), stores (O23), SATOM (R136; O24) and STF (R135;
O25). -/

namespace Sys2Proof.Machine

/-! The checks of R131 on one access of consecutive bytes. -/

/-- Checks 2 to 4 of R131, with what makes a poisoned word count. -/
def State.accessCheck (s : State) (v : View) (data : List Operand) (a n align : Nat) (bad : Bool) : Option Res :=
  if a % align ≠ 0 then some (trapWith 0x06)
  else if !s.rangeOk v.t.ctx v.t.ltn a n then some (trapWith 0x05)
  else if (s.poisonTrap v.t data).isSome then s.poisonTrap v.t data
  else if bad then some (.trap 0x12 0 (addrWord a) 0)
  else none

theorem loadCheck_eq (s : State) (v : View) (data : List Operand) (a n align : Nat) :
    s.loadCheck v data a n align = s.accessCheck v data a n align ((s.part v.t.ctx v.t.ltn).poisonedIn a n) := rfl

theorem storeCheck_eq (s : State) (v : View) (data : List Operand) (a n align : Nat) :
    s.storeCheck v data a n align = s.accessCheck v data a n align ((s.part v.t.ctx v.t.ltn).poisonedPart a n) := rfl

theorem poisonTrap_none_iff (s : State) (t : Threadlet) (l : List Operand) : s.poisonTrap t l = none ↔ s.poisonedSource t l = none := by
  simp [State.poisonTrap]

theorem poisonTrap_some {s : State} {t : Threadlet} {l : List Operand} {k : Nat} (h : s.poisonedSource t l = some k) :
    s.poisonTrap t l = some (.trap 0x12 0 (addrWord (wordOffset k)) 0) := by
  rw [State.poisonTrap, h]
  rfl

section
variable {s : State} {v : View} {data : List Operand} {a n align : Nat} {bad : Bool}

theorem accessCheck_misaligned (ha : a % align ≠ 0) : s.accessCheck v data a n align bad = some (trapWith 0x06) := if_pos ha

variable (ha : a % align = 0)
include ha

theorem accessCheck_outside (hr : s.rangeOk v.t.ctx v.t.ltn a n = false) : s.accessCheck v data a n align bad = some (trapWith 0x05) := by
  simp [State.accessCheck, ha, hr]

variable (hr : s.rangeOk v.t.ctx v.t.ltn a n = true)
include hr

theorem accessCheck_datum {k : Nat} (hd : s.poisonedSource v.t data = some k) :
    s.accessCheck v data a n align bad = some (.trap 0x12 0 (addrWord (wordOffset k)) 0) := by
  simp [State.accessCheck, ha, hr, poisonTrap_some hd]

variable (hd : s.poisonedSource v.t data = none)
include hd

theorem accessCheck_poisoned : s.accessCheck v data a n align true = some (.trap 0x12 0 (addrWord a) 0) := by
  simp [State.accessCheck, ha, hr, (poisonTrap_none_iff s v.t data).mpr hd]

theorem accessCheck_passes : s.accessCheck v data a n align false = none := by
  simp [State.accessCheck, ha, hr, (poisonTrap_none_iff s v.t data).mpr hd]

end

/-! Loads (R132 to R135). -/

/-- Src of a signed type reads a number of its width. -/
theorem intSrc_signed {ty : Ty} {x : Nat} (hs : ty.signed = true) (hx : x < 2 ^ ty.width) : intSrc ty x = (BitVec.ofNat ty.width x).toInt := by
  have h := intSrc_toNat ty (BitVec.ofNat ty.width x)
  rwa [BitVec.toNat_ofNat, Nat.mod_eq_of_lt hx, if_pos hs] at h

/-- A loaded value of 1 to 8 bytes, extended by its sign or by zeros. -/
theorem extendLoad_eq (sext : Bool) {k x : Nat} (hk : k ≤ 3) (hx : x < 2 ^ (8 * 2 ^ k)) :
    extendLoad sext (2 ^ k) x = if sext then (BitVec.ofNat (8 * 2 ^ k) x).signExtend 64 else BitVec.ofNat 64 x := by
  unfold extendLoad
  cases sext with
  | false => rw [if_neg Bool.false_ne_true, if_neg Bool.false_ne_true, Nat.mod_eq_of_lt hx]
  | true =>
    rw [if_pos rfl, if_pos rfl, BitVec.signExtend]
    interval_cases k
    · exact congrArg _ (intSrc_signed (ty := .s8) rfl hx)
    · exact congrArg _ (intSrc_signed (ty := .s16) rfl hx)
    · exact congrArg _ (intSrc_signed (ty := .s32) rfl hx)
    · exact congrArg _ (intSrc_signed (ty := .s64) rfl hx)

/-- LDS that passes its checks. -/
theorem exec_lds {s : State} {t : Threadlet} {g : Guard} {sext : Bool} {sz : Fin 7} {d x : Operand} {off : BitVec 16}
    (h : Executes s t (.lds g sext sz d x off)) (hr : localReady s (s.view t) (.lds g sext sz d x off) = true) :
    exec (.lds g sext sz d x off) s = .next ((writeOp s t d (extendLoad sext (2 ^ sz.val)
        (ofLeBytes ((s.part t.ctx t.ltn).bytes (s.localAddr (s.view t) x off sz.val) (2 ^ sz.val))))).1.retired s.cur t.pc
      (.lds g sext sz d x off) (writeOp s t d (extendLoad sext (2 ^ sz.val)
        (ofLeBytes ((s.part t.ctx t.ltn).bytes (s.localAddr (s.view t) x off sz.val) (2 ^ sz.val))))).2 0) := by
  simp only [localReady, Bool.and_eq_true, decide_eq_true_eq, Bool.not_eq_true'] at hr
  obtain ⟨⟨ha, hrange⟩, hp⟩ := hr
  have hcheck : s.loadCheck (s.view t) [] (s.localAddr (s.view t) x off sz.val) (2 ^ sz.val) (2 ^ sz.val) = none := by
    rw [loadCheck_eq, hp]
    exact accessCheck_passes ha hrange rfl
  exact exec_of_retireOp h rfl (congrArg (Option.getD · _) hcheck)

/-- Lane by lane results without flags raise none. -/
theorem mapLanes_noFlags (m : Word) (n w : Nat) (old : BitVec 512) (f : Nat → Nat) : (mapLanes m n w old fun j => (f j, 0)).2 = 0 := by
  rw [mapLanes_flags]
  exact orFlags_zero _

/-- The register of a lane by lane operation. -/
theorem mapLanes_register (m : Word) (n w : Nat) (old : BitVec 512) (f : Nat → Nat × Fl) :
    (mapLanes m n w old f).1 = (List.range n).foldl (fun r j => if m.getLsbD j then setLane r w j (f j).1 else r) old := by
  induction n with
  | zero => rfl
  | succ n ih =>
    rw [mapLanes_succ, List.range_succ, List.foldl_append, ← ih]
    cases ha : m.getLsbD n <;> simp [active, ha]

/-- An instruction that executes and writes a vector register lane by lane without flags. -/
theorem exec_of_mapLanes {s : State} {t : Threadlet} {i : Instr} {body : State → View → Res} {m : Word} {n w : Nat} {d : Operand}
    {f : Nat → Nat} (h : Executes s t i) (hi : exec i s = issue i s body) (hfit : n * w ≤ 512) (hw : ∀ j < n, f j < 2 ^ w)
    (hb : body s (s.view t) = .next s (t.setVec d (mapLanes m n w (t.vec d) fun j => (f j, 0)).1) 0) :
    ∃ r : BitVec 512, exec i s = .next (s.retired s.cur t.pc i (t.setVec d r) 0) ∧
      ∀ j < n, lane r w j = if m.getLsbD j then f j else lane (t.vec d) w j := by
  refine ⟨_, exec_of_next h hi hb (quiet_zero s t), fun j hj => ?_⟩
  rw [mapLanes_lane _ _ _ _ _ hfit]
  simp only [hj, true_and, active, Nat.mod_eq_of_lt (hw j hj)]

/-- The state and the register of a lane by lane operation without flags. -/
theorem next_mapLanes (s : State) (t : Threadlet) (d : Operand) (m : Word) (n w : Nat) (f : Nat → Nat) :
    Res.next s (t.setVec d (mapLanes m n w (t.vec d) fun j => (f j, 0)).1) (mapLanes m n w (t.vec d) fun j => (f j, 0)).2 =
      .next s (t.setVec d (mapLanes m n w (t.vec d) fun j => (f j, 0)).1) 0 := by
  rw [mapLanes_noFlags]

theorem poisonAt_none {p : Part} {l : List (Nat × Nat)} {n : Nat} (h : (l.all fun e => !p.poisonedIn e.2 n) = true) : poisonAt p l n = none := by
  rw [poisonAt, List.find?_eq_none.mpr fun e he => by simpa using List.all_eq_true.mp h e he]
  rfl

theorem exec_vlds {s : State} {t : Threadlet} {g : Guard} {d x : Operand} {off : BitVec 16} (h : Executes s t (.vlds g d x off))
    (hr : localReady s (s.view t) (.vlds g d x off) = true) : ∃ r : BitVec 512,
      exec (.vlds g d x off) s = .next (s.retired s.cur t.pc (.vlds g d x off) (t.setVec d r) 0) ∧
      ∀ j < 64, lane r 8 j = if (t.guardMask g).getLsbD j then
        ((s.part t.ctx t.ltn).byte ((s.localAddr (s.view t) x off 6 + j) % 2 ^ 64)).toNat else lane (t.vec d) 8 j := by
  simp only [localReady, view_t, Bool.and_eq_true, decide_eq_true_eq] at hr
  obtain ⟨⟨ha, hok⟩, hp⟩ := hr
  refine exec_of_mapLanes h rfl (by decide) (fun j _ => BitVec.isLt _) ?_
  simp only [view_t, ha, hok, poisonAt_none hp, ne_eq, not_true_eq_false, if_false, Bool.not_true, Bool.false_eq_true]
  exact next_mapLanes ..

/-! What is gathered or copied begins afresh where no finer step has made an access (R130). -/

theorem gotSoFar_first {t : Threadlet} (h : t.doneSteps = 0) (old : BitVec 512) : t.gotSoFar old = old := by
  unfold Threadlet.gotSoFar
  cases hm : t.mid with
  | none => rfl
  | some m =>
    have h0 : m.steps = 0 := by simpa [Threadlet.doneSteps, hm] using h
    exact if_pos h0

/-- The checks of VGATH and VSCAT before their first element. -/
theorem elemsLeft_first {s : State} {v : View} (hd : v.t.doneSteps = 0) (g : Guard) (sz : Fin 7) (x : Operand) (off : BitVec 16) (y : Operand)
    (part : Bool) : s.elemsLeft v g sz x off y part =
      if s.localAddr v x off sz.val % 2 ^ sz.val ≠ 0 then .error (trapWith 0x06)
      else if !((activeElems (v.t.guardMask g) (s.localAddr v x off sz.val) (2 ^ sz.val) (v.t.vec y)).all
        fun e => s.rangeOk v.t.ctx v.t.ltn e.2 (2 ^ sz.val)) then .error (trapWith 0x05)
      else match (if part then poisonAt (s.part v.t.ctx v.t.ltn)
          (activeElems (v.t.guardMask g) (s.localAddr v x off sz.val) (2 ^ sz.val) (v.t.vec y)) (2 ^ sz.val) else none) with
        | some b => .error (.trap 0x12 0 (addrWord b) 0)
        | none => .ok (activeElems (v.t.guardMask g) (s.localAddr v x off sz.val) (2 ^ sz.val) (v.t.vec y)) := by
  rw [State.elemsLeft, hd]
  exact if_congr (and_iff_right rfl) rfl (if_congr (and_iff_right rfl) rfl rfl)

theorem elems_fit {k : Nat} (hk : k ≤ 3) : 64 / 2 ^ k * (8 * 2 ^ k) ≤ 512 := by interval_cases k <;> decide

theorem exec_vgath {s : State} {t : Threadlet} {g : Guard} {sz : Fin 7} {d x y : Operand} {off : BitVec 16}
    (h : Executes s t (.vgath g sz d x off y)) (hd : t.doneSteps = 0) (hr : localReady s (s.view t) (.vgath g sz d x off y) = true)
    (hsz : sz.val ≤ 3) : ∃ r : BitVec 512,
      exec (.vgath g sz d x off y) s = .next (s.retired s.cur t.pc (.vgath g sz d x off y) (t.setVec d r) 0) ∧
      ∀ j < 64 / 2 ^ sz.val, lane r (8 * 2 ^ sz.val) j = if (t.guardMask g).getLsbD j then
        ofLeBytes ((s.part t.ctx t.ltn).bytes
          ((s.localAddr (s.view t) x off sz.val + lane (t.vec y) (8 * 2 ^ sz.val) j * 2 ^ sz.val) % 2 ^ 64) (2 ^ sz.val))
        else lane (t.vec d) (8 * 2 ^ sz.val) j := by
  simp only [localReady, view_t, Bool.and_eq_true, decide_eq_true_eq] at hr
  obtain ⟨⟨ha, hok⟩, hp⟩ := hr
  refine exec_of_mapLanes h rfl (elems_fit hsz) (fun j _ => ofLeBytes_bytes_lt _ _ _) ?_
  have hleft : s.elemsLeft (s.view t) g sz x off y true =
      .ok (activeElems (t.guardMask g) (s.localAddr (s.view t) x off sz.val) (2 ^ sz.val) (t.vec y)) := by
    rw [elemsLeft_first hd]
    simp only [view_t, ha, hok, poisonAt_none hp, ne_eq, not_true_eq_false, if_false, if_true, Bool.not_true, Bool.false_eq_true]
  dsimp only [view_t]
  rw [hleft, mapLanes_register, gotSoFar_first hd, activeElems_eq]
  dsimp only
  rw [foldl_activeAt]
  rfl

/-- The checks of LDF and STF pass for eight words of the frame. -/
theorem frameOffset_ok {s : State} {v : View} {x : Operand} {off : BitVec 16} (ha : s.localAddr v x off 6 % 64 = 0)
    (hf : s.localAddr v x off 6 / 8 + 7 < frameWords ((s.frame v.t.ref).any (·.large))) :
    s.frameOffset v x off = .ok (s.localAddr v x off 6 / 8) := by
  rw [State.frameOffset, if_neg (not_not.mpr ha), if_neg hf.not_ge]

theorem exec_ldf {s : State} {t : Threadlet} {g : Guard} {d x : Operand} {off : BitVec 16} {f : Frame} (hf : s.frame t.ref = some f)
    (h : Executes s t (.ldf g d x off)) (hr : localReady s (s.view t) (.ldf g d x off) = true) : ∃ r : BitVec 512,
      exec (.ldf g d x off) s = .next (s.retired s.cur t.pc (.ldf g d x off) (t.setVec d r) 0) ∧
      ∀ j < 8, lane r 64 j = if (t.guardMask g).getLsbD j then (f.word (s.localAddr (s.view t) x off 6 / 8 + j)).toNat
        else lane (t.vec d) 64 j := by
  simp only [localReady, Bool.and_eq_true, decide_eq_true_eq] at hr
  obtain ⟨⟨ha, hfit⟩, hp⟩ := hr
  refine exec_of_mapLanes h rfl (by decide) (fun j _ => BitVec.isLt _) ?_
  have hclean : ((List.range 8).find? fun j => active (t.guardMask g) j &&
      f.poison.contains (s.localAddr (s.view t) x off 6 / 8 + j)) = none := by
    refine List.find?_eq_none.mpr fun j hj => ?_
    have hj := List.all_eq_true.mp hp j hj
    rw [view_t, hf, Bool.not_eq_true'] at hj
    exact Bool.eq_false_iff.mp hj
  dsimp only [view_t]
  rw [frameOffset_ok ha hfit, hf]
  dsimp only
  rw [hclean]
  exact next_mapLanes ..

/-- Settles O22: each load that passes its checks writes the bytes or words of its active lanes. -/
theorem localLoads : Obligations.LocalLoads := by
  unfold Obligations.LocalLoads
  intro s t g sext sz d x y off v p m
  refine ⟨?_, ?_, ?_, ?_⟩
  · rintro i rfl h hr hsz n r
    rw [exec_lds h hr, extendLoad_eq sext hsz (ofLeBytes_bytes_lt _ _ _)]
  · rintro i rfl h hr
    exact exec_vlds h hr
  · rintro i rfl h hd hr hsz
    exact exec_vgath h hd hr hsz
  · rintro i f rfl hf h hr
    exact exec_ldf hf h hr

end Sys2Proof.Machine
end

section
/-! PROOFS. Local stores (R132 to R134, R137, R415; O23), SATOM (R136; O24) and STF (R135; O25) that pass their own checks. -/

namespace Sys2Proof.Machine

/-- Instruction i changes the scratchpad of its own part by the stores of l, and only moves the PC beside that. -/
def StoresBytes (s : State) (t : Threadlet) (i : Instr) (l : List (Nat × Byte)) : Prop :=
  ∃ q, exec i s = .next ((s.setPart t.ctx t.ltn q).retired s.cur t.pc i t 0) ∧ Stored (s.part t.ctx t.ltn) q l

/-! STS (R132). -/

theorem sts_stores {s : State} {t : Threadlet} {g : Guard} {sz : Fin 7} {d x : Operand} {off : BitVec 16}
    (h : Executes s t (.sts g sz d x off)) (hr : localReady s (s.view t) (.sts g sz d x off) = true) :
    StoresBytes s t (.sts g sz d x off) (bytesFrom (s.localAddr (s.view t) x off sz.val) (2 ^ sz.val) fun k =>
      BitVec.ofNat 8 ((s.readOp (s.view t) d).toNat / 2 ^ (8 * k))) := by
  simp only [localReady, Bool.and_eq_true, decide_eq_true_eq, Bool.not_eq_true', Option.isNone_iff_eq_none] at hr
  obtain ⟨⟨⟨ha, hrange⟩, hd⟩, hp⟩ := hr
  have hcheck : s.storeCheck (s.view t) [d] (s.localAddr (s.view t) x off sz.val) (2 ^ sz.val) (2 ^ sz.val) = none := by
    rw [storeCheck_eq, hp]
    exact accessCheck_passes ha hrange ((poisonTrap_none_iff s t [d]).mp hd)
  have hstored := stored_store (s.part t.ctx t.ltn) (s.localAddr (s.view t) x off sz.val) (2 ^ sz.val) fun k =>
    BitVec.ofNat 8 ((s.readOp (s.view t) d).toNat / 2 ^ (8 * k))
  rw [← leBytes_eq] at hstored
  exact ⟨_, exec_of_retire h rfl (congrArg (Option.getD · _) hcheck), hstored⟩

/-! VSTS (R133). -/

/-- The part after a masked store of the bytes f of its active lanes. -/
def Part.storeMasked (p : Part) (l : List (Nat × Nat)) (f : Nat → Byte) : Part :=
  { clearCovered p l with spad := l.foldl (fun m e => Tab.set 0 m e.2 (f e.1)) p.spad }

/-- A masked store of bytes stores its active lanes. -/
theorem stored_masked (p : Part) (l : List (Nat × Nat)) (f : Nat → Byte) : Stored p (p.storeMasked l f) (l.map fun e => (e.2, f e.1)) where
  rest := rfl
  spad := by
    rw [writeAll, List.foldl_map]
    rfl
  marked w hw := (List.mem_filter.mp hw).1
  cleared w hw hn k hk := by
    have hcover : ((List.range 8).all fun k => l.any fun e => e.2 = w * 8 + k) = true := by
      by_contra hc
      exact hn (List.mem_filter.mpr ⟨hw, by rw [Bool.not_eq_true] at hc; rw [hc]; rfl⟩)
    obtain ⟨e, he, heq⟩ := List.any_eq_true.mp (List.all_eq_true.mp hcover k (List.mem_range.mpr hk))
    rw [List.map_map]
    exact List.mem_map.mpr ⟨e, he, of_decide_eq_true heq⟩

theorem vsts_stores {s : State} {t : Threadlet} {g : Guard} {d x : Operand} {off : BitVec 16} (h : Executes s t (.vsts g d x off))
    (hr : localReady s (s.view t) (.vsts g d x off) = true) :
    StoresBytes s t (.vsts g d x off) (((List.range 64).filter fun j => (t.guardMask g).getLsbD j).map fun j =>
      ((s.localAddr (s.view t) x off 6 + j) % 2 ^ 64, BitVec.ofNat 8 ((t.vec d).toNat / 2 ^ (8 * j)))) := by
  simp only [localReady, view_t, Bool.and_eq_true, decide_eq_true_eq, Option.isNone_iff_eq_none] at hr
  obtain ⟨⟨ha, hok⟩, hp⟩ := hr
  have hstored := stored_masked (s.part t.ctx t.ltn) (activeBytes (t.guardMask g) (s.localAddr (s.view t) x off 6)) fun j =>
    BitVec.ofNat 8 (lane (t.vec d) 8 j)
  have hbyte : ∀ j, BitVec.ofNat 8 (lane (t.vec d) 8 j) = BitVec.ofNat 8 ((t.vec d).toNat / 2 ^ (8 * j)) := fun j => by
    apply BitVec.eq_of_toNat_eq
    rw [BitVec.toNat_ofNat, BitVec.toNat_ofNat, lane, Nat.mod_mod]
  have hlist : (activeBytes (t.guardMask g) (s.localAddr (s.view t) x off 6)).map (fun e => (e.2, BitVec.ofNat 8 (lane (t.vec d) 8 e.1))) =
      ((List.range 64).filter fun j => (t.guardMask g).getLsbD j).map fun j =>
        ((s.localAddr (s.view t) x off 6 + j) % 2 ^ 64, BitVec.ofNat 8 ((t.vec d).toNat / 2 ^ (8 * j))) := by
    simp only [activeBytes_eq, activeAt, List.map_map, Function.comp_def, hbyte]
  rw [hlist] at hstored
  refine ⟨_, exec_of_retire h rfl ?_, hstored⟩
  simp only [view_t, ha, hok, hp, ne_eq, not_true_eq_false, if_false, Bool.not_true, Bool.false_eq_true]
  rfl

/-! VSCAT (R134). -/

theorem stored_scattered (p : Part) (l : List (Nat × Nat)) (n : Nat) (x : BitVec 512) :
    Stored p (l.foldl (scatterOne n x) p)
      (l.flatMap fun e => bytesFrom e.2 n fun k => BitVec.ofNat 8 (lane x (8 * n) e.1 / 2 ^ (8 * k))) := by
  have h := stored_foldl l n (·.2) (fun e k => BitVec.ofNat 8 (lane x (8 * n) e.1 / 2 ^ (8 * k))) p
  simp only [← leBytes_eq] at h
  exact h

theorem vscat_stores {s : State} {t : Threadlet} {g : Guard} {sz : Fin 7} {d x y : Operand} {off : BitVec 16}
    (h : Executes s t (.vscat g sz d x off y)) (hd : t.doneSteps = 0) (hr : localReady s (s.view t) (.vscat g sz d x off y) = true) :
    StoresBytes s t (.vscat g sz d x off y) (((List.range (64 / 2 ^ sz.val)).filter fun j => (t.guardMask g).getLsbD j).flatMap fun j =>
      bytesFrom ((s.localAddr (s.view t) x off sz.val + lane (t.vec y) (8 * 2 ^ sz.val) j * 2 ^ sz.val) % 2 ^ 64) (2 ^ sz.val) fun k =>
        BitVec.ofNat 8 (lane (t.vec d) (8 * 2 ^ sz.val) j / 2 ^ (8 * k))) := by
  simp only [localReady, view_t, Bool.and_eq_true, decide_eq_true_eq, Bool.or_eq_true] at hr
  obtain ⟨⟨ha, hok⟩, hp⟩ := hr
  have hclean : (if decide (sz.val < 3) = true then poisonAt (s.part t.ctx t.ltn) (activeElems (t.guardMask g)
      (s.localAddr (s.view t) x off sz.val) (2 ^ sz.val) (t.vec y)) (2 ^ sz.val) else none) = none := by
    split
    · have hsmall : 2 ^ sz.val < 2 ^ 3 := Nat.pow_lt_pow_right (by decide) (of_decide_eq_true ‹_›)
      exact poisonAt_none (hp.resolve_left (by omega))
    · rfl
  have hleft : s.elemsLeft (s.view t) g sz x off y (decide (sz.val < 3)) =
      .ok (activeElems (t.guardMask g) (s.localAddr (s.view t) x off sz.val) (2 ^ sz.val) (t.vec y)) := by
    rw [elemsLeft_first hd]
    simp only [view_t, ha, hok, hclean, ne_eq, not_true_eq_false, if_false, Bool.not_true, Bool.false_eq_true]
  have hstored := stored_scattered (s.part t.ctx t.ltn)
    (activeElems (t.guardMask g) (s.localAddr (s.view t) x off sz.val) (2 ^ sz.val) (t.vec y)) (2 ^ sz.val) (t.vec d)
  rw [activeElems_eq, activeAt, List.flatMap_map] at hstored
  refine ⟨_, exec_of_retire h rfl ?_, hstored⟩
  rw [hleft, activeElems_eq]
  rfl

/-! SCPY (R137). -/

/-- A list of checks of which the first fails, on operands that are not poisoned. -/
theorem checked_fails {s : State} {v : View} {ops : List Operand} {b : Bool} {c : Nat} {l : List (List Operand × Bool × Nat)}
    {sources : List Operand} (hb : b = true) (hp : s.poisonedSource v.t ops = none) :
    s.checked v ((ops, b, c) :: l) sources = some (trapWith c) := by
  simp [State.checked, hb, hp]

/-- A list of checks of which the first passes. -/
theorem checked_passes {s : State} {v : View} {ops : List Operand} {b : Bool} {c : Nat} {l : List (List Operand × Bool × Nat)}
    {sources : List Operand} (hb : b = false) : s.checked v ((ops, b, c) :: l) sources = s.checked v l sources := by
  simp [State.checked, hb]

theorem checked_nil (s : State) (v : View) (sources : List Operand) : s.checked v [] sources = s.poisonTrap v.t sources := rfl

/-- No frame word that an instruction which executes reads before its body is poisoned. -/
theorem plainSources_clean {s : State} {t : Threadlet} {i : Instr} {sh : Shape} (h : Executes s t i) (hh : i.shape = some sh) :
    s.poisonedSource t (plainSources i sh) = none := by
  have hs := h.sources
  simp only [sourcesGood, hh, Bool.and_eq_true, Option.isNone_iff_eq_none] at hs
  exact (poisonTrap_none_iff s t _).mp hs.2

/-- Some of the operands that are not poisoned. -/
theorem poisonedSource_subset {s : State} {t : Threadlet} {l l' : List Operand} (h : s.poisonedSource t l = none) (hl : l' ⊆ l) :
    s.poisonedSource t l' = none := by
  rw [State.poisonedSource, List.findSome?_eq_none_iff] at h ⊢
  exact fun o ho => h o (hl ho)

theorem copyRest_zero (p : Part) (u src dst n : Nat) (got : BitVec 512) : copyRest p u src dst n 0 got = p.store dst (p.bytes src n) := by
  simp [copyRest]

/-- Ranges that share no byte share none modulo 2^64 (notes/assumptions/10.md). -/
theorem not_meets {src dst n : Nat} (hsrc : src + n ≤ 2 ^ 64) (hdst : dst + n ≤ 2 ^ 64) (hn : 0 < n) (h : src + n ≤ dst ∨ dst + n ≤ src) :
    ¬ ((dst + 2 ^ 64 - src) % 2 ^ 64 < n ∨ (src + 2 ^ 64 - dst) % 2 ^ 64 < n) := by
  omega

section
variable {s : State} {v : View} {d x y : Operand} {u src dst n : Nat}

/-- The checks of SCPY's operands pass (R131, R137). -/
theorem copyFirst_passes (hmax : n ≤ 4096) (hmeets : ¬ ((dst + 2 ^ 64 - src) % 2 ^ 64 < n ∨ (src + 2 ^ 64 - dst) % 2 ^ 64 < n))
    (hasrc : src % u = 0) (hadst : dst % u = 0) (hrsrc : s.rangeOk v.t.ctx v.t.ltn src n = true)
    (hrdst : s.rangeOk v.t.ctx v.t.ltn dst n = true) (hclean : s.poisonedSource v.t [d, x, y] = none) :
    s.copyFirst v d x y u src dst n = none := by
  rw [State.copyFirst, checked_passes (decide_eq_false hmax.not_gt), checked_passes (decide_eq_false hmeets),
    checked_passes (decide_eq_false (not_not.mpr hasrc)), checked_passes (decide_eq_false (not_not.mpr hadst)),
    checked_passes (by rw [hrsrc]; rfl), checked_passes (by rw [hrdst]; rfl), checked_nil, (poisonTrap_none_iff s v.t _).mpr hclean]

/-- The checks of SCPY pass where no finer step has moved a unit (R137, R415). -/
theorem copyCheck_passes (hd : v.t.doneSteps = 0) (hfirst : s.copyFirst v d x y u src dst n = none)
    (hpsrc : (s.part v.t.ctx v.t.ltn).poisonedIn src n = false)
    (hpdst : (decide (u < 8) && (s.part v.t.ctx v.t.ltn).poisonedIn dst n) = false) : s.copyCheck v d x y u src dst n = none := by
  have hpdst' : ¬ (u < 8 ∧ (s.part v.t.ctx v.t.ltn).poisonedIn dst n = true) := by simpa using hpdst
  simp only [State.copyCheck, hd, hfirst, hpsrc, hpdst', if_true, Option.isSome_none, Bool.false_eq_true, if_false, Nat.zero_div, Nat.zero_mul,
    Nat.add_zero, Nat.sub_zero]

end

theorem scpy_stores {s : State} {t : Threadlet} {g : Guard} {sz : Fin 7} {d x y : Operand} {off : BitVec 16}
    (h : Executes s t (.scpy g sz d x off y)) (hd : t.doneSteps = 0) (hr : localReady s (s.view t) (.scpy g sz d x off y) = true) :
    StoresBytes s t (.scpy g sz d x off y) (bytesFrom (s.readOp (s.view t) d).toNat ((s.readOp (s.view t) y).toNat * 2 ^ sz.val) fun k =>
      (s.part t.ctx t.ltn).byte (s.localAddr (s.view t) x off sz.val + k)) := by
  simp only [localReady, Bool.and_eq_true, decide_eq_true_eq, Bool.not_eq_true', Bool.or_eq_true] at hr
  obtain ⟨⟨⟨⟨⟨⟨⟨⟨⟨⟨hpos, hmax⟩, hsrc⟩, hdst⟩, hasrc⟩, hadst⟩, hrsrc⟩, hrdst⟩, hdisj⟩, hpsrc⟩, hpdst⟩ := hr
  have hclean : s.poisonedSource t [d, x, y] = none := plainSources_clean h rfl
  have hcheck := copyCheck_passes (v := s.view t) hd
    (copyFirst_passes hmax (not_meets hsrc hdst hpos hdisj) hasrc hadst hrsrc hrdst hclean) hpsrc hpdst
  have hstored := stored_store (s.part t.ctx t.ltn) (s.readOp (s.view t) d).toNat ((s.readOp (s.view t) y).toNat * 2 ^ sz.val) fun k =>
    (s.part t.ctx t.ltn).byte (s.localAddr (s.view t) x off sz.val + k)
  rw [← Part.bytes_eq] at hstored
  refine ⟨_, exec_of_retire h rfl ?_, hstored⟩
  dsimp only
  rw [if_neg (fun h0 => hpos.ne' h0.1), hcheck, view_t, hd, copyRest_zero]
  rfl

/-- Settles O23: each of the four stores its list of bytes. -/
theorem localStores : Obligations.LocalStores := by
  unfold Obligations.LocalStores
  intro s t i l h hd hr hl
  have hstores : StoresBytes s t i l := by
    cases i <;> cases hl
    case sts => exact sts_stores h hr
    case vsts => exact vsts_stores h hr
    case vscat => exact vscat_stores h hd hr
    case scpy => exact scpy_stores h hd hr
  obtain ⟨q, hexec, hq⟩ := hstores
  exact ⟨q, hexec, hq.rest, hq.byte, hq.marked, hq.cleared⟩

/-! SATOM (R136). -/

/-- An instruction that executes and whose flags raise an enabled exception traps with cause 0x08 (R33). -/
theorem exec_of_exception {s : State} {t : Threadlet} {i : Instr} {body : State → View → Res} {s' : State} {t' : Threadlet} {f : Fl}
    (h : Executes s t i) (hi : exec i s = issue i s body) (hb : body s (s.view t) = .next s' t' f) (hf : ¬ s.quiet t f) :
    exec i s = .next (s.trapped t i 0x08 0 0 f) := by
  rw [hi, issue_executes h, hb, settle_exception hf]

/-- The signed number of 4 or 8 bytes. -/
theorem intSrc_bytes {n x : Nat} (hn : n = 4 ∨ n = 8) (hx : x < 2 ^ (8 * n)) :
    intSrc (if n = 4 then .s32 else .s64) x = (BitVec.ofNat (8 * n) x).toInt := by
  rcases hn with rfl | rfl
  · exact intSrc_signed (ty := .s32) rfl hx
  · exact intSrc_signed (ty := .s64) rfl hx

/-- Settles O24: the body writes the combination of the old value and the operands, which the kind of SATOM decides. -/
theorem localAtomic : Obligations.LocalAtomic := by
  unfold Obligations.LocalAtomic
  intro s t g op sz d x off i v n a p old arg sgn new s' h hr
  have hsz : sz.val = 2 ∨ sz.val = 3 := by
    have hc := of_decide_eq_true (coded_of_executes h rfl)
    omega
  have hn : n = 4 ∨ n = 8 := hsz.imp (congrArg (2 ^ ·)) (congrArg (2 ^ ·))
  have hold : old % 2 ^ (8 * n) = old := Nat.mod_eq_of_lt (ofLeBytes_bytes_lt p a n)
  have harg : ∀ o, arg o < 2 ^ (8 * n) := fun o => Nat.mod_lt _ (Nat.two_pow_pos _)
  have hty : (if n = 4 then Ty.f32 else .f64) = if sz.val = 2 then .f32 else .f64 := by
    rcases hsz with h2 | h3
    · simp [n, h2]
    · simp [n, h3]
  have hle : intSrc (if n = 4 then .s32 else .s64) (old % 2 ^ (8 * n)) ≤ intSrc (if n = 4 then .s32 else .s64) (arg d) ↔ sgn old ≤ sgn (arg d) := by
    rw [hold, intSrc_bytes hn (harg d), intSrc_bytes hn (ofLeBytes_bytes_lt p a n)]
  have hnew : atomic op n old (if op = .cas then s.readOp v (nextReg d) else s.readOp v d).toNat (s.readOp v d).toNat = new := by
    cases op with
    | min => exact congrArg (·, 0) (if_congr hle hold rfl)
    | max => exact congrArg (·, 0) (if_congr hle rfl hold)
    | fadd => simp only [atomic, hold, faddRne, hty]; rfl
    | _ => simp only [atomic, hold]; rfl
  have hcheck : s.loadCheck v [d] a n n = none := by
    simp only [localReady, i, Bool.and_eq_true, decide_eq_true_eq, Bool.not_eq_true', Option.isNone_iff_eq_none] at hr
    obtain ⟨⟨⟨ha, hrange⟩, hd⟩, hp⟩ := hr
    rw [loadCheck_eq, hp]
    exact accessCheck_passes ha hrange ((poisonTrap_none_iff s t [d]).mp hd)
  have hbody := (congrArg (Option.getD · _) hcheck).trans
    (congrArg (fun r : Nat × Fl => retireOp (s.localWrite t.ctx t.ltn a (leBytes n r.1)) v d (BitVec.ofNat 64 old) r.2) hnew)
  exact ⟨fun hf => exec_of_next h rfl hbody hf, fun hf => exec_of_exception h rfl hbody hf⟩

/-! STF (R135). -/

/-- A frame with words from w up written where lanes below n are active. -/
def Frame.storeLanes (f : Frame) (m : Word) (w : Nat) (x : Nat → Word) (n : Nat) : Frame :=
  (List.range n).foldl (fun f j => if active m j then f.setWord (w + j) (x j) else f) f

section
variable (f : Frame) (m : Word) (w : Nat) (x : Nat → Word)

theorem Frame.storeLanes_succ (n : Nat) : f.storeLanes m w x (n + 1) =
    if m.getLsbD n then (f.storeLanes m w x n).setWord (w + n) (x n) else f.storeLanes m w x n := by
  rw [Frame.storeLanes, List.range_succ, List.foldl_append]
  rfl

/-- Nothing but words and their poison marks changes. -/
theorem Frame.storeLanes_rest (n : Nat) :
    f.storeLanes m w x n = { f with words := (f.storeLanes m w x n).words, poison := (f.storeLanes m w x n).poison } := by
  induction n with
  | zero => rfl
  | succ n ih =>
    rw [storeLanes_succ]
    split
    · rw [Frame.setWord, ih]
    · exact ih

theorem Frame.word_setWord (k n : Nat) (y : Word) : (f.setWord n y).word k = if k = n then y else f.word k := by
  split
  · subst k
    exact Tab.get_set_same _ _ _ _
  · exact Tab.get_set_other _ _ _ ‹_›

theorem Frame.mem_poison_setWord (k n : Nat) (y : Word) : k ∈ (f.setWord n y).poison ↔ k ∈ f.poison ∧ k ≠ n := by
  simp [Frame.setWord]

/-- A word that no lane stands for is as before. -/
theorem Frame.word_storeLanes_other {n k : Nat} (hk : k < w ∨ w + n ≤ k) : (f.storeLanes m w x n).word k = f.word k := by
  induction n with
  | zero => rfl
  | succ n ih =>
    rw [storeLanes_succ]
    split
    · rw [word_setWord, if_neg (by omega), ih (by omega)]
    · exact ih (by omega)

/-- An active lane's word takes the lane's value. -/
theorem Frame.word_storeLanes {n j : Nat} (hj : j < n) : (f.storeLanes m w x n).word (w + j) = if m.getLsbD j then x j else f.word (w + j) := by
  induction n with
  | zero => exact absurd hj (Nat.not_lt_zero j)
  | succ n ih =>
    rw [storeLanes_succ]
    rcases Nat.lt_succ_iff_lt_or_eq.mp hj with hlt | rfl
    · have hother : w + j ≠ w + n := by omega
      split
      · rw [word_setWord, if_neg hother, ih hlt]
      · exact ih hlt
    · split
      · rw [word_setWord, if_pos rfl]
      · exact word_storeLanes_other f m w x (.inr (Nat.le_refl _))

/-- The words that are written lose their marks (R415). -/
theorem Frame.mem_poison_storeLanes (n k : Nat) :
    k ∈ (f.storeLanes m w x n).poison ↔ k ∈ f.poison ∧ ¬ ∃ j < n, k = w + j ∧ m.getLsbD j = true := by
  induction n with
  | zero => simp [storeLanes]
  | succ n ih =>
    have hlast : (∃ j < n + 1, k = w + j ∧ m.getLsbD j = true) ↔
        (∃ j < n, k = w + j ∧ m.getLsbD j = true) ∨ k = w + n ∧ m.getLsbD n = true := Nat.exists_lt_succ_right
    rw [storeLanes_succ, hlast]
    split
    case isTrue h => simp only [mem_poison_setWord, ih, h, and_true, not_or, and_assoc, ne_eq]
    case isFalse h => simp only [ih, h, Bool.false_eq_true, and_false, or_false]

end

/-- Settles O25: the words of the active lanes are written one after the other. -/
theorem frameStore : Obligations.FrameStore := by
  unfold Obligations.FrameStore
  intro s t g d x off f i w hf h hr
  simp only [localReady, i, Bool.and_eq_true, decide_eq_true_eq] at hr
  obtain ⟨ha, hfit⟩ := hr
  refine ⟨f.storeLanes (t.guardMask g) w (fun j => BitVec.ofNat 64 (lane (t.vec d) 64 j)) 8, exec_of_retire h rfl ?_,
    f.storeLanes_rest _ _ _ _, fun j hj => f.word_storeLanes _ _ _ hj, fun n hn => f.word_storeLanes_other _ _ _ hn,
    fun n => f.mem_poison_storeLanes _ _ _ 8 n⟩
  rw [frameOffset_ok ha hfit]
  exact congrArg (retire · t) (modFrame_of_frame hf _)

end Sys2Proof.Machine
end

section
/-! PROOFS. The own checks of local instructions, in the order of R131, R135 and R137, and the traps that they take (O27). -/

namespace Sys2Proof.Machine

/-- Instruction i enters a trap with a cause and an address, and with neither code nor flags. -/
def TrapsAt (s : State) (t : Threadlet) (i : Instr) (cause addr : Nat) : Prop :=
  exec i s = .next (s.trapped t i cause 0 (BitVec.ofNat 64 addr) 0)

/-! LDS, STS and SATOM: one access of consecutive bytes. -/

/-- Instruction i takes the trap that the checks of its access come to. -/
def ChecksAccess (s : State) (t : Threadlet) (i : Instr) (data : List Operand) (a n : Nat) (bad : Bool) : Prop :=
  ∀ cause addr, s.accessCheck (s.view t) data a n n bad = some (.trap cause 0 (BitVec.ofNat 64 addr) 0) → cause ≠ 0x30 → TrapsAt s t i cause addr

section
variable {s : State} {t : Threadlet} {g : Guard} {sz : Fin 7} {d x : Operand} {off : BitVec 16}

theorem lds_checksAccess {sext : Bool} (h : Executes s t (.lds g sext sz d x off)) :
    ChecksAccess s t (.lds g sext sz d x off) [] (s.localAddr (s.view t) x off sz.val) (2 ^ sz.val)
      ((s.part t.ctx t.ltn).poisonedIn (s.localAddr (s.view t) x off sz.val) (2 ^ sz.val)) :=
  fun _ _ hc h30 => exec_of_trap h rfl (congrArg (Option.getD · _) hc) h30

theorem sts_checksAccess (h : Executes s t (.sts g sz d x off)) :
    ChecksAccess s t (.sts g sz d x off) [d] (s.localAddr (s.view t) x off sz.val) (2 ^ sz.val)
      ((s.part t.ctx t.ltn).poisonedPart (s.localAddr (s.view t) x off sz.val) (2 ^ sz.val)) :=
  fun _ _ hc h30 => exec_of_trap h rfl (congrArg (Option.getD · _) hc) h30

theorem satom_checksAccess {op : AtomOp} (h : Executes s t (.satom g op sz d x off)) :
    ChecksAccess s t (.satom g op sz d x off) [d] (s.localAddr (s.view t) x off sz.val) (2 ^ sz.val)
      ((s.part t.ctx t.ltn).poisonedIn (s.localAddr (s.view t) x off sz.val) (2 ^ sz.val)) :=
  fun _ _ hc h30 => exec_of_trap h rfl (congrArg (Option.getD · _) hc) h30

end

section
variable {s : State} {t : Threadlet} {i : Instr} {data : List Operand} {a n : Nat} {bad : Bool}

/-- Alignment, then bounds. -/
theorem ChecksAccess.early (h : ChecksAccess s t i data a n bad) :
    (a % n ≠ 0 → TrapsAt s t i 0x06 0) ∧ (a % n = 0 → (∃ k < n, s.barred t.ctx t.ltn (a + k)) → TrapsAt s t i 0x05 0) :=
  ⟨fun ha => h _ _ (accessCheck_misaligned ha) (by decide),
    fun ha hout => h _ _ (accessCheck_outside ha ((rangeOk_false_iff ..).mpr hout)) (by decide)⟩

theorem rangeOk_of_not_outside {ctx ltn : Nat} (hin : ¬ ∃ k < n, s.barred ctx ltn (a + k)) : s.rangeOk ctx ltn a n = true := by
  rwa [← Bool.not_eq_false, rangeOk_false_iff]

variable (h : ChecksAccess s t i data a n bad) (ha : a % n = 0) (hin : ¬ ∃ k < n, s.barred t.ctx t.ltn (a + k))
include h ha hin

/-- Then the poison of a frame word that is read as the datum. -/
theorem ChecksAccess.datum {k : Nat} (hk : s.poisonedSource t data = some k) : TrapsAt s t i 0x12 (64 + 8 * k) :=
  h 0x12 (64 + 8 * k) (accessCheck_datum ha (rangeOk_of_not_outside hin) hk) (by decide)

/-- Then the poison of the scratchpad. -/
theorem ChecksAccess.poisoned (hd : s.poisonedSource t data = none) (hb : bad = true) : TrapsAt s t i 0x12 a := by
  subst hb
  exact h 0x12 a (accessCheck_poisoned ha (rangeOk_of_not_outside hin) hd) (by decide)

end

/-! VLDS, VSTS, VGATH and VSCAT: an access of each active lane. -/

/-- The checks of a vector access: its alignment, its bounds, and the first poisoned address; past them it comes to r. -/
def vectorCheck (misaligned outside : Prop) [Decidable misaligned] [Decidable outside] (poison : Option Nat) (r : Res) : Res :=
  if misaligned then trapWith 0x06
  else if outside then trapWith 0x05
  else match poison with
    | some b => .trap 0x12 0 (addrWord b) 0
    | none => r

/-- Instruction i takes the traps of those checks, in their order. -/
structure ChecksVector (s : State) (t : Threadlet) (i : Instr) (misaligned outside : Prop) (poison : Option Nat) : Prop where
  align : misaligned → TrapsAt s t i 0x06 0
  bounds : ¬ misaligned → outside → TrapsAt s t i 0x05 0
  poisoned : ¬ misaligned → ¬ outside → ∀ b, poison = some b → TrapsAt s t i 0x12 b

theorem checksVector_of_body {s : State} {t : Threadlet} {i : Instr} {body : State → View → Res} {misaligned outside : Prop}
    [Decidable misaligned] [Decidable outside] {poison : Option Nat} (h : Executes s t i) (hi : exec i s = issue i s body)
    (hb : ∃ r, body s (s.view t) = vectorCheck misaligned outside poison r) : ChecksVector s t i misaligned outside poison := by
  obtain ⟨r, hb⟩ := hb
  refine ⟨fun ha => ?_, fun ha ho => ?_, fun ha ho b hp => ?_⟩
  · exact exec_of_trap h hi (hb.trans (if_pos ha)) (by decide)
  · exact exec_of_trap h hi (hb.trans ((if_neg ha).trans (if_pos ho))) (by decide)
  · subst hp
    exact exec_of_trap h hi (hb.trans ((if_neg ha).trans (if_neg ho))) (by decide)

section
variable {s : State} {t : Threadlet} {g : Guard} {d x : Operand} {off : BitVec 16}

theorem vlds_checksVector (h : Executes s t (.vlds g d x off)) :
    ChecksVector s t (.vlds g d x off) (s.localAddr (s.view t) x off 6 % 16 ≠ 0)
      ((!((activeBytes (t.guardMask g) (s.localAddr (s.view t) x off 6)).all fun e => s.localOk t.ctx t.ltn e.2)) = true)
      (poisonAt (s.part t.ctx t.ltn) (activeBytes (t.guardMask g) (s.localAddr (s.view t) x off 6)) 1) :=
  checksVector_of_body h rfl ⟨_, rfl⟩

theorem vsts_checksVector (h : Executes s t (.vsts g d x off)) :
    ChecksVector s t (.vsts g d x off) (s.localAddr (s.view t) x off 6 % 16 ≠ 0)
      ((!((activeBytes (t.guardMask g) (s.localAddr (s.view t) x off 6)).all fun e => s.localOk t.ctx t.ltn e.2)) = true)
      (partPoisonAt (s.part t.ctx t.ltn) (activeBytes (t.guardMask g) (s.localAddr (s.view t) x off 6))) :=
  checksVector_of_body h rfl ⟨_, rfl⟩

end

section
variable {s : State} {t : Threadlet} {g : Guard} {sz : Fin 7} {d x y : Operand} {off : BitVec 16}

/-- The checks of VGATH and VSCAT before their first element are those of a vector access. -/
theorem elemsLeft_vectorCheck (hd : t.doneSteps = 0) (part : Bool) (r : List (Nat × Nat) → Res) :
    (match s.elemsLeft (s.view t) g sz x off y part with
      | .error e => e
      | .ok l => r l) =
    vectorCheck (s.localAddr (s.view t) x off sz.val % 2 ^ sz.val ≠ 0)
      ((!((activeElems (t.guardMask g) (s.localAddr (s.view t) x off sz.val) (2 ^ sz.val) (t.vec y)).all
        fun e => s.rangeOk t.ctx t.ltn e.2 (2 ^ sz.val))) = true)
      (if part then poisonAt (s.part t.ctx t.ltn)
        (activeElems (t.guardMask g) (s.localAddr (s.view t) x off sz.val) (2 ^ sz.val) (t.vec y)) (2 ^ sz.val) else none)
      (r (activeElems (t.guardMask g) (s.localAddr (s.view t) x off sz.val) (2 ^ sz.val) (t.vec y))) := by
  rw [elemsLeft_first (v := s.view t) hd, view_t]
  unfold vectorCheck
  split_ifs
  · rfl
  · rfl
  · cases poisonAt (s.part t.ctx t.ltn)
      (activeElems (t.guardMask g) (s.localAddr (s.view t) x off sz.val) (2 ^ sz.val) (t.vec y)) (2 ^ sz.val) <;> rfl
  · rfl

theorem vgath_checksVector (h : Executes s t (.vgath g sz d x off y)) (hd : t.doneSteps = 0) :
    ChecksVector s t (.vgath g sz d x off y) (s.localAddr (s.view t) x off sz.val % 2 ^ sz.val ≠ 0)
      ((!((activeElems (t.guardMask g) (s.localAddr (s.view t) x off sz.val) (2 ^ sz.val) (t.vec y)).all
        fun e => s.rangeOk t.ctx t.ltn e.2 (2 ^ sz.val))) = true)
      (poisonAt (s.part t.ctx t.ltn)
        (activeElems (t.guardMask g) (s.localAddr (s.view t) x off sz.val) (2 ^ sz.val) (t.vec y)) (2 ^ sz.val)) :=
  checksVector_of_body h rfl ⟨_, elemsLeft_vectorCheck hd true _⟩

theorem vscat_checksVector (h : Executes s t (.vscat g sz d x off y)) (hd : t.doneSteps = 0) :
    ChecksVector s t (.vscat g sz d x off y) (s.localAddr (s.view t) x off sz.val % 2 ^ sz.val ≠ 0)
      ((!((activeElems (t.guardMask g) (s.localAddr (s.view t) x off sz.val) (2 ^ sz.val) (t.vec y)).all
        fun e => s.rangeOk t.ctx t.ltn e.2 (2 ^ sz.val))) = true)
      (if decide (sz.val < 3) then poisonAt (s.part t.ctx t.ltn)
        (activeElems (t.guardMask g) (s.localAddr (s.view t) x off sz.val) (2 ^ sz.val) (t.vec y)) (2 ^ sz.val) else none) :=
  checksVector_of_body h rfl ⟨_, elemsLeft_vectorCheck hd (decide (sz.val < 3)) _⟩

end

/-- The traps of a vector access, said of its active lanes. -/
theorem ChecksVector.lanes {s : State} {t : Threadlet} {i : Instr} {m : Word} {n : Nat} {addr : Nat → Nat} {reach bad : Nat → Bool}
    {aligned out : Prop} {hit : Nat → Prop} {poison : Option Nat}
    (h : ChecksVector s t i (¬ aligned) ((!((activeAt m n addr).all fun e => reach e.2)) = true) poison)
    (hout : out ↔ ∃ j < n, m.getLsbD j = true ∧ reach (addr j) = false)
    (hhit : ∀ j, hit j ↔ m.getLsbD j = true ∧ bad (addr j) = true) :
    (¬ aligned → TrapsAt s t i 0x06 0) ∧ (aligned → out → TrapsAt s t i 0x05 0) ∧
    (poison = ((activeAt m n addr).find? fun e => bad e.2).map (·.2) →
      ∀ j < n, aligned → ¬ out → hit j → (∀ k < j, ¬ hit k) → TrapsAt s t i 0x12 (addr j)) := by
  have hreach : ((!((activeAt m n addr).all fun e => reach e.2)) = true) ↔ out := by
    rw [hout, Bool.not_eq_true', ← Bool.not_eq_true, activeAt_all]
    simp
  refine ⟨h.align, fun ha ho => h.bounds (not_not.mpr ha) (hreach.mpr ho), fun hpoison j hj ha ho hj' hfirst => ?_⟩
  obtain ⟨hact, hb⟩ := (hhit j).mp hj'
  refine h.poisoned (not_not.mpr ha) (fun hr => ho (hreach.mp hr)) _ ?_
  rw [hpoison, activeAt_find hj hact hb fun k hk => fun hk' => hfirst k hk ((hhit k).mpr hk')]
  rfl

theorem localOk_false_iff (s : State) (ctx ltn b : Nat) : s.localOk ctx ltn b = false ↔ s.barred ctx ltn b := by
  rw [← Bool.not_eq_true, localOk_iff, not_not]

/-- A byte is poisoned with its word. -/
theorem poisonedIn_one (p : Part) (b : Nat) : p.poisonedIn b 1 = true ↔ b / 8 ∈ p.spoison := by
  simp [poisonedIn_iff]

/-- The active lanes of a masked store reach a poisoned word that they do not cover. -/
def Part.markedPart (p : Part) (l : List (Nat × Nat)) (b : Nat) : Bool :=
  p.spoison.contains (b / 8) && !((List.range 8).all fun k => l.any fun f => f.2 = b / 8 * 8 + k)

theorem markedPart_iff (p : Part) (m : Word) (n : Nat) (addr : Nat → Nat) (b : Nat) : p.markedPart (activeAt m n addr) b = true ↔
    b / 8 ∈ p.spoison ∧ ¬ ∀ k < 8, ∃ j < n, m.getLsbD j = true ∧ addr j = 8 * (b / 8) + k := by
  have hany : ∀ k, ((activeAt m n addr).any fun f => decide (f.2 = b / 8 * 8 + k)) = true ↔
      ∃ j < n, m.getLsbD j = true ∧ addr j = 8 * (b / 8) + k := fun k => by
    rw [activeAt_any fun a => decide (a = b / 8 * 8 + k)]
    simp only [decide_eq_true_eq, Nat.mul_comm 8]
  simp only [Part.markedPart, Bool.and_eq_true, Bool.not_eq_true', ← Bool.not_eq_true, List.contains_iff_mem, List.all_eq_true,
    List.mem_range, hany]

/-! LDF and STF. -/

section
variable {s : State} {v : View} {x : Operand} {off : BitVec 16}

theorem frameOffset_misaligned (ha : s.localAddr v x off 6 % 64 ≠ 0) : s.frameOffset v x off = .error (trapWith 0x06) := if_pos ha

theorem frameOffset_beyond (ha : s.localAddr v x off 6 % 64 = 0)
    (hf : frameWords ((s.frame v.t.ref).any (·.large)) ≤ s.localAddr v x off 6 / 8 + 7) : s.frameOffset v x off = .error (trapWith 0x04) := by
  rw [State.frameOffset, if_neg (not_not.mpr ha), if_pos hf]

end

section
variable {s : State} {t : Threadlet} {g : Guard} {d x : Operand} {off : BitVec 16}

/-- A failed check of the frame offset is LDF's and STF's trap. -/
theorem exec_frameOffset_error {i : Instr} {c : Nat} (h : Executes s t i) (hi : i = .ldf g d x off ∨ i = .stf g d x off)
    (he : s.frameOffset (s.view t) x off = .error (trapWith c)) (hc : c ≠ 0x30) : TrapsAt s t i c 0 := by
  rcases hi with rfl | rfl
  · exact exec_of_trap h rfl (by rw [he]; rfl) hc
  · exact exec_of_trap h rfl (by rw [he]; rfl) hc

/-- LDF of a poisoned word. -/
theorem exec_ldf_poisoned {f : Frame} {j : Nat} (h : Executes s t (.ldf g d x off)) (hf : s.frame t.ref = some f)
    (ha : s.localAddr (s.view t) x off 6 % 64 = 0) (hfit : s.localAddr (s.view t) x off 6 / 8 + 7 < frameWords f.large) (hj : j < 8)
    (hhit : (t.guardMask g).getLsbD j = true ∧ f.poison.contains (s.localAddr (s.view t) x off 6 / 8 + j) = true)
    (hfirst : ∀ k < j, ¬ ((t.guardMask g).getLsbD k = true ∧ f.poison.contains (s.localAddr (s.view t) x off 6 / 8 + k) = true)) :
    TrapsAt s t (.ldf g d x off) 0x12 (64 + 8 * (s.localAddr (s.view t) x off 6 / 8 + j)) := by
  have hfind : ((List.range 8).find? fun k => active (t.guardMask g) k &&
      f.poison.contains (s.localAddr (s.view t) x off 6 / 8 + k)) = some j := by
    refine List.find?_range_eq_some.mpr ⟨Bool.and_eq_true_iff.mpr hhit, List.mem_range.mpr hj, fun k hk => ?_⟩
    rw [Bool.not_eq_true', ← Bool.not_eq_true, Bool.and_eq_true]
    exact hfirst k hk
  refine exec_of_trap h rfl ?_ (by decide)
  rw [frameOffset_ok ha (by rw [view_t, hf]; exact hfit), view_t, hf]
  dsimp only
  rw [hfind]
  rfl

end

/-! SCPY (R137). -/

section
variable {s : State} {v : View} {d x y : Operand} {u src dst n : Nat}

section
variable (hclean : s.poisonedSource v.t [d, x, y] = none)
include hclean

theorem copyFirst_long (hmax : 4096 < n) : s.copyFirst v d x y u src dst n = some (trapWith 0x03) :=
  checked_fails (decide_eq_true hmax) (poisonedSource_subset hclean (by simp))

variable (hmax : n ≤ 4096)
include hmax

theorem copyFirst_meets (hmeets : (dst + 2 ^ 64 - src) % 2 ^ 64 < n ∨ (src + 2 ^ 64 - dst) % 2 ^ 64 < n) :
    s.copyFirst v d x y u src dst n = some (trapWith 0x03) := by
  rw [State.copyFirst, checked_passes (decide_eq_false hmax.not_gt)]
  exact checked_fails (decide_eq_true hmeets) hclean

variable (hmeets : ¬ ((dst + 2 ^ 64 - src) % 2 ^ 64 < n ∨ (src + 2 ^ 64 - dst) % 2 ^ 64 < n))
include hmeets

theorem copyFirst_misaligned (ha : src % u ≠ 0 ∨ dst % u ≠ 0) : s.copyFirst v d x y u src dst n = some (trapWith 0x06) := by
  rw [State.copyFirst, checked_passes (decide_eq_false hmax.not_gt), checked_passes (decide_eq_false hmeets)]
  by_cases hsrc : src % u = 0
  · rw [checked_passes (decide_eq_false (not_not.mpr hsrc))]
    exact checked_fails (decide_eq_true (ha.resolve_left (not_not.mpr hsrc))) (poisonedSource_subset hclean (by simp))
  · exact checked_fails (decide_eq_true hsrc) (poisonedSource_subset hclean (by simp))

variable (hasrc : src % u = 0) (hadst : dst % u = 0)
include hasrc hadst

theorem copyFirst_outside (hout : s.rangeOk v.t.ctx v.t.ltn src n = false ∨ s.rangeOk v.t.ctx v.t.ltn dst n = false) :
    s.copyFirst v d x y u src dst n = some (trapWith 0x05) := by
  rw [State.copyFirst, checked_passes (decide_eq_false hmax.not_gt), checked_passes (decide_eq_false hmeets),
    checked_passes (decide_eq_false (not_not.mpr hasrc)), checked_passes (decide_eq_false (not_not.mpr hadst))]
  cases hsrc : s.rangeOk v.t.ctx v.t.ltn src n with
  | false => exact checked_fails rfl (poisonedSource_subset hclean (by simp))
  | true =>
    rw [checked_passes (b := !true) rfl]
    have hdst := hout.resolve_left (by simp [hsrc])
    exact checked_fails (by rw [hdst]; rfl) (poisonedSource_subset hclean (by simp))

end

section
variable (hd : v.t.doneSteps = 0)
include hd

theorem copyCheck_of_copyFirst {r : Res} (hf : s.copyFirst v d x y u src dst n = some r) : s.copyCheck v d x y u src dst n = some r := by
  simp [State.copyCheck, hd, hf]

variable (hf : s.copyFirst v d x y u src dst n = none)
include hf

theorem copyCheck_source (hp : (s.part v.t.ctx v.t.ltn).poisonedIn src n = true) :
    s.copyCheck v d x y u src dst n = some (.trap 0x12 0 (addrWord src) 0) := by
  simp [State.copyCheck, hd, hf, hp]

theorem copyCheck_destination (hsrc : (s.part v.t.ctx v.t.ltn).poisonedIn src n = false) (hu : u < 8)
    (hp : (s.part v.t.ctx v.t.ltn).poisonedIn dst n = true) : s.copyCheck v d x y u src dst n = some (.trap 0x12 0 (addrWord dst) 0) := by
  simp [State.copyCheck, hd, hf, hsrc, hu, hp]

end

end

section
variable {s : State} {t : Threadlet} {g : Guard} {sz : Fin 7} {d x y : Operand} {off : BitVec 16}

/-- A copy of no bytes only moves the PC. -/
theorem exec_scpy_empty (h : Executes s t (.scpy g sz d x off y)) (hn : (s.readOp (s.view t) y).toNat * 2 ^ sz.val = 0) :
    exec (.scpy g sz d x off y) s = .next (s.retired s.cur t.pc (.scpy g sz d x off y) t 0) := by
  have hclean : s.poisonedSource t [d, x, y] = none := plainSources_clean h rfl
  exact exec_of_retire h rfl (if_pos ⟨hn, by rw [view_t, poisonedSource_subset hclean (by simp)]; rfl⟩)

/-- A copy of some bytes takes the trap of its checks. -/
theorem exec_scpy_trap {c addr : Nat} (h : Executes s t (.scpy g sz d x off y)) (hn : 0 < (s.readOp (s.view t) y).toNat * 2 ^ sz.val)
    (hc : s.copyCheck (s.view t) d x y (2 ^ sz.val) (s.localAddr (s.view t) x off sz.val) (s.readOp (s.view t) d).toNat
      ((s.readOp (s.view t) y).toNat * 2 ^ sz.val) = some (.trap c 0 (BitVec.ofNat 64 addr) 0)) (h30 : c ≠ 0x30) :
    TrapsAt s t (.scpy g sz d x off y) c addr :=
  exec_of_trap h rfl ((if_neg (fun h0 => hn.ne' h0.1)).trans (by rw [hc]; rfl)) h30

end

/-- Settles O27: each form's checks are made in their order, and the first that fails is the trap. -/
theorem localAccessTraps : Obligations.LocalAccessTraps := by
  unfold Obligations.LocalAccessTraps
  refine ⟨?_, ?_⟩
  · intro s t g sext op sz d x y off i h hd v n a p m traps barred outside bad
    refine ⟨?_, ?_, ?_, ?_, ?_, ?_⟩
    · rintro (rfl | rfl | rfl)
      · exact (lds_checksAccess h).early
      · exact (sts_checksAccess h).early
      · exact (satom_checksAccess h).early
    · rintro rfl ha hin hb
      exact (lds_checksAccess h).poisoned ha hin rfl ((poisonedIn_iff p a n).mpr hb)
    · rintro (rfl | rfl) ha hin
      · refine ⟨fun k hk => (sts_checksAccess h).datum ha hin hk, fun hk hn hb => (sts_checksAccess h).poisoned ha hin hk ?_⟩
        rw [poisonedPart_small p (hn.resolve_right (not_not.mpr rfl))]
        exact (poisonedIn_iff p a n).mpr hb
      · exact ⟨fun k hk => (satom_checksAccess h).datum ha hin hk,
          fun hk _ hb => (satom_checksAccess h).poisoned ha hin hk ((poisonedIn_iff p a n).mpr hb)⟩
    · intro a at' whole hit out
      have hout : out ↔ ∃ j < 64, m.getLsbD j = true ∧ s.localOk t.ctx t.ltn (at' j) = false := by
        simp only [localOk_false_iff]
        rfl
      rintro (rfl | rfl)
      · have hc := vlds_checksVector h
        rw [activeBytes_eq] at hc
        have hhit : ∀ j, hit j ↔ m.getLsbD j = true ∧ p.poisonedIn (at' j) 1 = true := fun j => by
          simp only [hit, poisonedIn_one, reduceCtorEq, false_implies, and_true]
        obtain ⟨h6, h5, h12⟩ := hc.lanes (bad := fun b => p.poisonedIn b 1) hout hhit
        exact ⟨h6, h5, h12 rfl⟩
      · have hc := vsts_checksVector h
        rw [activeBytes_eq] at hc
        have hhit : ∀ j, hit j ↔ m.getLsbD j = true ∧ p.markedPart (activeAt m 64 at') (at' j) = true := fun j => by
          simp only [hit, whole, markedPart_iff, forall_const]
        obtain ⟨h6, h5, h12⟩ := hc.lanes (bad := p.markedPart (activeAt m 64 at')) hout hhit
        exact ⟨h6, h5, h12 rfl⟩
    · intro at' out hit
      have hout : out ↔ ∃ j < 64 / n, m.getLsbD j = true ∧ s.rangeOk t.ctx t.ltn (at' j) n = false := by
        simp only [rangeOk_false_iff]
        rfl
      have hhit : ∀ j, hit j ↔ m.getLsbD j = true ∧ p.poisonedIn (at' j) n = true := fun j => by
        rw [poisonedIn_iff]
      rintro (rfl | rfl)
      · have hc := vgath_checksVector h hd
        rw [activeElems_eq] at hc
        obtain ⟨h6, h5, h12⟩ := hc.lanes (reach := fun b => s.rangeOk t.ctx t.ltn b n) (bad := fun b => p.poisonedIn b n) hout hhit
        exact ⟨h6, h5, fun j hj ha ho _ => h12 rfl j hj ha ho⟩
      · have hc := vscat_checksVector h hd
        rw [activeElems_eq] at hc
        obtain ⟨h6, h5, h12⟩ := hc.lanes (reach := fun b => s.rangeOk t.ctx t.ltn b n) (bad := fun b => p.poisonedIn b n) hout hhit
        refine ⟨h6, h5, fun j hj ha ho hn => h12 (if_pos (decide_eq_true ?_)) j hj ha ho⟩
        exact (Nat.pow_lt_pow_iff_right (by decide : 1 < 2)).mp (hn rfl : 2 ^ sz.val < 2 ^ 3)
    · intro f hf a hit
      refine ⟨fun hi => ⟨fun ha => exec_frameOffset_error h hi (frameOffset_misaligned ha) (by decide), fun ha hfit => ?_⟩, ?_⟩
      · exact exec_frameOffset_error h hi (frameOffset_beyond ha (by rw [view_t, hf]; exact hfit)) (by decide)
      · rintro j hj rfl ha hfit hj' hfirst
        exact exec_ldf_poisoned h hf ha hfit hj hj' hfirst
  · intro s t g sz d x y off i n src dst u p traps meets barred out bad h
    have hclean : s.poisonedSource t [d, x, y] = none := plainSources_clean h rfl
    refine ⟨exec_scpy_empty h, fun hd hn => ?_⟩
    have first : ∀ c, c ≠ 0x30 → s.copyFirst (s.view t) d x y u src dst n = some (trapWith c) → traps c 0 :=
      fun c h30 hc => exec_scpy_trap h hn (copyCheck_of_copyFirst hd hc) h30
    refine ⟨fun hmax => first 0x03 (by decide) (copyFirst_long hclean hmax), fun hmax => ⟨fun hm => ?_, fun hm => ⟨fun ha => ?_, ?_⟩⟩⟩
    · exact first 0x03 (by decide) (copyFirst_meets hclean hmax hm)
    · exact first 0x06 (by decide) (copyFirst_misaligned hclean hmax hm ha)
    intro hasrc hadst
    refine ⟨fun ho => ?_, fun ho => ?_⟩
    · refine first 0x05 (by decide) (copyFirst_outside hclean hmax hm hasrc hadst ?_)
      rw [rangeOk_false_iff, rangeOk_false_iff]
      obtain ⟨k, hk, hb | hb⟩ := ho
      · exact .inl ⟨k, hk, hb⟩
      · exact .inr ⟨k, hk, hb⟩
    have hpass := copyFirst_passes (v := s.view t) hmax hm hasrc hadst
      (rangeOk_of_not_outside fun ⟨k, hk, hb⟩ => ho ⟨k, hk, .inl hb⟩) (rangeOk_of_not_outside fun ⟨k, hk, hb⟩ => ho ⟨k, hk, .inr hb⟩) hclean
    refine ⟨fun hb => ?_, fun hsrc hu hb => ?_⟩
    · exact exec_scpy_trap h hn (copyCheck_source hd hpass ((poisonedIn_iff p src n).mpr hb)) (by decide)
    · exact exec_scpy_trap h hn (copyCheck_destination hd hpass
        (Bool.eq_false_iff.mpr fun hp => hsrc ((poisonedIn_iff p src n).mp hp)) hu ((poisonedIn_iff p dst n).mpr hb)) (by decide)

end Sys2Proof.Machine
end

section
/-! PROOFS. The own checks of channel, Anvil and key instructions (R239, R249, R256, R258, R270, R277, R315; O36). -/

namespace Sys2Proof.Machine

/-! A check list whose first failure is the trap. -/

/-- Instruction i takes the trap that a list of checks comes to (R76 check 9). -/
def ChecksList (s : State) (t : Threadlet) (i : Instr) (l : List (List Operand × Bool × Nat)) (sources : List Operand) : Prop :=
  ∀ c, s.checked (s.view t) l sources = some (trapWith c) → c ≠ 0x30 → TrapsAt s t i c 0

theorem checksList_of_getD {s : State} {t : Threadlet} {i : Instr} {body : State → View → Res} {l : List (List Operand × Bool × Nat)}
    {sources : List Operand} {r : Res} (h : Executes s t i) (hi : exec i s = issue i s body)
    (hb : body s (s.view t) = (s.checked (s.view t) l sources).getD r) : ChecksList s t i l sources :=
  fun _ hc h30 => exec_of_trap h hi (by rw [hb, hc]; rfl) h30

section
variable {s : State} {t : Threadlet} {i : Instr} {ops : List Operand} {b : Bool} {c : Nat} {l : List (List Operand × Bool × Nat)}
  {sources : List Operand}

theorem ChecksList.head (h : ChecksList s t i ((ops, b, c) :: l) sources) (hb : b = true) (hp : s.poisonedSource t ops = none)
    (h30 : c ≠ 0x30) : TrapsAt s t i c 0 :=
  h c (checked_fails hb hp) h30

theorem ChecksList.tail (h : ChecksList s t i ((ops, b, c) :: l) sources) (hb : b = false) : ChecksList s t i l sources :=
  fun c' hc => h c' ((checked_passes hb).trans hc)

end

/-! Ports (R256). -/

section
variable {s : State} {v : View} {n : Nat} {send : Bool}

theorem portCheck_number (hn : 63 < n) : s.portCheck v n send = some 0x03 := if_pos hn

theorem portCheck_role (hn : n ≤ 63) (hr : ¬ ((s.port v.t.ctx v.t.ltn n).bound = true ∧ (s.port v.t.ctx v.t.ltn n).send = send)) :
    s.portCheck v n send = some 0x21 := (if_neg hn.not_gt).trans (if_neg hr)

theorem portCheck_bound (hn : n ≤ 63) (hb : (s.port v.t.ctx v.t.ltn n).bound = true) (hr : (s.port v.t.ctx v.t.ltn n).send = send) :
    s.portCheck v n send = none := (if_neg hn.not_gt).trans (if_pos ⟨hb, hr⟩)

end

/-- A send or a receive: it checks its port for the role, then the list `rest`. -/
structure PortAccess (s : State) (t : Threadlet) (i : Instr) (x : Operand) (send : Bool) (rest : List (List Operand × Bool × Nat))
    (sources : List Operand) : Prop where
  clean : s.poisonedSource t sources = none
  port : x ∈ sources
  checks : ChecksList s t i (s.portChecks (s.view t) x send ++ rest) sources

section
variable {s : State} {t : Threadlet} {i : Instr} {x : Operand} {send : Bool} {rest : List (List Operand × Bool × Nat)}
  {sources : List Operand} (h : PortAccess s t i x send rest sources)
include h

/-- Sources of the instruction are not poisoned. -/
theorem PortAccess.cleanOf {ops : List Operand} (ho : ops ⊆ sources) : s.poisonedSource t ops = none := poisonedSource_subset h.clean ho

theorem PortAccess.portTrap {c : Nat} (hc : s.portCheck (s.view t) (s.readOp (s.view t) x).toNat send = some c) (h30 : c ≠ 0x30) :
    TrapsAt s t i c 0 := by
  have hl := h.checks
  simp only [State.portChecks, hc] at hl
  exact hl.head rfl (h.cleanOf (by simpa using h.port)) h30

theorem PortAccess.number (hn : 63 < (s.readOp (s.view t) x).toNat) : TrapsAt s t i 0x03 0 := h.portTrap (portCheck_number hn) (by decide)

variable (hn : (s.readOp (s.view t) x).toNat ≤ 63)
include hn

theorem PortAccess.role (hr : ¬ ((s.port t.ctx t.ltn (s.readOp (s.view t) x).toNat).bound = true ∧
    (s.port t.ctx t.ltn (s.readOp (s.view t) x).toNat).send = send)) : TrapsAt s t i 0x21 0 :=
  h.portTrap (portCheck_role hn hr) (by decide)

/-- On a port bound in the role, the other checks decide. -/
theorem PortAccess.others (hb : (s.port t.ctx t.ltn (s.readOp (s.view t) x).toNat).bound = true)
    (hr : (s.port t.ctx t.ltn (s.readOp (s.view t) x).toNat).send = send) : ChecksList s t i rest sources := by
  have hl := h.checks
  have hc : s.portCheck (s.view t) (s.readOp (s.view t) x).toNat send = none := portCheck_bound hn hb hr
  simp only [State.portChecks, hc] at hl
  exact hl.tail rfl

end

/-! Words of the frame and blocks of the scratchpad (R256). -/

section
variable {s : State} {t : Threadlet} {i : Instr} {sources : List Operand} {y z : Operand} {w extra : Nat}

/-- A count outside 1 to 8, then words beyond the size class. -/
theorem ChecksList.words (h : ChecksList s t i (s.wordsChecks (s.view t) w z extra) sources) (hz : s.poisonedSource t [z] = none) :
    ((s.readOp (s.view t) z).toNat < 1 ∨ 8 < (s.readOp (s.view t) z).toNat → TrapsAt s t i 0x03 0) ∧
    (1 ≤ (s.readOp (s.view t) z).toNat → (s.readOp (s.view t) z).toNat ≤ 8 →
      frameWords ((s.frame t.ref).any (·.large)) < w + (s.readOp (s.view t) z).toNat + extra → TrapsAt s t i 0x04 0) :=
  ⟨fun hk => h.head (decide_eq_true hk) hz (by decide),
    fun h1 h8 hf => (h.tail (decide_eq_false (by omega))).head (decide_eq_true hf) hz (by decide)⟩

/-- A size outside 64 to 4,096 or no multiple of 64, then a misaligned address, then bytes out of reach. -/
theorem ChecksList.block (h : ChecksList s t i (s.blockChecks (s.view t) y z) sources) (hyz : s.poisonedSource t [y, z] = none) :
    ((s.readOp (s.view t) z).toNat < 64 ∨ 4096 < (s.readOp (s.view t) z).toNat ∨ (s.readOp (s.view t) z).toNat % 64 ≠ 0 →
      TrapsAt s t i 0x03 0) ∧
    (64 ≤ (s.readOp (s.view t) z).toNat → (s.readOp (s.view t) z).toNat ≤ 4096 → (s.readOp (s.view t) z).toNat % 64 = 0 →
      ((s.readOp (s.view t) y).toNat % 64 ≠ 0 → TrapsAt s t i 0x06 0) ∧
      ((s.readOp (s.view t) y).toNat % 64 = 0 →
        (∃ b < (s.readOp (s.view t) z).toNat, s.barred t.ctx t.ltn ((s.readOp (s.view t) y).toNat + b)) → TrapsAt s t i 0x05 0)) := by
  refine ⟨fun hk => h.head (decide_eq_true hk) (poisonedSource_subset hyz (by simp)) (by decide), fun hlo hhi hmul => ?_⟩
  have hsize := h.tail (decide_eq_false (by omega))
  refine ⟨fun ha => hsize.head (decide_eq_true ha) (poisonedSource_subset hyz (by simp)) (by decide), fun ha hout => ?_⟩
  refine (hsize.tail (decide_eq_false (not_not.mpr ha))).head ?_ hyz (by decide)
  rw [view_t, (rangeOk_false_iff s t.ctx t.ltn _ _).mpr hout]
  rfl

end

/-! Sends and receives. -/

section
variable {s : State} {t : Threadlet} {i : Instr} {g : Guard} {rel : Bool} {x y z : Operand} {q : Target} (h : Executes s t i)
include h

theorem send_words_access (hi : i = .chsend g .words rel x y z q ∨ i = .chsendm g .words rel x y z q) :
    PortAccess s t i x true (s.wordsChecks (s.view t) (wordIndex y) z 0) [x, z] := by
  rcases hi with rfl | rfl
  · exact ⟨plainSources_clean h rfl, by simp, fun c hc h30 => exec_of_trap h rfl (by rw [State.sendBody, hc]; rfl) h30⟩
  · exact ⟨plainSources_clean h rfl, by simp, fun c hc h30 => exec_of_trap h rfl (by rw [State.sendBody, hc]; rfl) h30⟩

theorem send_block_access (hi : i = .chsend g .spad rel x y z q ∨ i = .chsendm g .spad rel x y z q) :
    PortAccess s t i x true (s.blockChecks (s.view t) y z) [x, y, z] := by
  rcases hi with rfl | rfl
  · exact ⟨plainSources_clean h rfl, by simp, checksList_of_getD h rfl rfl⟩
  · exact ⟨plainSources_clean h rfl, by simp, checksList_of_getD h rfl rfl⟩

theorem recv_words_access (hi : i = .chrecv g .words x y z q) :
    PortAccess s t i x false (s.wordsChecks (s.view t) (wordIndex y) z 0) [x, z] := by
  subst hi
  exact ⟨plainSources_clean h rfl, by simp, checksList_of_getD h rfl rfl⟩

theorem recv_block_access (hi : i = .chrecv g .spad x y z q) : PortAccess s t i x false (s.blockChecks (s.view t) y z) [x, y, z] := by
  subst hi
  exact ⟨plainSources_clean h rfl, by simp, checksList_of_getD h rfl rfl⟩

theorem recv_latch_access (hi : i = .chrecv g .latch x y z q) : PortAccess s t i x false [] [x] := by
  subst hi
  exact ⟨plainSources_clean h rfl, by simp, checksList_of_getD h rfl rfl⟩

/-- Every send checks its port first. -/
theorem send_access {sk : SendKind} (hi : i = .chsend g sk rel x y z q ∨ i = .chsendm g sk rel x y z q) :
    ∃ rest sources, PortAccess s t i x true rest sources := by
  cases sk with
  | words => exact ⟨_, _, send_words_access h hi⟩
  | spad => exact ⟨_, _, send_block_access h hi⟩

/-- Every receive checks its port first. -/
theorem recv_access {rk : RecvKind} (hi : i = .chrecv g rk x y z q) : ∃ rest sources, PortAccess s t i x false rest sources := by
  cases rk with
  | words => exact ⟨_, _, recv_words_access h hi⟩
  | spad => exact ⟨_, _, recv_block_access h hi⟩
  | latch => exact ⟨_, _, recv_latch_access h hi⟩

end

/-- A send of words of which the first poisoned one is word j of the run (R415). -/
theorem send_words_poisoned {s : State} {t : Threadlet} {i : Instr} {g : Guard} {rel : Bool} {x y z : Operand} {q : Target} {f : Frame} {j : Nat}
    (h : Executes s t i) (hi : i = .chsend g .words rel x y z q ∨ i = .chsendm g .words rel x y z q)
    (hc : s.checked (s.view t) (s.portChecks (s.view t) x true ++ s.wordsChecks (s.view t) (wordIndex y) z 0) [x, z] = none)
    (hf : (s.frame t.ref).map t.asIssued = some f) (hj : j < (s.readOp (s.view t) z).toNat)
    (hbad : f.poison.contains (wordIndex y + j) = true) (hfirst : ∀ m < j, f.poison.contains (wordIndex y + m) = false) :
    TrapsAt s t i 0x12 (64 + 8 * (wordIndex y + j)) := by
  have hfind : ((List.range (s.readOp (s.view t) z).toNat).find? fun k => f.poison.contains (wordIndex y + k)) = some j :=
    List.find?_range_eq_some.mpr ⟨hbad, List.mem_range.mpr hj, fun m hm => by rw [hfirst m hm]; rfl⟩
  have hbody : ∀ iword multi, s.sendBody (s.view t) iword .words rel multi x y z q =
      .trap 0x12 0 (BitVec.ofNat 64 (64 + 8 * (wordIndex y + j))) 0 := by
    intro iword multi
    simp only [State.sendBody, hc, view_t, hf, hfind]
    rfl
  rcases hi with rfl | rfl
  · exact exec_of_trap h rfl (hbody _ _) (by decide)
  · exact exec_of_trap h rfl (hbody _ _) (by decide)

/-- The checks of a send of words pass on a port bound as SEND, for 1 to 8 words within the size class. -/
theorem send_words_checked {s : State} {t : Threadlet} {x z : Operand} {w : Nat} (hclean : s.poisonedSource t [x, z] = none)
    (hn : (s.readOp (s.view t) x).toNat ≤ 63) (hb : (s.port t.ctx t.ltn (s.readOp (s.view t) x).toNat).bound = true)
    (hr : (s.port t.ctx t.ltn (s.readOp (s.view t) x).toNat).send = true) (h1 : 1 ≤ (s.readOp (s.view t) z).toNat)
    (h8 : (s.readOp (s.view t) z).toNat ≤ 8) (hf : w + (s.readOp (s.view t) z).toNat ≤ frameWords ((s.frame t.ref).any (·.large))) :
    s.checked (s.view t) (s.portChecks (s.view t) x true ++ s.wordsChecks (s.view t) w z 0) [x, z] = none := by
  have hc : s.portCheck (s.view t) (s.readOp (s.view t) x).toNat true = none := portCheck_bound hn hb hr
  simp only [State.portChecks, hc, State.wordsChecks, List.singleton_append]
  rw [checked_passes (b := (none : Option Nat).isSome) rfl, checked_passes (decide_eq_false (by omega)),
    checked_passes (decide_eq_false (by rw [view_t]; omega)), checked_nil, view_t,
    (poisonTrap_none_iff s t _).mpr hclean]

/-! CHTEST, CHCAN and CHSEL. -/

section
variable {s : State} {t : Threadlet} {i : Instr} {g : Guard} {d x y z : Operand} {q : Target} (h : Executes s t i)
include h

/-- CHCAN and CHTEST check the number of their port, and that it is bound (R256, R258). -/
theorem port_query_checks (hi : i = .chcan g x ∨ i = .chtest g d x q) :
    (63 < (s.readOp (s.view t) x).toNat → TrapsAt s t i 0x03 0) ∧
    ((s.readOp (s.view t) x).toNat ≤ 63 → (s.port t.ctx t.ltn (s.readOp (s.view t) x).toNat).bound = false → TrapsAt s t i 0x21 0) := by
  have hunbound : (s.port t.ctx t.ltn (s.readOp (s.view t) x).toNat).bound = false →
      (!(s.port t.ctx t.ltn (s.readOp (s.view t) x).toNat).bound) = true := fun hb => by rw [hb]; rfl
  rcases hi with rfl | rfl
  · exact ⟨fun hn => exec_of_trap h rfl (if_pos hn) (by decide),
      fun hn hb => exec_of_trap h rfl ((if_neg hn.not_gt).trans (if_pos (hunbound hb))) (by decide)⟩
  · exact ⟨fun hn => exec_of_trap h rfl (if_pos hn) (by decide),
      fun hn hb => exec_of_trap h rfl ((if_neg hn.not_gt).trans (if_pos (hunbound hb))) (by decide)⟩

end

/-- The ports of CHSEL's set. -/
def State.selected (s : State) (v : View) (x y : Operand) : List Nat := (List.range 64).filter fun j => (s.readOp v x &&& s.readOp v y).getLsbD j

theorem mem_selected {s : State} {v : View} {x y : Operand} {j : Nat} : j ∈ s.selected v x y ↔
    j < 64 ∧ (s.readOp v x).getLsbD j = true ∧ (s.readOp v y).getLsbD j = true := by
  simp [State.selected]

/-- The first failed check of a port of the set. -/
def State.selectBad (s : State) (v : View) (x y : Operand) : Option Nat := (s.selected v x y).findSome? fun p => s.portCheck v p false

section
variable {s : State} {t : Threadlet} {g : Guard} {rot : Bool} {d x y z : Operand} {q : Target}

theorem selectBad_some {j : Nat} (hj : j ∈ s.selected (s.view t) x y)
    (hr : ¬ ((s.port t.ctx t.ltn j).bound = true ∧ (s.port t.ctx t.ltn j).send = false)) : s.selectBad (s.view t) x y = some 0x21 := by
  have hcause : ∀ p ∈ s.selected (s.view t) x y, s.portCheck (s.view t) p false = none ∨ s.portCheck (s.view t) p false = some 0x21 := by
    intro p hp
    have hp63 : p ≤ 63 := Nat.le_of_lt_succ (mem_selected.mp hp).1
    rw [State.portCheck, if_neg hp63.not_gt]
    split
    · exact .inl rfl
    · exact .inr rfl
  have hbad : s.portCheck (s.view t) j false = some 0x21 := portCheck_role (Nat.le_of_lt_succ (mem_selected.mp hj).1) hr
  cases hb : s.selectBad (s.view t) x y with
  | none =>
    have := List.findSome?_eq_none_iff.mp hb j hj
    rw [hbad] at this
    cases this
  | some c =>
    obtain ⟨p, hp, hc⟩ := List.exists_of_findSome?_eq_some hb
    exact hc.symm.trans ((hcause p hp).resolve_left (by rw [hc]; exact Option.some_ne_none c))

theorem selectBad_none (hr : ∀ j ∈ s.selected (s.view t) x y, (s.port t.ctx t.ltn j).bound = true ∧ (s.port t.ctx t.ltn j).send = false) :
    s.selectBad (s.view t) x y = none :=
  List.findSome?_eq_none_iff.mpr fun j hj => portCheck_bound (Nat.le_of_lt_succ (mem_selected.mp hj).1) (hr j hj).1 (hr j hj).2

/-- CHSEL checks the ports of its set, then its count and its words (R249, R256). -/
theorem chsel_checks (h : Executes s t (.chsel g rot d x y z q)) : ChecksList s t (.chsel g rot d x y z q)
    (([x, y], (s.selectBad (s.view t) x y).isSome, (s.selectBad (s.view t) x y).getD 0) :: s.wordsChecks (s.view t) (wordIndex d) z 1) [x, y, z] :=
  checksList_of_getD h rfl rfl

end

/-! CHBIND (R238, R239). -/

/-- The bits of a word that a field of zero covers. -/
theorem getLsbD_of_field {w : Word} {k c j : Nat} (h : w.toNat / 2 ^ k % 2 ^ c = 0) (hk : k ≤ j) (hc : j < k + c) : w.getLsbD j = false := by
  have hbit : (w.toNat / 2 ^ k % 2 ^ c).testBit (j - k) = false := by rw [h, Nat.zero_testBit]
  rwa [Nat.testBit_mod_two_pow, Nat.testBit_div_two_pow, decide_eq_true (by omega : j - k < c), Bool.true_and,
    Nat.sub_add_cancel hk] at hbit

/-- The MBZ bits of a bind word by their mask. -/
theorem mbzBits_of_bindMbz {w : Word} (h : bindMbz w = true) : w &&& 0x00000000C0C000FC = 0 := by
  obtain ⟨hhigh, hmid, hlow⟩ := of_decide_eq_true h
  have hmask : ∀ j < 64, (0x00000000C0C000FC : Word).getLsbD j = true → 2 ≤ j ∧ j < 8 ∨ 22 ≤ j ∧ j < 24 ∨ 30 ≤ j ∧ j < 32 := by decide
  refine BitVec.eq_of_getLsbD_eq fun j hj => ?_
  rw [BitVec.getLsbD_and]
  cases hm : (0x00000000C0C000FC : Word).getLsbD j with
  | false => simp
  | true =>
    have hw : w.getLsbD j = false := by
      rcases hmask j hj hm with ⟨h0, h1⟩ | ⟨h0, h1⟩ | ⟨h0, h1⟩
      · exact getLsbD_of_field (k := 2) (c := 6) hlow h0 h1
      · exact getLsbD_of_field (k := 22) (c := 2) hmid h0 h1
      · exact getLsbD_of_field (k := 30) (c := 2) hhigh h0 h1
    rw [hw]
    simp

section
variable {s : State} {t : Threadlet} {w : Word} (h : s.bindAllowed (s.view t) w = true)
include h

/-- A bind word that is allowed has its reserved fields zero and names an operation. -/
theorem bindAllowed_fields : bindMbz w = true ∧ bindSltn w = 0 ∧ bindSpkg w = 0 ∧ bindOp w ≠ 3 := by
  simp only [State.bindAllowed, Bool.and_eq_true, decide_eq_true_eq] at h
  obtain ⟨⟨⟨hm, hl⟩, hp⟩, ho⟩ := h
  exact ⟨hm, hl, hp, fun h3 => by simp [h3] at ho⟩

/-- OP 0 wants an UNBOUND port. -/
theorem bindAllowed_bind (hop : bindOp w = 0) : (s.port t.ctx t.ltn (bindSport w)).bound = false := by
  simp [State.bindAllowed, State.canBind, hop] at h
  grind

/-- OP 1 and 2 want an idle SEND port. -/
theorem bindAllowed_group (hop : bindOp w = 1 ∨ bindOp w = 2) : (s.port t.ctx t.ltn (bindSport w)).bound = true ∧
    (s.port t.ctx t.ltn (bindSport w)).send = true ∧ (s.port t.ctx t.ltn (bindSport w)).op = none := by
  rcases hop with hop | hop
  · simp [State.bindAllowed, hop] at h
    grind
  · simp [State.bindAllowed, hop] at h
    grind

/-- OP 1 wants room in the group. -/
theorem bindAllowed_room (hop : bindOp w = 1) : (s.port t.ctx t.ltn (bindSport w)).members.length < 16 := by
  simp [State.bindAllowed, hop] at h
  grind

/-- OP 0 and 1 want another tile of the rectangle. -/
theorem bindAllowed_tile (hop : bindOp w = 0 ∨ bindOp w = 1) : bindRltn w < ((s.kernel t.ctx).map (·.area)).getD 0 ∧
    ¬ (bindRltn w = t.ltn ∧ bindRpkg w = s.pkgSelf t.ctx) := by
  rcases hop with hop | hop
  · simp [State.bindAllowed, hop] at h
    grind
  · simp [State.bindAllowed, hop] at h
    grind

end

/-- The request of an instruction that makes no global access of its own, as its body makes it. -/
theorem newReq_eq_ask (s : State) (t : Threadlet) (i : Instr) (k : ReqKind) (q : Target) (word : Nat) :
    s.newReq (s.view t) (firstWord i) (s.destOf (s.view t) q word) k 0 .relaxed .package false = s.ask t i k q word := by
  cases q <;> rfl

/-- The ports that a CHBIND asks. -/
def State.bindDests (s : State) (t : Threadlet) (w : Word) : List PortRef :=
  if bindOp w = 2 then (s.port t.ctx t.ltn (bindSport w)).members else [⟨bindRpkg w, bindRltn w, bindRport w⟩]

/-- A CHBIND that is not allowed is answered REFUSED. -/
theorem chbind_refused {s : State} {t : Threadlet} {g : Guard} {x : Operand} {q : Target} (h : Executes s t (.chbind g x q))
    (hno : s.bindAllowed (s.view t) (s.readOp (s.view t) x) = false) : ∃ k, exec (.chbind g x q) s = .next
      (((s.addReq (s.ask t (.chbind g x q) (.chbind (s.readOp (s.view t) x) k) q 0xFF)).answer s.nextId .refused []).retired
        s.cur t.pc (.chbind g x q) t 0) := by
  refine ⟨(s.bindDests t (s.readOp (s.view t) x)).length, ?_⟩
  rw [← newReq_eq_ask]
  exact exec_of_retire h rfl (congrArg (retire · t) (if_neg (Bool.eq_false_iff.mp hno)))

/-! Anvil (R277) and the keys of Pigeonhole (R315). -/

/-- Without the grant, every list of Anvil's checks comes to the trap 0x03. -/
theorem anvilCheck_noGrant {s : State} {v : View} {l : List (List Operand × Bool × Nat)} {sources : List Operand}
    (hg : s.anvilGrant v.t.ctx = false) : s.anvilCheck v l sources = some (trapWith 0x03) :=
  checked_fails (by rw [hg]; rfl) rfl

theorem anvil_noGrant {s : State} {t : Threadlet} {i : Instr} (h : Executes s t i) (hi : (anvilAsk s (s.view t) i).isSome = true)
    (hg : s.anvilGrant t.ctx = false) : TrapsAt s t i 0x03 0 := by
  have hask : ∀ (l : List (List Operand × Bool × Nat)) (sources : List Operand) (r : Res),
      (s.anvilCheck (s.view t) l sources).getD r = trapWith 0x03 := fun l sources r => by
    rw [anvilCheck_noGrant hg]
    rfl
  cases i
  case mcfg => exact exec_of_trap h rfl (hask _ _ _) (by decide)
  case mlda => exact exec_of_trap h rfl (hask _ _ _) (by decide)
  case mldb => exact exec_of_trap h rfl (hask _ _ _) (by decide)
  case mrun => exact exec_of_trap h rfl (hask _ _ _) (by decide)
  case mzero => exact exec_of_trap h rfl (hask _ _ _) (by decide)
  case mdrn => exact exec_of_trap h rfl (hask _ _ _) (by decide)
  case msteer => exact exec_of_trap h rfl (hask _ _ _) (by decide)
  case mstat => exact exec_of_trap h rfl (hask _ _ _) (by decide)
  all_goals exact absurd hi Bool.false_ne_true

/-- The checks of a key instruction: its table, its keys, its result words. -/
def State.keyChecks (s : State) (v : View) (g : Guard) (vec : Bool) (d x y : Operand) (val : Nat → Nat) (q : Target) :
    List (List Operand × Bool × Nat) :=
  [([x], decide (3 < (s.readOp v x).toNat), 0x03), ([y], (s.keyLanes v g vec y val).any fun e => e.key = emptyKey, 0x19),
    ([], !s.resultFits v d q (if vec then 9 else 2), 0x04)]

section
variable {s : State} {t : Threadlet} {g : Guard} {vec : Bool} {ak : AccKind} {d x y z : Operand} {q : Target} {i : Instr}

/-- A key instruction makes its checks, and reads X and Y before them where Y is a scalar. -/
theorem key_checks (h : Executes s t i)
    (hi : i = .phins g vec d x y z q ∨ i = .phprb g vec d x y q ∨ i = .phdel g vec d x y q ∨ i = .phacc g vec ak d x y z q) :
    ∃ val sources, ChecksList s t i (s.keyChecks (s.view t) g vec d x y val q) sources ∧
      s.poisonedSource t [x] = none ∧ s.poisonedSource t [y] = none := by
  have hxy : ∀ {l l' : List Operand}, s.poisonedSource t l = none → l = x :: y :: l' →
      s.poisonedSource t [x] = none ∧ s.poisonedSource t [y] = none := fun hs hl =>
    ⟨poisonedSource_subset hs (by simp [hl]), poisonedSource_subset hs (by simp [hl])⟩
  rcases hi with rfl | rfl | rfl | rfl
  · exact ⟨_, _, checksList_of_getD h rfl rfl, hxy (l' := [z]) (plainSources_clean h rfl) (by cases vec <;> rfl)⟩
  · exact ⟨_, _, checksList_of_getD h rfl rfl, hxy (l' := []) (plainSources_clean h rfl) (by cases vec <;> rfl)⟩
  · exact ⟨_, _, checksList_of_getD h rfl rfl, hxy (l' := []) (plainSources_clean h rfl) (by cases vec <;> rfl)⟩
  · exact ⟨_, _, checksList_of_getD h rfl rfl, hxy (l' := [z]) (plainSources_clean h rfl) (by cases vec <;> rfl)⟩

/-- Some active lane holds the empty key. -/
theorem keyLanes_any_iff (val : Nat → Nat) : ((s.keyLanes (s.view t) g vec y val).any fun e => e.key = emptyKey) = true ↔
    if vec then ∃ j < 8, (t.guardMask g).getLsbD j = true ∧ lane (t.vec y) 64 j = emptyKey else (s.readOp (s.view t) y).toNat = emptyKey := by
  cases vec with
  | false => simp [State.keyLanes]
  | true => simp [State.keyLanes, active]

/-- With a slot target, result words beyond the size class. -/
theorem resultFits_false_iff (n : Nat) : (!s.resultFits (s.view t) d q n) = true ↔
    (∃ m, q = .slot m) ∧ frameWords ((s.frame t.ref).any (·.large)) < wordIndex d + n := by
  cases q with
  | slot m => 
    change (!decide (wordIndex d + n ≤ frameWords ((s.frame t.ref).any (·.large)))) = true ↔ _
    simp
  | nothing => simp [State.resultFits]
  | reg m => simp [State.resultFits]

end

/-! The obligation's clauses. -/

section
variable {s : State} {t : Threadlet} {g : Guard} {sk : SendKind} {rk : RecvKind} {rel vec : Bool} {ak : AccKind} {d x y z : Operand} {q : Target}
  {i : Instr} (h : Executes s t i)
include h

/-- Every instruction on one port checks that its number is at most 63 and that it is bound. -/
theorem port_checks (hi : i = .chsend g sk rel x y z q ∨ i = .chsendm g sk rel x y z q ∨ i = .chrecv g rk x y z q ∨ i = .chcan g x ∨
    i = .chtest g d x q) :
    (63 < (s.readOp (s.view t) x).toNat → TrapsAt s t i 0x03 0) ∧
    ((s.readOp (s.view t) x).toNat ≤ 63 → (s.port t.ctx t.ltn (s.readOp (s.view t) x).toNat).bound = false → TrapsAt s t i 0x21 0) := by
  rw [← or_assoc] at hi
  rcases hi with hsend | hrecv | hquery
  · obtain ⟨rest, sources, ha⟩ := send_access h hsend
    exact ⟨ha.number, fun hn hb => ha.role hn fun hr => by simp [hb] at hr⟩
  · obtain ⟨rest, sources, ha⟩ := recv_access h hrecv
    exact ⟨ha.number, fun hn hb => ha.role hn fun hr => by simp [hb] at hr⟩
  · exact port_query_checks h hquery

/-- Sends and receives of words on a port bound in the role check their count and their words. -/
theorem words_checks (hn : (s.readOp (s.view t) x).toNat ≤ 63) (hb : (s.port t.ctx t.ltn (s.readOp (s.view t) x).toNat).bound = true)
    (hi : (i = .chsend g .words rel x y z q ∨ i = .chsendm g .words rel x y z q) ∧
        (s.port t.ctx t.ltn (s.readOp (s.view t) x).toNat).send = true ∨
      i = .chrecv g .words x y z q ∧ (s.port t.ctx t.ltn (s.readOp (s.view t) x).toNat).send = false) :
    ChecksList s t i (s.wordsChecks (s.view t) (wordIndex y) z 0) [x, z] ∧ s.poisonedSource t [z] = none := by
  rcases hi with ⟨hi, hr⟩ | ⟨hi, hr⟩
  · have ha := send_words_access h hi
    exact ⟨ha.others hn hb hr, ha.cleanOf (by simp)⟩
  · have ha := recv_words_access h hi
    exact ⟨ha.others hn hb hr, ha.cleanOf (by simp)⟩

/-- Sends and receives of blocks on a port bound in the role check their block. -/
theorem block_checks (hn : (s.readOp (s.view t) x).toNat ≤ 63) (hb : (s.port t.ctx t.ltn (s.readOp (s.view t) x).toNat).bound = true)
    (hi : (i = .chsend g .spad rel x y z q ∨ i = .chsendm g .spad rel x y z q) ∧
        (s.port t.ctx t.ltn (s.readOp (s.view t) x).toNat).send = true ∨
      i = .chrecv g .spad x y z q ∧ (s.port t.ctx t.ltn (s.readOp (s.view t) x).toNat).send = false) :
    ChecksList s t i (s.blockChecks (s.view t) y z) [x, y, z] ∧ s.poisonedSource t [y, z] = none := by
  rcases hi with ⟨hi, hr⟩ | ⟨hi, hr⟩
  · have ha := send_block_access h hi
    exact ⟨ha.others hn hb hr, ha.cleanOf (by simp)⟩
  · have ha := recv_block_access h hi
    exact ⟨ha.others hn hb hr, ha.cleanOf (by simp)⟩

/-- Key instructions: the table's number, then the empty key, then result words beyond the size class. -/
theorem key_traps (hi : i = .phins g vec d x y z q ∨ i = .phprb g vec d x y q ∨ i = .phdel g vec d x y q ∨ i = .phacc g vec ak d x y z q)
    {empty : Prop} (hempty : empty = if vec then ∃ j < 8, (t.guardMask g).getLsbD j = true ∧ lane (t.vec y) 64 j = emptyKey
      else (s.readOp (s.view t) y).toNat = emptyKey) :
    (3 < (s.readOp (s.view t) x).toNat → TrapsAt s t i 0x03 0) ∧
    ((s.readOp (s.view t) x).toNat ≤ 3 → empty → TrapsAt s t i 0x19 0) ∧
    ((s.readOp (s.view t) x).toNat ≤ 3 → ¬ empty →
      (∃ m, q = .slot m) ∧ frameWords ((s.frame t.ref).any (·.large)) < wordIndex d + (if vec then 9 else 2) → TrapsAt s t i 0x04 0) := by
  obtain ⟨val, sources, hl, hx, hy⟩ := key_checks h hi
  have hany := (keyLanes_any_iff (s := s) (t := t) (g := g) (vec := vec) (y := y) val).trans (iff_of_eq hempty.symm)
  refine ⟨fun hn => hl.head (decide_eq_true hn) hx (by decide), fun hn he => ?_, fun hn he hshort => ?_⟩
  · exact (hl.tail (decide_eq_false hn.not_gt)).head (hany.mpr he) hy (by decide)
  · exact ((hl.tail (decide_eq_false hn.not_gt)).tail (Bool.eq_false_iff.mpr fun ht => he (hany.mp ht))).head
      ((resultFits_false_iff _).mpr hshort) rfl (by decide)

end

/-- CHSEL: a port of its set that is not bound as RECV, then its count, then its words. -/
theorem chsel_traps {s : State} {t : Threadlet} {g : Guard} {rot : Bool} {d x y z : Operand} {q : Target} {i : Instr} (h : Executes s t i)
    (hi : i = .chsel g rot d x y z q) :
    (∀ j ∈ s.selected (s.view t) x y, ¬ ((s.port t.ctx t.ltn j).bound = true ∧ (s.port t.ctx t.ltn j).send = false) → TrapsAt s t i 0x21 0) ∧
    ((∀ j ∈ s.selected (s.view t) x y, (s.port t.ctx t.ltn j).bound = true ∧ (s.port t.ctx t.ltn j).send = false) →
      ((s.readOp (s.view t) z).toNat < 1 ∨ 8 < (s.readOp (s.view t) z).toNat → TrapsAt s t i 0x03 0) ∧
      (1 ≤ (s.readOp (s.view t) z).toNat → (s.readOp (s.view t) z).toNat ≤ 8 →
        frameWords ((s.frame t.ref).any (·.large)) < wordIndex d + (s.readOp (s.view t) z).toNat + 1 → TrapsAt s t i 0x04 0)) := by
  subst hi
  have hclean : s.poisonedSource t [x, y, z] = none := plainSources_clean h rfl
  have hl := chsel_checks h
  refine ⟨fun j hj hr => ?_, fun hgood => ?_⟩
  · rw [selectBad_some hj hr] at hl
    exact hl.head rfl (poisonedSource_subset hclean (by simp)) (by decide)
  · rw [selectBad_none hgood] at hl
    exact (hl.tail rfl).words (poisonedSource_subset hclean (by simp))

/-- What is not allowed of a bind word, its sending port and its tile. -/
theorem bindAllowed_false {s : State} {t : Threadlet} {w : Word}
    (hbad : (w &&& 0x00000000C0C000FC ≠ 0 ∨ bindSltn w ≠ 0 ∨ bindSpkg w ≠ 0 ∨ bindOp w = 3) ∨
      (bindOp w = 0 ∧ (s.port t.ctx t.ltn (bindSport w)).bound = true ∨
        (bindOp w = 1 ∨ bindOp w = 2) ∧ ((s.port t.ctx t.ltn (bindSport w)).bound = false ∨
          (s.port t.ctx t.ltn (bindSport w)).send = false ∨ (s.port t.ctx t.ltn (bindSport w)).op ≠ none) ∨
        bindOp w = 1 ∧ 16 ≤ (s.port t.ctx t.ltn (bindSport w)).members.length) ∨
      (bindOp w = 0 ∨ bindOp w = 1) ∧ (((s.kernel t.ctx).map (·.area)).getD 0 ≤ bindRltn w ∨
        bindRltn w = t.ltn ∧ bindRpkg w = s.pkgSelf t.ctx)) : s.bindAllowed (s.view t) w = false := by
  refine Bool.eq_false_iff.mpr fun h => ?_
  rcases hbad with hfields | (⟨hop, hb⟩ | ⟨hop, hport⟩ | ⟨hop, hroom⟩) | ⟨hop, htile⟩
  · obtain ⟨hmbz, hltn, hpkg, hop⟩ := bindAllowed_fields h
    have hmask := mbzBits_of_bindMbz hmbz
    tauto
  · exact Bool.false_ne_true ((bindAllowed_bind h hop).symm.trans hb)
  · obtain ⟨hb, hs, hidle⟩ := bindAllowed_group h hop
    simp [hb, hs, hidle] at hport
  · exact (bindAllowed_room h hop).not_ge hroom
  · obtain ⟨hin, hother⟩ := bindAllowed_tile h hop
    exact htile.elim hin.not_ge hother

/-- Settles O36: each instruction's body is a list of checks of which the first that fails is the trap, in the order of the spec; a CHBIND
is refused where a conjunct of what allows it fails. -/
theorem engineChecks : Obligations.EngineChecks := by
  unfold Obligations.EngineChecks
  refine ⟨fun s t g sk rk rel d x y z q i h => ?_, fun s t i h hi hg => anvil_noGrant h hi hg,
    fun s t g vec ak d x y z q i h hi => key_traps h hi rfl⟩
  refine ⟨port_checks h, fun hn hi hr => ?_, fun hn hi hr => ?_, fun rot hi => ?_, fun hi => ?_, fun hn hb => ⟨fun hi => ?_, ?_, fun hi => ?_⟩⟩
  · obtain ⟨rest, sources, ha⟩ := send_access h hi
    exact ha.role hn fun hrole => Bool.false_ne_true (hr.symm.trans hrole.2)
  · obtain ⟨rest, sources, ha⟩ := recv_access h hi
    exact ha.role hn fun hrole => Bool.false_ne_true (hrole.2.symm.trans hr)
  · obtain ⟨hport, hwords⟩ := chsel_traps h hi
    have hset : ∀ {P : Nat → Prop}, (∀ j < 64, (s.readOp (s.view t) x).getLsbD j = true ∧ (s.readOp (s.view t) y).getLsbD j = true → P j) →
        ∀ j ∈ s.selected (s.view t) x y, P j := fun hp j hj => hp j (mem_selected.mp hj).1 (mem_selected.mp hj).2
    exact ⟨fun j hj hin => hport j (mem_selected.mpr ⟨hj, hin⟩), fun hgood => (hwords (hset hgood)).1, fun hgood => (hwords (hset hgood)).2⟩
  · subst hi
    exact fun hbad => chbind_refused h (bindAllowed_false hbad)
  · obtain ⟨hl, hz⟩ := words_checks h hn hb hi
    exact hl.words hz
  · intro f j hi hr h1 h8 hfits hf hj hbad hfirst
    have hchecked := send_words_checked (send_words_access h hi).clean hn hb hr h1 h8 hfits
    exact send_words_poisoned h hi hchecked hf hj hbad hfirst
  · obtain ⟨hl, hyz⟩ := block_checks h hn hb hi
    exact hl.block hyz

end Sys2Proof.Machine
end

section
/-! PROOFS. Signals accepted at a resident tile (R144, R146 to R148, R152; O43): the datum, the count, and what a slot that is due does. -/

namespace Sys2Proof.Machine

/-- A frame that is written stays in its part, which ends no sooner. -/
@[simp] theorem State.setFrame_ended (s : State) (r : FrameRef) (f : Frame) :
    ((s.setFrame r f).part r.ctx r.ltn).ended = (s.part r.ctx r.ltn).ended := by
  simp [State.setFrame, State.setPartCore, Part.setCore]

/-! ## The datum (R146) -/

/-- Frame g is f but for its words with their marks, and for the state of its write-out. -/
def Frame.SameButWords (f g : Frame) : Prop := g = { f with words := g.words, poison := g.poison, tch := g.tch, moving := g.moving }

theorem Frame.SameButWords.refl (f : Frame) : f.SameButWords f := rfl

theorem Frame.SameButWords.trans {f g h : Frame} (hfg : f.SameButWords g) (hgh : g.SameButWords h) : f.SameButWords h := by
  unfold Frame.SameButWords at hgh hfg ⊢
  rw [hgh, hfg]

/-- One word of a datum put into a frame: a word that is not given leaves it. -/
def Frame.putPiece (w : Nat) (f : Frame) (e : Option Word × Nat) : Frame :=
  match e.1 with
  | some x => f.setWord (w + e.2) x
  | none => f

/-- A datum's words from a number on put into a frame from word w on. -/
def Frame.putFrom (f : Frame) (w : Nat) (datum : Datum) (k : Nat) : Frame := (datum.zipIdx k).foldl (Frame.putPiece w) f

section
variable (f : Frame) (w : Nat)

theorem Frame.putFrom_cons (x : Option Word) (datum : Datum) (k : Nat) :
    f.putFrom w (x :: datum) k = (f.putPiece w (x, k)).putFrom w datum (k + 1) := rfl

theorem Frame.putPiece_sameButWords (e : Option Word × Nat) : f.SameButWords (f.putPiece w e) := by
  obtain ⟨_ | x, k⟩ := e <;> rfl

theorem Frame.putFrom_sameButWords (datum : Datum) (k : Nat) : f.SameButWords (f.putFrom w datum k) := by
  induction datum generalizing f k with
  | nil => rfl
  | cons x datum ih => exact (f.putPiece_sameButWords w (x, k)).trans (ih _ (k + 1))

theorem Frame.word_putPiece (x : Option Word) (k i : Nat) :
    (f.putPiece w (x, k)).word i = if i = w + k then x.getD (f.word i) else f.word i := by
  cases x with
  | none => exact (ite_self _).symm
  | some x => exact f.word_setWord i (w + k) x

/-- A word reads what the datum gives for it, and else what it read. -/
theorem Frame.word_putFrom (datum : Datum) (k i : Nat) :
    (f.putFrom w datum k).word i = if w + k ≤ i then (datum[i - (w + k)]?.join).getD (f.word i) else f.word i := by
  induction datum generalizing f k with
  | nil => exact (ite_self _).symm
  | cons x datum ih =>
    rw [putFrom_cons, ih, word_putPiece]
    rcases Nat.lt_trichotomy i (w + k) with hlt | rfl | hgt
    · rw [if_neg (by omega), if_neg (by omega), if_neg (by omega)]
    · rw [if_neg (by omega), if_pos rfl, if_pos (Nat.le_refl _), Nat.sub_self]
      rfl
    · obtain ⟨m, rfl⟩ := Nat.exists_eq_add_of_lt hgt
      rw [if_pos (by omega), if_neg (by omega), if_pos (by omega), show w + k + m + 1 - (w + (k + 1)) = m by omega,
        show w + k + m + 1 - (w + k) = m + 1 by omega, List.getElem?_cons_succ]

end

section
variable {f : Frame} {w : Nat} {datum : Datum}

/-- A word that the datum gives. -/
theorem Frame.word_putFrom_given {j : Nat} {x : Word} (h : datum[j]? = some (some x)) : (f.putFrom w datum 0).word (w + j) = x := by
  rw [word_putFrom, Nat.add_zero, if_pos (Nat.le_add_right w j), Nat.add_sub_cancel_left, h]
  rfl

/-- A word that the datum does not give. -/
theorem Frame.word_putFrom_other {i : Nat} (h : ∀ j x, datum[j]? = some (some x) → i ≠ w + j) : (f.putFrom w datum 0).word i = f.word i := by
  rw [word_putFrom, Nat.add_zero]
  split
  case isFalse => rfl
  case isTrue hi =>
    rcases hd : datum[i - w]?.join with _ | x
    · rfl
    · exact absurd (Nat.add_sub_cancel' hi).symm (h (i - w) x (Option.join_eq_some_iff.mp hd))

variable (f) (status : Nat)

theorem putDatum_of_none (h : w = 0xFF ∨ datum = []) : putDatum f w datum status = (f, status) := if_pos h

theorem putDatum_of_fits (hw : w ≠ 0xFF) (hd : datum ≠ []) (h : w + datum.length ≤ frameWords f.large) :
    putDatum f w datum status = (f.putFrom w datum 0, status) :=
  (if_neg (not_or.mpr ⟨hw, hd⟩)).trans (if_pos h)

theorem putDatum_of_beyond (hw : w ≠ 0xFF) (hd : datum ≠ []) (h : frameWords f.large < w + datum.length) :
    putDatum f w datum status = (f, if status = 0 then 2 else status) :=
  (if_neg (not_or.mpr ⟨hw, hd⟩)).trans (if_neg (Nat.not_le.mpr h))

theorem putDatum_sameButWords (w : Nat) (datum : Datum) : f.SameButWords (putDatum f w datum status).1 := by
  by_cases h : w = 0xFF ∨ datum = []
  · rw [putDatum_of_none f status h]
    exact .refl f
  · obtain ⟨hw, hd⟩ := not_or.mp h
    rcases Nat.lt_or_ge (frameWords f.large) (w + datum.length) with hbeyond | hfits
    · rw [putDatum_of_beyond f status hw hd hbeyond]
      exact .refl f
    · rw [putDatum_of_fits f status hw hd hfits]
      exact f.putFrom_sameButWords w datum 0

end

theorem Frame.touch_sameButWords (f : Frame) : f.SameButWords f.touch := by
  unfold Frame.touch
  split <;> rfl

@[simp] theorem Frame.touch_words (f : Frame) : f.touch.words = f.words := by
  unfold Frame.touch
  split <;> rfl

@[simp] theorem Frame.touch_large (f : Frame) : f.touch.large = f.large := by
  unfold Frame.touch
  split <;> rfl

theorem Frame.changedBy_sameButWords (f old : Frame) : f.SameButWords (f.changedBy old) := by
  unfold Frame.changedBy
  split <;> rfl

@[simp] theorem Frame.changedBy_words (f old : Frame) : (f.changedBy old).words = f.words := by
  unfold Frame.changedBy
  split <;> rfl

/-- The frame that a signal leaves, before its count, and the status that it counts with (R146). -/
def Frame.signalled (f : Frame) (w : Nat) (datum : Datum) (status : Nat) : Frame × Nat :=
  ((putDatum f.touch w datum status).1.changedBy f, (putDatum f.touch w datum status).2)

section
variable (f : Frame) (w : Nat) (datum : Datum) (status : Nat)

theorem Frame.signalled_sameButWords : f.SameButWords (f.signalled w datum status).1 :=
  (f.touch_sameButWords.trans (putDatum_sameButWords f.touch status w datum)).trans (changedBy_sameButWords _ f)

theorem Frame.signalled_of_none (h : w = 0xFF ∨ datum = []) :
    (f.signalled w datum status).2 = status ∧ (f.signalled w datum status).1.words = f.words := by
  simp [Frame.signalled, putDatum_of_none _ _ h]

theorem Frame.signalled_of_beyond (hw : w ≠ 0xFF) (hd : datum ≠ []) (h : frameWords f.large < w + datum.length) :
    (f.signalled w datum status).2 = (if status = 0 then 2 else status) ∧ (f.signalled w datum status).1.words = f.words := by
  simp [Frame.signalled, putDatum_of_beyond f.touch status hw hd (f.touch_large.symm ▸ h)]

theorem Frame.signalled_of_fits (hw : w ≠ 0xFF) (hd : datum ≠ []) (h : w + datum.length ≤ frameWords f.large) :
    (f.signalled w datum status).2 = status ∧
      (∀ j x, datum[j]? = some (some x) → (f.signalled w datum status).1.word (w + j) = x) ∧
      ∀ i, (∀ j x, datum[j]? = some (some x) → i ≠ w + j) → (f.signalled w datum status).1.word i = f.word i := by
  have hput := putDatum_of_fits f.touch status hw hd (f.touch_large.symm ▸ h)
  have hword (i : Nat) : (f.signalled w datum status).1.word i = (f.touch.putFrom w datum 0).word i := by
    simp [Frame.signalled, hput, Frame.word]
  refine ⟨congrArg Prod.snd hput, fun j x hx => (hword _).trans (word_putFrom_given hx), fun i hi => ?_⟩
  rw [hword, word_putFrom_other hi, Frame.word, touch_words, Frame.word]

end

/-! ## ACCEPT (R146) -/

section
variable {s : State} {ctx ltn status ptn : Nat} {cont : Word} {datum : Datum}

theorem exec_accept {n : Nat} (hn : s.net[n]? = some (.signal ctx ltn cont datum status)) (ht : s.ptnOf ctx ltn = some ptn) :
    exec (.accept n) s = .next ((s.takePacket n).acceptSignal ptn ctx ltn cont datum status) := by
  change execAccept n s = _
  simp only [execAccept, hn, ht]

/-- A continuation of no frame, or of an activation that is gone, counts Stale. -/
theorem acceptSignal_stale (h : ∀ f, s.frame ⟨ctx, ltn, contCore cont, contFrm cont⟩ = some f → f.rtag ≠ contRtag cont) :
    s.acceptSignal ptn ctx ltn cont datum status = s.countStale ptn ctx cont := by
  rcases hf : s.frame ⟨ctx, ltn, contCore cont, contFrm cont⟩ with _ | f
  · simp only [State.acceptSignal, hf]
  · simp only [State.acceptSignal, hf, if_pos (h f hf)]

variable {f : Frame} (hf : s.frame ⟨ctx, ltn, contCore cont, contFrm cont⟩ = some f) (htag : f.rtag = contRtag cont)
include hf htag

/-- The image of an AWAY frame takes its signals (R164). -/
theorem acceptSignal_forward (h : f.st = .away) :
    s.acceptSignal ptn ctx ltn cont datum status = s.send (.forward ⟨ctx, ltn, contCore cont, contFrm cont⟩ cont datum status) := by
  simp [State.acceptSignal, hf, htag, Frame.gone, h]

theorem acceptSignal_here (h : f.st ≠ .away) :
    s.acceptSignal ptn ctx ltn cont datum status =
      (s.setFrame ⟨ctx, ltn, contCore cont, contFrm cont⟩ (f.signalled (contWord cont) datum status).1).count
        ⟨ctx, ltn, contCore cont, contFrm cont⟩ (contSlot cont) (f.signalled (contWord cont) datum status).2 := by
  simp [State.acceptSignal, hf, htag, Frame.gone, h, Frame.signalled]

end

/-! ## Count (R147) -/

@[simp] theorem Slot.note_count (x : Slot) (st : Nat) : (x.note st).count = x.count := by
  unfold Slot.note
  split <;> rfl

@[simp] theorem Slot.note_armed (x : Slot) (st : Nat) : (x.note st).armed = x.armed := by
  unfold Slot.note
  split <;> rfl

section
variable {s : State} {r : FrameRef} {f : Frame} {k : Nat} (st : Nat) (hf : s.frame r = some f) (hgood : f.badSlots.contains k = false)
include hf hgood

theorem count_excess (h : ((f.slot k).note st).count = 0) :
    s.count r k st = (s.setFrame r (f.setSlot k ((f.slot k).note st))).countExcess (s.homePtn r.ctx r.ltn) := by
  simp only [State.count, hf, hgood, Bool.false_eq_true, if_false, h, if_true]

theorem count_down (h : ((f.slot k).note st).count ≠ 0) :
    s.count r k st =
      let x := { (f.slot k).note st with count := ((f.slot k).note st).count - 1 }
      if x.count = 0 ∧ x.armed then (s.setFrame r (f.setSlot k x)).due r k else s.setFrame r (f.setSlot k x) := by
  simp only [State.count, hf, hgood, Bool.false_eq_true, if_false, h]

/-- A slot that is not armed, or has more to count, only counts down. -/
theorem count_quiet (h : ((f.slot k).note st).count ≠ 0) (hq : ((f.slot k).note st).armed = false ∨ ((f.slot k).note st).count ≠ 1) :
    s.count r k st = s.setFrame r (f.setSlot k { (f.slot k).note st with count := ((f.slot k).note st).count - 1 }) := by
  refine (count_down st hf hgood h).trans (if_neg fun ⟨hzero, harmed⟩ => ?_)
  have hle : ((f.slot k).note st).count ≤ 1 := Nat.sub_eq_zero_iff_le.mp hzero
  rcases hq with hq | hq
  · exact Bool.false_ne_true (hq.symm.trans harmed)
  · exact hq (by omega)

/-- The last count of an armed slot makes it due. -/
theorem count_due (h : (f.slot k).count = 1) (harmed : (f.slot k).armed = true) :
    s.count r k st = (s.setFrame r (f.setSlot k { (f.slot k).note st with count := (f.slot k).count - 1 })).due r k := by
  have hone : ((f.slot k).note st).count ≠ 0 := by simp [h]
  refine (count_down st hf hgood hone).trans ?_
  simp [h, harmed]

end

/-! ## Due and Enqueue (R147, R148, R152) -/

/-- The core's queue takes a firing now: it has room, and nothing waits for a place (R155). -/
def State.TakesFiring (s : State) (r : FrameRef) : Prop :=
  ∃ ptn, s.ptnOf r.ctx r.ltn = some ptn ∧ s.readyTaken ptn r.core < 128 ∧ s.waitsForPlace ptn r.core = false

theorem queueOpen_iff {s : State} {ptn core : Nat} :
    s.queueOpen ptn core = true ↔ s.readyTaken ptn core < 128 ∧ s.waitsForPlace ptn core = false := by
  rw [State.queueOpen, Bool.and_eq_true, decide_eq_true_eq, Bool.not_eq_true', Config.readyPlaces]

theorem Slot.rearm_eq (x : Slot) :
    x.rearm = if x.reload = true ∧ x.rld ≠ 0 then { x with count := x.rld } else { x with armed := false } := by
  simp [Slot.rearm]

theorem Slot.holdFiring_of_lt {x : Slot} (h : x.pn ≠ 4095) : x.holdFiring = some { x.rearm with pn := x.pn + 1 } := if_neg h

theorem Slot.holdFiring_at_limit {x : Slot} (h : x.pn = 4095) : x.holdFiring = none := if_pos h

@[simp] theorem Frame.fires_st (f : Frame) : f.fires.st = f.st := by
  unfold Frame.fires
  split <;> rfl

@[simp] theorem Frame.fires_ovf (f : Frame) : f.fires.ovf = f.ovf := by
  unfold Frame.fires
  split <;> rfl

section
variable {s : State} {r : FrameRef} {f : Frame} {k : Nat} (hf : s.frame r = some f)
include hf

/-- A tile that has executed KEND discards the firing (R184). -/
theorem due_ended (he : (s.part r.ctx r.ltn).ended = true) : s.due r k = s.setFrame r (f.fires.setSlot k (f.slot k).rearm) := by
  simp only [State.due, hf, he, if_true]

/-- An entry that Enqueue makes: ENTRY and `sig` as they stand, in the class of URG. -/
theorem enqueue_pushes (he : (s.part r.ctx r.ltn).ended = false) :
    let x := f.slot k
    let s1 := s.setFrame r (f.setSlot k { x with err := false, ecnt := 0, last := 0 })
    let c := s1.partCore r.ctx r.ltn r.core
    s.enqueue r k = (s1.setPartCore r.ctx r.ltn r.core
      { c with ready := c.ready ++ [⟨r.frm, k, x.entry, x.sig k, readyClass (s.ctx r.ctx).cls x.urg, none, false⟩] }).settleCore r.ctx r.ltn r.core := by
  simp only [State.enqueue, hf, State.pushReady, State.setFrame_ended, he, Bool.false_eq_true, if_false, State.setFrame_at_ctx]

variable (he : (s.part r.ctx r.ltn).ended = false)
include he

theorem due_at_limit (h : (f.slot k).pn = 4095) : s.due r k = (s.setFrame r f.fires).limitPark r k := by
  simp only [State.due, hf, he, Bool.false_eq_true, if_false, Slot.holdFiring_at_limit h]

variable (hpn : (f.slot k).pn ≠ 4095)
include hpn

theorem due_enqueues (hlive : f.st = .live) (hroom : s.TakesFiring r) :
    s.due r k = (s.setFrame r (f.fires.setSlot k (f.slot k).rearm)).enqueue r k := by
  obtain ⟨ptn, ht, htaken, hwaits⟩ := hroom
  have hopen : s.queueOpen ptn r.core = true := queueOpen_iff.mpr ⟨htaken, hwaits⟩
  simp [State.due, hf, he, Slot.holdFiring_of_lt hpn, ht, hopen, hlive]

theorem due_holds (h : f.st ≠ .live ∨ ¬ s.TakesFiring r) :
    s.due r k = s.setFrame r { f.fires.setSlot k { (f.slot k).rearm with pn := (f.slot k).pn + 1 } with ovf := f.ovf || decide (f.st = .live) } := by
  have hshut : ¬ (f.st = .live ∧ ∃ ptn, s.ptnOf r.ctx r.ltn = some ptn ∧ s.queueOpen ptn r.core = true) := by
    rintro ⟨hlive, ptn, ht, hopen⟩
    exact h.elim (· hlive) (· ⟨ptn, ht, queueOpen_iff.mp hopen⟩)
  rcases ht : s.ptnOf r.ctx r.ltn with _ | ptn
  · simp [State.due, hf, he, Slot.holdFiring_of_lt hpn, ht]
  · simp only [ht, Option.some.injEq, exists_eq_left'] at hshut
    simp [State.due, hf, he, Slot.holdFiring_of_lt hpn, ht, hshut]

end

/-- The class of an entry is that of its context's launch, raised by one where URG is set and the class may rise (R152). -/
theorem readyClass_eq (c : Nat) (urg : Bool) :
    readyClass c urg = if c = 0 then 0 else (if c = 1 then 2 else 3) - (if urg = true then 1 else 0) := by
  match c with
  | 0 => rfl
  | 1 => cases urg <;> rfl
  | c + 2 => cases urg <;> rfl

/-- Settles O43: ACCEPT by the frame that the continuation names, then Count, Due and Enqueue of one slot. -/
theorem signalAccepted : Obligations.SignalAccepted := by
  unfold Obligations.SignalAccepted
  refine ⟨fun s n ctx ltn status ptn cont datum hn ht => ?accept, fun s r k f hf => ?due, fun s r k f hf => ?enqueue⟩
  case accept =>
    rw [exec_accept hn ht]
    refine ⟨fun h => congrArg _ (acceptSignal_stale h), fun f hf htag h => congrArg _ (acceptSignal_forward hf htag h),
      fun f hf htag h => ?_, fun f k st hf hgood => ⟨count_excess st hf hgood, count_quiet st hf hgood⟩,
      fun f k st hf hgood => count_due st hf hgood⟩
    exact ⟨(f.signalled (contWord cont) datum status).1, (f.signalled (contWord cont) datum status).2,
      congrArg _ (acceptSignal_here hf htag h), f.signalled_sameButWords _ _ _, f.signalled_of_none _ _ _,
      f.signalled_of_fits _ _ _, f.signalled_of_beyond _ _ _⟩
  case due =>
    intro x again g roomFor
    have hagain : again = x.rearm := x.rearm_eq.symm
    have hg : g = f.fires := by
      unfold g Frame.fires
      rcases f.moving with _ | o | _ <;> rfl
    rw [hagain, hg]
    exact ⟨due_ended hf, fun he => ⟨due_at_limit hf he, due_enqueues hf he, due_holds hf he⟩⟩
  case enqueue =>
    intro x cls
    have hcls : cls = readyClass (s.ctx r.ctx).cls x.urg := (readyClass_eq _ _).symm
    rw [hcls]
    exact enqueue_pushes hf

end Sys2Proof.Machine
end

section
/-! PROOFS. Picks, tasks, deques, stealing, and creations that waited (R153 to R161, R181; O42): each step where its guard lets it through. -/

namespace Sys2Proof.Machine

/-! ## Picks (R153, R154) -/

/-- PICK of a class whose rotation has a head with an eligible entry. -/
theorem exec_pick {s : State} {ptn core seat l : Nat} {h : Rot} {e : Ready} (hfree : s.seatFree ⟨ptn, core, seat⟩ = true) :
    let s0 := s.settleRot ptn core
    let c0 := s0.coreAt ptn core
    let cls := pickClass (s0.eligible ptn core) c0.nGap c0.bGap
    let has (k : Nat) : Bool := (s0.eligible ptn core).any fun x => decide (x.2.2.cls = k)
    let g := gapsAfter cls c0.nGap c0.bGap (has 2) (has 3)
    let more := decide (1 < ((s0.eligible ptn core).filter fun x => decide (x.1 = h.ctx) && decide (x.2.2.cls = cls)).length)
    let s1 := s0.setCore ptn core { c0 with nGap := g.1, bGap := g.2, rot := rotAfter c0.rot cls h.ctx (s0.ctx h.ctx).weight more }
    c0.rot.find? (fun x => x.cls = cls) = some h →
    (s0.eligible ptn core).find? (fun x => decide (x.1 = h.ctx) && decide (x.2.2.cls = cls)) = some (h.ctx, l, e) →
    exec (.pick ptn core seat) s =
      .next (((s1.startSeat ⟨ptn, core, seat⟩ ⟨h.ctx, l, core, e.frm⟩ e).settleRot ptn core).drainOverflow ptn core) := by
  intro s0 c0 cls has g more s1 hrot hentry
  change execPick ptn core seat s = _
  simp only [execPick, hfree, Bool.not_true, Bool.false_eq_true, if_false, hrot, hentry, s0, c0, cls]
  rfl

/-! ## Tasks taken up, and steals that go out (R157 to R159) -/

/-- A record that can be popped is one of its context. -/
theorem any_of_popNewest {l l' : List (Nat × Task)} {ctx : Nat} {t : Task} (h : popNewest l ctx = some (t, l')) :
    l.any (fun e => e.1 = ctx) = true := by
  unfold popNewest at h
  split at h
  case h_2 => cases h
  case h_1 c t i hlast =>
    obtain ⟨hmem, hctx⟩ := List.mem_filter.mp (List.mem_of_getLast? hlast)
    exact List.any_eq_true.mpr ⟨(c, t), (List.mem_zipIdx' hmem).2 ▸ List.getElem_mem _, hctx⟩

theorem any_false_of_forall_ne {l : List (Nat × Task)} {ctx : Nat} (h : ∀ e ∈ l, e.1 ≠ ctx) : l.any (fun e => e.1 = ctx) = false :=
  List.any_eq_false.mpr fun e he => by simpa using h e he

section
variable {s : State} {ptn core ctx ltn : Nat} (hl : s.ltnOn ptn ctx = some ltn) (hmay : s.mayPickup ptn core = true)
  (he : (s.part ctx ltn).ended = false)
include hl hmay he

theorem exec_taskPickup {t : Task} {l : List (Nat × Task)} (hp : popNewest (s.coreAt ptn core).deque ctx = some (t, l)) :
    exec (.taskPickup ptn core ctx) s = .next ((s.setCore ptn core { s.coreAt ptn core with deque := l }).takeUp ctx ltn core t) := by
  change execTaskPickup ptn core ctx s = _
  simp [execTaskPickup, hl, hmay, he, any_of_popNewest hp, hp]

variable (hnone : ∀ e ∈ (s.coreAt ptn core).deque, e.1 ≠ ctx) (hwait : (s.partCore ctx ltn core).deque = [])
include hnone hwait

/-- A deque without a record of the context is refilled from the area first (R160). -/
theorem exec_taskPickup_refills {s1 : State} {t : Task} {l : List (Nat × Task)} (harea : (s.partCore ctx ltn core).dqCount ≠ 0)
    (hrefill : s.refillDeque ⟨ctx, ptnDie ptn, .deque ltn core⟩ ptn ltn core = .ok s1)
    (hp : popNewest (s1.coreAt ptn core).deque ctx = some (t, l)) :
    exec (.taskPickup ptn core ctx) s = .next ((s1.setCore ptn core { s1.coreAt ptn core with deque := l }).takeUp ctx ltn core t) := by
  change execTaskPickup ptn core ctx s = _
  simp [execTaskPickup, hl, hmay, he, any_false_of_forall_ne hnone, hwait, harea, hrefill, hp]

theorem exec_stealRequest {self v : Nat} {x : BitVec 16} (hout : s.stealOut ptn core = false)
    (harea : (s.partCore ctx ltn core).dqCount = 0) (hdom : 2 ≤ (s.stealDomain ctx ltn).length)
    (hself : (s.stealDomain ctx ltn).findIdx? (fun e => e = (ltn, core)) = some self)
    (hnext : nextVictim (s.stealDomain ctx ltn).length self 65536 (s.coreAt ptn core).lfsr = some (v, x)) :
    let victim := (s.stealDomain ctx ltn).getD v (0, 0)
    exec (.stealRequest ptn core ctx) s =
      .next ((s.setCore ptn core { s.coreAt ptn core with lfsr := x }).send (.stealReq ctx ltn core victim.1 victim.2)) := by
  change execStealRequest ptn core ctx s = _
  simp [execStealRequest, hl, hmay, he, hout, any_false_of_forall_ne hnone, hwait, harea, Nat.not_lt.mpr hdom, hself, hnext]

end

/-! ## Records spawned (R181) -/

section
variable {s : State} {n ctx ltn core id : Nat} {any : Bool} {t : Task} (hn : s.net[n]? = some (.spawn ctx ltn core any t id))
include hn

theorem exec_spawnPush_ended (he : (s.part ctx ltn).ended = true) : exec (.spawnPush n) s = .next ((s.takePacket n).answer id .refused []) := by
  change execSpawnPush n s = _
  simp only [execSpawnPush, hn, he, if_true]

variable (he : (s.part ctx ltn).ended = false) {st : Status} {s1 : State}
include he

theorem exec_spawnPush_deque {p : Nat} (hp : s.ptnOf ctx ltn = some p)
    (hpush : s.pushDeque p (s.spawnCore ctx ltn core any) ctx id t = .ok (st, s1)) :
    exec (.spawnPush n) s = .next ((s1.takePacket n).answer id st []) := by
  change execSpawnPush n s = _
  simp only [execSpawnPush, hn, he, Bool.false_eq_true, if_false, hp, hpush]

theorem exec_spawnPush_image (hp : s.ptnOf ctx ltn = none)
    (hpush : s.pushImage ctx ltn (s.spawnCore ctx ltn core any) id t = .ok (st, s1)) :
    exec (.spawnPush n) s = .next ((s1.takePacket n).answer id st []) := by
  change execSpawnPush n s = _
  simp only [execSpawnPush, hn, he, Bool.false_eq_true, if_false, hp, hpush]

end

/-! ## Creations that waited (R139, R157, R161) -/

section
variable {s : State} {ctx ltn core : Nat} (hp : (s.ptnOf ctx ltn).isSome = true)
include hp

theorem exec_deferredCreation_root {k : Kernel} {s1 : State} (hcore : core = 0) (hdue : (s.part ctx ltn).rootDue = true)
    (hk : s.kernel ctx = some k) (hroot : s.lateRoot ctx ltn k = some s1) : exec (.deferredCreation ctx ltn core) s = .next s1 := by
  change execDeferredCreation ctx ltn core s = _
  simp [execDeferredCreation, Option.isNone_eq_false_iff.mpr hp, hcore, hdue, hk, hroot]

variable (hroot : (s.part ctx ltn).rootDue = false ∨ core ≠ 0)
include hroot

theorem exec_deferredCreation_wait {id : Nat} {r : FrameRef} {s1 : State}
    (hw : s.readyWait ctx ltn core (s.partCore ctx ltn core).waits = some (id, r, s1)) :
    let p := s1.partCore ctx ltn core
    exec (.deferredCreation ctx ltn core) s =
      .next ((s1.setPartCore ctx ltn core { p with waits := dropFirst p.waits id }).answer id .ok [some (s1.fpOf r)]) := by
  have hnot : ¬ ((s.part ctx ltn).rootDue = true ∧ core = 0) := by simpa [imp_iff_not_or] using hroot
  change execDeferredCreation ctx ltn core s = _
  simp only [execDeferredCreation, Option.isNone_eq_false_iff.mpr hp, Bool.false_eq_true, if_false, if_neg hnot, hw]

theorem exec_deferredCreation_task {t : HeldTask} {r : FrameRef} {s1 : State}
    (hw : s.readyWait ctx ltn core (s.partCore ctx ltn core).waits = none)
    (ht : s.readyTask ctx ltn core (s.partCore ctx ltn core).tasks = some (t, r, s1)) :
    let p := s1.partCore ctx ltn core
    exec (.deferredCreation ctx ltn core) s =
      .next ((s1.setPartCore ctx ltn core { p with tasks := dropTask p.tasks t }).startTask r t.task) := by
  have hnot : ¬ ((s.part ctx ltn).rootDue = true ∧ core = 0) := by simpa [imp_iff_not_or] using hroot
  change execDeferredCreation ctx ltn core s = _
  simp only [execDeferredCreation, Option.isNone_eq_false_iff.mpr hp, Bool.false_eq_true, if_false, if_neg hnot, hw, ht]

end

/-! ## Steals served (R158, R160) -/

/-- The reply of a victim, which takes the request off the network. -/
def State.stealAnswer (s : State) (n ctx tl tc vl vc : Nat) (t : Option Task) (area : Bool) : State :=
  (s.takePacket n).send (.stealReply ctx tl tc vl vc t area)

section
variable {s : State} {n ctx tl tc vl vc p : Nat} (hn : s.net[n]? = some (.stealReq ctx tl tc vl vc)) (hp : s.ptnOf ctx vl = some p)
  (he : (s.part ctx vl).ended = false)
include hn hp he

section
variable (harea : (s.partCore ctx vl vc).dqCount = 0)
include harea

/-- A record of a restored part that waits for room in the deque is the oldest there. -/
theorem exec_stealServe_waiting {t : Task} {l : List Task} (hd : (s.partCore ctx vl vc).deque = t :: l) :
    exec (.stealServe n) s =
      .next ((s.setPartCore ctx vl vc { s.partCore ctx vl vc with deque := l, kept := (s.partCore ctx vl vc).kept + 1 }).stealAnswer n
        ctx tl tc vl vc (some t) false) := by
  change execStealServe n s = _
  simp [execStealServe, hn, hp, he, harea, hd, State.stealAnswer]

variable (hd : (s.partCore ctx vl vc).deque = [])
include hd

theorem exec_stealServe_core {t : Task} {l : List (Nat × Task)} (hpop : popOldest (s.coreAt p vc).deque ctx = some (t, l)) :
    exec (.stealServe n) s =
      .next ((s.setCore p vc { s.coreAt p vc with deque := l, reserved := (s.coreAt p vc).reserved ++ [ctx] }).stealAnswer n
        ctx tl tc vl vc (some t) false) := by
  change execStealServe n s = _
  simp [execStealServe, hn, hp, he, harea, hd, hpop, State.stealAnswer]

theorem exec_stealServe_none (hpop : popOldest (s.coreAt p vc).deque ctx = none) :
    exec (.stealServe n) s = .next (s.stealAnswer n ctx tl tc vl vc none false) := by
  change execStealServe n s = _
  simp [execStealServe, hn, hp, he, harea, hd, hpop, State.stealAnswer]

end

section
variable (harea : (s.partCore ctx vl vc).dqCount ≠ 0) {bs : List Byte} {s1 : State}
  (htake : s.devTake ⟨ctx, ptnDie p, .steal tl tc⟩ (s.areaAt ctx vl vc (s.partCore ctx vl vc).dqHead) 64 = .ok (bs, s1))
include harea htake

/-- The oldest record of the area goes, and its place is kept for the task's return. -/
theorem exec_stealServe_area (hok : taskOk (taskOfBytes bs) = true) :
    let victim := s.partCore ctx vl vc
    exec (.stealServe n) s =
      .next ((s1.setPartCore ctx vl vc
        { victim with dqHead := victim.dqHead + 1, dqCount := victim.dqCount - 1, dqKept := victim.dqKept + 1 }).stealAnswer n
        ctx tl tc vl vc (some (taskOfBytes bs)) true) := by
  change execStealServe n s = _
  simp [execStealServe, hn, hp, he, harea, htake, hok, State.stealAnswer]

/-- A record that R156 does not allow leaves the area, and none is given. -/
theorem exec_stealServe_rejects (hok : taskOk (taskOfBytes bs) = false) :
    let victim := s.partCore ctx vl vc
    exec (.stealServe n) s =
      .next ((s1.setPartCore ctx vl vc { victim with dqHead := victim.dqHead + 1, dqCount := victim.dqCount - 1 }).stealAnswer n
        ctx tl tc vl vc none false) := by
  change execStealServe n s = _
  simp [execStealServe, hn, hp, he, harea, htake, hok, State.stealAnswer]

end
end

/-! ## Stolen tasks that arrive and return (R158) -/

section
variable {s : State} {n ctx tl tc vl vc p : Nat} {t : Task} {area : Bool}
  (hn : s.net[n]? = some (.stealReply ctx tl tc vl vc (some t) area)) (hp : s.ptnOf ctx tl = some p)
include hn hp

theorem exec_stealReply_ended (he : (s.part ctx tl).ended = true) :
    exec (.stealReply n) s = .next ((s.takePacket n).send (.taskReturn ctx vl vc t area)) := by
  change execStealReply n s = _
  simp only [execStealReply, hn, hp, he, if_true]

theorem exec_stealReply_takesUp (he : (s.part ctx tl).ended = false) (hroom : s.readyTaken p tc < 128) :
    exec (.stealReply n) s = .next (((s.takePacket n).unreserve ctx vl vc area).takeUp ctx tl tc t) := by
  have hopen : ¬ Config.readyPlaces ≤ s.readyTaken p tc := Nat.not_le.mpr hroom
  change execStealReply n s = _
  simp only [execStealReply, hn, hp, he, Bool.false_eq_true, if_false, if_neg hopen]

end

section
variable {s : State} {n ctx vl vc p : Nat} {t : Task} (hn : s.net[n]? = some (.taskReturn ctx vl vc t false)) (hp : s.ptnOf ctx vl = some p)
  (he : (s.part ctx vl).ended = false)
include hn hp he

/-- The task takes its kept place at the oldest end of the core's deque. -/
theorem exec_taskReturned_core (hk : (s.partCore ctx vl vc).kept = 0) :
    let s1 := (s.takePacket n).unreserve ctx vl vc false
    exec (.taskReturned n) s = .next (s1.setCore p vc { s1.coreAt p vc with deque := (ctx, t) :: (s1.coreAt p vc).deque }) := by
  change execTaskReturned n s = _
  simp [execTaskReturned, hn, hp, he, hk]

/-- One whose place the core has yet to have room for waits with the part's records. -/
theorem exec_taskReturned_waits (hk : (s.partCore ctx vl vc).kept ≠ 0) :
    let s1 := (s.takePacket n).unreserve ctx vl vc false
    let c := s1.partCore ctx vl vc
    exec (.taskReturned n) s = .next (s1.setPartCore ctx vl vc { c with deque := t :: c.deque }) := by
  change execTaskReturned n s = _
  simp [execTaskReturned, hn, hp, he, hk]

end

/-- Settles O42, step by step. -/
theorem picksAndTasks : Obligations.PicksAndTasks := by
  unfold Obligations.PicksAndTasks
  intro s ptn core ctx ltn n
  refine ⟨fun seat h l e hfree => exec_pick hfree, fun hl hmay he => ?pickup, fun any t id hn => ?spawn,
    fun hp hcore hdue k s1 => exec_deferredCreation_root hp hcore hdue, fun hp hroot => ?creation,
    fun tl tc vl vc p hn hp he => ?serve, fun tl tc vl vc t area p hn hp => ?reply, fun vl vc t p hn hp he => ?returned⟩
  case pickup =>
    exact ⟨fun t l => exec_taskPickup hl hmay he,
      fun s1 t l hnone hwait => exec_taskPickup_refills hl hmay he hnone hwait,
      fun self v x hout hnone hwait => exec_stealRequest hl hmay he hnone hwait hout⟩
  case spawn =>
    exact ⟨exec_spawnPush_ended hn, fun p st s1 he => exec_spawnPush_deque hn he, fun st s1 he => exec_spawnPush_image hn he⟩
  case creation =>
    exact ⟨fun id r s1 => exec_deferredCreation_wait hp hroot, fun t r s1 => exec_deferredCreation_task hp hroot⟩
  case serve =>
    exact ⟨fun t l harea => exec_stealServe_waiting hn hp he harea, fun t l harea hd => exec_stealServe_core hn hp he harea hd,
      fun harea hd => exec_stealServe_none hn hp he harea hd, fun bs s1 harea htake =>
        ⟨exec_stealServe_area hn hp he harea htake, exec_stealServe_rejects hn hp he harea htake⟩⟩
  case reply =>
    exact ⟨exec_stealReply_ended hn hp, exec_stealReply_takesUp hn hp⟩
  case returned =>
    exact ⟨exec_taskReturned_core hn hp he, exec_taskReturned_waits hn hp he⟩

end Sys2Proof.Machine
end

section
/-! PROOFS. Spilling and refilling a frame, what comes to its image meanwhile, trap records that waited, and packets kept for evicted tiles
(R161 to R165, R174, R374, R387, R416; O47). -/

namespace Sys2Proof.Machine

/-! ## Spilling (R161, R162) -/

/-- A frame that is being written out. -/
def Moving.isSpill (m : Moving) : Bool :=
  match m with
  | .spill _ => true
  | .no | .refill => false

section
variable {s : State} {ctx ltn core : Nat}

/-- SPILL_START of the frame that a waiting creation needs, while the core writes no other one of the context out. -/
theorem exec_spillStart {ptn frm : Nat} {f : Frame} {s1 : State} (ht : s.ptnOf ctx ltn = some ptn) (hres : (s.tme ctx ltn).st = .resident)
    (hspill : (s.partCore ctx ltn core).noSpill = false)
    (hidle : ∀ e ∈ (s.partCore ctx ltn core).frames, e.2.moving = .no ∨ e.2.moving = .refill)
    (hvictim : (s.waitingClasses ctx ltn core).findSome? (fun w => s.victimFor ctx ltn core ptn w.1 w.2) = some frm)
    (hf : s.frame ⟨ctx, ltn, core, frm⟩ = some f)
    (hw : s.writeImage ⟨ctx, ltn, core, frm⟩ { f with moving := f.writeOut none, tch := false } = .ok s1) :
    exec (.spillStart ctx ltn core) s =
      .next (s1.setFrame ⟨ctx, ltn, core, frm⟩ { f with moving := f.writeOut none, tch := false, owc := f.owc + 1 }) := by
  have hbusy : ((s.partCore ctx ltn core).frames.any fun e => e.2.moving.isSpill) = false :=
    List.any_eq_false.mpr fun e he => by rcases hidle e he with h | h <;> simp [h, Moving.isSpill]
  have hfree : ¬ ((s.partCore ctx ltn core).noSpill = true ∨ ((s.partCore ctx ltn core).frames.any fun e => e.2.moving.isSpill) = true ∨
      (s.tme ctx ltn).st ≠ .resident) := by simp [hspill, hbusy, hres]
  change execSpillStart ctx ltn core s = _
  simp only [execSpillStart, ht, hvictim, Option.map_some, hf]
  exact (if_neg hfree).trans (by rw [hw])

variable {frm : Nat} {f : Frame} {o : WriteOut} (hf : s.frame ⟨ctx, ltn, core, frm⟩ = some f) (hm : f.moving = .spill o) (ho : o.failed = none)
include hf hm ho

/-- A frame that is no longer dormant, or that has fired, stays LIVE. -/
theorem exec_spillCheck_stays (h : o.due = true ∨ s.dormant ⟨ctx, ltn, core, frm⟩ { f with moving := .no } = false) :
    exec (.spillCheck ctx ltn core frm) s =
      .next ((s.setFrame ⟨ctx, ltn, core, frm⟩ { f with moving := .no, owc := f.owc - 1 }).settleFree ⟨ctx, ltn, core, frm⟩) := by
  have hstill : (!o.due && s.dormant ⟨ctx, ltn, core, frm⟩ { f with moving := .no }) = false := by
    rcases h with h | h <;> simp [h]
  change execSpillCheck ctx ltn core frm s = _
  simp only [execSpillCheck, hf, hm, ho, hstill, Bool.not_false, if_true]

variable (hdue : o.due = false) (hd : s.dormant ⟨ctx, ltn, core, frm⟩ { f with moving := .no } = true)
include hdue hd

theorem exec_spillCheck_away (htch : f.tch = false) :
    exec (.spillCheck ctx ltn core frm) s = .next (s.setFrame ⟨ctx, ltn, core, frm⟩
      { f with st := .away, moving := .no, owc := f.owc - 1, slots := [], words := [] }) := by
  have hstill : (!o.due && s.dormant ⟨ctx, ltn, core, frm⟩ { f with moving := .no }) = true := by simp [hdue, hd]
  change execSpillCheck ctx ltn core frm s = _
  simp only [execSpillCheck, hf, hm, ho, hstill, Bool.not_true, Bool.false_eq_true, if_false]
  rw [htch, if_neg Bool.false_ne_true]

/-- A frame that was touched meanwhile is written again. -/
theorem exec_spillCheck_rewrites {s1 : State} (htch : f.tch = true) (hw : s.rewriteImage ⟨ctx, ltn, core, frm⟩ f o = .ok s1) :
    exec (.spillCheck ctx ltn core frm) s =
      .next (s1.setFrame ⟨ctx, ltn, core, frm⟩ { f with tch := false, moving := f.writeOut none }) := by
  have hstill : (!o.due && s.dormant ⟨ctx, ltn, core, frm⟩ { f with moving := .no }) = true := by simp [hdue, hd]
  change execSpillCheck ctx ltn core frm s = _
  simp only [execSpillCheck, hf, hm, ho, hstill, Bool.not_true, Bool.false_eq_true, if_false]
  rw [if_pos htch, hw]

end

/-! ## Signals at an image (R164, R165) -/

section
variable {s : State} {n status : Nat} {r : FrameRef} {cont : Word} {datum : Datum} (hn : s.net[n]? = some (.forward r cont datum status))
include hn

theorem exec_forwardApply_kept (hrec : s.recalled r = true) (hroom : s.deferredRoom r.ctx = true) :
    exec (.forwardApply n) s = .next ((s.takePacket n).send (.keptSignal r cont datum status)) := by
  change execForwardApply n s = _
  simp only [execForwardApply, hn, hrec, hroom, if_true]

variable {f : Frame} (hrec : s.recalled r = false) (hf : s.frame r = some f)
include hrec hf

theorem exec_forwardApply_stale (htag : f.rtag ≠ contRtag cont) :
    exec (.forwardApply n) s = .next ((s.takePacket n).countStale (s.dropTile r) r.ctx cont) := by
  change execForwardApply n s = _
  simp only [execForwardApply, hn, hrec, Bool.false_eq_true, if_false, hf, if_pos htag]

variable (htag : f.rtag = contRtag cont)
include htag

theorem exec_forwardApply_sendsOn (hst : f.st ≠ .away) :
    exec (.forwardApply n) s = .next ((s.takePacket n).send (.signal r.ctx r.ltn cont datum status)) := by
  change execForwardApply n s = _
  simp only [execForwardApply, hn, hrec, Bool.false_eq_true, if_false, hf, htag, ne_eq, not_true, if_pos hst]

variable (hst : f.st = .away)
include hst

/-- An image that can be reached takes the datum and then the count. -/
theorem exec_forwardApply_image {p : Phys}
    (hp : s.imagePhys ⟨r.ctx, ptnDie (s.homePtn r.ctx r.ltn), .forward r cont datum status⟩ r .write = .ok p) :
    let s1 := (s.takePacket n).devDone ⟨r.ctx, ptnDie (s.homePtn r.ctx r.ltn), .forward r cont datum status⟩ (s.imageVa r) 2048
    let x := s1.imageDatum r f p (contWord cont) datum status
    exec (.forwardApply n) s = .next (x.1.imageCount r p (contSlot cont) x.2) := by
  change execForwardApply n s = _
  simp only [execForwardApply, hn, hrec, Bool.false_eq_true, if_false, hf, htag, hst, ne_eq, not_true, State.spillDev, hp]

theorem exec_forwardApply_unreached {e : DevErr} (hwait : ∀ m, e ≠ .wait m)
    (hp : s.imagePhys ⟨r.ctx, ptnDie (s.homePtn r.ctx r.ltn), .forward r cont datum status⟩ r .write = .error e) :
    exec (.forwardApply n) s = .next (((s.takePacket n).devFail
      ⟨r.ctx, ptnDie (s.homePtn r.ctx r.ltn), .forward r cont datum status⟩ e).countStale (s.dropTile r) r.ctx cont) := by
  change execForwardApply n s = _
  cases e with
  | wait m => exact absurd rfl (hwait m)
  | fault lost => simp only [execForwardApply, hn, hrec, Bool.false_eq_true, if_false, hf, htag, hst, ne_eq, not_true, State.spillDev, hp]
  | poison place => simp only [execForwardApply, hn, hrec, Bool.false_eq_true, if_false, hf, htag, hst, ne_eq, not_true, State.spillDev, hp]

end

/-! ## Operations at an image (R174, R416) -/

/-- FFREE's test reads all the slots, and another operation its own. -/
theorem ImageOp.mem_touches {op : ImageOp} {slot k : Nat} : k ∈ op.touches slot ↔ op = .ffree ∧ k < 8 ∨ op ≠ .ffree ∧ k = slot := by
  cases op <;> simp [ImageOp.touches]

/-- The lowest of the slots that an operation touches and a test holds of is the one found. -/
theorem ImageOp.find_touches {op : ImageOp} {slot k : Nat} {bad : Nat → Bool} (hk : k ∈ op.touches slot) (hbad : bad k = true)
    (hfirst : ∀ j < k, j ∈ op.touches slot → bad j = false) : (op.touches slot).find? bad = some k := by
  cases op with
  | ffree =>
    have hlt : k < 8 := List.mem_range.mp hk
    exact List.find?_range_eq_some.mpr ⟨hbad, hk, fun j hj => by simp [hfirst j hj (List.mem_range.mpr (hj.trans hlt))]⟩
  | sloti w =>
    obtain rfl := List.mem_singleton.mp hk
    exact List.find?_cons_of_pos hbad
  | slota d =>
    obtain rfl := List.mem_singleton.mp hk
    exact List.find?_cons_of_pos hbad

/-- Whether a slot of an image holds a count or a firing (R176). -/
def State.imageBusy (s : State) (p : Phys) : Bool :=
  (List.range 8).any fun k => decide ((s.imageSlot p k).count ≠ 0 ∨ (s.imageSlot p k).pn ≠ 0)

/-- What an operation comes to at an image that its home can reach: poison in a slot that it touches, then its check. -/
def State.imageOperation (s : State) (r : FrameRef) (f : Frame) (p : Phys) (slot : Nat) (op : ImageOp) (id : Nat) : State :=
  match (op.touches slot).find? (s.imageSlotBad p), op.check (s.imageSlot p slot) (s.imageBusy p) f.pendingFree with
  | some k, _ => (s.imageSlotRas r p k).opReply id (some 0x12)
  | none, some c => s.opReply id (some c)
  | none, none => (s.imageApply r f p slot op).opReply id none

theorem exec_forwardApply_operation {s : State} {n rtag slot id : Nat} {r : FrameRef} {op : ImageOp} {f : Frame} {p : Phys}
    (hn : s.net[n]? = some (.imageOp r rtag slot op id)) (hf : s.frame r = some f) (htag : f.rtag = rtag) (hrec : s.recalled r = false)
    (hst : f.st = .away) (hp : s.imagePhys { s.spillDev r with who := .req id } r .write = .ok p) :
    exec (.forwardApply n) s = .next (((s.takePacket n).devDone { s.spillDev r with who := .req id }
      (s.imageVa r) 2048).imageOperation r f p slot op id) := by
  change execForwardApply n s = _
  simp only [execForwardApply, hn, hf, if_neg (not_not.mpr htag), hrec, Bool.false_eq_true, if_false, if_neg (not_not.mpr hst), hp,
    State.imageOperation, State.imageBusy]
  split
  case h_1 k hfind => simp only [hfind]
  case h_2 hfind =>
    simp only [hfind]
    split
    next c hc => simp only [hc]
    next hc => simp only [hc]

section
variable {s : State} {r : FrameRef} {f : Frame} {p : Phys} {slot id : Nat} {op : ImageOp}

/-- A lost slot is answered POISON, with the home's record. -/
theorem imageOperation_lost {k : Nat} (hfind : (op.touches slot).find? (s.imageSlotBad p) = some k) :
    s.imageOperation r f p slot op id = (s.imageSlotRas r p k).opReply id (some 0x12) := by
  simp only [State.imageOperation, hfind]

variable (hfind : (op.touches slot).find? (s.imageSlotBad p) = none)
include hfind

theorem imageOperation_refused {c : Nat} (hc : op.check (s.imageSlot p slot) (s.imageBusy p) f.pendingFree = some c) :
    s.imageOperation r f p slot op id = s.opReply id (some c) := by
  simp only [State.imageOperation, hfind, hc]

theorem imageOperation_applies (hc : op.check (s.imageSlot p slot) (s.imageBusy p) f.pendingFree = none) :
    s.imageOperation r f p slot op id = (s.imageApply r f p slot op).opReply id none := by
  simp only [State.imageOperation, hfind, hc]

end

/-! ## Refilling (R165) -/

section
variable {s : State} {n : Nat} {r : FrameRef}

section
variable {f : Frame} (hn : s.net[n]? = some (.wake r)) (hres : (s.tme r.ctx r.ltn).st = .resident) (hf : s.frame r = some f)
include hn hres hf

theorem exec_wake_recalls (hst : f.st = .away) (hm : f.moving = .no) :
    exec (.wake n) s = .next (((s.takePacket n).setFrame r { f with moving := .refill }).send (.recall r)) := by
  change execWake n s = _
  simp only [execWake, hn, hres, ne_eq, not_true, if_false, State.takePacket_at_frame, hf, hst, hm, and_self, if_true]

theorem exec_wake_idle (h : f.st ≠ .away ∨ f.moving ≠ .no) : exec (.wake n) s = .next (s.takePacket n) := by
  have hnot : ¬ (f.st = .away ∧ f.moving = .no) := fun ⟨hst, hm⟩ => h.elim (· hst) (· hm)
  change execWake n s = _
  simp only [execWake, hn, hres, ne_eq, not_true, if_false, State.takePacket_at_frame, hf, if_neg hnot]

end

theorem exec_deferredWakeSend (hn : s.net[n]? = some (.keptWake r)) :
    exec (.deferredWakeSend n) s = .next ((s.takePacket n).send (.wake r)) := by
  change execDeferredWakeSend n s = _
  simp only [execDeferredWakeSend, hn]

theorem exec_recall (hn : s.net[n]? = some (.recall r)) : exec (.recall n) s = .next ((s.takePacket n).send (.image r)) := by
  change execRecall n s = _
  simp only [execRecall, hn]

section
variable {f : Frame} {ptn g : Nat} {p : Phys} (hn : s.net[n]? = some (.image r)) (ht : s.ptnOf r.ctx r.ltn = some ptn)
  (hf : s.frame r = some f) (hm : f.moving = .refill) (hquota : s.quotaRoom r.ctx r.ltn r.core f.large = true)
  (hg : s.freeGranule ptn r.core f.large = some g) (hp : s.imagePhys (s.spillDev r) r .read = .ok p)
include hn ht hf hm hquota hg hp

/-- An image that breaks R6 is rejected. -/
theorem exec_refillInstall_rejects (hb : s.imageBroken p = true) :
    exec (.refillInstall n) s = .next (((s.takePacket n).devDone (s.spillDev r) (s.imageVa r) 2048).refillFailed r f) := by
  change execRefillInstall n s = _
  simp [execRefillInstall, hn, ht, hf, hm, hquota, hg, hp, hb]

theorem exec_refillInstall_installs (hb : s.imageBroken p = false) :
    exec (.refillInstall n) s = .next (((((((s.takePacket n).setFrame r (s.frameOfImage f p g)).devDone (s.spillDev r) (s.imageVa r)
      2048).send (.recallDone r)).settleFree r).drainOverflow ptn r.core).dloAgain r.ctx r.ltn) := by
  change execRefillInstall n s = _
  simp [execRefillInstall, hn, ht, hf, hm, hquota, hg, hp, hb]

end

/-- The signal that a kept one of the frame is replayed as. -/
def Packet.replayed (r : FrameRef) (p : Packet) : Option Packet :=
  match p with
  | .keptSignal q c d st => if q = r then some (Packet.signal r.ctx r.ltn c d st) else none
  | _ => none

/-- A packet that is not a kept signal of the frame. -/
def Packet.passesReplay (r : FrameRef) (p : Packet) : Bool :=
  match p with
  | .keptSignal q _ _ _ => decide (q ≠ r)
  | _ => true

theorem Packet.passesReplay_iff {p : Packet} : p.passesReplay r = true ↔ ∀ c d st, p ≠ .keptSignal r c d st := by
  cases p with
  | keptSignal q c d st =>
    rw [passesReplay, decide_eq_true_eq]
    exact ⟨fun hq c' d' st' h => hq (Packet.keptSignal.inj h).1, fun h hq => h c d st (by rw [hq])⟩
  | _ => simp [passesReplay]

theorem exec_recallDone (hn : s.net[n]? = some (.recallDone r)) :
    exec (.recallDone n) s = .next { s.takePacket n with
      net := (s.takePacket n).net.filter (Packet.passesReplay r) ++ (s.takePacket n).net.filterMap (Packet.replayed r) } := by
  change execRecallDone n s = _
  simp only [execRecallDone, hn]
  rfl

end

/-! ## Records and packets that wait (R374, R387) -/

section
variable {s : State} {n : Nat}

theorem exec_trapQueueRetry {j : TrapJob} {s1 : State} (hj : s.jobs[n]? = some j) (haway : s.jobAway j = false)
    (hfirst : ∀ x ∈ s.jobs.take n, x.ctx = j.ctx → s.jobAway x = true)
    (hrun : State.runJob { s with jobs := dropNth s.jobs n } j = .ok s1) : exec (.trapQueueRetry n) s = .next s1 := by
  have hnone : ((s.jobs.take n).any fun x => decide (x.ctx = j.ctx) && !s.jobAway x) = false :=
    List.any_eq_false.mpr fun x hx => by simpa using hfirst x hx
  change execTrapQueueRetry n s = _
  simp only [execTrapQueueRetry, hj, haway, hnone, Bool.false_eq_true, or_self, if_false, hrun]

/-- A packet that is kept, where it is no SPAWN's record. -/
theorem exec_evictedTilePacket {p : Packet} (hn : s.net[n]? = some p) (hspawn : ∀ c l k any t id, p ≠ .spawn c l k any t id)
    (haway : s.boundAway p = true) (hfirst : s.behindOther n p = false) (hroom : s.deferredRoom p.ctx = true) :
    exec (.evictedTilePacket n) s = .next { s.takePacket n with kept := s.kept ++ [p] } := by
  have hgo : ¬ ((!s.boundAway p) = true ∨ s.behindOther n p = true) := by simp [haway, hfirst]
  change execEvictedTilePacket n s = _
  unfold execEvictedTilePacket
  rw [hn]
  split
  case h_1 c l k any t id h => exact absurd (Option.some.inj h) (hspawn c l k any t id)
  case h_2 q _ h =>
    obtain rfl := Option.some.inj h
    exact (if_neg hgo).trans (if_pos hroom)
  case h_3 h => cases h

end

/-- Settles O47, step by step. -/
theorem spillAndRefill : Obligations.SpillAndRefill := by
  unfold Obligations.SpillAndRefill
  intro s ctx ltn core frm n
  refine ⟨fun ptn f s1 => exec_spillStart, fun f o hf hm ho => ?check, fun cont datum status => exec_forwardApply_kept,
    fun cont datum status f hn hrec hf => ?signal, fun rtag slot op id f p hn hf htag hrec => ?operation,
    fun f hn hres hf => ⟨exec_wake_recalls hn hres hf, exec_wake_idle hn hres hf⟩, exec_deferredWakeSend, exec_recall,
    fun f ptn g p hn ht hf hm hquota hg hp =>
      ⟨exec_refillInstall_rejects hn ht hf hm hquota hg hp, exec_refillInstall_installs hn ht hf hm hquota hg hp⟩,
    fun hn => ?replay, fun j s1 => exec_trapQueueRetry, fun p => exec_evictedTilePacket⟩
  case check =>
    exact ⟨exec_spillCheck_away hf hm ho, fun s1 hdue hd => exec_spillCheck_rewrites hf hm ho hdue hd, exec_spillCheck_stays hf hm ho⟩
  case signal =>
    exact ⟨exec_forwardApply_stale hn hrec hf, exec_forwardApply_sendsOn hn hrec hf, fun htag hst =>
      ⟨fun p => exec_forwardApply_image hn hrec hf htag hst, fun e hp hwait => exec_forwardApply_unreached hn hrec hf htag hst hwait hp⟩⟩
  case operation =>
    intro d hst hp s1 busy lost
    have hlost {k : Nat} : lost k ↔ k ∈ op.touches slot ∧ s1.imageSlotBad p k = true := and_congr_left' ImageOp.mem_touches.symm
    have hfind (h : ∀ k, ¬ lost k) : (op.touches slot).find? (s1.imageSlotBad p) = none :=
      List.find?_eq_none.mpr fun k hk hbad => h k (hlost.mpr ⟨hk, hbad⟩)
    rw [exec_forwardApply_operation hn hf htag hrec hst hp]
    refine ⟨fun k hk hfirst => ?_, fun c h hc => congrArg _ (imageOperation_refused (hfind h) hc),
      fun h hc => congrArg _ (imageOperation_applies (hfind h) hc)⟩
    obtain ⟨hmem, hbad⟩ := hlost.mp hk
    exact congrArg _ (imageOperation_lost (ImageOp.find_touches hmem hbad fun j hj hmem =>
      Bool.eq_false_iff.mpr fun hbad => hfirst j hj (hlost.mpr ⟨hmem, hbad⟩)))
  case replay =>
    exact ⟨_, exec_recallDone hn, List.filter_sublist, fun p hp => by simp [hp, Packet.passesReplay_iff]⟩

end Sys2Proof.Machine
end

section
/-! PROOFS. FLAGS (O16), and the instructions on frames that a continuation names (O32, O31). -/

namespace Sys2Proof.Machine

/-! ## FLAGS (R188) -/

/-- What a new part has in common with the old one is read as before, whatever part is read. -/
theorem part_setPart_keeps {α : Type} (get : Part → α) (s : State) {c l : Nat} {p : Part} (h : get p = get (s.part c l)) (c' l' : Nat) :
    get ((s.setPart c l p).part c' l') = get (s.part c' l') := by
  by_cases hk : partKey c' l' = partKey c l
  · have hpart : ∀ u : State, u.part c' l' = u.part c l := fun u => by rw [State.part, State.part, hk]
    rw [hpart, hpart, State.part_setPart_same, h]
  · rw [State.part_setPart_other s p hk]

theorem modFrame_sflag (s : State) (r : FrameRef) (k : Frame → Frame) (ctx ltn : Nat) :
    ((s.modFrame r k).part ctx ltn).sflag = (s.part ctx ltn).sflag := by
  unfold State.modFrame
  split
  next f _ => exact part_setPart_keeps Part.sflag s (p := (s.part r.ctx r.ltn).setCore r.core _) rfl ctx ltn
  next => rfl

/-- The flags that a tile has merged belong to no operand. -/
theorem writeOp_sflag (s : State) (t : Threadlet) (d : Operand) (x : Word) (ctx ltn : Nat) :
    ((writeOp s t d x).1.part ctx ltn).sflag = (s.part ctx ltn).sflag := by
  cases d with
  | f n => exact modFrame_sflag s t.ref _ ctx ltn
  | _ => rw [writeOp_state s t (by simp)]

theorem writeOp_flags (s : State) (t : Threadlet) (d : Operand) (x : Word) : (writeOp s t d x).2.flags = t.flags := by
  obtain ⟨w, k, lr, bad, h⟩ := writeOp_threadlet s t d x
  rw [h]

/-- Settles O16: the body writes the flags as an operand of the threadlet that has cleared them. -/
theorem flagsReadAndClear : Obligations.FlagsReadAndClear := by
  unfold Obligations.FlagsReadAndClear
  intro s t g d h hb u r
  refine ⟨exec_of_next h rfl (if_neg (Bool.eq_false_iff.mp hb)) (quiet_zero s t), writeOp_flags s u d _, ?_, writeOp_sflag s u d _⟩
  rintro rfl
  rfl

/-! ## The frame that a continuation names (R174) -/

section
variable {s : State} {t : Threadlet} {c : Word}

/-- A continuation that fails one of R174's tests names no frame. -/
theorem namedFrame_none (h : contV c = false ∨ contMbz c ≠ 0 ∨ contPkg c ≠ s.pkgSelf t.ctx ∨ contLtn c ≠ t.ltn ∨ contCore c ≠ t.core ∨
    ∀ f, s.frame ⟨t.ctx, t.ltn, t.core, contFrm c⟩ = some f → f.rtag ≠ contRtag c) : s.namedFrame (s.view t) c = none := by
  by_cases hfields : (!contV c) = true ∨ contMbz c ≠ 0 ∨ contPkg c ≠ s.pkgSelf t.ctx ∨ contLtn c ≠ t.ltn ∨ contCore c ≠ t.core
  · exact if_pos hfields
  · have htag : ∀ f, s.frame ⟨t.ctx, t.ltn, t.core, contFrm c⟩ = some f → f.rtag ≠ contRtag c := by
      simp only [Bool.not_eq_true'] at hfields
      tauto
    refine (if_neg hfields).trans ?_
    rw [view_t]
    rcases hf : s.frame ⟨t.ctx, t.ltn, t.core, contFrm c⟩ with _ | f
    · rfl
    · exact if_neg (htag f hf)

end

/-! ## FNEW (R175) -/

section
variable {s : State} {t : Threadlet} {g : Guard} {large : Bool} {d : Operand} {q : Target} (h : Executes s t (.fnew g large d q))
include h

theorem exec_fnew_creates {n : FrameRef} {s2 : State}
    (hc : (s.addReq (s.ask t (.fnew g large d q) (.fnew large) q (wordIndex d))).createFrame t.ctx t.ltn t.core large = some (n, s2)) :
    exec (.fnew g large d q) s = .next ((s2.answer (s.ask t (.fnew g large d q) (.fnew large) q (wordIndex d)).id .ok [some (s2.fpOf n)]).retired
      s.cur t.pc (.fnew g large d q) t 0) :=
  exec_of_retire h rfl (by simp only [newReq_eq_ask, view_t, hc])

theorem exec_fnew_waits
    (hc : (s.addReq (s.ask t (.fnew g large d q) (.fnew large) q (wordIndex d))).createFrame t.ctx t.ltn t.core large = none) :
    let r := s.ask t (.fnew g large d q) (.fnew large) q (wordIndex d)
    let p := (s.addReq r).partCore t.ctx t.ltn t.core
    exec (.fnew g large d q) s = .next (((s.addReq r).setPartCore t.ctx t.ltn t.core { p with waits := p.waits ++ [r.id] }).retired
      s.cur t.pc (.fnew g large d q) t 0) :=
  exec_of_retire h rfl (by simp only [newReq_eq_ask, view_t, hc])

end

/-! ## FFREE (R176) -/

/-- A slot that awaits signals or holds firings, or an entry in the queue, keeps a frame from being freed. -/
theorem Frame.busy_of_work {f : Frame} {p : PartCore} {k : Nat}
    (h : (∃ e ∈ f.slots, e.2.count ≠ 0 ∨ e.2.pn ≠ 0) ∨ (∃ e ∈ p.ready, e.frm = k)) : f.busy (p.qn k) = true := by
  rw [Frame.busy, Bool.or_eq_true, decide_eq_true_eq]
  refine h.imp (fun ⟨e, he, hwork⟩ => List.any_eq_true.mpr ⟨e, he, by simpa using hwork⟩) fun ⟨e, he, hfrm⟩ hzero => ?_
  have hnone := List.length_eq_zero_iff.mp (Nat.add_eq_zero_iff.mp hzero).1
  exact List.filter_eq_nil_iff.mp hnone e he (decide_eq_true hfrm)

section
variable {s : State} {t : Threadlet} {g : Guard} {x : Operand} (h : Executes s t (.ffree g x))
include h

theorem ffree_unnamed (hn : s.namedFrame (s.view t) (s.readOp (s.view t) x) = none) : TrapsAt s t (.ffree g x) 0x03 0 :=
  exec_of_trap h rfl (by simp only [hn]; rfl) (by decide)

variable {n : FrameRef} {f : Frame} (hn : s.namedFrame (s.view t) (s.readOp (s.view t) x) = some (n, f))
include hn

theorem exec_ffree_away (hst : f.st = .away) : exec (.ffree g x) s =
    .next ((s.sendImageOp (s.view t) (firstWord (.ffree g x)) n f.rtag (contSlot (s.readOp (s.view t) x)) .ffree).retired
      s.cur t.pc (.ffree g x) t 0) :=
  exec_of_retire h rfl (by simp only [hn, hst, if_true, view_t])

variable (hst : f.st ≠ .away)
include hst

theorem exec_ffree_again (hp : f.pendingFree = true) : exec (.ffree g x) s = .next (s.retired s.cur t.pc (.ffree g x) t 0) :=
  exec_of_retire h rfl (by simp only [hn, hst, hp, if_true, if_false, view_t])

variable (hp : f.pendingFree = false) (hgood : f.badSlots = [])
include hp hgood

theorem ffree_busy (hb : f.busy ((s.partCore n.ctx n.ltn n.core).qn n.frm) = true) : TrapsAt s t (.ffree g x) 0x22 0 :=
  exec_of_trap h rfl (by simp [hn, hst, hp, hgood, hb, trapWith]) (by decide)

theorem exec_ffree_marks (hb : f.busy ((s.partCore n.ctx n.ltn n.core).qn n.frm) = false) (hpost : s.postedIn n = false) :
    exec (.ffree g x) s =
      .next (((s.setFrame n { f.touch with pendingFree := true }).settleFree n).retired s.cur t.pc (.ffree g x) t 0) :=
  exec_of_retire h rfl (by simp [hn, hst, hp, hgood, hb, hpost])

end

/-! ## SLOTI and SLOTA (R177, R178) -/

/-- The checks of SLOTI and SLOTA: first those of their continuation. -/
def State.slotChecks (s : State) (v : View) (x : Operand) (more : List (List Operand × Bool × Nat)) : List (List Operand × Bool × Nat) :=
  ([x], (s.namedFrame v (s.readOp v x)).isNone, 0x03) :: ([x], (s.namedFrame v (s.readOp v x)).any fun e => e.2.pendingFree, 0x22) :: more

/-- SLOTI's check of its slot word. -/
def State.slotWordCheck (s : State) (v : View) (y : Operand) : List Operand × Bool × Nat :=
  ([y], decide ((s.readOp v y).toNat / 2 ^ 24 % 16 ≠ 0), 0x02)

section
variable {s : State} {t : Threadlet} {i : Instr} {g : Guard} {x y : Operand} {n : FrameRef} {f : Frame}
  {more : List (List Operand × Bool × Nat)} {sources : List Operand}

/-- X, which an instruction reads beside Y, is not poisoned. -/
theorem poisonedSource_first (h : s.poisonedSource t [x, y] = none) : s.poisonedSource t [x] = none := poisonedSource_subset h (by simp)

/-- With no check left, sources that are not poisoned let the instruction go on. -/
theorem checked_clean {sources : List Operand} (h : s.poisonedSource t sources = none) : s.checked (s.view t) [] sources = none := by
  rw [checked_nil, view_t, (poisonTrap_none_iff s t sources).mpr h]

theorem sloti_checks (h : Executes s t (.sloti g x y)) :
    ChecksList s t (.sloti g x y) (s.slotChecks (s.view t) x [s.slotWordCheck (s.view t) y]) [x, y] := by
  intro c hc h30
  rw [State.slotChecks, State.slotWordCheck] at hc
  exact exec_of_trap h rfl (by simp only [hc]; rfl) h30

theorem slota_checks (h : Executes s t (.slota g x y)) : ChecksList s t (.slota g x y) (s.slotChecks (s.view t) x []) [x, y] := by
  intro c hc h30
  rw [State.slotChecks] at hc
  exact exec_of_trap h rfl (by simp only [hc]; rfl) h30

/-- A continuation that names no frame fails the first check. -/
theorem ChecksList.unnamed (h : ChecksList s t i (s.slotChecks (s.view t) x more) sources) (hx : s.poisonedSource t [x] = none)
    (hn : s.namedFrame (s.view t) (s.readOp (s.view t) x) = none) : TrapsAt s t i 0x03 0 :=
  h.head (by rw [hn]; rfl) hx (by decide)

/-- A frame whose freeing is pending fails the second. -/
theorem ChecksList.pending (h : ChecksList s t i (s.slotChecks (s.view t) x more) sources) (hx : s.poisonedSource t [x] = none)
    (hn : s.namedFrame (s.view t) (s.readOp (s.view t) x) = some (n, f)) (hp : f.pendingFree = true) : TrapsAt s t i 0x22 0 :=
  (h.tail (by rw [hn]; rfl)).head (by rw [hn]; exact hp) hx (by decide)

/-- A frame that is named and stays passes both. -/
theorem slotChecks_pass (hn : s.namedFrame (s.view t) (s.readOp (s.view t) x) = some (n, f)) (hp : f.pendingFree = false) :
    s.checked (s.view t) (s.slotChecks (s.view t) x more) sources = s.checked (s.view t) more sources := by
  rw [State.slotChecks, checked_passes (by rw [hn]; rfl), checked_passes (by rw [hn]; exact hp)]

variable (hn : s.namedFrame (s.view t) (s.readOp (s.view t) x) = some (n, f)) (hp : f.pendingFree = false)
include hn hp

theorem sloti_badWord (h : Executes s t (.sloti g x y)) (hw : (s.readOp (s.view t) y).toNat / 2 ^ 24 % 16 ≠ 0) :
    TrapsAt s t (.sloti g x y) 0x02 0 := by
  have hclean : s.poisonedSource t [x, y] = none := plainSources_clean h rfl
  have hfails : s.checked (s.view t) [s.slotWordCheck (s.view t) y] [x, y] = some (trapWith 0x02) :=
    checked_fails (decide_eq_true hw) (poisonedSource_subset hclean (by simp))
  exact sloti_checks h 0x02 ((slotChecks_pass hn hp).trans hfails) (by decide)

theorem sloti_passes (h : Executes s t (.sloti g x y)) (hw : (s.readOp (s.view t) y).toNat / 2 ^ 24 % 16 = 0) :
    s.checked (s.view t) (s.slotChecks (s.view t) x [s.slotWordCheck (s.view t) y]) [x, y] = none := by
  have hclean : s.poisonedSource t [x, y] = none := plainSources_clean h rfl
  rw [slotChecks_pass hn hp, State.slotWordCheck, checked_passes (decide_eq_false (not_not.mpr hw)), checked_clean hclean]

theorem slota_passes (h : Executes s t (.slota g x y)) : s.checked (s.view t) (s.slotChecks (s.view t) x []) [x, y] = none :=
  (slotChecks_pass hn hp).trans (checked_clean (plainSources_clean h rfl))

end

/-! What SLOTI writes. -/

theorem Frame.SameButWords.badSlots_eq {f f' : Frame} (h : f.SameButWords f') : f'.badSlots = f.badSlots := by
  unfold Frame.SameButWords at h
  rw [h]

theorem Frame.slot_setSlot_same (f : Frame) (k : Nat) (u : Slot) : (f.setSlot k u).slot k = u := Tab.get_set_same _ _ _ _

theorem decide_bit_eq_getLsbD (w : Word) (k : Nat) : decide (w.toNat / 2 ^ k % 2 = 1) = w.getLsbD k :=
  (Nat.testBit_eq_decide_div_mod_eq ..).symm

/-- The fields of a slot word by their bits (R143, R177). -/
theorem slotOfWord_eq (w : Word) (pn : Nat) : slotOfWord w pn =
    ⟨w.toNat / 2 ^ 32, w.getLsbD 31, w.getLsbD 30, w.getLsbD 29, false, w.toNat / 2 ^ 12 % 4096, w.toNat % 4096, pn, 0, 0⟩ := by
  simp only [slotOfWord, decide_bit_eq_getLsbD]

theorem slotiFrame_slot (f : Frame) (k : Nat) (w : Word) : (slotiFrame f k w).slot k = slotOfWord w (f.slot k).pn :=
  Frame.slot_setSlot_same f k _

theorem slotiFrame_touch (f : Frame) (k : Nat) (w : Word) : slotiFrame f.touch k w =
    { f.touch.setSlot k (slotOfWord w (f.touch.slot k).pn) with badSlots := f.badSlots.filter (· != k) } := by
  rw [slotiFrame, f.touch_sameButWords.badSlots_eq]

/-- SLOTA's count, in range and out of it (R178). -/
theorem slotaCount_in {u : Slot} {delta : Int} (h0 : 0 ≤ (u.count : Int) + delta) (h1 : (u.count : Int) + delta ≤ 4095) :
    slotaCount u delta = some ((u.count : Int) + delta).toNat := if_pos ⟨h0, h1⟩

theorem slotaCount_out {u : Slot} {delta : Int} (h : (u.count : Int) + delta < 0 ∨ 4095 < (u.count : Int) + delta) :
    slotaCount u delta = none := if_neg (by omega)

section
variable {s : State} {t : Threadlet} {g : Guard} {x y : Operand} {n : FrameRef} {f : Frame}
  (hn : s.namedFrame (s.view t) (s.readOp (s.view t) x) = some (n, f)) (hp : f.pendingFree = false)
include hn hp

section
variable (h : Executes s t (.sloti g x y)) (hw : (s.readOp (s.view t) y).toNat / 2 ^ 24 % 16 = 0)
include h hw

theorem exec_sloti_away (hst : f.st = .away) : exec (.sloti g x y) s =
    .next ((s.sendImageOp (s.view t) (firstWord (.sloti g x y)) n f.rtag (contSlot (s.readOp (s.view t) x))
      (.sloti (s.readOp (s.view t) y))).retired s.cur t.pc (.sloti g x y) t 0) := by
  have hc := sloti_passes hn hp h hw
  rw [State.slotChecks, State.slotWordCheck, hn] at hc
  exact exec_of_retire h rfl (by simp only [hc, hn, hst, if_true, view_t])

theorem exec_sloti_here (hst : f.st ≠ .away) :
    let c := s.readOp (s.view t) x
    let w := s.readOp (s.view t) y
    let s1 := s.setFrame n (slotiFrame f.touch (contSlot c) w)
    exec (.sloti g x y) s = .next ((if w.getLsbD 31 = true ∧ w.toNat % 4096 = 0 then s1.due n (contSlot c) else s1).retired
      s.cur t.pc (.sloti g x y) t 0) := by
  have hc := sloti_passes hn hp h hw
  rw [State.slotChecks, State.slotWordCheck, hn] at hc
  exact exec_of_retire h rfl (by simp only [hc, hn, hst, if_false, view_t, slotiFrame_slot, slotOfWord_eq])

end

section
variable (h : Executes s t (.slota g x y))
include h

theorem exec_slota_away (hst : f.st = .away) : exec (.slota g x y) s =
    .next ((s.sendImageOp (s.view t) (firstWord (.slota g x y)) n f.rtag (contSlot (s.readOp (s.view t) x))
      (.slota (s.readOp (s.view t) y).toInt)).retired s.cur t.pc (.slota g x y) t 0) := by
  have hc := slota_passes hn hp h
  rw [State.slotChecks, hn] at hc
  exact exec_of_retire h rfl (by simp only [hc, hn, hst, if_true, view_t])

variable (hst : f.st ≠ .away) (hgood : f.badSlots.contains (contSlot (s.readOp (s.view t) x)) = false)
include hst hgood

theorem slota_outside (hout : ((f.slot (contSlot (s.readOp (s.view t) x))).count : Int) + (s.readOp (s.view t) y).toInt < 0 ∨
    4095 < ((f.slot (contSlot (s.readOp (s.view t) x))).count : Int) + (s.readOp (s.view t) y).toInt) :
    TrapsAt s t (.slota g x y) 0x03 0 := by
  have hc := slota_passes hn hp h
  rw [State.slotChecks, hn] at hc
  exact exec_of_trap h rfl (by simp only [hc, hn, hst, hgood, Bool.false_eq_true, if_false, slotaCount_out hout]; rfl) (by decide)

theorem exec_slota_here {m : Nat}
    (hm : slotaCount (f.slot (contSlot (s.readOp (s.view t) x))) (s.readOp (s.view t) y).toInt = some m) :
    let k := contSlot (s.readOp (s.view t) x)
    let s1 := s.setFrame n (f.touch.setSlot k { f.slot k with count := m, armed := true })
    exec (.slota g x y) s = .next ((if m = 0 then s1.due n k else s1).retired s.cur t.pc (.slota g x y) t 0) := by
  have hc := slota_passes hn hp h
  rw [State.slotChecks, hn] at hc
  exact exec_of_retire h rfl (by simp only [hc, hn, hst, hgood, Bool.false_eq_true, if_false, hm, view_t])

end

end

/-- Settles O32: each of the three tests its continuation first, and then its frame or its operand. -/
theorem frameInstructionTraps : Obligations.FrameInstructionTraps := by
  unfold Obligations.FrameInstructionTraps
  intro s t i g x y h v c w
  refine ⟨fun hi hbad => ?unnamed, fun n f hn => ⟨fun hi hp => ?pending, fun hi hst hp hgood hwork => ?busy, fun hi hp hw => ?word,
    fun hi hp hst hgood hout => ?count⟩⟩
  case unnamed =>
    have hn := namedFrame_none hbad
    rcases hi with rfl | rfl | rfl
    · exact ffree_unnamed h hn
    · exact (sloti_checks h).unnamed (poisonedSource_first (plainSources_clean h rfl)) hn
    · exact (slota_checks h).unnamed (poisonedSource_first (plainSources_clean h rfl)) hn
  case pending =>
    rcases hi with rfl | rfl
    · exact (sloti_checks h).pending (poisonedSource_first (plainSources_clean h rfl)) hn hp
    · exact (slota_checks h).pending (poisonedSource_first (plainSources_clean h rfl)) hn hp
  case busy =>
    subst hi
    exact ffree_busy h hn hst hp hgood (Frame.busy_of_work hwork)
  case word =>
    subst hi
    exact sloti_badWord hn hp h hw
  case count =>
    subst hi
    exact slota_outside hn hp h hst hgood hout

/-- Settles O31, instruction by instruction and branch by branch. -/
theorem frameInstructions : Obligations.FrameInstructions := by
  unfold Obligations.FrameInstructions
  intro s t g large d x y q v c w
  refine ⟨?fnew, fun n f hn => ⟨?ffree, fun hp => ?sloti, fun hp => ?slota⟩⟩
  case fnew =>
    rintro i rfl h
    exact ⟨fun n s2 => exec_fnew_creates h, exec_fnew_waits h⟩
  case ffree =>
    rintro i rfl h
    exact ⟨exec_ffree_away h hn, exec_ffree_again h hn, exec_ffree_marks h hn⟩
  case sloti =>
    rintro i rfl h hw
    refine ⟨exec_sloti_away hn hp h hw, fun hst => ?_⟩
    intro slot s1
    have hs1 : s.setFrame n (slotiFrame f.touch (contSlot c) w) = s1 := by rw [slotiFrame_touch, slotOfWord_eq]
    rw [← hs1]
    exact exec_sloti_here hn hp h hw hst
  case slota =>
    rintro i rfl h
    refine ⟨exec_slota_away hn hp h, fun hst hgood h0 h1 => ?_⟩
    have hzero : (((f.slot (contSlot c)).count : Int) + w.toInt).toNat = 0 ↔ ((f.slot (contSlot c)).count : Int) + w.toInt = 0 := by omega
    simp only [← hzero]
    exact exec_slota_here hn hp h hst hgood (slotaCount_in h0 h1)

end Sys2Proof.Machine
end

section
/-! PROOFS. Signals, continuations, tasks and launches (O33), and barriers, KEND and TIDX (O34). -/

namespace Sys2Proof.Machine

/-! ## SIG and SIGD (R179) -/

/-- A signal is delivered at once, or held with release behind the frame's earlier accesses (R206). -/
theorem sendSignal_eq (s : State) (t : Threadlet) (rel : Bool) (c : Word) (datum : Datum) (st : Nat) :
    let h := s.hold t.ref (s.relPod t.ctx c) true (.signal c datum st)
    s.sendSignal (s.view t) rel c datum st =
      if rel = true ∧ s.heldReady h = false then { s with held := s.held ++ [h] } else s.deliver s.cur.ptn t.ctx c datum st := by
  simp only [State.sendSignal, Bool.not_eq_true']
  rfl

section
variable {s : State} {t : Threadlet} {g : Guard} {st : Status} {rel : Bool} {x y : Operand}

section
variable (h : Executes s t (.sig g st rel x))
include h

theorem exec_sig_nowhere (hv : contV (s.readOp (s.view t) x) = false) :
    exec (.sig g st rel x) s = .next (s.retired s.cur t.pc (.sig g st rel x) t 0) :=
  exec_of_retire h rfl (by simp [hv])

theorem exec_sig_sends (hv : contV (s.readOp (s.view t) x) = true) (hm : contMbz (s.readOp (s.view t) x) = 0) :
    let c := s.readOp (s.view t) x
    exec (.sig g st rel x) s = .next ((s.sendSignal (s.view t) rel (contWith c (contSlot c) 0xFF) [] (statusCode st)).retired
      s.cur t.pc (.sig g st rel x) t 0) :=
  exec_of_retire h rfl (by simp [hv, hm])

end

section
variable (h : Executes s t (.sigd g st rel x y))
include h

/-- A continuation with V = 0, or with its zero field zero, passes SIGD's check. -/
theorem sigd_passes (hc : (contV (s.readOp (s.view t) x) && decide (contMbz (s.readOp (s.view t) x) ≠ 0)) = false) :
    s.checked (s.view t) [([x], contV (s.readOp (s.view t) x) && decide (contMbz (s.readOp (s.view t) x) ≠ 0), 0x03)] [x] = none :=
  (checked_passes hc).trans (checked_clean (poisonedSource_first (plainSources_clean h rfl)))

theorem exec_sigd_nowhere (hv : contV (s.readOp (s.view t) x) = false) :
    exec (.sigd g st rel x y) s = .next (s.retired s.cur t.pc (.sigd g st rel x y) t 0) := by
  refine exec_of_retire h rfl ((congrArg (Option.getD · _) (sigd_passes h (by rw [hv]; rfl))).trans ?_)
  rw [hv]
  rfl

theorem exec_sigd_sends (hv : contV (s.readOp (s.view t) x) = true) (hm : contMbz (s.readOp (s.view t) x) = 0) :
    exec (.sigd g st rel x y) s = .next ((s.sendSignal (s.view t) rel (s.readOp (s.view t) x) [some (s.readOp (s.view t) y)]
      (statusCode st)).retired s.cur t.pc (.sigd g st rel x y) t 0) := by
  have hsources : s.poisonedSource t [x, y] = none := plainSources_clean h rfl
  have hy : s.poisonTrap t [y] = none := (poisonTrap_none_iff s t [y]).mpr (poisonedSource_subset hsources (by simp))
  refine exec_of_retire h rfl ((congrArg (Option.getD · _) (sigd_passes h (by rw [hm]; exact Bool.and_false _))).trans ?_)
  rw [hv]
  exact congrArg (Option.getD · _) hy

end

end

/-! ## CONT, SPAWN and LAUNCH (R180, R181, R183) -/

/-- A task record goes to the target that Y names, or its request is refused. -/
def State.sendTask (s : State) (v : View) (y : Operand) (task : Task) (id : Nat) : State :=
  match s.spawnTarget v (s.readOp v y), taskOk task with
  | some (ltn, core, any), true => s.send (.spawn v.t.ctx ltn core any task id)
  | _, _ => s.answer id .refused []

section
variable {s : State} {t : Threadlet} {g : Guard} {d x y z : Operand} {q : Target}

theorem exec_cont (h : Executes s t (.cont g d x y z)) (hv : contV (s.readOp (s.view t) x) = true)
    (hm : contMbz (s.readOp (s.view t) x) = 0) (hn : (s.readOp (s.view t) y).toNat ≤ 7)
    (hw : (s.readOp (s.view t) z).toNat ≤ 119 ∨ (s.readOp (s.view t) z).toNat = 0xFF) :
    let r := contWith (s.readOp (s.view t) x) (s.readOp (s.view t) y).toNat (s.readOp (s.view t) z).toNat
    exec (.cont g d x y z) s = .next ((writeOp s t d r).1.retired s.cur t.pc (.cont g d x y z) (writeOp s t d r).2 0) := by
  have hclean : s.poisonedSource t [x, y, z] = none := plainSources_clean h rfl
  refine exec_of_retireOp h rfl (congrArg (Option.getD · _) (?_ : _ = none))
  rw [checked_passes (by rw [hv, hm]; rfl), checked_passes (decide_eq_false hn.not_gt), checked_passes (decide_eq_false (by omega)),
    checked_clean hclean]

theorem exec_spawn {n : Fin 120} {f : Frame} (h : Executes s t (.spawn g (.f n) y q)) (hf : (s.frame t.ref).map t.asIssued = some f)
    (hfit : n.val + 7 < frameWords f.large) (hp : ∀ k < 8, f.poison.contains (n.val + k) = false) (hy : s.poisonedSource t [y] = none) :
    let task : Task := (List.range 8).map fun k => f.word (n.val + k)
    let r := s.ask t (.spawn g (.f n) y q) (.spawn task) q 0xFF
    exec (.spawn g (.f n) y q) s = .next (((s.addReq r).sendTask (s.view t) y task r.id).retired s.cur t.pc (.spawn g (.f n) y q) t 0) := by
  have hfind : ((List.range 8).find? fun k => f.poison.contains (n.val + k)) = none :=
    List.find?_eq_none.mpr fun k hk => Bool.eq_false_iff.mp (hp k (List.mem_range.mp hk))
  refine exec_of_retire h rfl ?_
  simp only [view_t, hf, wordIndex, hfit.not_ge, if_false, hfind, (poisonTrap_none_iff s t [y]).mpr hy, newReq_eq_ask]
  rfl

/-- The request of an instruction that makes an access, as its body makes it. -/
theorem newReq_eq_asked (s : State) (t : Threadlet) (i : Instr) (k : ReqKind) (va : Word) (q : Target) (word : Nat) :
    s.newReq (s.view t) (firstWord i) (s.destOf (s.view t) q word) k va .relaxed .package false =
      s.asked t i ⟨k, va, false, word, .relaxed, .package, q⟩ := by
  cases q <;> rfl

theorem exec_launch (h : Executes s t (.launch g x y q)) (ha : (s.readOp (s.view t) x).toNat % 64 = 0) :
    let r : Req := s.asked t (.launch g x y q)
      ⟨.launch (s.readOp (s.view t) y).toNat false, s.readOp (s.view t) x, false, 0xFF, .relaxed, .package, q⟩
    let k := s.hold t.ref false false (.launch r.id)
    let s1 := s.addReq r
    exec (.launch g x y q) s = .next ((if s1.heldReady k then s1 else { s1 with held := s1.held ++ [k] }).retired s.cur t.pc
      (.launch g x y q) t 0) := by
  have hchecks : s.checked (s.view t) [([x], decide ((s.readOp (s.view t) x).toNat % 64 ≠ 0), 0x06)] [x, y] = none :=
    (checked_passes (decide_eq_false (not_not.mpr ha))).trans (checked_clean (plainSources_clean h rfl))
  refine exec_of_retire h rfl ((congrArg (Option.getD · _) hchecks).trans ?_)
  rw [newReq_eq_asked]
  rfl

end

/-- Settles O33, instruction by instruction. -/
theorem signalsAndTasks : Obligations.SignalsAndTasks := by
  unfold Obligations.SignalsAndTasks
  intro s t g st rel d x y z q v c send
  have hsend : ∀ c datum, s.sendSignal v rel c datum (statusCode st) = send c datum := fun c datum => sendSignal_eq s t rel c datum _
  refine ⟨?sig, ?sigd, ?cont, ?spawn, ?launch⟩
  case sig =>
    rintro i rfl h
    exact ⟨exec_sig_nowhere h, fun hv hm => hsend _ _ ▸ exec_sig_sends h hv hm⟩
  case sigd =>
    rintro i rfl h
    exact ⟨exec_sigd_nowhere h, fun hv hm => hsend _ _ ▸ exec_sigd_sends h hv hm⟩
  case cont =>
    rintro i rfl h
    exact exec_cont h
  case spawn =>
    rintro i n f rfl rfl h hf hfit hp hy
    exact exec_spawn h hf hfit hp hy
  case launch =>
    rintro i rfl h
    exact exec_launch h

/-! ## The arrival of a tile that has not ended (R185) -/

section
variable (s : State)

theorem inject_reqs (port node : Nat) (ual : Bool) (index : Nat) (body : OutBody) : (s.inject port node ual index body).reqs = s.reqs := by
  unfold State.inject
  split <;> rfl

theorem inject_parts (port node : Nat) (ual : Bool) (index : Nat) (body : OutBody) : (s.inject port node ual index body).parts = s.parts := by
  unfold State.inject
  split <;> rfl

/-- A packet that leaves the package, or has no way there, changes neither the requests nor the parts. -/
theorem emit_keeps (ctx pkg index : Nat) (mem : Bool) (body : OutBody) :
    ((s.emit ctx pkg index mem body).getD s).reqs = s.reqs ∧ ((s.emit ctx pkg index mem body).getD s).parts = s.parts := by
  rw [State.emit]
  cases s.egress ctx pkg index mem with
  | none => exact ⟨rfl, rfl⟩
  | some e => exact ⟨inject_reqs s .., inject_parts s ..⟩

theorem barSend_keeps (ctx index num : Nat) (ared up : Bool) (src : Nat) (val : Option Contrib) :
    (s.barSend ctx index num ared up src val).reqs = s.reqs ∧ (s.barSend ctx index num ared up src val).parts = s.parts := by
  unfold State.barSend
  split
  · exact ⟨rfl, rfl⟩
  · exact emit_keeps s ..
  · exact ⟨rfl, rfl⟩

end

/-- The requests stay, and so do the numbers that tiles have given their barriers. -/
structure State.KeepsNumbers (s u : State) : Prop where
  reqs : u.reqs = s.reqs
  issued : ∀ ctx ltn ared, (u.part ctx ltn).issued ared = (s.part ctx ltn).issued ared

theorem State.KeepsNumbers.refl (s : State) : s.KeepsNumbers s := ⟨rfl, fun _ _ _ => rfl⟩

theorem State.KeepsNumbers.trans {s u w : State} (hsu : s.KeepsNumbers u) (huw : u.KeepsNumbers w) : s.KeepsNumbers w :=
  ⟨huw.reqs.trans hsu.reqs, fun ctx ltn ared => (huw.issued ctx ltn ared).trans (hsu.issued ctx ltn ared)⟩

section
variable (s : State)

theorem setBar_keepsNumbers (ctx ltn : Nat) (b : BarNode) : s.KeepsNumbers (s.setPart ctx ltn ((s.part ctx ltn).setBar b)) :=
  ⟨rfl, fun c l ared => part_setPart_keeps (Part.issued · ared) s (p := (s.part ctx ltn).setBar b) rfl c l⟩

theorem barSend_keepsNumbers (ctx index num : Nat) (ared up : Bool) (src : Nat) (val : Option Contrib) :
    s.KeepsNumbers (s.barSend ctx index num ared up src val) := by
  obtain ⟨hreqs, hparts⟩ := barSend_keeps s ctx index num ared up src val
  exact ⟨hreqs, fun c l ared => by rw [State.part, hparts, State.part]⟩

/-- A place of the barrier tree sends at most one packet. -/
theorem tryBar_keepsNumbers (ctx ltn : Nat) (b : BarNode) : s.KeepsNumbers (s.tryBar ctx ltn b) := by
  unfold State.tryBar
  split
  · exact .refl s
  · split
    · exact .refl s
    · dsimp only
      split
      · split
        · exact (setBar_keepsNumbers s ctx ltn _).trans (barSend_keepsNumbers _ ..)
        · exact (setBar_keepsNumbers s ctx ltn _).trans (barSend_keepsNumbers _ ..)
      · exact .refl s

theorem postArrival_keepsNumbers (id : Nat) : s.KeepsNumbers (s.postArrival id) := by
  unfold State.postArrival
  split
  · exact .refl s
  · dsimp only
    split
    · exact (setBar_keepsNumbers s ..).trans (tryBar_keepsNumbers _ ..)
    · exact (setBar_keepsNumbers s ..).trans (tryBar_keepsNumbers _ ..)
    · exact .refl s

end

/-- The request enters the tables, and nothing else counts it (R203). -/
theorem addReq_uncounted (s : State) {r : Req} (h : r.counted = false) :
    s.addReq r = { s with reqs := s.reqs ++ [r], nextId := s.nextId + 1 } := by
  simp [State.addReq, h]

/-- A part that has given its next number to a barrier or an all-reduce. -/
def Part.numbered (p : Part) (ared : Bool) : Part :=
  if ared then { p with aredNext := p.issued ared + 1 } else { p with barNext := p.issued ared + 1 }

theorem Part.numbered_issued (p : Part) (ared : Bool) : (p.numbered ared).issued ared = p.issued ared + 1 := by
  cases ared <;> rfl

section
variable {s : State} {t : Threadlet} {q : Req} {ared : Bool} {kind : Nat → ReqKind}

/-- The state in which a tile has numbered an arrival and added its request. -/
def State.withArrival (s : State) (t : Threadlet) (q : Req) (ared : Bool) (kind : Nat → ReqKind) : State :=
  (s.setPart t.ctx t.ltn ((s.part t.ctx t.ltn).numbered ared)).addReq { q with kind := kind ((s.part t.ctx t.ltn).issued ared + 1) }

/-- With room, the arrival is then posted, or held behind the frame's earlier writes. -/
theorem arriveBar_room (he : (s.part t.ctx t.ltn).ended = false) (hroom : s.barsOut t.ctx t.ltn ared < 16) :
    ∃ h : Held, s.arriveBar (s.view t) q ared kind =
      let u := s.withArrival t q ared kind
      if u.heldReady h then u.postArrival q.id else { u with held := u.held ++ [h] } :=
  ⟨_, (if_neg hroom.not_ge).trans (if_neg (Bool.eq_false_iff.mp he))⟩

theorem arriveBar_keepsNumbers (he : (s.part t.ctx t.ltn).ended = false) (hroom : s.barsOut t.ctx t.ltn ared < 16) :
    (s.withArrival t q ared kind).KeepsNumbers (s.arriveBar (s.view t) q ared kind) := by
  obtain ⟨h, harrive⟩ := arriveBar_room (q := q) (kind := kind) he hroom
  rw [harrive]
  dsimp only
  split
  · exact postArrival_keepsNumbers _ _
  · exact ⟨rfl, fun _ _ _ => rfl⟩

variable (hcounted : q.counted = false)
include hcounted

theorem arriveBar_numbers (he : (s.part t.ctx t.ltn).ended = false) (hroom : s.barsOut t.ctx t.ltn ared < 16) :
    let n := (s.part t.ctx t.ltn).issued ared
    let u := s.arriveBar (s.view t) q ared kind
    (u.part t.ctx t.ltn).issued ared = n + 1 ∧ u.reqs = s.reqs ++ [{ q with kind := kind (n + 1) }] := by
  intro n u
  obtain ⟨hreqs, hissued⟩ := arriveBar_keepsNumbers (q := q) (kind := kind) he hroom
  rw [State.withArrival, addReq_uncounted _ (by exact hcounted)] at hreqs hissued
  refine ⟨(hissued t.ctx t.ltn ared).trans ?_, hreqs⟩
  exact (congrArg (Part.issued · ared) (State.part_setPart_same s t.ctx t.ltn _)).trans (Part.numbered_issued _ ared)

theorem arriveBar_refused (hfull : 16 ≤ s.barsOut t.ctx t.ltn ared) :
    let u := s.arriveBar (s.view t) q ared kind
    (u.part t.ctx t.ltn).issued ared = (s.part t.ctx t.ltn).issued ared ∧ u.net = s.net ∧ u.out = s.out ∧ u.held = s.held ∧
      ∀ r ∈ u.reqs, r.id = q.id → r.status = .refused ∧ r.performed = true := by
  have harrive : s.arriveBar (s.view t) q ared kind = (s.addReq { q with kind := .answered }).answer q.id .refused [] := if_pos hfull
  rw [addReq_uncounted s (by exact hcounted)] at harrive
  intro u
  simp only [u, harrive]
  refine ⟨rfl, rfl, rfl, rfl, fun r hr hid => ?_⟩
  obtain ⟨r', -, rfl⟩ := List.mem_map.mp hr
  split at hid
  next hname => rw [if_pos hname]; exact ⟨rfl, rfl⟩
  next hname => exact absurd (by simpa using hid) hname

end

/-! ## BAR, ARED, KEND and TIDX (R184 to R187) -/

/-- The facts of R187, by their numbers. -/
def State.tidxFacts (s : State) (t : Threadlet) (k : Kernel) : List Nat :=
  [t.ltn, t.ltn % k.width, t.ltn / k.width, k.width, k.height, k.width * k.height, s.pkgSelf t.ctx, k.npk + 1, k.steal,
    if (s.frame t.ref).any (·.large) then 1 else 0]

theorem tidxFact_eq (s : State) (t : Threadlet) (k : Kernel) (sel : Nat) : s.tidxFact (s.view t) k sel = (s.tidxFacts t k)[sel]? := by
  match sel with
  | 0 | 1 | 2 | 3 | 4 | 5 | 6 | 7 | 8 | 9 => rfl
  | sel + 10 => rfl

section
variable {s : State} {t : Threadlet} {g : Guard} {op : RedOp} {ty : Ty} {d x : Operand} {q : Target}

theorem exec_bar (h : Executes s t (.bar g q)) :
    exec (.bar g q) s = .next ((s.arriveBar (s.view t) (s.ask t (.bar g q) (.bar 0) q 0xFF) false .bar).retired s.cur t.pc (.bar g q) t 0) := by
  rw [← newReq_eq_ask]
  exact exec_of_retire h rfl rfl

theorem exec_ared (h : Executes s t (.ared g op ty d x q)) :
    let value := (s.readOp (s.view t) x).toNat % 2 ^ ty.width
    exec (.ared g op ty d x q) s = .next ((s.arriveBar (s.view t) (s.ask t (.ared g op ty d x q) (.ared 0 op ty value) q (wordIndex d)) true
      fun n => .ared n op ty value).retired s.cur t.pc (.ared g op ty d x q) t 0) := by
  intro value
  rw [← newReq_eq_ask]
  exact exec_of_retire h rfl rfl

theorem exec_kend (h : Executes s t (.kend g)) (hb : t.badFlags = false) :
    let s1 := s.endThreadlet (s.view t)
    exec (.kend g) s = .next (if (s1.part t.ctx t.ltn).ended then s1.finishPart t.ctx t.ltn
      else ((s1.startEnd t.ctx t.ltn).pumpBars t.ctx).finishPart t.ctx t.ltn) :=
  exec_of_ended h rfl ((if_neg (Bool.eq_false_iff.mp hb)).trans (apply_ite Res.ended ..).symm)

variable {k : Kernel} (h : Executes s t (.tidx g d x)) (hk : s.kernel t.ctx = some k)
include h hk

theorem exec_tidx_fact {n : Nat} (hn : (s.tidxFacts t k)[(s.readOp (s.view t) x).toNat]? = some n) : exec (.tidx g d x) s =
    .next ((writeOp s t d (BitVec.ofNat 64 n)).1.retired s.cur t.pc (.tidx g d x) (writeOp s t d (BitVec.ofNat 64 n)).2 0) :=
  exec_of_retireOp h rfl (by simp only [view_t, hk, tidxFact_eq, hn])

theorem tidx_none (hn : (s.tidxFacts t k)[(s.readOp (s.view t) x).toNat]? = none) : TrapsAt s t (.tidx g d x) 0x03 0 :=
  exec_of_trap h rfl (by simp only [view_t, hk, tidxFact_eq, hn]; rfl) (by decide)

end

/-- Settles O34: the instructions by their bodies, and an arrival by the room that its tile has. -/
theorem barrierInstructions : Obligations.BarrierInstructions := by
  unfold Obligations.BarrierInstructions
  refine ⟨fun s t g op ty d x q => ⟨?bar, ?ared, ?kend, ?tidx⟩, fun s t q ared kind _ hcounted he =>
    ⟨arriveBar_numbers hcounted he, arriveBar_refused hcounted⟩⟩
  case bar =>
    rintro i rfl h
    exact exec_bar h
  case ared =>
    rintro i rfl h
    exact exec_ared h
  case kend =>
    rintro i rfl h hb
    exact exec_kend h hb
  case tidx =>
    rintro i k rfl h hk
    exact ⟨fun n => exec_tidx_fact h hk, tidx_none h hk⟩

end Sys2Proof.Machine
end

section
/-! PROOFS. Accesses performed at their home: reads, writes and atomics (R195, R197, R200, R205, R214, R220 to R223; O44), and I-structures
and watches (R198, R210 to R213, R224, R225; O45). -/

namespace Sys2Proof.Machine

/-! ## A request whose home may perform it now -/

/-- Taking a local word changes nothing of a request but its datum and, where it meets poison, its answer. -/
theorem gatherWord_keeps (s : State) (r : Req) :
    (s.gatherWord r).ref = r.ref ∧ (s.gatherWord r).kind = r.kind ∧ (s.gatherWord r).part = r.part := by
  unfold State.gatherWord
  split
  · exact ⟨rfl, rfl, rfl⟩
  · dsimp only
    split
    · exact ⟨rfl, rfl, rfl⟩
    · split <;> exact ⟨rfl, rfl, rfl⟩

theorem gatherRest_keeps (s : State) (r : Req) :
    (s.gatherRest r).ref = r.ref ∧ (s.gatherRest r).kind = r.kind ∧ (s.gatherRest r).part = r.part := by
  unfold State.gatherRest
  induction List.range (r.whole / 8) using List.reverseRecOn with
  | nil => exact ⟨rfl, rfl, rfl⟩
  | append_singleton l k ih =>
    rw [List.foldl_concat]
    split
    · exact ih
    · obtain ⟨href, hkind, hpart⟩ := gatherWord_keeps s (l.foldl (fun q _ => if q.performed then q else s.gatherWord q) r)
      exact ⟨href.trans ih.1, hkind.trans ih.2.1, hpart.trans ih.2.2⟩

theorem gatherRest_size (s : State) (r : Req) : (s.gatherRest r).size = r.size := by
  obtain ⟨-, hkind, hpart⟩ := gatherRest_keeps s r
  unfold Req.size Req.whole
  rw [hkind, hpart]

/-- Kinds without bursts to global memory and write-backs read no local bytes. -/
theorem localSource_none {s : State} {r : Req} {kinds : ReqKind → Bool} (hkind : kinds r.kind = true)
    (hburst : ∀ parent la n, kinds (.burst parent la n true) = false) (hwback : ∀ w e off n parent, kinds (.wback w e off n parent) = false) :
    s.localSource r = none := by
  unfold State.localSource
  split
  · next hk => rw [hk, hburst] at hkind; exact absurd hkind Bool.false_ne_true
  · next hk => rw [hk, hwback] at hkind; exact absurd hkind Bool.false_ne_true
  · rfl

/-- What reads no local bytes has none left to take. -/
theorem gatherRest_of_no_source {s : State} {r : Req} (h : s.localSource r = none) : s.gatherRest r = r := by
  have hword : s.gatherWord r = r := by simp only [State.gatherWord, h]
  have hstep : ∀ n : Nat, (fun q (_ : Nat) => if q.performed then q else s.gatherWord q) r n = r := fun n => by
    simp only [hword, ite_self]
  exact List.foldlRecOn (motive := (· = r)) _ _ rfl fun q hq n _ => by rw [hq]; exact hstep n

/-- What goes on after a request depends on its tile alone. -/
theorem onward_of_ref {s : State} {q r : Req} (h : q.ref = r.ref) : s.onward q = s.onward r := by
  rw [State.onward, h]
  rfl

section
variable {s : State} {id : Nat} {r : Req} {p : Phys} (h : AtHome s id r p)
include h

theorem AtHome.not_deferred : (s.deferred.any fun d => d.id = id) = false := by
  simpa using h.notDeferred

variable {mine : ReqKind → Bool} {f : State → Req → Phys → State} (hmine : mine r.kind = true)
include hmine

/-- A request of the step's kinds takes what is left of its local bytes, and then the step. -/
theorem homeStep_gathers : s.homeStep id mine f =
    .next ((if (s.gatherRest r).performed then s.setReq (s.gatherRest r) else f s (s.gatherRest r) p).onward r) := by
  obtain ⟨hperf, hheld, hsent, hparked⟩ := h.waiting
  have hstorage : hasStorage s.carve p.home p.pa (s.gatherRest r).size = true := by rw [gatherRest_size, h.storage]
  simp only [State.homeStep, h.req, h.phys, hmine, hperf, hheld, hsent, hparked, h.not_deferred, h.order, h.allowed]
  cases hhome : p.home with
  | remote pkg => exact absurd hhome (h.near pkg)
  | _ =>
    rw [hhome] at hstorage
    simp [hstorage]

/-- One that reads no local bytes takes the step as it is. -/
theorem homeStep_performs (hsrc : s.localSource r = none) : s.homeStep id mine f = .next ((f s r p).onward r) := by
  rw [homeStep_gathers h hmine, gatherRest_of_no_source hsrc, h.waiting.1, if_neg Bool.false_ne_true]

end

/-! ## What HOME_READ, HOME_WRITE and HOME_ATOMIC do -/

section
variable {s : State} {id : Nat} {r : Req} {p : Phys} (h : AtHome s id r p)
include h

section
variable (hkind : r.kind.readsHome = true)
include hkind

omit h in
theorem readsHome_no_source : s.localSource r = none :=
  localSource_none hkind (fun _ _ _ => rfl) fun _ _ _ _ _ => rfl

theorem exec_homeRead : exec (.homeRead id) s = .next
    ((if s.poisoned p.home p.pa r.size then
        (if r.kind.isPart || decide (p.home = .host) then s.poisonRas (s.badPlace p r.size false) r.ref.ctx else s).failReq r .poison 0x12
      else s.setReq { r with performed := true, datum := r.datum ++ loadDatum r.kind p (s.homeBytes p r.size) }).onward r) := by
  change execHomeRead id s = _
  rw [execHomeRead, homeStep_performs h _ (readsHome_no_source hkind)]
  exact hkind

theorem exec_homeRead_good (hgood : s.poisoned p.home p.pa r.size = false) : exec (.homeRead id) s =
    .next ((s.setReq { r with performed := true, datum := r.datum ++ loadDatum r.kind p (s.homeBytes p r.size) }).onward r) := by
  rw [exec_homeRead h hkind, hgood, if_neg Bool.false_ne_true]

theorem exec_homeRead_poisoned (hbad : s.poisoned p.home p.pa r.size = true) : exec (.homeRead id) s =
    .next (((if r.kind.isPart = true ∨ p.home = .host then s.poisonRas (s.badPlace p r.size false) r.ref.ctx else s).failReq
      r .poison 0x12).onward r) := by
  rw [exec_homeRead h hkind, if_pos hbad]
  simp only [Bool.or_eq_true, decide_eq_true_eq]

end

section
variable (hkind : r.kind.writesHome = true)
include hkind

/-- A write whose local bytes meet poison fails before anything is stored (R416). -/
theorem exec_homeWrite_unread (hq : (s.gatherRest r).performed = true) :
    exec (.homeWrite id) s = .next ((s.setReq (s.gatherRest r)).onward (s.gatherRest r)) := by
  change execHomeWrite id s = _
  rw [execHomeWrite, homeStep_gathers h, if_pos hq, onward_of_ref (gatherRest_keeps s r).1]
  exact hkind

variable (hq : (s.gatherRest r).performed = false)
include hq

theorem exec_homeWrite_stores
    (hgood : s.writePoisoned p.home p.pa (s.gatherRest r).writeBytes.length = false ∨ (s.gatherRest r).part ≠ 0) :
    exec (.homeWrite id) s = .next
      (((if (s.gatherRest r).part = 0 then s.perform p (s.gatherRest r).ref.ctx (s.gatherRest r).writeBytes
        else (s.perform p (s.gatherRest r).ref.ctx (s.gatherRest r).writeBytes).coverPiece (s.gatherRest r) p
          (s.gatherRest r).writeBytes.length).setReq { s.gatherRest r with performed := true, datum := [] }).onward (s.gatherRest r)) := by
  have hnot : ¬ ((s.gatherRest r).part = 0 ∧ s.writePoisoned p.home p.pa (s.gatherRest r).writeBytes.length = true) := by
    rintro ⟨hpart, hbad⟩
    exact hgood.elim (fun hg => Bool.false_ne_true (hg.symm.trans hbad)) fun hp => hp hpart
  change execHomeWrite id s = _
  rw [execHomeWrite, homeStep_gathers h, if_neg (Bool.eq_false_iff.mp hq), if_neg hnot, onward_of_ref (gatherRest_keeps s r).1]
  exact hkind

theorem exec_homeWrite_poisoned (hbad : s.writePoisoned p.home p.pa (s.gatherRest r).writeBytes.length = true)
    (hpart : (s.gatherRest r).part = 0) : exec (.homeWrite id) s = .next
      (((s.poisonRas (s.badPlace p (s.gatherRest r).writeBytes.length true) r.ref.ctx).failReq (s.gatherRest r) .poison 0x12).onward
        (s.gatherRest r)) := by
  obtain ⟨href, -, -⟩ := gatherRest_keeps s r
  change execHomeWrite id s = _
  rw [execHomeWrite, homeStep_gathers h, if_neg (Bool.eq_false_iff.mp hq), if_pos ⟨hpart, hbad⟩, onward_of_ref href, href]
  exact hkind

end

/-- The kinds that HOME_ATOMIC performs (R222, R223). -/
def ReqKind.atomicHome : ReqKind → Bool
  | .atom .. | .red .. => true
  | _ => false

section
variable (hkind : r.kind.atomicHome = true)
include hkind

omit h in
theorem atomicHome_no_source : s.localSource r = none :=
  localSource_none hkind (fun _ _ _ => rfl) fun _ _ _ _ _ => rfl

theorem exec_homeAtomic_good (hgood : s.poisoned p.home p.pa r.size = false) :
    exec (.homeAtomic id) s = .next ((s.writeAtomic r p (s.homeNumber p r.size)).onward r) := by
  change execHomeAtomic id s = _
  rw [execHomeAtomic, homeStep_performs h _ (atomicHome_no_source hkind), if_neg (Bool.eq_false_iff.mp hgood)]
  · rfl
  · exact hkind

theorem exec_homeAtomic_poisoned (hbad : s.poisoned p.home p.pa r.size = true) : exec (.homeAtomic id) s =
    .next (((s.poisonRas (s.badPlace p r.size false) r.ref.ctx).failReq r .poison 0x12).onward r) := by
  change execHomeAtomic id s = _
  rw [execHomeAtomic, homeStep_performs h _ (atomicHome_no_source hkind), if_pos hbad]
  exact hkind

end

omit h in
theorem writeAtomic_atom {op : AtomOp} {n : Nat} {v cmp : Word} (hkind : r.kind = .atom op n v cmp) (old : Nat) :
    s.writeAtomic r p old = (s.perform p r.ref.ctx (leBytes r.size (atomic op r.size old v.toNat cmp.toNat).1)).setReq
      { r with performed := true, datum := [some (BitVec.ofNat 64 old)] } := by
  simp only [State.writeAtomic, hkind]

omit h in
theorem writeAtomic_red {op : AtomOp} {n : Nat} {v : Word} (hkind : r.kind = .red op n v) (old : Nat) :
    s.writeAtomic r p old = (s.perform p r.ref.ctx (leBytes r.size (atomic op r.size old v.toNat v.toNat).1)).setReq
      { r with performed := true, datum := [] } := by
  simp only [State.writeAtomic, hkind]

end

/-- A store holds all its bytes from its issue on (R221). -/
theorem gatherRest_store {s : State} {r : Req} {n : Nat} {d : Word} (hkind : r.kind = .store n d) :
    s.gatherRest r = r ∧ r.writeBytes = leBytes n d.toNat :=
  ⟨gatherRest_of_no_source (by simp only [State.localSource, hkind]), by simp only [Req.writeBytes, hkind]⟩

/-! ## Which bytes a write at its home stores -/

/-- State u has the package's bytes and presence bits as s has them, and no poison mark that s has not. -/
structure State.KeepsStore (s u : State) : Prop where
  mem : u.mem = s.mem
  full : u.full = s.full
  granules : u.granules ⊆ s.granules

theorem State.KeepsStore.refl (s : State) : s.KeepsStore s := ⟨rfl, rfl, List.Subset.refl _⟩

/-- What keeps u's bytes keeps those of a state that differs from u elsewhere, or has more granules marked. -/
theorem State.KeepsStore.since {s u w : State} (huw : u.KeepsStore w) (hmem : u.mem = s.mem) (hfull : u.full = s.full)
    (hgranules : u.granules ⊆ s.granules) : s.KeepsStore w :=
  ⟨huw.mem.trans hmem, huw.full.trans hfull, List.Subset.trans huw.granules hgranules⟩

theorem State.KeepsStore.trans {s u w : State} (hsu : s.KeepsStore u) (huw : u.KeepsStore w) : s.KeepsStore w :=
  huw.since hsu.mem hsu.full hsu.granules

theorem foldl_keepsStore {α : Type} {f : State → α → State} (hf : ∀ (s : State) (a : α), s.KeepsStore (f s a)) (l : List α) (s : State) :
    s.KeepsStore (l.foldl f s) :=
  List.foldlRecOn (motive := s.KeepsStore) l f (.refl s) fun u hu a _ => hu.trans (hf u a)

/-- Messages go to host memory. -/
theorem drainGo_keepsStore (k : Nat) (s : State) : s.KeepsStore (State.drainMessages.go k s) := by
  induction k generalizing s with
  | zero => exact .refl s
  | succ k ih =>
    simp only [State.drainMessages.go]
    split
    · exact .refl s
    · split
      · exact .refl s
      · exact (ih _).since rfl rfl (List.Subset.refl _)

theorem hostMessage_keepsStore (s : State) (type ctx : Nat) (body : List Byte) : s.KeepsStore (s.hostMessage type ctx body) := by
  unfold State.hostMessage State.drainMessages
  split
  · exact ⟨rfl, rfl, List.Subset.refl _⟩
  · exact (drainGo_keepsStore _ _).since rfl rfl (List.Subset.refl _)

theorem postRas_keepsStore (s : State) (rec : List Byte) (ctx : Nat) : s.KeepsStore (s.postRas rec ctx) := by
  unfold State.postRas
  dsimp only
  split
  · split <;> exact ⟨rfl, rfl, List.Subset.refl _⟩
  · split
    · exact (hostMessage_keepsStore _ _ _ _).since rfl rfl (List.Subset.refl _)
    · exact ⟨rfl, rfl, List.Subset.refl _⟩

theorem ras_keepsStore (s : State) (src sev ctx die : Nat) (loc : Word) (ptn : Nat) : s.KeepsStore (s.ras src sev ctx die loc ptn) :=
  (postRas_keepsStore _ _ _).since rfl rfl (List.Subset.refl _)

/-- A granule that is covered whole loses its mark, and a record says so (R214). -/
theorem coverPoison_keepsStore (s : State) (pa n ctx : Nat) : s.KeepsStore (s.coverPoison pa n ctx) :=
  (foldl_keepsStore (fun u _ => ras_keepsStore u _ _ _ _ _ _) _ _).since rfl rfl (List.filter_subset_self _)

theorem coverPiece_keepsStore (s : State) (r : Req) (p : Phys) (n : Nat) : s.KeepsStore (s.coverPiece r p n) := by
  unfold State.coverPiece
  split
  · exact coverPoison_keepsStore _ _ _ _
  · exact coverPoison_keepsStore _ _ _ _
  · exact .refl s
  · exact .refl s

/-- A byte after a write of bytes: the one written there, or the one before. -/
theorem Memory.read_writeBytes_eq (m : List Host.Cell) (a : Nat) (l : List Byte) (c : Nat) :
    Memory.read (Memory.writeBytes m a l) c = if a ≤ c ∧ c < a + l.length then l.getD (c - a) 0 else Memory.read m c := by
  split
  · next hin =>
    have hlt : c - a < l.length := by omega
    have hread := Memory.read_writeBytes l m a (c - a) hlt
    rwa [Nat.add_sub_cancel' hin.1, ← List.getD_eq_getElem l 0 hlt] at hread
  · next hout => exact Memory.read_writeBytes_other l m a c (by omega)

/-- The memory of a home in this package after a write performed there. -/
theorem perform_memOf (s : State) (p : Phys) (ctx : Nat) (data : List Byte) (hnear : ∀ pkg, p.home ≠ .remote pkg) :
    (s.perform p ctx data).memOf p.home = Memory.writeBytes (s.memOf p.home) p.pa data := by
  have hcover := (coverPoison_keepsStore s p.pa data.length ctx).mem
  cases hhome : p.home with
  | host => simp only [State.perform, hhome, State.memOf]
  | remote pkg => exact absurd hhome (hnear pkg)
  | _ => simp only [State.perform, hhome, State.memOf, (State.fireWatches_mem _ _ _).1, (State.emptyWords_mem _ _ _).1, hcover]

/-- Settles O44: each step of a request at its home is one of the model's operations there, and that operation stores exactly its bytes. -/
theorem homeAccesses : Obligations.HomeAccesses := by
  unfold Obligations.HomeAccesses
  refine ⟨fun s id r p h => ⟨?read, ?write, ?atom, ?red⟩, fun n sext p l => rfl, fun s r n d => gatherRest_store, ?bytes, ?piece⟩
  case read => exact fun hkind => ⟨exec_homeRead_good h hkind, exec_homeRead_poisoned h hkind⟩
  case write =>
    exact fun hkind => ⟨exec_homeWrite_unread h hkind, exec_homeWrite_stores h hkind, exec_homeWrite_poisoned h hkind⟩
  case atom =>
    intro op n v cmp hkind
    have hatomic : r.kind.atomicHome = true := by rw [hkind]; rfl
    refine ⟨fun hgood => ?_, exec_homeAtomic_poisoned h hatomic⟩
    rw [exec_homeAtomic_good h hatomic hgood, writeAtomic_atom hkind]
  case red =>
    intro op n v hkind
    have hatomic : r.kind.atomicHome = true := by rw [hkind]; rfl
    refine ⟨fun hgood => ?_, exec_homeAtomic_poisoned h hatomic⟩
    rw [exec_homeAtomic_good h hatomic hgood, writeAtomic_red hkind]
  case bytes =>
    intro s p ctx data a hnear
    rw [perform_memOf s p ctx data hnear, Memory.read_writeBytes_eq]
  case piece =>
    intro s r p n
    have hkeeps := coverPiece_keepsStore s r p n
    exact ⟨hkeeps.mem, hkeeps.full, hkeeps.granules⟩

/-! ## I-structures and watches -/

section
variable {s : State} {id : Nat} {r : Req} {p : Phys} (h : AtHome s id r p)

/-- A deferral finds room in the region of a tile that has not finished its part (R212). -/
theorem defer_pools (hwait : (s.part r.ref.ctx r.ref.ltn).finished = false ∧ s.deferredRoom r.ref.ctx = true) (ild : Bool) :
    s.defer r p ild = { s with deferred := s.deferred ++ [⟨r.id, p.pa, ild⟩] } := by
  simp only [State.defer, hwait.1, hwait.2, Bool.false_eq_true, if_false, if_true]

include h

section
variable (hkind : r.kind = .ild) (hgood : s.poisoned p.home p.pa 8 = false)
include hkind hgood

theorem exec_homeIld : exec (.homeIld id) s = .next
    ((if p.pa / 8 ∈ s.full then s.setReq { r with performed := true, datum := [some (BitVec.ofNat 64 (s.homeNumber p 8))] }
      else s.defer r p true).onward r) := by
  change execHomeIld id s = _
  rw [execHomeIld, homeStep_performs h (decide_eq_true hkind) (by simp only [State.localSource, hkind])]
  simp only [hgood, Bool.false_eq_true, if_false, List.contains_iff_mem]
  rfl

end

section
variable {d : Word} (hkind : r.kind = .ist d) (hgood : s.poisoned p.home p.pa 8 = false)
include hkind hgood

theorem exec_homeIst : exec (.homeIst id) s = .next
    ((if p.pa / 8 ∈ s.full then
        (s.failReq r .doubleWrite 0x13).ras 0x31 5 r.ref.ctx (homeDie p.pa) (BitVec.ofNat 64 p.pa) 0
      else (s.fillWord p.pa d).setReq { r with performed := true }).onward r) := by
  change execHomeIst id s = _
  rw [execHomeIst, homeStep_performs h (by rw [hkind]) (by simp only [State.localSource, hkind])]
  simp only [hkind, hgood, Bool.false_eq_true, if_false, List.contains_iff_mem]

end

section
variable {n left : Nat} (hkind : r.kind = .irst n left) (hgood : s.poisoned p.home p.pa 8 = false)
include hkind hgood

theorem exec_homeIrst : exec (.homeIrst id) s = .next (((s.emptyWord p.pa).setReq (r.nextWord p)).onward r) := by
  change execHomeIrst id s = _
  rw [execHomeIrst, homeStep_performs h (by rw [hkind]) (by simp only [State.localSource, hkind]), if_neg (Bool.eq_false_iff.mp hgood)]

end

section
variable {n : Nat} {cmp : Word} (hkind : r.kind = .watch n cmp) (hgood : s.poisoned p.home p.pa n = false)
include hkind hgood

theorem exec_mwatchArm : exec (.mwatchArm id) s = .next
    ((if s.homeNumber p n ≠ cmp.toNat % 2 ^ (8 * n) then
        s.setReq { r with performed := true, datum := [some (BitVec.ofNat 64 (s.homeNumber p n))] }
      else s.defer r p false).onward r) := by
  change execMwatchArm id s = _
  rw [execMwatchArm, homeStep_performs h (by rw [hkind]) (by simp only [State.localSource, hkind])]
  simp only [hkind, hgood, Bool.false_eq_true, if_false]
  rfl

end

end

/-- Settles O45: each step by whether the word is full, or the watched value is still its comparand. -/
theorem iStructures : Obligations.IStructures := by
  unfold Obligations.IStructures
  refine fun s id r p h => ⟨fun hkind hgood => ?ild, fun d hkind hgood => ?ist, fun n left hkind hgood => ?irst,
    fun n cmp hkind hgood => ?watch⟩
  case ild =>
    rw [exec_homeIld h hkind hgood]
    exact ⟨fun hfull => by rw [if_pos hfull], fun hempty hwait => by rw [if_neg hempty, defer_pools hwait]⟩
  case ist =>
    rw [exec_homeIst h hkind hgood]
    exact ⟨fun hempty => by rw [if_neg hempty]; rfl, fun hfull => by rw [if_pos hfull]⟩
  case irst =>
    rw [exec_homeIrst h hkind hgood]
    simp only [State.emptyWord, List.contains_iff_mem]
    exact ⟨fun hfull => by rw [if_pos hfull], fun hempty => by rw [if_neg hempty]⟩
  case watch =>
    rw [exec_mwatchArm h hkind hgood]
    exact ⟨fun hne => by rw [if_pos hne], fun heq hwait => by rw [if_neg (not_not.mpr heq), defer_pools hwait]⟩

end Sys2Proof.Machine
end

section
/-! PROOFS. Global accesses as they issue (R215 to R217, R220 to R225; O28). Ten forms make the same checks in the same order: words beyond
the frame, alignment, the poison of the datum, and the count of an IRST. -/

namespace Sys2Proof.Machine

/-- The forms of a global access. -/
inductive GlobalForm : Instr → Prop
  | gld (g e z d x o q c r) : GlobalForm (.gld g e z d x o q c r)
  | gst (g z d x o q c r) : GlobalForm (.gst g z d x o q c r)
  | gldv (g d x o q c r) : GlobalForm (.gldv g d x o q c r)
  | gstv (g d x o q c r) : GlobalForm (.gstv g d x o q c r)
  | gatom (g op z d x o q c r) : GlobalForm (.gatom g op z d x o q c r)
  | gred (g op z d x o q c r) : GlobalForm (.gred g op z d x o q c r)
  | ild (g d x o q c r) : GlobalForm (.ild g d x o q c r)
  | ist (g d x o q c r) : GlobalForm (.ist g d x o q c r)
  | irst (g d x o q c r) : GlobalForm (.irst g d x o q c r)
  | mwatch (g z d x o q c r) : GlobalForm (.mwatch g z d x o q c r)

/-- Only they ask what askedOf says. -/
theorem globalForm_of_askedOf {s : State} {v : View} {i : Instr} {a : AccessForm} (ha : askedOf s v i = some a) : GlobalForm i := by
  cases i
  case gld => exact .gld ..
  case gst => exact .gst ..
  case gldv => exact .gldv ..
  case gstv => exact .gstv ..
  case gatom => exact .gatom ..
  case gred => exact .gred ..
  case ild => exact .ild ..
  case ist => exact .ist ..
  case irst => exact .irst ..
  case mwatch => exact .mwatch ..
  all_goals exact absurd ha (Option.some_ne_none a).symm

/-- Each holds an entry of the core's table (R215). -/
theorem GlobalForm.holdsEntry {i : Instr} (hi : GlobalForm i) : holdsEntry i = true := by
  cases hi <;> rfl

theorem GlobalForm.shape {i : Instr} (hi : GlobalForm i) : ∃ sh, i.shape = some sh := by
  cases hi <;> exact ⟨_, rfl⟩

/-! What the checks are about. -/

/-- The multiple that the address has to be (R216). -/
def accessUnit : Instr → Nat
  | .gld _ _ z .. | .gst _ z .. | .gatom _ _ z .. | .gred _ _ z .. | .mwatch _ z .. => 2 ^ z.val
  | .gldv .. | .gstv .. => 64
  | _ => 8

/-- The operands that are read as the datum. -/
def accessData : Instr → List Operand
  | .gst _ _ d .. | .gred _ _ _ d .. | .ist _ d .. | .irst _ d .. | .mwatch _ _ d .. => [d]
  | .gatom _ op _ d .. => if op = .cas then [d, nextReg d] else [d]
  | _ => []

/-- The frame word after the operand lies beyond a size class. -/
def pairBeyond (size : Nat) : Operand → Bool
  | .f k => decide (size ≤ k.val + 1)
  | _ => false

/-- A word that the instruction names by its first lies beyond the frame's size class (R216, R222). -/
def State.beyondFrame (s : State) (t : Threadlet) : Instr → Bool
  | .gldv _ d _ _ (.slot _) _ _ => decide (frameWords ((s.frame t.ref).any (·.large)) ≤ wordIndex d + 7)
  | .gatom _ op _ d .. => decide (op = .cas) && pairBeyond (frameWords ((s.frame t.ref).any (·.large))) d
  | _ => false

/-- An IRST of more words than it may reset (R224). -/
def State.countBeyond (s : State) (t : Threadlet) : Instr → Bool
  | .irst _ d .. => decide (65536 < (s.readOp (s.view t) d).toNat)
  | _ => false

/-- The request that enters the tables: an IRST of no words is answered already (R224). -/
def State.entering (s : State) (t : Threadlet) (i : Instr) (a : AccessForm) : Req :=
  match i with
  | .irst _ d .. => if (s.readOp (s.view t) d).toNat = 0 then (s.asked t i a).answer .ok [] else s.asked t i a
  | _ => s.asked t i a

theorem pairBeyond_iff (size : Nat) (d : Operand) : pairBeyond size d = true ↔ ∃ k, d = .f k ∧ size ≤ k.val + 1 := by
  cases d <;> simp [pairBeyond]

theorem beyondFrame_iff (s : State) (t : Threadlet) (i : Instr) : s.beyondFrame t i = true ↔
    (∃ g d x o m c r, i = .gldv g d x o (.slot m) c r ∧ frameWords ((s.frame t.ref).any (·.large)) ≤ wordIndex d + 7) ∨
      ∃ g z k x o q c r, i = .gatom g .cas z (.f k) x o q c r ∧ frameWords ((s.frame t.ref).any (·.large)) ≤ k.val + 1 := by
  constructor
  · intro h
    unfold State.beyondFrame at h
    split at h
    · exact .inl ⟨_, _, _, _, _, _, _, rfl, of_decide_eq_true h⟩
    · next op _ d _ _ _ _ _ =>
      obtain ⟨hop, hd⟩ := Bool.and_eq_true_iff.mp h
      obtain rfl := of_decide_eq_true hop
      obtain ⟨k, rfl, hk⟩ := (pairBeyond_iff _ d).mp hd
      exact .inr ⟨_, _, _, _, _, _, _, _, rfl, hk⟩
    · exact absurd h Bool.false_ne_true
  · rintro (⟨g, d, x, o, m, c, r, rfl, h⟩ | ⟨g, z, k, x, o, q, c, r, rfl, h⟩)
    · exact decide_eq_true h
    · exact decide_eq_true h

/-! The body of each form makes those checks. -/

/-- The request of a global access, as its body makes it. -/
theorem newReq_eq_asked_of_form (s : State) (t : Threadlet) (i : Instr) (a : AccessForm) :
    s.newReq (s.view t) (firstWord i) (s.destOf (s.view t) a.target a.word) a.kind a.va a.ord a.scope a.write = s.asked t i a := by
  obtain ⟨k, va, write, word, ord, scope, q⟩ := a
  cases q <;> rfl

/-- What the body of a global access comes to, once the words that it names are in the frame. -/
def State.accessIn (s : State) (t : Threadlet) (i : Instr) (a : AccessForm) : Res :=
  if a.va.toNat % accessUnit i ≠ 0 then trapWith 0x06
  else (s.poisonTrap t (accessData i)).getD
    (if s.countBeyond t i then trapWith 0x03 else retire (s.addReq (s.entering t i a)) t)

/-- What the body of a global access comes to. -/
def State.accessBody (s : State) (t : Threadlet) (i : Instr) (a : AccessForm) : Res :=
  if s.beyondFrame t i then trapWith 0x04 else s.accessIn t i a

/-- The last checks of a request and its issue, for the operands and the request of a global access. -/
def State.accessRequest (s : State) (t : Threadlet) (i : Instr) (a : AccessForm) : Res :=
  s.requestBody (s.view t) (accessUnit i) (accessData i)
    (s.newReq (s.view t) (firstWord i) (s.destOf (s.view t) a.target a.word) a.kind a.va a.ord a.scope a.write)

theorem accessRequest_eq {s : State} {t : Threadlet} {i : Instr} {a : AccessForm} (hlong : s.countBeyond t i = false)
    (hreq : s.entering t i a = s.asked t i a) : s.accessRequest t i a = s.accessIn t i a := by
  rw [State.accessRequest, newReq_eq_asked_of_form, State.requestBody, State.accessIn, hlong, if_neg Bool.false_ne_true, hreq]
  rfl

/-- A check of the frame's words that reads no word, before the rest of the body. -/
theorem checked_words {s : State} {t : Threadlet} {l : List Operand} {fits beyond : Bool} {r : Res} (hl : s.poisonedSource t l = none)
    (hfits : fits = !beyond) : (s.checked (s.view t) [([], !fits, 0x04)] l).getD r = if beyond then trapWith 0x04 else r := by
  subst hfits
  cases beyond with
  | true => exact congrArg (Option.getD · r) (checked_fails rfl rfl)
  | false => exact congrArg (Option.getD · r) ((checked_passes rfl).trans (checked_clean hl))

@[simp] theorem entering_va (s : State) (t : Threadlet) (i : Instr) (a : AccessForm) : (s.entering t i a).va = a.va := by
  unfold State.entering
  split
  · split <;> rfl
  · rfl

/-- A request at a good address that reads no datum issues. -/
theorem requestBody_issues {s : State} {t : Threadlet} {align : Nat} {q : Req} (hq : q.va.toNat % align = 0) :
    s.requestBody (s.view t) align [] q = retire (s.addReq q) t := by
  rw [State.requestBody, if_neg (not_not.mpr hq)]
  rfl

theorem irst_body (s : State) (t : Threadlet) (g : Guard) (d x : Operand) (o : BitVec 16) (q : Target) (c : Scope) (r : MemOrder)
    (a : AccessForm) : (if a.va.toNat % 8 ≠ 0 then trapWith 0x06
      else (s.poisonTrap t [d]).getD (if 65536 < (s.readOp (s.view t) d).toNat then trapWith 0x03
        else s.requestBody (s.view t) 8 [] (s.entering t (.irst g d x o q c r) a))) = s.accessIn t (.irst g d x o q c r) a := by
  refine ite_congr rfl (fun _ => rfl) fun ha => congrArg ((s.poisonTrap t [d]).getD ·) ?_
  refine ite_congr decide_eq_true_eq.symm (fun _ => rfl) fun _ => requestBody_issues ?_
  rw [entering_va]
  exact not_not.mp ha

/-- A GATOM's check of its words, as its body makes it. -/
theorem pair_fits (size : Nat) (d : Operand) (op : AtomOp) : (match d with
    | .f k => decide (op ≠ .cas) || decide (k.val + 1 < size)
    | _ => true) = !(decide (op = .cas) && pairBeyond size d) := by
  cases d with
  | f k => simp only [pairBeyond, Bool.not_and, ← decide_not, Nat.not_le, ne_eq]
  | _ => exact (congrArg Bool.not (Bool.and_false _)).symm

/-- The body of each form. -/
theorem globalForm_body {s : State} {t : Threadlet} {i : Instr} {a : AccessForm} (h : Executes s t i) (ha : askedOf s (s.view t) i = some a) :
    ∃ body, exec i s = issue i s body ∧ body s (s.view t) = s.accessBody t i a := by
  have plain {body} (hi : exec i s = issue i s body) (hbody : body s (s.view t) = s.accessRequest t i a)
      (hb : s.beyondFrame t i = false) (hlong : s.countBeyond t i = false) (hreq : s.entering t i a = s.asked t i a) :
      ∃ body, exec i s = issue i s body ∧ body s (s.view t) = s.accessBody t i a :=
    ⟨body, hi, by rw [hbody, accessRequest_eq hlong hreq, State.accessBody, hb, if_neg Bool.false_ne_true]⟩
  have words {body l fits} (hi : exec i s = issue i s body)
      (hbody : body s (s.view t) = (s.checked (s.view t) [([], !fits, 0x04)] l).getD (s.accessRequest t i a))
      (hl : s.poisonedSource t l = none) (hfits : fits = !s.beyondFrame t i) (hlong : s.countBeyond t i = false)
      (hreq : s.entering t i a = s.asked t i a) : ∃ body, exec i s = issue i s body ∧ body s (s.view t) = s.accessBody t i a :=
    ⟨body, hi, by rw [hbody, checked_words hl hfits, accessRequest_eq hlong hreq, State.accessBody]⟩
  cases globalForm_of_askedOf ha <;> obtain rfl := Option.some.inj ha
  case gld => exact plain rfl rfl rfl rfl rfl
  case gst => exact plain rfl rfl rfl rfl rfl
  case gstv => exact plain rfl rfl rfl rfl rfl
  case gred => exact plain rfl rfl rfl rfl rfl
  case ild => exact plain rfl rfl rfl rfl rfl
  case ist => exact plain rfl rfl rfl rfl rfl
  case mwatch => exact plain rfl rfl rfl rfl rfl
  case gldv g d x o q c r =>
    refine words rfl rfl (plainSources_clean h rfl) ?_ rfl rfl
    cases q with
    | slot n => exact (decide_eq_decide.mpr Nat.not_le.symm).trans decide_not
    | nothing => rfl
    | reg n => rfl
  case gatom g op z d x o q c r =>
    refine words rfl rfl (plainSources_clean h rfl) ?_ rfl rfl
    exact pair_fits _ d op
  case irst g d x o q c r =>
    have hbody := irst_body s t g d x o q c r
      ⟨.irst (s.readOp (s.view t) d).toNat (s.readOp (s.view t) d).toNat, s.globalAddr (s.view t) x o 3, true, 0xFF, r, c, q⟩
    rw [State.entering, ← newReq_eq_asked_of_form] at hbody
    exact ⟨_, rfl, hbody⟩

/-! What an access that executes comes to. -/

section
variable {s : State} {t : Threadlet} {i : Instr} {a : AccessForm} (h : Executes s t i) (ha : askedOf s (s.view t) i = some a)
include h ha

theorem globalAccess_beyond (hb : s.beyondFrame t i = true) : TrapsAt s t i 0x04 0 := by
  obtain ⟨body, hi, hbody⟩ := globalForm_body h ha
  exact exec_of_trap h hi (hbody.trans (if_pos hb)) (by decide)

variable (hb : s.beyondFrame t i = false)
include hb

omit h ha in
theorem globalForm_inside {body : State → View → Res} (hbody : body s (s.view t) = s.accessBody t i a) :
    body s (s.view t) = s.accessIn t i a :=
  hbody.trans (if_neg (Bool.eq_false_iff.mp hb))

theorem globalAccess_misaligned (hal : a.va.toNat % accessUnit i ≠ 0) : TrapsAt s t i 0x06 0 := by
  obtain ⟨body, hi, hbody⟩ := globalForm_body h ha
  exact exec_of_trap h hi ((globalForm_inside hb hbody).trans (if_pos hal)) (by decide)

variable (hal : a.va.toNat % accessUnit i = 0)
include hal

theorem globalAccess_poisoned {k : Nat} (hk : s.poisonedSource t (accessData i) = some k) : TrapsAt s t i 0x12 (64 + 8 * k) := by
  obtain ⟨body, hi, hbody⟩ := globalForm_body h ha
  refine exec_of_trap h hi ((globalForm_inside hb hbody).trans ((if_neg (not_not.mpr hal)).trans ?_)) (by decide)
  rw [poisonTrap_some hk]
  rfl

variable (hclean : s.poisonedSource t (accessData i) = none)
include hclean

omit h ha hb in
theorem accessIn_clean : s.accessIn t i a = if s.countBeyond t i then trapWith 0x03 else retire (s.addReq (s.entering t i a)) t := by
  rw [State.accessIn, if_neg (not_not.mpr hal), (poisonTrap_none_iff s t _).mpr hclean, Option.getD_none]

theorem globalAccess_long (hlong : s.countBeyond t i = true) : TrapsAt s t i 0x03 0 := by
  obtain ⟨body, hi, hbody⟩ := globalForm_body h ha
  exact exec_of_trap h hi ((globalForm_inside hb hbody).trans ((accessIn_clean hal hclean).trans (if_pos hlong))) (by decide)

theorem globalAccess_asks (hshort : s.countBeyond t i = false) :
    exec i s = .next ((s.addReq (s.entering t i a)).retired s.cur t.pc i t 0) := by
  obtain ⟨body, hi, hbody⟩ := globalForm_body h ha
  exact exec_of_retire h hi ((globalForm_inside hb hbody).trans ((accessIn_clean hal hclean).trans
    (if_neg (Bool.eq_false_iff.mp hshort))))

end

/-- What a form whose own checks pass has passed. -/
structure PassesOwn (s : State) (t : Threadlet) (i : Instr) (a : AccessForm) : Prop where
  inside : s.beyondFrame t i = false
  aligned : a.va.toNat % accessUnit i = 0
  clean : s.poisonedSource t (accessData i) = none
  short : s.countBeyond t i = false
  entering : s.entering t i a = s.asked t i a

theorem requestReady_passesOwn {s : State} {t : Threadlet} {i : Instr} {a : AccessForm} (ha : askedOf s (s.view t) i = some a)
    (hr : requestReady s (s.view t) i = true) : PassesOwn s t i a := by
  have passes (hal : decide (a.va.toNat % accessUnit i = 0) = true) (hclean : (s.poisonedSource t (accessData i)).isNone = true)
      (hb : s.beyondFrame t i = false) (hshort : s.countBeyond t i = false) (hreq : s.entering t i a = s.asked t i a) :
      PassesOwn s t i a := ⟨hb, of_decide_eq_true hal, Option.isNone_iff_eq_none.mp hclean, hshort, hreq⟩
  cases globalForm_of_askedOf ha <;> obtain rfl := Option.some.inj ha
  case gld => exact passes hr rfl rfl rfl rfl
  case gstv => exact passes hr rfl rfl rfl rfl
  case ild => exact passes hr rfl rfl rfl rfl
  all_goals obtain ⟨hinit, hlast⟩ := Bool.and_eq_true_iff.mp hr
  case gst => exact passes hinit hlast rfl rfl rfl
  case gred => exact passes hinit hlast rfl rfl rfl
  case ist => exact passes hinit hlast rfl rfl rfl
  case mwatch => exact passes hinit hlast rfl rfl rfl
  case gldv g d x o q c r =>
    refine passes hinit rfl ?_ rfl rfl
    cases q with
    | slot n => exact decide_eq_false (of_decide_eq_true hlast).not_ge
    | nothing => rfl
    | reg n => rfl
  all_goals obtain ⟨hal, hmid⟩ := Bool.and_eq_true_iff.mp hinit
  case gatom g op z d x o q c r =>
    exact passes hal hmid ((Bool.not_eq_true' _).mp ((pair_fits _ d op).symm.trans hlast)) rfl rfl
  case irst g d x o q c r =>
    obtain ⟨hal, hclean⟩ := Bool.and_eq_true_iff.mp hal
    exact passes hal hclean rfl (decide_eq_false (of_decide_eq_true hlast).not_gt) (if_neg (of_decide_eq_true hmid))

/-- Settles O28: what passes its checks enters the tables; the checks fail in their order. -/
theorem globalAccesses : Obligations.GlobalAccesses := by
  unfold Obligations.GlobalAccesses
  refine ⟨⟨fun s t i a h ha hr => ?asks, fun s t i a g d x o q c r hi h ha hal hclean hzero => ?empty⟩,
    fun s t i a hrun hmid ha hfull => ?full, fun s t i a n data h ha hform => ?traps⟩
  case asks =>
    have hown := requestReady_passesOwn ha hr
    rw [globalAccess_asks h ha hown.inside hown.aligned hown.clean hown.short, hown.entering]
  case empty =>
    subst hi
    have hshort : s.countBeyond t (.irst g d x o q c r) = false := by
      rw [State.countBeyond, hzero]
      rfl
    rw [globalAccess_asks h ha rfl hal hclean hshort, State.entering, hzero]
    rfl
  case full =>
    obtain ⟨sh, hsh⟩ := (globalForm_of_askedOf ha).shape
    exact exec_not_ready hrun hsh ((notReady_iff s _ i).mpr (.inl ⟨(globalForm_of_askedOf ha).holdsEntry, hfull⟩)) hmid
  case traps =>
    intro size long beyond
    have hbeyond : beyond ↔ s.beyondFrame t i = true := (beyondFrame_iff s t i).symm
    have hchecks : n = accessUnit i ∧ data = accessData i := by
      rcases hform with ⟨_, _, _, _, _, _, _, _, _, rfl, rfl, rfl⟩ | ⟨_, _, _, _, _, _, _, rfl, rfl, rfl⟩ |
        ⟨_, _, _, _, _, _, _, rfl, rfl, rfl⟩ | ⟨_, _, _, _, _, _, _, rfl, rfl, rfl⟩ | ⟨_, _, _, _, _, _, _, _, rfl, rfl, rfl⟩ |
        ⟨_, _, _, _, _, _, _, _, _, rfl, rfl, rfl⟩ | ⟨_, _, _, _, _, _, _, _, _, rfl, rfl, rfl⟩ | ⟨_, _, _, _, _, _, _, rfl, rfl, rfl⟩ |
        ⟨_, _, _, _, _, _, _, rfl, rfl, rfl⟩ | ⟨_, _, _, _, _, _, _, _, rfl, rfl, rfl⟩ <;> exact ⟨rfl, rfl⟩
    obtain ⟨rfl, rfl⟩ := hchecks
    have inside (hno : ¬ beyond) : s.beyondFrame t i = false := Bool.eq_false_iff.mpr (hbeyond.not.mp hno)
    refine ⟨fun hb => globalAccess_beyond h ha (hbeyond.mp hb), fun hno => globalAccess_misaligned h ha (inside hno),
      fun hno hal k => globalAccess_poisoned h ha (inside hno) hal, ?_⟩
    rintro hal hclean ⟨g, d, x, o, q, c, r, rfl, hlong⟩
    exact globalAccess_long h ha rfl hal hclean (decide_eq_true hlong)

end Sys2Proof.Machine
end

section
/-! PROOFS. FENCE, PREF, DMA and the STRM instructions as they issue (R201, R207, R226 to R228, R231 to R235; O30). -/

namespace Sys2Proof.Machine

/-! ## FENCE, PREF and DMA -/

section
variable {s : State} {t : Threadlet} {g : Guard} {x : Operand} {sz : Fin 7} {off : BitVec 16} {q : Target} {sc : Scope} {o : MemOrder}

theorem exec_fence (h : Executes s t (.fence g q sc o)) :
    let r : Req := s.asked t (.fence g q sc o) ⟨.fence, 0, false, 0xFF, .relaxed, sc, q⟩
    let h0 := s.hold t.ref (decide (sc = .pod)) true (.fence r.id)
    let k : Held := if o = .acquire then { h0 with acks := [] } else h0
    let s1 := s.addReq r
    exec (.fence g q sc o) s = .next ((if s1.heldReady k then s1.answer r.id .ok [] else { s1 with held := s1.held ++ [k] }).retired
      s.cur t.pc (.fence g q sc o) t 0) := by
  intro r h0 k s1
  have hreq := newReq_eq_asked_of_form s t (.fence g q sc o) ⟨.fence, 0, false, 0xFF, .relaxed, sc, q⟩
  exact exec_of_retire h rfl (by rw [hreq]; rfl)

theorem exec_pref (h : Executes s t (.pref g sz x off sc)) (ha : (s.globalAddr (s.view t) x off sz.val).toNat % 2 ^ sz.val = 0) :
    exec (.pref g sz x off sc) s = .next (s.retired s.cur t.pc (.pref g sz x off sc) t 0) :=
  exec_of_retire h rfl (if_neg (not_not.mpr ha))

section
variable (h : Executes s t (.dma g x q sc o)) (hload : s.loadCheck (s.view t) [] (s.readOp (s.view t) x).toNat 64 64 = none)
include h hload

theorem exec_dma_moves {sh : Shape2d} (hsh : shapeOf ((s.part t.ctx t.ltn).bytes (s.readOp (s.view t) x).toNat 64) = some sh)
    (hin : s.shapeInReach t.ctx t.ltn sh = true) : exec (.dma g x q sc o) s =
      .next ((s.addReq (s.asked t (.dma g x q sc o) ⟨.dma sh 0 0, BitVec.ofNat 64 sh.gaddr, sh.toGlobal, 0xFF, o, sc, q⟩)).retired
        s.cur t.pc (.dma g x q sc o) t 0) := by
  rw [← newReq_eq_asked_of_form]
  exact exec_of_retire h rfl (by simp only [view_t, hload, hsh, hin, if_true]; rfl)

/-- A record that breaks a rule is refused whole, and so is a shape out of reach (R228). -/
theorem exec_dma_refused (hno : ∀ sh, shapeOf ((s.part t.ctx t.ltn).bytes (s.readOp (s.view t) x).toNat 64) = some sh →
    s.shapeInReach t.ctx t.ltn sh = false) : exec (.dma g x q sc o) s =
      .next ((s.addReq ((s.asked t (.dma g x q sc o) ⟨.answered, s.readOp (s.view t) x, false, 0xFF, o, sc, q⟩).answer .refused [])).retired
        s.cur t.pc (.dma g x q sc o) t 0) := by
  rw [← newReq_eq_asked_of_form]
  refine exec_of_retire h rfl ?_
  cases hsh : shapeOf ((s.part t.ctx t.ltn).bytes (s.readOp (s.view t) x).toNat 64) with
  | none => simp only [view_t, hload, hsh]
  | some sh => simp only [view_t, hload, hsh, hno sh hsh, Bool.false_eq_true, if_false]

end

end

/-! ## Stream windows (R231 to R235) -/

/-- Where a request opens window n of a tile and its port has yet to see it: whether for writing. -/
def opensWindow (ctx ltn n : Nat) (r : Req) : Option Bool :=
  match r.kind with
  | .openWin m desc =>
    if r.ref.ctx = ctx ∧ r.ref.ltn = ltn ∧ m = n ∧ r.performed = false then some (decide (le desc 26 1 = 1)) else none
  | _ => none

/-- The first answer from the back of a list is the last of its answers. -/
theorem findSome_reverse {α β : Type} {f g : α → Option β} (h : ∀ x, f x = g x) (l : List α) :
    l.reverse.findSome? f = (l.filterMap g).getLast? := by
  rw [funext h, ← List.head?_filterMap, List.filterMap_reverse, List.head?_reverse]

/-- The latest of those requests decides whether a .adv is a write, and without one the window (notes/assumptions/16.md). -/
theorem advWrites_eq (s : State) (ctx ltn n : Nat) : s.advWrites ctx ltn n =
    (s.reqs.filterMap (opensWindow ctx ltn n)).getLast?.getD ((s.window ctx ltn n).any (·.write)) := by
  rw [State.advWrites, findSome_reverse (g := opensWindow ctx ltn n)]
  · cases (s.reqs.filterMap (opensWindow ctx ltn n)).getLast? <;> rfl
  · intro r
    rw [opensWindow]
    cases r.kind with
    | openWin m desc => exact if_congr (by rw [Bool.not_eq_true']) rfl rfl
    | _ => rfl

/-- A range that a load may read is aligned and in reach. -/
theorem loadCheck_none {s : State} {v : View} {data : List Operand} {a n align : Nat} (h : s.loadCheck v data a n align = none) :
    a % align = 0 ∧ s.rangeOk v.t.ctx v.t.ltn a n = true := by
  rw [loadCheck_eq] at h
  have ha : a % align = 0 := by
    by_contra hne
    rw [accessCheck_misaligned hne] at h
    cases h
  refine ⟨ha, Bool.eq_true_of_not_eq_false fun hr => ?_⟩
  rw [accessCheck_outside ha hr] at h
  cases h

section
variable {s : State} {t : Threadlet} {i : Instr} {g : Guard} {d x : Operand} {q : Target} {sc : Scope} {o : MemOrder}

theorem strmBody_sends {kind : Nat → ReqKind} {write : Nat → Bool} (hn : (s.readOp (s.view t) d).toNat ≤ 15)
    (hclean : s.poisonedSource t [d, x] = none) : s.strmBody (s.view t) (firstWord i) d x q sc o kind write =
      retire (s.sendStrm (s.view t) (s.asked t i
        ⟨kind (s.readOp (s.view t) d).toNat, 0, write (s.readOp (s.view t) d).toNat, 0xFF, o, sc, q⟩)) t := by
  rw [State.strmBody, checked_passes (decide_eq_false hn.not_gt), checked_clean hclean, ← newReq_eq_asked_of_form]
  rfl

/-- The checks of STRM.open before its descriptor is read. -/
def State.openChecks (s : State) (v : View) (d x : Operand) : List (List Operand × Bool × Nat) :=
  [([d], decide (15 < (s.readOp v d).toNat), 0x03), ([x], decide ((s.readOp v x).toNat % 32 ≠ 0), 0x06),
    ([x], !s.rangeOk v.t.ctx v.t.ltn (s.readOp v x).toNat 32, 0x05)]

theorem strmOpen_checks (h : Executes s t (.strmOpen g d x q sc o)) :
    ChecksList s t (.strmOpen g d x q sc o) (s.openChecks (s.view t) d x) [d, x] := by
  intro c hc h30
  rw [State.openChecks] at hc
  exact exec_of_trap h rfl (by simp only [hc]; rfl) h30

/-- A STRM instruction checks its window's number first. -/
theorem strm_number (h : Executes s t i)
    (hi : i = .strmOpen g d x q sc o ∨ i = .strmAdv g d x q sc o ∨ i = .strmNotify g d x q sc o ∨ i = .strmClose g d q sc o)
    (hn : 15 < (s.readOp (s.view t) d).toNat) : TrapsAt s t i 0x03 0 := by
  rcases hi with rfl | rfl | rfl | rfl
  · exact (strmOpen_checks h).head (decide_eq_true hn) (poisonedSource_first (plainSources_clean h rfl)) (by decide)
  · exact (checksList_of_getD h rfl rfl).head (decide_eq_true hn) (poisonedSource_first (plainSources_clean h rfl)) (by decide)
  · exact (checksList_of_getD h rfl rfl).head (decide_eq_true hn) (poisonedSource_first (plainSources_clean h rfl)) (by decide)
  · exact (checksList_of_getD h rfl rfl).head (decide_eq_true hn) (plainSources_clean h rfl) (by decide)

section
variable (hn : (s.readOp (s.view t) d).toNat ≤ 15)
include hn

theorem exec_strmOpen (h : Executes s t (.strmOpen g d x q sc o))
    (hload : s.loadCheck (s.view t) [] (s.readOp (s.view t) x).toNat 32 32 = none) : exec (.strmOpen g d x q sc o) s =
      .next ((s.sendStrm (s.view t) (s.asked t (.strmOpen g d x q sc o) ⟨.openWin (s.readOp (s.view t) d).toNat
        ((s.part t.ctx t.ltn).bytes (s.readOp (s.view t) x).toNat 32), s.readOp (s.view t) x, false, 0xFF, o, sc, q⟩)).retired
        s.cur t.pc (.strmOpen g d x q sc o) t 0) := by
  obtain ⟨ha, hr⟩ := loadCheck_none hload
  have hclean : s.poisonedSource t [d, x] = none := plainSources_clean h rfl
  have hchecks : s.checked (s.view t) (s.openChecks (s.view t) d x) [d, x] = none := by
    rw [State.openChecks, checked_passes (decide_eq_false hn.not_gt), checked_passes (decide_eq_false (not_not.mpr ha)),
      checked_passes (by rw [hr]; rfl), checked_clean hclean]
  rw [State.openChecks] at hchecks
  rw [← newReq_eq_asked_of_form]
  exact exec_of_retire h rfl (by simp only [hchecks, hload]; rfl)

theorem exec_strmAdv (h : Executes s t (.strmAdv g d x q sc o)) : exec (.strmAdv g d x q sc o) s =
    .next ((s.sendStrm (s.view t) (s.asked t (.strmAdv g d x q sc o)
      ⟨.advWin (s.readOp (s.view t) d).toNat (s.readOp (s.view t) x).toNat, 0, s.advWrites t.ctx t.ltn (s.readOp (s.view t) d).toNat,
        0xFF, o, sc, q⟩)).retired s.cur t.pc (.strmAdv g d x q sc o) t 0) :=
  exec_of_retire h rfl (strmBody_sends hn (plainSources_clean h rfl))

theorem exec_strmNotify (h : Executes s t (.strmNotify g d x q sc o)) : exec (.strmNotify g d x q sc o) s =
    .next ((s.sendStrm (s.view t) (s.asked t (.strmNotify g d x q sc o)
      ⟨.notifyWin (s.readOp (s.view t) d).toNat (s.readOp (s.view t) x).toNat, 0, false, 0xFF, o, sc, q⟩)).retired
      s.cur t.pc (.strmNotify g d x q sc o) t 0) :=
  exec_of_retire h rfl (strmBody_sends hn (plainSources_clean h rfl))

theorem exec_strmClose (h : Executes s t (.strmClose g d q sc o)) : exec (.strmClose g d q sc o) s =
    .next ((s.sendStrm (s.view t) (s.asked t (.strmClose g d q sc o)
      ⟨.closeWin (s.readOp (s.view t) d).toNat, 0, false, 0xFF, o, sc, q⟩)).retired s.cur t.pc (.strmClose g d q sc o) t 0) := by
  have hd : s.poisonedSource t [d] = none := plainSources_clean h rfl
  have hclean : s.poisonedSource t [d, .zr] = none := by simpa [State.poisonedSource] using hd
  exact exec_of_retire h rfl (strmBody_sends hn hclean)

end

end

/-- Settles O30, instruction by instruction. -/
theorem globalEngineRequests : Obligations.GlobalEngineRequests := by
  unfold Obligations.GlobalEngineRequests
  refine ⟨fun s t g x sz off q sc o => ⟨?fence, ?pref, ?dma⟩, fun s t i g d x q sc o => ?stream⟩
  case fence =>
    rintro i rfl h
    exact exec_fence h
  case pref =>
    rintro i rfl h
    exact exec_pref h
  case dma =>
    rintro i rfl h hload
    exact ⟨fun sh => exec_dma_moves h hload, exec_dma_refused h hload⟩
  case stream =>
    intro v n port opens made h
    refine ⟨strm_number h, fun hn => ⟨?opens, ?adv, ?notify, ?close⟩⟩
    case opens =>
      rintro rfl hload
      exact exec_strmOpen hn h hload
    case adv =>
      rintro rfl
      have hadv := exec_strmAdv hn h
      rw [advWrites_eq] at hadv
      exact hadv
    case notify =>
      rintro rfl
      exact exec_strmNotify hn h
    case close =>
      rintro rfl
      exact exec_strmClose hn h

end Sys2Proof.Machine
end

section
/-! PROOFS. Memory at reset (O60). -/

namespace Sys2Proof.Machine

/-- A memory that lists nothing reads the byte that nothing has written (notes/assumptions/1.md). -/
theorem Memory.read_nil (a : Nat) : Memory.read [] a = Config.emptyByte := rfl

/-- Settles O60: both memories list nothing. -/
theorem resetMemory : Obligations.ResetMemory := by
  unfold Obligations.ResetMemory
  exact ⟨rfl, rfl, rfl, rfl, fun a => ⟨Memory.read_nil a, Memory.read_nil a⟩⟩

end Sys2Proof.Machine
end

section
/-! PROOFS. What the Anvil engine's own operations keep of the engine: the operations of its channels (R239, R248, R252, R257) leave it alone,
and neither a drain that begins nor a run that stops touches the drain buffer whose bytes are being written (R287 to R291). -/

namespace Sys2Proof.Machine

/-- Every tile's Anvil is as it was. -/
structure State.KeepsAnvils (s u : State) : Prop where
  anvil : ∀ ctx ltn, u.anvil ctx ltn = s.anvil ctx ltn

section
variable {s u w : State}

theorem State.KeepsAnvils.refl (s : State) : s.KeepsAnvils s := ⟨fun _ _ => rfl⟩

theorem State.KeepsAnvils.trans (hsu : s.KeepsAnvils u) (huw : u.KeepsAnvils w) : s.KeepsAnvils w :=
  ⟨fun ctx ltn => (huw.anvil ctx ltn).trans (hsu.anvil ctx ltn)⟩

theorem State.KeepsAnvils.of_parts (h : u.parts = s.parts) : s.KeepsAnvils u :=
  ⟨fun ctx ltn => by rw [State.anvil, State.anvil, State.part, h, State.part]⟩

theorem foldl_keepsAnvils {α : Type} {f : State → α → State} (hf : ∀ (s : State) (a : α), s.KeepsAnvils (f s a)) (l : List α) (s : State) :
    s.KeepsAnvils (l.foldl f s) := by
  induction l generalizing s with
  | nil => exact .refl s
  | cons a l ih => exact (hf s a).trans (ih (f s a))

end

section
variable (s : State)

theorem setPart_keepsAnvils {ctx ltn : Nat} {p : Part} (h : p.anvil = s.anvil ctx ltn) : s.KeepsAnvils (s.setPart ctx ltn p) :=
  ⟨part_setPart_keeps Part.anvil s h⟩

theorem setPartCore_keepsAnvils (ctx ltn core : Nat) (x : PartCore) : s.KeepsAnvils (s.setPartCore ctx ltn core x) :=
  setPart_keepsAnvils s rfl

theorem modPort_keepsAnvils (ctx ltn n : Nat) (f : Port → Port) : s.KeepsAnvils (s.modPort ctx ltn n f) :=
  setPart_keepsAnvils s rfl

theorem setSel_keepsAnvils (ctx ltn : Nat) (x : Select) : s.KeepsAnvils (s.setSel ctx ltn x) :=
  setPart_keepsAnvils s rfl

theorem chSend_parts (p : ChPacket) : (s.chSend p).parts = s.parts := by
  unfold State.chSend
  split
  · rfl
  · exact (emit_keeps s ..).2

theorem chSend_keepsAnvils (p : ChPacket) : s.KeepsAnvils (s.chSend p) := .of_parts (chSend_parts s p)

theorem deliver_keepsAnvils (fromPtn ctx : Nat) (cont : Word) (datum : Datum) (status : Nat) :
    s.KeepsAnvils (s.deliver fromPtn ctx cont datum status) := by
  have hemit := (emit_keeps s ctx (contPkg cont) (contLtn cont) false (.signal fromPtn ctx cont datum status)).2
  unfold State.deliver
  split
  · exact .refl s
  · split
    · split <;> exact .of_parts rfl
    · split
      · exact .of_parts rfl
      · next hu => exact .of_parts (by rwa [hu] at hemit)

/-! ## A frame that a completion frees (R150, R176, R203) -/

theorem freeFrame_keepsAnvils (r : FrameRef) : s.KeepsAnvils (s.freeFrame r) := by
  unfold State.freeFrame
  split
  · exact .refl s
  · next f _ =>
    have hnet : s.KeepsAnvils { s with net := s.net.filterMap (Packet.afterFree r f) } := .of_parts rfl
    have hcore := hnet.trans (setPartCore_keepsAnvils _ r.ctx r.ltn r.core
      { (s.partCore r.ctx r.ltn r.core).dropEntries r.frm with frames := Tab.drop (s.partCore r.ctx r.ltn r.core).frames r.frm })
    dsimp only
    split <;> exact hcore.trans (.of_parts rfl)

theorem settleFree_keepsAnvils (r : FrameRef) : s.KeepsAnvils (s.settleFree r) := by
  unfold State.settleFree
  split
  · split
    · exact freeFrame_keepsAnvils s r
    · exact .refl s
  · exact .refl s

theorem owcDown_keepsAnvils (r : FrameRef) (rtag : Nat) : s.KeepsAnvils (s.owcDown r rtag) := by
  unfold State.owcDown
  split
  · split
    · exact (setPartCore_keepsAnvils s ..).trans (settleFree_keepsAnvils _ r)
    · exact .refl s
  · exact .refl s

/-- A request that is answered CANCELLED parks no frame (R218). -/
theorem finish_cancelled_keepsAnvils (r : Req) : s.KeepsAnvils (s.finish (r.answer .cancelled [])) := by
  have hdrop : s.KeepsAnvils (s.dropReq r.id) := .of_parts rfl
  have howc {u : State} (h : s.KeepsAnvils u) : s.KeepsAnvils (if r.counted then u.owcDown r.ref r.rtag else u) := by
    split
    · exact h.trans (owcDown_keepsAnvils u _ _)
    · exact h
  unfold State.finish
  cases hd : r.dest with
  | none => simpa [Req.answer, hd, parkCause] using howc hdrop
  | some c => simpa [Req.answer, hd] using howc (hdrop.trans (deliver_keepsAnvils _ ..))

/-! ## Operations of a channel -/

/-- The operation of an engine ends in its part; that of a request completes it, and here with CANCELLED. -/
theorem chDone_keepsAnvils (ctx ltn : Nat) {o : ChOwner} {st : Status} (h : (∀ id, o ≠ .req id) ∨ st = .cancelled) :
    s.KeepsAnvils (s.chDone ctx ltn o st) := by
  unfold State.chDone
  split
  · next id =>
    obtain rfl := h.resolve_left fun hne => hne id rfl
    split
    · exact finish_cancelled_keepsAnvils s _
    · exact .refl s
  · exact setPart_keepsAnvils s rfl

theorem settlePort_keepsAnvils (ctx ltn n : Nat) : s.KeepsAnvils (s.settlePort ctx ltn n) := by
  unfold State.settlePort State.refuseRecorded
  dsimp only
  split
  · exact ((modPort_keepsAnvils s ctx ltn n _).trans (foldl_keepsAnvils (fun u m => chSend_keepsAnvils u _) _ _)).trans
      (setPart_keepsAnvils _ rfl)
  · exact .refl s

theorem chEnd_keepsAnvils (ctx ltn n : Nat) {st : Status}
    (h : (∀ op, (s.port ctx ltn n).op = some op → ∀ id, op.owner ≠ .req id) ∨ st = .cancelled) : s.KeepsAnvils (s.chEnd ctx ltn n st) := by
  unfold State.chEnd
  split
  · exact .refl s
  · next op hop =>
    dsimp only
    have hland : s.KeepsAnvils (if (s.part ctx ltn).landed.isEmpty then s
        else s.setPart ctx ltn { s.part ctx ltn with landed := Tab.set 0 (s.part ctx ltn).landed n 0 }) := by
      split
      · exact .refl s
      · exact setPart_keepsAnvils s rfl
    exact ((hland.trans (modPort_keepsAnvils _ ctx ltn n _)).trans (settlePort_keepsAnvils _ ctx ltn n)).trans
      (chDone_keepsAnvils _ ctx ltn (h.imp_left fun h => h op hop))

theorem withdrawPort_cancelled_keepsAnvils (ctx ltn n : Nat) : s.KeepsAnvils (s.withdrawPort ctx ltn n .cancelled) := by
  have hend : s.KeepsAnvils (s.chEnd ctx ltn n .cancelled) := chEnd_keepsAnvils s ctx ltn n (.inr rfl)
  have hmark (f : Port → Port) := modPort_keepsAnvils s ctx ltn n f
  unfold State.withdrawPort
  dsimp only
  split
  · exact .refl s
  · split
    · exact .refl s
    · split
      · split
        · split
          · exact .refl s
          · refine (setSel_keepsAnvils s ctx ltn _).trans (foldl_keepsAnvils (fun u m => ?_) _ _)
            split
            · exact chSend_keepsAnvils u _
            · exact .refl u
        · exact .refl s
      · exact hend
      · exact (hmark _).trans (chSend_keepsAnvils _ _)
      · exact (hmark _).trans (chSend_keepsAnvils _ _)
      · exact (hmark _).trans (chSend_keepsAnvils _ _)
      · split
        · exact hmark _
        · exact hend

/-- An operation by which an engine sends bytes. -/
def ChOp.engineSend (o : ChOp) : Prop := (∀ id, o.owner ≠ .req id) ∧ ∃ l bad, o.form = .sendBytes l bad

theorem chMove_keepsAnvils (ctx ltn n : Nat) {op : ChOp} (h : op.engineSend) (dests : List PortRef) :
    s.KeepsAnvils (s.chMove ctx ltn n op dests) := by
  obtain ⟨-, l, bad, hform⟩ := h
  simp only [State.chMove, State.chData, hform]
  exact (modPort_keepsAnvils s ctx ltn n _).trans (foldl_keepsAnvils (fun u m => chSend_keepsAnvils u _) _ _)

@[simp] theorem port_modPort_same (ctx ltn n : Nat) (f : Port → Port) : (s.modPort ctx ltn n f).port ctx ltn n = f (s.port ctx ltn n) := by
  simp [State.modPort, State.setPort, State.port, Part.setPort, Part.port]

theorem foldl_chSend_parts {α : Type} (f : State → α → ChPacket) (l : List α) : (l.foldl (fun u x => u.chSend (f u x)) s).parts = s.parts := by
  induction l generalizing s with
  | nil => rfl
  | cons x l ih => rw [List.foldl_cons, ih, chSend_parts]

theorem chTry_keepsAnvils (ctx ltn n : Nat) (h : ∀ op, (s.port ctx ltn n).op = some op → op.engineSend) :
    s.KeepsAnvils (s.chTry ctx ltn n) := by
  unfold State.chTry
  dsimp only
  split
  · exact .refl s
  · next op hop =>
    split
    · exact .refl s
    · split
      · split
        · exact chMove_keepsAnvils s ctx ltn n (h op hop) _
        · have hparts := foldl_chSend_parts s (fun u m => ⟨ctx, u.portRef ctx ltn n, m, .refuse⟩) (s.port ctx ltn n).members
          refine ((State.KeepsAnvils.of_parts hparts).trans (modPort_keepsAnvils _ ctx ltn n _)).trans
            (chEnd_keepsAnvils _ ctx ltn n (.inl fun op hop => ?_))
          rw [port_modPort_same, State.port, State.part, hparts] at hop
          exact (h op hop).1
      · split
        · exact (modPort_keepsAnvils s ctx ltn n _).trans (chSend_keepsAnvils _ _)
        · exact .refl s

theorem postSend_keepsAnvils (ctx ltn n : Nat) {op : ChOp} (multi : Bool) (h : op.engineSend) :
    s.KeepsAnvils (s.postSend ctx ltn n op multi) := by
  unfold State.postSend
  dsimp only
  split
  · exact chDone_keepsAnvils s ctx ltn (.inl h.1)
  · refine (modPort_keepsAnvils s ctx ltn n _).trans (chTry_keepsAnvils _ ctx ltn n fun o ho => ?_)
    rw [port_modPort_same] at ho
    cases ho
    exact h

/-! ## Runs that stop, and drains (R287, R289 to R291) -/

@[simp] theorem anvil_setAnvil_same (ctx ltn : Nat) (e : Anvil) : (s.setAnvil ctx ltn e).anvil ctx ltn = e := by
  simp [State.setAnvil, State.anvil]

@[simp] theorem setRun_writing (e : Anvil) (r : Run) : (e.setRun r).writing = e.writing := rfl

/-- Operations that a run withdraws as it stops are cancelled (R287). -/
@[simp] theorem stopRun_writing (ctx ltn : Nat) (r : Run) (st : Status) :
    ((s.stopRun ctx ltn r st).anvil ctx ltn).writing = (s.anvil ctx ltn).writing := by
  unfold State.stopRun
  refine (congrArg Anvil.writing ((foldl_keepsAnvils (fun u e => ?_) _ _).anvil ctx ltn)).trans ?_
  · split
    · split
      · exact withdrawPort_cancelled_keepsAnvils u ctx ltn e.1
      · exact .refl u
    · exact .refl u
  · rw [anvil_setAnvil_same]
    rfl

@[simp] theorem convertAcc_queue (e : Anvil) (d : Drain) (int : Bool) : (e.convertAcc d int).2.queue = e.queue := by
  simp only [Anvil.convertAcc]
@[simp] theorem convertAcc_writing (e : Anvil) (d : Drain) (int : Bool) : (e.convertAcc d int).2.writing = e.writing := by
  simp only [Anvil.convertAcc]

/-- A drain that begins is converted and counted, and may be posted on a port: the queue stays, and so does what is being written (R289, R291). -/
theorem drainTo_keeps (ctx ltn : Nat) (d : Drain) {owner : ChOwner} (howner : ∀ id, owner ≠ .req id) (ref : FrameRef) (rtag : Nat) :
    ((s.drainTo ctx ltn d owner ref rtag).2.anvil ctx ltn).queue = (s.anvil ctx ltn).queue ∧
    ((s.drainTo ctx ltn d owner ref rtag).2.anvil ctx ltn).writing = (s.anvil ctx ltn).writing := by
  have hpost (u : State) (port : Nat) (l : List Byte) :=
    (postSend_keepsAnvils u ctx ltn port (op := ⟨owner, ref, rtag, 0, .sendBytes l false, false, none, [], .ok, none⟩) false
      ⟨howner, l, false, rfl⟩).anvil ctx ltn
  unfold State.drainTo
  dsimp only
  split
  · exact ⟨rfl, rfl⟩
  · split
    · exact ⟨rfl, rfl⟩
    · split
      · simp
      · split
        · simp
        · rw [anvil_setAnvil_same]
          split <;> simp
      · split
        · simp
        · split <;> simp [hpost]

end
end Sys2Proof.Machine
end

section
/-! PROOFS. ANVIL_STEP and ANVIL_DRAIN (R274, R280, R284, R285, R287, R289 to R291; O50). -/

namespace Sys2Proof.Machine

/-! ## ANVIL_STEP -/

/-- The engine's state as a run takes a step: STEPC starts from 0 with the first (R284). -/
def State.atStep (s : State) (ctx ltn : Nat) (r : Run) : State :=
  if r.next = 0 then s.setAnvil ctx ltn { s.anvil ctx ltn with stepc := 0 } else s

section
variable {s : State} {ctx ltn : Nat}

/-- An MLDA at the head of the queue of a resident tile (R280). -/
theorem exec_anvilStep_lda {id x first count z : Nat} {rest : List Cmd} (hq : (s.anvil ctx ltn).queue = .lda id x first count z :: rest)
    (hres : (s.tme ctx ltn).st = .resident) :
    exec (.anvilStep ctx ltn) s = .next ((s.loadPanels ctx ltn id x first count z).engines ctx ltn) := by
  change execAnvilStep ctx ltn s = _
  simp [execAnvilStep, hq, hres]

variable {r : Run} {rest : List Cmd} (hq : (s.anvil ctx ltn).queue = .run r :: rest) (hgoes : r.stopped = false) (hnext : r.next < r.steps)
  (hpend : r.pend = none) (hres : (s.tme ctx ltn).st = .resident)
include hgoes hnext hpend hres

/-- A run that goes on, has steps left and awaits no drain takes one where its tile is resident. -/
theorem run_mayStep : ¬ (r.stopped = true ∨ r.steps ≤ r.next ∨ r.pend.isSome = true ∨ (s.tme ctx ltn).st ≠ .resident) := by
  simp [hgoes, hnext, hpend, hres]

include hq

/-- A configuration whose types do not go together stops a run that has its block. -/
theorem exec_anvilStep_untyped (hblock : r.chan = true ∧ (s.anvil ctx ltn).latch ≠ [] ∨
      r.chan = false ∧ (r.ahead ≠ [] ∨ r.taking ≠ [] ∨ (s.part ctx ltn).latchUsed < 2)) (ht : anvilTypes (s.anvil ctx ltn).cfg = none) :
    exec (.anvilStep ctx ltn) s = .next (((s.atStep ctx ltn r).stopRun ctx ltn r .refused).engines ctx ltn) := by
  have hgo : ¬ (r.chan = true ∧ (s.anvil ctx ltn).latch = [] ∨
      r.chan = false ∧ r.ahead = [] ∧ r.taking = [] ∧ 2 ≤ (s.part ctx ltn).latchUsed) := by
    rcases hblock with ⟨hc, hl⟩ | ⟨hc, hl⟩
    · simp [hc, hl]
    · simp only [hc, Bool.false_eq_true, false_and, true_and, false_or]
      rintro ⟨ha, htk, hu⟩
      exact hl.elim (· ha) fun h => h.elim (· htk) hu.not_gt
  change execAnvilStep ctx ltn s = _
  simp [execAnvilStep, hq, run_mayStep hgoes hnext hpend hres, ht, hgo, State.atStep]

variable {ta tb : Ty} (ht : anvilTypes (s.anvil ctx ltn).cfg = some (ta, tb))
include ht

theorem exec_anvilStep_latch {b : Block} {more : List Block} (hchan : r.chan = true) (hl : (s.anvil ctx ltn).latch = b :: more) :
    exec (.anvilStep ctx ltn) s = .next ((((s.atStep ctx ltn r).setAnvil ctx ltn
      { (s.atStep ctx ltn r).anvil ctx ltn with latch := more }).runStep ctx ltn r ta tb b).engines ctx ltn) := by
  change execAnvilStep ctx ltn s = _
  simp only [execAnvilStep, hq, if_neg (run_mayStep hgoes hnext hpend hres), ht, hchan, hl, List.isEmpty_cons, Bool.not_true,
    Bool.false_eq_true, and_false, false_and, or_self, if_true, if_false, State.atStep]

section
variable (hchan : r.chan = false)
include hchan

section
variable {b : Block} {more : List (Status × Block)}

theorem exec_anvilStep_ahead (ha : r.ahead = (.ok, b) :: more) :
    exec (.anvilStep ctx ltn) s =
      .next (((s.atStep ctx ltn r).runStep ctx ltn { r with ahead := more } ta tb b).engines ctx ltn) := by
  change execAnvilStep ctx ltn s = _
  simp only [execAnvilStep, hq, if_neg (run_mayStep hgoes hnext hpend hres), ht, hchan, ha, List.isEmpty_cons,
    Bool.false_eq_true, and_false, false_and, or_self, if_false, State.atStep]

theorem exec_anvilStep_aheadFailed {st : Status} (ha : r.ahead = (st, b) :: more) (hst : st ≠ .ok) :
    exec (.anvilStep ctx ltn) s = .next (((s.atStep ctx ltn r).stopRun ctx ltn r st).engines ctx ltn) := by
  change execAnvilStep ctx ltn s = _
  simp only [execAnvilStep, hq, if_neg (run_mayStep hgoes hnext hpend hres), ht, hchan, ha, List.isEmpty_cons,
    Bool.false_eq_true, and_false, false_and, or_self, if_false, State.atStep]

end

section
variable (ha : r.ahead = []) (hroom : r.taking ≠ [] ∨ (s.part ctx ltn).latchUsed < 2)
include ha hroom

omit hq hgoes hnext hpend hres ht hchan ha in
/-- A block whose first bytes have been read has a latch half already. -/
theorem block_hasHalf : ¬ (r.taking.isEmpty = true ∧ 2 ≤ (s.part ctx ltn).latchUsed) := by
  rw [List.isEmpty_iff]
  exact fun ⟨hnone, hfull⟩ => hroom.elim (· hnone) hfull.not_gt

theorem exec_anvilStep_spad {b : Block} (hb : (s.atStep ctx ltn r).spadBlock ctx ltn r.next tb.blockScaled r.taking = .ok b) :
    exec (.anvilStep ctx ltn) s = .next (((s.atStep ctx ltn r).runStep ctx ltn { r with taking := [] } ta tb b).engines ctx ltn) := by
  change execAnvilStep ctx ltn s = _
  simp only [State.atStep, hq] at hb
  simp only [execAnvilStep, hq, if_neg (run_mayStep hgoes hnext hpend hres), ht, hchan, ha, hb, block_hasHalf hroom, List.isEmpty_nil,
    Bool.not_false, Bool.false_eq_true, true_and, false_and, or_self, if_false, State.atStep]

theorem exec_anvilStep_spadFailed {st : Status} (hb : (s.atStep ctx ltn r).spadBlock ctx ltn r.next tb.blockScaled r.taking = .error st) :
    exec (.anvilStep ctx ltn) s = .next (((s.atStep ctx ltn r).stopRun ctx ltn r st).engines ctx ltn) := by
  change execAnvilStep ctx ltn s = _
  simp only [State.atStep, hq] at hb
  simp only [execAnvilStep, hq, if_neg (run_mayStep hgoes hnext hpend hres), ht, hchan, ha, hb, block_hasHalf hroom, List.isEmpty_nil,
    Bool.not_false, Bool.false_eq_true, true_and, false_and, or_self, if_false, State.atStep]

end
end
end

/-! ## ANVIL_DRAIN -/

section
variable {s : State} {ctx ltn : Nat}

@[simp] theorem zeroAcc_writing (e : Anvil) (a : Nat) : (e.zeroAcc a).writing = e.writing := rfl
@[simp] theorem pop_writing (e : Anvil) : e.pop.writing = e.writing := rfl
@[simp] theorem answerAll_anvil (s : State) (ids : List Nat) (st : Status) (datum : Datum) : (s.answerAll ids st datum).anvil = s.anvil := rfl

theorem drainWrite_of_none (n : Nat) (h : (s.anvil ctx ltn).writing = none) : s.drainWrite ctx ltn n = s := by
  simp only [State.drainWrite, h]

/-- Whatever a drain came to, no bytes of it are left to write. -/
theorem drainEnd_writing (d : Drained) (h : (s.anvil ctx ltn).writing = none) : ((s.drainEnd ctx ltn d).anvil ctx ltn).writing = none := by
  unfold State.drainEnd
  dsimp only
  split
  · cases d with
    | done st => cases st <;> simp [h]
    | _ => simp
  · cases d <;> simp
  · exact h

/-- The engine once nothing of a drain is left to write. -/
def State.unwriting (s : State) (ctx ltn : Nat) : Anvil := { s.anvil ctx ltn with writing := none }

section
variable {rest : List Cmd}

section
variable {id : Nat} {d : Drain} (hq : (s.anvil ctx ltn).queue = .drn id d :: rest)
include hq

theorem drainEnd_drn_sent : s.drainEnd ctx ltn .sent =
    s.setAnvil ctx ltn { (s.unwriting ctx ltn).pop with draining := (s.unwriting ctx ltn).draining ++ [id] } := by
  simp only [State.drainEnd, hq, State.unwriting]

theorem drainEnd_drn_done (st : Status) :
    s.drainEnd ctx ltn (.done st) = (s.setAnvil ctx ltn (s.unwriting ctx ltn).pop).answerAll [id] st [] := by
  simp only [State.drainEnd, hq, State.unwriting]

end

section
variable {r : Run} (hq : (s.anvil ctx ltn).queue = .run r :: rest)
include hq

theorem drainEnd_run_failed {st : Status} (h : st ≠ .ok) : s.drainEnd ctx ltn (.done st) = s.stopRun ctx ltn r st := by
  simp only [State.drainEnd, hq]

variable {a m : Nat} (hp : r.pend = some (a, m))
include hp

theorem drainEnd_run_sent : s.drainEnd ctx ltn .sent =
    s.setAnvil ctx ltn (((s.unwriting ctx ltn).zeroAcc a).setRun { r with pend := none, drains := r.drains + 1 }) := by
  simp only [State.drainEnd, hq, hp, State.unwriting, Option.map_some, Option.getD_some]

theorem drainEnd_run_done :
    s.drainEnd ctx ltn (.done .ok) = s.setAnvil ctx ltn (((s.unwriting ctx ltn).zeroAcc a).setRun { r with pend := none }) := by
  simp only [State.drainEnd, hq, hp, State.unwriting, Option.map_some, Option.getD_some]

end
end

theorem drainHead_congr {e e' : Anvil} (h : e.queue = e'.queue) : e.drainHead = e'.drainHead := by
  rw [Anvil.drainHead, h, Anvil.drainHead]

/-- A drain whose bytes are written ends as one that is done (R289). -/
theorem drainEnd_write_eq_done (a : Nat) (bytes : List Byte) : s.drainEnd ctx ltn (.write a bytes) = s.drainEnd ctx ltn (.done .ok) := rfl

/-- A drain that awaits its place is an MDRN's or the run's own. -/
theorem drainHead_owner {e : Anvil} {d : Drain} {owner : ChOwner} {id : Nat} (h : e.drainHead = some (d, owner, id)) (k : Nat) :
    owner ≠ .req k := by
  unfold Anvil.drainHead at h
  split at h
  · obtain ⟨x, -, hx⟩ := Option.map_eq_some_iff.mp h
    cases hx
    exact nofun
  · cases h
    exact nofun
  · cases h

/-- A drain whose bytes are written leaves the scratchpad, with them there, as it is. -/
theorem drainEnd_write {a : Nat} {bytes : List Byte} (hhead : (s.anvil ctx ltn).drainHead.isSome = true) :
    ((s.drainEnd ctx ltn (.write a bytes)).part ctx ltn).spad = (s.part ctx ltn).spad ∧
      ((s.drainEnd ctx ltn (.write a bytes)).anvil ctx ltn).writing = none := by
  have hset (e : Anvil) : ((s.setAnvil ctx ltn e).part ctx ltn).spad = (s.part ctx ltn).spad := by simp [State.setAnvil]
  rw [drainEnd_write_eq_done]
  unfold Anvil.drainHead at hhead
  split at hhead
  · next r rest hq =>
    obtain ⟨⟨x, m⟩, hp⟩ := Option.isSome_iff_exists.mp (by simpa using hhead)
    rw [drainEnd_run_done hq hp]
    exact ⟨hset _, by rw [anvil_setAnvil_same]; rfl⟩
  · next id d rest hq =>
    rw [drainEnd_drn_done hq, answerAll_anvil]
    exact ⟨hset _, by rw [anvil_setAnvil_same]; rfl⟩
  · cases hhead

/-- The engine with the bytes of a drain in its buffer. -/
def State.buffering (s : State) (ctx ltn a : Nat) (bytes : List Byte) : State :=
  s.setAnvil ctx ltn { s.anvil ctx ltn with writing := some (a, bytes) }

theorem buffering_anvil (s : State) (ctx ltn a : Nat) (bytes : List Byte) :
    (s.buffering ctx ltn a bytes).anvil ctx ltn = { s.anvil ctx ltn with writing := some (a, bytes) } := anvil_setAnvil_same ..

theorem buffering_part (s : State) (ctx ltn a : Nat) (bytes : List Byte) :
    (s.buffering ctx ltn a bytes).part ctx ltn = { s.part ctx ltn with anvil := { s.anvil ctx ltn with writing := some (a, bytes) } } :=
  State.part_setPart_same ..

/-- What is in the buffer is written to its end. -/
theorem drainWrite_buffering {a : Nat} {bytes : List Byte} (hhead : (s.anvil ctx ltn).drainHead.isSome = true) :
    let t := (s.buffering ctx ltn a bytes).drainWrite ctx ltn bytes.length
    (∀ b, (t.part ctx ltn).byte b = ((s.part ctx ltn).store a bytes).byte b) ∧ (t.anvil ctx ltn).writing = none := by
  intro t
  let written : Part := { (s.part ctx ltn).store a bytes with anvil := { s.anvil ctx ltn with writing := some (a + bytes.length, []) } }
  let u := (s.buffering ctx ltn a bytes).setPart ctx ltn written
  have hpart : u.part ctx ltn = written := State.part_setPart_same ..
  have ht : t = u.drainEnd ctx ltn (.write a bytes) := by
    simp only [t, State.drainWrite, buffering_anvil, buffering_part, List.take_length, List.drop_length, List.isEmpty_nil, if_true]
    rfl
  obtain ⟨hspad, hnone⟩ := drainEnd_write (s := u) (a := a) (bytes := bytes) (by rw [State.anvil, hpart]; exact hhead)
  rw [ht]
  refine ⟨fun b => ?_, hnone⟩
  rw [Part.byte, hspad, hpart]
  rfl

section
variable {d : Drain} {owner : ChOwner} {id : Nat} {q : Req} (hhead : (s.anvil ctx ltn).drainHead = some (d, owner, id))
  (hreq : s.req id = some q) (hw : (s.anvil ctx ltn).writing = none) (hbuf : (s.anvil ctx ltn).buffersUsed < 2)
  (hres : (s.tme ctx ltn).st = .resident) (hport : s.drainWaits ctx ltn d = false)
include hhead hw hbuf hres hport

theorem drainReady_of_head : s.drainReady ctx ltn = true := by
  simp [State.drainReady, hhead, hw, hbuf, hres, hport]

theorem exec_anvilDrain_of_ready : exec (.anvilDrain ctx ltn) s = .next (((s.drainBegin ctx ltn).drainWrite ctx ltn
    ((((s.drainBegin ctx ltn).anvil ctx ltn).writing.map (·.2.length)).getD 0)).engines ctx ltn) := by
  have hready := drainReady_of_head hhead hw hbuf hres hport
  exact if_neg (by simp [hready])

include hreq

/-- A drain to scratchpad has its bytes in the buffer as it begins, and writes them to the end. -/
theorem exec_anvilDrain_writes {a : Nat} {bytes : List Byte} (hx : (s.drainTo ctx ltn d owner q.ref q.rtag).1 = .write a bytes) :
    let u := (s.drainTo ctx ltn d owner q.ref q.rtag).2
    ∃ t : State, exec (.anvilDrain ctx ltn) s = .next (t.engines ctx ltn) ∧
      (∀ b, (t.part ctx ltn).byte b = ((u.part ctx ltn).store a bytes).byte b) ∧ (t.anvil ctx ltn).writing = none := by
  intro u
  have hready := drainReady_of_head hhead hw hbuf hres hport
  have hbegin : s.drainBegin ctx ltn = u.buffering ctx ltn a bytes := by
    simp only [State.drainBegin, hhead, hready, hreq, Option.map_some, Option.getD_some]
    rw [show s.drainTo ctx ltn d owner q.ref q.rtag = (.write a bytes, u) from Prod.ext hx rfl]
    rfl
  have huhead : (u.anvil ctx ltn).drainHead = some (d, owner, id) :=
    (drainHead_congr (drainTo_keeps s ctx ltn d (drainHead_owner hhead) q.ref q.rtag).1).trans hhead
  obtain ⟨hbytes, hnone⟩ := drainWrite_buffering (s := u) (a := a) (bytes := bytes) (by rw [huhead]; rfl)
  refine ⟨_, ?_, hbytes, hnone⟩
  rw [exec_anvilDrain_of_ready hhead hw hbuf hres hport, hbegin, buffering_anvil]
  rfl

theorem exec_anvilDrain_ends (hx : ∀ a bytes, (s.drainTo ctx ltn d owner q.ref q.rtag).1 ≠ .write a bytes) :
    let x := s.drainTo ctx ltn d owner q.ref q.rtag
    exec (.anvilDrain ctx ltn) s = .next ((x.2.drainEnd ctx ltn x.1).engines ctx ltn) := by
  intro x
  have hready := drainReady_of_head hhead hw hbuf hres hport
  have hbegin : s.drainBegin ctx ltn = x.2.drainEnd ctx ltn x.1 := by
    unfold State.drainBegin
    simp only [hhead, hready, hreq, Option.map_some, Option.getD_some, Bool.not_true, Bool.false_eq_true, if_false]
    rfl
  have hnone : (x.2.anvil ctx ltn).writing = none := (drainTo_keeps s ctx ltn d (drainHead_owner hhead) q.ref q.rtag).2.trans hw
  rw [exec_anvilDrain_of_ready hhead hw hbuf hres hport, hbegin, drainWrite_of_none _ (drainEnd_writing _ hnone)]

end

theorem exec_anvilDrain_goesOn {a : Nat} {bytes : List Byte} (hw : (s.anvil ctx ltn).writing = some (a, bytes)) :
    exec (.anvilDrain ctx ltn) s = .next ((s.drainWrite ctx ltn bytes.length).engines ctx ltn) := by
  have hready : s.drainReady ctx ltn = false := by simp [State.drainReady, hw]
  have hbegin : s.drainBegin ctx ltn = s := by
    unfold State.drainBegin
    split
    · rfl
    · rw [hready]
      rfl
  change execAnvilDrain ctx ltn s = _
  simp [execAnvilDrain, hbegin, hw]

end

end Sys2Proof.Machine
end

section
/-! PROOFS. PH_SPILL_STEP and PH_SPILL_REPLY (R304, R309, R317, R322; O50). -/

namespace Sys2Proof.Machine

section
variable {s : State} {ctx ltn n : Nat} {o : PhOp} {t : PhTable}

theorem exec_phSpillStep_fill {g : Nat} (hw : (s.part ctx ltn).spillWork[n]? = some (.fill o t g)) :
    exec (.phSpillStep ctx ltn n) s = .next ((s.fillGroup ctx ltn o t g).engines ctx ltn) := by
  change execPhSpillStep ctx ltn n s = _
  simp only [execPhSpillStep, hw]

theorem exec_phSpillStep_drain (hw : (s.part ctx ltn).spillWork[n]? = some (.drain o t)) (hres : (s.tme ctx ltn).st = .resident) :
    exec (.phSpillStep ctx ltn n) s = .next ((s.drainSpill ctx ltn o t).engines ctx ltn) := by
  change execPhSpillStep ctx ltn n s = _
  simp only [execPhSpillStep, hw, hres, if_true]

variable {k : PhKind} {i : Nat} {x : PhLane}

section
variable {y : PhStep} (hw : (s.part ctx ltn).spillWork[n]? = some (.lane o t k i x y))
include hw

theorem exec_phSpillStep_lane {rep : PhReply} {u : State} (hstep : s.spillStep ctx ltn t o.id x.lane k y x.key x.val = .ok (rep, u)) :
    exec (.phSpillStep ctx ltn n) s = .next (u.putPh ctx ltn (setPhLane o k i { x with st := .replied y rep })) := by
  change execPhSpillStep ctx ltn n s = _
  simp only [execPhSpillStep, hw, hstep]

theorem exec_phSpillStep_laneWaits {u : State} (hstep : s.spillStep ctx ltn t o.id x.lane k y x.key x.val = .error u) :
    exec (.phSpillStep ctx ltn n) s = .next u := by
  change execPhSpillStep ctx ltn n s = _
  simp only [execPhSpillStep, hw, hstep]

end

section
variable (hr : (s.part ctx ltn).repliesBack[n]? = some (o, t, k, i, x))
include hr

theorem exec_phSpillReply_applies {st : PhStep} {rep : PhReply} (hst : x.st = .replied st rep) (hhere : s.keepsFor ctx ltn = false) :
    let y := t.applyReply k st x.key x.val rep
    exec (.phSpillReply ctx ltn n) s = .next ((((s.setPart ctx ltn ((s.part ctx ltn).fillWay t st rep)).setTable ctx ltn o.tbl y.2).putPh ctx ltn
      (setPhLane o k i { x with st := y.1 })).engines ctx ltn) := by
  change execPhSpillReply ctx ltn n s = _
  simp only [execPhSpillReply, hr, hst, hhere, Bool.false_eq_true, if_false]

theorem exec_phSpillReply_kept (haway : s.keepsFor ctx ltn = true) :
    exec (.phSpillReply ctx ltn n) s = .next (s.keepReply ctx ltn o.id i) := by
  change execPhSpillReply ctx ltn n s = _
  simp only [execPhSpillReply, hr, haway, if_true]

end
end

/-! Every lane of an operation of the port is among its work, or among its replies. -/

section
variable {p : Part} {o : PhOp} {k : PhKind} {ls : List PhLane} {t : PhTable} {i : Nat} {x : PhLane}
  (ho : o ∈ p.phq) (hbody : o.body = .lanes k ls) (ht : p.table o.tbl = some t) (hx : ls[i]? = some x)
include ho hbody ht hx

theorem lane_mem_spillWork {y : PhStep} (hst : x.st = .step y) : .lane o t k i x y ∈ p.spillWork := by
  obtain ⟨j, hj⟩ := List.mem_iff_getElem?.mp ho
  refine List.mem_flatMap.mpr ⟨(o, j), List.mem_zipIdx_iff_getElem?.mpr hj, ?_⟩
  simp only [hbody, ht]
  exact List.mem_filterMap.mpr ⟨(x, i), List.mem_zipIdx_iff_getElem?.mpr hx, by simp only [hst]⟩

theorem lane_mem_repliesBack {y : PhStep} {rep : PhReply} (hst : x.st = .replied y rep) : (o, t, k, i, x) ∈ p.repliesBack := by
  refine List.mem_flatMap.mpr ⟨o, ho, ?_⟩
  simp only [hbody, ht]
  exact List.mem_filterMap.mpr ⟨(x, i), List.mem_zipIdx_iff_getElem?.mpr hx, by simp only [hst]⟩

end

end Sys2Proof.Machine
end

section
/-! PROOFS. DMA_BURST, DMA_BURST_DONE and STREAM_FILL (R229, R230, R233), and with the Anvil's and the Pigeonhole's steps O50. -/

namespace Sys2Proof.Machine

section
variable {s : State} {id : Nat} {r : Req} (hr : s.req id = some r)
include hr

theorem exec_dmaBurst {sh : Shape2d} {row off : Nat} (hkind : r.kind = .dma sh row off) (hrow : row < sh.rows) (hperf : r.performed = false)
    (hroom : s.burstsOut r.ref.ctx r.ref.ltn < 32) (hhere : (s.ptnOf r.ref.ctx r.ref.ltn).isSome = true) :
    let s1 := s.setReq { r with kind := .dma sh (sh.nextBurst row off).1 (sh.nextBurst row off).2 }
    exec (.dmaBurst id) s = .next (s1.addPart (some id) (s1.partReq r.ref r.rtag
      (.burst id (sh.localAt row off) (sh.burstLen row off) sh.toGlobal) (BitVec.ofNat 64 (sh.globalAt row off)) sh.toGlobal r.scope [])) := by
  have hgoes : ¬ (sh.rows ≤ row ∨ r.performed = true ∨ burstLimit ≤ s.burstsOut r.ref.ctx r.ref.ltn ∨
      (s.ptnOf r.ref.ctx r.ref.ltn).isNone = true) := by
    simp [hrow, hperf, Option.isNone_eq_false_iff.mpr hhere, show s.burstsOut r.ref.ctx r.ref.ltn < burstLimit from hroom]
  change execDmaBurst id s = _
  simp only [execDmaBurst, hr, hkind, if_neg hgoes]

theorem exec_dmaBurstDone {b la n : Nat} {out : Bool} {q : Req} (hq : s.req b = some q) (hkind : q.kind = .burst id la n out)
    (hback : q.partBack = true) (hparked : q.parked = false) (hfree : out = false → s.burstBlocked q id la n = false)
    (hhere : s.keepsFor r.ref.ctx r.ref.ltn = false) :
    let s1 := s.dropReq b
    let s2 := if q.status = .ok ∧ out = false then s1.setPart r.ref.ctx r.ref.ltn
      ((s.part r.ref.ctx r.ref.ltn).store (la + q.landed) (((datumBytes q.datum).take n).drop q.landed)) else s1
    let st := worseStatus r.status q.status
    let s3 := s2.setReq (if st = r.status then r else { r with status := st, cause := q.cause, va := q.va })
    exec (.dmaBurstDone id b) s = .next (((s3.settleDma id).pumpTile r.ref.ctx r.ref.ltn).onward r) := by
  have hgoes : ¬ (out = false ∧ s.burstBlocked q id la n = true) := fun ⟨hout, hblocked⟩ => by simp [hfree hout] at hblocked
  change execDmaBurstDone id b s = _
  simp only [execDmaBurstDone, hr, hq, hkind, hback, hparked, hgoes, hhere, ne_eq, not_true_eq_false, Bool.not_true, Bool.not_eq_true',
    Bool.false_eq_true, or_self, if_false]
  rfl

end

section
variable {s : State} {ctx ltn win elem : Nat} {w : Window}

theorem exec_streamFill {q : Req} {parent : Option Nat} {rest : List (Req × Option Nat)}
    (hparts : s.elemParts ctx ltn win elem = (q, parent) :: rest) (hwin : s.window ctx ltn win = some w)
    (hback : ∀ x ∈ (q, parent) :: rest, x.1.partBack = true ∧ x.1.parked = false) (hhere : s.keepsFor ctx ltn = false) :
    let l := q :: rest.map (·.1)
    let st := l.foldl (fun a x => worseStatus a x.status) Status.ok
    let bad := (failedPiece l st).getD q
    let s1 := l.foldl (fun u x => u.dropReq x.id) s
    let s2 := if st = .ok then s1.landElem ctx ltn w elem l else s1
    let s3 := s2.setWindow ctx ltn win (w.elemDone elem st bad.cause bad.va)
    let s4 := match parent with
      | some a => s3.advDone ctx ltn win a st bad.cause bad.va
      | none => s3
    exec (.streamFill ctx ltn win elem) s = .next ((((s4.checkNotify ctx ltn win).pumpTile ctx ltn).settleWindow ctx ltn win).onward q) := by
  have hall : ((q, parent) :: rest).all (fun x => x.1.partBack && !x.1.parked) = true := by simpa using hback
  change execStreamFill ctx ltn win elem s = _
  cases parent <;>
    simp only [execStreamFill, hparts, hwin, List.head?_cons, hall, hhere, Bool.not_true, Bool.false_eq_true, if_false, List.map_cons]

variable {q : Req} {off n : Nat} (hkind : q.kind = .fill win elem off n)
include hkind

theorem fill_mem_elemParts (hq : q ∈ s.reqs) (hctx : q.ref.ctx = ctx) (hltn : q.ref.ltn = ltn) :
    (q, none) ∈ s.elemParts ctx ltn win elem :=
  List.mem_filterMap.mpr ⟨q, hq, by simp [hctx, hltn, hkind]⟩

theorem landElem_fill : s.landElem ctx ltn w elem [q] = s.setPart ctx ltn
    ((s.part ctx ltn).store (w.elemLa elem + off + q.landed) (((datumBytes q.datum).take n).drop q.landed)) := by
  simp only [State.landElem, List.foldl_cons, List.foldl_nil, hkind]

end

/-- Settles O50: each step's guard passes, and what it does then is one of the model's operations. -/
theorem engineSteps : Obligations.EngineSteps := by
  unfold Obligations.EngineSteps
  intro s ctx ltn e p
  refine ⟨?step, fun id x first count z rest => exec_anvilStep_lda, ?drain, fun a bytes => exec_anvilDrain_goesOn,
    fun n o t g => exec_phSpillStep_fill, fun n o t => exec_phSpillStep_drain,
    fun n o t k i x y hw => ⟨fun rep s1 => exec_phSpillStep_lane hw, fun s1 => exec_phSpillStep_laneWaits hw⟩,
    fun o k ls t i x ho hbody ht hx =>
      ⟨fun y => lane_mem_spillWork ho hbody ht hx, fun y rep => lane_mem_repliesBack ho hbody ht hx⟩,
    fun n o t k i x st rep hr hst => ⟨exec_phSpillReply_applies hr hst, exec_phSpillReply_kept hr⟩, ?burst, ?burstDone,
    fun q parent rest w win elem => exec_streamFill,
    fun q w win elem off n hq hctx hltn hkind => ⟨fill_mem_elemParts hkind hq hctx hltn, landElem_fill hkind⟩⟩
  case step =>
    intro r rest hq hgoes hnext hpend hres s1 comes
    exact ⟨exec_anvilStep_untyped hq hgoes hnext hpend hres, fun ta tb ht =>
      ⟨fun b more => exec_anvilStep_latch hq hgoes hnext hpend hres ht,
        fun st b more hchan ha => ⟨fun hst => exec_anvilStep_ahead hq hgoes hnext hpend hres ht hchan (hst ▸ ha),
          exec_anvilStep_aheadFailed hq hgoes hnext hpend hres ht hchan ha⟩,
        fun hchan ha hroom => ⟨fun b => exec_anvilStep_spad hq hgoes hnext hpend hres ht hchan ha hroom,
          fun st => exec_anvilStep_spadFailed hq hgoes hnext hpend hres ht hchan ha hroom⟩⟩⟩
  case drain =>
    intro d owner id q horigin hreq hw hbuf hres hport x u g ends
    have hhead : e.drainHead = some (d, owner, id) := by
      rcases horigin with ⟨r, rest, a, m, hq, hp, rfl, rfl, rfl⟩ | ⟨rest, hq, rfl⟩
      · simp [Anvil.drainHead, hq, hp]
      · simp [Anvil.drainHead, hq]
    have hends (y : Drained) (hx : x.1 = y) (hy : ∀ a bytes, y ≠ .write a bytes) : ends (u.drainEnd ctx ltn y) :=
      hx ▸ exec_anvilDrain_ends hhead hreq hw hbuf hres hport (hx ▸ hy)
    refine ⟨fun a bytes hx => ?writes, fun rest hq => ⟨fun hx => ?drnSent, fun st hx => ?drnDone⟩,
      fun r rest a m hq hp => ⟨fun hx => ?runSent, fun hx => ?runDone, fun st hst hx => ?runFailed⟩⟩
    case writes => exact exec_anvilDrain_writes hhead hreq hw hbuf hres hport hx
    case drnSent => exact drainEnd_drn_sent hq ▸ hends _ hx nofun
    case drnDone => exact drainEnd_drn_done hq st ▸ hends _ hx nofun
    case runSent => exact drainEnd_run_sent hq hp ▸ hends _ hx nofun
    case runDone => exact drainEnd_run_done hq hp ▸ hends _ hx nofun
    case runFailed => exact drainEnd_run_failed hq hst ▸ hends _ hx nofun
  case burst =>
    rintro id r sh row off hr rfl rfl
    exact exec_dmaBurst hr
  case burstDone =>
    rintro id b r q la n out hr hq rfl rfl
    exact exec_dmaBurstDone hr hq

end Sys2Proof.Machine
end

section
/-! PROOFS. The channel instructions that pass their own checks (R237 to R239, R242, R246, R249, R252, R255 to R258): sends and receives (O35),
CHSEL, CHTEST, CHBIND and CHCAN (O37). -/

namespace Sys2Proof.Machine

/-! The checks of R256 that pass. -/

section
variable {s : State} {t : Threadlet} {x y z : Operand} {sources : List Operand}

/-- On a port bound in the role, the other checks decide. -/
theorem checked_port_bound {send : Bool} (rest : List (List Operand × Bool × Nat)) (hn : (s.readOp (s.view t) x).toNat ≤ 63)
    (hb : (s.port t.ctx t.ltn (s.readOp (s.view t) x).toNat).bound = true)
    (hr : (s.port t.ctx t.ltn (s.readOp (s.view t) x).toNat).send = send) :
    s.checked (s.view t) (s.portChecks (s.view t) x send ++ rest) sources = s.checked (s.view t) rest sources := by
  have hc : s.portCheck (s.view t) (s.readOp (s.view t) x).toNat send = none := portCheck_bound hn hb hr
  simp only [State.portChecks, hc]
  exact checked_passes rfl

theorem checked_words_fit {w extra : Nat} (hclean : s.poisonedSource t sources = none) (h1 : 1 ≤ (s.readOp (s.view t) z).toNat)
    (h8 : (s.readOp (s.view t) z).toNat ≤ 8)
    (hf : w + (s.readOp (s.view t) z).toNat + extra ≤ frameWords ((s.frame t.ref).any (·.large))) :
    s.checked (s.view t) (s.wordsChecks (s.view t) w z extra) sources = none :=
  (checked_passes (decide_eq_false (by omega))).trans ((checked_passes (decide_eq_false (by rw [view_t]; omega))).trans (checked_clean hclean))

theorem checked_block_fits (hclean : s.poisonedSource t sources = none) (hlo : 64 ≤ (s.readOp (s.view t) z).toNat)
    (hhi : (s.readOp (s.view t) z).toNat ≤ 4096) (hmul : (s.readOp (s.view t) z).toNat % 64 = 0) (ha : (s.readOp (s.view t) y).toNat % 64 = 0)
    (hin : s.rangeOk t.ctx t.ltn (s.readOp (s.view t) y).toNat (s.readOp (s.view t) z).toNat = true) :
    s.checked (s.view t) (s.blockChecks (s.view t) y z) sources = none :=
  (checked_passes (decide_eq_false (by omega))).trans ((checked_passes (decide_eq_false (not_not.mpr ha))).trans
    ((checked_passes (by rw [view_t, hin]; rfl)).trans (checked_clean hclean)))

end

/-- The destination of a completion, as the bodies and as the statements write it. -/
theorem destOf_eq_target (s : State) (t : Threadlet) (q : Target) (word : Nat) : s.destOf (s.view t) q word = s.target t q word := by
  cases q <;> rfl

/-! Sends and receives. -/

/-- CHSEND, or CHSENDM. -/
def sendInstr (multi : Bool) (g : Guard) (sk : SendKind) (rel : Bool) (x y z : Operand) (q : Target) : Instr :=
  if multi then .chsendm g sk rel x y z q else .chsend g sk rel x y z q

section
variable {s : State} {t : Threadlet} {i : Instr} {g : Guard} {multi rel : Bool} {x y z : Operand} {q : Target} (h : Executes s t i)
  (hn : (s.readOp (s.view t) x).toNat ≤ 63) (hb : (s.port t.ctx t.ltn (s.readOp (s.view t) x).toNat).bound = true)

theorem sendInstr_cases {sk : SendKind} (hi : i = sendInstr multi g sk rel x y z q) :
    i = .chsend g sk rel x y z q ∨ i = .chsendm g sk rel x y z q := by
  cases multi with
  | false => exact .inl hi
  | true => exact .inr hi

include h

theorem exec_send_of_body {sk : SendKind} {u : State} (hi : i = sendInstr multi g sk rel x y z q)
    (hbody : s.sendBody (s.view t) (firstWord i) sk rel multi x y z q = retire u t) :
    exec i s = .next (u.retired s.cur t.pc i t 0) := by
  subst hi
  cases multi with
  | false => exact exec_of_retire h rfl hbody
  | true => exact exec_of_retire h rfl hbody

include hn hb

section
variable (hr : (s.port t.ctx t.ltn (s.readOp (s.view t) x).toNat).send = true)
include hr

/-- Words are sent as they stood at issue. -/
theorem exec_send_words {f : Frame} (hi : i = sendInstr multi g .words rel x y z q) (hf : (s.frame t.ref).map t.asIssued = some f)
    (h1 : 1 ≤ (s.readOp (s.view t) z).toNat) (h8 : (s.readOp (s.view t) z).toNat ≤ 8)
    (hfits : wordIndex y + (s.readOp (s.view t) z).toNat ≤ frameWords ((s.frame t.ref).any (·.large)))
    (hgood : ∀ j < (s.readOp (s.view t) z).toNat, f.poison.contains (wordIndex y + j) = false) :
    exec i s = .next ((s.issueSend (s.view t) (firstWord i) (s.target t q 0xFF) (s.readOp (s.view t) x).toNat
      (.sendWords ((List.range (s.readOp (s.view t) z).toNat).map fun j => f.word (wordIndex y + j))) rel multi).retired s.cur t.pc i t 0) := by
  have hclean := (send_words_access h (sendInstr_cases hi)).clean
  have hnone : ((List.range (s.readOp (s.view t) z).toNat).find? fun k => f.poison.contains (wordIndex y + k)) = none :=
    List.find?_eq_none.mpr fun j hj => by rw [hgood j (List.mem_range.mp hj)]; exact Bool.false_ne_true
  refine exec_send_of_body h hi ?_
  simp only [State.sendBody, send_words_checked hclean hn hb hr h1 h8 hfits, view_t, hf, hnone, destOf_eq_target]

theorem exec_send_block (hi : i = sendInstr multi g .spad rel x y z q) (hlo : 64 ≤ (s.readOp (s.view t) z).toNat)
    (hhi : (s.readOp (s.view t) z).toNat ≤ 4096) (hmul : (s.readOp (s.view t) z).toNat % 64 = 0) (ha : (s.readOp (s.view t) y).toNat % 64 = 0)
    (hin : s.rangeOk t.ctx t.ltn (s.readOp (s.view t) y).toNat (s.readOp (s.view t) z).toNat = true) :
    exec i s = .next ((s.issueSend (s.view t) (firstWord i) (s.target t q 0xFF) (s.readOp (s.view t) x).toNat
      (.sendBlock (s.readOp (s.view t) y).toNat (s.readOp (s.view t) z).toNat) rel multi).retired s.cur t.pc i t 0) := by
  have hclean := (send_block_access h (sendInstr_cases hi)).clean
  refine exec_send_of_body h hi ?_
  simp only [State.sendBody, checked_port_bound _ hn hb hr, checked_block_fits hclean hlo hhi hmul ha hin, Option.getD_none, view_t,
    destOf_eq_target]

end

section
variable (hr : (s.port t.ctx t.ltn (s.readOp (s.view t) x).toNat).send = false)
include hr

theorem exec_recv_words (hi : i = .chrecv g .words x y z q) (h1 : 1 ≤ (s.readOp (s.view t) z).toNat)
    (h8 : (s.readOp (s.view t) z).toNat ≤ 8)
    (hfits : wordIndex y + (s.readOp (s.view t) z).toNat ≤ frameWords ((s.frame t.ref).any (·.large))) :
    exec i s = .next ((s.issueRecv (s.view t) (firstWord i) (s.target t q 0xFF) (s.readOp (s.view t) x).toNat
      (.recvWords (wordIndex y) (s.readOp (s.view t) z).toNat)).retired s.cur t.pc i t 0) := by
  have hclean := (recv_words_access h hi).clean
  subst hi
  rw [← destOf_eq_target]
  exact exec_of_retire h rfl (congrArg (Option.getD · _) ((checked_port_bound _ hn hb hr).trans (checked_words_fit hclean h1 h8 hfits)))

theorem exec_recv_block (hi : i = .chrecv g .spad x y z q) (hlo : 64 ≤ (s.readOp (s.view t) z).toNat)
    (hhi : (s.readOp (s.view t) z).toNat ≤ 4096) (hmul : (s.readOp (s.view t) z).toNat % 64 = 0) (ha : (s.readOp (s.view t) y).toNat % 64 = 0)
    (hin : s.rangeOk t.ctx t.ltn (s.readOp (s.view t) y).toNat (s.readOp (s.view t) z).toNat = true) :
    exec i s = .next ((s.issueRecv (s.view t) (firstWord i) (s.target t q 0xFF) (s.readOp (s.view t) x).toNat
      (.recvBlock (s.readOp (s.view t) y).toNat (s.readOp (s.view t) z).toNat)).retired s.cur t.pc i t 0) := by
  have hclean := (recv_block_access h hi).clean
  subst hi
  rw [← destOf_eq_target]
  exact exec_of_retire h rfl
    (congrArg (Option.getD · _) ((checked_port_bound _ hn hb hr).trans (checked_block_fits hclean hlo hhi hmul ha hin)))

theorem exec_recv_latch (hi : i = .chrecv g .latch x y z q) :
    exec i s = .next ((s.issueRecv (s.view t) (firstWord i) (s.target t q 0xFF) (s.readOp (s.view t) x).toNat (.recvLatch false)).retired
      s.cur t.pc i t 0) := by
  have hclean := (recv_latch_access h hi).clean
  subst hi
  rw [← destOf_eq_target]
  exact exec_of_retire h rfl (congrArg (Option.getD · _) ((checked_port_bound [] hn hb hr).trans (checked_clean hclean)))

end
end

/-- Settles O35: the checks of R256 pass, and the body then posts the operation. -/
theorem channelSendReceive : Obligations.ChannelSendReceive := by
  unfold Obligations.ChannelSendReceive
  intro s t g rel x y z q i h v n a k p inFrame block dest hn hb
  refine ⟨fun hr multi => ⟨?sendWords, ?sendBlock⟩, fun hr => ⟨?recvWords, ?recvBlock, exec_recv_latch h hn hb hr⟩⟩
  case sendWords =>
    rintro f hi hf ⟨h1, h8, hfits⟩ hgood
    exact exec_send_words h hn hb hr hi hf h1 h8 hfits hgood
  case sendBlock =>
    rintro hi ⟨hlo, hhi, hmul, ha, hin⟩
    exact exec_send_block h hn hb hr hi hlo hhi hmul ha hin
  case recvWords =>
    rintro hi ⟨h1, h8, hfits⟩
    exact exec_recv_words h hn hb hr hi h1 h8 hfits
  case recvBlock =>
    rintro hi ⟨hlo, hhi, hmul, ha, hin⟩
    exact exec_recv_block h hn hb hr hi hlo hhi hmul ha hin

/-! CHSEL, CHTEST, CHBIND and CHCAN. -/

@[simp] theorem port_modFrame (s : State) (r : FrameRef) (f : Frame → Frame) (ctx ltn n : Nat) :
    (s.modFrame r f).port ctx ltn n = s.port ctx ltn n := by
  unfold State.modFrame
  split
  next x _ => exact part_setPart_keeps (·.port n) s (p := (s.part r.ctx r.ltn).setCore r.core _) rfl ctx ltn
  next => rfl

/-- A request that enters the tables leaves every port as it is. -/
@[simp] theorem port_addReq (s : State) (r : Req) (ctx ltn n : Nat) : (s.addReq r).port ctx ltn n = s.port ctx ltn n := by
  unfold State.addReq
  dsimp only
  split
  · exact port_modFrame _ r.ref _ ctx ltn n
  · rfl

/-- A select over no port, or over one that holds an operation, is answered REFUSED at once (R242, R249). -/
theorem postSelect_refused {s : State} {ctx ltn id : Nat} {x : Select} {op : ChOp} {r : Req} (howner : op.owner = .req id)
    (hr : s.req id = some r) (h : x.ports = [] ∨ ∃ j ∈ x.ports, (s.port ctx ltn j).op ≠ none) :
    s.postSelect ctx ltn x op = s.finish (r.answer .refused []) := by
  have hbusy : x.ports.isEmpty = true ∨ (x.ports.any fun n => (s.port ctx ltn n).op.isSome) = true := by
    simpa [Option.isSome_iff_ne_none] using h
  rw [State.postSelect, if_pos hbusy, howner, State.chDone, hr]

section
variable {s : State} {t : Threadlet} {g : Guard} {rot : Bool} {d x y z : Operand} {q : Target}

theorem selected_eq (s : State) (v : View) (x y : Operand) :
    s.selected v x y = (List.range 64).filter fun j => (s.readOp v x).getLsbD j && (s.readOp v y).getLsbD j := by
  simp [State.selected]

theorem exec_chsel (h : Executes s t (.chsel g rot d x y z q))
    (hports : ∀ j ∈ s.selected (s.view t) x y, (s.port t.ctx t.ltn j).bound = true ∧ (s.port t.ctx t.ltn j).send = false)
    (h1 : 1 ≤ (s.readOp (s.view t) z).toNat) (h8 : (s.readOp (s.view t) z).toNat ≤ 8)
    (hfits : wordIndex d + (s.readOp (s.view t) z).toNat + 1 ≤ frameWords ((s.frame t.ref).any (·.large))) :
    let ports := s.selected (s.view t) x y
    let sel : Select := ⟨s.nextId, t.ref, s.rtagOf t.ref, wordIndex d, (s.readOp (s.view t) z).toNat, rot, ports, none, [], none⟩
    let s1 := s.addReq (s.chanReq (s.view t) (firstWord (.chsel g rot d x y z q)) (s.target t q 0xFF) (ports.headD 0))
    exec (.chsel g rot d x y z q) s = .next (((s1.postSelect t.ctx t.ltn sel (s.chanOp (s.view t) (.select s.nextId) false)).engines
      t.ctx t.ltn).retired s.cur t.pc (.chsel g rot d x y z q) t 0) := by
  have hclean : s.poisonedSource t [x, y, z] = none := plainSources_clean h rfl
  have hbad : (s.selectBad (s.view t) x y).isSome = false := by rw [selectBad_none hports]; rfl
  intro ports sel s1
  simp only [s1, ← destOf_eq_target]
  exact exec_of_retire h rfl (congrArg (Option.getD · _) ((checked_passes hbad).trans (checked_words_fit hclean h1 h8 hfits)))

section
variable (h : Executes s t (.chtest g d x q)) (hn : (s.readOp (s.view t) x).toNat ≤ 63)
  (hb : (s.port t.ctx t.ltn (s.readOp (s.view t) x).toNat).bound = true)
include h hn hb

/-- What CHTEST of a bound port does: a SEND port answers, a RECV port asks its sender. -/
theorem exec_chtest :
    let n := (s.readOp (s.view t) x).toNat
    let p := s.port t.ctx t.ltn n
    let s1 := s.addReq (s.ask t (.chtest g d x q) (.chtest n) q (wordIndex d))
    exec (.chtest g d x q) s = .next ((if p.send then s1.answer s.nextId .ok [some (sendSnapshot p)]
      else match p.members with
        | m :: _ => s1.chSend ⟨t.ctx, s1.portRef t.ctx t.ltn n, m, .test s.nextId⟩
        | [] => s1).retired s.cur t.pc (.chtest g d x q) t 0) := by
  intro n p s1
  simp only [s1, ← newReq_eq_ask]
  exact exec_of_retire h rfl ((if_neg hn.not_gt).trans (if_neg (by rw [view_t, hb]; exact Bool.false_ne_true)))

end

theorem exec_chbind (h : Executes s t (.chbind g x q)) :
    let w := s.readOp (s.view t) x
    let dests := s.bindDests t w
    let s1 := s.addReq (s.ask t (.chbind g x q) (.chbind w dests.length) q 0xFF)
    exec (.chbind g x q) s = .next ((if s.bindAllowed (s.view t) w then dests.foldl (fun u m =>
        u.chSend ⟨t.ctx, u.portRef t.ctx t.ltn (bindSport w), m, .bind s.nextId (decide (bindOp w = 2))⟩) s1
      else s1.answer s.nextId .refused []).retired s.cur t.pc (.chbind g x q) t 0) := by
  intro w dests s1
  simp only [s1, ← newReq_eq_ask]
  exact exec_of_retire h rfl rfl

theorem exec_chcan (h : Executes s t (.chcan g x)) (hn : (s.readOp (s.view t) x).toNat ≤ 63)
    (hb : (s.port t.ctx t.ltn (s.readOp (s.view t) x).toNat).bound = true) :
    exec (.chcan g x) s = .next (((s.withdrawPort t.ctx t.ltn (s.readOp (s.view t) x).toNat .cancelled).engines t.ctx t.ltn).retired
      s.cur t.pc (.chcan g x) t 0) :=
  exec_of_retire h rfl ((if_neg hn.not_gt).trans (if_neg (by rw [view_t, hb]; exact Bool.false_ne_true)))

end

/-- Settles O37: each instruction's checks pass, and its body decides between the cases. -/
theorem channelSelectBindTest : Obligations.ChannelSelectBindTest := by
  unfold Obligations.ChannelSelectBindTest
  intro s t g rot d x y z q v n p
  refine ⟨?sel, ?test, ?bind, ?can⟩
  case sel =>
    rintro i rfl h ports k hports h1 h8 hfits sel s1
    have hsel : s.selected v x y = ports := selected_eq s v x y
    have hexec := exec_chsel h (by rwa [hsel]) h1 h8 hfits
    rw [hsel] at hexec
    refine ⟨hexec, fun hno r hr => ?_⟩
    rw [hexec, postSelect_refused rfl hr (by simpa only [s1, port_addReq] using hno)]
  case test =>
    rintro i rfl h hn hb s1
    have hexec := exec_chtest h hn hb
    refine ⟨fun hsend => ?_, fun m l hrecv hm => ?_⟩
    · rw [hexec, if_pos hsend]
    · simp only [hexec, show (s.port t.ctx t.ltn (s.readOp (s.view t) x).toNat).send = false from hrecv,
        show (s.port t.ctx t.ltn (s.readOp (s.view t) x).toNat).members = m :: l from hm, Bool.false_eq_true, if_false]
      rfl
  case bind =>
    rintro i rfl h w dests s1
    have hexec := exec_chbind h
    exact ⟨fun hno => by rw [hexec, if_neg (Bool.eq_false_iff.mp hno)]; rfl, fun hyes => by rw [hexec, if_pos hyes]; rfl⟩
  case can =>
    rintro i rfl h hn hb
    exact exec_chcan h hn hb

end Sys2Proof.Machine
end

section
/-! PROOFS. The packets of the channel unit (R239, R241, R243 to R252, R258; O49): each packet that has arrived, by the state of its port. -/

namespace Sys2Proof.Machine

/-! ## A packet that is taken -/

/-- The part apart from what its last detection saw (R262). -/
def Part.unseen (p : Part) : Part := { p with dloSeen := none }

/-- The same contexts, requests and parts, but for when a detection of a part may start again. -/
structure State.HearsOnly (s u : State) : Prop where
  ctxs : u.ctxs = s.ctxs
  reqs : u.reqs = s.reqs
  parts : ∀ ctx ltn, (u.part ctx ltn).unseen = (s.part ctx ltn).unseen

theorem State.HearsOnly.refl (s : State) : s.HearsOnly s := ⟨rfl, rfl, fun _ _ => rfl⟩

theorem State.HearsOnly.trans {s u w : State} (hsu : s.HearsOnly u) (huw : u.HearsOnly w) : s.HearsOnly w :=
  ⟨huw.ctxs.trans hsu.ctxs, huw.reqs.trans hsu.reqs, fun ctx ltn => (huw.parts ctx ltn).trans (hsu.parts ctx ltn)⟩

theorem chHeard_hearsOnly (s : State) (p : ChPacket) : s.HearsOnly (s.chHeard p) := by
  unfold State.chHeard
  split
  · exact ⟨rfl, rfl, part_setPart_keeps Part.unseen s (p := (s.part p.ctx p.dst.ltn).unseen) rfl⟩
  · exact .refl s

theorem foldl_chHeard_hearsOnly (l : List ChPacket) (s : State) : s.HearsOnly (l.foldl (fun u o => u.chHeard o) s) := by
  induction l generalizing s with
  | nil => exact .refl s
  | cons o l ih => exact (chHeard_hearsOnly s o).trans (ih _)

section
variable {s u : State} (h : s.HearsOnly u)
include h

theorem State.HearsOnly.part {α : Type} (get : Part → α) (hget : ∀ a : Part, get a.unseen = get a) (ctx ltn : Nat) :
    get (u.part ctx ltn) = get (s.part ctx ltn) := by
  rw [← hget, h.parts, hget]

theorem State.HearsOnly.ended (ctx ltn : Nat) : (u.part ctx ltn).ended = (s.part ctx ltn).ended := h.part Part.ended (fun _ => rfl) ctx ltn

theorem State.HearsOnly.port (ctx ltn n : Nat) : u.port ctx ltn n = s.port ctx ltn n := h.part (·.port n) (fun _ => rfl) ctx ltn

theorem State.HearsOnly.sel (ctx ltn id : Nat) : (u.part ctx ltn).sel id = (s.part ctx ltn).sel id := h.part (·.sel id) (fun _ => rfl) ctx ltn

theorem State.HearsOnly.sels (ctx ltn : Nat) : (u.part ctx ltn).sels = (s.part ctx ltn).sels := h.part Part.sels (fun _ => rfl) ctx ltn

theorem State.HearsOnly.chLast (ctx ltn : Nat) : (u.part ctx ltn).chLast = (s.part ctx ltn).chLast := h.part Part.chLast (fun _ => rfl) ctx ltn

theorem State.HearsOnly.req (id : Nat) : u.req id = s.req id := by
  rw [State.req, h.reqs, State.req]

theorem State.HearsOnly.refusesNew (ctx ltn n : Nat) : u.refusesNew ctx ltn n = s.refusesNew ctx ltn n := by
  rw [State.refusesNew, h.ended, h.port, State.refusesNew]

theorem State.HearsOnly.offerCurrent (p : ChPacket) : u.offerCurrent p = s.offerCurrent p := by
  simp only [State.offerCurrent, h.port, h.sel]

theorem State.HearsOnly.portsUsed (ctx ltn : Nat) : u.portsUsed ctx ltn = s.portsUsed ctx ltn := by
  have hctx : ∀ c, u.ctx c = s.ctx c := fun c => by rw [State.ctx, h.ctxs, State.ctx]
  have hheld : ∀ c l, (u.part c l).portsHeld = (s.part c l).portsHeld := h.part Part.portsHeld fun _ => rfl
  simp only [State.portsUsed, State.ptnOf, State.tme, hctx, hheld, State.ctxsOn, h.ctxs]

theorem State.HearsOnly.canBind (ctx ltn n : Nat) : u.canBind ctx ltn n = s.canBind ctx ltn n := by
  simp only [State.canBind, h.port, h.ended, h.portsUsed]

end

/-- The state in which the unit acts on a packet that it has taken. -/
def State.takes (s : State) (n : Nat) (p : ChPacket) : State := (s.takePacket n).chHeard p

theorem takes_hearsOnly (s : State) (n : Nat) (p : ChPacket) : s.HearsOnly (s.takes n p) :=
  State.HearsOnly.trans (u := s.takePacket n) ⟨rfl, rfl, fun _ _ => rfl⟩ (chHeard_hearsOnly (s.takePacket n) p)

section
variable (s : State) (n : Nat) (p : ChPacket) (ctx ltn : Nat)

@[simp] theorem takes_port (k : Nat) : (s.takes n p).port ctx ltn k = s.port ctx ltn k := (takes_hearsOnly s n p).port ctx ltn k
@[simp] theorem takes_sel (id : Nat) : ((s.takes n p).part ctx ltn).sel id = (s.part ctx ltn).sel id := (takes_hearsOnly s n p).sel ctx ltn id
@[simp] theorem takes_req (id : Nat) : (s.takes n p).req id = s.req id := (takes_hearsOnly s n p).req id
@[simp] theorem takes_refusesNew (k : Nat) : (s.takes n p).refusesNew ctx ltn k = s.refusesNew ctx ltn k :=
  (takes_hearsOnly s n p).refusesNew ctx ltn k
@[simp] theorem takes_canBind (k : Nat) : (s.takes n p).canBind ctx ltn k = s.canBind ctx ltn k := (takes_hearsOnly s n p).canBind ctx ltn k
@[simp] theorem takes_refusesWithdraw (o : ChPacket) : (s.takes n p).refusesWithdraw o = s.refusesWithdraw o := by
  simp only [State.refusesWithdraw, takes_port, (takes_hearsOnly s n p).ended]

end

theorem portOpen_iff {s : State} {p : ChPacket} : s.portOpen p ↔ s.refusesNew p.ctx p.dst.ltn p.dst.port = false := by
  simp [State.portOpen, State.refusesNew]

theorem not_portOpen_iff {s : State} {p : ChPacket} : ¬ s.portOpen p ↔ s.refusesNew p.ctx p.dst.ltn p.dst.port = true := by
  rw [portOpen_iff, Bool.not_eq_false]

/-- Instruction i leaves u, after which the engines of the packet's tile go on. -/
def State.ComesTo (s : State) (p : ChPacket) (i : Instr) (u : State) : Prop := exec i s = .next (u.engines p.ctx p.dst.ltn)

/-- A packet that has arrived is taken; e is the instruction's own function, which says what the unit does then. -/
theorem comesTo_of_take {s u : State} {n : Nat} {p : ChPacket} {i : Instr} {e : Host.Outcome State Fault Refusal}
    {f : State → ChPacket → Option State} (ha : s.chArrived n = some p) (hi : exec i s = e) (he : e = s.chTake n f)
    (hf : f (s.takes n p) p = some u) : s.ComesTo p i u := by
  have hf' : f ((s.takePacket n).chHeard p) p = some u := hf
  rw [State.ComesTo, hi, he]
  simp only [State.chTake, ha, hf']

/-! ## What the unit finds at a port, and what it does there -/

section
variable {q : Port} {src : PortRef} {seq m : Nat} {op : ChOp}

theorem offeredOp_eq (hop : q.op = some op) (hoff : op.offered = some (src, seq, m)) : q.offeredOp = some (op, src, seq, m) := by
  simp [Port.offeredOp, hop, hoff]

theorem offeredOp_none (hop : ∀ op, q.op = some op → op.offered = none) : q.offeredOp = none := by
  simpa [Port.offeredOp] using hop

/-- No ready-select is recorded from a port under a seq. -/
theorem rsel_any_false (hrsel : ∀ j, q.rsel ≠ some (src, seq, j)) :
    (q.rsel.any fun r => decide (r.1 = src) && decide (r.2.1 = seq)) = false := by
  refine Bool.eq_false_iff.mpr fun hany => ?_
  obtain ⟨⟨a, b, j⟩, hr, hsame⟩ := (Option.any_eq_true ..).mp hany
  obtain ⟨rfl, rfl⟩ : a = src ∧ b = seq := by simpa using hsame
  exact hrsel j hr

end

/-! An offered send that is released is unoffered, and completes where it is withdrawn or its port is unbound. -/

section
variable {s : State} {op : ChOp} {ctx ltn k : Nat}

theorem unoffer_bound (hcancel : op.cancel = none) (hb : (s.port ctx ltn k).bound = true) : s.unoffer ctx ltn k op =
    (s.setPort ctx ltn k { s.port ctx ltn k with op := some { op with offered := none } }).chTry ctx ltn k := by
  simp only [State.unoffer, hcancel, hb, if_true]

theorem unoffer_unbound (hcancel : op.cancel = none) (hb : (s.port ctx ltn k).bound = false) : s.unoffer ctx ltn k op =
    (s.setPort ctx ltn k { s.port ctx ltn k with op := some { op with offered := none } }).chEnd ctx ltn k .refused := by
  simp only [State.unoffer, hcancel, hb, Bool.false_eq_true, if_false]

theorem unoffer_withdrawn {st : Status} (hcancel : op.cancel = some st) : s.unoffer ctx ltn k op =
    (s.setPort ctx ltn k { s.port ctx ltn k with op := some { op with offered := none } }).chEnd ctx ltn k st := by
  simp only [State.unoffer, hcancel]

end

/-! Words and units as a receive takes them; words that land and answers leave the selects. -/

section
variable {s : State}

theorem landData_words {op : ChOp} {ws : List Word} {f m : Nat} (hform : op.form = .recvWords f m) (ctx ltn k : Nat) :
    s.landData ctx ltn k op (.dataWords ws) = (.ok, s.landWords op.ref op.rtag f ws) := by
  simp [State.landData, hform]

theorem landData_units {op : ChOp} {us : List (Option (List Byte))} {a m : Nat} (hform : op.form = .recvBlock a m) (ctx ltn k : Nat) :
    s.landData ctx ltn k op (.dataUnits us) = (if us.any (·.isNone) then .poison else .ok,
      s.setPart ctx ltn ((s.part ctx ltn).landUnits a us (Tab.get 0 (s.part ctx ltn).landed k))) := by
  simp [State.landData, hform]

@[simp] theorem landWords_sel (r : FrameRef) (rtag i : Nat) (ws : List Word) (ctx ltn id : Nat) :
    ((s.landWords r rtag i ws).part ctx ltn).sel id = (s.part ctx ltn).sel id := by
  unfold State.landWords
  split
  next f _ =>
    split
    · exact part_setPart_keeps (·.sel id) s (p := (s.part r.ctx r.ltn).setCore r.core _) rfl ctx ltn
    · rfl
  next => rfl

@[simp] theorem chReply_sel (o : ChPacket) (b : ChBody) (ctx ltn id : Nat) :
    ((s.chReply o b).part ctx ltn).sel id = (s.part ctx ltn).sel id := by
  rw [State.part, State.chReply, chSend_parts, State.part]

end

section
variable {s : State} {n : Nat} {p : ChPacket} (ha : s.chArrived n = some p)
include ha

/-! ## Readies (R243, R249, R251) -/

theorem exec_ready_open {a : Asked} (hbody : p.body = .ready a) (ho : s.portOpen p) :
    let q := s.port p.ctx p.dst.ltn p.dst.port
    s.ComesTo p (.ready n) (((s.takes n p).setPort p.ctx p.dst.ltn p.dst.port
      { q with rdy := q.rdy.filter (·.1 ≠ p.src) ++ [(p.src, a)] }).chTry p.ctx p.dst.ltn p.dst.port) :=
  comesTo_of_take (e := execReady n s) ha rfl rfl (by simp [hbody, portOpen_iff.mp ho, State.modPort])

theorem exec_ready_refused {a : Asked} (hbody : p.body = .ready a) (ho : ¬ s.portOpen p) :
    s.ComesTo p (.ready n) ((s.takes n p).chReply p .refuse) :=
  comesTo_of_take (e := execReady n s) ha rfl rfl (by simp [hbody, not_portOpen_iff.mp ho])

section
variable {seq m : Nat} (hbody : p.body = .readySelect seq m)
include hbody

theorem exec_readySelect_single (ho : s.portOpen p) (hm : (s.port p.ctx p.dst.ltn p.dst.port).members.length < 2) :
    s.ComesTo p (.readySelect n) (((s.takes n p).setPort p.ctx p.dst.ltn p.dst.port
      { s.port p.ctx p.dst.ltn p.dst.port with rsel := some (p.src, seq, m) }).chTry p.ctx p.dst.ltn p.dst.port) :=
  comesTo_of_take (e := execReadySelect n s) ha rfl rfl (by simp [hbody, portOpen_iff.mp ho, State.modPort, hm.not_ge])

theorem exec_readySelect_group (hm : 2 ≤ (s.port p.ctx p.dst.ltn p.dst.port).members.length) :
    s.ComesTo p (.readySelect n) ((s.takes n p).chReply p .refuse) :=
  comesTo_of_take (e := execReadySelect n s) ha rfl rfl (by simp [hbody, hm])

end

/-! ## Go and release (R249, R251, R252) -/

section
variable {seq m : Nat} {op : ChOp} (hop : (s.port p.ctx p.dst.ltn p.dst.port).op = some op) (hoff : op.offered = some (p.src, seq, m))
include hop hoff

theorem exec_go_moves (hbody : p.body = .go seq) (hmatch : op.form.matches (.words m) = true) :
    s.ComesTo p (.go n) ((s.takes n p).chMove p.ctx p.dst.ltn p.dst.port op [p.src]) :=
  comesTo_of_take (e := execGo n s) ha rfl rfl (by simp [hbody, offeredOp_eq hop hoff, hmatch])

theorem exec_go_mismatch (hbody : p.body = .go seq) (hmatch : op.form.matches (.words m) = false) :
    s.ComesTo p (.go n) (((s.takes n p).chReply p .refuse).chEnd p.ctx p.dst.ltn p.dst.port .refused) :=
  comesTo_of_take (e := execGo n s) ha rfl rfl (by simp [hbody, offeredOp_eq hop hoff, hmatch])

theorem exec_release_offered (hbody : p.body = .release seq)
    (hrsel : ∀ j, (s.port p.ctx p.dst.ltn p.dst.port).rsel ≠ some (p.src, seq, j)) :
    s.ComesTo p (.release n) ((s.takes n p).unoffer p.ctx p.dst.ltn p.dst.port op) :=
  comesTo_of_take (e := execRelease n s) ha rfl rfl (by simp [hbody, rsel_any_false hrsel, offeredOp_eq hop hoff])

end

theorem exec_release_recorded {seq m : Nat} (hbody : p.body = .release seq)
    (hrsel : (s.port p.ctx p.dst.ltn p.dst.port).rsel = some (p.src, seq, m)) :
    s.ComesTo p (.release n) ((s.takes n p).setPort p.ctx p.dst.ltn p.dst.port
      { s.port p.ctx p.dst.ltn p.dst.port with rsel := none }) :=
  comesTo_of_take (e := execRelease n s) ha rfl rfl (by simp [hbody, hrsel])

section
variable (hb : (s.port p.ctx p.dst.ltn p.dst.port).bound = false)
  (hop : ∀ op, (s.port p.ctx p.dst.ltn p.dst.port).op = some op → op.offered = none)
include hb hop

theorem exec_go_unbound {seq : Nat} (hbody : p.body = .go seq) :
    s.ComesTo p (.go n) ((s.takes n p).chReply p .refuse) :=
  comesTo_of_take (e := execGo n s) ha rfl rfl (by simp [hbody, offeredOp_none hop, hb])

theorem exec_release_unbound {seq : Nat} (hrsel : (s.port p.ctx p.dst.ltn p.dst.port).rsel = none) (hbody : p.body = .release seq) :
    s.ComesTo p (.release n) ((s.takes n p).chReply p .refuse) :=
  comesTo_of_take (e := execRelease n s) ha rfl rfl (by simp [hbody, hrsel, offeredOp_none hop, hb])

end

/-! ## Data, acceptances and refusals (R243 to R245, R247, R248) -/

/-- Data land, the acceptance is sent, and the receive, which is not a select's, completes. -/
theorem exec_dataLanding {op : ChOp} {st : Status} {u : State} (hbody : (∃ ws, p.body = .dataWords ws) ∨ ∃ us, p.body = .dataUnits us)
    (hop : (s.port p.ctx p.dst.ltn p.dst.port).op = some op) (hform : ∀ id, op.form ≠ .select id)
    (hland : (s.takes n p).landData p.ctx p.dst.ltn p.dst.port op p.body = (st, u)) :
    s.ComesTo p (.dataLanding n) ((u.chReply p (.acceptance st)).chEnd p.ctx p.dst.ltn p.dst.port st) := by
  have hends {b : ChBody} (hb : p.body = b) : (s.takes n p).landData p.ctx p.dst.ltn p.dst.port op b = (st, u) := hb ▸ hland
  refine comesTo_of_take (e := execDataLanding n s) ha rfl rfl ?_
  rcases hbody with ⟨ws, hb⟩ | ⟨us, hb⟩
  · simp only [hb, takes_port, hop, hends hb]
  · simp only [hb, takes_port, hop, hends hb]

theorem exec_dataLanding_select {ws : List Word} {id : Nat} {x : Select} {op : ChOp} (hbody : p.body = .dataWords ws)
    (hop : (s.port p.ctx p.dst.ltn p.dst.port).op = some op) (hform : op.form = .select id)
    (hx : (s.part p.ctx p.dst.ltn).sel id = some x) :
    s.ComesTo p (.dataLanding n) ((((s.takes n p).landWords x.ref x.rtag x.frm (BitVec.ofNat 64 p.dst.port :: ws)).chReply p
      (.acceptance .ok)).endSelect p.ctx p.dst.ltn x .ok) :=
  comesTo_of_take (e := execDataLanding n s) ha rfl rfl (by simp [hbody, hop, hform, State.landData, hx])

/-- The last acceptance completes the send. -/
theorem exec_acceptance_last {st : Status} {op : ChOp} (hbody : p.body = .acceptance st)
    (hop : (s.port p.ctx p.dst.ltn p.dst.port).op = some op) (hlast : ∀ m ∈ op.moving, m = p.src) (hok : op.result = .ok) :
    s.ComesTo p (.acceptance n) ((((s.takes n p).setPort p.ctx p.dst.ltn p.dst.port
      { s.port p.ctx p.dst.ltn p.dst.port with op := some { op with moving := [], result := st } }).chEnd p.ctx p.dst.ltn p.dst.port
      st).chTry p.ctx p.dst.ltn p.dst.port) := by
  have hnil : op.moving.filter (· ≠ p.src) = [] := List.filter_eq_nil_iff.mpr fun m hm => by simp [hlast m hm]
  exact comesTo_of_take (e := execAcceptance n s) ha rfl rfl
    (by simp only [hbody, takes_port, hop, hnil, hok, if_true, State.modPort, List.isEmpty_nil])

theorem exec_refuse {op : ChOp} (hbody : p.body = .refuse) (hop : (s.port p.ctx p.dst.ltn p.dst.port).op = some op)
    (hform : ∀ id, op.form ≠ .select id) :
    s.ComesTo p (.refuse n) ((s.takes n p).chEnd p.ctx p.dst.ltn p.dst.port .refused) :=
  comesTo_of_take (e := execRefuse n s) ha rfl rfl (by simp only [hbody, takes_port, hop])

theorem exec_refuse_test {id : Nat} {r : Req} (hbody : p.body = .testRefused id) (hr : s.req id = some r) :
    s.ComesTo p (.refuse n) ((s.takes n p).finish (r.answer .refused [])) :=
  comesTo_of_take (e := execRefuse n s) ha rfl rfl (by simp [hbody, hr])

/-! ## Withdrawals (R252, R253) -/

omit ha in
theorem refusesWithdraw_true (h : (s.port p.ctx p.dst.ltn p.dst.port).bound = false ∨ ((s.part p.ctx p.dst.ltn).ended = true ∧
    ∀ op, (s.port p.ctx p.dst.ltn p.dst.port).op = some op → p.src ∉ op.moving)) : s.refusesWithdraw p = true := by
  rcases h with hb | ⟨he, hm⟩
  · simp [State.refusesWithdraw, hb]
  · cases hop : (s.port p.ctx p.dst.ltn p.dst.port).op with
    | none => simp [State.refusesWithdraw, he, hop]
    | some op => simp [State.refusesWithdraw, he, hop, hm op hop]

omit ha in
theorem refusesWithdraw_false (hb : (s.port p.ctx p.dst.ltn p.dst.port).bound = true) (h : (s.part p.ctx p.dst.ltn).ended = false ∨
    ∃ op, (s.port p.ctx p.dst.ltn p.dst.port).op = some op ∧ p.src ∈ op.moving) : s.refusesWithdraw p = false := by
  rcases h with he | ⟨op, hop, hm⟩
  · simp [State.refusesWithdraw, hb, he]
  · simp [State.refusesWithdraw, hb, hop, hm]

section
variable {tag : Nat} (hbody : p.body = .withdraw tag)
include hbody

theorem exec_withdraw_refused (h : (s.port p.ctx p.dst.ltn p.dst.port).bound = false ∨ ((s.part p.ctx p.dst.ltn).ended = true ∧
      ∀ op, (s.port p.ctx p.dst.ltn p.dst.port).op = some op → p.src ∉ op.moving)) :
    s.ComesTo p (.withdraw n) ((s.takes n p).chReply p .refuse) :=
  comesTo_of_take (e := execWithdraw n s) ha rfl rfl (by simp [hbody, refusesWithdraw_true h])

section
variable (hb : (s.port p.ctx p.dst.ltn p.dst.port).bound = true) (h : (s.part p.ctx p.dst.ltn).ended = false ∨
    ∃ op, (s.port p.ctx p.dst.ltn p.dst.port).op = some op ∧ p.src ∈ op.moving)
  (hrsel : (s.port p.ctx p.dst.ltn p.dst.port).rsel = none)
include hb h hrsel

/-- A ready that is recorded is discarded. -/
theorem exec_withdraw_gone (hany : (s.port p.ctx p.dst.ltn p.dst.port).rdy.any (·.1 = p.src) = true) :
    let q := s.port p.ctx p.dst.ltn p.dst.port
    s.ComesTo p (.withdraw n) (((s.takes n p).setPort p.ctx p.dst.ltn p.dst.port
      { q with rdy := q.rdy.filter (·.1 ≠ p.src) }).chReply p (.withdrawn tag true)) := by
  intro q
  have hq : { q with rdy := q.rdy.filter (·.1 ≠ p.src), rsel := q.rsel.filter fun r => r.1 ≠ p.src } =
      { q with rdy := q.rdy.filter (·.1 ≠ p.src) } := congrArg (fun r => { q with rdy := q.rdy.filter (·.1 ≠ p.src), rsel := r })
    (show q.rsel.filter _ = q.rsel by rw [show q.rsel = none from hrsel]; rfl)
  have hne : { q with rdy := q.rdy.filter (·.1 ≠ p.src) } ≠ q := by
    obtain ⟨r, hr, hsrc⟩ := List.any_eq_true.mp hany
    intro heq
    have hmem : r ∈ q.rdy.filter (·.1 ≠ p.src) := by rwa [show q.rdy.filter (·.1 ≠ p.src) = q.rdy from congrArg Port.rdy heq]
    simp at hmem hsrc
    exact hmem.2 hsrc
  refine comesTo_of_take (e := execWithdraw n s) ha rfl rfl ?_
  simp only [hbody, takes_refusesWithdraw, refusesWithdraw_false hb h, takes_port, hany, Bool.false_eq_true, if_false]
  rw [hq, if_neg hne]

theorem exec_withdraw_none (hany : (s.port p.ctx p.dst.ltn p.dst.port).rdy.any (·.1 = p.src) = false) :
    s.ComesTo p (.withdraw n) ((s.takes n p).chReply p (.withdrawn tag false)) := by
  have hsame : (s.port p.ctx p.dst.ltn p.dst.port).rdy.filter (·.1 ≠ p.src) = (s.port p.ctx p.dst.ltn p.dst.port).rdy :=
    List.filter_eq_self.mpr fun r hr => by simpa using List.any_eq_false.mp hany r hr
  have hq : ({ s.port p.ctx p.dst.ltn p.dst.port with
      rdy := (s.port p.ctx p.dst.ltn p.dst.port).rdy.filter (·.1 ≠ p.src),
      rsel := (s.port p.ctx p.dst.ltn p.dst.port).rsel.filter fun r => r.1 ≠ p.src } : Port) = s.port p.ctx p.dst.ltn p.dst.port := by
    rw [hsame, hrsel, Option.filter_none, ← hrsel]
  refine comesTo_of_take (e := execWithdraw n s) ha rfl rfl ?_
  simp only [hbody, takes_refusesWithdraw, refusesWithdraw_false hb h, takes_port, hany, hq, Bool.false_eq_true, if_false, if_true]

end
end

theorem exec_withdrawAnswer {tag : Nat} {gone : Bool} {op : ChOp} {st : Status} (hbody : p.body = .withdrawn tag gone)
    (hop : (s.port p.ctx p.dst.ltn p.dst.port).op = some op) (hform : ∀ id, op.form ≠ .select id) (hcancel : op.cancel = some st)
    (htag : op.tag = tag) : s.ComesTo p (.withdrawAnswer n) (if gone then (s.takes n p).chEnd p.ctx p.dst.ltn p.dst.port st
      else s.takes n p) := by
  refine comesTo_of_take (e := execWithdrawAnswer n s) ha rfl rfl ?_
  simp only [hbody, takes_port, hop, hcancel, htag, true_and]

/-! ## Tests (R258) -/

theorem exec_channelTest_open {id : Nat} (hbody : p.body = .test id) (ho : s.portOpen p) :
    let there := (s.port p.ctx p.dst.ltn p.dst.port).op.any fun o =>
      !o.held && !(o.moving.isEmpty && o.offered.any fun x => decide (x.1 ≠ p.src))
    s.ComesTo p (.channelTest n) ((s.takes n p).chReply p (.tested id there)) := by
  refine comesTo_of_take (e := execChannelTest n s) ha rfl rfl ?_
  simp only [hbody, takes_refusesNew, portOpen_iff.mp ho, takes_port, Bool.false_eq_true, if_false]
  cases (s.port p.ctx p.dst.ltn p.dst.port).op <;> rfl

theorem exec_channelTest_refused {id : Nat} (hbody : p.body = .test id) (ho : ¬ s.portOpen p) :
    s.ComesTo p (.channelTest n) ((s.takes n p).chReply p (.testRefused id)) :=
  comesTo_of_take (e := execChannelTest n s) ha rfl rfl (by simp [hbody, not_portOpen_iff.mp ho])

theorem exec_testReply {id : Nat} {partner : Bool} {r : Req} (hbody : p.body = .tested id partner) (hr : s.req id = some r) :
    s.ComesTo p (.testReply n) ((s.takes n p).finish
      (r.answer .ok [some (recvSnapshot (s.port p.ctx p.dst.ltn p.dst.port) partner)])) :=
  comesTo_of_take (e := execTestReply n s) ha rfl rfl (by simp [hbody, hr])

/-! ## Binding (R239) -/

theorem exec_bindRequest {id : Nat} (hbody : p.body = .bind id false) :
    s.ComesTo p (.bindRequest n) (if s.canBind p.ctx p.dst.ltn p.dst.port then ((s.takes n p).setPort p.ctx p.dst.ltn p.dst.port
        { s.port p.ctx p.dst.ltn p.dst.port with send := false, bound := true, members := [p.src] }).chReply p (.bound id true)
      else (s.takes n p).chReply p (.bound id false)) := by
  refine comesTo_of_take (e := execBindRequest n s) ha rfl rfl ?_
  simp only [hbody, takes_canBind, State.bindRecv, State.modPort, takes_port, Bool.false_eq_true, if_false]
  split <;> rfl

section
variable {id : Nat} (hbody : p.body = .bind id true)
include hbody

theorem exec_bindRequest_unbinds (hb : (s.port p.ctx p.dst.ltn p.dst.port).bound = true)
    (hm : (s.port p.ctx p.dst.ltn p.dst.port).members = [p.src]) :
    s.ComesTo p (.bindRequest n) ((((s.takes n p).setPort p.ctx p.dst.ltn p.dst.port
      { s.port p.ctx p.dst.ltn p.dst.port with bound := false }).settlePort p.ctx p.dst.ltn p.dst.port).chReply p (.bound id true)) :=
  comesTo_of_take (e := execBindRequest n s) ha rfl rfl (by simp only [hbody, takes_port, if_true, if_pos (And.intro hb hm)])

theorem exec_bindRequest_unbindsNothing (h : (s.port p.ctx p.dst.ltn p.dst.port).bound = false ∨
    (s.port p.ctx p.dst.ltn p.dst.port).members ≠ [p.src]) :
    s.ComesTo p (.bindRequest n) ((s.takes n p).chReply p (.bound id true)) := by
  have hno : ¬ ((s.port p.ctx p.dst.ltn p.dst.port).bound = true ∧ (s.port p.ctx p.dst.ltn p.dst.port).members = [p.src]) :=
    fun ⟨hb, hm⟩ => h.elim (fun hf => Bool.false_ne_true (hf.symm.trans hb)) fun hne => hne hm
  exact comesTo_of_take (e := execBindRequest n s) ha rfl rfl (by simp only [hbody, takes_port, if_true, if_neg hno])

end

section
variable {id left : Nat} {ok : Bool} {r : Req} {w : Word} (hbody : p.body = .bound id ok) (hr : s.req id = some r)
  (hkind : r.kind = .chbind w left)
include hbody hr hkind

section
variable (hop : bindOp w ≠ 2)
include hop

theorem exec_bindReply_refused (hno : ok = false) :
    s.ComesTo p (.bindReply n) ((s.takes n p).finish (r.answer .refused [])) :=
  comesTo_of_take (e := execBindReply n s) ha rfl rfl (by simp [hbody, hr, hkind, hop, hno])

theorem exec_bindReply_binds {u : State} (hok : ok = true)
    (hu : (s.takes n p).bindSend p.ctx p.dst.ltn (bindSport w) (decide (bindOp w = 1)) p.src = some u) :
    s.ComesTo p (.bindReply n) (u.finish (r.answer .ok [])) :=
  comesTo_of_take (e := execBindReply n s) ha rfl rfl (by simp [hbody, hr, hkind, hop, hok, hu])

/-- Where the port was taken meanwhile, the member is released again. -/
theorem exec_bindReply_taken (hok : ok = true)
    (hu : (s.takes n p).bindSend p.ctx p.dst.ltn (bindSport w) (decide (bindOp w = 1)) p.src = none) :
    s.ComesTo p (.bindReply n) (((s.takes n p).chSend ⟨p.ctx, p.dst, p.src, .bind id true⟩).finish (r.answer .refused [])) :=
  comesTo_of_take (e := execBindReply n s) ha rfl rfl (by simp [hbody, hr, hkind, hop, hok, hu])

end

/-- An answer to an unbind, of which the last frees the port. -/
theorem exec_bindReply_unbind (hop : bindOp w = 2) :
    s.ComesTo p (.bindReply n) (if left ≤ 1 then ((s.takes n p).unbindSend p.ctx p.dst.ltn (bindSport w)).finish (r.answer .ok [])
      else (s.takes n p).setReq { r with kind := .chbind w (left - 1) }) :=
  comesTo_of_take (e := execBindReply n s) ha rfl rfl (by simp only [hbody, takes_req, hr, hkind, if_pos hop])

end
end

/-! ## Offers of one cycle (R249, R250) -/

/-- The lowest of some ports. -/
def lowestPort (l : List Nat) : Option Nat := l.foldl (init := none) fun b x => match b with
  | none => some x
  | some y => some (if x < y then x else y)

theorem lowestPort_eq_min? (l : List Nat) : lowestPort l = l.min? := by
  have hsome : ∀ (l : List Nat) (y : Nat), (l.foldl (init := some y) fun b x => match b with
      | none => some x
      | some y => some (if x < y then x else y)) = some (l.foldl min y) := by
    intro l
    induction l with
    | nil => exact fun y => rfl
    | cons x l ih =>
      intro y
      rw [List.foldl_cons, List.foldl_cons, ← ih]
      have hmin : (if x < y then x else y) = min y x := by split <;> omega
      dsimp only
      rw [hmin]
  cases l with
  | nil => rfl
  | cons x l => exact hsome l x

theorem lowestPort_spec {l : List Nat} (h : l ≠ []) : ∃ w ∈ l, lowestPort l = some w ∧ ∀ m ∈ l, w ≤ m := by
  obtain ⟨w, hw⟩ := Option.ne_none_iff_exists'.mp (mt List.min?_eq_none_iff.mp h)
  obtain ⟨hmem, hmin⟩ := List.min?_eq_some_iff.mp hw
  exact ⟨w, hmem, (lowestPort_eq_min? l).trans hw, hmin⟩

theorem selectWinner_eq (rot : Bool) (last : Nat) (l : List Nat) :
    selectWinner rot last l = if rot then (lowestPort (l.filter (last < ·))).or (lowestPort l) else lowestPort l := rfl

/-- Without rotation the lowest port wins, with it the first after the last winner, and the lowest where none is after it (R250). -/
theorem selectWinner_spec (rot : Bool) (last : Nat) {l : List Nat} (h : l ≠ []) : ∃ w ∈ l, selectWinner rot last l = some w ∧
    (rot = false → ∀ m ∈ l, w ≤ m) ∧ (rot = true → (∃ m ∈ l, last < m) → last < w ∧ ∀ m ∈ l, last < m → w ≤ m) ∧
    (rot = true → (∀ m ∈ l, m ≤ last) → ∀ m ∈ l, w ≤ m) := by
  obtain ⟨w, hw, hlow, hmin⟩ := lowestPort_spec h
  cases rot with
  | false => exact ⟨w, hw, hlow, fun _ => hmin, nofun, nofun⟩
  | true =>
    by_cases hafter : l.filter (last < ·) = []
    · have hnone : ∀ m ∈ l, ¬ last < m := by simpa using hafter
      refine ⟨w, hw, ?_, nofun, fun _ ⟨m, hm, hlt⟩ => absurd hlt (hnone m hm), fun _ _ => hmin⟩
      rw [selectWinner_eq, if_pos rfl, hafter, hlow]
      rfl
    · obtain ⟨v, hv, hfirst, hnext⟩ := lowestPort_spec hafter
      obtain ⟨hvl, hvlast⟩ : v ∈ l ∧ last < v := by simpa using hv
      refine ⟨v, hvl, ?_, nofun, fun _ _ => ⟨hvlast, fun m hm hlt => hnext m (by simp [hm, hlt])⟩,
        fun _ hall => absurd (hall v hvl) hvlast.not_ge⟩
      rw [selectWinner_eq, if_pos rfl, hfirst]
      rfl

/-- The state in which the unit acts on the packets ps, of the numbers ns, that it has taken in one cycle. -/
def State.takesOffers (s : State) (ns : List Nat) (ps : List ChPacket) : State :=
  ps.foldl (fun u o => u.chHeard o) { s with net := (s.net.zipIdx.filter fun e => !ns.contains e.2).map (·.1) }

theorem takesOffers_hearsOnly (s : State) (ns : List Nat) (ps : List ChPacket) : s.HearsOnly (s.takesOffers ns ps) :=
  State.HearsOnly.trans (u := { s with net := (s.net.zipIdx.filter fun e => !ns.contains e.2).map (·.1) }) ⟨rfl, rfl, fun _ _ => rfl⟩
    (foldl_chHeard_hearsOnly ps _)

/-- An offer of the one select x of a tile, current at an open port. -/
structure CurrentOffer (s : State) (c l : Nat) (x : Select) (o : ChPacket) : Prop where
  ctx : o.ctx = c
  ltn : o.dst.ltn = l
  isOffer : ∃ seq, o.body = .offer seq
  current : s.offerCurrent o = some x
  isOpen : s.portOpen o

section
variable {s : State} {c l : Nat} {x : Select} {ns : List Nat}

/-- What execOffer takes of the packets it names: all of them. -/
theorem filterMap_offers (h : ∀ m ∈ ns, ∃ o, s.chArrived m = some o ∧ CurrentOffer s c l x o) :
    (ns.filterMap fun n => (s.chArrived n).bind fun p => match p.body with
      | .offer _ => some p
      | _ => none) = ns.filterMap s.chArrived := by
  refine List.filterMap_congr fun m hm => ?_
  obtain ⟨o, ho, hcur⟩ := h m hm
  obtain ⟨seq, hseq⟩ := hcur.isOffer
  rw [ho, Option.bind_some, hseq]

theorem currentOffer_of_mem (h : ∀ m ∈ ns, ∃ o, s.chArrived m = some o ∧ CurrentOffer s c l x o) {o : ChPacket}
    (ho : o ∈ ns.filterMap s.chArrived) : CurrentOffer s c l x o := by
  obtain ⟨m, hm, hmo⟩ := List.mem_filterMap.mp ho
  obtain ⟨o', ho', hcur⟩ := h m hm
  obtain rfl := Option.some.inj (hmo.symm.trans ho')
  exact hcur

/-! Nothing of what they find changes as the tile hears them: no offer meets a port that refuses it, none is late, and all are tied. -/

section
variable {u : State} {ps : List ChPacket} (hu : s.HearsOnly u) (hps : ∀ o ∈ ps, CurrentOffer s c l x o)
include hu hps

theorem offerCurrent_heard : ∀ o ∈ ps, u.offerCurrent o = some x := fun o ho => (hu.offerCurrent o).trans (hps o ho).current

theorem filter_dead : ps.filter (fun o => u.refusesNew c l o.dst.port &&
    ((u.port c l o.dst.port).op.isNone || (u.offerCurrent o).isSome)) = [] :=
  List.filter_eq_nil_iff.mpr fun o ho => by
    have hopen := portOpen_iff.mp (hps o ho).isOpen
    rw [(hps o ho).ctx, (hps o ho).ltn] at hopen
    simp [hu.refusesNew, hopen]

theorem filter_late : ps.filter (fun o => (u.offerCurrent o).isNone) = [] :=
  List.filter_eq_nil_iff.mpr fun o ho => by simp [offerCurrent_heard hu hps o ho]

theorem filterMap_current : ps.filterMap (fun o => (u.offerCurrent o).map fun x => (x.id, o.dst.port)) =
    ps.map fun o => (x.id, o.dst.port) := by
  rw [← List.filterMap_eq_map]
  exact List.filterMap_congr fun o ho => by rw [offerCurrent_heard hu hps o ho]; rfl

end

theorem tied_ports (ps : List ChPacket) (id : Nat) :
    (((ps.map fun o => (id, o.dst.port)).filter fun e => decide (e.1 = id)).map fun e => e.2) = ps.map (·.dst.port) := by
  simp [List.filter_map, Function.comp_def]

theorem exec_offer {n w : Nat} (hn : n ∈ ns) (hnodup : ns.Nodup) (h4 : ns.length ≤ 4) (hsels : (s.part c l).sels = [x])
    (h : ∀ m ∈ ns, ∃ o, s.chArrived m = some o ∧ CurrentOffer s c l x o)
    (hdir : ((ns.filterMap s.chArrived).filterMap s.chDirection).Nodup)
    (hw : selectWinner x.rot (s.part c l).chLast ((ns.filterMap s.chArrived).map (·.dst.port)) = some w) :
    exec (.offer ns) s = .next ((s.takesOffers ns (ns.filterMap s.chArrived)).chooseWinner c l x w) := by
  have hmem : ∀ o ∈ ns.filterMap s.chArrived, CurrentOffer s c l x o := fun o => currentOffer_of_mem h
  have hlen : (ns.filterMap s.chArrived).length = ns.length := List.filterMap_length_eq_length.mpr fun m hm => by
    obtain ⟨o, ho, -⟩ := h m hm
    rw [ho, Option.isSome_some]
  have hheard := takesOffers_hearsOnly s ns (ns.filterMap s.chArrived)
  change execOffer ns s = _
  simp only [execOffer]
  generalize hoffers : List.filterMap _ ns = ps
  have hps : ns.filterMap s.chArrived = ps := (filterMap_offers h).symm.trans hoffers
  rw [hps] at hmem hlen hheard hdir hw ⊢
  simp only [State.takesOffers] at hheard ⊢
  generalize ps.foldl (fun (u : State) o => u.chHeard o) _ = u at hheard ⊢
  cases ps with
  | nil =>
    rw [List.length_eq_zero_iff.mp hlen.symm] at hn
    cases hn
  | cons p rest =>
    obtain rfl := (hmem p List.mem_cons_self).ctx
    obtain rfl := (hmem p List.mem_cons_self).ltn
    have hsame : ∀ o ∈ rest, o.ctx = p.ctx ∧ o.dst.ltn = p.dst.ltn := fun o ho =>
      ⟨(hmem o (List.mem_cons_of_mem p ho)).ctx, (hmem o (List.mem_cons_of_mem p ho)).ltn⟩
    dsimp only
    rw [if_neg (by simpa [hlen, h4, hnodup, hdir] using hsame)]
    simp only [filter_dead hheard hmem, List.contains_nil, Bool.not_false, List.filter_true, filter_late hheard hmem,
      filterMap_current hheard hmem, List.foldl_nil, hheard.sels, hsels, List.foldl_cons, tied_ports, hheard.chLast, hw]

end

/-- Settles O49: each packet that has arrived is taken, and what its port holds decides what the unit does. -/
theorem channelPackets : Obligations.ChannelPackets := by
  unfold Obligations.ChannelPackets
  intro s n p ha s0 c l k q comes
  refine ⟨fun a hbody => ⟨exec_ready_open ha hbody, exec_ready_refused ha hbody⟩,
    fun seq m hbody => ⟨exec_readySelect_single ha hbody, fun _ => exec_readySelect_group ha hbody⟩, ?offer,
    fun seq m op hbody hop hoff => ⟨exec_go_moves ha hop hoff hbody, exec_go_mismatch ha hop hoff hbody⟩,
    fun seq m hbody => exec_release_recorded ha hbody, ?released,
    fun hrsel hb hop => ⟨fun seq => exec_go_unbound ha hb hop, fun seq => exec_release_unbound ha hb hop hrsel⟩, ?words, ?units,
    fun ws id x op => exec_dataLanding_select ha, fun st op => exec_acceptance_last ha, fun op => exec_refuse ha,
    fun id r => exec_refuse_test ha, fun tag => exec_withdraw_refused ha,
    fun tag hbody hb h hrsel => ⟨exec_withdraw_gone ha hbody hb h hrsel, exec_withdraw_none ha hbody hb h hrsel⟩, ?withdrawn,
    fun id hbody => ⟨exec_channelTest_open ha hbody, exec_channelTest_refused ha hbody⟩, fun id partner r => exec_testReply ha,
    ?bind, fun id hbody => ⟨exec_bindRequest_unbinds ha hbody, exec_bindRequest_unbindsNothing ha hbody⟩,
    fun id ok r w left hbody hr hkind hop => ⟨exec_bindReply_refused ha hbody hr hkind hop,
      fun u => exec_bindReply_binds ha hbody hr hkind hop, exec_bindReply_taken ha hbody hr hkind hop⟩, ?unbound⟩
  case offer =>
    intro ns x hn hnodup h4 hsels hoffers hdir ports last
    have hcur : ∀ m ∈ ns, ∃ o, s.chArrived m = some o ∧ CurrentOffer s c l x o := fun m hm => by
      obtain ⟨o, ho, hctx, hltn, hbody, hcurrent, hopen⟩ := hoffers m hm
      exact ⟨o, ho, hctx, hltn, hbody, hcurrent, hopen⟩
    have hports : ports = (ns.filterMap s.chArrived).map (·.dst.port) := List.map_filterMap.symm
    have hne : ports ≠ [] := List.ne_nil_of_mem (List.mem_filterMap.mpr ⟨n, hn, by rw [ha]; rfl⟩)
    obtain ⟨w, hw, hwins, hlowest, hnext, hwrap⟩ := selectWinner_spec x.rot last hne
    exact ⟨w, hw, hlowest, hnext, hwrap, exec_offer hn hnodup h4 hsels hcur hdir (hports ▸ hwins)⟩
  case released =>
    intro seq m op hbody hop hoff hrsel s1
    have hexec := exec_release_offered ha hop hoff hbody hrsel
    refine ⟨fun hcancel hb => ?_, fun hcancel hb => ?_, fun st hcancel => ?_⟩
    · rwa [unoffer_bound hcancel (by rwa [takes_port]), takes_port] at hexec
    · rwa [unoffer_unbound hcancel (by rwa [takes_port]), takes_port] at hexec
    · rwa [unoffer_withdrawn hcancel, takes_port] at hexec
  case words =>
    intro ws f m op hbody hop hform
    exact exec_dataLanding ha (.inl ⟨ws, hbody⟩) hop (by simp [hform])
      ((congrArg (s0.landData c l k op) hbody).trans (landData_words hform c l k))
  case units =>
    intro us a m op hbody hop hform
    exact exec_dataLanding ha (.inr ⟨us, hbody⟩) hop (by simp [hform])
      ((congrArg (s0.landData c l k op) hbody).trans (landData_units hform c l k))
  case withdrawn =>
    intro tag gone op st hbody hop hform hcancel htag
    have hexec := exec_withdrawAnswer ha hbody hop hform hcancel htag
    exact ⟨fun hgone => by rwa [if_pos hgone] at hexec, fun hgone => by rwa [if_neg (Bool.eq_false_iff.mp hgone)] at hexec⟩
  case bind =>
    intro id hbody
    have hexec := exec_bindRequest ha hbody
    exact ⟨fun hcan => by rwa [if_pos hcan] at hexec, fun hcan => by rwa [if_neg (Bool.eq_false_iff.mp hcan)] at hexec⟩
  case unbound =>
    intro id ok r w left hbody hr hkind hop
    have hexec := exec_bindReply_unbind ha hbody hr hkind hop
    exact ⟨fun h => by rwa [if_pos h] at hexec, fun h => by rwa [if_neg h.not_ge] at hexec⟩

end Sys2Proof.Machine
end

section
/-! PROOFS. Anvil instructions enter the command queue (O38). -/

namespace Sys2Proof.Machine

/-- Checks that all pass, on sources that are not poisoned. -/
theorem checked_all_pass {s : State} {t : Threadlet} {l : List (List Operand × Bool × Nat)} {sources : List Operand}
    (hl : ∀ c ∈ l, c.2.1 = false) (hclean : s.poisonedSource t sources = none) : s.checked (s.view t) l sources = none := by
  induction l with
  | nil => exact checked_clean hclean
  | cons c l ih =>
    exact (checked_passes (hl c List.mem_cons_self)).trans (ih fun d hd => hl d (List.mem_cons_of_mem c hd))

/-- Every Anvil instruction has a shape, and enters the queue (R274). -/
theorem anvilAsk_entersAnvil {s : State} {v : View} {i : Instr} (h : (anvilAsk s v i).isSome = true) :
    entersAnvil i = true ∧ ∃ sh, i.shape = some sh := by
  cases i
  case mcfg | mlda | mldb | mrun | mzero | mdrn | msteer | mstat => exact ⟨rfl, _, rfl⟩
  all_goals exact absurd h Bool.false_ne_true

/-- With 16 commands in the queue it is not ready to issue. -/
theorem exec_anvil_full {s : State} {t : Threadlet} {i : Instr} (hi : (anvilAsk s (s.view t) i).isSome = true) (hr : s.seat s.cur = .run t)
    (hm : t.mid = none) (hfull : 16 ≤ (s.anvil t.ctx t.ltn).places) : exec i s = .next s := by
  obtain ⟨henters, sh, hsh⟩ := anvilAsk_entersAnvil hi
  obtain ⟨body, hbody⟩ := exec_issue i (by rw [hsh]; rfl)
  have hn : s.notReady ⟨s.cur, t⟩ i = true := by simp [State.notReady, henters, hfull]
  rw [hbody, issue_not_ready hr hsh hn hm]

/-- The grant, the instruction's own checks and its sources pass. -/
theorem anvilCheck_passes {s : State} {t : Threadlet} {l : List (List Operand × Bool × Nat)} {sources : List Operand}
    (hg : s.anvilGrant t.ctx = true) (hl : ∀ c ∈ l, c.2.1 = false) (hclean : s.poisonedSource t sources = none) :
    s.anvilCheck (s.view t) l sources = none :=
  (checked_passes (by rw [view_t, hg]; rfl)).trans (checked_all_pass hl hclean)

/-- The instruction retires with its command at the end of the queue, and with its request where it asks for one. -/
def EntersQueue (s : State) (t : Threadlet) (i : Instr) (asks : Bool) (q : Target) (w : Nat) (c : Nat → Cmd) : Prop :=
  (asks = false → exec i s = .next ((s.command (s.view t) (c 0)).retired s.cur t.pc i t 0)) ∧
  (asks = true → exec i s = .next (((s.addReq (s.ask t i .anvil q w)).command (s.view t) (c s.nextId)).retired s.cur t.pc i t 0))

section
variable {s : State} {t : Threadlet} {i : Instr} {body : State → View → Res} {l : List (List Operand × Bool × Nat)} {sources : List Operand}
  {q : Target} {w : Nat} (h : Executes s t i) (hg : s.anvilGrant t.ctx = true) (hclean : s.poisonedSource t sources = none)
  (hi : exec i s = issue i s body)
include h hg hclean hi

/-- An Anvil instruction that completes nothing, and passes its checks. -/
theorem entersQueue_of_anvilBody {c : Cmd} (hb : body s (s.view t) = s.anvilBody (s.view t) l sources c)
    (hl : ∀ c ∈ l, c.2.1 = false) : EntersQueue s t i false q w fun _ => c :=
  ⟨fun _ => exec_of_retire h hi (by rw [hb, State.anvilBody, anvilCheck_passes hg hl hclean]; rfl), nofun⟩

/-- One that completes. -/
theorem entersQueue_of_anvilRequest {c : Nat → Cmd}
    (hb : body s (s.view t) = s.anvilRequest (s.view t) (firstWord i) (s.destOf (s.view t) q w) l sources c)
    (hl : ∀ c ∈ l, c.2.1 = false) : EntersQueue s t i true q w c := by
  refine ⟨nofun, fun _ => exec_of_retire h hi ?_⟩
  rw [hb, State.anvilRequest, anvilCheck_passes hg hl hclean, newReq_eq_ask]
  rfl

end

/-- A bit of an operand, as the bodies and as the rules read it. -/
theorem decide_bit (w : Word) (k : Nat) : decide (w.toNat / 2 ^ k % 2 = 1) = w.getLsbD k := by
  rw [BitVec.getLsbD, Nat.testBit_eq_decide_div_mod_eq]

/-- An Anvil instruction that passes its own checks enters its command (R279 to R292). -/
theorem anvil_entersQueue {s : State} {t : Threadlet} {i : Instr} {asks : Bool} {q : Target} {w : Nat} {c : Nat → Cmd}
    (hask : anvilAsk s (s.view t) i = some (asks, q, w, c)) (h : Executes s t i) (hg : s.anvilGrant t.ctx = true)
    (hr : anvilReady s (s.view t) i = true) : EntersQueue s t i asks q w c := by
  cases i
  case mcfg =>
    cases hask
    refine entersQueue_of_anvilBody h hg (plainSources_clean h rfl) rfl rfl ?_
    simp only [anvilReady] at hr
    simp [hr]
  case mlda =>
    cases hask
    refine entersQueue_of_anvilRequest h hg (plainSources_clean h rfl) rfl rfl ?_
    simp [anvilReady] at hr
    simp [hr]
  case mldb =>
    cases hask
    refine entersQueue_of_anvilBody h hg (plainSources_clean h rfl) rfl rfl ?_
    simp [anvilReady] at hr
    simp [hr]
  case mrun =>
    cases hask
    refine entersQueue_of_anvilRequest h hg (plainSources_clean h rfl) rfl rfl ?_
    simp [anvilReady] at hr
    simp [hr]
    grind
  case mzero =>
    cases hask
    refine entersQueue_of_anvilBody h hg (plainSources_clean h rfl) rfl rfl ?_
    simp [anvilReady] at hr
    simp [hr]
  case mdrn kind _ _ _ _ _ _ _ =>
    cases hask
    refine entersQueue_of_anvilRequest h hg (plainSources_clean h rfl) rfl rfl ?_
    cases kind with
    | spad =>
      simp [anvilReady] at hr
      simp [hr]
    | chan =>
      simp [anvilReady] at hr
      simp [hr]
    | steer =>
      simp [anvilReady] at hr
      simp [hr]
  case msteer =>
    cases hask
    refine entersQueue_of_anvilBody h hg (plainSources_clean h rfl) rfl rfl ?_
    simp [anvilReady] at hr
    simp [hr]
  case mstat =>
    cases hask
    simp only [← decide_bit]
    refine entersQueue_of_anvilRequest h hg (plainSources_clean h rfl) rfl rfl ?_
    simp [anvilReady] at hr
    simp [hr]
  all_goals exact absurd hask nofun

/-- Settles O38: an Anvil instruction waits while the queue is full, and otherwise passes its checks and enters its command. -/
theorem anvilInstructions : Obligations.AnvilInstructions := by
  unfold Obligations.AnvilInstructions
  intro s t i asks q w c hask
  have hsome : (anvilAsk s (s.view t) i).isSome = true := by rw [hask]; rfl
  exact ⟨fun hr hm hfull => exec_anvil_full hsome hr hm hfull, fun h hg hr => anvil_entersQueue hask h hg hr⟩

end Sys2Proof.Machine
end

section
/-! PROOFS. Pigeonhole instructions enter the table port (O39). -/

namespace Sys2Proof.Machine

/-- The state in which an operation has entered the port with its request (R306, R312, R316). -/
def State.portEntered (s : State) (t : Threadlet) (i : Instr) (n : Nat) (vec : Bool) (b : PhBody) (q : Target) (w : Nat) : State :=
  let r0 := s.ask t i (.pigeon b.span) q w
  let r : Req := { r0 with counted := r0.counted || s.trpOf t.ctx t.ltn n (s.part t.ctx t.ltn).phq }
  let s1 := s.addReq r
  (s1.setPhq t.ctx t.ltn ((s1.part t.ctx t.ltn).phq ++ [⟨r.id, n, vec, b⟩])).engines t.ctx t.ltn

theorem phEnter_eq_portEntered (s : State) (t : Threadlet) (i : Instr) (n : Nat) (vec : Bool) (b : PhBody) (q : Target) (w : Nat) :
    s.phEnter (s.view t) (firstWord i) (s.destOf (s.view t) q w) n vec b = s.portEntered t i n vec b q w := by
  rw [State.phEnter, newReq_eq_ask]
  rfl

/-- The instruction retires with its operation at the end of the port. -/
def EntersPort (s : State) (t : Threadlet) (i : Instr) (n : Nat) (vec : Bool) (b : PhBody) (q : Target) (w : Nat) : Prop :=
  exec i s = .next ((s.portEntered t i n vec b q w).retired s.cur t.pc i t 0)

section
variable {s : State} {t : Threadlet} {i : Instr} {body : State → View → Res} {n : Nat} {vec : Bool} {b : PhBody} {q : Target} {w : Nat}
  (h : Executes s t i) (hi : exec i s = issue i s body)
include h hi

theorem entersPort_of_phEnter
    (hb : body s (s.view t) = retire (s.phEnter (s.view t) (firstWord i) (s.destOf (s.view t) q w) n vec b) t) : EntersPort s t i n vec b q w :=
  exec_of_retire h hi (by rw [hb, phEnter_eq_portEntered])

/-- Checks that pass on clean sources let the operation enter. -/
theorem entersPort_of_checked {l : List (List Operand × Bool × Nat)} {sources : List Operand} (hclean : s.poisonedSource t sources = none)
    (hb : body s (s.view t) = (s.checked (s.view t) l sources).getD
      (retire (s.phEnter (s.view t) (firstWord i) (s.destOf (s.view t) q w) n vec b) t))
    (hl : ∀ c ∈ l, c.2.1 = false) : EntersPort s t i n vec b q w :=
  entersPort_of_phEnter h hi (by rw [hb, checked_all_pass hl hclean]; rfl)

end

/-- The checks of a key instruction, as its readiness has them (R315). -/
theorem keyChecks_pass {s : State} {t : Threadlet} {g : Guard} {vec : Bool} {d x y : Operand} (val : Nat → Nat) {q : Target}
    (hx : (s.readOp (s.view t) x).toNat ≤ 3)
    (hkeys : (if vec then (List.range 8).all fun j => !(t.guardMask g).getLsbD j || decide (lane (t.vec y) 64 j ≠ emptyKey)
      else decide ((s.readOp (s.view t) y).toNat ≠ emptyKey)) = true)
    (hroom : s.resultFits (s.view t) d q (if vec then 9 else 2) = true) :
    ∀ c ∈ s.keyChecks (s.view t) g vec d x y val q, c.2.1 = false := by
  have hempty : ((s.keyLanes (s.view t) g vec y val).any fun e => e.key = emptyKey) = false := by
    rw [← Bool.not_eq_true, keyLanes_any_iff]
    cases vec with
    | false => simpa using hkeys
    | true =>
      simp at hkeys
      simp
      grind
  simp [State.keyChecks, hempty, hroom, hx]

/-- The zero register is no frame word. -/
theorem poisonedSource_zr {s : State} {t : Threadlet} {x y : Operand} (h : s.poisonedSource t [x, y] = none) :
    s.poisonedSource t [x, y, .zr] = none := by
  simpa [State.poisonedSource] using h

/-- A key instruction that passes its checks enters its lanes. -/
theorem entersPort_of_keyBody {s : State} {t : Threadlet} {i : Instr} {body : State → View → Res} {g : Guard} {vec : Bool} {k : PhKind}
    {d x y z : Operand} {val : Nat → Nat} {q : Target} (h : Executes s t i) (hi : exec i s = issue i s body)
    (hb : body s (s.view t) = s.keyBody (s.view t) g (firstWord i) vec k d x y z val q) (hclean : s.poisonedSource t [x, y, z] = none)
    (hr : (decide ((s.readOp (s.view t) x).toNat ≤ 3) &&
      (if vec then (List.range 8).all fun j => !(t.guardMask g).getLsbD j || decide (lane (t.vec y) 64 j ≠ emptyKey)
        else decide ((s.readOp (s.view t) y).toNat ≠ emptyKey)) && s.resultFits (s.view t) d q (if vec then 9 else 2)) = true) :
    EntersPort s t i (s.readOp (s.view t) x).toNat vec (.lanes k (s.keyLanes (s.view t) g vec y val)) q (wordIndex d) := by
  simp only [Bool.and_eq_true] at hr
  obtain ⟨⟨hx, hkeys⟩, hroom⟩ := hr
  exact entersPort_of_checked h hi hclean hb (keyChecks_pass val (of_decide_eq_true hx) hkeys hroom)

/-- The sources of an instruction that executes, by their list. -/
theorem sources_clean {s : State} {t : Threadlet} {i : Instr} {sh : Shape} {l : List Operand} (h : Executes s t i) (hh : i.shape = some sh)
    (hl : plainSources i sh = l) : s.poisonedSource t l = none :=
  hl ▸ plainSources_clean h hh

/-- The sources that a claim judges: Z only where it asks for a spill area (R297). -/
theorem claimSources_clean {s : State} {t : Threadlet} {x y z : Operand} {spills : Bool} (hxy : s.poisonedSource t [x, y] = none)
    (hz : spills = true → s.poisonedSource t [z] = none) : s.poisonedSource t (if spills then [x, y, z] else [x, y]) = none := by
  cases spills with
  | false => exact hxy
  | true =>
    have hz := hz rfl
    simp only [State.poisonedSource, List.findSome?_eq_none_iff] at hxy hz ⊢
    simp_all

/-- A Pigeonhole instruction that passes its own checks enters the port (R312 to R321). -/
theorem pigeon_entersPort {s : State} {t : Threadlet} {i : Instr} {n : Nat} {vec : Bool} {b : PhBody} {q : Target} {w : Nat}
    (h : Executes s t i) (hask : pigeonAsk s (s.view t) i = some (n, vec, b, q, w)) (hr : pigeonReady s (s.view t) i = true) :
    EntersPort s t i n vec b q w := by
  cases i
  case phclaim g x y z q =>
    cases hask
    have hclean : s.poisonedSource t [x, y] = none := plainSources_clean h rfl
    refine entersPort_of_checked h rfl (claimSources_clean hclean ?_) rfl ?_
    · simp [pigeonReady] at hr
      intro hspe
      simp [hspe] at hr
      simp [hr]
    · simp [pigeonReady] at hr
      simp [hr]
      grind
  case phins g vec d x y z q =>
    cases hask
    exact entersPort_of_keyBody h rfl rfl (sources_clean h rfl (by cases vec <;> rfl)) hr
  case phprb g vec d x y q => 
    cases hask
    exact entersPort_of_keyBody h rfl rfl (poisonedSource_zr (sources_clean h rfl (by cases vec <;> rfl))) hr
  case phdel g vec d x y q => 
    cases hask
    exact entersPort_of_keyBody h rfl rfl (poisonedSource_zr (sources_clean h rfl (by cases vec <;> rfl))) hr
  case phacc g vec kind d x y z q => 
    cases hask
    exact entersPort_of_keyBody h rfl rfl (sources_clean h rfl (by cases vec <;> rfl)) hr
  case phdrn g vec chan d x y z q => 
    cases hask
    simp only [← decide_bit]
    refine entersPort_of_checked h rfl (plainSources_clean h rfl) rfl ?_
    cases chan with
    | false =>
      simp [pigeonReady] at hr
      simp [hr]
    | true =>
      simp [pigeonReady, State.roleOk] at hr
      obtain ⟨⟨⟨hx, hz⟩, hroom⟩, hy, hbound, hsend⟩ := hr
      simp [hx, hz, hroom, hy, hbound, of_decide_eq_true hsend]
  case phrls g x q => 
    cases hask
    refine entersPort_of_phEnter h rfl (if_neg ?_)
    simp [pigeonReady] at hr
    exact hr.not_gt
  case phstat g vec d x y q =>
    cases vec with
    | true =>
      cases hask
      exact entersPort_of_keyBody h rfl rfl (poisonedSource_zr (plainSources_clean h rfl)) (by rw [Bool.and_assoc]; exact hr)
    | false =>
      cases hask
      refine entersPort_of_checked h rfl (plainSources_clean h rfl) rfl ?_
      simp [pigeonReady] at hr
      simp [hr]
  all_goals exact absurd hask nofun

/-- Settles O39: each Pigeonhole instruction is a list of checks, and what passes them enters the port. -/
theorem pigeonholeInstructions : Obligations.PigeonholeInstructions := by
  unfold Obligations.PigeonholeInstructions
  exact fun s t i n vec b q w h hask hr => pigeon_entersPort h hask hr

end Sys2Proof.Machine
end

section
/-! PROOFS. Bad parity, a bad register continuation and poisoned frame words (O20). -/

namespace Sys2Proof.Machine

/-- An instruction that comes to the checks of its sources: it is ready, passes checks 3 to 7 of R76, and its guard is true. -/
structure ReachesSources (s : State) (t : Threadlet) (i : Instr) (sh : Shape) : Prop where
  runs : s.seat s.cur = .run t
  ready : s.notReady (s.view t) i = false
  shape : i.shape = some sh
  checks : passesChecks s t i = true
  guard : guardHolds t i = true

/-- The registers it reads have good parity, and so is the continuation that its target names (R419, R69). -/
structure GoodRegisters (s : State) (t : Threadlet) (i : Instr) (sh : Shape) : Prop where
  parity : t.badSource (s.readRegisters (s.view t) i sh (targetOf i)) = none
  target : targetGood t (targetOf i) = true

section
variable {s : State} {t : Threadlet} {i : Instr} {sh : Shape} (h : ReachesSources s t i sh)
include h

/-- It comes to its sources' checks, and past them to its body. -/
theorem ReachesSources.exec_eq {body : State → View → Res} (hi : exec i s = issue i s body) :
    exec i s = .next (settle i s (s.view t) ((sourceCheck s (s.view t) i sh).getD (body s (s.view t)))) := by
  have hc := h.checks
  have hg := h.guard
  simp only [passesChecks, h.shape, Bool.and_eq_true, Option.isNone_iff_eq_none, Bool.not_eq_true'] at hc
  obtain ⟨hstatic, hparity⟩ := hc
  simp only [guardHolds, h.shape] at hg
  rw [hi, issue_next h.runs h.shape, judge, h.ready, view_t, hstatic]
  dsimp only
  rw [hparity, hg]
  rfl

/-- Some body stands behind the checks. -/
theorem ReachesSources.exec_body : ∃ body : State → View → Res,
    exec i s = .next (settle i s (s.view t) ((sourceCheck s (s.view t) i sh).getD (body s (s.view t)))) := by
  obtain ⟨body, hbody⟩ := exec_issue i (by rw [h.shape]; rfl)
  exact ⟨body, h.exec_eq (hbody s)⟩

/-- What its sources' checks come to is its outcome. -/
theorem ReachesSources.exec_of_sourceCheck {r : Res} (hr : sourceCheck s (s.view t) i sh = some r) : exec i s = .next (settle i s (s.view t) r) := by
  obtain ⟨body, hexec⟩ := h.exec_body
  rw [hexec, hr, Option.getD_some]

end

/-- A machine check leaves its RAS record before the trap (R419). -/
theorem settle_machineCheck (s : State) (t : Threadlet) (i : Instr) (code : Nat) : settle i s (s.view t) (.trap 0x30 code 0 0) =
    ((s.rasOpen 0x03 2 t.ctx (ptnDie s.cur.ptn) s.cur.ptn).trap (s.view t) ⟨0x30, code, 0, 0, 0, 0, t.pc, firstWord i⟩).finishPart t.ctx t.ltn :=
  rfl

section
variable {s : State} {t : Threadlet} {i : Instr} {sh : Shape}

/-! ## The checks before the body -/

theorem sourceCheck_parity {o : Operand} (hbad : t.badSource (s.readRegisters (s.view t) i sh (targetOf i)) = some o) :
    sourceCheck s (s.view t) i sh = some (machineCheckOf o) := by
  simp [sourceCheck, hbad]

theorem sourceCheck_target (hgood : t.badSource (s.readRegisters (s.view t) i sh (targetOf i)) = none)
    (htarget : targetGood t (targetOf i) = false) : sourceCheck s (s.view t) i sh = some (trapWith 0x03) := by
  simp [sourceCheck, hgood, htarget]

variable (hgood : GoodRegisters s t i sh)
include hgood

theorem sourceCheck_judged (hj : judgesSources i = true) : sourceCheck s (s.view t) i sh = none := by
  simp [sourceCheck, hgood.parity, hgood.target, hj]

theorem sourceCheck_poison (hj : judgesSources i = false) : sourceCheck s (s.view t) i sh = s.poisonTrap t (plainSources i sh) := by
  simp [sourceCheck, hgood.parity, hgood.target, hj]

/-- With clean sources the instruction executes. -/
theorem executes_of_clean (h : ReachesSources s t i sh) (hclean : s.poisonedSource t (plainSources i sh) = none) : Executes s t i := by
  have hpoison := (poisonTrap_none_iff s t (plainSources i sh)).mpr hclean
  have hcheck : sourceCheck s (s.view t) i sh = none := by
    cases hj : judgesSources i with
    | false => rw [sourceCheck_poison hgood hj, hpoison]
    | true => exact sourceCheck_judged hgood hj
  have hsources : sourcesGood s t i = true := by
    simp only [sourcesGood, h.shape, hpoison]
    rw [show sourceCheck s ⟨s.cur, t⟩ i sh = none from hcheck]
    rfl
  exact ⟨h.runs, h.ready, h.checks, h.guard, hsources⟩

end

/-! ## Instructions that judge their sources themselves -/

/-- What meeting the poisoned word n comes to: the trap of a check that can be made, or that of the poison (R76 check 9). -/
def Res.MeetsPoison (n : Nat) (r : Res) : Prop :=
  (∃ c, c ≠ 0x30 ∧ r = trapWith c) ∨ r = .trap 0x12 0 (BitVec.ofNat 64 (64 + 8 * n)) 0

section
variable {s : State} {t : Threadlet} {n : Nat}

/-- A list of checks over sources of which word n is the first that is poisoned. -/
theorem checked_poisoned {l : List (List Operand × Bool × Nat)} {sources : List Operand} (hp : s.poisonedSource t sources = some n)
    (hl : ∀ c ∈ l, c.2.2 ≠ 0x30) : ∃ r, s.checked (s.view t) l sources = some r ∧ r.MeetsPoison n := by
  unfold State.checked
  split
  case h_1 c hc => exact ⟨_, rfl, .inl ⟨c.2.2, hl c (List.mem_of_find?_eq_some hc), rfl⟩⟩
  case h_2 => exact ⟨_, poisonTrap_some hp, .inr rfl⟩

theorem checked_getD_poisoned {l : List (List Operand × Bool × Nat)} {sources : List Operand} (hp : s.poisonedSource t sources = some n)
    (hl : ∀ c ∈ l, c.2.2 ≠ 0x30) (r : Res) : ((s.checked (s.view t) l sources).getD r).MeetsPoison n := by
  obtain ⟨r', hr, hmeets⟩ := checked_poisoned hp hl
  rwa [hr]

/-- More sources behind those that hold the poisoned word. -/
theorem poisonedSource_append {l l' : List Operand} (hp : s.poisonedSource t l = some n) : s.poisonedSource t (l ++ l') = some n := by
  unfold State.poisonedSource at hp ⊢
  rw [List.findSome?_append, hp]
  rfl

theorem settle_meetsPoison {i : Instr} {r : Res} (h : r.MeetsPoison n) : ∃ c : Nat, settle i s (s.view t) r = s.trapped t i c 0 0 0 ∨
    settle i s (s.view t) r = s.trapped t i 0x12 0 (BitVec.ofNat 64 (64 + 8 * n)) 0 := by
  rcases h with ⟨c, hc, rfl⟩ | rfl
  · exact ⟨c, .inl (settle_trap hc)⟩
  · exact ⟨0, .inr (settle_trap (by decide))⟩

end

/-- Instruction i of the running threadlet comes to what meeting the poisoned word n comes to. -/
def StopsAtPoison (s : State) (t : Threadlet) (i : Instr) (n : Nat) : Prop :=
  ∃ r : Res, exec i s = .next (settle i s (s.view t) r) ∧ r.MeetsPoison n

section
variable {s : State} {t : Threadlet} {i : Instr} {sh : Shape} {n : Nat} {body : State → View → Res}

theorem stopsAtPoison_of_body (h : ReachesSources s t i sh) (hgood : GoodRegisters s t i sh) (hj : judgesSources i = true)
    (hi : exec i s = issue i s body) (hb : (body s (s.view t)).MeetsPoison n) : StopsAtPoison s t i n :=
  ⟨_, (h.exec_eq hi).trans (by rw [sourceCheck_judged hgood hj]; rfl), hb⟩

/-- A body that begins with a list of checks. -/
theorem stopsAtPoison_of_checked {l : List (List Operand × Bool × Nat)} {sources : List Operand} {r : Res} (h : ReachesSources s t i sh)
    (hgood : GoodRegisters s t i sh) (hj : judgesSources i = true) (hi : exec i s = issue i s body)
    (hb : body s (s.view t) = (s.checked (s.view t) l sources).getD r) (hp : s.poisonedSource t sources = some n)
    (hl : ∀ c ∈ l, c.2.2 ≠ 0x30) : StopsAtPoison s t i n :=
  stopsAtPoison_of_body h hgood hj hi (by rw [hb]; exact checked_getD_poisoned hp hl r)

/-- A body that goes on in several ways past a list of checks. -/
theorem stopsAtPoison_of_some (l : List (List Operand × Bool × Nat)) {sources : List Operand} (h : ReachesSources s t i sh)
    (hgood : GoodRegisters s t i sh) (hj : judgesSources i = true) (hi : exec i s = issue i s body)
    (hb : ∀ r, s.checked (s.view t) l sources = some r → body s (s.view t) = r) (hp : s.poisonedSource t sources = some n)
    (hl : ∀ c ∈ l, c.2.2 ≠ 0x30) : StopsAtPoison s t i n := by
  obtain ⟨r, hr, hmeets⟩ := checked_poisoned hp hl
  exact stopsAtPoison_of_body h hgood hj hi (by rwa [hb r hr])

end

/-! Causes that are computed are those of the rules, none of them a machine check. -/

/-- The cause of a check that may be absent. -/
theorem getD_ne_machineCheck {o : Option Nat} (h : o ≠ some 0x30) : o.getD 0 ≠ 0x30 := by
  cases o with
  | none => decide
  | some c => exact fun hc => h (congrArg some hc)

theorem portCheck_ne (s : State) (v : View) (k : Nat) (send : Bool) : s.portCheck v k send ≠ some 0x30 := by
  unfold State.portCheck
  dsimp only
  split_ifs <;> simp

theorem selectBad_ne (s : State) (v : View) (x y : Operand) : s.selectBad v x y ≠ some 0x30 := by
  intro h
  obtain ⟨p, -, hp⟩ := List.exists_of_findSome?_eq_some h
  exact portCheck_ne s v p false hp

theorem writeCause_ne (s : State) (sel y : Word) : s.writeCause sel y ≠ some 0x30 := by
  unfold State.writeCause
  split
  · simp
  · unfold State.valueCheck
    dsimp only
    split_ifs <;> simp

/-- The checks of a port and then others. -/
theorem portChecks_ne {s : State} {v : View} {x : Operand} {send : Bool} {rest : List (List Operand × Bool × Nat)}
    (hl : ∀ c ∈ rest, c.2.2 ≠ 0x30) : ∀ c ∈ s.portChecks v x send ++ rest, c.2.2 ≠ 0x30 := by
  intro c hc
  rcases List.mem_append.mp hc with hport | hrest
  · rw [List.mem_singleton.mp hport]
    exact getD_ne_machineCheck (portCheck_ne s v _ send)
  · exact hl c hrest

/-! The instructions whose bodies do more than begin with a list of checks. -/

section
variable {s : State} {t : Threadlet} {n : Nat}

/-- A copy of some bytes stops at its checks before its first access. -/
theorem copyCheck_poisoned {d x y : Operand} {u src dst len : Nat} (hd : t.doneSteps = 0) (hp : s.poisonedSource t [d, x, y] = some n) (r : Res) :
    ((s.copyCheck (s.view t) d x y u src dst len).getD r).MeetsPoison n := by
  obtain ⟨r', hr, hmeets⟩ := checked_poisoned (l := [([y], decide (4096 < len), 0x03),
      ([d, x, y], decide ((dst + 2 ^ 64 - src) % 2 ^ 64 < len ∨ (src + 2 ^ 64 - dst) % 2 ^ 64 < len), 0x03),
      ([x], decide (src % u ≠ 0), 0x06), ([d], decide (dst % u ≠ 0), 0x06),
      ([x, y], !s.rangeOk t.ctx t.ltn src len, 0x05), ([d, y], !s.rangeOk t.ctx t.ltn dst len, 0x05)]) hp (by simp)
  rwa [copyCheck_of_copyFirst (v := s.view t) hd hr]

/-- A signal whose continuation can be read and names something, or cannot be read. -/
theorem sigd_poisoned {x y : Operand} (hp : s.poisonedSource t [x, y] = some n)
    (hnamed : ¬ (contV (s.readOp (s.view t) x) = false ∧ s.poisonedSource t [x] = none)) (r r' : Res) :
    ((s.checked (s.view t) [([x], contV (s.readOp (s.view t) x) && decide (contMbz (s.readOp (s.view t) x) ≠ 0), 0x03)] [x]).getD
      (if !contV (s.readOp (s.view t) x) then r else (s.poisonTrap t [y]).getD r')).MeetsPoison n := by
  cases hx : s.poisonedSource t [x] with
  | some k =>
    have hk : some k = some n := (poisonedSource_append (l' := [y]) hx).symm.trans hp
    exact checked_getD_poisoned (hx.trans hk) (by simp) _
  | none =>
    have hv : contV (s.readOp (s.view t) x) = true := by simpa [hx] using hnamed
    have hy : s.poisonedSource t [y] = some n := by
      simp only [State.poisonedSource, List.findSome?_cons, List.findSome?_nil] at hx hp ⊢
      split at hp <;> simp_all
    cases hbad : contV (s.readOp (s.view t) x) && decide (contMbz (s.readOp (s.view t) x) ≠ 0) with
    | true =>
      rw [checked_fails rfl hx]
      exact .inl ⟨0x03, by decide, rfl⟩
    | false =>
      rw [checked_passes rfl, checked_clean hx, hv, poisonTrap_some hy]
      exact .inr rfl

/-- A claim reads X and Y whether or not it reads Z (R297). -/
theorem claimSources_poisoned {x y z : Operand} (hp : s.poisonedSource t [x, y] = some n) (spills : Bool) :
    s.poisonedSource t (if spills then [x, y, z] else [x, y]) = some n := by
  cases spills with
  | true => exact poisonedSource_append (l' := [z]) hp
  | false => exact hp

end

section
variable {s : State} {t : Threadlet} {sh : Shape} {n : Nat}

/-- A send of words or of a block. -/
theorem sendBody_poisoned {iword : Word} {sk : SendKind} {rel multi : Bool} {x y z : Operand} {q : Target}
    (hp : s.poisonedSource t (match sk with
      | .words => [x, z]
      | .spad => [x, y, z]) = some n) : (s.sendBody (s.view t) iword sk rel multi x y z q).MeetsPoison n := by
  cases sk with
  | words =>
    obtain ⟨r, hr, hmeets⟩ := checked_poisoned (s := s) (t := t) (n := n)
      (l := s.portChecks (s.view t) x true ++ s.wordsChecks (s.view t) (wordIndex y) z 0) hp (portChecks_ne (by simp [State.wordsChecks]))
    unfold State.sendBody
    dsimp only
    rwa [hr]
  | spad => exact checked_getD_poisoned hp (portChecks_ne (by simp [State.blockChecks])) _

end

/-- An instruction that judges its sources, of which word n is the first that is poisoned, stops at it, but for the two that then do nothing
(R76 check 9, R137, R179). -/
theorem judged_stopsAtPoison {s : State} {t : Threadlet} {i : Instr} {sh : Shape} {n : Nat} (h : ReachesSources s t i sh)
    (hgood : GoodRegisters s t i sh) (hj : judgesSources i = true) (hp : s.poisonedSource t (plainSources i sh) = some n)
    (hscpy : ∀ g z d x f y, i = .scpy g z d x f y → ¬ ((s.readOp (s.view t) y).toNat = 0 ∧ s.poisonedSource t [y] = none))
    (hsigd : ∀ g st rel x y, i = .sigd g st rel x y → ¬ (contV (s.readOp (s.view t) x) = false ∧ s.poisonedSource t [x] = none))
    (hd : t.doneSteps = 0) : StopsAtPoison s t i n := by
  have hsh := h.shape
  cases i
  case gldv | gatom | strmAdv | strmNotify | cont | launch | phdrn | mcfg | mlda | mldb | mrun | mzero | mdrn | msteer | mstat | fres | dloctl =>
    cases hsh
    exact stopsAtPoison_of_checked h hgood rfl rfl rfl hp (by simp)
  case phins vec _ _ _ _ _ =>
    cases hsh
    cases vec <;> exact stopsAtPoison_of_checked h hgood rfl rfl rfl hp (by simp)
  case phacc vec _ _ _ _ _ _ =>
    cases hsh
    cases vec <;> exact stopsAtPoison_of_checked h hgood rfl rfl rfl hp (by simp)
  case phprb vec _ _ _ _ =>
    cases hsh
    cases vec <;> exact stopsAtPoison_of_checked h hgood rfl rfl rfl (poisonedSource_append (l' := [.zr]) hp) (by simp)
  case phdel vec _ _ _ _ =>
    cases hsh
    cases vec <;> exact stopsAtPoison_of_checked h hgood rfl rfl rfl (poisonedSource_append (l' := [.zr]) hp) (by simp)
  case phstat vec _ _ _ _ =>
    cases hsh
    cases vec with
    | false => exact stopsAtPoison_of_checked h hgood rfl rfl rfl hp (by simp)
    | true => exact stopsAtPoison_of_checked h hgood rfl rfl rfl (poisonedSource_append (l' := [.zr]) hp) (by simp)
  case phclaim =>
    cases hsh
    exact stopsAtPoison_of_checked h hgood rfl rfl rfl (claimSources_poisoned hp _) (by simp)
  case chsel =>
    cases hsh
    exact stopsAtPoison_of_checked h hgood rfl rfl rfl hp
      (List.forall_mem_cons.mpr ⟨getD_ne_machineCheck (selectBad_ne s (s.view t) _ _), by simp [State.wordsChecks]⟩)
  case sysw =>
    cases hsh
    refine stopsAtPoison_of_checked h hgood rfl rfl rfl hp ?_
    simpa using getD_ne_machineCheck (writeCause_ne s _ _)
  case tlbi g kind x y q =>
    cases hsh
    cases kind with
    | page => exact stopsAtPoison_of_checked h hgood rfl rfl rfl hp (by simp)
    | ctx => exact stopsAtPoison_of_checked h hgood rfl rfl rfl (poisonedSource_append (l' := [y]) hp) (by simp)
    | all => cases hp
  case strmOpen g d x q scope ord =>
    cases hsh
    refine stopsAtPoison_of_some [([d], decide (15 < (s.readOp (s.view t) d).toNat), 0x03),
      ([x], decide ((s.readOp (s.view t) x).toNat % 32 ≠ 0), 0x06),
      ([x], !s.rangeOk t.ctx t.ltn (s.readOp (s.view t) x).toNat 32, 0x05)] (sources := [d, x]) h hgood rfl rfl (fun r hr => ?_) hp
      (by simp)
    simp only [view_t, hr]
  case sloti g x y =>
    cases hsh
    refine stopsAtPoison_of_some (s.slotChecks (s.view t) x [s.slotWordCheck (s.view t) y]) (sources := [x, y]) h hgood rfl rfl
      (fun r hr => ?_) hp (by simp [State.slotChecks, State.slotWordCheck])
    rw [State.slotChecks, State.slotWordCheck] at hr
    simp only [hr]
  case slota g x y =>
    cases hsh
    refine stopsAtPoison_of_some (s.slotChecks (s.view t) x []) (sources := [x, y]) h hgood rfl rfl (fun r hr => ?_) hp
      (by simp [State.slotChecks])
    rw [State.slotChecks] at hr
    simp only [hr]
  case chsend sk _ _ _ _ _ =>
    cases hsh
    cases sk <;> exact stopsAtPoison_of_body h hgood rfl rfl (sendBody_poisoned hp)
  case chsendm sk _ _ _ _ _ =>
    cases hsh
    cases sk <;> exact stopsAtPoison_of_body h hgood rfl rfl (sendBody_poisoned hp)
  case chrecv rk _ _ _ _ =>
    cases hsh
    cases rk with
    | words => exact stopsAtPoison_of_checked h hgood rfl rfl rfl hp (portChecks_ne (by simp [State.wordsChecks]))
    | spad => exact stopsAtPoison_of_checked h hgood rfl rfl rfl hp (portChecks_ne (by simp [State.blockChecks]))
    | latch => exact stopsAtPoison_of_checked h hgood rfl rfl rfl hp (by simpa using portChecks_ne (rest := []) (by simp))
  case scpy g z d x f y =>
    cases hsh
    have hsome : ¬ ((s.readOp (s.view t) y).toNat * 2 ^ z.val = 0 ∧ (s.poisonedSource t [y]).isNone = true) := fun hzero =>
      hscpy g z d x f y rfl ⟨(Nat.mul_eq_zero.mp hzero.1).resolve_right (Nat.two_pow_pos _).ne', Option.isNone_iff_eq_none.mp hzero.2⟩
    have hbody := copyCheck_poisoned (u := 2 ^ z.val) (src := s.localAddr (s.view t) x f z.val)
      (dst := (s.readOp (s.view t) d).toNat) (len := (s.readOp (s.view t) y).toNat * 2 ^ z.val) hd hp
    refine stopsAtPoison_of_body h hgood rfl rfl ?_
    dsimp only
    rw [view_t, if_neg hsome]
    exact hbody _
  case sigd g st rel x y =>
    cases hsh
    exact stopsAtPoison_of_body h hgood rfl rfl (sigd_poisoned hp (hsigd g st rel x y rfl) _ _)
  all_goals exact absurd hj Bool.false_ne_true

/-! ## The two that do nothing, and checks of the seat flags -/

section
variable {s : State} {t : Threadlet} {i : Instr} {sh : Shape}

/-- An instruction that judges its sources and retires without an effect. -/
theorem exec_retires_of_body {body : State → View → Res} (h : ReachesSources s t i sh) (hgood : GoodRegisters s t i sh)
    (hj : judgesSources i = true) (hi : exec i s = issue i s body) (hb : body s (s.view t) = retire s t) :
    exec i s = .next (s.retired s.cur t.pc i t 0) := by
  rw [h.exec_eq hi, sourceCheck_judged hgood hj, Option.getD_none, hb]
  exact congrArg _ (settle_next (quiet_zero s t))

/-- A copy of no bytes moves none, whatever its addresses hold (R137). -/
theorem exec_scpy_nothing {g : Guard} {z : Fin 7} {d x y : Operand} {f : BitVec 16} (h : ReachesSources s t (.scpy g z d x f y) sh)
    (hgood : GoodRegisters s t (.scpy g z d x f y) sh) (h0 : (s.readOp (s.view t) y).toNat = 0) (hy : s.poisonedSource t [y] = none) :
    exec (.scpy g z d x f y) s = .next (s.retired s.cur t.pc (.scpy g z d x f y) t 0) :=
  exec_retires_of_body h hgood rfl rfl (if_pos ⟨by rw [h0, Nat.zero_mul], Option.isNone_iff_eq_none.mpr hy⟩)

/-- A signal to a continuation that names nothing sends none, whatever its datum (R179). -/
theorem exec_sigd_nothing {g : Guard} {st : Status} {rel : Bool} {x y : Operand} (h : ReachesSources s t (.sigd g st rel x y) sh)
    (hgood : GoodRegisters s t (.sigd g st rel x y) sh) (hv : contV (s.readOp (s.view t) x) = false) (hx : s.poisonedSource t [x] = none) :
    exec (.sigd g st rel x y) s = .next (s.retired s.cur t.pc (.sigd g st rel x y) t 0) := by
  refine exec_retires_of_body h hgood rfl rfl ?_
  dsimp only
  rw [checked_passes (by rw [hv]; rfl), checked_clean hx, hv]
  rfl

/-- FLAGS, END, KEND and a HALT in range check the seat flags first (R419). -/
theorem exec_badFlags {g : Guard} {d x : Operand} (h : Executes s t i) (hb : t.badFlags = true)
    (hi : i = .flags g d ∨ i = .endT g ∨ i = .kend g ∨ i = .halt g x ∧ (s.readOp (s.view t) x).toNat < 0xFFFF0000) :
    exec i s = .next (settle i s (s.view t) (badFlagsTrap s)) := by
  have hbody : ∀ {body : State → View → Res}, exec i s = issue i s body → body s (s.view t) = badFlagsTrap s →
      exec i s = .next (settle i s (s.view t) (badFlagsTrap s)) := fun hi hb => by rw [hi, issue_executes h, hb]
  rcases hi with rfl | rfl | rfl | ⟨rfl, hx⟩
  · exact hbody rfl (if_pos hb)
  · exact hbody rfl (if_pos hb)
  · exact hbody rfl (if_pos hb)
  · exact hbody rfl ((if_neg hx.not_ge).trans (if_pos hb))

end

/-- Settles O20: the checks before the body in their order, then the lists of checks of the instructions that judge their own sources. -/
theorem sourceChecks : Obligations.SourceChecks := by
  unfold Obligations.SourceChecks
  intro s t i sh hr hn hsh hc hg v bad good zero nothing
  have h : ReachesSources s t i sh := ⟨hr, hn, hsh, hc, hg⟩
  refine ⟨fun o ho => ?parity, fun hb ht => ?target, ?poison, ?nothing,
    fun ⟨hb, ht⟩ hclean => executes_of_clean ⟨hb, ht⟩ h hclean, ?flags⟩
  case parity =>
    rw [h.exec_of_sourceCheck (sourceCheck_parity ho)]
    exact congrArg _ (settle_machineCheck s t i (specifier o))
  case target =>
    rw [h.exec_of_sourceCheck (sourceCheck_target hb ht), trapWith, settle_trap (by decide)]
  case poison =>
    rintro n ⟨hb, ht⟩ hp
    have hgood : GoodRegisters s t i sh := ⟨hb, ht⟩
    refine ⟨fun hj => ?_, fun hj hnot hd => ?_⟩
    · rw [h.exec_of_sourceCheck ((sourceCheck_poison hgood hj).trans (poisonTrap_some hp)), settle_trap (by decide)]
      rfl
    · obtain ⟨r, hexec, hmeets⟩ := judged_stopsAtPoison h hgood hj hp (fun g z d x f y hi hz => hnot (.inl ⟨g, z, d, x, f, y, hi, hz⟩))
        (fun g st rel x y hi hz => hnot (.inr ⟨g, st, rel, x, y, hi, hz⟩)) hd
      obtain ⟨c, hsettle⟩ := settle_meetsPoison (s := s) (t := t) (i := i) hmeets
      exact ⟨c, hsettle.imp (fun hs => by rw [hexec, hs]) (fun hs => by rw [hexec, hs])⟩
  case nothing =>
    rintro ⟨hb, ht⟩ (⟨g, z, d, x, f, y, rfl, h0, hy⟩ | ⟨g, st, rel, x, y, rfl, hv, hx⟩)
    · exact exec_scpy_nothing h ⟨hb, ht⟩ h0 hy
    · exact exec_sigd_nothing h ⟨hb, ht⟩ hv hx
  case flags =>
    intro g d x hi hb hex hflags
    rw [exec_badFlags hex hflags hi]
    exact congrArg _ (settle_machineCheck s t i _)

end Sys2Proof.Machine
end

section
/-! PROOFS. Links, requests from outside, the Courier window and register writes (O52). -/

namespace Sys2Proof.Machine

/-! ## Links (R398, R399, R420, R421) -/

section
variable {s : State}

/-- LINK_RETRAIN of a scale-up port that is up keeps it, halves its lanes or takes it down, by the rule's cases. -/
theorem exec_linkRetrain_port {port : Nat} (how : Retrain) (hport : port < 64) (hup : (Tab.get PortMode.reset s.portm port).up = true)
    (hmode : (Tab.get PortMode.reset s.portm port).mode < 2) : exec (.linkRetrain (.port port) how) s =
      .next (State.linkRas { s with portm := Tab.put s.portm port ((Tab.get PortMode.reset s.portm port).retrained how) } 0x19
        (portDie port) port 0) :=
  if_neg (by simp [hup]; omega)

theorem exec_linkRetrain_torus (n : Nat) (how : Retrain) (hb : s.hallmark.booted = true) : exec (.linkRetrain (.torus n) how) s =
    .next (if how = .failed then (s.rasOpen 0x18 3 0xFF (ptnDie (n / 4)) (n / 4)).haltWith torusCode
      else s.rasOpen 0x18 3 0xFF (ptnDie (n / 4)) (n / 4)) :=
  if_neg (by simp [hb])

theorem exec_linkRetrain_courier (how : Retrain) (hb : s.hallmark.booted = true) : exec (.linkRetrain .courier how) s =
    .next (State.rasOpen { s with courierDown := decide (how = .failed) } 0x1A 3 0xFF 8 0).drainMessages :=
  if_neg (by simp [hb])

/-- Before the package is up its torus links and its Courier link do not act. -/
theorem exec_linkRetrain_off (link : Link) (how : Retrain) (hb : s.hallmark.booted = false) (hlink : ∀ p, link ≠ .port p) :
    exec (.linkRetrain link how) s = .next s := by
  cases link with
  | port p => exact absurd rfl (hlink p)
  | torus n => exact if_pos (by simp [hb])
  | courier => exact if_pos (by simp [hb])

theorem exec_linkTrained {port lanes : Nat} (hb : s.hallmark.booted = true) (hport : port < 64)
    (hmode : (Tab.get PortMode.reset s.portm port).mode < 2) (hup : (Tab.get PortMode.reset s.portm port).up = false)
    (hlanes : lanes = 2 ∨ lanes = 4) : exec (.linkTrained port lanes) s =
      .next { s with portm := Tab.put s.portm port { Tab.get PortMode.reset s.portm port with up := true, lanes := lanes } } :=
  if_neg (by simp [hb, hup]; omega)

/-! ## UALink (R401) -/

theorem exec_ualinkInbound_off (kind : InboundKind) (va : Word) (bytes : Nat) (hb : s.hallmark.booted = true)
    (hctx : s.ualctx.getLsbD 63 = false) : exec (.ualinkInbound kind va bytes) s = .next (s.serve .refused []) := by
  refine congrArg Host.Outcome.next ((if_neg ?_).trans (if_pos (.inl ?_)))
  · rw [hb]
    decide
  · rw [hctx]
    rfl

/-- The access that a request of UALink makes of its page. -/
theorem exec_ualinkInbound {kind : InboundKind} {va : Word} {bytes : Nat} {p : Phys} {s1 : State} (hb : s.hallmark.booted = true)
    (hctx : s.ualctx.getLsbD 63 = true) (hcarries : ualCarries kind va.toNat bytes = true) (hnear : ∀ pkg, p.home ≠ .remote pkg)
    (hmark : s.marked ⟨s.ualctx.toNat % 64, 8, .inbound va.toNat⟩ va.toNat true = false)
    (hp : s.translate (s.ualctx.toNat % 64) va.toNat (if kind = .read then .read else .write) = (.ok p, s1)) :
    exec (.ualinkInbound kind va bytes) s =
      .next ((s1.serveAt kind p (s.ualctx.toNat % 64) bytes id).devDone ⟨s.ualctx.toNat % 64, 8, .inbound va.toNat⟩ va.toNat bytes) := by
  refine congrArg Host.Outcome.next ?_
  obtain ⟨home, pa, is⟩ := p
  cases home
  case remote pkg => exact absurd rfl (hnear pkg)
  all_goals cases kind <;> simp_all [State.ualinkInbound]

/-! ## Patrols (R417) -/

theorem exec_patrol_clean (g : Nat) : exec (.patrol g .clean) s = .next s := ite_self _

theorem hasStorage_granule {carve g : Nat} (h : g * 32 + 32 ≤ Config.hbmBytes) : hasStorage carve (granuleHome g) (g * 32) 32 = true := by
  have hhome : granuleHome g = .hbm := if_pos (by omega)
  simp [hhome, hasStorage, h]

theorem exec_patrol_uncorrectable {g : Nat} (hb : s.hallmark.booted = true) (hg : g * 32 + 32 ≤ Config.hbmBytes) (hmid : s.midWrite g = false) :
    exec (.patrol g .uncorrectable) s = .next (((((s.markGranule g true).ras 0x11 1 0xFF (homeDie (g * 32)) (BitVec.ofNat 64 (g * 32))
      0).countRow g true).poisonWatches g).releaseHeld) := by
  have hsrc : granuleSrc g = 0x11 := if_pos (by omega)
  refine (if_neg (by simp [hb, hasStorage_granule hg])).trans ?_
  simp [hsrc, hmid, State.poisonGranule]

theorem mem_markGranule (g k : Nat) (hbm : Bool) : k ∈ (s.markGranule g hbm).granules ↔ k = g ∨ k ∈ s.granules := by
  unfold State.markGranule
  split
  case isTrue h =>
    have hg : g ∈ s.granules := List.contains_iff_mem.mp h
    exact ⟨.inr, fun hk => hk.elim (fun he => he ▸ hg) id⟩
  case isFalse => simp [or_comm]

end

/-! ## The Courier window (R358, R383, R391 to R396) -/

section
variable {s : State}

theorem windowOpen_of_up (hb : s.hallmark.booted = true) (hc : s.courierDown = false) : s.windowOpen = true := by
  rw [State.windowOpen, hb, hc]
  rfl

theorem exec_hmrWrite (value : Word) (hw : s.windowOpen = true) :
    exec (.hmrWrite value) s = .next (State.drainMessages { s with hmr := value }) :=
  if_neg (by simp [hw])

theorem exec_resume (hw : s.windowOpen = true) (hlast : lastingHalt s.haltCode = false)
    (hcool : s.haltCode = 0xFFFF0031 → s.hallmark.cool = true) :
    exec (.resume 1) s = .next { s with halted := false, haltCode := 0 } := by
  refine if_neg ?_
  rintro (hclosed | hvalue | hlasting | ⟨hthermal, hhot⟩)
  · simp [hw] at hclosed
  · exact hvalue rfl
  · simp [hlast] at hlasting
  · simp [hcool hthermal] at hhot

theorem exec_featcCommit (hw : s.windowOpen = true) : exec .featcCommit s = .next { s with featDone := true } :=
  congrArg Host.Outcome.next (if_pos hw)

theorem exec_featcReset (hw : s.windowOpen = true) :
    exec .featcReset s = .next (if s.anyResident then s else { s with featDone := false }) := by
  refine congrArg Host.Outcome.next ((if_pos hw).trans ?_)
  cases hr : s.anyResident <;> simp [State.putFeature, hr]

theorem exec_freply {value : Word} {f : Service} (hw : s.windowOpen = true) (hmbz : value &&& (0xFFF000000000E8C0 : Word) = 0)
    (hassist : s.feature 1 = false)
    (hf : s.services.find? (fun f => f.ctx = value.toNat % 64 ∧ f.die % 8 = value.toNat / 2 ^ 8 % 8 ∧
      f.va = value.toNat / 2 ^ 16 % 2 ^ 36 * 2 ^ 16) = some f) :
    exec (.freply value) s = .next (s.serviceReply f (value.getLsbD 12)) := by
  have hmask : (bitsMask 63 52 ||| bitsMask 15 13 ||| bitsMask 11 11 ||| bitsMask 7 6 : Word) = 0xFFF000000000E8C0 := by decide
  refine (if_neg ?_).trans ?_
  · rintro (hclosed | hbits | hself)
    · simp [hw] at hclosed
    · exact hbits (by rw [hmask, hmbz])
    · simp [hassist] at hself
  · simp only [hf]

/-! ## Register access (R392) -/

theorem srOpen_window (hw : s.windowOpen = true) : s.srOpen 0 = true := by
  have hup := hw
  simp only [State.windowOpen, Bool.and_eq_true, Bool.not_eq_true'] at hup
  obtain ⟨hb, hc⟩ := hup
  simp [State.srOpen, srPortIs, hb, hc]

theorem srReady_window {cmd : Nat} (hw : s.windowOpen = true) (hcmd : (s.srPort 0).cmd = none ∨ (s.srPort 0).cmd = some cmd) : s.srReady 0 cmd = true := by
  rw [State.srReady, srOpen_window hw, decide_eq_true hcmd]
  rfl

theorem exec_srcmdRead {w : Word} (hw : s.windowOpen = true) (hcmd : (s.srPort 0).cmd = none ∨ (s.srPort 0).cmd = some 1)
    (hrow : (selRow (s.srPort 0).sel).isSome = true) (hget : s.sysGet (.port 0) (s.srPort 0).sel = some (.ok w)) :
    exec (.srcmdRead 0) s =
      .next ((s.pastRead (.port 0) (s.srPort 0).sel).setSrPort 0 { s.srPort 0 with data := w, stat := 0, cmd := none }) := by
  obtain ⟨row, hrow⟩ := Option.isSome_iff_exists.mp hrow
  refine (if_neg (by simp [srReady_window hw hcmd])).trans ?_
  simp only [hrow, hget]

theorem exec_srcmdWrite (hw : s.windowOpen = true) (hcmd : (s.srPort 0).cmd = none ∨ (s.srPort 0).cmd = some 2)
    (hcause : s.writeCause (s.srPort 0).sel (s.srPort 0).data = none) :
    exec (.srcmdWrite 0) s = .next ((s.sysPut (s.srPort 0).sel (s.srPort 0).data).2.setSrPort 0 { s.srPort 0 with
      stat := BitVec.ofNat 64 (statusCode (s.sysPut (s.srPort 0).sel (s.srPort 0).data).1), cmd := none }).readsOn := by
  refine (if_neg (by simp [srReady_window hw hcmd])).trans ?_
  simp only [hcause]

end

/-! ## Writes at their registers (R365) -/

/-- A write of a register that the step names reaches it. -/
theorem writeStep_reaches {s : State} {id : Nat} {q : Req} {sel y : Word} {mine : Nat × Nat → Bool} (hq : s.req id = some q)
    (hk : q.kind = .sysw sel y) (hp : q.performed = false) (ha : s.writeAhead q sel = false) (hmine : mine (selReg sel) = true) :
    s.writeStep id mine = .next ((s.sysPut sel y).2.answer id (s.sysPut sel y).1 []).readsOn := by
  simp only [State.writeStep, hq, hk]
  exact if_neg (by simp [hp, ha, hmine])

/-- Settles O52: each clause is the step's own case, of the link, the patrol, the window and the register that it speaks of. -/
theorem linksAndRegisters : Obligations.LinksAndRegisters := by
  unfold Obligations.LinksAndRegisters
  intro s
  refine ⟨fun _ => rfl, ?port, fun n how hb => exec_linkRetrain_torus n how hb, fun how hb => exec_linkRetrain_courier how hb,
    fun link how hb hlink => exec_linkRetrain_off link how hb hlink, fun port lanes hb hport hmode hup hlanes =>
      exec_linkTrained hb hport hmode hup hlanes,
    fun kind va bytes hb => ⟨exec_ualinkInbound_off kind va bytes hb, fun p s1 hctx hcarries hnear hmark hp =>
      exec_ualinkInbound hb hctx hcarries hnear hmark hp⟩,
    fun g => ⟨exec_patrol_clean g, fun hb hg hmid => ⟨exec_patrol_uncorrectable hb hg hmid, fun k => mem_markGranule g k true⟩⟩, ?window, ?write⟩
  case port =>
    intro port how m hport hup hmode
    cases how with
    | recovered => exact exec_linkRetrain_port _ hport hup hmode
    | lane => exact exec_linkRetrain_port _ hport hup hmode
    | failed => exact exec_linkRetrain_port _ hport hup hmode
  case window =>
    intro hb hc
    have hw := windowOpen_of_up hb hc
    exact ⟨fun value => exec_hmrWrite value hw, exec_resume hw, exec_featcCommit hw, exec_featcReset hw,
      fun value f hmbz hassist hf => exec_freply hw hmbz hassist hf, fun w hcmd hrow hget => exec_srcmdRead hw hcmd hrow hget,
      fun hcmd hcause => exec_srcmdWrite hw hcmd hcause⟩
  case write =>
    intro id q sel y hq hk hp ha x t reg
    have hreach : ∀ {i : Instr} {mine : Nat × Nat → Bool}, exec i s = s.writeStep id mine → mine (selReg sel) = true →
        exec i s = .next t := fun hi hmine => hi.trans (writeStep_reaches hq hk hp ha hmine)
    have hown : ∀ {i : Instr} (r : Nat × Nat), exec i s = s.writeStep id (fun x => decide (x = r)) → reg = r → exec i s = .next t :=
      fun r hi h => hreach hi (decide_eq_true h)
    refine ⟨hown _ rfl, hown _ rfl, hown _ rfl, hown _ rfl, hown _ rfl, hown _ rfl,
      fun h => hreach (mine := fun r => !ownStep.contains r) rfl ?_⟩
    rw [Bool.not_eq_true', ← Bool.not_eq_true, List.contains_iff_mem]
    exact h

end Sys2Proof.Machine
end

section
/-! PROOFS. Hallmark: reset, the alarm, the sensors, management commands and SPDM (O53). -/

namespace Sys2Proof.Machine

/-! ## Records leave the package as it is -/

/-- What making a record, or a message to the host, leaves as it was. -/
structure State.SameButRecords (s t : State) : Prop where
  ctxs : t.ctxs = s.ctxs
  tiles : t.tiles = s.tiles
  net : t.net = s.net
  reqs : t.reqs = s.reqs
  featDone : t.featDone = s.featDone
  halted : t.halted = s.halted
  haltCode : t.haltCode = s.haltCode
  hallmark : t.hallmark = s.hallmark

theorem State.SameButRecords.refl (s : State) : s.SameButRecords s := ⟨rfl, rfl, rfl, rfl, rfl, rfl, rfl, rfl⟩

theorem State.SameButRecords.trans {s t u : State} (h : s.SameButRecords t) (h' : t.SameButRecords u) : s.SameButRecords u :=
  ⟨h'.ctxs.trans h.ctxs, h'.tiles.trans h.tiles, h'.net.trans h.net, h'.reqs.trans h.reqs, h'.featDone.trans h.featDone,
    h'.halted.trans h.halted, h'.haltCode.trans h.haltCode, h'.hallmark.trans h.hallmark⟩

/-- The second part first, which names the state between. -/
theorem State.SameButRecords.after {s t u : State} (h' : t.SameButRecords u) (h : s.SameButRecords t) : s.SameButRecords u := h.trans h'

theorem drainGo_sameButRecords (n : Nat) (s : State) : s.SameButRecords (State.drainMessages.go n s) := by
  induction n generalizing s with
  | zero => exact .refl s
  | succ n ih =>
    unfold State.drainMessages.go
    split
    · exact .refl s
    · split
      · exact .refl s
      · dsimp only
        exact (ih _).after ⟨rfl, rfl, rfl, rfl, rfl, rfl, rfl, rfl⟩

theorem drainMessages_sameButRecords (s : State) : s.SameButRecords s.drainMessages := by
  unfold State.drainMessages
  split
  · exact .refl s
  · exact drainGo_sameButRecords _ s

theorem postRas_sameButRecords (s : State) (rec : List Byte) (ctx : Nat) : s.SameButRecords (s.postRas rec ctx) := by
  unfold State.postRas
  dsimp only
  split
  · split
    · exact ⟨rfl, rfl, rfl, rfl, rfl, rfl, rfl, rfl⟩
    · exact ⟨rfl, rfl, rfl, rfl, rfl, rfl, rfl, rfl⟩
  · split
    · exact (drainMessages_sameButRecords _).after ⟨rfl, rfl, rfl, rfl, rfl, rfl, rfl, rfl⟩
    · exact ⟨rfl, rfl, rfl, rfl, rfl, rfl, rfl, rfl⟩

theorem rasOpen_sameButRecords (s : State) (src sev ctx die ptn : Nat) : s.SameButRecords (s.rasOpen src sev ctx die ptn) := by
  unfold State.rasOpen State.ras
  exact (postRas_sameButRecords _ _ _).after ⟨rfl, rfl, rfl, rfl, rfl, rfl, rfl, rfl⟩

theorem repairRasN_sameButRecords (s : State) (src n : Nat) : s.SameButRecords (s.repairRasN src n) := by
  induction n generalizing s with
  | zero => exact .refl s
  | succ n ih => exact (rasOpen_sameButRecords s src 4 0xFF 9 0).trans (ih _)

/-! ## Package reset (R428) -/

/-- What a package reset leaves, of a package whose Hallmark was h. -/
structure State.AfterReset (h : Hallmark) (t : State) : Prop where
  ctxs : t.ctxs = []
  tiles : t.tiles = []
  net : t.net = []
  reqs : t.reqs = []
  featDone : t.featDone = false
  tamp : t.hallmark.tamp = false
  sessions : t.hallmark.sessions = []
  minsvn : t.hallmark.minsvn = h.minsvn
  store : t.hallmark.store = h.store
  armed : t.hallmark.armed = true
  sensors : t.hallmark.sensors = Hallmark.reset.sensors
  throttled : t.hallmark.throttled = []

/-- Hallmark's fields that repairs and the end of bring-up leave as they are. -/
structure Hallmark.SameAtBringUp (g g' : Hallmark) : Prop where
  tamp : g'.tamp = g.tamp
  sessions : g'.sessions = g.sessions
  minsvn : g'.minsvn = g.minsvn
  store : g'.store = g.store
  armed : g'.armed = g.armed
  sensors : g'.sensors = g.sensors
  throttled : g'.throttled = g.throttled

section
variable {h : Hallmark} {s t : State}

theorem State.AfterReset.records (hs : s.AfterReset h) (hst : s.SameButRecords t) : t.AfterReset h := by
  obtain ⟨hctxs, htiles, hnet, hreqs, hfeat, -, -, hhall⟩ := hst
  obtain ⟨_, _, _, _, _, _, _, _, _, _, _, _⟩ := hs
  constructor <;> simp_all

theorem State.AfterReset.setHallmark {g : Hallmark} (hs : s.AfterReset h) (hg : s.hallmark.SameAtBringUp g) :
    State.AfterReset h { s with hallmark := g } := 
  ⟨hs.ctxs, hs.tiles, hs.net, hs.reqs, hs.featDone, hg.tamp.trans hs.tamp, hg.sessions.trans hs.sessions, hg.minsvn.trans hs.minsvn,
    hg.store.trans hs.store, hg.armed.trans hs.armed, hg.sensors.trans hs.sensors, hg.throttled.trans hs.throttled⟩

end

theorem applyRecord_sameAtBringUp {g g' : Hallmark} {l : List Byte} (h : g.applyRecord l = some g') : g.SameAtBringUp g' := by
  unfold Hallmark.applyRecord at h
  dsimp only at h
  split_ifs at h <;> cases h <;> exact ⟨rfl, rfl, rfl, rfl, rfl, rfl, rfl⟩

theorem applyRepairs_afterReset {h : Hallmark} {s : State} (hs : s.AfterReset h) : s.applyRepairs.AfterReset h := by
  refine List.foldlRecOn (motive := fun u => State.AfterReset h u) (sortRepairs s.hallmark.store) _ hs fun u hu l _ => ?_
  split
  case h_1 g hg => exact (hu.setHallmark (applyRecord_sameAtBringUp hg)).records (rasOpen_sameButRecords _ ..)
  case h_2 => exact hu.records (rasOpen_sameButRecords _ ..)

/-- The package with the slots that run chosen (R428, step 4). -/
def State.imagesChosen (s : State) (a b : Nat) : State :=
  { s with
    hallmark := { s.hallmark with
      svn := Nat.min (imageSvn (s.hallmark.image 0 a)) (imageSvn (s.hallmark.image 1 b))
      slotb := (if a = 1 then 0xFF else 0) + (if b = 1 then 0x100 else 0) }
    carve := imageCarve (s.hallmark.image 1 b) * 2 ^ 28 }

theorem bringUp_afterReset {h : Hallmark} {s : State} (hs : s.AfterReset h) (a b : Nat) : (s.bringUp a b).AfterReset h := by
  have hrepaired := applyRepairs_afterReset (h := h) (s := s.imagesChosen a b)
    ⟨hs.ctxs, hs.tiles, hs.net, hs.reqs, hs.featDone, hs.tamp, hs.sessions, hs.minsvn, hs.store, hs.armed, hs.sensors, hs.throttled⟩
  exact ⟨hrepaired.ctxs, hrepaired.tiles, hrepaired.net, hrepaired.reqs, hrepaired.featDone, hrepaired.tamp, hrepaired.sessions,
    hrepaired.minsvn, hrepaired.store, hrepaired.armed, hrepaired.sensors, hrepaired.throttled⟩

/-- The package after steps 1 and 2 of R428, with its tamper sensors armed. -/
def State.armedAgain (s : State) : State := { s.cleared with hallmark := { s.cleared.hallmark with armed := true } }

/-- The state in which step 3 of R428 ends, with a record for each image that failed. -/
def State.toBoot (s : State) : State := s.armedAgain.repairRasN 0x22 ((s.hallmark.runSlot 0).2 + (s.hallmark.runSlot 1).2)

/-- The slot that runs is chosen by the images, the ACTIVE slots and the fused minimum. -/
theorem runSlot_congr {g h : Hallmark} (hminsvn : g.minsvn = h.minsvn) (hfw : g.fw = h.fw) (hactive : g.activeB = h.activeB) (target : Nat) :
    g.runSlot target = h.runSlot target := by
  unfold Hallmark.runSlot Hallmark.image Hallmark.active
  rw [hminsvn, hfw, hactive]

theorem armedAgain_runSlot (s : State) (target : Nat) : s.armedAgain.hallmark.runSlot target = s.hallmark.runSlot target :=
  runSlot_congr rfl rfl rfl target

theorem packageReset_eq (s : State) : s.packageReset = match (s.hallmark.runSlot 0).1, (s.hallmark.runSlot 1).1 with
    | some a, some b => s.toBoot.bringUp a b
    | _, _ => s.toBoot := by
  rw [State.toBoot, ← armedAgain_runSlot, ← armedAgain_runSlot]
  rfl

theorem armedAgain_afterReset (s : State) : s.armedAgain.AfterReset s.hallmark :=
  ⟨rfl, rfl, rfl, rfl, rfl, rfl, rfl, rfl, rfl, rfl, rfl, rfl⟩

theorem toBoot_afterReset (s : State) : s.toBoot.AfterReset s.hallmark := (armedAgain_afterReset s).records (repairRasN_sameButRecords ..)

theorem toBoot_booted (s : State) : s.toBoot.hallmark.booted = false := by
  rw [State.toBoot, (repairRasN_sameButRecords _ _ _).hallmark]
  rfl

theorem packageReset_afterReset (s : State) : s.packageReset.AfterReset s.hallmark ∧
    s.packageReset.hallmark.booted = ((s.hallmark.runSlot 0).1.isSome && (s.hallmark.runSlot 1).1.isSome) := by
  rw [packageReset_eq]
  cases (s.hallmark.runSlot 0).1 with
  | none => exact ⟨toBoot_afterReset s, toBoot_booted s⟩
  | some a =>
    cases (s.hallmark.runSlot 1).1 with
    | none => exact ⟨toBoot_afterReset s, toBoot_booted s⟩
    | some b => exact ⟨bringUp_afterReset (toBoot_afterReset s) a b, rfl⟩

/-! ## The alarm and the sensors (R435, R436) -/

/-- The alarm's code takes the place of whatever halted the package before. -/
theorem haltWith_tamper (s : State) : s.haltWith tamperCode = { s with halted := true, haltCode := tamperCode } := by
  simp [State.haltWith]

/-- Hallmark as the alarm leaves it. -/
def Hallmark.alarmed (h : Hallmark) : Hallmark :=
  { h with sessions := [], idgone := h.idgone || h.iderase, tamp := true, replies := h.replies ++ [.alarm] }

theorem exec_tamperAlarm {s : State} (ha : s.hallmark.armed = true) : ∃ t, exec .tamperAlarm s = .next t ∧
    State.SameButRecords { s with halted := true, haltCode := tamperCode, hallmark := s.hallmark.alarmed } t := by
  refine ⟨_, if_neg (by simp [ha]), ?_⟩
  dsimp only [State.free]
  rw [haltWith_tamper]
  exact (postRas_sameButRecords _ _ _).after ⟨rfl, rfl, rfl, rfl, rfl, rfl, rfl, rfl⟩

theorem exec_sensorSample (s : State) (x : Sensors) : ∃ t, exec (.sensorSample x) s = .next t ∧ t.hallmark.sensors = x ∧
    t.hallmark.throttled = throttling x ∧ s.hallmark.throttles.toNat ≤ t.hallmark.throttles.toNat ∧
    t.halted = (s.halted || x.dieTemp.any fun c => decide (1760 ≤ c)) := by
  have hcount : ∀ n : Nat, s.hallmark.throttles.toNat ≤
      (BitVec.ofNat 64 (Nat.min (s.hallmark.throttles.toNat + n) (2 ^ 64 - 1))).toNat := by
    intro n
    have hlt := s.hallmark.throttles.isLt
    have hmin : Nat.min (s.hallmark.throttles.toNat + n) (2 ^ 64 - 1) < 2 ^ 64 := lt_of_le_of_lt (Nat.min_le_right _ _) (by decide)
    rw [BitVec.toNat_ofNat, Nat.mod_eq_of_lt hmin]
    exact Nat.le_min.mpr ⟨Nat.le_add_right _ _, by omega⟩
  refine ⟨_, rfl, ?_⟩
  split
  case isTrue hhot => exact ⟨rfl, rfl, hcount _, by rw [hhot, Bool.or_true]; rfl⟩
  case isFalse hcold => exact ⟨rfl, rfl, hcount _, by rw [Bool.not_eq_true _ |>.mp hcold, Bool.or_false]⟩

/-! ## Management (R434) -/

section
variable {s : State}

/-- A command that is refused: outside a secured session, or during an alarm that it may not pass. -/
theorem management_refused {secured duringAlarm : Bool} (f : State → State)
    (h : secured = false ∨ duringAlarm = false ∧ s.hallmark.tamp = true) : s.management secured duringAlarm f = .next (s.reply .refused) := by
  refine if_pos (h.imp (fun hs => ?_) fun h => ?_)
  · rw [hs]
    rfl
  · simp [h]

/-- In a secured session, and with no alarm that stops it, a command is performed. -/
theorem management_performed {duringAlarm : Bool} (f : State → State) (hs : s.hallmark.sessions.any (·.2) = true)
    (ha : duringAlarm = true ∨ s.hallmark.tamp = false) : s.management true duringAlarm f = .next (f s) := by
  refine if_neg ?_
  rintro (hopen | ⟨hlate, halarm⟩)
  · simp [hs] at hopen
  · rcases ha with rfl | hquiet
    · cases hlate
    · exact Bool.false_ne_true (hquiet.symm.trans halarm)

/-- Every management command goes through that gate. -/
theorem exec_gated {secured : Bool} {i : Instr} (hi : i = .svnCommit secured ∨ (∃ t, i = .fwActivate secured t) ∨
    (∃ t o d, i = .fwWrite secured t o d) ∨ (∃ r, i = .repairSign secured r)) : ∃ f, exec i s = s.management secured false f := by
  rcases hi with rfl | ⟨t, rfl⟩ | ⟨t, o, d, rfl⟩ | ⟨r, rfl⟩
  · exact ⟨_, show execSvnCommit secured s = _ from rfl⟩
  · exact ⟨_, show execFwActivate secured t s = _ from rfl⟩
  · exact ⟨_, show execFwWrite secured t o d s = _ from rfl⟩
  · exact ⟨_, show execRepairSign secured r s = _ from rfl⟩

theorem exec_unsecured {i : Instr} (hi : i = .svnCommit false ∨ i = .reset false ∨ (∃ t, i = .fwActivate false t) ∨
    (∃ t o d, i = .fwWrite false t o d) ∨ (∃ r, i = .repairSign false r)) : exec i s = .next (s.reply .refused) := by
  rw [or_left_comm] at hi
  rcases hi with rfl | hi
  · exact show execReset false s = _ from management_refused _ (.inl rfl)
  · obtain ⟨f, hf⟩ := exec_gated hi
    exact hf.trans (management_refused f (.inl rfl))

theorem exec_alarmed {b : Bool} {i : Instr} (ht : s.hallmark.tamp = true) (hi : i = .svnCommit b ∨ (∃ t, i = .fwActivate b t) ∨
    (∃ t o d, i = .fwWrite b t o d) ∨ (∃ r, i = .repairSign b r)) : exec i s = .next (s.reply .refused) := by
  obtain ⟨f, hf⟩ := exec_gated hi
  exact hf.trans (management_refused f (.inr ⟨rfl, ht⟩))

/-- An answer of Hallmark as it is left by a command. -/
def State.answered (s : State) (g : Hallmark) (r : Reply) : State :=
  { s with hallmark := { g with replies := s.hallmark.replies ++ [r] } }

/-- The ACTIVE slots after one target flips. -/
def Hallmark.flipped (h : Hallmark) (target : Nat) : List Nat :=
  if h.activeB.contains target then h.activeB.filter (· ≠ target) else h.activeB ++ [target]

/-- A record with its signature (R427). -/
def Hallmark.signedRecord (h : Hallmark) (body : List Byte) : List Byte :=
  body ++ sigBytes (Config.identitySign h.serial (Config.sha384 body))

variable (hs : s.hallmark.sessions.any (·.2) = true)
include hs

theorem exec_reset : exec (.reset true) s = .next s.packageReset := show execReset true s = _ from management_performed _ hs (.inl rfl)

variable (ht : s.hallmark.tamp = false)
include ht

theorem exec_fwWrite {target off : Nat} {data : List Byte} (htarget : target ≤ 1) (hfits : off + data.length ≤ 256 + 2 ^ 23) :
    exec (.fwWrite true target off data) s = .next (s.answered { s.hallmark with
      fw := Tab.put s.hallmark.fw (2 * target + (1 - s.hallmark.active target))
        (putBytes (s.hallmark.image target (1 - s.hallmark.active target)) off data) } .done) := by
  change execFwWrite true target off data s = _
  rw [execFwWrite, management_performed _ hs (.inr ht)]
  exact congrArg Host.Outcome.next (if_neg (not_or.mpr ⟨htarget.not_gt, hfits.not_gt⟩))

theorem exec_fwActivate {target : Nat} (htarget : target ≤ 1) : exec (.fwActivate true target) s = .next
    (if imageValid target s.hallmark.minsvn (s.hallmark.image target (1 - s.hallmark.active target)) then
      s.answered { s.hallmark with activeB := s.hallmark.flipped target } .done else (s.repairRas 0x22).reply .error) := by
  change execFwActivate true target s = _
  rw [execFwActivate, management_performed _ hs (.inr ht)]
  exact congrArg Host.Outcome.next (if_neg htarget.not_gt)

theorem exec_svnCommit : exec (.svnCommit true) s =
    .next (s.answered { s.hallmark with minsvn := max s.hallmark.minsvn s.hallmark.svn } .done) :=
  show execSvnCommit true s = _ from management_performed _ hs (.inr ht)

theorem exec_repairSign {record : List Byte} (hid : s.hallmark.idgone = false) (hroom : s.hallmark.store.length < 64)
    (hrow : recKind (padTo 64 record) = 2 →
      stackRows s.hallmark.store (recStack (padTo 64 record)) < Config.spareRows (recStack (padTo 64 record))) :
    exec (.repairSign true record) s = .next (s.answered { s.hallmark with
      store := s.hallmark.store ++ [s.hallmark.signedRecord (padTo 64 record)] } .done) := by
  change execRepairSign true record s = _
  rw [execRepairSign, management_performed _ hs (.inr ht)]
  refine congrArg Host.Outcome.next ((if_neg ?_).trans (if_neg ?_))
  · rintro (hgone | hfull)
    · exact Bool.false_ne_true (hid.symm.trans hgone)
    · exact hroom.not_ge hfull
  · rintro ⟨hkind, hspare⟩
    exact (hrow hkind).not_ge hspare

end

/-! ## SPDM (R433) -/

section
variable {s : State} (hpath : s.hallmark.path = .mctp ∨ s.windowOpen = true)
include hpath

/-- An SPDM request over a path that is open is answered. -/
theorem spdm_answered (f : State → State) : s.spdm f = .next (f s) := by
  refine congrArg Host.Outcome.next (if_neg ?_)
  rintro ⟨hcourier, hclosed⟩
  rcases hpath with hmctp | hopen
  · rw [hmctp] at hcourier
    cases hcourier
  · simp [hopen] at hclosed

theorem exec_getVersion : exec .getVersion s = .next (s.reply (.bytes [0x13])) := show execGetVersion s = _ from spdm_answered hpath _

theorem exec_getCapabilities : exec .getCapabilities s = .next (s.reply (.bytes Config.spdmCapabilities)) :=
  show execGetCapabilities s = _ from spdm_answered hpath _

theorem exec_getDigests : exec .getDigests s = .next (s.reply (.bytes (digestBytes (Config.sha384 s.hallmark.certs)))) :=
  show execGetDigests s = _ from spdm_answered hpath _

theorem exec_negotiateAlgorithms (offer : List Algorithm) : exec (.negotiateAlgorithms offer) s =
    .next (s.reply (if Algorithm.supported.all fun a => offer.contains a then .done else .error)) :=
  show execNegotiateAlgorithms offer s = _ from spdm_answered hpath _

theorem exec_getCertificate (o n : Nat) : exec (.getCertificate o n) s = .next (s.reply (.bytes ((s.hallmark.certs.drop o).take n))) :=
  show execGetCertificate o n s = _ from spdm_answered hpath _

/-- The body of a CHALLENGE's answer: the nonce, the digest of the certificates and that of the measurements. -/
def Hallmark.challengeBody (h : Hallmark) (nonce : List Byte) : List Byte :=
  nonce ++ digestBytes (Config.sha384 h.certs) ++ digestBytes (Config.sha384 (h.measured.flatMap id))

theorem exec_challenge (nonce : List Byte) : exec (.challenge nonce) s =
    .next (s.signed (fun g => .signed (s.hallmark.challengeBody nonce) (sigBytes g)) (s.hallmark.challengeBody nonce)) :=
  show execChallenge nonce s = _ from spdm_answered hpath _

theorem exec_getMeasurements {index : Nat} {nonce m : List Byte} (hm : s.hallmark.measurement index = some m) :
    exec (.getMeasurements index nonce) s = .next (s.signed (fun g => .signed (m ++ nonce) (sigBytes g)) (m ++ nonce)) := by
  change execGetMeasurements index nonce s = _
  rw [execGetMeasurements, spdm_answered hpath]
  simp only [hm]

theorem exec_keyExchange {session : Nat} {share : List Byte} (hid : s.hallmark.idgone = false)
    (hnew : ∀ x ∈ s.hallmark.sessions, x.1 ≠ session) : exec (.keyExchange session share) s =
      .next (s.answered { s.hallmark with sessions := s.hallmark.sessions ++ [(session, false)] }
        (.session session (share ++ Config.keyShare session share) (sigBytes (Config.identitySign s.hallmark.serial
          (Config.sha384 (share ++ Config.keyShare session share)))))) := by
  have hkey : ¬ s.hallmark.idgone = true := fun hgone => Bool.false_ne_true (hid.symm.trans hgone)
  change execKeyExchange session share s = _
  rw [execKeyExchange, spdm_answered hpath]
  refine congrArg Host.Outcome.next ((if_neg ?_).trans (if_neg hkey))
  rintro (hgone | hopen)
  · exact hkey hgone
  · obtain ⟨x, hx, heq⟩ := List.any_eq_true.mp hopen
    exact hnew x hx (of_decide_eq_true heq)

theorem exec_finish {session : Nat} (verify : List Byte) (hopen : (session, false) ∈ s.hallmark.sessions) :
    exec (.finish session verify) s = .next (if Config.finishGood session verify then
      s.answered { s.hallmark with sessions := s.hallmark.sessions.map fun x => if x.1 = session then (session, true) else x } .done
      else s.reply .error) := by
  change execFinish session verify s = _
  rw [execFinish, spdm_answered hpath]
  refine congrArg Host.Outcome.next ?_
  cases hgood : Config.finishGood session verify with
  | false => exact if_neg fun h => Bool.false_ne_true h.2
  | true => exact if_pos ⟨List.contains_iff_mem.mpr hopen, rfl⟩

theorem exec_endSession {session : Nat} (hsecured : (session, true) ∈ s.hallmark.sessions) : exec (.endSession session) s =
    .next (s.answered { s.hallmark with sessions := s.hallmark.sessions.filter fun x => x.1 ≠ session } .done) := by
  change execEndSession session s = _
  rw [execEndSession, spdm_answered hpath]
  exact congrArg Host.Outcome.next (if_pos (List.contains_iff_mem.mpr hsecured))

theorem exec_heartbeat {session : Nat} (hsecured : (session, true) ∈ s.hallmark.sessions) :
    exec (.heartbeat session) s = .next (s.reply .done) := by
  change execHeartbeat session s = _
  rw [execHeartbeat, spdm_answered hpath]
  exact congrArg (fun r => Host.Outcome.next (s.reply r)) (if_pos (List.contains_iff_mem.mpr hsecured))

end

/-- A signed answer, or an error without the identity key (R432). -/
theorem signed_eq (s : State) (body : List Byte) : s.signed (fun g => .signed body (sigBytes g)) body =
    s.reply (if s.hallmark.idgone then .error else .signed body (sigBytes (Config.identitySign s.hallmark.serial (Config.sha384 body)))) := by
  unfold State.signed
  split <;> rfl

/-- Settles O53: each command is the gate of its path and then its own effect; records of a reset leave what it cleared. -/
theorem hallmarkCommands : Obligations.HallmarkCommands := by
  unfold Obligations.HallmarkCommands
  intro s h say with' sign secure spdm
  refine ⟨⟨s.packageReset, rfl, ?reset⟩, fun ha => ?alarm, exec_sensorSample s, rfl, rfl, rfl, fun i => exec_unsecured,
    fun ht b i => exec_alarmed ht, exec_reset, ?secure, exec_getVersion, exec_getCapabilities,
    fun offer hpath => exec_negotiateAlgorithms hpath offer, exec_getDigests,
    fun o n hpath => exec_getCertificate hpath o n, ?challenge, ?measurements, ?exchange,
    fun session verify hopen hpath => exec_finish hpath verify hopen,
    fun session hsecured => ⟨fun hpath => exec_endSession hpath hsecured, fun hpath => exec_heartbeat hpath hsecured⟩⟩
  case reset =>
    obtain ⟨hreset, hbooted⟩ := packageReset_afterReset s
    exact ⟨hreset.ctxs, hreset.tiles, hreset.net, hreset.reqs, hreset.featDone, hreset.tamp, hreset.sessions, hreset.minsvn, hreset.store,
      hreset.armed, hreset.sensors, hreset.throttled, hbooted⟩
  case alarm =>
    obtain ⟨t, hexec, hsame⟩ := exec_tamperAlarm ha
    refine ⟨t, hexec, hsame.halted, hsame.haltCode, ?_, ?_, ?_, ?_⟩
    all_goals rw [hsame.hallmark]; rfl
  case secure =>
    rintro ⟨hs, ht⟩
    refine ⟨fun target off data htarget hfits => exec_fwWrite hs ht htarget hfits, fun target htarget => exec_fwActivate hs ht htarget,
      exec_svnCommit hs ht, ?_⟩
    intro record body hid hroom hrow
    exact exec_repairSign hs ht hid hroom hrow
  case challenge =>
    intro nonce body hpath
    rw [exec_challenge hpath, signed_eq]
    rfl
  case measurements =>
    intro index nonce m hm hpath
    rw [exec_getMeasurements hpath hm, signed_eq]
    rfl
  case exchange =>
    intro session share hid hnew body hpath
    exact exec_keyExchange hpath hid hnew

end Sys2Proof.Machine
end

section
/-! PROOFS. Queues, packets, admission, completion and spanning kernels (O51). -/

namespace Sys2Proof.Machine

section
variable {s : State}

/-! ## Notifies (R338, R339) -/

theorem exec_notify_dropped {q : Nat} (value : Word) (hq : q < 256) (hw : s.windowOpen = true)
    (hoff : s.featDone = false ∨ (s.queue q).en = false ∨ (s.queue q).dev = true) :
    exec (.notify q value) s = .next { s with dnotc := s.dnotc + 1 } :=
  (if_neg (by simp [hw]; omega)).trans (if_pos (by simpa using hoff))

/-- A notify of a host queue that is enabled is judged by how far its value lies beyond RIDX. -/
theorem exec_notify_taken {q : Nat} (value : Word) (hq : q < 256) (hw : s.windowOpen = true) (hf : s.featDone = true)
    (hen : (s.queue q).en = true) (hdev : (s.queue q).dev = false) : exec (.notify q value) s =
      if 2 ^ 32 ≤ value.toNat ∨ (s.queue q).size < (value.toNat + 2 ^ 32 - (s.queue q).ridx % 2 ^ 32) % 2 ^ 32 then
        .next (s.stopQueue q value.toNat 0)
      else .next (s.setQueue q { s.queue q with widx := value.toNat, idle := false }) :=
  (if_neg (by simp [hw]; omega)).trans (if_neg (by simp [hf, hen, hdev]))

/-! ## Passing and taking (R340, R343, R344) -/

theorem passTaken_passed {t : Taken} {st : Nat} {u : State} (h : s.passPacket t st = .ok u) : s.passTaken t st = u := by
  rw [State.passTaken, h]

theorem passTaken_waits {t : Taken} {st : Nat} {m : Miss} {u : State} (h : s.passPacket t st = .error (m, u)) :
    s.passTaken t st = u.service m 1 := by
  rw [State.passTaken, h]

/-- A packet of a queue that breaks no rule, itself or in its argument block or channel list (R343). -/
def State.goodPacket (s : State) (q : Nat) (t : Taken) : Prop :=
  blockOk t = true ∧ (s.listPorts (s.queue q).ctx t).isSome = true ∧ s.classClash (s.queue q).ctx t = false

theorem readArguments_queue (t : Taken) : (s.readArguments t).2.1.queue = t.queue := by
  unfold State.readArguments
  dsimp only
  split
  · rfl
  · split
    · rfl
    · split
      · rfl
      · split
        · rfl
        · split <;> rfl

/-- A taken packet with no dependence left is pending, and any other waits on. -/
def State.waitOn (s : State) (t : Taken) : State := if t.unmet = [] then s.becomePending t else s.setTaken t

theorem readPacket_failed {t : Taken} {st : Nat} (h : t.fail = some st) : s.readPacket t = .next (s.passTaken t st) := by
  rw [State.readPacket, h]

theorem readPacket_good {t u : Taken} {s3 : State} (hf : t.fail = none) (hr : s.readArguments t = (.all, u, s3)) (hg : s3.goodPacket t.queue u) :
    s.readPacket t = .next (s3.waitOn { u with read := true }) := by
  have hq : u.queue = t.queue := by simpa [hr] using readArguments_queue (s := s) t
  obtain ⟨hblock, hlist, hclash⟩ := hq ▸ hg
  rw [State.readPacket, hf, hr]
  exact if_neg (by simp [hblock, Option.isSome_iff_ne_none.mp hlist, hclash])

theorem readPacket_bad {t u : Taken} {s3 : State} (hf : t.fail = none) (hr : s.readArguments t = (.all, u, s3)) (hg : ¬ s3.goodPacket t.queue u) :
    s.readPacket t = .next (s3.passTaken u 5) := by
  rw [State.readPacket, hf, hr]
  have hq : u.queue = t.queue := by simpa [hr] using readArguments_queue (s := s) t
  refine if_pos (Classical.byContradiction fun hn => hg (hq ▸ ?_))
  simpa [State.goodPacket, Option.isSome_iff_ne_none] using hn

theorem packetTake_good {q : Nat} {t u : Taken} {s0 s3 : State} (hexec : exec (.packetTake q) s = s0.readPacket t) (hf : t.fail = none)
    (hr : s0.readArguments t = (.all, u, s3)) (hg : s3.goodPacket t.queue u) : exec (.packetTake q) s = .next (s3.waitOn { u with read := true }) :=
  hexec.trans (readPacket_good hf hr hg)

theorem packetTake_bad {q : Nat} {t u : Taken} {s0 s3 w : State} (hexec : exec (.packetTake q) s = s0.readPacket t) (hf : t.fail = none)
    (hr : s0.readArguments t = (.all, u, s3)) (hg : ¬ s3.goodPacket t.queue u) (hw : s3.passPacket u 5 = .ok w) : exec (.packetTake q) s = .next w :=
  hexec.trans ((readPacket_bad hf hr hg).trans (congrArg _ (passTaken_passed hw)))

theorem packetTake_goesOn {q : Nat} {t : Taken} (h : s.taken.find? (fun t => t.queue = q && t.unread) = some t) :
    exec (.packetTake q) s = s.readPacket t := by
  change execPacketTake q s = _
  rw [execPacketTake, h]

theorem mayTake_untaken {q : Nat} (h : s.mayTake q = true) : ∀ t ∈ s.taken, t.queue ≠ q := by
  simp only [State.mayTake, Bool.and_eq_true, Bool.not_eq_true', List.any_eq_false, decide_eq_true_eq] at h
  exact h.2

/-- The slot's packet as it is taken. -/
def Queue.fresh (x : Queue) (q : Nat) (bytes : List Byte) : Taken := ⟨q, x.ridx, bytes, [], [], [], false, 0, [], none, 0, false, [], false⟩

/-- A queue's packet among the taken ones. -/
def State.takeIn (s : State) (q : Nat) (x : Queue) (t : Taken) : State := { s.setQueue q x.forget with taken := s.taken ++ [t] }

/-- The state behind the read of a queue's slot. -/
def State.slotRead (s : State) (q : Nat) : State := s.devDone (s.queueDev q) ((s.queue q).slotAt (s.queue q).ridx) 64

/-- What PACKET_TAKE does with the slot that it has read (R336, R340, R343). -/
def State.takeSlot (s : State) (q : Nat) (bytes : List Byte) : Host.Outcome State Fault Refusal :=
  let x := s.queue q
  let t : Taken := { x.fresh q bytes with fail := if packetOk (x.fresh q bytes) x.sys ((s.slotRead q).isRack q) then none else some 5 }
  if le bytes 0 1 ≠ 1 then .next ((s.slotRead q).setQueue q { x.forget with idle := true })
  else if (s.slotRead q).hostRing x.ctx x.ria.toNat then .next (((s.slotRead q).setQueue q x.forget).stopQueue q x.widx 0)
  else ((s.slotRead q).takeIn q x t).readPacket t

section
variable {q : Nat} {bytes : List Byte} (hvalid : le bytes 0 1 = 1)
include hvalid

theorem takeSlot_hostRing (hring : (s.slotRead q).hostRing (s.queue q).ctx (s.queue q).ria.toNat = true) :
    s.takeSlot q bytes = .next (((s.slotRead q).setQueue q (s.queue q).forget).stopQueue q (s.queue q).widx 0) :=
  (if_neg fun h => h hvalid).trans (if_pos hring)

theorem takeSlot_good (hring : (s.slotRead q).hostRing (s.queue q).ctx (s.queue q).ria.toNat = false)
    (hok : packetOk ((s.queue q).fresh q bytes) (s.queue q).sys ((s.slotRead q).isRack q) = true) :
    s.takeSlot q bytes = ((s.slotRead q).takeIn q (s.queue q) ((s.queue q).fresh q bytes)).readPacket ((s.queue q).fresh q bytes) := by
  rw [State.takeSlot, hok]
  exact (if_neg fun h => h hvalid).trans (if_neg (by rw [hring]; exact Bool.false_ne_true))

theorem takeSlot_bad (hring : (s.slotRead q).hostRing (s.queue q).ctx (s.queue q).ria.toNat = false)
    (hbad : packetOk ((s.queue q).fresh q bytes) (s.queue q).sys ((s.slotRead q).isRack q) = false) :
    s.takeSlot q bytes = .next (((s.slotRead q).takeIn q (s.queue q) { (s.queue q).fresh q bytes with fail := some 5 }).passTaken
      { (s.queue q).fresh q bytes with fail := some 5 } 5) := by
  rw [State.takeSlot, hbad]
  exact (if_neg fun h => h hvalid).trans ((if_neg (by rw [hring]; exact Bool.false_ne_true)).trans (readPacket_failed rfl))

end

/-- With no packet of its own taken, a queue that may be read goes by its slot. -/
theorem packetTake_reads {q : Nat} (h : s.mayTake q = true) : exec (.packetTake q) s =
    if s.hostRing (s.queue q).ctx ((s.queue q).slotAt (s.queue q).ridx) then
      .next ((s.setQueue q (s.queue q).forget).stopQueue q (s.queue q).widx 0)
    else match s.slotBytes q with
      | .error (.wait m) => .next (s.service m 0)
      | .error e => .next (((s.devFail (s.queueDev q) e).setQueue q (s.queue q).forget).stopQueue q (s.queue q).widx e.status)
      | .ok bytes => s.takeSlot q bytes := by
  have hnone : s.taken.find? (fun t => t.queue = q && t.unread) = none :=
    List.find?_eq_none.mpr fun t ht => by simp [mayTake_untaken h t ht]
  change execPacketTake q s = _
  rw [execPacketTake, hnone]
  exact if_neg (by simp [h])

theorem packetTake_hostRing {q : Nat} (h : s.mayTake q = true) (hring : s.hostRing (s.queue q).ctx ((s.queue q).slotAt (s.queue q).ridx) = true) :
    exec (.packetTake q) s = .next ((s.setQueue q (s.queue q).forget).stopQueue q (s.queue q).widx 0) :=
  (packetTake_reads h).trans (if_pos hring)

theorem packetTake_lost {q : Nat} {e : DevErr} (h : s.mayTake q = true)
    (hring : s.hostRing (s.queue q).ctx ((s.queue q).slotAt (s.queue q).ridx) = false) (hb : s.slotBytes q = .error e) (he : ∀ m, e ≠ .wait m) :
    exec (.packetTake q) s =
      .next (((s.devFail (s.queueDev q) e).setQueue q (s.queue q).forget).stopQueue q (s.queue q).widx e.status) := by
  rw [packetTake_reads h, hring, hb]
  cases e with
  | fault l => rfl
  | poison p => rfl
  | wait m => exact absurd rfl (he m)

theorem packetTake_found {q : Nat} {bytes : List Byte} (h : s.mayTake q = true)
    (hring : s.hostRing (s.queue q).ctx ((s.queue q).slotAt (s.queue q).ridx) = false) (hb : s.slotBytes q = .ok bytes) :
    exec (.packetTake q) s = s.takeSlot q bytes := by
  rw [packetTake_reads h, hring, hb]
  rfl

/-! ## Dependences (R346) -/

/-- DEPENDENCE_MET of a packet that waits on it goes by the watch. -/
theorem dependenceMet_checks {q dep : Nat} {t : Taken} (ht : s.taken.find? (fun t => t.queue = q) = some t) (hp : t.pending = false)
    (hf : t.fail = none) (hr : t.read = true) (hdep : dep ∈ t.unmet) (harm : ∀ e ∈ t.armed, e.1 ≠ dep) :
    exec (.dependenceMet q dep) s = match s.checkDepend t dep with
      | .error (.wait m) => .next (s.service m 0)
      | .error e => .next ((s.devFail (s.dependDev q dep) e).passTaken t e.status)
      | .ok (true, _) => .next ((s.devDone (s.dependDev q dep) (t.depa dep) 8).waitOn { t with met := t.met ++ [dep] })
      | .ok (false, pa) =>
        .next ((s.devDone (s.dependDev q dep) (t.depa dep) 8).waitOn { t with armed := t.armed ++ pa.toList.map fun a => (dep, a) }) := by
  change execDependenceMet q dep s = _
  rw [execDependenceMet, ht]
  simp only [hf]
  rw [if_neg (by simp [hp]), if_neg (by simp [hr]), if_neg (by simp [hdep]),
    if_neg (fun h => (List.any_eq_true.mp h).elim fun e he => harm e he.1 (of_decide_eq_true he.2))]
  rfl

theorem dependenceMet_passes {q dep st : Nat} {t : Taken} (ht : s.taken.find? (fun t => t.queue = q) = some t) (hp : t.pending = false)
    (hf : t.fail = some st) : exec (.dependenceMet q dep) s = .next (s.passTaken t st) := by
  change execDependenceMet q dep s = _
  rw [execDependenceMet, ht]
  simp only [hf]
  exact if_neg (by simp [hp])

theorem checkDepend_near {t : Taken} {dep : Nat} {p : Phys} (hx : s.devXlat (s.dependDev t.queue dep) (t.depa dep) .read = .ok p)
    (hhost : p.home ≠ .host) (hnear : ∀ pkg, p.home ≠ .remote pkg) (his : p.is = false) (hpoison : s.poisoned p.home p.pa 8 = false) :
    s.checkDepend t dep = .ok (decide (s.signedAt p.pa ≤ t.depv dep), some p.pa) := by
  obtain ⟨home, pa, is⟩ := p
  simp only at hhost hnear his hpoison
  rw [State.checkDepend, hx]
  refine (if_neg (by simp [hhost, his])).trans ?_
  cases home with
  | host => exact absurd rfl hhost
  | remote pkg => exact absurd rfl (hnear pkg)
  | hbm => exact if_neg (by simp [hpoison])
  | ld => exact if_neg (by simp [hpoison])

/-! ## Admission (R349 to R353, R359) -/

theorem exec_admission {t : Taken} {tiles above : List Nat} (hb : s.hallmark.booted = true) (hf : s.featDone = true)
    (hd : s.feature 0 = true) (hc : s.choose s.ranked = some (t, tiles, above)) : exec .admission s =
      .next (State.startPacket { s with taken := s.taken.map fun y => if above.contains y.queue && !s.hostQueue t.queue then
        { y with bypass := y.bypass + 1 } else y } t tiles) := by
  change execAdmission s = _
  rw [execAdmission, if_neg (by simp [hb, hf, hd]), hc]

/-- A packet's kernel resident on its tiles, with the report of it. -/
def State.resideKernel (s : State) (t : Taken) (tiles : List Nat) : State :=
  (s.startKernel (s.queue t.queue).ctx t.pri t.weight { t.kernel with span := s.spans } tiles).residency 0 (s.queue t.queue).ctx t.queue t.ridx 0

theorem startPacket_stopped {t : Taken} (tiles : List Nat) (h : s.hostQueue t.queue = true) : s.startPacket t tiles = s.passTaken t 0 :=
  if_pos h

/-- The same with the admission of a spanning kernel's part reported. -/
def State.enterKernel (s : State) (t : Taken) (tiles : List Nat) : State :=
  if t.npk = 0 then s.resideKernel t tiles else (s.resideKernel t tiles).report (s.queue t.queue).ctx t.npk true

theorem startPacket_enters {t : Taken} (tiles : List Nat) (h : s.hostQueue t.queue = false)
    (hd : ¬ (t.npk ≠ 0 ∧ (s.enterKernel t tiles).doomed.contains ((s.queue t.queue).ctx, s.spans) = true)) :
    s.startPacket t tiles = (s.enterKernel t tiles).passTaken t 0 := by
  rw [State.startPacket, if_neg (by simp [h])]
  exact congrArg (fun u : State => u.passTaken t 0) (if_neg hd)

theorem startPacket_single {t : Taken} (tiles : List Nat) (h : s.hostQueue t.queue = false) (hn : t.npk = 0) :
    s.startPacket t tiles = (s.resideKernel t tiles).passTaken t 0 :=
  (startPacket_enters tiles h fun hd => hd.1 hn).trans (congrArg (fun u : State => u.passTaken t 0) (if_pos hn))

theorem startPacket_spanning {t : Taken} (tiles : List Nat) (h : s.hostQueue t.queue = false) (hn : t.npk ≠ 0)
    (hd : ((s.queue t.queue).ctx, s.spans) ∉ ((s.resideKernel t tiles).report (s.queue t.queue).ctx t.npk true).doomed) :
    s.startPacket t tiles = ((s.resideKernel t tiles).report (s.queue t.queue).ctx t.npk true).passTaken t 0 := by
  have henter : s.enterKernel t tiles = (s.resideKernel t tiles).report (s.queue t.queue).ctx t.npk true := if_neg hn
  rw [← henter] at hd ⊢
  exact startPacket_enters tiles h fun hdoomed => hd (List.contains_iff_mem.mp hdoomed.2)

/-- The host's reply places a packet that fits as it says (R359, R395). -/
def State.replyGood (s : State) (t : Taken) (q : Nat) (block : List Byte) (tiles : List Nat) : Prop :=
  t.pending = true ∧ t.fail = none ∧ le block 0 8 = t.width * t.height ∧ tiles.Nodup ∧ s.kernel (s.queue q).ctx = none ∧
    (s.ctx (s.queue q).ctx).valid = true ∧ ∀ e ∈ tiles.zipIdx, s.tileFits e.1 (s.needOf t e.2) = true

theorem admissionReply_found {value : Word} {t : Taken} (block : List Byte)
    (ht : s.taken.find? (fun t => t.queue = value.toNat % 256 ∧ t.ridx = value.toNat / 2 ^ 32 ∧ t.fail ≠ some 0) = some t) :
    (s.replyGood t (value.toNat % 256) block ((List.range (t.width * t.height)).map fun i => le block (8 + 2 * i) 2) →
      s.admissionReply value block false =
        .ok (s.startPacket t ((List.range (t.width * t.height)).map fun i => le block (8 + 2 * i) 2))) ∧
    (¬ s.replyGood t (value.toNat % 256) block ((List.range (t.width * t.height)).map fun i => le block (8 + 2 * i) 2) →
      s.admissionReply value block false = s.passPacket t 5) := by
  rw [State.admissionReply, ht]
  constructor
  · rintro ⟨hpend, hfail, hlen, hnodup, hfree, hvalid, hfits⟩
    exact if_pos (by simp [hpend, hfail, hlen, hnodup, hfree, hvalid]; simpa using hfits)
  · intro hbad
    refine if_neg fun h => hbad ?_
    simp only [Bool.and_eq_true, Bool.not_false, true_and, Option.isNone_iff_eq_none, decide_eq_true_eq, List.all_eq_true] at h
    obtain ⟨⟨⟨⟨⟨⟨hpend, hfail⟩, hlen⟩, hnodup⟩, hfree⟩, hvalid⟩, hfits⟩ := h
    exact ⟨hpend, hfail, hlen, hnodup, hfree, hvalid, hfits⟩

theorem exec_areplyq_found {value : Word} {t : Taken} (hw : s.windowOpen = true) (hmbz : value.toNat / 2 ^ 8 % 2 ^ 24 = 0)
    (hassist : s.feature 0 = false) (hf : s.featDone = true)
    (ht : s.taken.find? (fun t => t.queue = value.toNat % 256 ∧ t.ridx = value.toNat / 2 ^ 32 ∧ t.fail ≠ some 0) = some t)
    (hreach : s.areplya.toNat + (8 + 2 * (t.width * t.height)) ≤ hostReach)
    (hclean : s.poisoned .host s.areplya.toNat (8 + 2 * (t.width * t.height)) = false) :
    exec (.areplyq value) s =
      .next (s.replyOr value (Memory.readBytes s.host s.areplya.toNat (8 + 2 * (t.width * t.height))) false) := by
  change execAreplyq value s = _
  rw [execAreplyq, if_neg (by simp only [hw, hassist, hf]; simpa using hmbz), ht]
  simp only [hclean, Bool.false_or, decide_eq_false (show ¬ hostReach < s.areplya.toNat + (8 + 2 * (t.width * t.height)) by omega)]
  rfl

theorem replyOr_ok {value : Word} {block : List Byte} {bad : Bool} {u : State} (h : s.admissionReply value block bad = .ok u) :
    s.replyOr value block bad = u := by
  rw [State.replyOr, h]

/-! ## Completion (R355) -/

/-- KERNEL_COMPLETE of a kernel that is done frees its tiles and goes by its completion signal word. -/
theorem exec_kernelComplete_done {ctx : Nat} {k : Kernel} (hk : s.kernel ctx = some k) (hdone : k.released = true ∨ s.kernelDone ctx = true) :
    exec (.kernelComplete ctx) s =
      if k.killed then .next (((s.freeKernel ctx).notice ctx (noticeBytes 0x43 ctx [])).endKernel ctx)
      else if k.csig = 0 then .next ((s.freeKernel ctx).endKernel ctx)
      else match (s.freeKernel ctx).decrement ctx k.csig.toNat with
        | .ok u => .next (u.endKernel ctx)
        | .error (.wait m) => .next ((s.freeKernel ctx).service m 1)
        | .error e => .next ((((s.freeKernel ctx).devFail ⟨ctx, 8, .kernel⟩ e).notice ctx
            (noticeBytes 0x42 ctx (leBytes 4 0 ++ leBytes 8 k.csig.toNat ++ leBytes 1 e.status))).endKernel ctx) := by
  change execKernelComplete ctx s = _
  rw [execKernelComplete, hk]
  refine if_neg fun h => ?_
  rcases hdone with h' | h' <;> simp [h'] at h

/-! ## LAUNCH (R356) -/

theorem not_copiedBy {x : Queue} {id : Nat} (h : ∀ o e, x.copying = some o → o ≠ id → s.req o = some e → e.performed = true) :
    s.copiedBy x id = false := by
  rw [State.copiedBy, Option.any_eq_false]
  intro o ho
  by_cases hid : o = id
  · simp [hid]
  · cases he : s.req o with
    | none => simp
    | some e => simp [h o e ho hid he]

theorem exec_launchCopy_room {id : Nat} {r : Req} {q : Nat} {waiting : Bool} {bytes : List Byte} {s1 : State} (hr : s.req id = some r)
    (hk : r.kind = .launch q waiting) (hperf : r.performed = false) (hfault : r.faultHeld = false) (hheld : s.isHeld id = false) (hq : q < 256)
    (hturn : if waiting then (s.launchWaits q).head? = some id else s.launchWaits q = [])
    (hcopy : ∀ o e, (s.queue q).copying = some o → o ≠ id → s.req o = some e → e.performed = true)
    (hen : (s.queue q).en = true) (hdev : (s.queue q).dev = true) (hctx : (s.queue q).lctx = r.ref.ctx)
    (hread : s.devRead ⟨r.ref.ctx, 8, .req id⟩ r.va.toNat 64 = .ok bytes) (hok : launchOk bytes = true)
    (hroom : (s.queue q).waiting < (s.queue q).size) (hring : s.hostRing (s.queue q).ctx ((s.queue q).slotAt (s.queue q).widx) = false)
    (hwrite : s.devWrites ⟨(s.queue q).ctx, 8, .req id⟩ [((s.queue q).slotAt (s.queue q).widx + 2, bytes.drop 2),
      ((s.queue q).slotAt (s.queue q).widx + 1, [0]), ((s.queue q).slotAt (s.queue q).widx, [1])] = .ok (none, s1)) :
    exec (.launchCopy id) s = .next (State.answer { (s1.devDone ⟨r.ref.ctx, 8, .req id⟩ r.va.toNat 64).setQueue q { s.queue q with
        widx := ((s.queue q).widx + 1) % 2 ^ 32, idle := false, copying := none } with launchq := s1.launchq.filter (· ≠ id) } id .ok []) := by
  have hfirst : ¬ (waiting = true ∧ (s.launchWaits q).head? ≠ some id) := fun h => by
    rw [h.1, if_pos rfl] at hturn
    exact h.2 hturn
  have hnone : ¬ (!waiting ∧ (s.queue q).copying ≠ some id ∧ s.launchWaits q ≠ []) := fun h => by
    rw [(Bool.not_eq_true' waiting).mp h.1] at hturn
    exact h.2.2 hturn
  change execLaunchCopy id s = _
  rw [execLaunchCopy, hr]
  simp only [hk]
  rw [if_neg (by simp only [hperf, hfault, hheld, not_copiedBy hcopy]; simpa using hfirst), if_neg (by simp [hen, hdev, hctx]; omega), hread]
  simp only
  rw [if_neg (by simp [hok]), if_neg (by rintro (h | h); omega; exact hnone h), if_neg (by simp [hring]), hwrite]
  rfl

/-! ## Spanning kernels (R402) -/

/-- A spanning kernel of which this package has taken its part and not decided it. -/
def State.undecided (s : State) (ctx : Nat) (k : Kernel) : Prop := s.kernel ctx = some k ∧ k.npk ≠ 0 ∧ k.started = false ∧ k.killed = false

theorem filter_kernel_of_undecided {ctx : Nat} {k : Kernel} (h : s.undecided ctx k) :
    (s.kernel ctx).filter (fun k => decide (k.npk ≠ 0) && !k.started && !k.killed) = some k := by
  obtain ⟨hk, hn, hstart, hkill⟩ := h
  simp [hk, Option.filter, hn, hstart, hkill]

theorem filter_kernel_of_not_undecided {ctx : Nat} (h : ∀ k, ¬ s.undecided ctx k) :
    (s.kernel ctx).filter (fun k => decide (k.npk ≠ 0) && !k.started && !k.killed) = none := by
  cases hk : s.kernel ctx with
  | none => rfl
  | some k =>
    refine if_neg fun hall => h k ⟨hk, ?_⟩
    simpa [and_assoc] using hall

theorem decided_all {ctx n npk : Nat} (h0 : s.pkgSelf ctx = 0) (h : ∀ i < npk, (ctx, n, i + 1, true) ∈ s.reports) :
    s.decided ctx n npk true = true := by
  rw [State.decided, if_neg (by simp [h0]), if_pos rfl, State.allAdmitted]
  simpa using h

theorem decided_refused {ctx n i : Nat} (npk : Nat) (h0 : s.pkgSelf ctx = 0) (h : (ctx, n, i, false) ∈ s.reports) :
    s.decided ctx n npk false = true := by
  rw [State.decided, if_neg (by simp [h0]), if_neg Bool.false_ne_true, State.anyRefused]
  exact List.any_eq_true.mpr ⟨_, h, by simp⟩

theorem decided_told {ctx n : Nat} {ok : Bool} (npk : Nat) (h0 : s.pkgSelf ctx ≠ 0) (h : (ctx, n, 0, ok) ∈ s.reports) :
    s.decided ctx n npk ok = true := by
  rw [State.decided, if_pos h0]
  exact List.contains_iff_mem.mpr h

/-- What a decision on a part that has been taken comes to. -/
theorem exec_spanningRelease_decided {ctx : Nat} {k : Kernel} {ok : Bool} (hk : s.undecided ctx k) (hd : s.decided ctx k.span k.npk ok = true) :
    exec (.spanningRelease ctx ok) s = .next (
      let u := if s.pkgSelf ctx = 0 then (s.dropReports ctx k.span).tellAll ctx k.span k.npk ok else s.dropReports ctx k.span
      if ok then ((u.unkeepPorts ctx).bindRest ctx k).readyKernel ctx else u.killKernel ctx) := by
  change execSpanningRelease ctx ok s = _
  rw [execSpanningRelease, filter_kernel_of_undecided hk]
  exact if_neg (by simp [hd])

theorem bindRest_spanning {ctx : Nat} {k : Kernel} (hn : k.npk ≠ 0) :
    s.bindRest ctx k = (k.binds.dropWhile (s.nearBind ctx)).foldl (fun u w => u.bindEntry ctx w) s := by
  rw [State.bindRest, State.lateBinds, if_neg hn]

theorem exec_spanningRelease_early {ctx : Nat} (h : ∀ k, ¬ s.undecided ctx k) : exec (.spanningRelease ctx true) s = .next s := by
  change execSpanningRelease ctx true s = _
  rw [execSpanningRelease, filter_kernel_of_not_undecided h]
  exact if_pos (.inl rfl)

/-- A refusal of a part that is not taken yet is kept for its admission; package 0 tells the others. -/
theorem exec_spanningRelease_doomed {ctx : Nat} (h : ∀ k, ¬ s.undecided ctx k) (hd : s.decided ctx s.spans 0 false = true)
    (hnew : (ctx, s.spans) ∉ s.doomed) : exec (.spanningRelease ctx false) s =
      let u : State := { s.dropReports ctx s.spans with doomed := s.doomed ++ [(ctx, s.spans)] }
      if s.pkgSelf ctx ≠ 0 then .next u
      else match s.nextSpan ctx with
        | some t => .next (u.tellAll ctx s.spans t.npk false)
        | none => .next s := by
  have hdoom : s.doom ctx s.spans = { s.dropReports ctx s.spans with doomed := s.doomed ++ [(ctx, s.spans)] } :=
    if_neg (by simpa using hnew)
  change execSpanningRelease ctx false s = _
  rw [execSpanningRelease, filter_kernel_of_not_undecided h]
  simp only [hdoom]
  exact if_neg (by simp [hd])

end

/-- Settles O51: each clause is one case of its step, by the equation of that case. -/
theorem sortingOffice : Obligations.SortingOffice := by
  unfold Obligations.SortingOffice
  intro s
  refine ⟨?notify, ?packetTake, ?depend, fun t tiles above hb hf hd hc => exec_admission hb hf hd hc,
    fun t tiles => ⟨startPacket_stopped tiles, startPacket_single tiles, startPacket_spanning tiles, fun st u h => passTaken_passed h,
      fun st m u h => passTaken_waits h⟩, ?areplyq, ?complete,
    fun id r q waiting bytes s1 hr hk hperf hfault hheld hq hturn hcopy hen hdev hctx hread hok hroom hring hwrite =>
      exec_launchCopy_room hr hk hperf hfault hheld hq hturn hcopy hen hdev hctx hread hok hroom hring hwrite, ?spanning⟩
  case notify =>
    intro q value hq hw
    exact ⟨exec_notify_dropped value hq hw,
      fun hf hen hdev hlow hnear => (exec_notify_taken value hq hw hf hen hdev).trans (if_neg (by rintro (h | h) <;> omega)),
      fun hf hen hdev hbad => (exec_notify_taken value hq hw hf hen hdev).trans (if_pos hbad)⟩
  case packetTake =>
    intro q
    refine ⟨fun t ht => ⟨?own, fun hf u s3 hr => ?reads, fun st u hf hu =>
      (packetTake_goesOn ht).trans ((readPacket_failed hf).trans (congrArg _ (passTaken_passed hu)))⟩,
      fun hmay => ⟨mayTake_untaken hmay, packetTake_hostRing hmay, fun e hring hb he => packetTake_lost hmay hring hb he,
        fun bytes hring hb => ?slot⟩⟩
    case own =>
      have hsel := List.find?_some ht
      simp only [Bool.and_eq_true, decide_eq_true_eq] at hsel
      exact hsel.1
    case reads =>
      have hgood := packetTake_good (packetTake_goesOn ht) hf hr
      have hbad := fun w => packetTake_bad (w := w) (packetTake_goesOn ht) hf hr
      exact ⟨hgood, hbad⟩
    case slot =>
      have hexec := packetTake_found hmay hring hb
      refine ⟨fun hno => hexec.trans (if_pos hno), fun hvalid hstop => hexec.trans (takeSlot_hostRing hvalid hstop),
        fun hvalid hgo => ⟨fun hok u s3 hr => ?good, fun u hbad hu => ?bad⟩⟩
      case good =>
        have hread := hexec.trans (takeSlot_good hvalid hgo hok)
        have hgood := packetTake_good hread rfl hr
        have hbad := fun w => packetTake_bad (w := w) hread rfl hr
        exact ⟨hgood, hbad⟩
      case bad =>
        exact hexec.trans ((takeSlot_bad hvalid hgo hbad).trans (congrArg _ (passTaken_passed hu)))
  case depend =>
    intro q dep t ht hp
    have hq : t.queue = q := by simpa using List.find?_some ht
    refine ⟨fun st u hf hu => (dependenceMet_passes ht hp hf).trans (congrArg _ (passTaken_passed hu)), fun hf hr hdep harm => ?_,
      fun p hx hhost hnear his hpoison => checkDepend_near (hq ▸ hx) hhost hnear his hpoison⟩
    have hexec := dependenceMet_checks ht hp hf hr hdep harm
    refine ⟨fun pa hc => ?_, fun pa hc => ?_, fun e u hc he hu => ?_⟩
    · rw [hexec, hc]
      rfl
    · rw [hexec, hc]
      rfl
    · rw [hexec, hc]
      cases e with
      | wait m => exact absurd rfl (he m)
      | fault l => exact congrArg _ (passTaken_passed hu)
      | poison p => exact congrArg _ (passTaken_passed hu)
  case areplyq =>
    intro value t hw hmbz hassist hf ht c a n block tiles good hreach hclean
    have hexec := exec_areplyq_found hw hmbz hassist hf ht hreach hclean
    obtain ⟨hplace, hrefuse⟩ := admissionReply_found block ht
    exact ⟨fun hg => hexec.trans (congrArg _ (replyOr_ok (hplace hg))),
      fun s1 hg hs1 => hexec.trans (congrArg _ (replyOr_ok ((hrefuse hg).trans hs1)))⟩
  case complete =>
    intro ctx k hk hdone
    have hexec := exec_kernelComplete_done hk hdone
    refine ⟨fun hkill => hexec.trans (if_pos hkill), fun hlive hc => hexec.trans ((if_neg (by simp [hlive])).trans (if_pos hc)),
      fun s2 hlive hc hdec => hexec.trans ((if_neg (by simp [hlive])).trans ((if_neg hc).trans ?_)),
      fun m hlive hc hdec => hexec.trans ((if_neg (by simp [hlive])).trans ((if_neg hc).trans ?_))⟩
    · rw [hdec]
    · rw [hdec]
  case spanning =>
    intro ctx
    refine ⟨fun k hk => ⟨fun h0 hall => ?_, fun h0 hno => ?_, fun h0 hyes => ?_, fun h0 hno => ?_⟩,
      fun hnone => ⟨exec_spanningRelease_early hnone, fun hnew => ⟨fun h0 hno => ?_, fun t i h0 ht hno => ?_⟩⟩⟩
    · rw [exec_spanningRelease_decided hk (decided_all h0 hall), if_pos h0, if_pos rfl, bindRest_spanning hk.2.1]
      rfl
    · obtain ⟨i, hi⟩ := hno
      rw [exec_spanningRelease_decided hk (decided_refused k.npk h0 hi), if_pos h0]
      rfl
    · rw [exec_spanningRelease_decided hk (decided_told k.npk h0 hyes), if_neg h0, if_pos rfl, bindRest_spanning hk.2.1]
      rfl
    · rw [exec_spanningRelease_decided hk (decided_told k.npk h0 hno), if_neg h0]
      rfl
    · exact (exec_spanningRelease_doomed hnone (decided_told 0 h0 hno) hnew).trans (if_pos h0)
    · refine (exec_spanningRelease_doomed hnone (decided_refused 0 h0 hno) hnew).trans ((if_neg (by simp [h0])).trans ?_)
      rw [ht]
      rfl

end Sys2Proof.Machine
end

section
/-! PROOFS. System instructions as they issue (O40) -/

namespace Sys2Proof.Machine

/-! ## Issue (R365, R377 to R383, R387, R388) -/

/-- The request of a system instruction. -/
def State.system (s : State) (t : Threadlet) (i : Instr) (k : ReqKind) (q : Target) (w : Nat) : Req :=
  s.asked t i ⟨k, 0, false, w, .relaxed, .frame, q⟩

theorem newReq_eq_system (s : State) (t : Threadlet) (i : Instr) (k : ReqKind) (q : Target) (w : Nat) :
    s.newReq (s.view t) (firstWord i) (s.destOf (s.view t) q w) k 0 .relaxed .frame false = s.system t i k q w := by
  cases q <;> rfl

section
variable {s : State} {t : Threadlet} {i : Instr} {body : State → View → Res} {l : List (List Operand × Bool × Nat)} {sources : List Operand}

/-- A system instruction that passes its checks adds its request, does what it does at once, and retires. -/
theorem exec_of_sysIssue {q : Req} {f : State → State} (h : Executes s t i) (hclean : s.poisonedSource t sources = none)
    (hi : exec i s = issue i s body) (hb : body s (s.view t) = s.sysIssue (s.view t) l sources q f) (hl : ∀ c ∈ l, c.2.1 = false) :
    exec i s = .next ((f (s.addReq q)).retired s.cur t.pc i t 0) :=
  exec_of_retire h hi (by rw [hb, State.sysIssue, checked_all_pass hl hclean]; rfl)

variable {g : Guard} {d x y : Operand} {q : Target}

theorem exec_halt (h : Executes s t (.halt g x)) (hflags : t.badFlags = false) (hcode : (s.readOp (s.view t) x).toNat < 0xFFFF0000) :
    exec (.halt g x) s =
      .next (((s.haltWith ((s.readOp (s.view t) x).setWidth 32)).endThreadlet (s.view t)).finishPart t.ctx t.ltn) :=
  exec_of_ended h rfl ((if_neg (Nat.not_le.mpr hcode)).trans (if_neg (by rw [view_t, hflags]; exact Bool.false_ne_true)))

theorem exec_sysr (h : Executes s t (.sysr g d x q)) (hc : s.readCause t.ctx (s.readOp (s.view t) x) = none) :
    exec (.sysr g d x q) s = .next (((s.addReq (s.system t (.sysr g d x q) (.sysr (s.readOp (s.view t) x)) q (wordIndex d))).readSys
      s.nextId).retired s.cur t.pc (.sysr g d x q) t 0) := by
  refine (exec_of_sysIssue h (sources_clean h rfl rfl) rfl rfl ?_).trans (by rw [newReq_eq_system]; rfl)
  simp [hc]

theorem exec_sysw (h : Executes s t (.sysw g x y q)) (hc : s.writeCause (s.readOp (s.view t) x) (s.readOp (s.view t) y) = none) :
    exec (.sysw g x y q) s = .next ((s.addReq (s.system t (.sysw g x y q) (.sysw (s.readOp (s.view t) x) (s.readOp (s.view t) y)) q
      0xFF)).retired s.cur t.pc (.sysw g x y q) t 0) := by
  have hrow : (selRow (s.readOp (s.view t) x)).isNone = false := by
    cases hr : selRow (s.readOp (s.view t) x) with
    | none => simp [State.writeCause, hr] at hc
    | some r => rfl
  refine (exec_of_sysIssue h (sources_clean h rfl rfl) rfl rfl ?_).trans (by rw [newReq_eq_system]; rfl)
  simp [hc, hrow]

theorem exec_fres {k : FresKind} (h : Executes s t (.fres g k x y q)) (hx : (s.readOp (s.view t) x).toNat ≤ 63)
    (hy : (s.readOp (s.view t) y).toNat < 2 ^ 32) : exec (.fres g k x y q) s = .next (((s.addReq (s.system t (.fres g k x y q)
      (.fres k (s.readOp (s.view t) x).toNat (s.readOp (s.view t) y).toNat) q 0xFF)).fresStep s.nextId).retired s.cur t.pc (.fres g k x y q) t 0) := by
  refine (exec_of_sysIssue h (sources_clean h rfl rfl) rfl rfl ?_).trans (by rw [newReq_eq_system]; rfl)
  simp
  omega

/-- A TLBI's operands that it does not use are r0, so that neither X nor Y is poisoned. -/
theorem tlbiSources_clean {k : TlbiKind} (h : Executes s t (.tlbi g k x y q)) : s.poisonedSource t [x, y] = none := by
  have hcoded := coded_of_executes h rfl
  cases k with
  | page => exact sources_clean h rfl rfl
  | ctx =>
    obtain rfl : y = .w 0 := by simpa using hcoded
    have hx : s.poisonedSource t [x] = none := sources_clean h rfl rfl
    simp only [State.poisonedSource, List.findSome?_eq_none_iff] at hx ⊢
    simpa using hx
  | all =>
    obtain ⟨rfl, rfl⟩ : x = .w 0 ∧ y = .w 0 := by simpa using hcoded
    rfl

theorem exec_tlbi {k : TlbiKind} (h : Executes s t (.tlbi g k x y q)) (hx : k = .all ∨ (s.readOp (s.view t) x).toNat ≤ 63) :
    exec (.tlbi g k x y q) s = .next (((s.addReq (s.system t (.tlbi g k x y q) (.tlbi []) q 0xFF)).tlbiStart
      (s.system t (.tlbi g k x y q) (.tlbi []) q 0xFF) k (s.readOp (s.view t) x).toNat (s.readOp (s.view t) y).toNat).retired
      s.cur t.pc (.tlbi g k x y q) t 0) := by
  refine (exec_of_sysIssue h (tlbiSources_clean h) rfl rfl ?_).trans (by rw [newReq_eq_system])
  rcases hx with rfl | hx
  · simp
  · simp [hx]

/-- TMAP's datum: the hold state, and the contexts resident on the tile (R381). -/
def State.tmapDatum (s : State) (n : Nat) : Word := BitVec.ofNat 64 ((if (s.tile n).hold then 1 else 0) + (s.ctxsOn n).length % 8 * 2 ^ 8)

theorem exec_tmap_refused (h : Executes s t (.tmap g d x q)) (hx : (s.readOp (s.view t) x).toNat ≤ 1)
    (hsel : (s.ctx t.ctx).tsel.getLsbD 63 = false) : exec (.tmap g d x q) s =
      .next ((s.addReq ((s.system t (.tmap g d x q) .answered q (wordIndex d)).done .refused [])).retired s.cur t.pc (.tmap g d x q) t 0) := by
  refine (exec_of_sysIssue h (sources_clean h rfl rfl) rfl rfl ?_).trans ?_
  · simp [hx]
  · simp only [view_t, hsel, newReq_eq_system]
    rfl

theorem exec_tmap_holds (h : Executes s t (.tmap g d x q)) (hx : (s.readOp (s.view t) x).toNat ≤ 1)
    (hsel : (s.ctx t.ctx).tsel.getLsbD 63 = true) : exec (.tmap g d x q) s =
      .next ((((s.addReq ((s.system t (.tmap g d x q) .answered q (wordIndex d)).done .ok
        [some (s.tmapDatum ((s.ctx t.ctx).tsel.toNat % 2 ^ 13))])).setTile ((s.ctx t.ctx).tsel.toNat % 2 ^ 13)
        { (s.addReq ((s.system t (.tmap g d x q) .answered q (wordIndex d)).done .ok
          [some (s.tmapDatum ((s.ctx t.ctx).tsel.toNat % 2 ^ 13))])).tile ((s.ctx t.ctx).tsel.toNat % 2 ^ 13) with
          hold := decide (s.readOp (s.view t) x = 0) })).retired s.cur t.pc (.tmap g d x q) t 0) := by
  refine (exec_of_sysIssue h (sources_clean h rfl rfl) rfl rfl ?_).trans ?_
  · simp [hx]
  · simp only [view_t, hsel, newReq_eq_system]
    rfl

/-- A request that is refused at once does nothing more. -/
theorem refusedAtOnce (no : Bool) (r : Req) (f : State → State) :
    (if no then s.addReq (if no then r.done .refused [] else r) else f (s.addReq (if no then r.done .refused [] else r))) =
      if no then s.addReq (r.done .refused []) else f (s.addReq r) := by
  cases no <;> rfl

theorem exec_evictSave {c n : Nat} {no : Bool} (h : Executes s t (.evictSave g x q)) (hx : (s.readOp (s.view t) x).toNat < 2 ^ 18)
    (hc : tileCtx (s.readOp (s.view t) x) = c) (hn : tileLtn (s.readOp (s.view t) x) = n)
    (hno : (s.evictRefused c n .resident || (decide (c = t.ctx) && decide (n = t.ltn))) = no) :
    exec (.evictSave g x q) s = .next ((if no then s.addReq ((s.system t (.evictSave g x q) (.evict c n) q 0xFF).done .refused []) else
      ((s.addReq (s.system t (.evictSave g x q) (.evict c n) q 0xFF)).stopTile c n
        ((s.addReq (s.system t (.evictSave g x q) (.evict c n) q 0xFF)).homePtn c n)).evictStep s.nextId).retired
      s.cur t.pc (.evictSave g x q) t 0) := by
  subst hc hn
  refine (exec_of_sysIssue h (sources_clean h rfl rfl) rfl rfl (by simpa using hx)).trans ?_
  have hview : (s.evictRefused (tileCtx (s.readOp (s.view t) x)) (tileLtn (s.readOp (s.view t) x)) .resident ||
    (decide (tileCtx (s.readOp (s.view t) x) = (s.view t).t.ctx) && decide (tileLtn (s.readOp (s.view t) x) = (s.view t).t.ltn))) = no := hno
  rw [newReq_eq_system, hview]
  exact congrArg (fun u : State => Host.Outcome.next (u.retired s.cur t.pc (.evictSave g x q) t 0)) (refusedAtOnce no _ fun u =>
    (u.stopTile _ _ (u.homePtn _ _)).evictStep s.nextId)

theorem exec_evictRestore {c n : Nat} {no : Bool} (h : Executes s t (.evictRestore g x q)) (hx : (s.readOp (s.view t) x).toNat < 2 ^ 18)
    (hc : tileCtx (s.readOp (s.view t) x) = c) (hn : tileLtn (s.readOp (s.view t) x) = n) (hno : s.evictRefused c n .away = no) :
    exec (.evictRestore g x q) s = .next ((if no then
        s.addReq ((s.system t (.evictRestore g x q) (.restore c n (s.ctx t.ctx).tsel) q 0xFF).done .refused [])
      else (s.addReq (s.system t (.evictRestore g x q) (.restore c n (s.ctx t.ctx).tsel) q 0xFF)).restoreStep s.nextId).retired
      s.cur t.pc (.evictRestore g x q) t 0) := by
  subst hc hn
  refine (exec_of_sysIssue h (sources_clean h rfl rfl) rfl rfl (by simpa using hx)).trans ?_
  rw [newReq_eq_system, hno]
  exact congrArg (fun u : State => Host.Outcome.next (u.retired s.cur t.pc (.evictRestore g x q) t 0)) (refusedAtOnce no _ fun u =>
    u.restoreStep s.nextId)

theorem exec_dloctl (h : Executes s t (.dloctl g x y q)) (hx : (s.readOp (s.view t) x).toNat ≤ 63) (hy : (s.readOp (s.view t) y).toNat ≤ 2) :
    let s1 := s.addReq ((s.system t (.dloctl g x y q) .answered q 0xFF).done .ok [])
    exec (.dloctl g x y q) s = .next ((s1.setCtx (s.readOp (s.view t) x).toNat { s1.ctx (s.readOp (s.view t) x).toNat with
      dlm := (s.readOp (s.view t) y).toNat }).retired s.cur t.pc (.dloctl g x y q) t 0) := by
  refine (exec_of_sysIssue h (sources_clean h rfl rfl) rfl rfl ?_).trans (by rw [newReq_eq_system])
  simp [hx, hy]

end

end Sys2Proof.Machine
end

section
/-! PROOFS. What FRES and TLBI do (O40) -/

namespace Sys2Proof.Machine

/-! ## FRES (R378, R379) -/

section
variable {s : State}

/-- A number in a trap record. -/
def trapNum (bs : List Byte) (o k : Nat) : Nat := ofLeBytes ((bs.drop o).take k)

/-- The frame that a trap record of a context names. -/
def trapFrame (c : Nat) (bs : List Byte) : FrameRef :=
  ⟨c, contLtn (BitVec.ofNat 64 (trapNum bs 8 8)), contCore (BitVec.ofNat 64 (trapNum bs 8 8)), contFrm (BitVec.ofNat 64 (trapNum bs 8 8))⟩

/-- What the context keeps of the threadlet that the record saves. -/
def State.trapKept (s : State) (c n : Nat) (bs : List Byte) : Option Saved :=
  (Tab.find (s.ctx c).saved (n % s.trapSize c)).filter fun k =>
    decide (k.ref = trapFrame c bs) && decide (k.rtag = contRtag (BitVec.ofNat 64 (trapNum bs 8 8)))

/-- A record from which FRES returns (R378). -/
def State.returns (s : State) (c n : Nat) (bs : List Byte) : Prop :=
  trapNum bs 0 1 ≠ 0 ∧ trapNum bs 0 1 < 0x40 ∧ ¬ (trapNum bs 0 1 = 0x20 ∧ trapNum bs 4 4 ≠ 0) ∧
    (∃ f, s.frame (trapFrame c bs) = some f ∧ f.st = .parked ∧ f.rtag = contRtag (BitVec.ofNat 64 (trapNum bs 8 8)) ∧ f.nt ≠ 0) ∧
    (∀ k, s.trapKept c n bs = some k → k.dead = false) ∧ recordMbz bs = true

theorem isDeadlock_iff (bs : List Byte) : isDeadlock bs = true ↔ trapNum bs 0 1 = 0x20 ∧ trapNum bs 4 4 ≠ 0 := by
  simp [isDeadlock, trapNum]

/-- FRES's own test, and what it tests. -/
theorem refuses_iff_not_returns (c n : Nat) (bs : List Byte) :
    (trapNum bs 0 1 = 0 ∨ 0x40 ≤ trapNum bs 0 1 ∨ isDeadlock bs ∨
      !(s.frame (trapFrame c bs)).any (fun f => decide (f.st = .parked ∧ f.rtag = contRtag (BitVec.ofNat 64 (trapNum bs 8 8)) ∧ f.nt ≠ 0)) ∨
      (s.trapKept c n bs).any (·.dead) ∨ !recordMbz bs) ↔ ¬ s.returns c n bs := by
  rw [isDeadlock_iff, State.returns]
  simp only [Bool.not_eq_true', Option.any_eq_true, Option.any_eq_false]
  constructor
  · rintro (h | h | h | h | ⟨k, hk, hd⟩ | h) ⟨h1, h2, h3, ⟨f, hf, hg⟩, h5, h6⟩
    · exact h1 h
    · omega
    · exact h3 h
    · exact absurd (decide_eq_true hg) (h f hf ▸ Bool.false_ne_true)
    · rw [h5 k hk] at hd
      exact Bool.false_ne_true hd
    · rw [h6] at h
      exact Bool.false_ne_true h.symm
  · intro h
    by_contra hall
    simp only [not_or, not_le, Bool.not_eq_false, not_forall, not_exists, not_and, not_not, Bool.not_eq_true] at hall
    obtain ⟨h1, h2, h3, ⟨f, hf, hg⟩, h5, h6⟩ := hall
    exact h ⟨h1, h2, fun hd => hd.2 (h3 hd.1), ⟨f, hf, of_decide_eq_true hg⟩, h5, h6⟩

theorem fres_refused {d : Dev} {k : FresKind} {n : Nat} {bs : List Byte} (hr : s.devRead d (s.trapEntry d.ctx n) 4096 = .ok bs)
    (hbad : ¬ s.returns d.ctx n bs) : s.fres d k n isDeadlock = .ok (.refused, s.devDone d (s.trapEntry d.ctx n) 4096) := by
  rw [State.fres]
  simp only [hr]
  exact if_pos ((refuses_iff_not_returns d.ctx n bs).mpr hbad)

/-- The threadlet that a record saves, as it goes on (R379). -/
def State.trapResume (s : State) (c : Nat) (k : FresKind) (kept : Option Saved) (bs : List Byte) : Ready :=
  let image := threadOfImage (trapFrame c bs) (bs.drop 512)
  let pc : Word := if k = .skip then BitVec.ofNat 64 (trapNum bs 16 8 + (if trapNum bs 24 8 / 2 ^ 56 = 0x3B then 16 else 8)) else image.pc
  let sig := (kept.map (·.sig)).getD image.sig
  let cls := (kept.map (·.cls)).getD (readyClass (s.ctx c).cls false)
  ⟨(trapFrame c bs).frm, sig.toNat % 8, 0, sig, cls, some { image with pc := pc, sig := sig, cls := cls }, false⟩

/-- The address past the instruction that a record names. -/
theorem skip_pc (n : Nat) (long : Prop) [Decidable long] :
    (BitVec.ofNat 64 (n + if long then 16 else 8) : Word) = BitVec.ofNat 64 n + if long then 16 else 8 := by
  split <;> exact BitVec.ofNat_add _ _

/-- A trap closed, and the core's rotations after it. -/
def State.endTrap (s : State) (r : FrameRef) : State := (s.closeTrap r).settleCore r.ctx r.ltn r.core

section
variable {d : Dev} {k : FresKind} {n : Nat} {bs : List Byte} {s1 : State} (hr : s.devRead d (s.trapEntry d.ctx n) 4096 = .ok bs)
  (hgood : s.returns d.ctx n bs) (hw : s.devWrite d (s.trapEntry d.ctx n) [0] = .ok s1)
include hr hgood hw

theorem fres_kill : s.fres d .kill n isDeadlock =
    .ok (.ok, (s1.devDone d (s.trapEntry d.ctx n) 4096).killFrame (trapFrame d.ctx bs)) := by
  rw [State.fres]
  simp only [hr]
  refine (if_neg fun h => (refuses_iff_not_returns d.ctx n bs).mp h hgood).trans ?_
  simp only [hw]
  rfl

/-- FRES.retry and FRES.skip of a frame whose record saves no threadlet. -/
theorem fres_close (hk : k ≠ .kill) (hseat : trapNum bs 2 1 % 2 = 0) :
    s.fres d k n isDeadlock = .ok (.ok, (s1.devDone d (s.trapEntry d.ctx n) 4096).endTrap (trapFrame d.ctx bs)) := by
  have hno : ¬ decide (ofLeBytes ((bs.drop 2).take 1) % 2 = 1) = true := by
    change trapNum bs 2 1 % 2 = 0 at hseat
    simp only [trapNum] at hseat
    simp [hseat]
  rw [State.fres]
  simp only [hr]
  refine (if_neg fun h => (refuses_iff_not_returns d.ctx n bs).mp h hgood).trans ?_
  simp only [hw]
  cases k with
  | kill => exact absurd rfl hk
  | retry =>
    simp only
    rw [if_neg hno]
    rfl
  | skip =>
    simp only
    rw [if_neg hno]
    rfl

/-- The same where the record saves one. -/
theorem fres_resume (hk : k ≠ .kill) (hseat : trapNum bs 2 1 % 2 = 1) : s.fres d k n isDeadlock =
    .ok (.ok, ((s1.devDone d (s.trapEntry d.ctx n) 4096).pushLate (trapFrame d.ctx bs)
      ((s1.devDone d (s.trapEntry d.ctx n) 4096).trapResume d.ctx k (s.trapKept d.ctx n bs) bs)).endTrap (trapFrame d.ctx bs)) := by
  have hyes : decide (ofLeBytes ((bs.drop 2).take 1) % 2 = 1) = true := decide_eq_true hseat
  rw [State.fres]
  simp only [hr]
  refine (if_neg fun h => (refuses_iff_not_returns d.ctx n bs).mp h hgood).trans ?_
  simp only [hw]
  cases k with
  | kill => exact absurd rfl hk
  | retry =>
    simp only
    rw [if_pos hyes]
    simp only [State.trapResume, reduceCtorEq, if_false]
    rfl
  | skip =>
    simp only
    rw [if_pos hyes]
    simp only [State.trapResume, if_true, skip_pc]
    rfl

end

section
variable {id : Nat} {q : Req} (hq : s.req id = some q)
include hq

theorem fresStep_of_fres {k : FresKind} {c n : Nat} {st : Status} {u : State} (hk : q.kind = .fres k c n)
    (hf : s.fres (s.reqDev c q) k n isDeadlock = .ok (st, u)) : s.fresStep id = u.answer id st [] := by
  cases q
  subst hk
  simp only [State.fresStep, hq, hf]

end
end

/-! ## Frames whose traps end, and resumes (R166, R379) -/

section
variable {s : State}

theorem killFrame_eq {r : FrameRef} {f : Frame} (hf : s.frame r = some f) : s.killFrame r =
    ((((s.setPartCore r.ctx r.ltn r.core ((s.partCore r.ctx r.ltn r.core).dropEntries r.frm)).deadRecords r).setFrame r { f with
      slots := f.slots.map fun e => (e.1, { e.2 with armed := false, pn := 0 }), nt := 0, pendingFree := true, ovf := false }).settleFree r) := by
  rw [State.killFrame, hf]

theorem closeTrap_eq {r : FrameRef} {f : Frame} (hf : s.frame r = some f) : s.closeTrap r =
    ((s.setFrame r (if f.nt ≤ 1 ∧ f.st = .parked then { f with nt := 0, st := .live, ovf := f.slots.any fun e => e.2.pn ≠ 0 }
      else { f with nt := f.nt - 1 })).settleFree r).dloAgain r.ctx r.ltn := by
  rw [State.closeTrap, hf]
  simp only [Nat.sub_eq_zero_iff_le]

/-- A resume is put before the first entry of its frame and class (R379). -/
theorem insertResume_split (l : List Ready) (e : Ready) : ∃ l1 l2, l = l1 ++ l2 ∧ insertResume l e = l1 ++ e :: l2 ∧
    (∀ x ∈ l1, x.frm ≠ e.frm ∨ x.cls ≠ e.cls) ∧ ∀ x, l2.head? = some x → x.frm = e.frm ∧ x.cls = e.cls := by
  induction l with
  | nil => exact ⟨[], [], rfl, by rw [insertResume, List.nil_append], by simp, by simp⟩
  | cons y l ih =>
    by_cases hy : y.frm = e.frm ∧ y.cls = e.cls
    · exact ⟨[], y :: l, rfl, by rw [insertResume, if_pos hy, List.nil_append], by simp, fun x hx => Option.some.inj hx ▸ hy⟩
    · obtain ⟨l1, l2, hl, hins, hbefore, hhead⟩ := ih
      refine ⟨y :: l1, l2, by rw [hl, List.cons_append], by rw [insertResume, if_neg hy, hins, List.cons_append], ?_, hhead⟩
      exact List.forall_mem_cons.mpr ⟨not_and_or.mp hy, hbefore⟩

/-! ## TLBI (R380) -/

/-- Whether a TLBI drops a translation. -/
def tlbiNames (kind : TlbiKind) (c va : Nat) (e : TlbEntry) : Prop :=
  kind = .all ∨ (e.ctx = c ∧ (kind = .ctx ∨ (e.base ≤ va ∧ va < e.base + 2 ^ e.size)))

theorem maps_iff (e : TlbEntry) (c va : Nat) : e.maps c va = true ↔ e.ctx = c ∧ e.base ≤ va ∧ va < e.base + 2 ^ e.size := by
  simp [TlbEntry.maps, and_assoc]

theorem tlbiDrops_iff (kind : TlbiKind) (c va : Nat) (e : TlbEntry) : tlbiDrops kind c va e = true ↔ tlbiNames kind c va e := by
  cases kind with
  | page => simp [tlbiDrops, tlbiNames, maps_iff]
  | ctx => simp [tlbiDrops, tlbiNames]
  | all => simp [tlbiDrops, tlbiNames]

/-- A request that translated through an entry which a TLBI drops. -/
def State.tlbiUsed (s : State) (kind : TlbiKind) (c va : Nat) (r : Req) : Prop :=
  r ∈ s.reqs ∧ r.phys.isSome = true ∧
    ∃ e ∈ s.tlb, tlbiNames kind c va e ∧ e.ctx = r.ref.ctx ∧ e.base ≤ r.curVa ∧ r.curVa < e.base + 2 ^ e.size

/-- The requests that a TLBI waits for, as it collects them. -/
def State.tlbiWaits (s : State) (kind : TlbiKind) (c va : Nat) : List Req :=
  s.reqs.filter fun r => r.phys.isSome && (s.tlb.filter (tlbiDrops kind c va)).any fun e => e.maps r.ref.ctx r.curVa

theorem mem_tlbiWaits (kind : TlbiKind) (c va : Nat) (r : Req) : r ∈ s.tlbiWaits kind c va ↔ s.tlbiUsed kind c va r := by
  simp only [State.tlbiWaits, State.tlbiUsed, List.mem_filter, Bool.and_eq_true, List.any_eq_true, tlbiDrops_iff, maps_iff, and_assoc]

/-- What a TLBI waits with. -/
def State.tlbiHeld (s : State) (q : Req) (kind : TlbiKind) (c va : Nat) : Held :=
  ⟨q.ref, true, ((s.tlbiWaits kind c va).filter (·.write)).map (·.id), (s.tlbiWaits kind c va).map (·.id), .system q.id⟩

theorem tlbiStart_eq (q : Req) (kind : TlbiKind) (c va : Nat) : s.tlbiStart q kind c va =
    State.releaseHeld { s with tlb := s.tlb.filter fun e => !tlbiDrops kind c va e, held := s.held ++ [s.tlbiHeld q kind c va] } := rfl

theorem mem_tlbi_kept (kind : TlbiKind) (c va : Nat) (e : TlbEntry) :
    (e ∈ s.tlb.filter fun e => !tlbiDrops kind c va e) ↔ e ∈ s.tlb ∧ ¬ tlbiNames kind c va e := by
  rw [List.mem_filter, Bool.not_eq_true', ← tlbiDrops_iff, Bool.not_eq_true]

theorem mem_tlbiHeld_perf (q : Req) (kind : TlbiKind) (c va x : Nat) :
    x ∈ (s.tlbiHeld q kind c va).perf ↔ ∃ r, s.tlbiUsed kind c va r ∧ r.id = x := by
  simp only [State.tlbiHeld, List.mem_map, mem_tlbiWaits]

theorem mem_tlbiHeld_acks (q : Req) (kind : TlbiKind) (c va x : Nat) :
    x ∈ (s.tlbiHeld q kind c va).acks ↔ ∃ r, s.tlbiUsed kind c va r ∧ r.write = true ∧ r.id = x := by
  simp only [State.tlbiHeld, List.mem_map, List.mem_filter, mem_tlbiWaits, and_assoc]

section
variable {h : Held} {x : Nat} (hb : h.body = .system x)
include hb

theorem releaseOne_system : s.releaseOne h = s.answer x .ok [] := by
  simp only [State.releaseOne, hb]

/-- A TLBI held goes once everything that it waits for has performed and been acknowledged. -/
theorem heldReady_system : s.heldReady h = true ↔
    (s.tme h.ref.ctx h.ref.ltn).st ≠ .away ∧ (∀ y ∈ h.acks, s.acked h.pod y = true) ∧ ∀ y ∈ h.perf, s.hasPerformed y = true := by
  have hopen : s.heldOpen h = true ↔ (s.tme h.ref.ctx h.ref.ltn).st ≠ .away := by
    simp only [State.heldOpen, hb]
    cases (s.tme h.ref.ctx h.ref.ltn).st <;> simp
  have hturn : s.strmTurn h = true := by simp only [State.strmTurn, hb]
  simp only [State.heldReady, Bool.and_eq_true, hopen, hturn, List.all_eq_true, and_true, and_assoc]

end

end

end Sys2Proof.Machine
end

section
/-! PROOFS. What an eviction and a resume do, and the settlement of O40 -/

namespace Sys2Proof.Machine

/-! ## What an eviction and a resume do to seats, deques and ready queues (R387, R388) -/

/-- What every step of a fold keeps, the fold keeps. -/
theorem foldl_keeps {α β : Type} {f : State → α → State} (get : State → β) (hf : ∀ s a, get (f s a) = get s) (l : List α) (s : State) :
    get (l.foldl f s) = get s := by
  induction l generalizing s with
  | nil => rfl
  | cons a l ih => rw [List.foldl_cons, ih, hf]

section
variable {s : State}

theorem tme_setTme_same (ctx ltn : Nat) (t : Tme) : (s.setTme ctx ltn t).tme ctx ltn = t := by
  simp [State.setTme, State.tme]

theorem settleRot_tme (ptn k ctx ltn : Nat) : (s.settleRot ptn k).tme ctx ltn = s.tme ctx ltn := rfl
theorem settleRot_part (ptn k ctx ltn : Nat) : (s.settleRot ptn k).part ctx ltn = s.part ctx ltn := rfl
theorem settleRot_partCore (ptn k ctx ltn core : Nat) : (s.settleRot ptn k).partCore ctx ltn core = s.partCore ctx ltn core := rfl

/-- Threadlets that an eviction has stopped on a part. -/
def State.stoppedOn (s : State) (ctx ltn : Nat) : List (Nat × Threadlet) := (s.part ctx ltn).stopped

theorem modFrame_stoppedOn (r : FrameRef) (g : Frame → Frame) (ctx ltn : Nat) : (s.modFrame r g).stoppedOn ctx ltn = s.stoppedOn ctx ltn := by
  unfold State.modFrame
  split
  · exact part_setPart_keeps Part.stopped s (p := (s.part r.ctx r.ltn).setCore r.core _) rfl ctx ltn
  · rfl

theorem setPartCore_stoppedOn (c l k : Nat) (x : PartCore) (ctx ltn : Nat) : (s.setPartCore c l k x).stoppedOn ctx ltn = s.stoppedOn ctx ltn :=
  part_setPart_keeps Part.stopped s (p := (s.part c l).setCore k x) rfl ctx ltn

/-! ### Seats that stop -/

/-- The seats of a tile by number. -/
def seatOf (ptn n : Nat) : SeatId := ⟨ptn, n / 4, n % 4⟩

theorem seatOf_inj {ptn m n : Nat} (h : seatOf ptn m = seatOf ptn n) : m = n := by
  simp only [seatOf, SeatId.mk.injEq, true_and] at h
  omega

/-- Step 2 of EVICT.save on one seat. -/
def State.stopSeat (s : State) (ctx ltn ptn n : Nat) : State :=
  match s.seat (seatOf ptn n) with
  | .run t =>
    if t.ctx = ctx ∧ t.ltn = ltn ∧ (t.mid.any fun m => decide (m.steps ≠ 0)) = false then
      let u := s.setPart ctx ltn { s.part ctx ltn with stopped := (s.part ctx ltn).stopped ++ [(n / 4, { t with mid := none })] }
      (u.modFrame t.ref fun f => { f with runs := f.runs - 1 }).setSeat (seatOf ptn n) (.save { t with mid := none })
    else s
  | .save t =>
    if t.ctx = ctx ∧ t.ltn = ltn then
      { s with jobs := s.jobs.map fun j => if j.seat = some (seatOf ptn n) then { j with seat := none } else j }
    else s
  | .idle => s

theorem stopSeatsOf_eq (ctx ltn ptn : Nat) : s.stopSeatsOf ctx ltn ptn = (List.range 16).foldl (fun u n => u.stopSeat ctx ltn ptn n) s := rfl

theorem stopSeat_tme (ctx ltn ptn n c l : Nat) : (s.stopSeat ctx ltn ptn n).tme c l = s.tme c l := by
  unfold State.stopSeat
  split
  · split <;> simp
  · split <;> rfl
  · rfl

/-- A seat that runs a threadlet of the part, at an instruction boundary, stops. -/
theorem stopSeat_run {ctx ltn ptn n : Nat} {t : Threadlet} (hrun : s.seat (seatOf ptn n) = .run t) (hctx : t.ctx = ctx) (hltn : t.ltn = ltn)
    (hmid : ∀ m, t.mid = some m → m.steps = 0) :
    (s.stopSeat ctx ltn ptn n).seat (seatOf ptn n) = .save { t with mid := none } ∧
      (n / 4, { t with mid := none }) ∈ (s.stopSeat ctx ltn ptn n).stoppedOn ctx ltn := by
  have hbound : (t.mid.any fun m => decide (m.steps ≠ 0)) = false := by
    rw [Option.any_eq_false]
    exact fun m hm => by simp [hmid m hm]
  rw [State.stopSeat, hrun]
  simp only [hctx, hltn, hbound, and_self, if_true]
  refine ⟨State.seat_setSeat_same _ _ _, ?_⟩
  change _ ∈ (State.modFrame _ _ _).stoppedOn ctx ltn
  rw [modFrame_stoppedOn]
  simp [State.stoppedOn]

/-- The other seats stand as they did, and what has stopped stays so. -/
theorem stopSeat_other {ctx ltn ptn m n : Nat} (h : n ≠ m) :
    (s.stopSeat ctx ltn ptn m).seat (seatOf ptn n) = s.seat (seatOf ptn n) ∧
      s.stoppedOn ctx ltn ⊆ (s.stopSeat ctx ltn ptn m).stoppedOn ctx ltn := by
  have hseat : seatOf ptn n ≠ seatOf ptn m := fun e => h (seatOf_inj e)
  unfold State.stopSeat
  split
  · split
    · refine ⟨by rw [State.seat_setSeat_other _ _ hseat, State.modFrame_at_seat, State.setPart_at_seat], ?_⟩
      change _ ⊆ (State.modFrame _ _ _).stoppedOn ctx ltn
      rw [modFrame_stoppedOn]
      simp [State.stoppedOn]
    · exact ⟨rfl, List.Subset.refl _⟩
  · split <;> exact ⟨rfl, List.Subset.refl _⟩
  · exact ⟨rfl, List.Subset.refl _⟩

/-- A seat that runs a threadlet of the part has stopped as soon as its turn has come. -/
theorem stopSeats_run {ctx ltn ptn n : Nat} {t : Threadlet} (hrun : s.seat (seatOf ptn n) = .run t) (hctx : t.ctx = ctx) (hltn : t.ltn = ltn)
    (hmid : ∀ m, t.mid = some m → m.steps = 0) (m : Nat) :
    let u := (List.range m).foldl (fun u n => u.stopSeat ctx ltn ptn n) s
    (m ≤ n → u.seat (seatOf ptn n) = .run t) ∧
      (n < m → u.seat (seatOf ptn n) = .save { t with mid := none } ∧ (n / 4, { t with mid := none }) ∈ u.stoppedOn ctx ltn) := by
  induction m with
  | zero => exact ⟨fun _ => hrun, fun h => absurd h (Nat.not_lt_zero n)⟩
  | succ m ih =>
    simp only [List.range_succ, List.foldl_append, List.foldl_cons, List.foldl_nil]
    obtain ⟨hbefore, hafter⟩ := ih
    by_cases hn : n = m
    · subst hn
      exact ⟨fun h => absurd h (Nat.not_succ_le_self n), fun _ => stopSeat_run (hbefore (Nat.le_refl n)) hctx hltn hmid⟩
    · obtain ⟨hseat, hstopped⟩ := stopSeat_other (s := (List.range m).foldl (fun u n => u.stopSeat ctx ltn ptn n) s)
        (ctx := ctx) (ltn := ltn) (ptn := ptn) hn
      refine ⟨fun h => hseat.trans (hbefore (by omega)), fun h => ?_⟩
      obtain ⟨hsave, hmem⟩ := hafter (by omega)
      exact ⟨hseat.trans hsave, hstopped hmem⟩

theorem stopSeatsOf_run {ctx ltn ptn core k : Nat} {t : Threadlet} (hcore : core < 4) (hk : k < 4) (hrun : s.seat ⟨ptn, core, k⟩ = .run t)
    (hctx : t.ctx = ctx) (hltn : t.ltn = ltn) (hmid : ∀ m, t.mid = some m → m.steps = 0) :
    (s.stopSeatsOf ctx ltn ptn).seat ⟨ptn, core, k⟩ = .save { t with mid := none } ∧
      (core, { t with mid := none }) ∈ ((s.stopSeatsOf ctx ltn ptn).part ctx ltn).stopped := by
  have hseat : seatOf ptn (4 * core + k) = ⟨ptn, core, k⟩ := by
    simp only [seatOf, SeatId.mk.injEq, true_and]
    omega
  have hstop := (stopSeats_run (n := 4 * core + k) (hseat ▸ hrun) hctx hltn hmid 16).2 (by omega)
  rw [hseat, show (4 * core + k) / 4 = core by omega] at hstop
  exact hstop

theorem stopTile_tme (ctx ltn ptn : Nat) : (s.stopTile ctx ltn ptn).tme ctx ltn = ⟨.moving, ptn⟩ := by
  rw [State.stopTile, stopSeatsOf_eq]
  refine (foldl_keeps (fun u => u.tme ctx ltn) (fun u k => settleRot_tme ptn k ctx ltn) _ _).trans ?_
  exact (foldl_keeps (fun u => u.tme ctx ltn) (fun u n => stopSeat_tme ctx ltn ptn n ctx ltn) _ _).trans (tme_setTme_same ctx ltn _)

/-! ### A tile that is left -/

/-- A core's deque and its part's, as a core of a tile is left. -/
def State.leaveCore (s : State) (ctx ltn ptn k : Nat) : State :=
  let c := s.coreAt ptn k
  let x := s.partCore ctx ltn k
  (s.setPartCore ctx ltn k { x with
    deque := x.deque ++ (c.deque.filter fun e => e.1 = ctx).map (·.2), kept := x.kept + (c.reserved.filter fun r => r = ctx).length }).setCore ptn k
    { c with deque := c.deque.filter fun e => e.1 ≠ ctx, reserved := c.reserved.filter fun r => r ≠ ctx }

/-- A part whose windows are filled anew, the fills that are out forgotten. -/
def State.forgetFills (s : State) (ctx ltn : Nat) : State :=
  let a := s.part ctx ltn
  let s := s.setPart ctx ltn { a with windows := a.windows.map fun w => (w.1, w.2.refill) }
  { s with reqs := s.reqs.filter fun q => !(decide (q.ref.ctx = ctx) && decide (q.ref.ltn = ltn) && (match q.kind with
    | .fill .. => true
    | _ => false)) }

theorem leaveTile_eq (ctx ltn ptn : Nat) : s.leaveTile ctx ltn ptn =
    ((((List.range 4).foldl (fun u k => u.leaveCore ctx ltn ptn k) (s.forgetFills ctx ltn)).endSaves ctx ltn ptn).setTme ctx ltn ⟨.away, 0⟩) := rfl

theorem forgetFills_partCore (ctx ltn k : Nat) : (s.forgetFills ctx ltn).partCore ctx ltn k = s.partCore ctx ltn k := by
  change ((s.setPart ctx ltn _).part ctx ltn).core k = _
  rw [State.part_setPart_same]
  rfl

theorem forgetFills_coreAt (ctx ltn ptn k : Nat) : (s.forgetFills ctx ltn).coreAt ptn k = s.coreAt ptn k := rfl

theorem setSeat_deque (p : SeatId) (x : SeatState) (ptn k : Nat) : ((s.setSeat p x).coreAt ptn k).deque = (s.coreAt ptn k).deque := by
  by_cases h : ptn = p.ptn ∧ k = p.core
  · obtain ⟨rfl, rfl⟩ := h
    rw [State.setSeat, State.coreAt_setCore_same]
  · rw [State.setSeat, State.coreAt_setCore_other _ _ (not_and_or.mp h)]

/-- The deques of a core and of its part. -/
def State.deques (s : State) (ctx ltn ptn k : Nat) : List (Nat × Task) × List Task := ((s.coreAt ptn k).deque, (s.partCore ctx ltn k).deque)

theorem setTme_deques (c l : Nat) (t : Tme) (ctx ltn ptn k : Nat) : (s.setTme c l t).deques ctx ltn ptn k = s.deques ctx ltn ptn k := rfl

/-- Seats that leave SAVE change no deque. -/
theorem endSaves_deques (c l p ctx ltn ptn k : Nat) : (s.endSaves c l p).deques ctx ltn ptn k = s.deques ctx ltn ptn k := by
  rw [State.endSaves]
  refine foldl_keeps (fun u => u.deques ctx ltn ptn k) (fun u n => ?_) _ s
  dsimp only
  split
  · split
    · simp [State.deques, setSeat_deque]
    · rfl
  all_goals rfl

theorem leaveCore_same (ctx ltn ptn k : Nat) : (s.leaveCore ctx ltn ptn k).deques ctx ltn ptn k =
    ((s.coreAt ptn k).deque.filter (fun e => e.1 ≠ ctx),
      (s.partCore ctx ltn k).deque ++ ((s.coreAt ptn k).deque.filter fun e => e.1 = ctx).map (·.2)) := by
  simp [State.deques, State.leaveCore]

theorem leaveCore_other {ctx ltn ptn j k : Nat} (h : k ≠ j) : (s.leaveCore ctx ltn ptn j).deques ctx ltn ptn k = s.deques ctx ltn ptn k := by
  have hpart : ∀ x : PartCore, (s.setPartCore ctx ltn j x).partCore ctx ltn k = s.partCore ctx ltn k := fun x => by
    rw [State.partCore, State.setPartCore, State.part_setPart_same, Part.core_setCore_other _ _ h, State.partCore]
  simp [State.deques, State.leaveCore, State.coreAt_setCore_other _ _ (.inr h), hpart]

/-- A core of a tile that is left keeps its deque until its turn comes. -/
theorem leaveCores_deques (ctx ltn ptn k m : Nat) : ((List.range m).foldl (fun u k => u.leaveCore ctx ltn ptn k) s).deques ctx ltn ptn k =
    if k < m then (s.leaveCore ctx ltn ptn k).deques ctx ltn ptn k else s.deques ctx ltn ptn k := by
  induction m with
  | zero => rfl
  | succ m ih =>
    rw [List.range_succ, List.foldl_append, List.foldl_cons, List.foldl_nil]
    by_cases hk : k = m
    · subst hk
      rw [if_neg (Nat.lt_irrefl k)] at ih
      simp only [State.deques, Prod.mk.injEq] at ih
      rw [if_pos (Nat.lt_succ_self k), leaveCore_same, leaveCore_same, ih.1, ih.2]
    · rw [leaveCore_other hk, ih]
      simp only [show k < m + 1 ↔ k < m by omega]

theorem leaveTile_deques {ctx ltn ptn k : Nat} (hk : k < 4) : (s.leaveTile ctx ltn ptn).deques ctx ltn ptn k =
    ((s.coreAt ptn k).deque.filter (fun e => e.1 ≠ ctx),
      (s.partCore ctx ltn k).deque ++ ((s.coreAt ptn k).deque.filter fun e => e.1 = ctx).map (·.2)) := by
  rw [leaveTile_eq, setTme_deques, endSaves_deques, leaveCores_deques, if_pos hk, leaveCore_same, forgetFills_partCore, forgetFills_coreAt]

theorem leaveTile_tme (ctx ltn ptn : Nat) : (s.leaveTile ctx ltn ptn).tme ctx ltn = ⟨.away, 0⟩ :=
  tme_setTme_same ctx ltn _

/-! ### Seats that come back -/

/-- The entries of a core's ready queue of a part, and those that wait for a place, in their order. -/
def State.queued (s : State) (ctx ltn core : Nat) : List Ready := (s.partCore ctx ltn core).ready ++ (s.partCore ctx ltn core).late

theorem setPartCore_other_queued {ctx ltn core k : Nat} (x : PartCore) (h : core ≠ k) :
    (s.setPartCore ctx ltn k x).queued ctx ltn core = s.queued ctx ltn core := by
  have hpart : (s.setPartCore ctx ltn k x).partCore ctx ltn core = s.partCore ctx ltn core := by
    rw [State.partCore, State.setPartCore, State.part_setPart_same, Part.core_setCore_other _ _ h, State.partCore]
  rw [State.queued, hpart, State.queued]

/-- Entries beyond the room of a queue wait behind it. -/
theorem trimReady_queued (ctx ltn ptn k core : Nat) : (s.trimReady ctx ltn ptn k).queued ctx ltn core = s.queued ctx ltn core := by
  by_cases h : core = k
  · subst h
    simp [State.queued, State.trimReady, ← List.append_assoc]
  · exact setPartCore_other_queued _ h

/-- The last step of a resume on one core (R152, R154). -/
def State.trimCore (s : State) (ctx ltn ptn k : Nat) : State := (s.trimReady ctx ltn ptn k).settleRot ptn k

theorem trimCore_part (ctx ltn ptn k c l : Nat) : (s.trimCore ctx ltn ptn k).part c l = (s.trimReady ctx ltn ptn k).part c l := rfl

theorem trimCore_queued (ctx ltn ptn k core : Nat) : (s.trimCore ctx ltn ptn k).queued ctx ltn core = s.queued ctx ltn core := by
  rw [State.queued, State.partCore, trimCore_part]
  exact trimReady_queued ctx ltn ptn k core

theorem trimCore_stoppedOn (ctx ltn ptn k : Nat) : (s.trimCore ctx ltn ptn k).stoppedOn ctx ltn = s.stoppedOn ctx ltn := by
  rw [State.stoppedOn, trimCore_part]
  exact setPartCore_stoppedOn ctx ltn k _ ctx ltn

theorem trimCore_tme (ctx ltn ptn k : Nat) : (s.trimCore ctx ltn ptn k).tme ctx ltn = s.tme ctx ltn := by
  rw [State.trimCore, settleRot_tme, State.trimReady, State.setPartCore_at_tme]

/-- The ready entry of a threadlet that an eviction stopped. -/
def stoppedEntry (e : Nat × Threadlet) : Ready := ⟨e.2.frm, e.2.sig.toNat % 8, 0, e.2.sig, e.2.cls, some e.2, true⟩

/-- A stopped threadlet at the head of its core's queue. -/
def State.putBack (s : State) (ctx ltn : Nat) (e : Nat × Threadlet) : State :=
  s.setPartCore ctx ltn e.1 { s.partCore ctx ltn e.1 with ready := stoppedEntry e :: (s.partCore ctx ltn e.1).ready }

/-- The state of restoreSeats before the threadlets come back. -/
def State.unstop (s : State) (ctx ltn ptn : Nat) : State :=
  (s.setPart ctx ltn { s.part ctx ltn with stopped := [], image := none, imageBad := [] }).setTme ctx ltn ⟨.resident, ptn⟩

theorem restoreSeats_eq (ctx ltn ptn : Nat) : s.restoreSeats ctx ltn ptn =
    (List.range 4).foldl (fun u k => u.trimCore ctx ltn ptn k)
      ((s.stoppedOn ctx ltn).reverse.foldl (fun u e => u.putBack ctx ltn e) (s.unstop ctx ltn ptn)) := rfl

theorem putBack_tme (ctx ltn : Nat) (e : Nat × Threadlet) : (s.putBack ctx ltn e).tme ctx ltn = s.tme ctx ltn :=
  State.setPartCore_at_tme s ctx ltn e.1 _ ctx ltn

theorem putBack_stoppedOn (ctx ltn : Nat) (e : Nat × Threadlet) : (s.putBack ctx ltn e).stoppedOn ctx ltn = s.stoppedOn ctx ltn :=
  setPartCore_stoppedOn ctx ltn e.1 _ ctx ltn

theorem putBack_queued (ctx ltn core : Nat) (e : Nat × Threadlet) : (s.putBack ctx ltn e).queued ctx ltn core =
    if e.1 = core then stoppedEntry e :: s.queued ctx ltn core else s.queued ctx ltn core := by
  split
  next h =>
    subst h
    simp [State.queued, State.putBack]
  next h => exact setPartCore_other_queued _ fun e => h e.symm

/-- The threadlets that were stopped come back ahead of the others, in the order in which they stopped. -/
theorem putBack_all_queued (ctx ltn core : Nat) (l : List (Nat × Threadlet)) :
    (l.reverse.foldl (fun u e => u.putBack ctx ltn e) s).queued ctx ltn core =
      ((l.filter fun e => decide (e.1 = core)).map stoppedEntry) ++ s.queued ctx ltn core := by
  rw [List.foldl_reverse]
  induction l with
  | nil => rfl
  | cons e l ih =>
    rw [List.foldr_cons, putBack_queued, ih, List.filter_cons]
    by_cases h : e.1 = core <;> simp [h]

theorem restoreSeats_queued (ctx ltn ptn core : Nat) : (s.restoreSeats ctx ltn ptn).queued ctx ltn core =
    (((s.stoppedOn ctx ltn).filter fun e => decide (e.1 = core)).map stoppedEntry) ++ s.queued ctx ltn core := by
  have hunstop : (s.unstop ctx ltn ptn).queued ctx ltn core = s.queued ctx ltn core := by
    change ((s.setPart ctx ltn _).part ctx ltn |>.core core).ready ++ ((s.setPart ctx ltn _).part ctx ltn |>.core core).late = _
    rw [State.part_setPart_same]
    rfl
  rw [restoreSeats_eq]
  refine (foldl_keeps (fun u => u.queued ctx ltn core) (fun u k => trimCore_queued (s := u) ctx ltn ptn k core) _ _).trans ?_
  rw [putBack_all_queued, hunstop]

theorem restoreSeats_tme (ctx ltn ptn : Nat) : (s.restoreSeats ctx ltn ptn).tme ctx ltn = ⟨.resident, ptn⟩ := by
  rw [restoreSeats_eq]
  refine (foldl_keeps (fun u => u.tme ctx ltn) (fun u k => trimCore_tme (s := u) ctx ltn ptn k) _ _).trans ?_
  exact (foldl_keeps (fun u => u.tme ctx ltn) (fun u e => putBack_tme (s := u) ctx ltn e) _ _).trans (tme_setTme_same ctx ltn _)

theorem restoreSeats_stoppedOn (ctx ltn ptn : Nat) : (s.restoreSeats ctx ltn ptn).stoppedOn ctx ltn = [] := by
  rw [restoreSeats_eq]
  refine (foldl_keeps (fun u => u.stoppedOn ctx ltn) (fun u k => trimCore_stoppedOn (s := u) ctx ltn ptn k) _ _).trans ?_
  refine (foldl_keeps (fun u => u.stoppedOn ctx ltn) (fun u e => putBack_stoppedOn (s := u) ctx ltn e) _ _).trans ?_
  change ((s.setPart ctx ltn _).part ctx ltn).stopped = []
  rw [State.part_setPart_same]

end

section
variable {s : State}

/-! ## Saving a tile (R387) -/

section
variable {id ctx ltn : Nat} {q : Req} (hq : s.req id = some q) (hk : q.kind = .evict ctx ltn) (hp : q.performed = false)
include hq hk hp

theorem evictStep_ended (hst : (s.tme ctx ltn).st ≠ .moving) : s.evictStep id = s.answer id .refused [] := by
  cases q
  subst hk hp
  simp only [State.evictStep, hq]
  exact if_pos hst

theorem evictStep_moves (hst : (s.tme ctx ltn).st = .moving) (hmoves : (s.stopSeatsOf ctx ltn (s.tme ctx ltn).ptn).tileStill ctx ltn = false) :
    s.evictStep id = s.stopSeatsOf ctx ltn (s.tme ctx ltn).ptn := by
  cases q
  subst hk hp
  simp only [State.evictStep, hq]
  exact (if_neg fun h => h hst).trans (if_pos (by rw [hmoves]; rfl))

section
variable (hst : (s.tme ctx ltn).st = .moving) (hstill : (s.stopSeatsOf ctx ltn (s.tme ctx ltn).ptn).tileStill ctx ltn = true)
include hst hstill

theorem evictStep_saved {u : State} (hsave : ((s.stopSeatsOf ctx ltn (s.tme ctx ltn).ptn).layImage ctx ltn).saveTile ctx ltn = .ok u) :
    s.evictStep id = u.answer id .ok [] := by
  cases q
  subst hk hp
  simp only [State.evictStep, hq]
  refine (if_neg fun h => h hst).trans ((if_neg (by rw [hstill]; exact Bool.false_ne_true)).trans ?_)
  rw [hsave]

theorem evictStep_waits {m : Miss} (hsave : ((s.stopSeatsOf ctx ltn (s.tme ctx ltn).ptn).layImage ctx ltn).saveTile ctx ltn = .error (.wait m)) :
    s.evictStep id = ((s.stopSeatsOf ctx ltn (s.tme ctx ltn).ptn).layImage ctx ltn).service m 1 := by
  cases q
  subst hk hp
  simp only [State.evictStep, hq]
  refine (if_neg fun h => h hst).trans ((if_neg (by rw [hstill]; exact Bool.false_ne_true)).trans ?_)
  rw [hsave]

end
end

theorem writeTile_unmarked {d : Dev} {ltn : Nat} {h : BitVec 16777216} {u : State} (hbad : (s.part d.ctx ltn).imageBad = [])
    (hput : s.devPut d (s.tileImage d.ctx ltn) 2097152 (tileBytes h) = .ok u) : s.writeTile d ltn h = .ok u := by
  have hmarks : s.imageMarks d ltn = [] := by rw [State.imageMarks, hbad]; rfl
  rw [State.writeTile, hmarks]
  simp only [List.filterMap_nil, List.foldl_nil, hput, List.flatMap_nil]
  simp [Except.bind, State.farMarks, Except.map]

theorem saveTile_eq {ctx ltn ptn : Nat} {h : BitVec 16777216} {u : State} (hptn : s.ptnOf ctx ltn = some ptn)
    (him : (s.part ctx ltn).image = some h) (hw : s.writeTile ⟨ctx, ptnDie ptn, .tile ltn⟩ ltn h = .ok u) : s.saveTile ctx ltn =
      .ok (((u.leaveTile ctx ltn ptn).tileLeft ptn).residency 3 ctx (((((u.leaveTile ctx ltn ptn).tileLeft ptn).kernel ctx).map (·.queue)).getD 0)
        (((((u.leaveTile ctx ltn ptn).tileLeft ptn).kernel ctx).map (·.ridx)).getD 0) ltn) := by
  rw [State.saveTile, hptn, him]
  simp only [hw]
  rfl

end

/-! ## Restoring a tile (R388) -/

section
variable {s : State}

/-- The tile that a restore takes: the one that TSEL names, or the first, in the order of its numbers, on which the part may resume. -/
def State.restoreTile (s : State) (ctx ltn : Nat) (tsel : Word) (k : Kernel) : Option Nat :=
  if tsel.getLsbD 63 then
    (let p := tsel.toNat % 2 ^ 13
     if s.canResume ctx ltn p k then some p else none)
  else (((List.range 4096).map fun o => s.ptnAt (o % 64) (o / 64))).find? fun p => s.canResume ctx ltn p k

/-- The same as a rule. -/
def State.restoresAt (s : State) (ctx ltn : Nat) (tsel : Word) (k : Kernel) (p : Nat) : Prop :=
  (tsel.getLsbD 63 = true ∧ p = tsel.toNat % 2 ^ 13 ∧ s.canResume ctx ltn p k = true) ∨
    (tsel.getLsbD 63 = false ∧ ∃ o < 4096, p = s.ptnAt (o % 64) (o / 64) ∧ s.canResume ctx ltn p k = true ∧
      ∀ j < o, ¬ s.canResume ctx ltn (s.ptnAt (j % 64) (j / 64)) k = true)

/-- The first of the numbers below n whose image passes a test. -/
theorem find_map_range_eq_some {f : Nat → Nat} {ok : Nat → Bool} {n p : Nat} :
    ((List.range n).map f).find? ok = some p ↔ ∃ o < n, p = f o ∧ ok p = true ∧ ∀ j < o, ¬ ok (f j) = true := by
  rw [List.find?_map, Option.map_eq_some_iff]
  constructor
  · rintro ⟨o, ho, rfl⟩
    obtain ⟨hok, hmem, hbefore⟩ := List.find?_range_eq_some.mp ho
    exact ⟨o, List.mem_range.mp hmem, rfl, hok, fun j hj => by simpa using hbefore j hj⟩
  · rintro ⟨o, ho, rfl, hok, hbefore⟩
    exact ⟨o, List.find?_range_eq_some.mpr ⟨hok, List.mem_range.mpr ho, fun j hj => by simpa using hbefore j hj⟩, rfl⟩

theorem restoreTile_eq_some_iff {ctx ltn : Nat} {tsel : Word} {k : Kernel} {p : Nat} :
    s.restoreTile ctx ltn tsel k = some p ↔ s.restoresAt ctx ltn tsel k p := by
  cases hsel : tsel.getLsbD 63 with
  | true =>
    simp only [State.restoreTile, State.restoresAt, hsel, if_true, Option.ite_none_right_eq_some, Option.some.injEq]
    constructor
    · rintro ⟨hfits, rfl⟩
      exact .inl ⟨trivial, rfl, hfits⟩
    · rintro (⟨-, rfl, hfits⟩ | ⟨hno, -⟩)
      · exact ⟨hfits, rfl⟩
      · exact absurd hno.symm Bool.false_ne_true
  | false =>
    simp only [State.restoreTile, State.restoresAt, hsel, Bool.false_eq_true, if_false, find_map_range_eq_some]
    simp

theorem restoreTile_eq_none {ctx ltn : Nat} {tsel : Word} {k : Kernel} (h : ∀ p, ¬ s.restoresAt ctx ltn tsel k p) :
    s.restoreTile ctx ltn tsel k = none :=
  Option.eq_none_iff_forall_ne_some.mpr fun p hp => h p (restoreTile_eq_some_iff.mp hp)

/-- What a restore on a tile comes to, by whether the image stands as it was written. -/
def State.restoreOn (s : State) (ctx ltn p : Nat) (k : Kernel) : Except DevErr Bool → Except Miss (Status × State)
  | .error (.wait m) => .error m
  | .error e => .ok (.fault, s.devFail ⟨ctx, ptnDie p, .tile ltn⟩ e)
  | .ok false => .ok (.fault, s.devDone ⟨ctx, ptnDie p, .tile ltn⟩ (s.tileImage ctx ltn) 2097152)
  | .ok true =>
    match (s.devDone ⟨ctx, ptnDie p, .tile ltn⟩ (s.tileImage ctx ltn) 2097152).resumeTile ctx ltn p k with
    | some u => .ok (.ok, u)
    | none => .ok (.refused, s)

section
variable {ctx ltn : Nat} {tsel : Word} {k : Kernel} (haway : (s.tme ctx ltn).st = .away) (hk : s.kernel ctx = some k)
include haway hk

theorem evictRestore_nowhere (h : s.restoreTile ctx ltn tsel k = none) : s.evictRestore ctx ltn tsel = .ok (.refused, s) := by
  rw [State.evictRestore, if_neg fun h => h haway, hk]
  simp only
  rw [State.restoreTile] at h
  rw [h]

theorem evictRestore_at {p : Nat} {h : BitVec 16777216} (hat : s.restoreTile ctx ltn tsel k = some p) (him : (s.part ctx ltn).image = some h) :
    s.evictRestore ctx ltn tsel =
      s.restoreOn ctx ltn p k (s.imageStands ⟨ctx, ptnDie p, .tile ltn⟩ ltn h (s.part ctx ltn).imageBad) := by
  rw [State.evictRestore, if_neg fun h => h haway, hk]
  -- the check of the image is opaque from here on: the kernel would compute it over its 65,536 granules
  obtain ⟨stands, hstands⟩ : ∃ f, f = State.imageStands := ⟨_, rfl⟩
  rw [← hstands]
  simp only
  rw [State.restoreTile] at hat
  rw [hat, him]
  simp only
  cases stands s ⟨ctx, ptnDie p, .tile ltn⟩ ltn h (s.part ctx ltn).imageBad with
  | error e => cases e <;> rfl
  | ok b => cases b <;> rfl

end

section
variable {id ctx ltn : Nat} {tsel : Word} {q : Req} (hq : s.req id = some q) (hkind : q.kind = .restore ctx ltn tsel) (hp : q.performed = false)
include hq hkind hp

theorem restoreStep_ok {st : Status} {u : State} (h : s.evictRestore ctx ltn tsel = .ok (st, u)) : s.restoreStep id = u.answer id st [] := by
  cases q
  subst hkind hp
  simp only [State.restoreStep, hq, h]

theorem restoreStep_waits {m : Miss} (h : s.evictRestore ctx ltn tsel = .error m) : s.restoreStep id = s.service m 0 := by
  cases q
  subst hkind hp
  simp only [State.restoreStep, hq, h]

end

/-- A part resumes once its frames have found their storage. -/
theorem resumeTile_placed {ctx ltn ptn : Nat} {k : Kernel} {t : State} (h : s.resumeTile ctx ltn ptn k = some t) : ∃ placed : State,
    ((s.part ctx ltn).cores.foldl (init := some (s.setTme ctx ltn ⟨.resident, ptn⟩)) fun acc c =>
      acc.bind fun u => u.placeFrames ctx ltn c.1 ptn c.2.frames) = some placed ∧
    t = (((((((placed.installPart ctx ltn ptn ((s.spadRun ptn k.spUnits).getD 0)).replayKept ctx ltn).restoreReady ctx ltn ptn
      (s.part ctx ltn).cores).pumpWindows ctx ltn).engines ctx ltn).releaseHeld).pumpBars ctx).residency 4 ctx k.queue k.ridx ltn := by
  obtain ⟨placed, hplaced, ht⟩ := Option.map_eq_some_iff.mp h
  exact ⟨placed, hplaced, ht.symm⟩

end

/-! ## The statement -/

/-- Settles O40: the requests of the system instructions by their issue, and what each does by the equation of its step. -/
theorem systemInstructions : Obligations.SystemInstructions := by
  unfold Obligations.SystemInstructions
  refine ⟨?issue, ?does⟩
  case issue =>
    intro s t g fk tk d x y q
    refine ⟨?halt, ?sysr, ?sysw, ?fres, ?tlbi, ?tmap, ?save, ?restore, ?dloctl⟩
    case halt =>
      rintro i rfl h hflags hcode
      exact exec_halt h hflags hcode
    case sysr =>
      rintro i rfl h hc
      exact exec_sysr h hc
    case sysw =>
      rintro i rfl h hc
      exact exec_sysw h hc
    case fres =>
      rintro i rfl h hx hy
      exact exec_fres h hx hy
    case tlbi =>
      rintro i rfl h hx
      exact exec_tlbi h hx
    case tmap =>
      rintro i rfl h hx
      exact ⟨exec_tmap_refused h hx, exec_tmap_holds h hx⟩
    case save =>
      rintro i rfl h hx
      refine ⟨fun hno => ?_, fun hno => ?_⟩
      · have hexec := exec_evictSave h hx rfl rfl hno
        rwa [if_pos rfl] at hexec
      · have hexec := exec_evictSave h hx rfl rfl hno
        rwa [if_neg Bool.false_ne_true] at hexec
    case restore =>
      rintro i rfl h hx
      refine ⟨fun hno => ?_, fun hno => ?_⟩
      · have hexec := exec_evictRestore h hx rfl rfl hno
        rwa [if_pos rfl] at hexec
      · have hexec := exec_evictRestore h hx rfl rfl hno
        rwa [if_neg Bool.false_ne_true] at hexec
    case dloctl =>
      rintro i rfl h hx hy
      exact exec_dloctl h hx hy
  case does =>
    intro s id q hq
    refine ⟨?fres, fun r f hf => ⟨killFrame_eq hf, closeTrap_eq hf⟩, insertResume_split, ?tlbi,
      fun h x hb => ⟨releaseOne_system hb, heldReady_system hb⟩,
      fun ctx ltn ptn => ⟨stopTile_tme ctx ltn ptn, fun core k t hcore hk hrun hctx hltn hmid => stopSeatsOf_run hcore hk hrun hctx hltn hmid⟩,
      ?save, ?saved, ?restore, fun ctx ltn ptn k t h => resumeTile_placed h,
      fun ctx ltn ptn core => ⟨restoreSeats_tme ctx ltn ptn, restoreSeats_stoppedOn ctx ltn ptn, ?seats⟩⟩
    case fres =>
      intro fk c n bs hk d a num cont r kept good hr
      refine ⟨fun hbad => fresStep_of_fres hq hk (fres_refused hr hbad), fun s1 hgood hw => ⟨?kill, fun hne hseat => ?close, fun hne hseat => ?resume⟩⟩
      case kill =>
        rintro rfl
        exact fresStep_of_fres hq hk (fres_kill hr hgood hw)
      case close => exact fresStep_of_fres hq hk (fres_close hr hgood hw hne hseat)
      case resume => exact fresStep_of_fres hq hk (fres_resume hr hgood hw hne hseat)
    case tlbi =>
      intro kind c va drop used
      exact ⟨_, s.tlbiHeld q kind c va, tlbiStart_eq q kind c va, mem_tlbi_kept kind c va, rfl, rfl, rfl, mem_tlbiHeld_perf q kind c va,
        mem_tlbiHeld_acks q kind c va⟩
    case save =>
      intro ctx ltn hk hp s1 s2
      exact ⟨evictStep_ended hq hk hp, evictStep_moves hq hk hp, fun hst hstill => ⟨fun s3 hsave => evictStep_saved hq hk hp hst hstill hsave,
        fun m hsave => evictStep_waits hq hk hp hst hstill hsave⟩⟩
    case saved =>
      intro ctx ltn ptn h hptn him d a
      refine ⟨fun u hbad hput => writeTile_unmarked hbad hput, fun u hw => saveTile_eq hptn him hw, leaveTile_tme ctx ltn ptn, fun k hk => ?_⟩
      have hdeques := leaveTile_deques (s := s) (ctx := ctx) (ltn := ltn) (ptn := ptn) hk
      simp only [State.deques, Prod.mk.injEq] at hdeques
      exact hdeques
    case restore =>
      intro ctx ltn tsel k h hk hp haway hkernel him fits at_ here
      refine ⟨fun hno => restoreStep_ok hq hk hp (evictRestore_nowhere haway hkernel (restoreTile_eq_none hno)), fun p hp' => ?_⟩
      have hat := evictRestore_at haway hkernel (restoreTile_eq_some_iff.mpr hp') him
      refine ⟨fun t hstands hu => restoreStep_ok hq hk hp (hat.trans ?_), fun hstands => restoreStep_ok hq hk hp (hat.trans ?_),
        fun m hstands => restoreStep_waits hq hk hp (hat.trans ?_)⟩
      · rw [hstands, State.restoreOn, hu]
      · rw [hstands, State.restoreOn]
      · rw [hstands, State.restoreOn]
    case seats =>
      exact (restoreSeats_queued ctx ltn ptn core).trans (List.append_assoc _ _ _).symm

end Sys2Proof.Machine
end
